-- ==== Sys2Proof/Word.lean ====
section
/-! DEFINITION. The word types of the block and the plainest arithmetic on them (R10, R11, R14). -/

namespace Sys2Proof

/-- A byte, the smallest addressable unit (R11). -/
abbrev Byte := BitVec 8

/-- A 32-bit word: a register, a tile container, a descriptor word. -/
abbrev Word := BitVec 32

/-- A 64-bit word: a scalar register, an IOVA, a sequence number. -/
abbrev DWord := BitVec 64

/-- Bits `[lo + len - 1 : lo]` of a number (R10). -/
def bitsOf (x lo len : Nat) : Nat := (x >>> lo) % 2 ^ len

/-- Bit `[i]` of a number. -/
def bitOf (x i : Nat) : Bool := (x >>> i) % 2 == 1

/-- A Boolean as a one-bit number. -/
def bit (b : Bool) : Nat := if b then 1 else 0

/-- The two's-complement reading of the low `w` bits of a number. -/
def toSigned (w x : Nat) : Int :=
  let y := x % 2 ^ w
  if 2 * y < 2 ^ w then (y : Int) else (y : Int) - (2 ^ w : Nat)

/-- The low `w` bits of an integer, as a number. -/
def ofSigned (w : Nat) (x : Int) : Nat := (x % ((2 ^ w : Nat) : Int)).toNat

/-- `ceil (a / b)`, the rounding up the manual writes `ceil(a ÷ b)`. -/
def ceilDiv (a b : Nat) : Nat := (a + b - 1) / b

/-- The little-endian number of a byte list (R11). -/
def ofBytes : List Byte → Nat
  | [] => 0
  | b :: bs => b.toNat + 256 * ofBytes bs

/-- The `n` little-endian bytes of a number (R11). -/
def toBytes : Nat → Nat → List Byte
  | 0, _ => []
  | n + 1, x => BitVec.ofNat 8 x :: toBytes n (x / 256)

/-- The numbers `0 … n - 1`, in increasing order (R14: loops run in increasing index order). -/
abbrev upTo (n : Nat) : List Nat := List.range n

/-- The `n` numbers from `a` on. -/
def fromTo (a n : Nat) : List Nat := (List.range n).map (a + ·)

/-- Replaces entry `i` of a list by `f` of it; a list too short is left alone. -/
def modifyAt {α : Type} (l : List α) (i : Nat) (f : α → α) : List α := l.modify i f

end Sys2Proof
end

