-- ==== Sys2Proof/Syntax.lean ====
section
/-! DEFINITION. The commands: one constructor for each row of spec/opcode_table.json, in the table's order.
The table gives no fields; the operands are what the rows' rules in spec/ speak of. -/

namespace Sys2Proof

/-- Who waits on a buoy when its watchdog expires (R83). -/
inductive Waiter where
  | stream
  | lantern (ln : Fin 4)
  | tender (ch : Fin 128)
  /-- The oldest arrival of a mooring that waits. -/
  | mooring (mo : Fin 64)
  deriving DecidableEq, Repr

/-- A port group (R438). -/
inductive PortId where
  | sys
  | sb
  | mem (n : Fin 24)
  | fp (n : Fin 4)
  | ring (n : Fin 8)
  deriving DecidableEq, Repr

/-- An error that a checker of R391 detects: unit kind, reason, physical and logical unit by R397, and the
Osura address it names. -/
structure Detected where
  kind : Byte
  reason : Byte
  phys : Byte
  logical : Byte
  addr : Word
  deriving DecidableEq, Repr

/-- The block's commands. A `Word` named `value` is the word a SYS write carries. A ring packet is its eight
header words and its payload; arrival port 8 is the loopback path of R332. -/
inductive Instr where
  | bundleIssue
  | bundleFetch
  | streamWindowService
  | prodCount (buoy : Fin 256)
  | fenceComplete
  | endComplete
  | cbEntryTimeout (pc : Fin 34) (word : BitVec 24)
  | osuraAsyncServe (sec : Fin 64)
  | scrubRequest (sec : Fin 64)
  | asyncShareApply
  | farSettingsApply
  | sectorFillDone (sec : Fin 64)
  | sectorCloseDrained (sec : Fin 64)
  | darkenTimeout (sec : Fin 64)
  | sectorBistDone (psec : Fin 68) (pass : Bool)
  | bistCmd (value : Word)
  | buoyDrainEnd (buoy : Fin 256)
  | buoyWatchdog (who : Waiter)
  | buoySel (value : Word)
  | doorbellWrite (ring : Fin 3) (value : Word)
  | descriptorFetch (ring : Fin 3)
  | launch
  | keeperPause
  | keeperResume
  | transferStart
  | memRequestIssue (port : Fin 24)
  | memReadResponse (port : Fin 24) (tag : BitVec 11) (status : BitVec 2) (data : List Byte)
  | memWriteAck (port : Fin 24) (tag : BitVec 9) (status : BitVec 2)
  | memTimeout (port : Fin 24) (isWrite : Bool) (tag : BitVec 11)
  | transferComplete (ch : Fin 128)
  | tdResume (ch : Fin 128)
  | tdAbort (ch : Fin 128)
  | light
  | darken
  | moor
  | arm
  | free
  | load
  | start
  | mark
  | release
  | pause
  | resume
  | abort
  | tdcmd
  | eclipse
  | token
  | note
  | loadTakeEffect (ln : Fin 4)
  | productAnnounce (ln : Fin 4)
  | operandRequest (ln : Fin 4) (hdr : Word)
  /-- The RHDR of half 0, or `none` where a half 1 comes alone (R450), the RHDR of half 1, and the beat's values. -/
  | resultBeat (ln : Fin 4) (hdr0 : Option Word) (hdr1 : Word) (data : List Word)
  | tailPassStart (ln : Fin 4)
  | relayStallTimeout (ln : Fin 4)
  | productComplete (ln : Fin 4)
  | fpAbortAck (ln : Fin 4)
  | fpAbortTimeout (ln : Fin 4)
  | data (port : Fin 9) (hdr : List Word) (payload : List Byte)
  | credit (port : Fin 9) (hdr : List Word) (payload : List Byte)
  | ack (port : Fin 9) (hdr : List Word) (payload : List Byte)
  | nak (port : Fin 9) (hdr : List Word) (payload : List Byte)
  | pktMark (port : Fin 9) (hdr : List Word) (payload : List Byte)
  | pktSeal (port : Fin 9) (hdr : List Word) (payload : List Byte)
  | closed (port : Fin 9) (hdr : List Word) (payload : List Byte)
  | mabort (port : Fin 9) (hdr : List Word) (payload : List Byte)
  | pktHold (port : Fin 9) (hdr : List Word) (payload : List Byte)
  | pktRelease (port : Fin 9) (hdr : List Word) (payload : List Byte)
  | mreq (port : Fin 9) (hdr : List Word) (payload : List Byte)
  | packetForward (port : Fin 8) (hdr : List Word) (payload : List Byte)
  | packetSend (port : Fin 8)
  | ringCreditReturn (port : Fin 8) (cls : BitVec 2) (count : BitVec 4)
  | linkDown (port : Fin 8)
  | ringAbortAck (port : Fin 8)
  | sendWatchdog (ch : Fin 128)
  | markTimeout
  | markWaitTimeout
  | epochTimer
  | closeCapture
  | closeComplete
  | logMirrorGranule
  | logEnable (value : Word)
  | logDisable (value : Word)
  | restoreDirty
  | restoreFull
  | restoreComplete
  | faultSequencerStart (found : Option Detected)
  | spareBistDone (pc : Fin 34) (pass : Bool)
  | fltUnfence (value : Word)
  | foghornStart
  | foghornEnd
  | throttleRelease
  | coreDivSwitch
  | brownOut
  | powerOnReset
  | porRelease
  | blockReset
  | blockResetRelease
  | clusterBistDone (failed : BitVec 34)
  | daymarkWord (word : Word) (last : Bool)
  | sbPowerAnswer (dom : BitVec 7) (fail : Bool)
  | sbPowerTimeout (dom : BitVec 7)
  | sbWake
  | eclipseEntry
  | eclipseWake
  | eventRecordWrite
  | eringHeadWrite (value : Word)
  | sysResponse (tag : BitVec 5) (status : BitVec 2) (data : List Byte)
  | sysTimeout (tag : BitVec 5)
  | ringEnable (ring : Fin 4) (value : Word)
  | workNextseqLo (value : Word)
  | moSel (value : Word)
  | engFlagsWrite (value : Word)
  | bcastWrite (window : Fin 9) (offset : BitVec 12) (value : Word)
  | bcastRead (window : Fin 9) (offset : BitVec 12)
  | counterRead (addr : BitVec 20)
  | counterClear (value : Word)
  | traceRestart (value : Word)
  /-- WS_BYPASS, loaded by its code 0 or by one of the codes 0x4 to 0xF, which act as it does (R512). -/
  | wsBypass
  | wsExtest
  | wsIntest
  | dmRead
  | wrstnFall
  | registerWrite (addr : BitVec 20) (value : Word)
  | linkUpRise (port : Fin 8)
  | ringAbortTimeout (port : Fin 8)
  | brownOutRelease
  | abortAckFall (port : PortId)
  | reservedKindArrival (port : Fin 9) (hdr : List Word) (payload : List Byte)
  | inboundFramingViolation (port : Fin 8)
  | validLowered (port : PortId)
  deriving DecidableEq, Repr

end Sys2Proof
end

