-- ==== Sys2Proof/Machine/Num.lean ====
section
/-! DEFINITION. Number formats, exact values, rounding and conversion
(spec/06_number_formats.md R144 to R166 and spec/09_generation_profiles.md R230 to R235). -/

namespace Sys2Proof.Machine

/-- The numeric profiles of R224. -/
inductive Profile where
  | h1 | h2 | h3
  deriving DecidableEq, Repr

/-- The profile of a 2-bit field; `0b00` is reserved (R224). -/
def Profile.ofCode : Nat → Option Profile
  | 1 => some .h1
  | 2 => some .h2
  | 3 => some .h3
  | _ => none

def Profile.code : Profile → Nat
  | .h1 => 1
  | .h2 => 2
  | .h3 => 3

/-- The element formats of R144. -/
inductive Fmt where
  | fp32 | fp16 | bf16 | f8a | f8b | f4
  | int32 | uint32 | int16 | int8 | uint8 | int4 | uint4
  deriving DecidableEq, Repr

/-- The 5-bit format codes of R144. -/
def Fmt.ofCode : Nat → Option Fmt
  | 0x00 => some .fp32
  | 0x01 => some .fp16
  | 0x02 => some .bf16
  | 0x03 => some .f8a
  | 0x04 => some .f8b
  | 0x05 => some .f4
  | 0x08 => some .int32
  | 0x09 => some .uint32
  | 0x0A => some .int16
  | 0x0B => some .int8
  | 0x0C => some .uint8
  | 0x0D => some .int4
  | 0x0E => some .uint4
  | _ => none

def Fmt.code : Fmt → Nat
  | .fp32 => 0x00
  | .fp16 => 0x01
  | .bf16 => 0x02
  | .f8a => 0x03
  | .f8b => 0x04
  | .f4 => 0x05
  | .int32 => 0x08
  | .uint32 => 0x09
  | .int16 => 0x0A
  | .int8 => 0x0B
  | .uint8 => 0x0C
  | .int4 => 0x0D
  | .uint4 => 0x0E

/-- Element width in bits (R121). -/
def Fmt.width : Fmt → Nat
  | .fp32 | .int32 | .uint32 => 32
  | .fp16 | .bf16 | .int16 => 16
  | .f8a | .f8b | .int8 | .uint8 => 8
  | .f4 | .int4 | .uint4 => 4

/-- Elements per 32-bit container, `p` of R121. -/
def Fmt.pack (f : Fmt) : Nat := 32 / f.width

def Fmt.isFloat : Fmt → Bool
  | .fp32 | .fp16 | .bf16 | .f8a | .f8b | .f4 => true
  | _ => false

def Fmt.isInt (f : Fmt) : Bool := !f.isFloat

def Fmt.isSigned : Fmt → Bool
  | .int32 | .int16 | .int8 | .int4 => true
  | _ => false

/-- The signed integer format of a format's width, which a compare writes (R190). -/
def Fmt.signedOfWidth (f : Fmt) : Fmt :=
  match f.width with
  | 32 => .int32
  | 16 => .int16
  | 8 => .int8
  | _ => .int4

/-- The short floating-point formats with block scales (R148, R149). -/
def Fmt.isShort : Fmt → Bool
  | .f8a | .f8b | .f4 => true
  | _ => false

/-- The IEEE 754 formats of R146. -/
def Fmt.isIeee : Fmt → Bool
  | .fp32 | .fp16 | .bf16 => true
  | _ => false

/-- Which formats a profile accepts (R145). -/
def Profile.accepts : Profile → Fmt → Bool
  | .h1, .f8a | .h1, .f8b | .h1, .f4 | .h2, .f8b | .h2, .f4 => false
  | _, _ => true

/-- Fraction bits of a floating-point format (R146, R148, R149). -/
def Fmt.fracBits : Fmt → Nat
  | .fp32 => 23
  | .fp16 => 10
  | .bf16 => 7
  | .f8a => 3
  | .f8b => 2
  | _ => 1

def Fmt.expBits : Fmt → Nat
  | .fp32 | .bf16 => 8
  | .fp16 | .f8b => 5
  | .f8a => 4
  | _ => 2

def Fmt.bias : Fmt → Nat
  | .fp32 | .bf16 => 127
  | .fp16 | .f8b => 15
  | .f8a => 7
  | _ => 1

/-- Code of the largest finite magnitude (R146, R148, R149). -/
def Fmt.maxCode : Fmt → Nat
  | .fp32 => 0x7F7FFFFF
  | .fp16 => 0x7BFF
  | .bf16 => 0x7F7F
  | .f8a | .f8b => 0x7F
  | _ => 0x7

/-- Code of +infinity of an IEEE format (R146). -/
def Fmt.infCode (f : Fmt) : Nat := (2 ^ f.expBits - 1) * 2 ^ f.fracBits

def Fmt.signBit (f : Fmt) : Nat := 2 ^ (f.width - 1)

/-- The positive canonical NaN (R146), 0x80 in F8a and F8b (R148), +0 in F4, which has no NaN (R149, R160). -/
def Fmt.canonNan : Fmt → Nat
  | .fp32 => 0x7FC00000
  | .fp16 => 0x7E00
  | .bf16 => 0x7FC0
  | .f8a | .f8b => 0x80
  | _ => 0

/-- Exponent of the smallest normal magnitude. -/
def Fmt.emin (f : Fmt) : Int := 1 - (f.bias : Int)

/-! ### Sticky flags (R197) -/

/-- A set of sticky flags in the bit order of R205: NV, DZ, OF, UF, NX. -/
abbrev FlagSet := BitVec 5

def flagNone : FlagSet := 0#5
def flagNV : FlagSet := 1#5
def flagDZ : FlagSet := 2#5
def flagOF : FlagSet := 4#5
def flagUF : FlagSet := 8#5
def flagNX : FlagSet := 16#5

/-! ### Exact values -/

/-- What a floating-point code stands for: a NaN with its quiet bit, an infinity, or `(-1)^neg × m × 2^e`. -/
inductive FVal where
  | nan (signaling : Bool)
  | inf (neg : Bool)
  | fin (neg : Bool) (m : Nat) (e : Int)
  deriving DecidableEq, Repr

/-- The value of a floating-point code (R146, R148, R149). -/
def decodeFloat (f : Fmt) (c : Nat) : FVal :=
  let neg := bitOf c (f.width - 1)
  let mag := c % f.signBit
  let fb := f.fracBits
  let ex := mag / 2 ^ fb
  let fr := mag % 2 ^ fb
  let fin := if ex = 0 then FVal.fin neg fr (f.emin - fb)
    else FVal.fin neg (fr + 2 ^ fb) ((ex : Int) - f.bias - fb)
  match f with
  | .f8a | .f8b => if c % 256 = 0x80 then .nan false else fin
  | .f4 => fin
  | _ =>
    if ex = 2 ^ f.expBits - 1 then
      if fr = 0 then .inf neg else .nan (!bitOf fr (fb - 1))
    else fin

/-- The exact integer an integer code stands for, by the format's signedness (R155, R156). -/
def decodeInt (f : Fmt) (c : Nat) : Int :=
  if f.isSigned then toSigned f.width c else ((c % 2 ^ f.width : Nat) : Int)

def Fmt.intMin (f : Fmt) : Int := if f.isSigned then -((2 ^ (f.width - 1) : Nat) : Int) else 0

def Fmt.intMax (f : Fmt) : Int :=
  if f.isSigned then ((2 ^ (f.width - 1) : Nat) : Int) - 1 else ((2 ^ f.width : Nat) : Int) - 1

/-- Clamps to a format's range and gives the code (R163, R189). -/
def satInt (f : Fmt) (x : Int) : Nat := ofSigned f.width (max f.intMin (min f.intMax x))

/-- Keeps the low bits (R163, R189). -/
def wrapInt (f : Fmt) (x : Int) : Nat := ofSigned f.width x

/-- Writes an integer result under SAT (R189). -/
def putInt (f : Fmt) (sat : Bool) (x : Int) : Nat := if sat then satInt f x else wrapInt f x

def FVal.isNan : FVal → Bool
  | .nan _ => true
  | _ => false

def FVal.isSnan : FVal → Bool
  | .nan s => s
  | _ => false

/-- Is the code a NaN of its format; integer codes are none. -/
def isNanCode (f : Fmt) (c : Nat) : Bool := f.isFloat && (decodeFloat f c).isNan

/-- A subnormal of its format (R230). -/
def isSubnormal (f : Fmt) (c : Nat) : Bool :=
  let mag := c % f.signBit
  mag != 0 && mag < 2 ^ f.fracBits && !(decodeFloat f c).isNan

/-- Zero with the sign of a code; F8a and F8b have one zero (R148, R230). -/
def zeroLike (f : Fmt) (neg : Bool) : Nat :=
  match f with
  | .f8a | .f8b => 0
  | _ => if neg then f.signBit else 0

/-- H1 flushes a subnormal operand of a computed result or a comparing operation (R230, R231). -/
def flushIn (p : Profile) (f : Fmt) (c : Nat) : Nat :=
  if p = .h1 && f.isFloat && isSubnormal f c then zeroLike f (bitOf c (f.width - 1)) else c

/-- An exact value on its way to a destination: an infinity, or `(-1)^neg × (m + ε) × 2^e` with
`0 < ε < 1` exactly when `sticky` holds. A sticky value is always formed with many more bits than a
destination keeps, so ε decides ties and inexactness only. -/
inductive XVal where
  | inf (neg : Bool)
  | fin (neg : Bool) (m : Nat) (e : Int) (sticky : Bool)
  deriving DecidableEq, Repr

/-! ### Rounding (R157, R158, R165) -/

/-- Rounding modes of R157; `sr` holds the element's random word (R164). -/
inductive Rnd where
  | rne | rtz | rdn | rup
  | sr (draw : Nat)
  deriving DecidableEq, Repr

/-- `m × 2^e` in units of `2^q`: integer part and the discarded fraction as `(r, d)`, worth `r / 2^d`. -/
def splitAt (m : Nat) (e q : Int) : Nat × Nat × Nat :=
  if q ≤ e then (m <<< (e - q).toNat, 0, 0)
  else
    let d := (q - e).toNat
    (m >>> d, m % 2 ^ d, d)

/-- Does the magnitude step up to the next neighbour (R157, R165)? -/
def roundsUp (rnd : Rnd) (neg : Bool) (n r d : Nat) (sticky : Bool) : Bool :=
  let inexact := r != 0 || sticky
  match rnd with
  | .rne => 2 * r > 2 ^ d || (2 * r == 2 ^ d && d != 0 && (sticky || n % 2 == 1))
  | .rtz => false
  | .rdn => neg && inexact
  | .rup => !neg && inexact
  | .sr draw => draw < (r <<< 32) / 2 ^ d

/-- Rounds a magnitude to a multiple of `2^q`; answers the multiple and whether it is inexact. -/
def roundAt (rnd : Rnd) (neg : Bool) (m : Nat) (e q : Int) (sticky : Bool) : Nat × Bool :=
  let (n, r, d) := splitAt m e q
  (n + bit (roundsUp rnd neg n r d sticky), r != 0 || sticky)

/-- The mode in force: every rounding to BF16 in profile H1 is RTZ (R235). -/
def modeFor (p : Profile) (f : Fmt) (rnd : Rnd) : Rnd :=
  if p = .h1 && f = .bf16 then .rtz else rnd

/-- Do profiles H1 and H2 flush results of this format (R230, R232)? -/
def flushesOut (p : Profile) (f : Fmt) : Bool := p != .h3 && f != .f8b && f != .f4

/-- Is an overflow one to infinity under the mode (R160)? -/
def overflowsToInf (rnd : Rnd) (neg : Bool) : Bool :=
  match rnd with
  | .rne | .sr _ => true
  | .rtz => false
  | .rdn => neg
  | .rup => !neg

def withSign (f : Fmt) (neg : Bool) (c : Nat) : Nat := if neg then f.signBit + c else c

/-- An infinite source or result mapped to a destination (R160), without its flags. -/
def infTo (f : Fmt) (sat neg : Bool) : Nat :=
  match f with
  | .f8a | .f8b => if sat then withSign f neg f.maxCode else 0x80
  | .f4 => withSign f neg f.maxCode
  | _ => withSign f neg f.infCode

/-- The delivered code of an overflow (R160). -/
def overflowTo (f : Fmt) (rnd : Rnd) (sat neg : Bool) : Nat :=
  if overflowsToInf rnd neg && !sat then infTo f false neg else withSign f neg f.maxCode

/-- Tininess of R158: after rounding with an unbounded exponent, the magnitude lies below the smallest
normal of the format. -/
def isTiny (f : Fmt) (rnd : Rnd) (neg : Bool) (m : Nat) (e : Int) (sticky : Bool) : Bool :=
  let lead : Int := (Nat.log2 m : Int) + e
  if lead < f.emin then
    let q := lead - f.fracBits
    decide ((roundAt rnd neg m e q sticky).1 < 2 ^ (f.emin - q).toNat)
  else false

/-- Rounds a nonzero finite exact value to a floating-point format and delivers the code with its
flags: R158, overflow by R160, flush by R232. -/
def roundFloat (p : Profile) (f : Fmt) (rnd0 : Rnd) (sat neg : Bool) (m : Nat) (e : Int)
    (sticky : Bool) : Nat × FlagSet :=
  let rnd := modeFor p f rnd0
  let fb : Int := f.fracBits
  let lead : Int := (Nat.log2 m : Int) + e
  let qmin := f.emin - fb
  let q := max (lead - fb) qmin
  let (n, inexact) := roundAt rnd neg m e q sticky
  let tiny := isTiny f rnd neg m e sticky
  let c := (q - qmin).toNat * 2 ^ f.fracBits + n
  if tiny && flushesOut p f then (zeroLike f neg, flagUF ||| flagNX)
  else if c > f.maxCode then (overflowTo f rnd sat neg, flagOF ||| flagNX)
  else
    let fl := (if inexact then flagNX else flagNone) ||| (if tiny && inexact then flagUF else flagNone)
    if n = 0 then (zeroLike f neg, fl) else (withSign f neg c, fl)

/-- Rounds a finite exact value to an integer format (R162). -/
def roundInt (f : Fmt) (rnd : Rnd) (neg : Bool) (m : Nat) (e : Int) (sticky : Bool) : Nat × FlagSet :=
  let (n, inexact) := roundAt rnd neg m e 0 sticky
  let v : Int := if neg then -(n : Int) else n
  if v < f.intMin || v > f.intMax then (satInt f v, flagNV)
  else (wrapInt f v, if inexact then flagNX else flagNone)

/-- Delivers an exact value to a destination format (R158, R160, R162). DEDUCED: notes/assumptions/13.md. -/
def deliver (p : Profile) (f : Fmt) (rnd : Rnd) (sat : Bool) : XVal → Nat × FlagSet
  | .inf neg =>
    if f.isInt then (if neg then satInt f f.intMin else satInt f f.intMax, flagNV)
    else (infTo f sat neg, if f.isIeee then flagNone else flagNV)
  | .fin neg m e sticky =>
    if m = 0 && !sticky then (if f.isInt then 0 else zeroLike f neg, flagNone)
    else if f.isInt then roundInt f rnd neg m e sticky
    else roundFloat p f rnd sat neg m e sticky

/-! ### NaN results (R147, R161, R234) -/

/-- A NaN operand's code converted to a destination by the profile's rule; F4 and integer
destinations receive zero. -/
def nanTo (p : Profile) (src dst : Fmt) (c : Nat) : Nat :=
  if dst.isInt || dst = .f4 then 0
  else if !dst.isIeee then 0x80
  else if !src.isIeee then dst.canonNan
  else
    let neg := bitOf c (src.width - 1)
    match p with
    | .h1 => dst.canonNan
    | .h2 => withSign dst neg dst.canonNan
    | .h3 =>
      let fr := c % 2 ^ src.fracBits
      let fr' := if dst.fracBits ≤ src.fracBits then fr >>> (src.fracBits - dst.fracBits)
        else fr <<< (dst.fracBits - src.fracBits)
      let quiet := 2 ^ (dst.fracBits - 1)
      withSign dst neg (dst.infCode + (fr' % quiet + quiet))

/-- The flag of a NaN that reaches a destination: NV for a signaling NaN, and always where the
destination has no NaN (R160, R162). -/
def nanFlag (dst : Fmt) (signaling : Bool) : FlagSet :=
  if signaling || dst.isInt || dst = .f4 then flagNV else flagNone

/-- An operand with its format. -/
structure Operand where
  fmt : Fmt
  code : Nat
  deriving DecidableEq, Repr

def Operand.val (o : Operand) : FVal :=
  if o.fmt.isFloat then decodeFloat o.fmt o.code
  else let i := decodeInt o.fmt o.code; .fin (decide (i < 0)) i.natAbs 0

def Operand.isNan (o : Operand) : Bool := isNanCode o.fmt o.code

def Operand.isSnan (o : Operand) : Bool := o.fmt.isFloat && (decodeFloat o.fmt o.code).isSnan

def Operand.flush (p : Profile) (o : Operand) : Operand := ⟨o.fmt, flushIn p o.fmt o.code⟩

/-- If some operand is a NaN: the result by the first of them (R169, R234), with NV for a signaling
NaN among them. -/
def nanResult? (p : Profile) (dst : Fmt) (ops : List Operand) : Option (Nat × FlagSet) :=
  match ops.find? Operand.isNan with
  | none => none
  | some o => some (nanTo p o.fmt dst o.code, nanFlag dst (ops.any Operand.isSnan))

/-- The result of an invalid operation without a NaN operand (R147, R170). -/
def invalidResult (dst : Fmt) : Nat × FlagSet := (dst.canonNan, flagNV)

/-! ### Conversions (R159 to R163) -/

/-- An F8b code beyond FP16's range, which becomes ±∞ there on every path (R159). -/
def beyondFp16 (src dst : Fmt) (c : Nat) : Bool :=
  src = .f8b && dst = .fp16 && bitsOf c 2 5 = 31 && !(decodeFloat src c).isNan

/-- Converts one element between any two formats under a profile, mode and SAT; F8a to F8b, which the table of
R159 does not list, rounds by R158. DEDUCED: notes/assumptions/13.md. -/
def convert (p : Profile) (src dst : Fmt) (rnd : Rnd) (sat : Bool) (c0 : Nat) : Nat × FlagSet :=
  if src.isInt then
    let i := decodeInt src c0
    if dst.isInt then (putInt dst sat i, flagNone)
    else deliver p dst rnd sat (.fin (decide (i < 0)) i.natAbs 0 false)
  else
    let c := flushIn p src c0
    match decodeFloat src c with
    | .nan s => (nanTo p src dst c, nanFlag dst s)
    | .inf neg => deliver p dst rnd sat (.inf neg)
    | .fin neg m e =>
      if beyondFp16 src dst c then (withSign .fp16 neg Fmt.fp16.infCode, flagOF ||| flagNX)
      else deliver p dst rnd sat (.fin neg m e false)

/-! ### Exact arithmetic -/

/-- Signed mantissa of a finite value. -/
def signedM (neg : Bool) (m : Nat) : Int := if neg then -(m : Int) else m

/-- Exact product; `none` is the invalid `0 × ∞`. -/
def mulX : FVal → FVal → Option XVal
  | .inf n, .fin n' m _ | .fin n' m _, .inf n => if m = 0 then none else some (.inf (n != n'))
  | .inf n, .inf n' => some (.inf (n != n'))
  | .fin n m e, .fin n' m' e' => some (.fin (n != n') (m * m') (e + e') false)
  | _, _ => none

/-- Exact sum of two exact values without sticky parts; `none` is `∞ − ∞`. A zero sum takes its sign
by IEEE 754 (R172): both addends' common sign, so that (+0) + (+0) is +0 under RDN too, else −0 under RDN and +0
otherwise. DEDUCED: notes/assumptions/13.md. RDN is the instruction's, into BF16 in H1 as well, where the value itself
rounds by RTZ (R235): DESIGN CHOICE: notes/assumptions/13.md. -/
def addX (rnd : Rnd) : XVal → XVal → Option XVal
  | .inf n, .inf n' => if n = n' then some (.inf n) else none
  | .inf n, _ => some (.inf n)
  | _, .inf n => some (.inf n)
  | .fin n m e _, .fin n' m' e' _ =>
    let q := min e e'
    let s := signedM n (m <<< (e - q).toNat) + signedM n' (m' <<< (e' - q).toNat)
    if s = 0 then
      let neg := if m = 0 && m' = 0 && n == n' then n else decide (rnd = .rdn)
      some (.fin neg 0 q false)
    else some (.fin (decide (s < 0)) s.natAbs q false)

def FVal.toX : FVal → XVal
  | .inf n => .inf n
  | .fin n m e => .fin n m e false
  | .nan _ => .fin false 0 0 false

def FVal.negate : FVal → FVal
  | .nan s => .nan s
  | .inf n => .inf (!n)
  | .fin n m e => .fin (!n) m e

/-- Compares finite exact values: the sign of `x − y`. -/
def cmpFin (n : Bool) (m : Nat) (e : Int) (n' : Bool) (m' : Nat) (e' : Int) : Int :=
  let q := min e e'
  signedM n (m <<< (e - q).toNat) - signedM n' (m' <<< (e' - q).toNat)

/-- Is `x < y` by value, with infinities, `−0 = +0`; NaN compares false. -/
def ltVal : FVal → FVal → Bool
  | .inf n, .inf n' => n && !n'
  | .inf n, .fin .. => n
  | .fin .., .inf n => !n
  | .fin n m e, .fin n' m' e' => cmpFin n m e n' m' e' < 0
  | _, _ => false

/-- Is `x = y` by value, with `−0 = +0`; NaN compares false. -/
def eqVal : FVal → FVal → Bool
  | .inf n, .inf n' => n == n'
  | .fin n m e, .fin n' m' e' => cmpFin n m e n' m' e' == 0
  | _, _ => false

def FVal.isZero : FVal → Bool
  | .fin _ m _ => m == 0
  | _ => false

def FVal.neg? : FVal → Bool
  | .inf n => n
  | .fin n _ _ => n
  | .nan _ => false

/-! ### The hash of R164 -/

/-- `sr_bits` of R164. -/
def srBits (seed idx : Nat) : Nat :=
  let w := 2 ^ 32
  let k0 := seed % w
  let k1 := (seed / w) % w
  let x := (idx % w) ^^^ k0
  let x := x ^^^ (x >>> 16)
  let x := (x * 0x7FEB352D) % w
  let x := (x + k1) % w
  let x := x ^^^ (x >>> 15)
  let x := (x * 0x846CA68B) % w
  x ^^^ (x >>> 16)

/-- The element index of R164: logical cluster, tile row, element column. -/
def elemIdx (c r j : Nat) : Nat := c * 2 ^ 15 + r * 2 ^ 9 + j

/-! ### Block scales (R150 to R153) -/

/-- Decodes a block-scaled element under an E8 scale (R152). -/
def blockDecode (p : Profile) (src dst : Fmt) (scale c0 : Nat) : Nat × FlagSet :=
  let c := flushIn p src c0
  match decodeFloat src c with
  | .nan _ => (nanTo p src dst c, flagNone)
  | .inf neg => deliver p dst .rne false (.inf neg)
  | .fin neg m e =>
    if scale = 0xFF then (dst.canonNan, flagNone)
    else deliver p dst .rne false (.fin neg m (e + (scale : Int) - 127) false)

/-- `emax` of R153. -/
def Fmt.emax : Fmt → Int
  | .f8a => 8
  | .f8b => 16
  | _ => 2

/-- The E8 scale of a block whose largest magnitude is `a` (R153 steps 1 to 3, R178). -/
def blockScale (p : Profile) (f : Fmt) (a0 : Nat) : Nat × FlagSet :=
  match decodeFloat .fp32 (flushIn p .fp32 a0) with
  | .nan _ | .inf _ => (0xFF, flagNV)
  | .fin _ m e =>
    if m = 0 then (0, flagNone)
    else
      let s := (Nat.log2 m : Int) + e - f.emax + 127
      ((max 0 (min 254 s)).toNat, flagNone)

/-- Encodes one FP32 element under a given E8 scale (R153 step 4, R179); a −0 element is converted as any other
is, to 0x8 in F4. DEDUCED: notes/assumptions/13.md. -/
def blockEncode (p : Profile) (f : Fmt) (rnd : Rnd) (scale a0 : Nat) : Nat × FlagSet :=
  if scale = 0xFF then (0, flagNone)
  else
    match decodeFloat .fp32 (flushIn p .fp32 a0) with
    | .nan s => (f.canonNan, nanFlag f s)
    | .inf neg => deliver p f rnd true (.inf neg)
    | .fin neg m e =>
      let (c, fl) := deliver p f rnd true (.fin neg m (e + 127 - (scale : Int)) false)
      (c, if fl &&& flagOF != 0#5 then flagNX else fl)

/-- The largest magnitude of a block as an FP32 code, or a NaN or infinity of it if it holds one (R153). -/
def blockMax (p : Profile) (xs : List Nat) : Nat :=
  xs.foldl (fun acc x =>
    let m := flushIn p .fp32 x % 2 ^ 31
    if acc < m then m else acc) 0

/-- Encodes a block: its scale and its element codes, by R153; a block with a NaN or an infinity has
scale 0xFF and zero codes. -/
def blockEncodeAll (p : Profile) (f : Fmt) (rnd : Rnd) (xs : List Nat) : Nat × List Nat :=
  let s := (blockScale p f (blockMax p xs)).1
  (s, if blockMax p xs = 0 then xs.map (fun _ => 0) else xs.map (fun x => (blockEncode p f rnd s x).1))

/-! ### FP32 steps used by trees and chains (R183, R253) -/

/-- One FP32 addition with its NaN rule (R169, R233). -/
def f32Add (p : Profile) (rnd : Rnd) (sat : Bool) (a0 b0 : Nat) : Nat × FlagSet :=
  let a := flushIn p .fp32 a0
  let b := flushIn p .fp32 b0
  match nanResult? p .fp32 [⟨.fp32, a⟩, ⟨.fp32, b⟩] with
  | some r => r
  | none =>
    match addX rnd (decodeFloat .fp32 a).toX (decodeFloat .fp32 b).toX with
    | none => invalidResult .fp32
    | some x => deliver p .fp32 rnd sat x

/-- `A × B + C` fused with one rounding, operands in one format (R172). -/
def fmaElem (p : Profile) (src dst : Fmt) (rnd : Rnd) (sat negProd negC : Bool) (a0 b0 c0 : Nat) :
    Nat × FlagSet :=
  let a := flushIn p src a0
  let b := flushIn p src b0
  let c := flushIn p src c0
  match nanResult? p dst [⟨src, a⟩, ⟨src, b⟩, ⟨src, c⟩] with
  | some (code, fl) =>
    -- 0 × ∞ with a quiet NaN C raises nothing; with NaN elsewhere it is no invalid product (R172)
    (code, fl)
  | none =>
    let va := decodeFloat src a
    let va := if negProd then va.negate else va
    let vc := decodeFloat src c
    let vc := if negC then vc.negate else vc
    match mulX va (decodeFloat src b) with
    | none => invalidResult dst
    | some prod =>
      match addX rnd prod vc.toX with
      | none => invalidResult dst
      | some x => deliver p dst rnd sat x

/-- `A × B` with one rounding. -/
def mulElem (p : Profile) (src dst : Fmt) (rnd : Rnd) (sat : Bool) (a0 b0 : Nat) : Nat × FlagSet :=
  let a := flushIn p src a0
  let b := flushIn p src b0
  match nanResult? p dst [⟨src, a⟩, ⟨src, b⟩] with
  | some r => r
  | none =>
    match mulX (decodeFloat src a) (decodeFloat src b) with
    | none => invalidResult dst
    | some x => deliver p dst rnd sat x

/-- `A + B` or, with `sub`, `A − B`, with one rounding. -/
def addElem (p : Profile) (src dst : Fmt) (rnd : Rnd) (sat sub : Bool) (a0 b0 : Nat) : Nat × FlagSet :=
  let a := flushIn p src a0
  let b := flushIn p src b0
  match nanResult? p dst [⟨src, a⟩, ⟨src, b⟩] with
  | some r => r
  | none =>
    let vb := decodeFloat src b
    let vb := if sub then vb.negate else vb
    match addX rnd (decodeFloat src a).toX vb.toX with
    | none => invalidResult dst
    | some x => deliver p dst rnd sat x

/-- MAX or MIN of R173: one operand unchanged; `+0` above `−0`. -/
def maxElem (p : Profile) (f : Fmt) (isMin : Bool) (a0 b0 : Nat) : Nat × FlagSet :=
  let a := flushIn p f a0
  let b := flushIn p f b0
  match nanResult? p f [⟨f, a⟩, ⟨f, b⟩] with
  | some r => r
  | none =>
    let va := decodeFloat f a
    let vb := decodeFloat f b
    let bGreater := ltVal va vb || (va.isZero && vb.isZero && va.neg? && !vb.neg?)
    let aGreater := ltVal vb va || (va.isZero && vb.isZero && vb.neg? && !va.neg?)
    (if isMin then (if aGreater then b else a) else (if bGreater then b else a), flagNone)

end Sys2Proof.Machine
end

