-- ==== Sys2Proof/Machine/Flags.lean ====
section
/-! DEFINITION. Sticky flags: how sets of flags are raised, merged and cleared (R197, R198, R205). -/

namespace Sys2Proof.Machine

/-- Raises flags. -/
def raise (old new : FlagSet) : FlagSet := old ||| new

/-- A write of 1 clears a flag; a flag set in the same control cycle stays set because commands follow
one another (R198, R205). -/
def clearFlags (old : FlagSet) (written : Nat) : FlagSet := old &&& ~~~(BitVec.ofNat 5 written)

/-- The OR of many flag sets: ENG_FLAGS and a broadcast read of CL_FLAGS (R198, R205). -/
def orFlags (fs : List FlagSet) : FlagSet := fs.foldl (· ||| ·) flagNone

end Sys2Proof.Machine
end

