-- ==== Sys2Proof/Machine/Sparse.lean ====
section
/-! DEFINITION. Sparse stores in one canonical form: a list of (key, value) pairs, keys strictly rising,
no entry equal to what an unlisted key reads as. Osura's bytes (R34, R35), its check bytes (R37), tile
containers (R120) and every numbered register file are held this way, so equal contents are equal data. -/

namespace Sys2Proof.Machine

variable {α : Type}

/-- A sparse store. Osura's is a `List Host.Cell`. -/
abbrev Sparse (α : Type) := List (Nat × α)

/-- What a key reads as; `d` is what an unlisted key reads as. -/
def sget (d : α) : Sparse α → Nat → α
  | [], _ => d
  | (k, v) :: m, a => if k = a then v else if a < k then d else sget d m a

/-- Drops a key. -/
def serase : Sparse α → Nat → Sparse α
  | [], _ => []
  | (k, v) :: m, a => if k = a then m else if a < k then (k, v) :: m else (k, v) :: serase m a

/-- Puts an entry at a key, keeping keys rising. -/
def sput : Sparse α → Nat → α → Sparse α
  | [], a, x => [(a, x)]
  | (k, v) :: m, a, x =>
    if k = a then (a, x) :: m else if a < k then (a, x) :: (k, v) :: m else (k, v) :: sput m a x

/-- Writes a key, keeping the canonical form. -/
def sset [DecidableEq α] (d : α) (m : Sparse α) (a : Nat) (x : α) : Sparse α :=
  if x = d then serase m a else sput m a x

/-- Writes many keys, in order. -/
def ssetAll [DecidableEq α] (d : α) (m : Sparse α) (xs : List (Nat × α)) : Sparse α :=
  xs.foldl (fun m x => sset d m x.1 x.2) m

/-- Changes the value at a key. -/
def smod [DecidableEq α] (d : α) (m : Sparse α) (a : Nat) (f : α → α) : Sparse α :=
  sset d m a (f (sget d m a))

/-- Drops every key of `[lo, hi)`. -/
def seraseRange (m : Sparse α) (lo hi : Nat) : Sparse α :=
  m.filter (fun x => x.1 < lo || hi ≤ x.1)

/-- Keys strictly rising. -/
def risingFrom : Nat → Sparse α → Bool
  | _, [] => true
  | b, (k, _) :: m => b ≤ k && risingFrom (k + 1) m

/-- The canonical form: keys strictly rising, no entry equal to the default. -/
def swf [DecidableEq α] (d : α) (m : Sparse α) : Bool :=
  risingFrom 0 m && m.all (fun x => decide (x.2 ≠ d))

end Sys2Proof.Machine
end

