-- ==== Sys2Proof/Machine/Operands.lean ====
section
/-! DEFINITION. Slot layouts, operand forms, shape tags and the packing of elements into containers
(R93, R94, R96, R121 to R129, R168). -/

namespace Sys2Proof.Machine

/-! ### Slot layouts -/

/-- The layout shared by FMA0, FMA1, SFU, INT and SWP (R93). -/
structure VSlot where
  op : Nat
  td : Nat
  ta : Nat
  tb : Nat
  tc : Nat
  rows : Nat
  cols : Nat
  fmt : Nat
  msel : Nat
  men : Bool
  rnd : Nat
  sat : Bool
  bc : Nat
  mod : Nat
  imm : Nat
  deriving DecidableEq, Repr

def VSlot.ofBits (x : Nat) : VSlot where
  op := bitsOf x 0 8
  td := bitsOf x 8 4
  ta := bitsOf x 12 4
  tb := bitsOf x 16 4
  tc := bitsOf x 20 4
  rows := bitsOf x 24 6
  cols := bitsOf x 30 9
  fmt := bitsOf x 39 5
  msel := bitsOf x 44 3
  men := bitOf x 47
  rnd := bitsOf x 48 3
  sat := bitOf x 51
  bc := bitsOf x 52 6
  mod := bitsOf x 58 6
  imm := bitsOf x 64 32

/-- Row count R = ROWS + 1. -/
def VSlot.r (f : VSlot) : Nat := f.rows + 1
/-- Column count N = COLS + 1. -/
def VSlot.n (f : VSlot) : Nat := f.cols + 1

/-- The layout of MOV0 and MOV1 (R94). -/
structure MovSlot where
  op : Nat
  tile : Nat
  rows : Nat
  cols : Nat
  tfmt : Nat
  mfmt : Nat
  sbase : Nat
  off : Nat
  rstride : Nat
  rel : Bool
  msel : Nat
  men : Bool
  far : Bool
  ben : Bool
  buoy : Nat
  rsvd : Bool
  deriving DecidableEq, Repr

def MovSlot.ofBits (x : Nat) : MovSlot where
  op := bitsOf x 0 8
  tile := bitsOf x 8 4
  rows := bitsOf x 12 6
  cols := bitsOf x 18 9
  tfmt := bitsOf x 27 5
  mfmt := bitsOf x 32 5
  sbase := bitsOf x 37 5
  off := bitsOf x 42 22
  rstride := bitsOf x 64 16
  rel := bitOf x 80
  msel := bitsOf x 81 3
  men := bitOf x 84
  far := bitOf x 85
  ben := bitOf x 86
  buoy := bitsOf x 87 8
  rsvd := bitOf x 95

/-- The layout of the CTL slot (R96). -/
structure CtlSlot where
  op : Nat
  sd : Nat
  sa : Nat
  sb : Nat
  immsel : Bool
  x : Nat
  imm : Nat
  deriving DecidableEq, Repr

def CtlSlot.ofBits (v : Nat) : CtlSlot where
  op := bitsOf v 0 8
  sd := bitsOf v 8 5
  sa := bitsOf v 13 5
  sb := bitsOf v 18 5
  immsel := bitOf v 23
  x := bitsOf v 24 8
  imm := bitsOf v 32 64

/-! ### Containers and elements -/

/-- Key of container (r, c) of tile t in a cluster: `t × 4096 + r × 64 + c` (R120). -/
def tileKey (t r c : Nat) : Nat := t * 4096 + r * 64 + c

/-- The lane that holds container (r, c): its mask bit and its number within the cluster (R120, R128). -/
def laneOf (r c : Nat) : Nat := (r % 8) * 32 + c % 32

/-- Element j of a row given by its containers (R121). -/
def elemOf (f : Fmt) (cell : Nat → Nat) (j : Nat) : Nat :=
  bitsOf (cell (j / f.pack)) (f.width * (j % f.pack)) f.width

/-- Packs element codes, element 0 lowest (R121). -/
def packElems (w : Nat) : List Nat → Nat
  | [] => 0
  | x :: xs => x % 2 ^ w + 2 ^ w * packElems w xs

/-! ### Shape tags (R125, R126) -/

/-- A tile register's shape tag. -/
structure Tag where
  rows : Nat
  cols : Nat
  fmt : Fmt
  deriving DecidableEq, Repr

/-- Which tag formats a source accepts. -/
inductive SrcFmt where
  | is (f : Fmt)
  | anyInt
  | intOf (w : Nat)
  | anyOf (w : Nat)
  | floatOf (w : Nat)
  | short
  | any
  deriving DecidableEq, Repr

def SrcFmt.accepts : SrcFmt → Fmt → Bool
  | .is f, g => f == g
  | .anyInt, g => g.isInt
  | .intOf w, g => g.isInt && g.width == w
  | .anyOf w, g => g.width == w
  | .floatOf w, g => g.isFloat && g.width == w
  | .short, g => g.isShort
  | .any, _ => true

/-- A source tile of an operation: what its tag must be, and how it is read. -/
structure TileSrc where
  tile : Nat
  rows : Option Nat
  cols : Option Nat
  fmt : SrcFmt
  rowB : Bool
  colB : Bool
  deriving DecidableEq, Repr

/-- The check of R126 on one source. -/
def TileSrc.tagOk (s : TileSrc) (tags : Nat → Option Tag) : Bool :=
  match tags s.tile with
  | none => false
  | some t =>
    (match s.rows with
      | none => true
      | some r => t.rows == r) &&
    (match s.cols with
      | none => true
      | some c => t.cols == c) && s.fmt.accepts t.fmt

/-- A source read under its BC bits: pair 0 is A, 1 is B, 2 is C (R93, R126). -/
def bcSrc (f : VSlot) (pair tile rows cols : Nat) (fmt : SrcFmt) : TileSrc :=
  let rb := bitOf f.bc (2 * pair)
  let cb := bitOf f.bc (2 * pair + 1)
  ⟨tile, some (if rb then 1 else rows), some (if cb then 1 else cols), fmt, rb, cb⟩

/-- A source without broadcast and with a shape of its own. -/
def plainSrc (tile : Nat) (rows cols : Option Nat) (fmt : SrcFmt) : TileSrc :=
  ⟨tile, rows, cols, fmt, false, false⟩

/-- Are the BC bits of the sources not read zero (R126)? `pairs` lists the sources read. -/
def bcUnusedZero (f : VSlot) (pairs : List Nat) : Bool :=
  (upTo 3).all (fun i => pairs.contains i || bitsOf f.bc (2 * i) 2 == 0)

/-- Operand B of a "B" operation (R168). -/
inductive OperB where
  | tile (s : TileSrc)
  | imm (code : Nat)
  | scal (reg : Nat)
  deriving DecidableEq, Repr

/-- Decodes MOD[1:0] and its field rules; `none` is E_ENCODING (R168). -/
def operB (f : VSlot) (fmt : SrcFmt) (w : Nat) : Option OperB :=
  if f.mod / 4 != 0 then none
  else
    match f.mod % 4 with
    | 0 => some (.tile (bcSrc f 1 f.tb f.r f.n fmt))
    | 1 => if f.tb == 0 && bitsOf f.bc 2 2 == 0 && f.imm / 2 ^ w == 0 then some (.imm f.imm) else none
    | 2 => if f.tb == 0 && bitsOf f.bc 2 2 == 0 && f.imm / 32 == 0 then some (.scal f.imm) else none
    | _ => none

def OperB.tiles : OperB → List TileSrc
  | .tile s => [s]
  | _ => []

def OperB.scals : OperB → List Nat
  | .scal n => [n]
  | _ => []

/-! ### What an operation sees and gives -/

/-- What a vector or Sweep operation reads: the profile, LCCOUNT, scalars, tile containers (logical
cluster, key), masks (logical cluster, number) and tags, as they stand at issue (R98, R245). -/
structure VCtx where
  prof : Profile
  k : Nat
  scal : Nat → Nat
  cell : Nat → Nat → Nat
  mask : Nat → Nat → Nat
  tag : Nat → Option Tag

/-- One result element: its code, its flags and whether a NaN stood among the elements read for it. -/
structure ElemOut where
  code : Nat
  fl : FlagSet
  nanIn : Bool
  deriving DecidableEq, Repr

/-- Element (r, j) of a source of cluster C under its broadcast (R127), in the tag's format. -/
def VCtx.src (c : VCtx) (cl : Nat) (s : TileSrc) (r j : Nat) : Operand :=
  match c.tag s.tile with
  | none => ⟨.int32, 0⟩
  | some t =>
    let r := if s.rowB then 0 else r
    let j := if s.colB then 0 else j
    ⟨t.fmt, elemOf t.fmt (fun cc => c.cell cl (tileKey s.tile r cc)) j⟩

/-- Operand B of a "B" operation; a constant is read in `fmt` (R168). -/
def VCtx.opB (c : VCtx) (cl : Nat) (fmt : Fmt) (b : OperB) (r j : Nat) : Operand :=
  match b with
  | .tile s => c.src cl s r j
  | .imm code => ⟨fmt, code⟩
  | .scal n => ⟨fmt, c.scal n % 2 ^ fmt.width⟩

/-- Is lane `i` of cluster `cl` enabled (R129)? -/
def VCtx.enabled (c : VCtx) (men : Bool) (msel cl i : Nat) : Bool := !men || bitOf (c.mask cl msel) i

/-- A NaN code of a format that the NaN trap checks (R199). DEDUCED: notes/assumptions/12.md. -/
def trapsNan (f : Fmt) (c : Nat) : Bool := f != .f4 && isNanCode f c

/-- A checked NaN result for the trap record (R202). -/
structure NanHit where
  cluster : Nat
  row : Nat
  col : Nat
  /-- Elements per container of its tile. -/
  pack : Nat
  born : Bool
  deriving DecidableEq, Repr

/-- What an instruction writes into one logical cluster: containers, the flags of its elements by row and column, and
the NaNs that a trap checks. -/
structure ClusterOut where
  cells : List (Nat × Nat)
  fls : List (Nat × Nat × FlagSet)
  nans : List NanHit
  deriving DecidableEq, Repr

/-- Writes rows `0 … rows-1` and whole containers of a result into a tile of one cluster; positions past
the last column are zero (R123), gated lanes are unchanged and raise nothing (R129). -/
def putTile (td rows cols : Nat) (fmt : Fmt) (en : Nat → Bool) (cl : Nat) (out : Nat → Nat → ElemOut) :
    ClusterOut :=
  let p := fmt.pack
  let w := ceilDiv cols p
  let one (r c : Nat) : ClusterOut :=
    if en (laneOf r c) then
      let js := (fromTo (c * p) p).filter (· < cols)
      let es := js.map (fun j => (j, out r j))
      ⟨[(tileKey td r c, packElems fmt.width (es.map (fun e => e.2.code)))],
        (es.filter (fun e => e.2.fl != flagNone)).map (fun e => (r, e.1, e.2.fl)),
        (es.filter (fun e => trapsNan fmt e.2.code)).map (fun e => ⟨cl, r, e.1, p, !e.2.nanIn⟩)⟩
    else ⟨[], [], []⟩
  let all := (upTo rows).flatMap (fun r => (upTo w).map (one r))
  ⟨all.flatMap (·.cells), all.flatMap (·.fls), all.flatMap (·.nans)⟩

/-- The rounding mode of RND for an element; SR draws by R164. -/
def rndOf (code seed idx : Nat) : Rnd :=
  match code with
  | 1 => .rtz
  | 2 => .rdn
  | 3 => .rup
  | 4 => .sr (srBits seed idx)
  | _ => .rne

/-- A valid RND code: 0 to 3, and 4 in profile H3 (R93, R238). -/
def rndOk (p : Profile) (code : Nat) : Bool := code ≤ 3 || (code == 4 && p == .h3)

/-- A format code that the profile accepts (R92, R145). -/
def fmtIn (p : Profile) (code : Nat) : Option Fmt :=
  match Fmt.ofCode code with
  | some f => if p.accepts f then some f else none
  | none => none

end Sys2Proof.Machine
end

