-- ==== Sys2Proof/Machine/Sfu.lean ====
section
/-! DEFINITION. The exact function recipes of the SFU (spec/08_exact_functions.md R206 to R221) and its
catalogue (R187). The tables of R208 are formed from their defining functions with 256-bit fixed-point
reals; a result needs at most 30 fraction bits of a coefficient. -/

namespace Sys2Proof.Machine

/-- The SFU operations of R187 but NOP. -/
inductive SfuOp where
  | exp2 | exp | log2 | rcp | sqrt | rsqrt | sint | cost | tanh | sigm | gelu | silu | softp
  deriving DecidableEq, Repr

def SfuOp.ofCode : Nat → Option SfuOp
  | 0x01 => some .exp2
  | 0x02 => some .exp
  | 0x03 => some .log2
  | 0x04 => some .rcp
  | 0x05 => some .sqrt
  | 0x06 => some .rsqrt
  | 0x07 => some .sint
  | 0x08 => some .cost
  | 0x09 => some .tanh
  | 0x0A => some .sigm
  | 0x0B => some .gelu
  | 0x0C => some .silu
  | 0x0D => some .softp
  | _ => none

/-- Recipe parameter k of R207. -/
def Profile.tableBits : Profile → Nat
  | .h1 => 5
  | .h2 => 6
  | .h3 => 7

/-- Recipe parameter d of R207. -/
def Profile.degree : Profile → Nat
  | .h1 => 3
  | .h2 => 4
  | .h3 => 5

/-- Recipe parameter F of R207. -/
def Profile.fixBits : Profile → Nat
  | .h1 => 26
  | .h2 => 28
  | .h3 => 30

/-! ### Fixed-point reals: an integer in units of `2^-256` -/

def fixP : Nat := 256
def fixOne : Int := (2 ^ fixP : Nat)

def fixMul (a b : Int) : Int := a * b / fixOne

/-- `rna (x × 2^f)` of a fixed-point real: nearest, ties away from zero (R208). -/
def fixRna (f : Nat) (x : Int) : Int :=
  let n := (x.natAbs + 2 ^ (fixP - f - 1)) / 2 ^ (fixP - f)
  if x < 0 then -(n : Int) else n

/-- `Σ x^(2i+1) / (2i+1)` for `x = 1/q`, from the term `t = x^(2i+1)` on. -/
def atanhSum (q2 : Nat) : Nat → Nat → Nat → Nat
  | 0, _, _ => 0
  | n + 1, d, t => t / d + atanhSum q2 n (d + 2) (t / q2)

/-- `ln 2 = 2 artanh (1/3)`. -/
def fixLn2 : Int := 2 * (atanhSum 9 96 1 (2 ^ fixP / 3) : Nat)

/-- Alternating form of the same sum: `arctan (1/q)`. -/
def atanSum (q2 : Nat) : Nat → Nat → Int → Int
  | 0, _, _ => 0
  | n + 1, d, t => t / (d : Int) - atanSum q2 n (d + 2) (t / (q2 : Int))

/-- `π = 16 arctan (1/5) − 4 arctan (1/239)`. -/
def fixPi : Int :=
  16 * atanSum 25 64 1 (fixOne / 5) - 4 * atanSum 57121 20 1 (fixOne / 239)

/-- `Σ x^i / i!` from term `t = x^i / i!` on. -/
def expSum (x : Int) : Nat → Nat → Int → Int
  | 0, _, _ => 0
  | n + 1, i, t => t + expSum x n (i + 1) (fixMul t x / ((i : Int) + 1))

/-- `e^x` for `0 ≤ x < 1`. -/
def fixExp (x : Int) : Int := expSum x 64 0 fixOne

/-- Integer square root, one result bit a step. -/
def isqrtGo (n : Nat) : Nat → Nat → Nat
  | 0, r => r
  | b + 1, r =>
    let r' := r + 2 ^ b
    isqrtGo n b (if r' * r' ≤ n then r' else r)

/-- `floor (√n)` for `n < 2^(2 bits)`. -/
def isqrt (bits n : Nat) : Nat := isqrtGo n bits 0

/-- Square root of a fixed-point real below 64. -/
def fixSqrt (x : Int) : Int := (isqrt (fixP + 3) (x.toNat * 2 ^ fixP) : Nat)

def fixDiv (a b : Int) : Int := a * fixOne / b

/-- `ln (1 + w)` for `-1/4 ≤ w ≤ 1/2` by the artanh series of `s = w / (2 + w)`. -/
def lnSum (s2 : Int) : Nat → Nat → Int → Int
  | 0, _, _ => 0
  | n + 1, d, t => t / (d : Int) + lnSum s2 n (d + 2) (fixMul t s2)

def fixLn1p (w : Int) : Int :=
  let s := fixDiv w (2 * fixOne + w)
  2 * lnSum (fixMul s s) 64 1 s

/-- Taylor terms `x^i / i!` of cosine and sine: `Σ (-1)^i x^(2i+o) / (2i+o)!`. -/
def trigSum (x2 : Int) : Nat → Nat → Int → Int
  | 0, _, _ => 0
  | n + 1, o, t => t - trigSum x2 n (o + 2) (fixMul t x2 / (((o + 1) * (o + 2) : Nat) : Int))

def fixSin (x : Int) : Int := trigSum (fixMul x x) 40 1 x
def fixCos (x : Int) : Int := trigSum (fixMul x x) 40 0 fixOne

/-! ### The tables (R207, R208) -/

/-- The eight tables of R207. -/
inductive SfuTable where
  | exp2 | log | rcp | sq0 | sq1 | rs0 | rs1 | sin
  deriving DecidableEq, Repr

/-- Centre `x_j` of piece j, as a fixed-point real (R208). -/
def pieceCentre (k j : Nat) : Int := ((2 * j + 1) * 2 ^ (fixP - k - 1) : Nat)

/-- `a_i = a_(i-1) × mul i`, from `a` on. -/
def recurCoeffs (mul : Nat → Int → Int) : Nat → Nat → Int → List Int
  | 0, _, _ => []
  | n + 1, i, a => a :: recurCoeffs mul n (i + 1) (mul (i + 1) a)

/-- From Taylor coefficients of `g` to those of `g(w) / w` at `w0`: `w0 f_i + f_(i-1) = g_i`. -/
def quotCoeffs (w0 : Int) : List Int → Int → List Int
  | [], _ => []
  | g :: gs, prev =>
    let f := fixDiv (g - prev) w0
    f :: quotCoeffs w0 gs f

/-- Taylor coefficients `G^(i)(x_j) / i!` for `i = 0 … d` (R207, R208). -/
def taylor (t : SfuTable) (d : Nat) (x : Int) : List Int :=
  let y := fixOne + x
  match t with
  | .exp2 => recurCoeffs (fun i a => fixMul a fixLn2 / (i : Int)) (d + 1) 0 (fixExp (fixMul x fixLn2))
  | .rcp => recurCoeffs (fun _ a => -(fixDiv a y)) (d + 1) 0 (fixDiv fixOne y)
  | .sq0 => recurCoeffs (fun i a => fixDiv (a * (3 - 2 * (i : Int))) (2 * (i : Int) * y)) (d + 1) 0 (fixSqrt y)
  | .sq1 => recurCoeffs (fun i a => fixDiv (a * (3 - 2 * (i : Int))) (2 * (i : Int) * y)) (d + 1) 0 (fixSqrt (2 * y))
  | .rs0 => recurCoeffs (fun i a => fixDiv (a * (1 - 2 * (i : Int))) (2 * (i : Int) * y)) (d + 1) 0 (fixDiv fixOne (fixSqrt y))
  | .rs1 => recurCoeffs (fun i a => fixDiv (a * (1 - 2 * (i : Int))) (2 * (i : Int) * y)) (d + 1) 0 (fixDiv fixOne (fixSqrt (2 * y)))
  | .log =>
    let w := x - fixOne / 2
    let z := fixOne + w
    let slopes := recurCoeffs (fun _ a => -(fixDiv a z)) d 1 (fixDiv fixOne z)
    let gs := fixLn1p w :: slopes.zipIdx.map (fun (a, i) => a / ((i : Int) + 1))
    quotCoeffs w (gs.map (fun g => fixDiv g fixLn2)) 0
  | .sin =>
    let h := fixPi / 2
    let s := fixSin (fixMul h x)
    let c := fixCos (fixMul h x)
    let pw := recurCoeffs (fun i a => fixMul a h / (i : Int)) (d + 1) 0 fixOne
    let gs := pw.zipIdx.map (fun (a, i) =>
      match i % 4 with
      | 0 => fixMul a s
      | 1 => fixMul a c
      | 2 => -(fixMul a s)
      | _ => -(fixMul a c))
    quotCoeffs x gs 0

/-- The coefficients `c[j][i]` of R208. -/
def coeffs (p : Profile) (t : SfuTable) (j : Nat) : List Int :=
  (taylor t p.degree (pieceCentre p.tableBits j)).map (fixRna p.fixBits)

/-! ### Dyadic numbers -/

/-- `m × 2^e`, exact. -/
structure Dy where
  m : Int
  e : Int
  deriving DecidableEq, Repr

def Dy.add (a b : Dy) : Dy :=
  let q := min a.e b.e
  ⟨a.m * (2 ^ (a.e - q).toNat : Nat) + b.m * (2 ^ (b.e - q).toNat : Nat), q⟩

def Dy.mul (a b : Dy) : Dy := ⟨a.m * b.m, a.e + b.e⟩

def Dy.neg (a : Dy) : Dy := ⟨-a.m, a.e⟩

def Dy.sub (a b : Dy) : Dy := a.add b.neg

/-- `floor (a × 2^s)`. -/
def Dy.floorScaled (a : Dy) (s : Int) : Int :=
  let x := a.e + s
  if 0 ≤ x then a.m * (2 ^ x.toNat : Nat) else a.m / ((2 ^ (-x).toNat : Nat) : Int)

def Dy.lt (a b : Dy) : Bool := (a.sub b).m < 0

def Dy.ofInt (i : Int) : Dy := ⟨i, 0⟩

def Dy.abs (a : Dy) : Dy := ⟨a.m.natAbs, a.e⟩

/-- The exponent of the leading bit of a nonzero number. -/
def Dy.lead (a : Dy) : Int := (Nat.log2 a.m.natAbs : Int) + a.e

def Dy.toX (a : Dy) : XVal := .fin (decide (a.m < 0)) a.m.natAbs a.e false

/-- `a ÷ b` as an exact value with sticky, to at least 120 quotient bits; `b ≠ 0`. -/
def Dy.quotX (a b : Dy) : XVal :=
  let neg := decide (a.m < 0) != decide (b.m < 0)
  let n := a.m.natAbs <<< (120 + Nat.log2 b.m.natAbs)
  let q := n / b.m.natAbs
  .fin neg q (a.e - b.e - 120 - (Nat.log2 b.m.natAbs : Int)) (n % b.m.natAbs != 0)

/-! ### Evaluation (R209) -/

/-- The Horner loop of R209; coefficients from `c[d]` down to `c[0]`. -/
def horner (f : Nat) (tq : Int) : List Int → Int → Int
  | [], acc => acc
  | c :: cs, acc => horner f tq cs (c + acc * tq / ((2 ^ f : Nat) : Int))

/-- Table T at a value v in [0, 1]: `y = acc × 2^-F` (R209). -/
def evalTable (p : Profile) (t : SfuTable) (v : Dy) : Dy :=
  let k := p.tableBits
  let f := p.fixBits
  let j := min (v.floorScaled k).toNat (2 ^ k - 1)
  let tq := (v.sub ⟨2 * (j : Int) + 1, -((k : Int) + 1)⟩).floorScaled f
  let acc := match (coeffs p t j).reverse with
    | [] => 0
    | c :: cs => horner f tq cs c
  ⟨acc, -(f : Int)⟩

/-! ### Recipes -/

/-- What the exponential core answers: an overflow, or z (R213). -/
inductive ExpOut where
  | over
  | val (z : Dy)
  deriving DecidableEq, Repr

/-- The core of R213 for an exact `v` and a scale λ. -/
def expCore (p : Profile) (lam : Nat) (v : Dy) : ExpOut :=
  let x : Dy := ⟨v.m * (lam : Int), v.e - 62⟩
  if !x.lt (Dy.ofInt 128) then .over
  else if x.lt (Dy.ofInt (-160)) then .val ⟨0, 0⟩
  else
    let f := p.fixBits
    let big := x.floorScaled f
    let n := big / ((2 ^ f : Nat) : Int)
    let uq := big % ((2 ^ f : Nat) : Int)
    let y := if uq = 0 then Dy.ofInt 1 else evalTable p .exp2 ⟨uq, -(f : Int)⟩
    .val ⟨y.m, y.e + n⟩

/-- `LC = rna (log2 e × 2^62)` (R213). -/
def lcConst : Nat := (fixRna 62 (fixDiv fixOne fixLn2)).toNat

/-- `exp_core(v)` with λ = LC for `v ≤ 0`, which never overflows (R213). -/
def expNeg (p : Profile) (v : Dy) : Dy :=
  match expCore p lcConst v with
  | .over => ⟨0, 0⟩
  | .val z => z

/-- The LOG2 intermediate Y of an exact positive argument (R214). -/
def log2Y (p : Profile) (x : Dy) : Dy :=
  let e0 := x.lead
  let m0 : Dy := ⟨x.m, x.e - e0⟩
  let big := !m0.lt ⟨3, -1⟩
  let m : Dy := if big then ⟨m0.m, m0.e - 1⟩ else m0
  let e : Int := if big then e0 + 1 else e0
  let u := m.sub (Dy.ofInt 1)
  if u.m = 0 then Dy.ofInt e
  else (Dy.ofInt e).add (u.mul (evalTable p .log (u.add ⟨1, -1⟩)))

/-- V of RCP for a nonzero x in profiles H1 and H2 (R215). -/
def rcpV (p : Profile) (x : Dy) : Dy :=
  let e := x.lead
  let u := (Dy.mk x.m.natAbs (x.e - e)).sub (Dy.ofInt 1)
  let y := if u.m = 0 then Dy.ofInt 1 else evalTable p .rcp u
  ⟨if x.m < 0 then -y.m else y.m, y.e - e⟩

/-- V of SQRT (`inv = false`) and RSQRT (`inv = true`) for x > 0 (R216). -/
def rootV (p : Profile) (inv : Bool) (x : Dy) : Dy :=
  let e := x.lead
  let u := (Dy.mk x.m (x.e - e)).sub (Dy.ofInt 1)
  let f := e / 2
  let b := e % 2
  let y := if u.m = 0 && b = 0 then Dy.ofInt 1
    else evalTable p (match inv, b == 0 with
      | false, true => .sq0
      | false, false => .sq1
      | true, true => .rs0
      | true, false => .rs1) u
  ⟨y.m, if inv then y.e - f else y.e + f⟩

/-- The exact square root of x > 0 with sticky, for profile H3 (R217). -/
def sqrtExact (x : Dy) : XVal :=
  let x := if x.e % 2 = 0 then x else ⟨2 * x.m, x.e - 1⟩
  let n := x.m.toNat <<< 64
  let r := isqrt 64 n
  .fin false r (x.e / 2 - 32) (r * r != n)

/-- Magnitude and sign of SINT or COST of a turn count (R218): `(negative, w, y?)`. -/
def turnsV (p : Profile) (cos : Bool) (th : Dy) : Dy × Bool :=
  let r := th.sub (Dy.ofInt (th.floorScaled 0))
  let q0 := r.floorScaled 2
  let s := (Dy.mk r.m (r.e + 2)).sub (Dy.ofInt q0)
  let q := if cos then (q0 + 1) % 4 else q0
  let w := if q % 2 = 0 then s else (Dy.ofInt 1).sub s
  let exact := w.m = 0 || (w.sub (Dy.ofInt 1)).m = 0
  let mag := if exact then w else w.mul (evalTable p .sin w)
  (if 2 ≤ q then mag.neg else mag, exact)

/-- `C1` of R219. -/
def geluC1 : Int := fixRna 30 (fixSqrt (fixDiv (8 * fixOne) fixPi))

/-- `C3` of R219. -/
def geluC3 : Int := fixRna 30 (fixSqrt (fixDiv (8 * fixOne) fixPi) * 44715 / 1000000)

/-- `a × σ(v)` as an exact quotient, with `a = 1` for SIGM (R219). -/
def timesSigma (p : Profile) (a v : Dy) : XVal :=
  let z := expNeg p v.abs.neg
  let den := (Dy.ofInt 1).add z
  if v.m < 0 then (a.mul z).quotX den else a.quotX den

/-- V of TANH (R220). -/
def tanhV (p : Profile) (a : Dy) : XVal :=
  if a.abs.lt ⟨1, -4⟩ then
    -- (315 a − 105 a³ + 42 a⁵ − 17 a⁷) ÷ 315
    let a2 := a.mul a
    let inner := (Dy.ofInt 42).sub (a2.mul (Dy.ofInt 17))
    let inner := (Dy.ofInt 105).sub (a2.mul inner)
    let inner := (Dy.ofInt 315).sub (a2.mul inner)
    (a.mul inner).quotX (Dy.ofInt 315)
  else
    let z := expNeg p (Dy.mk (2 * a.abs.m) a.e).neg
    let num := (Dy.ofInt 1).sub z
    (if a.m < 0 then num.neg else num).quotX ((Dy.ofInt 1).add z)

/-- `LN2C` of R221. -/
def ln2c : Int := fixRna 62 fixLn2

/-- V of SOFTP (R221). -/
def softpV (p : Profile) (a : Dy) : Dy :=
  let z := expNeg p a.abs.neg
  let y := log2Y p ((Dy.ofInt 1).add z)
  let l : Dy := ⟨ln2c * y.m, y.e - 62⟩
  if a.m < 0 then l else l.add a

/-! ### Delivery (R210, R211) -/

/-- Delivers V; `exact` tells of the delivered code whether it is the function's exact value. A zero V
of a nonzero function value is tiny (R213, R219). -/
def deliverV (p : Profile) (f : Fmt) (sat negZero : Bool) (exact : Nat → Bool) (v : XVal) : Nat × FlagSet :=
  match v with
  | .inf neg => deliver p f .rne sat (.inf neg)
  | .fin neg m e sticky =>
    if m = 0 && !sticky then
      if exact (zeroLike f false) then (zeroLike f negZero, flagNone)
      else (zeroLike f negZero, flagUF ||| flagNX)
    else
      let (c, fl) := deliver p f .rne sat v
      let tiny := isTiny f (modeFor p f .rne) neg m e sticky
      let keep := fl &&& flagOF
      if exact c then (c, keep)
      else (c, keep ||| flagNX ||| (if tiny then flagUF else flagNone))

/-- A code's finite value as a dyadic number. -/
def codeDy (f : Fmt) (c : Nat) : Dy :=
  match decodeFloat f c with
  | .fin n m e => ⟨signedM n m, e⟩
  | _ => ⟨0, 0⟩

def isFiniteCode (f : Fmt) (c : Nat) : Bool :=
  match decodeFloat f c with
  | .fin .. => true
  | _ => false

/-- Special inputs of R212; `none` where the recipe gives the result. -/
def sfuSpecial (op : SfuOp) (f : Fmt) (x : FVal) : Option (Nat × FlagSet) :=
  let inf (n : Bool) := infTo f false n
  let zero (n : Bool) := zeroLike f n
  let one := f.bias * 2 ^ f.fracBits
  let half := (f.bias - 1) * 2 ^ f.fracBits
  let dom : Nat × FlagSet := (f.canonNan, flagNV)
  match x with
  | .nan _ => none
  | .inf n =>
    some <| match op with
    | .exp2 | .exp | .softp => (if n then zero false else inf false, flagNone)
    | .log2 | .sqrt => if n then dom else (inf false, flagNone)
    | .rcp => (zero n, flagNone)
    | .rsqrt => if n then dom else (zero false, flagNone)
    | .sint | .cost => dom
    | .tanh => (withSign f n one, flagNone)
    | .sigm => (if n then zero false else one, flagNone)
    | .silu | .gelu => (if n then zero true else inf false, flagNone)
  | .fin n m _ =>
    if m = 0 then
      match op with
      | .exp2 | .exp | .cost => some (one, flagNone)
      | .log2 => some (inf true, flagDZ)
      | .rcp | .rsqrt => some (inf n, flagDZ)
      | .sqrt | .sint | .tanh | .silu | .gelu => some (zero n, flagNone)
      | .sigm => some (half, flagNone)
      | .softp => none
    else if n then
      match op with
      | .log2 | .sqrt | .rsqrt => some dom
      | _ => none
    else none

/-- The recipe's result for a finite input that R212 leaves to it. -/
def sfuRecipe (p : Profile) (op : SfuOp) (f : Fmt) (sat : Bool) (a : Dy) : Nat × FlagSet :=
  let go := deliverV p f sat
  let never : Nat → Bool := fun _ => false
  let expOut (lam : Nat) (exact : Nat → Bool) :=
    match expCore p lam a with
    | .over => (overflowTo f (modeFor p f .rne) sat false, flagOF ||| flagNX)
    | .val z => go false exact z.toX
  match op with
  | .exp2 =>
    -- exact at integers, where 2^a is the delivered value itself
    let isInt := a.floorScaled 0 * (2 ^ 200 : Nat) == a.floorScaled 200 && decide (-200 ≤ a.floorScaled 0)
    expOut (2 ^ 62) (fun c => isInt && isFiniteCode f c &&
      ((codeDy f c).sub ⟨1, a.floorScaled 0⟩).m == 0)
  | .exp => expOut lcConst never
  | .log2 =>
    let y := log2Y p a
    let isPow := a.m.natAbs == 2 ^ Nat.log2 a.m.natAbs
    go false (fun c => isPow && ((codeDy f c).sub y).m == 0) y.toX
  | .rcp =>
    let exact := fun c => isFiniteCode f c && (((codeDy f c).mul a).sub (Dy.ofInt 1)).m == 0
    go false exact (if p = .h3 then (Dy.ofInt 1).quotX a else (rcpV p a).toX)
  | .sqrt =>
    let exact := fun c => isFiniteCode f c && (((codeDy f c).mul (codeDy f c)).sub a).m == 0
    go false exact (if p = .h3 then sqrtExact a else (rootV p false a).toX)
  | .rsqrt =>
    let exact := fun c => isFiniteCode f c &&
      ((((codeDy f c).mul (codeDy f c)).mul a).sub (Dy.ofInt 1)).m == 0
    go false exact (rootV p true a).toX
  | .sint | .cost =>
    let (v, ex) := turnsV p (op = .cost) a
    go false (fun _ => ex) v.toX
  | .tanh => go (a.m < 0) never (tanhV p a)
  | .sigm => go false never (timesSigma p (Dy.ofInt 1) a)
  | .silu => go (a.m < 0) never (timesSigma p a a)
  | .gelu =>
    let g := (((Dy.ofInt geluC1).mul a).add ((Dy.ofInt geluC3).mul (a.mul (a.mul a)))).mul ⟨1, -30⟩
    go (a.m < 0) never (timesSigma p a g)
  | .softp => go false never (softpV p a).toX

/-- One SFU element (R187, R206): `turns` reads A as UINT32 turns. -/
def sfuElem (p : Profile) (op : SfuOp) (f : Fmt) (sat turns : Bool) (c0 : Nat) : Nat × FlagSet :=
  if turns then
    let a : Dy := ⟨(c0 % 2 ^ 32 : Nat), -32⟩
    sfuRecipe p op f sat a
  else
    let c := flushIn p f c0
    match nanResult? p f [⟨f, c⟩] with
    | some r => r
    | none =>
      match sfuSpecial op f (decodeFloat f c) with
      | some r => r
      | none => sfuRecipe p op f sat (codeDy f c)

end Sys2Proof.Machine
end

