-- ==== Sys2Proof/Machine/VecOps.lean ====
section
/-! DEFINITION. The FMA, SFU and INT slots (spec/07_vector_operations.md R167 to R196): each operation's
encoding checks, its sources, its element function, its occupancy and latency. -/

namespace Sys2Proof.Machine

/-! ### Element functions of the FMA slot -/

/-- ADD to MIN of R171 on codes in one format. -/
def fmaArith (p : Profile) (op : Nat) (fmt : Fmt) (rnd : Rnd) (sat : Bool) (a b c : Nat) : Nat × FlagSet :=
  match op with
  | 0x01 => addElem p fmt fmt rnd sat false a b
  | 0x02 => addElem p fmt fmt rnd sat true a b
  | 0x03 => mulElem p fmt fmt rnd sat a b
  | 0x04 => fmaElem p fmt fmt rnd sat false false a b c
  | 0x05 => fmaElem p fmt fmt rnd sat false true a b c
  | 0x06 => fmaElem p fmt fmt rnd sat true false a b c
  | 0x07 => maxElem p fmt false a b
  | _ => maxElem p fmt true a b

/-- ABS and NEG change the sign bit and nothing else, of an integer code too (R174; DEDUCED:
notes/assumptions/13.md). -/
def signOp (fmt : Fmt) (isNeg : Bool) (a : Nat) : Nat :=
  if (fmt = .f8a || fmt = .f8b) && a % 128 = 0 then a
  else if isNeg then a ^^^ fmt.signBit else a % fmt.signBit

/-- An exact value seen as a value to compare or add. -/
def XVal.toF : XVal → FVal
  | .inf n => .inf n
  | .fin n m e _ => .fin n m e

/-- The clip of CVTS (R176): `k` is |IMM| read as FP32. DEDUCED: notes/assumptions/13.md. -/
def clipX (code : Nat) (k : FVal) (x : XVal) : XVal :=
  let v := x.toF
  let zero : XVal := .fin false 0 0 false
  match code with
  | 1 => if ltVal k v then k.toX else if ltVal v k.negate then k.negate.toX else x
  | 2 => if ltVal v (.fin false 0 0) || v.isZero then zero else if ltVal k v then k.toX else x
  | 3 => if ltVal v (.fin false 0 0) || v.isZero then zero else x
  | _ => x

/-- Is an exact value an integer? -/
def XVal.integral : XVal → Option Int
  | .fin n m e false =>
    if 0 ≤ e then some (signedM n (m <<< e.toNat))
    else if m % 2 ^ (-e).toNat = 0 then some (signedM n (m >>> (-e).toNat)) else none
  | _ => none


/-- CVTS: `a × s + b`, clipped and rounded once (R176); with no scale and no addend an unclipped value is a
conversion of `a` (R159). DEDUCED: notes/assumptions/13.md. -/
def cvtsElem (p : Profile) (dst : Fmt) (rnd : Rnd) (sat : Bool) (clip : Nat) (kCode : Nat)
    (a0 : Operand) (s0 b0 : Option Operand) : Nat × FlagSet :=
  let a := a0.flush p
  let s := s0.map (Operand.flush p)
  let b := b0.map (Operand.flush p)
  match nanResult? p dst (a :: (s.toList ++ b.toList)) with
  | some r => r
  | none =>
    let prod := match s with
      | none => some a.val.toX
      | some s => mulX a.val s.val
    let sum := match prod, b with
      | some x, some b => addX rnd x b.val.toX
      | x, _ => x
    match sum with
    | none => invalidResult dst
    | some x =>
      let v := clipX clip (decodeFloat .fp32 (flushIn p .fp32 kCode)) x
      match v.integral with
      | some i =>
        if s.isNone && b.isNone && a.fmt.isInt && dst.isInt then (putInt dst sat i, flagNone)
        else if s.isNone && b.isNone && v = x && beyondFp16 a.fmt dst a.code then convert p a.fmt dst rnd sat a.code
        else deliver p dst rnd sat v
      | none => deliver p dst rnd sat v

/-! ### DOT (R180 to R185) -/

def pairwiseStep {α : Type} (add : α → α → α) : List α → List α
  | x :: y :: zs => add x y :: pairwiseStep add zs
  | xs => xs

def pairwiseGo {α : Type} (add : α → α → α) (dflt : α) : Nat → List α → α
  | 0, xs => xs.headD dflt
  | n + 1, xs => if xs.length ≤ 1 then xs.headD dflt else pairwiseGo add dflt n (pairwiseStep add xs)

/-- `pairwise` of R183; each pass halves the list. -/
def pairwise {α : Type} (add : α → α → α) (dflt : α) (xs : List α) : α :=
  pairwiseGo add dflt (xs.length) xs

def groupsOf {α : Type} (n : Nat) : Nat → List α → List (List α)
  | 0, _ => []
  | fuel + 1, xs => if xs.isEmpty then [] else xs.take n :: groupsOf n fuel (xs.drop n)

/-- `tree_h1` of R183. -/
def treeH1 {α : Type} (add : α → α → α) (dflt : α) (xs : List α) : α :=
  let ys := (groupsOf 8 (xs.length + 1) xs).map (fun g => (g.drop 1).foldl add (g.headD dflt))
  pairwise add dflt ys

/-- A running FP32 value with the flags raised so far. -/
abbrev Acc := Nat × FlagSet

def accAdd (p : Profile) (rnd : Rnd) (sat : Bool) (a b : Acc) : Acc :=
  let (c, fl) := f32Add p rnd sat a.1 b.1
  (c, a.2 ||| b.2 ||| fl)

/-- RP mode (R183). -/
def dotRp (p : Profile) (rnd : Rnd) (sat : Bool) (prods : List (Operand × Operand)) (c : Option Operand) :
    Nat × FlagSet :=
  let xs : List Acc := prods.map (fun (a, b) =>
    match nanResult? p .fp32 [a, b] with
    | some r => r
    | none =>
      match mulX a.val b.val with
      | none => invalidResult .fp32
      | some x => deliver p .fp32 rnd sat x)
  let s := if p = .h1 then treeH1 (accAdd p rnd sat) (0, flagNone) xs
    else pairwise (accAdd p rnd sat) (0, flagNone) xs
  let s := match c with
    | none => s
    | some c => accAdd p rnd sat s (c.code, flagNone)
  let ops := prods.flatMap (fun (a, b) => [a, b]) ++ c.toList
  match nanResult? p .fp32 ops with
  | none => s
  | some (code, fl) => (code, s.2 ||| fl)

/-- The truncated term of R184: its signed integer part and whether bits were lost. -/
def eaTerm (q : Int) (x : XVal) : Int × Bool :=
  match x with
  | .inf _ => (0, false)
  | .fin n m e _ =>
    let (k, r, _) := splitAt m e q
    (signedM n k, r != 0)

/-- EA mode (R184). -/
def dotEa (p : Profile) (rnd : Rnd) (sat : Bool) (prods : List (Operand × Operand)) (c : Option Operand) :
    Nat × FlagSet :=
  let ops := prods.flatMap (fun (a, b) => [a, b]) ++ c.toList
  match nanResult? p .fp32 ops with
  | some r => r
  | none =>
    let ts := prods.map (fun (a, b) => mulX a.val b.val) ++ c.toList.map (fun c => some c.val.toX)
    if ts.any Option.isNone then invalidResult .fp32
    else
      let xs := ts.filterMap id
      let pinf := xs.any (fun x => decide (x = .inf false))
      let ninf := xs.any (fun x => decide (x = .inf true))
      if pinf && ninf then invalidResult .fp32
      else if pinf then deliver p .fp32 rnd sat (.inf false)
      else if ninf then deliver p .fp32 rnd sat (.inf true)
      else
        let leads := xs.filterMap (fun x => match x with
          | .fin _ m e _ => if m = 0 then none else some ((Nat.log2 m : Int) + e)
          | .inf _ => none)
        match leads with
        | [] =>
          let negs := xs.map (fun x => x.toF.neg?)
          let neg := if negs.all id then true else if negs.all (!·) then false else decide (rnd = .rdn)
          (zeroLike .fp32 neg, flagNone)
        | l :: ls =>
          let q := ls.foldl max l - 56
          let parts := xs.map (eaTerm q)
          let acc := parts.foldl (fun a t => a + t.1) 0
          let lost := parts.any (·.2)
          let nx := if lost then flagNX else flagNone
          if acc = 0 then (zeroLike .fp32 (decide (rnd = .rdn)), nx)
          else
            let (code, fl) := deliver p .fp32 rnd sat (.fin (decide (acc < 0)) acc.natAbs q false)
            (code, fl ||| nx)

/-- A floating-point DOT element in the profile's product mode (R182). -/
def dotFloat (p : Profile) (rnd : Rnd) (sat : Bool) (prods0 : List (Operand × Operand)) (c0 : Option Operand) :
    Nat × FlagSet :=
  let prods := prods0.map (fun (a, b) => (a.flush p, b.flush p))
  let c := c0.map (Operand.flush p)
  if p = .h3 then dotEa p rnd sat prods c else dotRp p rnd sat prods c

/-- An integer DOT element: the exact sum, clamped or wrapped to INT32 (R185). -/
def dotInt (sat : Bool) (prods : List (Operand × Operand)) (c : Option Operand) : Nat :=
  let v := prods.foldl (fun s (a, b) => s + decodeInt a.fmt a.code * decodeInt b.fmt b.code) 0
  putInt .int32 sat (match c with
    | none => v
    | some c => v + decodeInt .int32 c.code)

/-! ### Element functions of the INT slot -/

/-- IADD to IMAX (R189): operands in their own formats, result in `fmt`. -/
def intArith (op : Nat) (fmt : Fmt) (sat : Bool) (a b : Operand) : Nat :=
  let x := decodeInt a.fmt a.code
  let y := decodeInt b.fmt b.code
  putInt fmt sat (match op with
    | 0x01 => x + y
    | 0x02 => x - y
    | 0x03 => x * y
    | 0x04 => min x y
    | _ => max x y)

/-- AND to SRA (R189) on the low `w` bits. -/
def intLogic (op w a b : Nat) : Nat :=
  let count := b % 64
  match op with
  | 0x06 => a &&& b
  | 0x07 => a ||| b
  | 0x08 => a ^^^ b
  | 0x09 => 2 ^ w - 1 - a % 2 ^ w
  | 0x0A => if w ≤ count then 0 else (a <<< count) % 2 ^ w
  | 0x0B => if w ≤ count then 0 else a >>> count
  | _ => ofSigned w (toSigned w a / (2 ^ (min count w) : Nat))

/-- The compares of R190; `k` is 0 EQ, 1 NE, 2 LT, 3 LE, 4 UN. -/
def compareElem (p : Profile) (k : Nat) (a0 b0 : Operand) : Bool × FlagSet :=
  let a := a0.flush p
  let b := b0.flush p
  if a.isNan || b.isNan then
    let sig := a.isSnan || b.isSnan
    (k == 1 || k == 4, if sig || k == 2 || k == 3 then flagNV else flagNone)
  else
    let va := a.val
    let vb := b.val
    (match k with
      | 0 => eqVal va vb
      | 1 => !eqVal va vb
      | 2 => ltVal va vb
      | 3 => ltVal va vb || eqVal va vb
      | _ => false, flagNone)

/-! ### Plans: what an instruction of these slots is -/

/-- The element function of a decoded instruction. -/
inductive VKind where
  | arith (b : OperB) (hasC : Bool)
  | sign (isNeg : Bool)
  | cvt
  | cvts (clip : Nat)
  | bdec
  | bqnt
  | e8sc
  | dot (g : Nat) (hasC : Bool)
  | cpy
  | sfu (op : SfuOp) (turns : Bool)
  | iarith (b : OperB)
  | logic (b : OperB)
  | inot
  | sel (b : OperB)
  | cmp (k : Nat) (b : OperB)
  | mcmp (k : Nat) (b : OperB)
  | mlogic (k : Nat)
  | mset
  | iota (m : Nat)
  | rng (k : Nat)
  deriving DecidableEq, Repr

/-- Where an instruction writes. -/
inductive VDest where
  | tile (td rows cols : Nat) (fmt : Fmt)
  | mask (m : Nat)
  deriving DecidableEq, Repr

/-- A decoded, encodable instruction of an FMA, SFU or INT slot. -/
structure VPlan where
  f : VSlot
  fmt : Fmt
  kind : VKind
  a : Option TileSrc
  srcs : List TileSrc
  scals : List Nat
  dest : VDest
  lat : Nat
  deriving DecidableEq, Repr

/-- The accumulator format of DOT (R181). -/
def accFmt (f : Fmt) : Fmt := if f.isFloat then .fp32 else .int32

def seedRead (f : VSlot) : List Nat := if f.rnd == 4 then [30] else []

/-- The encoding checks of an FMA slot (R92, R145, R168, R171, R174 to R181, R238); `none` is E_ENCODING. ABS
and NEG take an integer FMT (DEDUCED: notes/assumptions/13.md). -/
def planFma (p : Profile) (f : VSlot) : Option VPlan :=
  match fmtIn p f.fmt with
  | none => none
  | some fmt =>
    if !rndOk p f.rnd then none
    else
      let aIn (g : SrcFmt) := bcSrc f 0 f.ta f.r f.n g
      let dst (g : Fmt) : VDest := .tile f.td f.r f.n g
      let mk (kind : VKind) (srcs : List TileSrc) (scals : List Nat) (d : VDest) (lat : Nat) : VPlan :=
        ⟨f, fmt, kind, srcs.head?, srcs, scals ++ seedRead f, d, lat⟩
      if 0x01 ≤ f.op && f.op ≤ 0x08 then
        let hasC := 0x04 ≤ f.op && f.op ≤ 0x06
        match operB f (.is fmt) fmt.width with
        | none => none
        | some b =>
          if fmt.isInt || !bcUnusedZero f (if hasC then [0, 1, 2] else [0, 1]) then none
          else some (mk (.arith b hasC)
            (aIn (.is fmt) :: (b.tiles ++ (if hasC then [bcSrc f 2 f.tc f.r f.n (.is fmt)] else [])))
            b.scals (dst fmt) 4)
      else
        match f.op with
        | 0x09 | 0x0A =>
          if f.mod != 0 || !bcUnusedZero f [0] then none
          else some (mk (.sign (f.op == 0x0A)) [aIn (.is fmt)] [] (dst fmt) 4)
        | 0x0B =>
          if f.mod != 0 || !bcUnusedZero f [0] then none
          else some (mk .cvt [aIn .any] [] (dst fmt) 4)
        | 0x0C =>
          let hasS := bitOf f.mod 0
          let hasB := bitOf f.mod 1
          let clip := bitsOf f.mod 2 2
          let kAbs := f.imm % 2 ^ 31
          if bitsOf f.mod 4 2 != 0 || (!hasS && f.tb != 0) || (!hasB && f.tc != 0) ||
              !bcUnusedZero f (0 :: ((if hasS then [1] else []) ++ (if hasB then [2] else []))) ||
              ((clip == 0 || clip == 3) && f.imm != 0) || (Fmt.infCode .fp32 < kAbs) then none
          else some (mk (.cvts clip)
            (aIn .any :: ((if hasS then [bcSrc f 1 f.tb f.r f.n (.is .fp32)] else []) ++
              (if hasB then [bcSrc f 2 f.tc f.r f.n (.is .fp32)] else []))) [] (dst fmt) 4)
        | 0x0D =>
          if p == .h1 || f.mod != 0 || f.rnd != 0 || !fmt.isIeee || !bcUnusedZero f [0, 1] then none
          else some (mk .bdec [aIn .short, bcSrc f 1 f.tb f.r (ceilDiv f.n 32) (.is .uint8)] [] (dst fmt) 4)
        | 0x0E =>
          if p == .h1 || f.mod != 0 || !fmt.isShort || !bcUnusedZero f [0, 1] then none
          else some (mk .bqnt [aIn (.is .fp32), bcSrc f 1 f.tb f.r (ceilDiv f.n 32) (.is .uint8)] []
            (dst fmt) 4)
        | 0x0F =>
          if p == .h1 || f.mod != 0 || !fmt.isShort || !bcUnusedZero f [0] then none
          else some (mk .e8sc [aIn (.is .fp32)] [] (dst .uint8) 4)
        | 0x10 =>
          let g := f.mod % 8 + 1
          let hasC := bitOf f.mod 3
          let of : SrcFmt := if fmt.isFloat then .floatOf fmt.width else .intOf fmt.width
          if bitsOf f.mod 4 2 != 0 || bitsOf f.bc 0 2 != 0 || 16 < f.ta + g || 16 < f.tb + g ||
              (!hasC && (f.tc != 0 || bitsOf f.bc 4 2 != 0)) then none
          else
            let w := ceilDiv f.n fmt.pack
            let acc := accFmt fmt
            some (mk (.dot g hasC)
              ((upTo g).map (fun t => bcSrc f 0 (f.ta + t) f.r f.n of) ++
                (upTo g).map (fun t => bcSrc f 1 (f.tb + t) f.r f.n of) ++
                (if hasC then [bcSrc f 2 f.tc f.r w (.is acc)] else []))
              [] (.tile f.td f.r w acc) 6)
        | 0x11 =>
          if f.mod != 0 || !bcUnusedZero f [0] then none
          else some (mk .cpy [aIn (.is fmt)] [] (dst fmt) 4)
        | _ => none

/-- The encoding checks of the SFU slot (R187). -/
def planSfu (p : Profile) (f : VSlot) : Option VPlan :=
  match fmtIn p f.fmt, SfuOp.ofCode f.op with
  | some fmt, some op =>
    let trig := op == .sint || op == .cost
    if !fmt.isIeee || f.tb != 0 || f.tc != 0 || f.bc / 4 != 0 || f.rnd != 0 ||
        !(f.mod == 0 || (trig && f.mod == 1)) then none
    else
      let a := bcSrc f 0 f.ta f.r f.n (.is (if f.mod == 1 then .uint32 else fmt))
      some ⟨f, fmt, .sfu op (f.mod == 1), some a, [a], [], .tile f.td f.r f.n fmt, 12⟩
  | _, _ => none

/-- The fixed fields of the mask operations (R191). -/
def maskFieldsZero (f : VSlot) : Bool :=
  f.ta < 8 && f.tb < 8 && f.td < 8 && f.rows == 0 && f.cols == 0 && f.fmt == 0 && f.bc == 0 &&
    f.rnd == 0 && !f.sat && f.mod == 0

/-- The encoding checks of the INT slot (R188 to R193). -/
def planInt (p : Profile) (f : VSlot) : Option VPlan :=
  let dst (g : Fmt) : VDest := .tile f.td f.r f.n g
  if 0x20 ≤ f.op && f.op ≤ 0x24 then
    if !maskFieldsZero f then none
    else if f.op == 0x24 then
      if f.imm / 2 != 0 then none
      else some ⟨f, .int32, .mset, none, [], [], .mask f.td, 2⟩
    else some ⟨f, .int32, .mlogic (f.op - 0x20), none, [], [], .mask f.td, 2⟩
  else
    match fmtIn p f.fmt with
    | none => none
    | some fmt =>
      if !rndOk p f.rnd then none
      else
        let isArith := 0x01 ≤ f.op && f.op ≤ 0x05
        let isLogic := 0x06 ≤ f.op && f.op ≤ 0x0C && f.op != 0x09
        let isCmp := 0x10 ≤ f.op && f.op ≤ 0x14
        let isMcmp := 0x18 ≤ f.op && f.op ≤ 0x1C
        let w := fmt.width
        let sf : SrcFmt :=
          if isArith then .intOf w
          else if (isLogic && f.op < 0x0A) || f.op == 0x09 then .anyOf w
          else if isCmp || isMcmp then (if fmt.isInt then .intOf w else .is fmt)
          else .is fmt
        let a := bcSrc f 0 f.ta f.r f.n sf
        if isArith || isLogic || isCmp || isMcmp || f.op == 0x0D then
          match operB f sf w with
          | none => none
          | some b =>
            let isSel := f.op == 0x0D
            if (isArith && fmt.isFloat) || (isMcmp && 8 ≤ f.td) ||
                !bcUnusedZero f (if isSel then [0, 1, 2] else [0, 1]) then none
            else
              let srcs := a :: (b.tiles ++ (if isSel then [bcSrc f 2 f.tc f.r f.n (.intOf w)] else []))
              let scals := b.scals ++ seedRead f
              if isArith then some ⟨f, fmt, .iarith b, some a, srcs, scals, dst fmt, 2⟩
              else if isLogic then some ⟨f, fmt, .logic b, some a, srcs, scals, dst fmt, 2⟩
              else if isSel then some ⟨f, fmt, .sel b, some a, srcs, scals, dst fmt, 2⟩
              else if isCmp then
                some ⟨f, fmt, .cmp (f.op - 0x10) b, some a, srcs, scals, dst fmt.signedOfWidth, 2⟩
              else some ⟨f, fmt, .mcmp (f.op - 0x18) b, some a, srcs, scals, .mask f.td, 2⟩
        else
          let bare := f.ta == 0 && f.tb == 0 && f.tc == 0 && f.bc == 0
          match f.op with
          | 0x09 =>
            if f.mod != 0 || !bcUnusedZero f [0] then none
            else some ⟨f, fmt, .inot, some a, [a], seedRead f, dst fmt, 2⟩
          | 0x28 =>
            if !bare || !(fmt == .int32 || fmt == .uint32) || 3 ≤ f.mod then none
            else some ⟨f, fmt, .iota f.mod, none, [], seedRead f, dst fmt, 2⟩
          | 0x30 | 0x31 | 0x32 =>
            let want : Fmt := if f.op == 0x30 then .uint32 else if f.op == 0x31 then .fp32 else .int32
            if !bare || fmt != want || f.mod != 0 || (f.op != 0x32 && f.imm != 0) then none
            else some ⟨f, fmt, .rng (f.op - 0x30), none, [], [30], dst fmt, 3⟩
          | _ => none

/-- Does a column count fit the format of every source, broadcast ones too (R122)? -/
def colsFit (n : Nat) (srcs : List TileSrc) (tags : Nat → Option Tag) : Bool :=
  srcs.all (fun s => match tags s.tile with
    | some t => n ≤ 64 * t.fmt.pack
    | none => true)

/-- The shape checks at issue (R122, R126, R181, R191). -/
def VPlan.shapeOk (q : VPlan) (tags : Nat → Option Tag) : Bool :=
  q.srcs.all (·.tagOk tags) &&
    (match q.dest with
      | .tile _ _ cols g => cols ≤ 64 * g.pack
      | .mask _ => true) &&
    (match q.kind with
      | .mcmp _ _ => q.fmt.width == 32 && q.f.r == 8 && q.f.n == 32
      | .mlogic _ | .mset => true
      | .dot g _ =>
        q.f.n ≤ 64 * q.fmt.pack &&
          (upTo g).all (fun t => (tags (q.f.ta + t)).map (·.fmt) == (tags q.f.ta).map (·.fmt) &&
            (tags (q.f.tb + t)).map (·.fmt) == (tags q.f.tb).map (·.fmt))
      | _ => colsFit q.f.n q.srcs tags)

/-- Occupancy by R109 and R195; `fma` marks the FMA slots, which take 4-bit elements four at a time. -/
def VPlan.occ (q : VPlan) (p : Profile) (tags : Nat → Option Tag) (fma : Bool) : Nat :=
  let perLane (g : Fmt) : Nat := if fma && g.width == 4 then 4 else g.pack
  let blk (w : Nat) : Nat := ceilDiv q.f.r 8 * ceilDiv w 32
  match q.kind with
  | .mcmp _ _ | .mlogic _ | .mset => 1
  | .dot g _ =>
    let pp := if q.fmt.width == 4 && p != .h2 then 4 else q.fmt.pack
    g * blk (ceilDiv q.f.n pp)
  | _ =>
    let dw := match q.dest with
      | .tile _ _ _ g => ceilDiv q.f.n (perLane g)
      | .mask _ => 1
    blk ((q.srcs.filterMap (fun s => (tags s.tile).map (fun t => ceilDiv q.f.n (perLane t.fmt)))).foldl max dw)

/-- Element (r, j) of a decoded instruction in cluster `cl`. -/
def VPlan.elem (q : VPlan) (c : VCtx) (cl r j : Nat) : ElemOut :=
  let f := q.f
  let p := c.prof
  let rnd := rndOf f.rnd (c.scal 30) (elemIdx cl r j)
  let a : Operand := match q.a with
    | some s => c.src cl s r j
    | none => ⟨.int32, 0⟩
  let last : Operand := match q.srcs.getLast? with
    | some s => c.src cl s r j
    | none => ⟨.int32, 0⟩
  let plain (code : Nat) : ElemOut := ⟨code, flagNone, true⟩
  match q.kind with
  | .arith b hasC =>
    let y := c.opB cl q.fmt b r j
    let (code, fl) := fmaArith p f.op q.fmt rnd f.sat a.code y.code last.code
    ⟨code, fl, a.isNan || y.isNan || (hasC && last.isNan)⟩
  | .sign n => ⟨signOp q.fmt n a.code, flagNone, a.isNan⟩
  | .cvt =>
    let (code, fl) := convert p a.fmt q.fmt rnd f.sat a.code
    ⟨code, fl, a.isNan⟩
  | .cvts clip =>
    let s := if bitOf f.mod 0 then some (c.src cl (bcSrc f 1 f.tb f.r f.n (.is .fp32)) r j) else none
    let b := if bitOf f.mod 1 then some (c.src cl (bcSrc f 2 f.tc f.r f.n (.is .fp32)) r j) else none
    let (code, fl) := cvtsElem p q.fmt rnd f.sat clip (f.imm % 2 ^ 31) a s b
    ⟨code, fl, a.isNan || s.any Operand.isNan || b.any Operand.isNan⟩
  | .bdec =>
    let s := match q.srcs.getLast? with
      | some s => c.src cl s r (j / 32)
      | none => ⟨.uint8, 0⟩
    let (code, fl) := blockDecode p a.fmt q.fmt s.code a.code
    ⟨code, fl, a.isNan || s.code == 0xFF⟩
  | .bqnt =>
    let s := match q.srcs.getLast? with
      | some s => c.src cl s r (j / 32)
      | none => ⟨.uint8, 0⟩
    let (code, fl) := blockEncode p q.fmt rnd s.code a.code
    ⟨code, fl, a.isNan⟩
  | .e8sc =>
    let (code, fl) := blockScale p q.fmt a.code
    ⟨code, fl, a.isNan⟩
  | .dot g hasC =>
    let pk := q.fmt.pack
    let cols := (fromTo (pk * j) pk).filter (· < f.n)
    let prods := (upTo g).flatMap (fun t => cols.map (fun col =>
      (c.src cl (bcSrc f 0 (f.ta + t) f.r f.n .any) r col,
        c.src cl (bcSrc f 1 (f.tb + t) f.r f.n .any) r col)))
    let addend := if hasC then some last else none
    if q.fmt.isFloat then
      let (code, fl) := dotFloat p rnd f.sat prods addend
      ⟨code, fl, prods.any (fun (x, y) => x.isNan || y.isNan) || addend.any Operand.isNan⟩
    else plain (dotInt f.sat prods addend)
  | .cpy => ⟨a.code, flagNone, a.isNan⟩
  | .sfu op turns =>
    let (code, fl) := sfuElem p op q.fmt f.sat turns a.code
    ⟨code, fl, a.isNan⟩
  | .iarith b => plain (intArith f.op q.fmt f.sat a (c.opB cl q.fmt b r j))
  | .logic b =>
    let y := c.opB cl q.fmt b r j
    ⟨intLogic f.op q.fmt.width a.code y.code, flagNone, a.isNan || y.isNan⟩
  | .inot => ⟨intLogic 0x09 q.fmt.width a.code 0, flagNone, a.isNan⟩
  | .sel b =>
    let y := c.opB cl q.fmt b r j
    ⟨if last.code != 0 then a.code else y.code, flagNone, a.isNan || y.isNan⟩
  | .cmp k b =>
    let (t, fl) := compareElem p k a (c.opB cl q.fmt b r j)
    ⟨if t then 2 ^ q.fmt.width - 1 else 0, fl, true⟩
  | .mcmp k b =>
    let (t, fl) := compareElem p k a (c.opB cl q.fmt b r j)
    ⟨bit t, fl, true⟩
  | .mlogic _ | .mset => plain 0
  | .iota m => plain (match m with
    | 0 => j
    | 1 => r
    | _ => elemIdx cl r j)
  | .rng k =>
    let x := srBits (c.scal 30) (elemIdx cl r j)
    match k with
    | 0 => plain x
    | 1 => plain (deliver .h3 .fp32 .rne false (.fin false (x >>> 8) (-24) false)).1
    | _ => plain (if x < f.imm then 2 ^ 32 - 1 else 0)

/-- A number from its bits, lowest first. -/
def ofBitList : List Bool → Nat
  | [] => 0
  | b :: bs => bit b + 2 * ofBitList bs

/-- The new value of a mask from its old one, under the gate (R191, R129). -/
def mergeMask (en : Nat → Bool) (old : Nat) (new : Nat → Bool) : Nat :=
  ofBitList ((upTo 256).map (fun i => if en i then new i else bitOf old i))

/-- What a decoded instruction writes into logical cluster `cl`: tile containers or a mask, flags, NaNs. -/
def VPlan.run (q : VPlan) (c : VCtx) (cl : Nat) : ClusterOut × Option (Nat × Nat) :=
  let en := c.enabled q.f.men q.f.msel cl
  match q.dest with
  | .tile td rows cols g => (putTile td rows cols g en cl (q.elem c cl), none)
  | .mask m =>
    let old := c.mask cl m
    match q.kind with
    | .mlogic k =>
      let x := c.mask cl q.f.ta
      let y := c.mask cl q.f.tb
      let new (i : Nat) : Bool := match k with
        | 0 => bitOf x i && bitOf y i
        | 1 => bitOf x i || bitOf y i
        | 2 => bitOf x i != bitOf y i
        | _ => !bitOf x i
      (⟨[], [], []⟩, some (m, mergeMask en old new))
    | .mset => (⟨[], [], []⟩, some (m, mergeMask en old (fun _ => bitOf q.f.imm 0)))
    | _ =>
      let es := (upTo 8).flatMap (fun r => (upTo 32).map (fun j => q.elem c cl r j))
      let fls := (es.zipIdx.filter (fun (e, i) => en i && e.fl != flagNone)).map (fun (e, i) => (i / 32, i % 32, e.fl))
      (⟨[], fls, []⟩, some (m, mergeMask en old (fun i => (es.getD i ⟨0, flagNone, true⟩).code == 1)))

/-- Masks an instruction reads: its gate and the operands of mask logic (R112, R191). -/
def VPlan.maskReads (q : VPlan) : List Nat :=
  (if q.f.men then [q.f.msel] else []) ++
    (match q.kind with
      | .mlogic 3 => [q.f.ta]
      | .mlogic _ => [q.f.ta, q.f.tb]
      | _ => [])

end Sys2Proof.Machine
end

