-- ==== Sys2Proof/Machine/Sweep.lean ====
section
/-! DEFINITION. The Sweep network (spec/10_sweep_network.md R245 to R265). -/

namespace Sys2Proof.Machine

/-- The scopes of R246. -/
inductive Scope where
  | row | tile | engine | xcl
  deriving DecidableEq, Repr

def Scope.ofCode : Nat → Scope
  | 0 => .row
  | 1 => .tile
  | 2 => .engine
  | _ => .xcl

/-- The Sweep operations of R250 but NOP. -/
inductive SwpOp where
  | rsum | rmax | rmin | ramax | ramin
  | scan | sscan | scmax | scmin | lrscan
  | perm | perms | cmpct | bstep | hist | brank
  deriving DecidableEq, Repr

def SwpOp.ofCode : Nat → Option SwpOp
  | 0x01 => some .rsum
  | 0x02 => some .rmax
  | 0x03 => some .rmin
  | 0x04 => some .ramax
  | 0x05 => some .ramin
  | 0x08 => some .scan
  | 0x09 => some .sscan
  | 0x0A => some .scmax
  | 0x0B => some .scmin
  | 0x0C => some .lrscan
  | 0x10 => some .perm
  | 0x11 => some .perms
  | 0x12 => some .cmpct
  | 0x13 => some .bstep
  | 0x18 => some .hist
  | 0x19 => some .brank
  | _ => none

def SwpOp.isReduction : SwpOp → Bool
  | .rsum | .rmax | .rmin | .ramax | .ramin => true
  | _ => false

/-- Operations marked SEG in R250. -/
def SwpOp.hasSeg : SwpOp → Bool
  | .rsum | .rmax | .rmin | .ramax | .ramin | .scan | .scmax | .scmin | .lrscan => true
  | _ => false

/-- The scopes an operation accepts (R250). -/
def SwpOp.scopeOk (op : SwpOp) (s : Scope) : Bool :=
  match op with
  | .sscan | .perm | .perms | .cmpct | .bstep => s != .xcl
  | .hist | .brank => s == .tile || s == .engine
  | _ => true

/-- A place in a tile across the engine: logical cluster, row, element column. -/
structure Pos where
  cl : Nat
  r : Nat
  j : Nat
  deriving DecidableEq, Repr

/-- The groups of R246 and R247 over shape (rows, cols), each in position order. DEDUCED: notes/assumptions/17.md. -/
def groups (s : Scope) (seg k rows cols : Nat) : List (List Pos) :=
  match s with
  | .row =>
    let step := if seg = 0 then cols else 2 ^ seg
    (upTo k).flatMap (fun cl => (upTo rows).flatMap (fun r => (upTo (ceilDiv cols step)).map (fun g =>
      ((fromTo (g * step) step).filter (· < cols)).map (fun j => ⟨cl, r, j⟩))))
  | .tile => (upTo k).map (fun cl => (upTo rows).flatMap (fun r => (upTo cols).map (fun j => ⟨cl, r, j⟩)))
  | .engine => [(upTo k).flatMap (fun cl => (upTo rows).flatMap (fun r => (upTo cols).map (fun j => ⟨cl, r, j⟩)))]
  | .xcl => (upTo rows).flatMap (fun r => (upTo cols).map (fun j => (upTo k).map (fun cl => ⟨cl, r, j⟩)))

/-- Where a reduction's group result goes (R252). DEDUCED: notes/assumptions/17.md. -/
def reductionTargets (s : Scope) (seg k : Nat) (g : List Pos) : List Pos :=
  match g with
  | [] => []
  | p :: _ =>
    match s with
    | .row => [⟨p.cl, p.r, if seg = 0 then 0 else p.j / 2 ^ seg⟩]
    | .tile => [⟨p.cl, 0, 0⟩]
    | .engine => (upTo k).map (fun cl => ⟨cl, 0, 0⟩)
    | .xcl => (upTo k).map (fun cl => ⟨cl, p.r, p.j⟩)

/-- The logical lane that holds an element of format `f` (R248). -/
def logicalLane (f : Fmt) (p : Pos) : Nat := p.cl * 256 + laneOf p.r (p.j / f.pack)

/-! ### Combining -/

/-- An element on its way through a tree: its code (FP32 for floating-point sums), flags of the step that
formed it, and whether a source NaN went into it. -/
structure Part where
  code : Nat
  fl : FlagSet
  nanIn : Bool
  deriving DecidableEq, Repr

/-- Widens a floating-point element to FP32 for a sum, flushing by the profile (R251, R231). -/
def widenPart (p : Profile) (o : Operand) : Part :=
  if o.fmt.isFloat then
    let (c, fl) := if o.fmt = .fp32 then (flushIn p .fp32 o.code, flagNone)
      else convert p o.fmt .fp32 .rne false o.code
    ⟨c, fl, o.isNan⟩
  else ⟨o.code, flagNone, false⟩

/-- FP32 addition in a tree; the flags accumulate. -/
def addPart (p : Profile) (a b : Part) : Part :=
  let (c, fl) := f32Add p .rne false a.code b.code
  ⟨c, a.fl ||| b.fl ||| fl, a.nanIn || b.nanIn⟩

/-- Inserts a number into an ascending list without repeats. -/
def insertAsc (x : Nat) : List Nat → List Nat
  | [] => [x]
  | y :: ys => if x < y then x :: y :: ys else if x = y then y :: ys else y :: insertAsc x ys

/-- Distinct numbers of a list, ascending. -/
def lanesAsc (ls : List Nat) : List Nat := ls.foldl (fun acc l => insertAsc l acc) []

/-- `group_sum` of R253 in the profile's tree. -/
def groupSum (p : Profile) (xs : List (Part × Nat)) : Part :=
  let zero : Part := ⟨0, flagNone, false⟩
  let add := addPart p
  match p with
  | .h1 => treeH1 add zero (xs.map (·.1))
  | .h3 => pairwise add zero (xs.map (·.1))
  | .h2 =>
    let ys := (lanesAsc (xs.map (·.2))).map (fun l =>
      let own := (xs.filter (·.2 == l)).map (·.1)
      (own.drop 1).foldl add (own.headD zero))
    pairwise add zero ys

/-- MAX or MIN of two elements in one format, integer or floating-point (R173, R254). -/
def maxPart (p : Profile) (f : Fmt) (isMin : Bool) (a b : Part) : Part :=
  if f.isInt then
    let x := decodeInt f a.code
    let y := decodeInt f b.code
    ⟨if isMin then (if y < x then b.code else a.code) else (if x < y then b.code else a.code), flagNone, false⟩
  else
    let (c, fl) := maxElem p f isMin a.code b.code
    ⟨c, a.fl ||| b.fl ||| fl, a.nanIn || b.nanIn⟩

/-- Identity of an operation over an empty group or before the first position (R255, R256). -/
def identityCode (op : SwpOp) (f : Fmt) : Nat :=
  match op with
  | .rmax | .scmax => if f.isFloat then withSign f true f.infCode else if f = .int32 then 0x80000000 else 0
  | .rmin | .scmin => if f.isFloat then f.infCode else if f = .int32 then 0x7FFFFFFF else 0xFFFFFFFF
  | .ramax | .ramin => 0xFFFFFFFF
  | _ => 0

/-- Does `y` beat `x` for RAMAX (or RAMIN), with +0 above −0 (R254)? Neither is a NaN. -/
def beats (f : Fmt) (isMin : Bool) (x y : Nat) : Bool :=
  if f.isInt then
    let a := decodeInt f x
    let b := decodeInt f y
    if isMin then decide (b < a) else decide (a < b)
  else
    let a := decodeFloat f x
    let b := decodeFloat f y
    let lt (u v : FVal) : Bool := ltVal u v || (u.isZero && v.isZero && u.neg? && !v.neg?)
    if isMin then lt b a else lt a b

/-- RAMAX and RAMIN over elements with their positions (R254). -/
def argBest (p : Profile) (f : Fmt) (isMin : Bool) (xs : List (Nat × Nat)) : Nat × FlagSet :=
  let snan := xs.any (fun x => (Operand.mk f x.2).isSnan)
  let fl := if snan then flagNV else flagNone
  match xs.find? (fun x => isNanCode f x.2) with
  | some (i, _) => (i, fl)
  | none =>
    match xs.map (fun (i, c) => (i, flushIn p f c)) with
    | [] => (0xFFFFFFFF, flagNone)
    | y :: ys => ((ys.foldl (fun best z => if beats f isMin best.2 z.2 then z else best) y).1, fl)

/-- The greatest power-of-two distances below m: 1, 2, 4, … -/
def passes : Nat → Nat → Nat → List Nat
  | 0, _, _ => []
  | n + 1, d, m => if d < m then d :: passes n (2 * d) m else []

/-- `scan_ks` of R256; the flags of a position are those of the operations that wrote it (R249). -/
def scanKs (comb : Part → Part → Part) (xs : List Part) : List Part :=
  (passes 20 1 xs.length).foldl (fun cur d =>
    let arr := cur.toArray
    cur.zipIdx.map (fun (x, i) =>
      if d ≤ i then
        let y := arr.getD (i - d) ⟨0, flagNone, false⟩
        let z := comb ⟨y.code, flagNone, y.nanIn⟩ ⟨x.code, flagNone, x.nanIn⟩
        ⟨z.code, x.fl ||| z.fl, z.nanIn⟩
      else x)) xs

/-- `sscan_ks` of R257. -/
def sscanKs (comb : Part → Part → Part) (xs : List (Part × Bool)) : List Part :=
  let xs := xs.zipIdx.map (fun ((x, f), i) => (x, f || i == 0))
  ((passes 20 1 xs.length).foldl (fun cur d =>
    let arr := cur.toArray
    cur.zipIdx.map (fun ((x, f), i) =>
      if d ≤ i && !f then
        let (y, fy) := arr.getD (i - d) (⟨0, flagNone, false⟩, true)
        let z := comb ⟨y.code, flagNone, y.nanIn⟩ ⟨x.code, flagNone, x.nanIn⟩
        (⟨z.code, x.fl ||| z.fl, z.nanIn⟩, fy)
      else (x, f))) xs).map (·.1)

def f32Mul (p : Profile) (a b : Nat) : Nat × FlagSet := mulElem p .fp32 .fp32 .rne false a b
def f32Fma (p : Profile) (a b c : Nat) : Nat × FlagSet := fmaElem p .fp32 .fp32 .rne false false false a b c

/-- `lrscan` of R258 on pairs (a, b). -/
def lrscan (p : Profile) (xs : List (Part × Part)) (h0 : Option (Nat × Bool)) : List Part :=
  let none' : Part := ⟨0, flagNone, false⟩
  let ys := (passes 20 1 xs.length).foldl (fun cur d =>
    let arr := cur.toArray
    cur.zipIdx.map (fun ((a, b), i) =>
      if d ≤ i then
        let (a', b') := arr.getD (i - d) (none', none')
        let (nb, fb) := f32Fma p a.code b'.code b.code
        let (na, fa) := f32Mul p a.code a'.code
        (⟨na, a.fl ||| fa, a.nanIn || a'.nanIn⟩, ⟨nb, b.fl ||| fb, a.nanIn || b.nanIn || b'.nanIn⟩)
      else (a, b))) xs
  ys.map (fun (a, b) =>
    match h0 with
    | none => ⟨b.code, a.fl ||| b.fl, b.nanIn⟩
    | some (h, hn) =>
      let (c, fl) := f32Fma p a.code h b.code
      ⟨c, a.fl ||| b.fl ||| fl, a.nanIn || b.nanIn || hn⟩)

/-- `greater` of R262: by value, −0 below +0, NaN above +∞, NaNs equal. -/
def keyGreater (f : Fmt) (x y : Nat) : Bool :=
  if f.isInt then decide (decodeInt f y < decodeInt f x)
  else
    let a := decodeFloat f x
    let b := decodeFloat f y
    match a.isNan, b.isNan with
    | true, nb => !nb
    | false, true => false
    | false, false => ltVal b a || (a.isZero && b.isZero && b.neg? && !a.neg?)

/-- One compare-exchange pass (R262): for each position, the source position it takes and whether its
compare read a signaling NaN. -/
def bstepFrom (f : Fmt) (s t : Nat) (desc : Bool) (keys : Array Nat) : List (Nat × Bool) :=
  (upTo keys.size).map (fun i =>
    let q := i ^^^ 2 ^ s
    if q < keys.size then
      let lo := min i q
      let hi := max i q
      let up := !(bitOf lo t) != desc
      let kl := keys.getD lo 0
      let kh := keys.getD hi 0
      let swap := if up then keyGreater f kl kh else keyGreater f kh kl
      (if swap then q else i, (Operand.mk f kl).isSnan || (Operand.mk f kh).isSnan)
    else (i, false))

/-! ### Plans -/

/-- A decoded Sweep instruction. -/
structure SwpPlan where
  f : VSlot
  op : SwpOp
  fmt : Fmt
  scope : Scope
  seg : Nat
  m5 : Bool
  a : TileSrc
  b : Option TileSrc
  c : Option TileSrc
  deriving DecidableEq, Repr

/-- The formats of A a Sweep operation takes (R251). -/
def SwpOp.fmtOk (op : SwpOp) (f : Fmt) : Bool :=
  match op with
  | .lrscan => f == .fp32
  | .perm | .perms | .cmpct => true
  | .hist | .brank => f == .int32 || f == .uint32
  | _ => f.isIeee || f == .int32 || f == .uint32

/-- Tag formats of an index source. -/
def intIndex : SrcFmt := .intOf 32

/-- The encoding checks of the SWP slot (R238, R246, R247, R250, R251, R255, R258, R262, R263). SAT = 1 on
SCMAX and SCMIN, which have no sum, is refused: DESIGN CHOICE: notes/assumptions/13.md. -/
def planSwp (p : Profile) (f : VSlot) : Option SwpPlan :=
  match SwpOp.ofCode f.op, fmtIn p f.fmt with
  | some op, some fmt =>
    let scope := Scope.ofCode (f.mod % 4)
    let seg := bitsOf f.mod 2 3
    let m5 := bitOf f.mod 5
    let len := op.isReduction && m5
    let sum := op == .rsum || op == .scan || op == .sscan
    let usesB := len || op == .sscan || op == .lrscan || op == .perm || op == .perms || op == .cmpct ||
      (op == .bstep && m5)
    let usesC := (op == .lrscan || op == .hist) && m5
    let usesM5 := op.isReduction || op == .scan || op == .sscan || op == .scmax || op == .scmin ||
      op == .lrscan || op == .bstep || op == .hist
    let usesImm := op == .bstep || op == .hist || op == .brank
    let nb := f.imm % 8192
    let immOk := match op with
      | .bstep =>
        let s := f.imm % 32
        let t := bitsOf f.imm 8 5
        let tp := bitsOf f.imm 20 4
        bitsOf f.imm 5 3 == 0 && bitsOf f.imm 13 3 == 0 && bitsOf f.imm 17 3 == 0 && bitsOf f.imm 24 8 == 0 &&
          s ≤ 19 && t ≤ 20 && s < t && (if m5 then tp != f.td else tp == 0)
      | .hist | .brank => f.imm / 8192 == 0 && 1 ≤ nb && nb ≤ 4096
      | _ => true
    if f.rnd != 0 || (f.sat && !(sum && fmt.isInt)) || !op.fmtOk fmt || !op.scopeOk scope ||
        (seg != 0 && !(scope == .row && op.hasSeg)) || (!usesM5 && m5) || (!usesImm && f.imm != 0) || !immOk ||
        (!usesB && f.tb != 0) || (!usesC && f.tc != 0) || (op == .lrscan && p != .h3) ||
        f.bc != (if len then 8 else 0) then none
    else
      let full (t : Nat) (g : SrcFmt) := plainSrc t (some f.r) (some f.n) g
      let a := match op with
        | .perm => plainSrc f.ta (if scope == .row then some f.r else none) none (.is fmt)
        | _ => full f.ta (.is fmt)
      let b := if len then some ⟨f.tb, some f.r, some 1, .is .int32, false, true⟩
        else match op with
        | .sscan | .cmpct => some (full f.tb .anyInt)
        | .lrscan => some (full f.tb (.is .fp32))
        | .perm | .perms => some (full f.tb intIndex)
        | .bstep => if m5 then some (full f.tb (.anyOf 32)) else none
        | _ => none
      let c := if !usesC then none
        else if op == .hist then some (plainSrc f.tc (some (ceilDiv nb 64)) (some (min nb 64)) (.is .uint32))
        else some (full f.tc (.is .fp32))
      some ⟨f, op, fmt, scope, seg, m5, a, b, c⟩
  | _, _ => none

/-- Destination shape and format (R251, R252, R256 to R264). -/
def SwpPlan.dest (q : SwpPlan) : Tag :=
  let r := q.f.r
  let n := q.f.n
  let nb := q.f.imm % 8192
  let fd : Fmt := match q.op with
    | .rsum | .scan | .sscan => if q.fmt.isFloat then .fp32 else q.fmt
    | .ramax | .ramin | .hist | .brank => .uint32
    | _ => q.fmt
  if q.op.isReduction then
    match q.scope with
    | .row => ⟨r, if q.seg = 0 then 1 else ceilDiv n (2 ^ q.seg), fd⟩
    | .tile | .engine => ⟨1, 1, fd⟩
    | .xcl => ⟨r, n, fd⟩
  else if q.op == .hist then ⟨ceilDiv nb 64, min nb 64, fd⟩
  else ⟨r, n, fd⟩

def SwpPlan.srcs (q : SwpPlan) : List TileSrc := q.a :: (q.b.toList ++ q.c.toList)

/-- Payload tile of BSTEP with PAY (R262). -/
def SwpPlan.payTile (q : SwpPlan) : Option Nat :=
  if q.op == .bstep && q.m5 then some (bitsOf q.f.imm 20 4) else none

/-- The shape checks (R122, R126, R259). A source whose tag has a format that R251's table does not pair with FMT fails here,
with E_SHAPE (R126) and not with E_ENCODING (R251): DESIGN CHOICE: notes/assumptions/11.md. -/
def SwpPlan.shapeOk (q : SwpPlan) (tags : Nat → Option Tag) : Bool :=
  q.srcs.all (·.tagOk tags) && q.dest.cols ≤ 64 * q.dest.fmt.pack && q.f.n ≤ 64 * q.fmt.pack

/-- Occupancy and latency (R265). -/
def SwpPlan.timing (q : SwpPlan) (tags : Nat → Option Tag) : Nat × Nat :=
  let d := q.dest
  let lenB := q.op.isReduction
  let ws := (q.a :: ((if lenB then [] else q.b.toList) ++ q.c.toList)).filterMap (fun s =>
    (tags s.tile).map (fun t => ceilDiv t.cols t.fmt.pack))
  let n0 := ceilDiv q.f.r 8 * ceilDiv (ws.foldl max (ceilDiv d.cols d.fmt.pack)) 32
  let pick (row tile engine xcl : Nat × Nat) : Nat × Nat :=
    let (m, l) := match q.scope with
      | .row => row
      | .tile => tile
      | .engine => engine
      | .xcl => xcl
    (m * n0, l)
  match q.op with
  | .rsum | .rmax | .rmin | .ramax | .ramin => pick (1, 8) (1, 12) (1, 24) (2, 24)
  | .scan | .sscan | .scmax | .scmin => pick (1, 10) (1, 14) (1, 28) (2, 28)
  | .lrscan => pick (2, 14) (2, 20) (2, 36) (2, 36)
  | .perm | .perms | .cmpct => pick (2, 8) (2, 12) (4, 24) (4, 24)
  | .bstep => pick (1, 8) (1, 12) (2, 24) (2, 24)
  | .hist | .brank =>
    (n0 + ceilDiv (q.f.imm % 8192) 64, if q.scope == .tile then 14 else 28)

/-- Results with the places they go to. -/
abbrev Placed := List (Pos × ElemOut)

def Part.toOut (x : Part) : ElemOut := ⟨x.code, x.fl, x.nanIn⟩

/-- Places the members of a group's result. -/
def placeAll (g : List Pos) (xs : List Part) : Placed := g.zip (xs.map Part.toOut)

/-- One reduction over a group (R253 to R255). -/
def reduceGroup (q : SwpPlan) (c : VCtx) (g : List Pos) : ElemOut :=
  let members := g.zipIdx.filter (fun (p, _) =>
    match q.b with
    | some b => decide ((p.j : Int) < decodeInt .int32 (c.src p.cl b p.r 0).code)
    | none => true)
  let codes := members.map (fun (p, i) => (i, (c.src p.cl q.a p.r p.j)))
  if members.isEmpty then ⟨identityCode q.op q.fmt, flagNone, false⟩
  else
    match q.op with
    | .rsum =>
      if q.fmt.isInt then
        let s := codes.foldl (fun a (_, o) => a + decodeInt q.fmt o.code) 0
        ⟨putInt q.fmt q.f.sat s, flagNone, false⟩
      else
        (groupSum c.prof (members.map (fun (p, _) =>
          (widenPart c.prof (c.src p.cl q.a p.r p.j), logicalLane q.fmt p)))).toOut
    | .rmax | .rmin =>
      let xs := codes.map (fun (_, o) => (⟨flushIn c.prof q.fmt o.code, flagNone, o.isNan⟩ : Part))
      ((xs.drop 1).foldl (maxPart c.prof q.fmt (q.op == .rmin)) (xs.headD ⟨0, flagNone, false⟩)).toOut
    | _ =>
      let (i, fl) := argBest c.prof q.fmt (q.op == .ramin) (codes.map (fun (i, o) => (i, o.code)))
      ⟨i, fl, true⟩

/-- The exclusive form: each position takes its predecessor's inclusive result, bit for bit (R256, R257).
`starts` tells the positions that begin a segment. -/
def exclusive (ident : Nat) (starts : List Bool) (xs : List Part) : List Part :=
  let prev := (⟨ident, flagNone, false⟩ : Part) :: xs
  (xs.zip (prev.zip starts)).map (fun (x, p, st) =>
    if st then ⟨ident, x.fl, false⟩ else ⟨p.code, x.fl, p.nanIn⟩)

/-- A scan over one group (R256 to R258). -/
def scanGroup (q : SwpPlan) (c : VCtx) (g : List Pos) : Placed :=
  let p := c.prof
  let els := g.map (fun x => c.src x.cl q.a x.r x.j)
  let sumComb : Part → Part → Part := addPart p
  let bAt (x : Pos) : Operand := match q.b with
    | some b => c.src x.cl b x.r x.j
    | none => ⟨.int32, 0⟩
  let first := g.zipIdx.map (fun (_, i) => i == 0)
  match q.op with
  | .lrscan =>
    let h0 := match q.c, g.getLast? with
      | some t, some z =>
        let o := c.src z.cl t z.r z.j
        some (o.code, o.isNan)
      | _, _ => none
    placeAll g (lrscan p (g.map (fun x =>
      let a := c.src x.cl q.a x.r x.j
      let b := bAt x
      (⟨a.code, flagNone, a.isNan⟩, ⟨b.code, flagNone, b.isNan⟩))) h0)
  | .scmax | .scmin =>
    let isMin := q.op == .scmin
    let xs := els.map (fun o => (⟨flushIn p q.fmt o.code, flagNone, o.isNan⟩ : Part))
    let ys := scanKs (maxPart p q.fmt isMin) xs
    placeAll g (if q.m5 then exclusive (identityCode q.op q.fmt) first ys else ys)
  | _ =>
    let starts := if q.op == .sscan then g.zipIdx.map (fun (x, i) => i == 0 || (bAt x).code != 0) else first
    if q.fmt.isInt then
      -- exact prefix sums, then the SAT rule of R253 at each position
      let sums := ((els.zip starts).foldl (fun (acc : List Int × Int) (o, st) =>
        let v := (if st then 0 else acc.2) + decodeInt q.fmt o.code
        (v :: acc.1, v)) (([], 0) : List Int × Int)).1.reverse
      let ys := sums.map (fun v => (⟨putInt q.fmt q.f.sat v, flagNone, false⟩ : Part))
      placeAll g (if q.m5 then exclusive 0 starts ys else ys)
    else
      let xs := els.map (widenPart p)
      let ys := if q.op == .sscan then sscanKs sumComb (xs.zip starts) else scanKs sumComb xs
      placeAll g (if q.m5 then exclusive 0 starts ys else ys)

/-- An index of PERM or PERMS as a position, `none` when out of range (R259, R260). DEDUCED: notes/assumptions/17.md. -/
def indexIn (o : Operand) (m : Nat) : Option Nat :=
  let i := decodeInt o.fmt o.code
  if i < 0 then none else if i.toNat < m then some i.toNat else none

/-- PERM on the groups of D and the matching groups of A (R259). DEDUCED: notes/assumptions/17.md. -/
def permGroup (q : SwpPlan) (c : VCtx) (g ga : List Pos) : Placed :=
  let arr := ga.toArray
  g.map (fun x =>
    let ix := match q.b with
      | some b => indexIn (c.src x.cl b x.r x.j) arr.size
      | none => none
    match ix with
    | none => (x, ⟨0, flagNV, true⟩)
    | some i =>
      let y := arr.getD i ⟨0, 0, 0⟩
      let o := c.src y.cl q.a y.r y.j
      (x, ⟨o.code, flagNone, o.isNan⟩))

/-- PERMS (R260): an out-of-range index raises NV at its own position. -/
def permsGroup (q : SwpPlan) (c : VCtx) (g : List Pos) : Placed :=
  let m := g.length
  let srcs := g.map (fun x =>
    let o := c.src x.cl q.a x.r x.j
    (o, match q.b with
      | some b => indexIn (c.src x.cl b x.r x.j) m
      | none => none))
  let filled := srcs.foldl (fun (arr : Array (Nat × Bool)) (o, ix) =>
    match ix with
    | some i => arr.setIfInBounds i (o.code, o.isNan)
    | none => arr) (Array.replicate m (0, false))
  (g.zip srcs).zipIdx.map (fun ((x, _, ix), i) =>
    let (code, nan) := filled.getD i (0, false)
    (x, ⟨code, if ix.isNone then flagNV else flagNone, nan⟩))

/-- CMPCT (R261). -/
def cmpctGroup (q : SwpPlan) (c : VCtx) (g : List Pos) : Placed :=
  let kept := g.filter (fun x => match q.b with
    | some b => (c.src x.cl b x.r x.j).code != 0
    | none => false)
  let outs := kept.map (fun x =>
    let o := c.src x.cl q.a x.r x.j
    (⟨o.code, flagNone, o.isNan⟩ : ElemOut))
  g.zip (outs ++ List.replicate (g.length - outs.length) ⟨0, flagNone, false⟩)

/-- BSTEP: keys, and with PAY the payload. H1 compares flushed keys, and the key that moves is unchanged (R262). -/
def bstepGroup (q : SwpPlan) (c : VCtx) (g : List Pos) : Placed × Placed :=
  let whole := (g.map (fun x => (c.src x.cl q.a x.r x.j).code)).toArray
  let keys := whole.map (flushIn c.prof q.fmt)
  let from_ := bstepFrom q.fmt (q.f.imm % 32) (bitsOf q.f.imm 8 5) (bitOf q.f.imm 16) keys
  let arr := g.toArray
  let ks := (g.zip from_).map (fun (x, i, nv) =>
    let code := whole.getD i 0
    (x, (⟨code, if nv then flagNV else flagNone, isNanCode q.fmt code⟩ : ElemOut)))
  let vs := match q.b with
    | none => []
    | some b => (g.zip from_).map (fun (x, i, _) =>
        let y := arr.getD i ⟨0, 0, 0⟩
        let o := c.src y.cl b y.r y.j
        (x, (⟨o.code, flagNone, true⟩ : ElemOut)))
  (ks, vs)

/-- HIST (R263): bin counts over a group. -/
def histCounts (q : SwpPlan) (c : VCtx) (g : List Pos) : Array Nat :=
  let nb := q.f.imm % 8192
  g.foldl (fun (arr : Array Nat) x =>
    let v := decodeInt q.fmt (c.src x.cl q.a x.r x.j).code
    if 0 ≤ v && v < (nb : Int) then arr.modify v.toNat (· + 1) else arr) (Array.replicate nb 0)

/-- HIST placed in every cluster that receives the group's counts. -/
def histGroup (q : SwpPlan) (c : VCtx) (g : List Pos) : Placed :=
  let nb := q.f.imm % 8192
  let counts := histCounts q c g
  let cls : List Nat := match q.scope with
    | .engine => upTo c.k
    | _ => (g.take 1).map Pos.cl
  cls.flatMap (fun cl => (upTo (ceilDiv nb 64 * min nb 64)).map (fun b =>
    let pos : Pos := ⟨cl, b / min nb 64, b % min nb 64⟩
    let base := match q.c with
      | some t => (c.src cl t pos.r pos.j).code
      | none => 0
    (pos, ⟨(base + counts.getD b 0) % 2 ^ 32, flagNone, true⟩)))

/-- BRANK (R264). -/
def brankGroup (q : SwpPlan) (c : VCtx) (g : List Pos) : Placed :=
  let nb := q.f.imm % 8192
  (g.foldl (fun (acc : Placed × Array Nat) x =>
    let v := decodeInt q.fmt (c.src x.cl q.a x.r x.j).code
    if 0 ≤ v && v < (nb : Int) then
      ((x, ⟨acc.2.getD v.toNat 0, flagNone, true⟩) :: acc.1, acc.2.modify v.toNat (· + 1))
    else ((x, ⟨0xFFFFFFFF, flagNone, true⟩) :: acc.1, acc.2))
    (([], Array.replicate nb 0) : Placed × Array Nat)).1.reverse

/-- All result elements of a Sweep instruction, and its payload elements. -/
def SwpPlan.results (q : SwpPlan) (c : VCtx) : Placed × Placed :=
  let gs := groups q.scope q.seg c.k q.f.r q.f.n
  match q.op with
  | .rsum | .rmax | .rmin | .ramax | .ramin =>
    (gs.flatMap (fun g =>
      let o := reduceGroup q c g
      (reductionTargets q.scope q.seg c.k g).map (fun p => (p, o))), [])
  | .scan | .sscan | .scmax | .scmin | .lrscan => (gs.flatMap (scanGroup q c), [])
  | .perm =>
    let (ra, na) := match c.tag q.f.ta with
      | some t => (t.rows, t.cols)
      | none => (1, 1)
    let gas := groups q.scope 0 c.k ra na
    ((gs.zip gas).flatMap (fun (g, ga) => permGroup q c g ga), [])
  | .perms => (gs.flatMap (permsGroup q c), [])
  | .cmpct => (gs.flatMap (cmpctGroup q c), [])
  | .bstep =>
    let rs := gs.map (bstepGroup q c)
    (rs.flatMap (·.1), rs.flatMap (·.2))
  | .hist => (gs.flatMap (histGroup q c), [])
  | .brank => (gs.flatMap (brankGroup q c), [])

/-- Writes a set of placed elements into a tile of cluster `cl`. -/
def putPlaced (td : Nat) (d : Tag) (en : Nat → Bool) (cl : Nat) (xs : Placed) : ClusterOut :=
  let mine := xs.filter (fun x => x.1.cl == cl)
  let arr := mine.foldl (fun (a : Array ElemOut) (p, o) => a.setIfInBounds (p.r * d.cols + p.j) o)
    (Array.replicate (d.rows * d.cols) ⟨0, flagNone, true⟩)
  putTile td d.rows d.cols d.fmt en cl (fun r j => arr.getD (r * d.cols + j) ⟨0, flagNone, true⟩)

/-- What a Sweep instruction writes into each logical cluster below LCCOUNT (R245, R249). -/
def SwpPlan.run (q : SwpPlan) (c : VCtx) : List ClusterOut :=
  let (ks, vs) := q.results c
  (upTo c.k).map (fun cl =>
    let en := c.enabled q.f.men q.f.msel cl
    let o := putPlaced q.f.td q.dest en cl ks
    match q.payTile with
    | none => o
    | some tp =>
      let fp := match c.tag q.f.tb with
        | some t => t.fmt
        | none => .int32
      let o2 := putPlaced tp ⟨q.f.r, q.f.n, fp⟩ en cl vs
      ⟨o.cells ++ o2.cells, o.fls, o.nans ++ o2.nans⟩)

/-- Masks a Sweep instruction reads. -/
def SwpPlan.maskReads (q : SwpPlan) : List Nat := if q.f.men then [q.f.msel] else []

end Sys2Proof.Machine
end

