-- ==== Sys2Proof/Machine/State.lean ====
section
/-! DEFINITION. The block's state as plain data: every register, buffer, queue, counter and mode that the
spec gives it (INVENTORY.md, "State"), and the queue of commands. -/

namespace Sys2Proof.Machine

/-! ### Clocks, lanes and maps -/

/-- Clock state (R38, R472 to R476, R483 to R486). -/
structure Clk where
  /-- CKR cycles since power-on reset ended (R472). -/
  ckr : Nat
  /-- CYC: core cycles since block reset (R38). -/
  cyc : Nat
  /-- Maintenance ticks since block reset (R380). -/
  ticks : Nat
  /-- Fabric cycles since block reset, which the port time-outs count (R448). -/
  fab : Nat
  /-- CLK_STATUS.DIV: the divisor code in force. -/
  divNow : Nat
  /-- CLK_CFG.CORE_DIV. -/
  coreDiv : Nat
  /-- The divisor code a requested switch leads to. -/
  divTarget : Option Nat
  /-- The control cycle of the last request, which the next one evaluates (R474). -/
  askedAt : Option Nat
  /-- FOG_CFG fields (R484). -/
  fogThresh : Nat
  fogHyst : Nat
  fogFilter : Nat
  fogAuto : Bool
  fogAdiv : Nat
  fogHold : Nat
  /-- CLK_STATUS.FOGTHR: the Foghorn throttle is in force (R483). -/
  fogThr : Bool
  /-- Core and fabric clocks stopped in Eclipse (R476). -/
  stopped : Bool
  deriving DecidableEq, Repr

/-- One physical cluster's lane state (R120, R128, R197). -/
structure Lanes where
  /-- Tile containers by `tileKey`, default 0. -/
  tiles : Sparse Word
  /-- Mask registers M0 to M7, default all ones (R128). -/
  masks : Sparse (BitVec 256)
  flags : FlagSet
  /-- Operand-reuse latches: keys (unit, position, slice) to (tile, row, group) + 1 (R141). -/
  latches : Sparse Nat
  /-- Control cycle in which a flag was raised last, and the flags raised in it (R198). -/
  raisedAt : Nat
  raisedNow : FlagSet
  deriving DecidableEq, Repr

def Lanes.fresh : Lanes := ⟨[], [], flagNone, [], 0, flagNone⟩

/-- States of a physical cluster (R499). -/
inductive PcState where
  | mapped | idle | spare | fenced
  deriving DecidableEq, Repr

def PcState.code : PcState → Nat
  | .mapped => 0
  | .idle => 1
  | .spare => 2
  | .fenced => 3

/-- Cluster and sector maps (R22 to R26, R498 to R501). -/
structure Maps where
  /-- Backing physical cluster of each logical cluster (CLMAP). -/
  cl : List (Option Nat)
  /-- Home physical cluster of each logical index (R26). -/
  home : List (Option Nat)
  pc : List PcState
  /-- Backing physical sector of each logical sector (SECMAP). -/
  sec : List (Option Nat)
  psec : List PcState
  /-- Physical sectors whose first-LIGHT BIST has been made (R433). -/
  tested : List Bool
  /-- GRP_MASK0 to GRP_MASK7 (R495). -/
  grp : List Word
  /-- BCAST_STATUS (R496). -/
  bcast : Word
  /-- LCCOUNT of the running or last launch (R497). -/
  lastLc : Nat
  /-- The control cycle that last changed CLMAP, and CLMAP before it (R494). -/
  before : Option (Nat × List (Option Nat))
  deriving DecidableEq, Repr

/-! ### Osura -/

/-- A logical sector's state (R58); a lighting sector reads as Dark (R59). -/
inductive SecState where
  | dark | lighting | lit | closing | retention
  deriving DecidableEq, Repr

def SecState.code : SecState → Nat
  | .dark | .lighting => 0
  | .lit => 1
  | .closing => 2
  | .retention => 3

/-- Asynchronous agents in the order of R45 and R46. -/
inductive Agent where
  | beacon | cow | writeBack | scrubOver
  | lantern | ring1 | tender | ring2 | flush | log
  | scrub
  deriving DecidableEq, Repr

/-- Who gets a served asynchronous request's data or completion, with what it needs to go on. -/
inductive Owner where
  /-- A flush of a coalescing entry: physical cluster, logical cluster, bank word, oldest store's issue cycle. -/
  | flush (pc cl word age : Nat)
  | scrub (line : Nat)
  | writeBack
  /-- Tender channel (half × 64 + channel) and request number. -/
  | tender (ch req : Nat)
  /-- A far-load row written into Osura: MOV issue number, logical cluster, row. -/
  | fldo (mov cl row : Nat)
  /-- A Lantern access: Lantern and request number. -/
  | lantern (ln req : Nat)
  /-- A mooring arrival: inbound port and arrival number. -/
  | mooring (mo arrival : Nat)
  /-- A Logbook read of a granule's line: area, granule, line of the granule. -/
  | log (granule line : Nat)
  /-- A restore write: granule and line. -/
  | restore (granule line : Nat)
  /-- A trace record write (R509). -/
  | trace
  /-- Nobody: an accepted write whose owner has been discarded (R394). -/
  | nobody
  deriving DecidableEq, Repr

/-- An asynchronous request waiting at a sector controller (R45): one run of bytes within one line. -/
structure AsyncReq where
  agent : Agent
  who : Owner
  addr : Nat
  len : Nat
  /-- `none` is a read; a write holds its enabled bytes by Osura address. -/
  wr : Option (List Host.Cell)
  /-- Bank passes still to make: two for a read-modify-write (R49). -/
  passes : Nat
  /-- Core cycle in which it reached the arbiter (R47). -/
  since : Nat
  /-- It stood in the queue when DARKEN took effect (R62). -/
  accepted : Bool
  /-- Core cycles of its present wait on a buoy (R83). -/
  waited : Nat
  /-- A fetch that waits as a checked read does (R76, R77). -/
  checked : Bool
  /-- All core cycles it has waited on buoys (R342). -/
  held : Nat
  /-- It waited when E_STALL suspended its Lantern, and is tried again on the resume (R298). -/
  stalled : Bool
  deriving DecidableEq, Repr

/-- What a logical sector's controller keeps. -/
structure SecCtl where
  st : SecState
  /-- A DARKEN arrived while the sector was lighting (R59). -/
  closeAfter : Bool
  /-- Core cycle at which Closing began (R62). -/
  closeAt : Nat
  /-- Arbiter credits of the six weighted agents (R46). -/
  credits : List Nat
  /-- Next line of the scrubber (R56, R57), whether its request waits, and whether it is overdue. -/
  scrubLine : Nat
  scrubWait : Bool
  scrubOver : Bool
  /-- Maintenance tick of the last scrub request (R56). -/
  scrubTick : Nat
  /-- Corrected errors in the present scrub pass (R63). -/
  ce : Nat
  /-- Core cycle after the last one in which the arbiter granted (R45), and the banks it granted then. -/
  served : Nat
  granted : List Nat
  /-- Weights in force since the last reload of the counters (R67). -/
  weights : List Nat
  deriving DecidableEq, Repr

def SecCtl.fresh : SecCtl :=
  ⟨.dark, false, 0, [0, 0, 0, 0, 0, 0], 0, false, false, 0, 0, 0, [], [6, 4, 3, 2, 2, 1]⟩

/-- A coalescing-buffer entry (R48): bank word, enabled bytes, allocation cycle, oldest and newest
store's issue cycle, and whether a fence or PROD asks it to flush. -/
structure CbEntry where
  word : Nat
  bytes : List Host.Cell
  at_ : Nat
  age : Nat
  must : Bool
  cl : Nat
  deriving DecidableEq, Repr

/-- Osura and its controllers. -/
structure Osura where
  /-- Bytes by physical address `psec × 2^23 + offset`, default 0x00 (R60). -/
  data : List Host.Cell
  /-- Check bytes by physical ECC word, default 0x00 (R37, R54). -/
  check : List Host.Cell
  secs : Sparse SecCtl
  share : Nat
  sharePend : Option Nat
  weights : List Nat
  scrubPace : Nat
  ceRetire : Nat
  ueAddr : Nat
  ueScrub : Bool
  ueValid : Bool
  q : List AsyncReq
  /-- Coalescing buffers by physical cluster, oldest entry first (R48). -/
  cb : Sparse (List CbEntry)
  deriving DecidableEq, Repr

/-! ### Buoys -/

/-- States of R71. -/
inductive BuoyState where
  | free | filling | ready | draining
  deriving DecidableEq, Repr

def BuoyState.code : BuoyState → Nat
  | .free => 0
  | .filling => 1
  | .ready => 2
  | .draining => 3

/-- A buoy (R71). -/
structure Buoy where
  base : Nat
  nlines : Nat
  expect : Nat
  consume : Nat
  reload : Bool
  p : Nat
  c : Nat
  st : BuoyState
  deriving DecidableEq, Repr

def Buoy.idle : Buoy := ⟨0, 0, 0, 0, false, 0, 0, .free⟩

structure Buoys where
  b : Sparse Buoy
  /-- Core cycle (its first CKR cycle) of the last change to a buoy, and the buoys changed in it as they stood before
  it, each with whether a command has acted on it in that cycle (R79). -/
  changedAt : Nat
  before : List (Nat × Buoy × Bool)
  stallLog2 : Nat
  sel : Nat
  info0 : Word
  info1 : Word
  info2 : Word
  /-- BUOY_ERR fields (R87). -/
  errBuoy : Nat
  errKind : Nat
  errSource : Nat
  errUncov : Bool
  errValid : Bool
  deriving DecidableEq, Repr

/-! ### The bundle stream -/

/-- The running launch (R371, R373). -/
structure Launch where
  seq : Nat
  profile : Profile
  lc : Nat
  user : Nat
  index : Nat
  deriving DecidableEq, Repr

/-- STREAM_PC, STREAM_STOP and STREAM_BRTGT (R119). -/
structure StopRec where
  pc : Nat
  cause : Nat
  slot : Nat
  rclass : Nat
  reg : Nat
  rule : Nat
  brpend : Nat
  resumable : Bool
  brtgt : Nat
  deriving DecidableEq, Repr

def StopRec.blank : StopRec := ⟨0, 0, 0, 0, 0, 0, 0, false, 0⟩

/-- A loop counter K0 to K3 (R104, R105): a LOOP's remaining count, or a BITSCAN's remaining bits with
the scalar it writes. -/
structure KCtr where
  active : Bool
  isScan : Bool
  left : Nat
  sd : Nat
  lo : Nat
  hi : Nat
  deriving DecidableEq, Repr

def KCtr.off : KCtr := ⟨false, false, 0, 0, 0, 0⟩

/-- A register in flight (R112): tiles 0 to 15, masks 16 to 23, scalars 32 to 63. -/
structure BoardEnt where
  reg : Nat
  isWrite : Bool
  first : Nat
  last : Nat
  ready : Nat
  deriving DecidableEq, Repr

/-- What a stream access waiting in a window is for (R40, R41). -/
inductive WinKind where
  /-- A fetch read, or a read of the loop buffer's load, with the number of the fetch it belongs to (R101, R106). -/
  | fetch (gen : Nat)
  | loopLoad (gen : Nat)
  /-- A MOV load word: issue number of the MOV and the cluster's own buffered bytes at issue (R50). -/
  | movLoad (mov : Nat) (own : List Host.Cell)
  /-- An SLD: register, address and the issue cycle of its write (R98, R99). -/
  | sld (reg addr due : Nat)
  | desc
  | movStore (mov : Nat) (cells : List Host.Cell)
  | sst (cells : List Host.Cell)
  deriving DecidableEq, Repr

/-- A stream access issued and not yet served: its period, bank word and logical cluster (R40 to R43). -/
structure WinAcc where
  period : Nat
  word : Nat
  cl : Option Nat
  kind : WinKind
  age : Nat
  deriving DecidableEq, Repr

/-- One access of a bank that a window owes (R40, R41): the window's period, the bank as sector × 32 + bank, and the
reads merged into it, or the one store, in the order of R43. -/
structure BankAcc where
  period : Nat
  bank : Nat
  word : Nat
  store : Bool
  accs : List WinAcc
  deriving DecidableEq, Repr

/-- A MOV still moving rows, with what it captured at issue (R116, R118). -/
structure MovInst where
  id : Nat
  /-- Issue cycle of its bundle, and of its last re-issue (R118). -/
  born : Nat
  issue : Nat
  unit : Nat
  f : MovSlot
  base : Nat
  dbase : Nat
  /-- First memory row to move. -/
  first : Nat
  lat : Nat
  occ : Nat
  /-- Occupancy cycle that brings the last word of each row, from row `first` on (R111, R133). -/
  rowCyc : List Nat
  /-- Gate masks by logical cluster, captured at issue. -/
  gates : List Nat
  /-- Store data: per logical cluster the enabled containers as (byte address, container), in row order. -/
  stores : List (List (Nat × Nat))
  /-- Words served or entered, with load data: (logical cluster, bank word, bytes). -/
  got : List (Nat × Nat × List Byte)
  /-- Far data by (logical cluster, row, offset). -/
  farGot : List (Nat × Nat × Nat × List Byte)
  rowsDone : Nat
  /-- Rows of an FLDO that have been sent to Osura (R140). -/
  sent : Nat
  /-- The row this MOV was cut at, while the stream is stopped. -/
  cut : Option Nat
  deriving DecidableEq, Repr

/-- A vector or Sweep result held back behind an older load of the same tile (R111, R112). -/
structure WriteBack where
  id : Nat
  regs : List Nat
  /-- Per logical cluster: containers written. -/
  cells : List (List (Nat × Nat))
  deriving DecidableEq, Repr

/-- A partial store on its way into a coalescing buffer (R48, R49). -/
structure PartStore where
  cl : Nat
  word : Nat
  cells : List Host.Cell
  age : Nat
  deriving DecidableEq, Repr

/-- The loop buffer (R106). -/
structure LoopBuf where
  lo : Nat
  hi : Nat
  /-- First address not yet asked for. -/
  next : Nat
  complete : Bool
  bytes : List Host.Cell
  /-- Number of this load among the fetches. -/
  gen : Nat
  /-- Kept from an earlier launch: the present one fetches past it until its first jump (R373). -/
  idle : Bool
  deriving DecidableEq, Repr

def LoopBuf.empty : LoopBuf := ⟨0, 0, 0, false, [], 0, false⟩

/-- Far-load settings (R142). -/
structure FarCfg where
  win : Nat
  lat : Nat
  deriving DecidableEq, Repr

/-- FAR_FAULT and FAR_FAULT_IOVA (R143). -/
structure FarFault where
  unit : Nat
  cluster : Nat
  row : Nat
  port : Nat
  valid : Bool
  iova : Nat
  deriving DecidableEq, Repr

def FarFault.blank : FarFault := ⟨0, 0, 0, 0, false, 0⟩

/-- What a stop names (R115, R119): cause, slot (`none` where the spec names none), the hazard's fields and a buoy. -/
structure StopAt where
  cause : Nat
  slot : Option Nat
  rclass : Nat
  reg : Nat
  rule : Nat
  buoy : Nat
  deriving DecidableEq, Repr

structure Stream where
  launch : Option Launch
  stop : StopRec
  movRow : List (Nat × Bool)
  pc : Nat
  scal : Sparse DWord
  k : Sparse KCtr
  loopOrder : List Nat
  /-- Pending branch target and delay bundles still to issue (R102, R116). -/
  branch : Option (Nat × Nat)
  loopBuf : LoopBuf
  fetchPc : Nat
  fetched : List Host.Cell
  /-- Number of the present fetch, and the core cycle after the last one in which it read (R101). -/
  fetchGen : Nat
  fetchAt : Nat
  /-- Bytes that stores have replaced and that fetch still sees as they were: until a fence, and from the fence to
  the next taken branch, loop skip or loop exit (R107). -/
  shadow : List Host.Cell
  fenced : List Host.Cell
  /-- First core cycle at which the bundle at `pc` may issue after a jump (R102). -/
  earliest : Nat
  icyc : Nat
  board : List BoardEnt
  /-- First issue cycle at which each slot's unit is free (R112, UNIT). -/
  unitFree : Sparse Nat
  tags : List (Option Tag)
  window : List WinAcc
  /-- Bank accesses of past windows still to be served, the core cycle after the last service, and the banks that
  have served the stream or a descriptor's start in it (R31, R40, R44). -/
  due : List BankAcc
  servedAt : Nat
  servedBanks : List Nat
  movs : List MovInst
  movNext : Nat
  wb : List WriteBack
  carry : List PartStore
  /-- Scalar results on their way: the issue cycle of their write, register, and value once it is known (R98). -/
  scalQ : List (Nat × Nat × Option Nat)
  /-- Flags on their way by issue cycle × 64 + logical cluster (R197). -/
  flagQ : Sparse FlagSet
  /-- Buoy commands that issued in the present control cycle: the control cycle, the buoy, the buoy as it would stand
  without them, and the issue cycle (R386). -/
  cmds : List (Nat × Nat × Buoy × Nat)
  /-- FUS and TND that issued in the present control cycle: the control cycle, kind 2 for a Lantern and 3 for a channel, and
  the unit (R386). -/
  sentTo : List (Nat × Nat × Nat)
  /-- Conflict stall cycles owed, and the bank of each deferred access (R44). -/
  bankStall : Nat
  deferred : List Nat
  /-- Spare stalls owed: (issue cycle at which they fall due, cycles) (R25). -/
  spareDue : List (Nat × Nat)
  spareStall : Nat
  trapWait : Nat
  fence : Bool
  /-- PROD counts not yet made: buoy and the PROD's issue cycle (R74). -/
  prods : List (Nat × Nat)
  ended : Bool
  frozen : Bool
  pauseReq : Bool
  /-- Core cycles the present bundle has waited on buoys (R83). -/
  buoyWait : Nat
  /-- The present bundle has passed its first check and waits (R72). -/
  looked : Bool
  /-- A stop that has been found and is still to be recorded (R116). -/
  stopWait : Option StopAt
  /-- Resume in progress: cut MOVs still to finish (R118). -/
  resuming : Bool
  far : FarCfg
  farPend : Option FarCfg
  farFault : FarFault
  /-- Far translation faults answered since the last stop, with the issue number of the MOV. -/
  farHits : List (Nat × FarFault)
  deriving DecidableEq, Repr

/-- A NaN trap that has been found and is recorded when the trap-exact wait ends (R200 to R202): how many results
trapped, and the first one's record. -/
structure TrapHit where
  count : Nat
  resume : Bool
  pc : Nat
  slot : Nat
  cluster : Nat
  slice : Nat
  lane : Nat
  opcode : Nat
  born : Bool
  row : Nat
  col : Nat
  seq : Nat
  deriving DecidableEq, Repr

/-- NaN trap settings and record (R203, R204). -/
structure Trap where
  mode : Nat
  resume : Bool
  slots : Nat
  /-- Control cycle after that of the last write of TRAPCTL, and mode, resume and slots before it (R200). -/
  setAt : Nat
  was : Nat × Bool × Nat
  pc : Nat
  slot : Nat
  cluster : Nat
  slice : Nat
  lane : Nat
  opcode : Nat
  born : Bool
  valid : Bool
  row : Nat
  col : Nat
  seq : Nat
  /-- A trap of the last bundle, still to be recorded. -/
  found : Option TrapHit
  /-- A recorded trap, to stop before the next bundle, and whether the stop is resumable (R201). -/
  hit : Bool
  hitResume : Bool
  deriving DecidableEq, Repr
/-! ### Events, faults, counters and memory ports -/

/-- An event record before it is written (R380, R381). -/
structure EvRec where
  typ : Nat
  ring : Nat
  index : Nat
  time : Nat
  seq : Nat
  p0 : Nat
  p1 : Nat
  p2 : Nat
  p3 : Nat
  deriving DecidableEq, Repr

/-- A detected error on its way to the fault sequencer (R391, R392): unit kind, reason, physical and
logical unit, and the class of R390. -/
structure ErrRec where
  kind : Nat
  reason : Nat
  phys : Nat
  logi : Nat
  /-- Osura address or IOVA of P3 (R397), and the tick of detection. -/
  addr : Nat
  at_ : Nat
  /-- Control cycle of detection (R392), and whether the Foghorn condition was there in the 1 ms before it (R397). -/
  ctl : Nat
  fog : Bool
  /-- A discard has covered it (R392). -/
  covered : Bool
  deriving DecidableEq, Repr

/-- Counters (R505 to R508): engine counters by number, per-cluster counters by kind × 64 + physical cluster. A 32-bit
counter holds the events since its last clear; it saturates where it is read (`Counters.shown`). -/
structure Counters where
  eng : Sparse Nat
  cl : Sparse Nat
  freeze : Bool
  /-- The control cycle of the last event, and the counters as they stood before it (R505). -/
  was : Option (Nat × Sparse Nat × Sparse Nat)
  /-- The control cycle of the last CLEAR, whose own events are cleared as well (R506). -/
  cleared : Option Nat
  deriving DecidableEq, Repr

/-! ### The Logbook -/

/-- A close in progress (R404). -/
structure LogClose where
  k : Nat
  seq : Nat
  /-- 0 waiting to quiesce, 1 draining granules, 2 writing the record body, 3 writing SEALED,
  4 the SEALED write is answered. -/
  phase : Nat
  /-- Area of the close is B. -/
  inB : Bool
  /-- The captured mark record, bytes 0x0004 to 0x1FFF. -/
  body : List Byte
  ngran : Nat
  deriving DecidableEq, Repr

/-- A restore in progress (R409, R410). -/
structure LogRestore where
  full : Bool
  inB : Bool
  /-- 0 reading records, 1 restoring granules, 2 done writing. -/
  phase : Nat
  recA : List Byte
  recB : List Byte
  /-- Granules still to start. -/
  todo : List Nat
  deriving DecidableEq, Repr

/-- The Logbook (R398 to R418). -/
structure Log where
  en : Bool
  rate : Nat
  epoch : Nat
  baseA : Nat
  baseB : Nat
  dirtyA : Sparse Bool
  dirtyB : Sparse Bool
  bitmapV : Bool
  openB : Bool
  haveMark : Bool
  rbusy : Bool
  rdone : Bool
  rerr : Nat
  err : Bool
  restoreK : Nat
  areaOpen : Bool
  /-- The area of a complete close whose CLOSED or MABORT is still to come (R401, R406). -/
  sealedIn : Option Bool
  next : Nat
  /-- Granules pending for the closing mark and not yet read (R404, R405). -/
  pend : Sparse Bool
  /-- Granules being read: lines still to come. -/
  reading : Sparse Nat
  /-- Granules being read that were written again before the capture: they are read once more (R404). -/
  torn : Sparse Bool
  /-- Granule lines read and waiting to be written to a log area: (granule, line, bytes). -/
  staged : List (Nat × Nat × List Byte)
  close : Option LogClose
  restore : Option LogRestore
  restored : Bool
  /-- The area that holds an ABORTED close (R401). -/
  aborted : Option Bool
  /-- MARK_LAST is a mark that this chip can restore (R397). -/
  restorable : Bool
  deriving DecidableEq, Repr

/-! ### Tender and the memory ports -/

/-- A transfer descriptor's fields (R309). -/
structure Xfer where
  kind : Nat
  profile : Nat
  half : Nat
  ch : Nat
  ssp : Bool
  dsp : Bool
  ben : Bool
  buoy : Nat
  evt : Bool
  cls : Nat
  rsvd0 : Nat
  conv : Nat
  rnd : Nat
  sat : Bool
  psize : Nat
  rsvd1 : Nat
  src : Nat
  dst : Nat
  len : Nat
  n1 : Nat
  n2 : Nat
  ss1 : Int
  ss2 : Int
  ds1 : Int
  ds2 : Int
  idx : Nat
  idxlim : Nat
  scl : Nat
  evtdata : Nat
  deriving DecidableEq, Repr

/-- Channel states of R306 and R321; `finished` waits for its TRANSFER_COMPLETE, and `recording` until its completion
record has been written (R323). -/
inductive ChSt where
  | idle | busy | paused | finished | recording
  deriving DecidableEq, Repr

/-- A memory-port request of a channel that has no tag yet (R318, R319). -/
structure ExtReq where
  req : Nat
  iova : Nat
  len : Nat
  wr : Option (List Byte)
  deriving DecidableEq, Repr

/-- A read of a channel: request number, what it is for (0 row data, 1 scales, 2 indices, 3 pattern,
4 SEND data), its place in the rows at hand, its length and its data once served. -/
structure TdRead where
  req : Nat
  kind : Nat
  pos : Nat
  len : Nat
  data : Option (List Byte)
  deriving DecidableEq, Repr

/-- A Tender channel (R306, R307, R321). -/
structure Chan where
  st : ChSt
  x : Xfer
  /-- Transfer-ring slot, or `none` for a TND. -/
  ring : Option Nat
  prof : Profile
  phase : Nat
  row : Nat
  off : Nat
  idx : List Nat
  idxBad : Bool
  pat : List Byte
  reads : List TdRead
  /-- Outstanding writes: request number and the source place in the rows at hand to go on from after a fault. -/
  writes : List (Nat × Nat)
  ext : List ExtReq
  nreq : Nat
  status : Nat
  /-- Translation fault being wound up: place in element order of the first one, IOVA, direction, port. -/
  fault : Option (Nat × Nat × Nat × Nat)
  /-- SEND progress: bytes packed, next packet index, chunks awaiting replies (first and last SEQ), NAKed. -/
  spos : Nat
  sseq : Nat
  chunks : List (Nat × Nat)
  chunkFrom : Nat
  nak : Bool
  waited : Nat
  deriving DecidableEq, Repr

def Xfer.blank : Xfer :=
  ⟨0, 0, 0, 0, false, false, false, 0, false, 0, 0, 0, 0, false, 0, 0, 0, 0, 0, 0, 0, 0, 0, 0, 0, 0, 0, 0, 0⟩

def Chan.idle : Chan :=
  ⟨.idle, Xfer.blank, none, .h3, 0, 0, 0, [], false, [], [], [], [], 0, 0, none, 0, 0, [], 0, false, 0⟩

structure Tender where
  ch : Sparse Chan
  /-- Transfers started per channel, for XTAG (R334). -/
  count : Sparse Nat
  /-- Channel last served, per half × 24 + port, plus one (R308). -/
  rot : Sparse Nat
  /-- Half to look at first, per port (R320). -/
  half : Sparse Nat
  /-- The last command of SYS for a channel: control cycle, channel, operation, and the channel before it (R385). -/
  cmdWas : Option (Nat × Nat × Nat × Chan)
  /-- Transfers of TNDs that an order of their control cycle has sent back to wait for their channel (R386). -/
  sentBack : List (Nat × Xfer)
  /-- TD_FAULT and TD_FAULT_IOVA (R329). -/
  fHalf : Nat
  fCh : Nat
  fDir : Nat
  fPort : Nat
  fValid : Bool
  fIova : Nat
  deriving DecidableEq, Repr

/-- Who a memory-port request is for (R448). -/
inductive MemOwner where
  | tender (ch req : Nat)
  /-- A far read: MOV issue number, logical cluster, row, offset in the row. -/
  | far (mov cl row off : Nat)
  /-- A Logbook write of mirroring or a close: granule and line, or 0xFFFF for the record. -/
  | log (granule line : Nat)
  /-- STATE of a mark record: its area and value. -/
  | logState (inB : Bool) (value : Nat)
  /-- A Logbook write that was under way when LOG_CFG.EN was cleared: nothing follows from its answer but a fault. -/
  | logStale
  /-- A restore read of a mark record (area B?, offset) or of a granule's unit. -/
  | restoreRec (inB : Bool) (off : Nat)
  | restoreGran (granule off : Nat)
  /-- Nobody: the response is dropped, and its tag then freed (R393). -/
  | dropped
  /-- Its time-out has been reported: the response is dropped (R448). -/
  | expired
  deriving DecidableEq, Repr

/-- A request that waits for a tag of its port. -/
structure MemReq where
  who : MemOwner
  iova : Nat
  len : Nat
  wr : Option (List Byte)
  deriving DecidableEq, Repr

/-- A request that holds a tag (R319). -/
structure MemTag where
  port : Nat
  tag : Nat
  who : MemOwner
  iova : Nat
  len : Nat
  /-- A write's data. -/
  wr : Option (List Byte)
  /-- Fabric cycle in which it was accepted. -/
  at_ : Nat
  deriving DecidableEq, Repr

/-- A read tag that its channel keeps, its response having come, while the write of the data waits on a buoy (R78). -/
structure HeldTag where
  port : Nat
  tag : Nat
  ch : Nat
  /-- Lines that the data is to be written to: first, and one past the last. -/
  lines : List (Nat × Nat)
  deriving DecidableEq, Repr

structure MemPorts where
  rd : List MemTag
  wr : List MemTag
  /-- Tags of answered reads whose data waits on a buoy (R78). -/
  held : List HeldTag
  /-- Far-load reads waiting (R138), and Logbook and restore requests waiting (R402). -/
  farQ : List MemReq
  logQ : List MemReq
  /-- Logbook bucket per port (R402). -/
  bucket : Sparse Nat
  /-- MEM ports fenced (R390). -/
  fenced : Sparse Bool
  deriving DecidableEq, Repr

/-! ### Lanterns -/

/-- A chain stage entry (R277). -/
structure LnStage where
  code : Nat
  path : Nat
  ar : Nat
  rsvd : Nat
  p16 : Nat
  w1 : Nat
  w2 : Nat
  w3 : Nat
  deriving DecidableEq, Repr

/-- A chain definition (R276) with the tables its prologue stages loaded (R275): (stage number, bytes). -/
structure LnChain where
  prof : Profile
  asfmt : Nat
  bsfmt : Nat
  asrc : Nat
  bsrc : Nat
  pro : List LnStage
  epi : List LnStage
  tabs : List (Nat × List Byte)
  deriving DecidableEq, Repr

/-- A product block (R279). -/
structure LnBlock where
  m : Nat
  n : Nat
  kd : Nat
  abuoy : Nat
  arel : Bool
  bbuoy : Nat
  brel : Bool
  astr : Nat
  bstr : Nat
  ar : List Nat
  rowbase : Nat
  colbase : Nat
  sinit : Bool
  sfinal : Bool
  evt : Bool
  evtdata : Nat
  eng : List Nat
  deriving DecidableEq, Repr

/-- A queued command (R274); `ctl` is the Control-ring descriptor that gave it, `none` for a FUS. -/
structure LnCmd where
  slot : Nat
  ctl : Option Nat
  /-- A LOAD's chain, or a START's product block. -/
  load : Option LnChain
  start : Option LnBlock
  deriving DecidableEq, Repr

/-- Row state of RSTAT (R290): max, pairwise stacks of sums and of squares as (level, value), count. -/
structure RowStat where
  max : Option Nat
  sum : List (Nat × Nat)
  sq : List (Nat × Nat)
  count : Nat
  deriving DecidableEq, Repr

def RowStat.fresh : RowStat := ⟨none, [], [], 0⟩

/-- An announced, unfinished product (R281, R282). -/
structure LnProd where
  slot : Nat
  cid : Nat
  ctl : Option Nat
  chain : LnChain
  blk : LnBlock
  /-- Beats that have arrived, per row tile (R270). -/
  next : Sparse Nat
  /-- Row tiles whose tail has run (R293). -/
  tailed : List Nat
  /-- Row tiles whose row state the product has taken over from the one before it, those whose last beat has been through
  RSTAT and OSMX, and the beats that RSTAT has still to take, as (row tile, column tile, values) (R279, R290). -/
  owns : List Nat
  rowsDone : List Nat
  pend : List (Nat × Nat × List Nat)
  /-- Row tile and count of tiles complete, for OSMX order. -/
  tilesDone : Nat
  /-- OSMX buffer: (row tile, column tile, values) (R291). -/
  osmx : List (Nat × Nat × List Nat)
  /-- Park writes not yet served: (request, row tile). -/
  parkReqs : List (Nat × Nat)
  /-- Relay-sourced beats already requested: (operand, block, chunk) (R268). -/
  asked : List (Nat × Nat × Nat)
  /-- RSTAT output has been issued. -/
  statOut : Bool
  /-- RSTAT's row states as this product left them (R290). -/
  stat : Sparse RowStat
  /-- Beats that each fetch stage has read, by stage number (R76). -/
  fetches : Sparse Nat
  /-- ABUOY and BBUOY have been released (R279). -/
  released : Bool
  /-- Its number among the products that relay to its target, and among those that A's and B's source
  ports feed (R295). -/
  relO : Nat
  relA : Nat
  relB : Nat
  deriving DecidableEq, Repr

/-- One relayed row tile on its way to a target Lantern (R295): source port, number of the relaying product,
its dimensions, row tile, column tile, values, and OSMX's factors with SINIT and SFINAL. -/
structure RelayBeat where
  src : Nat
  seq : Nat
  m : Nat
  n : Nat
  rowt : Nat
  colt : Nat
  fmt : Nat
  vals : List Nat
  factors : Option (List (Nat × Nat) × Bool × Bool)
  deriving DecidableEq, Repr

/-- Reads that a Lantern has asked Osura for (R45): (request, address) of those still out, and (address, bytes) of
those that have been served. -/
structure LnFetch where
  out : List (Nat × Nat)
  data : List (Nat × List Byte)
  deriving DecidableEq, Repr

def LnFetch.blank : LnFetch := ⟨[], []⟩

/-- A beat on its way through the epilogue (R287): its next stage, its place and values, and OSMX's factors; a tail
pass's beat (R293) is first read back from the park area. -/
structure BeatWork where
  stage : Nat
  rowt : Nat
  colt : Nat
  vals : List Nat
  fac : Option (List (Nat × Nat) × Bool × Bool)
  parked : Bool
  deriving DecidableEq, Repr

/-- What the epilogue is at: a result beat or the tail pass of a row tile, its beats still to do, and the reads of the
first one's next stage, if they have been asked. -/
structure EpiJob where
  cid : Nat
  tail : Option Nat
  work : List BeatWork
  fetch : Option LnFetch
  deriving DecidableEq, Repr

structure Lantern where
  slots : Sparse (Option LnChain)
  q : List LnCmd
  /-- FUS commands that an order of their control cycle has sent back to wait for the queue (R386). -/
  sentBack : List LnCmd
  prods : List LnProd
  /-- Parity of the STARTs run (R281). -/
  par : Bool
  /-- Result buffer: (header, values) (R271). -/
  buf : List (Nat × List Nat)
  engCredits : Nat
  /-- Row tiles whose LAST beat has been parked, as (CID, row tile), oldest first (R293). -/
  lastOrder : List (Nat × Nat)
  stat : Sparse RowStat
  /-- OSMX row state (m, l). -/
  osm : Sparse (Nat × Nat)
  /-- Relay buffer and factors that arrived (R295). -/
  relay : List RelayBeat
  /-- Factors of OSMX's row tiles kept for RESC (R291, R295). -/
  facs : List RelayBeat
  /-- Products relayed per target port, and relay-fed products per source port, so far. -/
  relOut : Sparse Nat
  relIn : Sparse Nat
  /-- Operand requests accepted and not answered (R451), and the reads of the first one: whether GATHER's indices have
been read. -/
  reqs : List Nat
  pro : Option (Bool × LnFetch)
  /-- The epilogue's present work. -/
  epi : Option EpiJob
  /-- The table reads of the LOAD at the head of the queue (R275). -/
  tab : Option LnFetch
  /-- Writes issued and not yet served: (request, product CID). -/
  writes : List (Nat × Nat)
  nreq : Nat
  flags : FlagSet
  cause : Nat
  named : Bool
  /-- Halted by an error, and suspended by E_STALL (R298, R302). -/
  halted : Bool
  suspended : Bool
  abort : Bool
  ack : Bool
  /-- Core cycle in which ABORT was raised (R454). -/
  abortAt : Nat
  /-- FPn fenced (R419). -/
  fenced : Bool
  present : Bool
  /-- Core cycles of the present wait before an announce (R83), and of the present relay stall (R295). -/
  waited : Nat
  relayed : Nat
  /-- Core cycles since the engine's port last carried anything for announced products (R470). -/
  quiet : Nat
  /-- The next product waits on a buoy before its announce (R281). -/
  annWait : Bool
  /-- The epilogue waits for space in a relay buffer (R295). -/
  relayWait : Bool
  /-- Control cycle in which a flag was raised last, and the flags raised in it (R198). -/
  raisedAt : Nat
  raisedNow : FlagSet
  deriving DecidableEq, Repr

/-- A Lantern as reset leaves it; a matrix engine is connected (DESIGN CHOICE: notes/assumptions/2.md). -/
def Lantern.fresh : Lantern :=
  { slots := [], q := [], sentBack := [], prods := [], par := false, buf := [], engCredits := 16, lastOrder := [], stat := []
    osm := [], relay := [], facs := [], relOut := [], relIn := [], reqs := [], pro := none, epi := none, tab := none
    writes := [], nreq := 0, flags := flagNone, cause := 0, named := false, halted := false, suspended := false
    abort := false, ack := false, abortAt := 0, fenced := false, present := true, waited := 0, relayed := 0, quiet := 0
    annWait := false, relayWait := false, raisedAt := 0, raisedNow := flagNone }

/-! ### The ring -/

/-- A ring packet (R334), with the arrival port that holds its space. -/
structure Pkt where
  dst : Nat
  src : Nat
  cls : Nat
  kind : Nat
  moor : Nat
  cstart : Bool
  cend : Bool
  last : Bool
  len : Nat
  hops : Nat
  offset : Nat
  seq : Nat
  jobkey : Nat
  xtag : Nat
  dem : Bool
  rsvd : Nat
  hcrc : Nat
  pcrc : Nat
  payload : List Byte
  port : Option Nat
  /-- The class of the arrival buffer that it stands in (R339). -/
  space : Nat
  /-- While it waits in an arrival buffer: the core cycle in which its last byte came, put off by cycles in which a buoy
  held it (R342). -/
  came : Option Nat
  /-- Control-ring TOKEN descriptor that waits for the packet to leave (R378). -/
  ctl : Option Nat
  deriving DecidableEq, Repr

/-- A ring port (R339, R340, R458, R459). -/
structure RPort where
  linkUp : Bool
  /-- Inbound credits have been returned since the port last came up. -/
  started : Bool
  /-- Units of the arrival buffer in use, per class. -/
  used : List Nat
  /-- Packets that wait in an arrival buffer behind one of their class (R339). -/
  held : List Pkt
  /-- Outbound credits, per class. -/
  out : List Nat
  /-- Forwarded and locally originated packets waiting to leave. -/
  fwd : List Pkt
  loc : List Pkt
  /-- Whether a forwarded packet left last, per class. -/
  lastFwd : List Bool
  /-- Packet credits of classes 1 and 2 (R340). -/
  wcr : List Nat
  /-- Class 0 bucket in seventeenths of a byte (R340). -/
  bucket : Int
  abort : Bool
  ack : Bool
  /-- Core cycle in which ABORT was raised (R454, R459). -/
  abortAt : Nat
  fenced : Bool
  deriving DecidableEq, Repr

def RPort.fresh : RPort :=
  ⟨false, false, [0, 0, 0], [], [0, 0, 0], [], [], [false, false, false], [0, 0], 17408, false, false, 0, false⟩

/-- Mooring settings (R344). -/
structure Moor where
  base : Nat
  size : Nat
  lo : Nat
  hi : Nat
  cdepth : Nat
  aben : Bool
  arrbuoy : Nat
  deriving DecidableEq, Repr

def Moor.shut : Moor := ⟨0, 0, 0, 0, 0, false, 0⟩

/-- An accepted DATA packet whose write is not yet served (R347, R339). -/
structure Arrival where
  id : Nat
  mo : Nat
  pkt : Pkt
  /-- Lines still unserved. -/
  left : Nat
  at_ : Nat
  /-- The mooring's settings under which it was accepted, and their number (R346). -/
  moor : Moor
  gen : Nat
  deriving DecidableEq, Repr

/-- A chunk being received (R348, R351, R353). -/
structure RxChunk where
  src : Nat
  xtag : Nat
  mo : Nat
  unit : Nat
  cend : Option Nat
  refused : Bool
  /-- Number of the mooring's settings when it began (R346). -/
  gen : Nat
  deriving DecidableEq, Repr

/-- A mark at this chip (R355 to R357). -/
structure Mark where
  /-- Last mark the lead started. -/
  started : Nat
  /-- MARK_STATUS.PHASE on the lead, its mark, S, HELD and the tick at which the circulation left. -/
  phase : Nat
  k : Nat
  s : Nat
  held : Nat
  sentAt : Nat
  again : Bool
  /-- Control descriptors waiting for MARK_LAST to change or MABORT. -/
  waiters : List Nat
  /-- The restraint of R356: S, the tick at which it began, and whether MARK_WAIT was written. -/
  restraint : Option (Nat × Nat × Bool)
  /-- A SEAL being held until this chip's close is complete: HELD as it came and the tick it came. -/
  sealHeld : Option (Nat × Nat)
  /-- A HOLD has ended the mark, and the MABORT waits for room for its record (R358, R384). -/
  abortDue : Bool
  deriving DecidableEq, Repr

def Mark.fresh : Mark := ⟨0, 0, 0, 0, 0, 0, false, [], none, none, false⟩

structure Ring where
  chipId : Nat
  leadId : Nat
  nextId : Nat
  jobKey : Nat
  porten : Nat
  wFused : Nat
  wBulk : Nat
  en : Bool
  /-- RING_RTn and RING_RTPORTn as written. -/
  rt : List Word
  rtport : List Word
  ports : List RPort
  /-- Packets to this chip's own ID (R332). -/
  loopQ : List Pkt
  moors : Sparse Moor
  /-- How often each mooring has been set, and the settings before those of the present control cycle: (control cycle,
  mooring, settings, their number) (R346, R385). -/
  moorGen : Sparse Nat
  moorWas : List (Nat × Nat × Moor × Nat)
  arrivals : List Arrival
  nextArr : Nat
  chunks : List RxChunk
  /-- Bytes written so far per unit, as a mask, by (settings' number × 64 + mooring) × 16,384 + unit (R75). -/
  filled : Sparse Nat
  /-- Credits held for an arrival buoy (R351): (buoy, mooring, source, units). -/
  owed : List (Nat × Nat × Nat × Nat)
  /-- Outbound credit table (R350): (destination, mooring, units). -/
  ctab : List (Nat × Nat × Nat)
  errReason : Nat
  errPort : Nat
  errLocal : Bool
  errSrc : Nat
  errValid : Bool
  moSel : Nat
  moInfo : List Word
  markTimeout : Nat
  sealLimit : Nat
  markLast : Nat
  /-- S of that mark, for FAULT records (R397). -/
  markLastS : Nat
  mark : Mark
  /-- A ring hold (R359), with the last HOLD's payload. -/
  hold : Bool
  holdPay : List Byte
  /-- HOLD and RELEASE payloads that the lead circulates: (kind, payload). -/
  circ : List (Nat × List Byte)
  /-- RELEASE descriptors that wait for RELEASE to come back. -/
  relWait : List Nat
  /-- Epoch timer ticks counted (R408). -/
  epochRun : Nat
  deriving DecidableEq, Repr

/-! ### The Keeper -/

/-- A host ring's registers (R388). -/
structure HRing where
  base : Nat
  log2 : Nat
  en : Bool
  head : Nat
  tail : Nat
  deriving DecidableEq, Repr

def HRing.fresh : HRing := ⟨0, 4, false, 0, 0⟩

/-- A descriptor taken from a ring: its slot and its 64 bytes. -/
structure Desc where
  slot : Nat
  bytes : List Byte
  deriving DecidableEq, Repr

/-- A started Control descriptor (R379): number in start order, OP, for LIGHT and DARKEN the sectors still to
come, STATUS and the mark number of its CTL_DONE, and whether it has completed. -/
structure CtlRun where
  num : Nat
  slot : Nat
  op : Nat
  cevt : Bool
  user : Nat
  secs : List Nat
  status : Nat
  p2 : Nat
  done : Bool
  /-- Reason of a refusal whose DESC_ERR is still to be queued (R384). -/
  err : Option Nat
  deriving DecidableEq, Repr

/-- What a SYS master request is for (R444, R445). -/
inductive SysFor where
  | desc (ring : Nat) (slot : Nat)
  /-- One of the two writes of the record at an address. -/
  | ev (addr : Nat)
  /-- A completion record: slot, word 14, and the XFER event to queue once it is written (R376). -/
  | xrec (slot : Nat) (word : Nat) (ev : Option EvRec)
  /-- For nobody: the answer is dropped. -/
  | dropped
  /-- Its time-out has been reported: the answer is dropped. -/
  | expired
  deriving DecidableEq, Repr

/-- An outstanding SYS master request. -/
structure SysReq where
  tag : Nat
  what : SysFor
  addr : Nat
  at_ : Nat
  deriving DecidableEq, Repr

/-- An event record being written: its address and PHASE, the answers still to come, and whether one faulted. -/
structure EvOut where
  addr : Nat
  phase : Bool
  ev : EvRec
  left : Nat
  bad : Bool
  deriving DecidableEq, Repr

structure Keeper where
  work : HRing
  xfer : HRing
  ctl : HRing
  event : HRing
  xretire : Nat
  evPhase : Bool
  irqen : Bool
  fstop : List Bool
  seqstop : Bool
  evlost : Bool
  nextseq : Nat
  /-- A descriptor refused for SEQ stays at HEAD; an accepted one waits here. -/
  workTaken : List Desc
  xferTaken : List Desc
  ctlTaken : List Desc
  ctlRun : List CtlRun
  ctlNum : Nat
  /-- Transfer slots whose record has been written and that RETIRE has not passed. -/
  xdone : Sparse Bool
  xretired : Nat
  cdone : Nat
  conflictKind : Nat
  conflictUnit : Nat
  conflictValid : Bool
  /-- Orders of higher masters in the present control cycle: (kind of R386, unit, control cycle). -/
  orders : List (Nat × Nat × Nat)
  sys : List SysReq
  sysFenced : Bool
  /-- Answers of descriptor reads that wait for room in the event queue: (ring, slot, status, data) (R384, R439). -/
  descHeld : List (Nat × Nat × Nat × List Byte)
  /-- Completion records to write, and those a fault holds back until the next DB_XFER: (slot, word, event). -/
  recQ : List (Nat × Nat × Option EvRec)
  recWait : List (Nat × Nat × Option EvRec)
  /-- Records on their way (R382), and records whose write has faulted and that wait in the queue (R384). -/
  evOut : List EvOut
  evBad : List EvOut
  /-- ERING_HEAD has been written since: the faulted writes are made again. -/
  evAgain : Bool
  deriving DecidableEq, Repr

/-! ### Faults, power, test -/

/-- A cluster swap in progress (R395): the logical index, the chosen spare, whether its power is on, and the cluster that
failed. -/
structure ClSwap where
  idx : Nat
  spare : Nat
  on : Bool
  failed : Nat
  deriving DecidableEq, Repr

/-- A sector's retirement in progress (R64): the logical sector, the spare being lit, and the faults to report once the
map is rewritten, with the spare of each. -/
structure SecSwap where
  sec : Nat
  spare : Nat
  reports : List (ErrRec × Nat)
  deriving DecidableEq, Repr

structure Flt where
  seqbusy : Bool
  swap : Bool
  fatal : Bool
  unitdown : Bool
  foghorn : Bool
  fognow : Bool
  /-- Fenced unspared units: (unit kind, number). -/
  fenced : List (Nat × Nat)
  info0 : Word
  info1 : Word
  /-- Last maintenance tick with FOGNOW = 1 (R397). -/
  lastFog : Option Nat
  swapFor : List ClSwap
  secSwap : Option SecSwap
  /-- Fetch of Work and Transfer descriptors has stopped for a hold that is to come (R393). -/
  stopped : Bool
  /-- Ports that the sequencer has fenced, with the control cycle, and the first record of the control cycle that it was
  made in, for the rank of R385: (control cycle, FLT_INFO0, FLT_INFO1). -/
  fencedAt : List ((Nat × Nat) × Nat)
  recAt : Option (Nat × Word × Word)
  deriving DecidableEq, Repr

structure Rst where
  ready : Bool
  bistDone : Bool
  lastRst : Nat
  /-- 0 Running, 1 Entering Eclipse, 2 Eclipse, 3 Waking. -/
  pstate : Nat
  wakeSrc : Bool
  por : Bool
  brst : Bool
  brown : Bool
  /-- Bring-up: 0 waits for the Daymark, 1 for cluster power, 2 BIST runs, 3 done. -/
  phase : Nat
  /-- A wake event held until entry completes: some source (true is SB). -/
  wakeHeld : Option Bool
  resetHeld : Bool
  /-- An ECLIPSE descriptor waiting for quiescence, with its slot and USER, and whether entry waits for the power
  answers of its last steps (R429). -/
  eclipse : Option Nat
  eclipseAt : Nat × Nat
  entered : Bool
  /-- Wake has asked for RESUME of the sectors in Retention (R431). -/
  resumed : Bool
  /-- Flags saved in the island (R429): per physical cluster and per Lantern. -/
  savedCl : Sparse FlagSet
  savedLn : List FlagSet
  /-- Clusters on at Eclipse entry. -/
  wasOn : List Nat
  /-- Logical sectors in Retention at entry. -/
  retained : List Nat
  deriving DecidableEq, Repr

structure Pwr where
  /-- PWR_DOM by domain code (R461, R479). -/
  on : Sparse Bool
  /-- Requests outstanding: (domain, operation), and the CKR cycle of each domain's last request (R462). -/
  reqs : List (Nat × Nat)
  asked : Sparse Nat
  /-- Clusters whose OFF waits until no other cluster request is outstanding (R478). -/
  offDue : List Nat
  /-- Sectors of a LIGHT that wait for power, and those between power-up and the end of fill, with whether
  their BIST still runs (R433). -/
  lightQ : List Nat
  lightOn : List (Nat × Bool)
  deriving DecidableEq, Repr

structure Daymark where
  words : List Word
  locked : Bool
  crcErr : Bool
  nwords : Nat
  deriving DecidableEq, Repr

structure Wrapper where
  wrstn : Bool
  wir : Nat
  tested : Bool
  held : Bool
  deriving DecidableEq, Repr

structure Trace where
  mode : Nat
  wrap : Bool
  stopped : Bool
  err : Bool
  base : Nat
  limit : Nat
  /-- BASE and LIMIT in force since the last launch (R509). -/
  actBase : Nat
  actLimit : Nat
  ptr : Nat
  buf : List (Nat × Nat)
  /-- A line is on its way to Osura. -/
  busy : Bool
  lastPc : Option Nat
  deriving DecidableEq, Repr

structure Bist where
  busy : Bool
  pass : Bool
  refused : Bool
  sec : Nat
  /-- PASS and SEC before the last accepted GO, which a DARKEN of its control cycle lands ahead of (R385). -/
  prior : Bool × Nat
  deriving DecidableEq, Repr

/-- LN_CFG.HOLD_LOW, and the control cycle of its last write with the value in force until that cycle ends (R301). -/
structure LnCfg where
  low : Nat
  was : Option (Nat × Nat)
  deriving DecidableEq, Repr

/-- What the block drives on a port and does not keep in a table (R442, R446, R449, R456, R460, R512). -/
inductive PortOut where
  | regRead (data : Word) (rerr : Bool)
  | regWrote (rerr : Bool)
  | sysRead (tag addr len : Nat)
  | sysWrite (tag addr : Nat) (data : List Byte)
  | memRead (port tag iova len : Nat)
  | memWrite (port tag iova : Nat) (data : List Byte)
  | announce (ln : Nat) (words : List Nat)
  | operand (ln hdr : Nat) (data : List Byte)
  | ringPkt (port : Nat) (pkt : Pkt)
  | ringCredit (port cls count : Nat)
  | power (dom op : Nat)
  | serial (bits : List Bool)
  deriving DecidableEq, Repr

/-! ### The state -/

/-- The block's state. -/
structure State where
  clk : Clk
  lanes : Sparse Lanes
  map : Maps
  osura : Osura
  buoys : Buoys
  str : Stream
  trap : Trap
  ln : List Lantern
  td : Tender
  mem : MemPorts
  ring : Ring
  kp : Keeper
  evq : List EvRec
  errs : List ErrRec
  flt : Flt
  cnt : Counters
  log : Log
  rst : Rst
  pwr : Pwr
  dm : Daymark
  tw : Wrapper
  trc : Trace
  bist : Bist
  lnCfg : LnCfg
  /-- What the block has driven on its ports, oldest first: the model's own field. -/
  out : List PortOut
  /-- Free values drawn so far: the model's own field. -/
  free : Nat
  /-- Commands waiting, first in first out: the model's own field. -/
  pending : List Instr
  deriving DecidableEq, Repr

/-! ### Reset -/

def Clk.reset : Clk := ⟨0, 0, 0, 0, 0, 0, none, none, 20, 4, 16, true, 0, 8, false, false⟩

/-- The default map of logical sector `k` (R23). -/
def homeSector (k : Nat) : Nat := 17 * (k % 16 / 4) + 4 * (k / 16) + k % 4

/-- The maps after a power-on reset (R23, R499, R501). -/
def Maps.reset : Maps :=
  { cl := (upTo 32).map some
    home := (upTo 32).map some
    pc := (upTo 34).map (fun p => if p < 32 then .mapped else .spare)
    sec := (upTo 64).map (fun k => some (homeSector k))
    psec := (upTo 68).map (fun p => if p % 17 = 16 then .spare else .mapped)
    tested := List.replicate 68 false
    grp := List.replicate 8 0#32
    bcast := 0#32
    lastLc := 32
    before := none }

/-- Reset values of R66 to R70. -/
def Osura.reset : Osura :=
  { data := [], check := [], secs := [], share := 1, sharePend := none, weights := [6, 4, 3, 2, 2, 1]
    scrubPace := 64, ceRetire := 64, ueAddr := 0, ueScrub := false, ueValid := false, q := [], cb := [] }

def Buoys.reset : Buoys := ⟨[], 0, [], 24, 0, 0#32, 0#32, 0#32, 0, 0, 0, false, false⟩

/-- The stream after reset (R119, R142, R435). -/
def Stream.reset : Stream :=
  { launch := none, stop := .blank, movRow := [(0, false), (0, false)], pc := 0, scal := [], k := []
    loopOrder := [], branch := none, loopBuf := .empty, fetchPc := 0, fetched := [], fetchGen := 0, fetchAt := 0, shadow := [], fenced := []
    earliest := 0, icyc := 0
    board := [], unitFree := [], tags := List.replicate 16 none, window := [], due := []
    servedAt := 0, servedBanks := [], movs := [], movNext := 0, wb := [], carry := [], scalQ := [], flagQ := [], cmds := [], sentTo := []
    bankStall := 0, deferred := [], spareDue := [], spareStall := 0, trapWait := 0, fence := false
    prods := [], ended := false, frozen := false, pauseReq := false, buoyWait := 0, looked := false, stopWait := none, resuming := false
    far := ⟨0, 1024⟩, farPend := none, farFault := .blank, farHits := [] }

def Trap.reset : Trap :=
  ⟨0, false, 0x1F, 0, (0, false, 0x1F), 0, 0, 0, 0, 0, 0, false, false, 0, 0, 0, none, false, false⟩

def Tender.reset : Tender := ⟨[], [], [], [], none, [], 0, 0, 0, 0, false, 0⟩

def MemPorts.reset : MemPorts := ⟨[], [], [], [], [], [], []⟩

/-- The ring after reset (R361 to R366). -/
def Ring.reset : Ring :=
  { chipId := 0, leadId := 0, nextId := 0, jobKey := 0, porten := 0, wFused := 3, wBulk := 1, en := false
    rt := List.replicate 32 0#32, rtport := List.replicate 4 0#32, ports := List.replicate 8 .fresh, loopQ := []
    moors := [], moorGen := [], moorWas := [], arrivals := [], nextArr := 0, chunks := [], filled := [], owed := [], ctab := [], errReason := 0, errPort := 0
    errLocal := false, errSrc := 0, errValid := false, moSel := 0, moInfo := List.replicate 4 0#32
    markTimeout := 1000, sealLimit := 250, markLast := 0, markLastS := 0, mark := .fresh, hold := false, holdPay := [], circ := []
    relWait := [], epochRun := 0 }

/-- The Keeper after reset (R388, R389). -/
def Keeper.reset : Keeper :=
  { work := .fresh, xfer := .fresh, ctl := .fresh, event := .fresh, xretire := 0, evPhase := true, irqen := false
    fstop := [false, false, false], seqstop := false, evlost := false, nextseq := 0, workTaken := []
    xferTaken := [], ctlTaken := [], ctlRun := [], ctlNum := 0, xdone := [], xretired := 0, cdone := 0
    conflictKind := 0, conflictUnit := 0, conflictValid := false, orders := [], sys := [], sysFenced := false, descHeld := [], recQ := []
    recWait := [], evOut := [], evBad := [], evAgain := false }

/-- The Logbook after reset (R415 to R418). -/
def Log.reset : Log :=
  { en := false, rate := 5, epoch := 20, baseA := 0, baseB := 0, dirtyA := [], dirtyB := [], bitmapV := false
    openB := false, haveMark := false, rbusy := false, rdone := false, rerr := 0, err := false
    restoreK := 0, areaOpen := false, sealedIn := none, next := 0, pend := [], reading := [], torn := [], staged := [], close := none
    restore := none, restored := false, aborted := none, restorable := false }

def Flt.reset : Flt := ⟨false, false, false, false, false, false, [], 0#32, 0#32, none, [], none, false, [], none⟩

/-- After a power-on reset has ended: the block waits for the Daymark (R436, R463). -/
def Rst.reset : Rst :=
  ⟨false, false, 0, 0, false, false, false, false, 0, none, false, none, (0, 0), false, false, [], [], [], []⟩

def Trace.reset : Trace := ⟨0, false, false, false, 0, 0, 0, 0, 0, [], false, none⟩

/-- The block right after a power-on reset: every register at the value of its table (R423), memory with
nothing listed, and the queue empty. Values that the spec does not give are those of
notes/assumptions/2.md (DESIGN CHOICE). -/
def State.reset : State :=
  { clk := .reset, lanes := [], map := .reset, osura := .reset, buoys := .reset, str := .reset, trap := .reset
    ln := List.replicate 4 .fresh, td := .reset, mem := .reset, ring := .reset, kp := .reset, evq := [], errs := []
    flt := .reset, cnt := ⟨[], [], false, none, none⟩, log := .reset, rst := .reset, pwr := ⟨[], [], [], [], [], []⟩
    dm := ⟨List.replicate 32 0#32, false, false, 0⟩, tw := ⟨false, 0, false, false⟩, trc := .reset
    bist := ⟨false, false, false, 0, false, 0⟩, lnCfg := ⟨4, none⟩, out := [], free := 0, pending := [] }

/-! ### Stops of the model -/

/-- The block never stops in a fault: every error that the spec describes is an effect on State. This type
has the one member that the host's interface needs a name for. -/
inductive Fault where
  /-- Raised by nobody: no command of this block faults. Safe. -/
  | never
  deriving DecidableEq, Repr

/-- Why a command is refused. -/
inductive Refusal where
  /-- Raised by `exec` for a command that has no meaning yet. Safe. -/
  | notModelled (mnemonic : String)
  /-- Raised by a command whose data are not as long as its port carries, which no port can send. Safe. -/
  | illFormed
  deriving DecidableEq, Repr

end Sys2Proof.Machine
end

