-- ==== Sys2Proof/Machine/Ops.lean ====
section
/-! DEFINITION. The named operations over the block's state that many commands share: counters, maps,
Osura with its error correction, dirty bits, lane registers and buoys. -/

namespace Sys2Proof.Machine

/-! ### Counters (R505, R506) -/

/-- A control cycle's number (R472): eight CKR cycles. -/
def State.ctlCycle (s : State) : Nat := s.clk.ckr / 8

/-- CLK_STATUS.PENDING (R474, R486): a switch that has been evaluated waits for its edge. -/
def Clk.pending (k : Nat) (c : Clk) : Bool := c.divTarget.isSome && c.askedAt != some k

/-- Events of control cycle `k` do not count: under FREEZE, and where CLEAR applies after them (R506). -/
def Counters.still (k : Nat) (c : Counters) : Bool := c.freeze || c.cleared == some k

/-- The counters as an event of control cycle `k` finds them, with what stood before that cycle (R505). -/
def Counters.open_ (k : Nat) (c : Counters) : Counters :=
  if c.was.any (fun w => w.1 == k) then c else { c with was := some (k, c.eng, c.cl) }

/-- The engine counters before the events of control cycle `k` (R505). -/
def Counters.engWas (k : Nat) (c : Counters) : Sparse Nat :=
  match c.was with
  | some w => if w.1 = k then w.2.1 else c.eng
  | none => c.eng

/-- The per-cluster counters before the events of control cycle `k` (R505). -/
def Counters.clWas (k : Nat) (c : Counters) : Sparse Nat :=
  match c.was with
  | some w => if w.1 = k then w.2.2 else c.cl
  | none => c.cl

/-- What a 32-bit counter that has counted `n` events reads as (R505). -/
def counterShown (n : Nat) : Nat := min 0xFFFFFFFF n

/-- Adds to an engine counter, named by its offset in R508. -/
def bumpBy (off n : Nat) (s : State) : State :=
  if s.cnt.still s.ctlCycle then s
  else { s with cnt := { s.cnt.open_ s.ctlCycle with eng := smod 0 s.cnt.eng off (fun v => v + n) } }

def bump (off : Nat) (s : State) : State := bumpBy off 1 s

/-- Adds to a 64-bit wrapping counter (R507). -/
def bumpWide (off n : Nat) (s : State) : State :=
  if s.cnt.still s.ctlCycle then s
  else { s with cnt := { s.cnt.open_ s.ctlCycle with eng := smod 0 s.cnt.eng off (fun v => (v + n) % 2 ^ 64) } }

/-- Adds to a per-cluster counter: kind 0 REUSE_HIT, 1 CONFLICT_ACC, 2 CL_BUSY (R508). -/
def bumpCl (kind pc n : Nat) (s : State) : State :=
  if s.cnt.still s.ctlCycle then s
  else { s with cnt := { s.cnt.open_ s.ctlCycle with cl := smod 0 s.cnt.cl (kind * 64 + pc) (fun v => v + n) } }

/-! ### Maps and sectors -/

/-- Physical cluster that backs a logical cluster. -/
def State.pcOf (s : State) (cl : Nat) : Option Nat := (s.map.cl.getD cl none)

/-- CLMAP is rewritten in control cycle `k`; SYS windows go on with the old one in that cycle (R494). -/
def Maps.setCl (k : Nat) (cl : List (Option Nat)) (m : Maps) : Maps :=
  { m with cl := cl, before := if m.before.any (fun b => b.1 == k) then m.before else some (k, m.cl) }

/-- Physical cluster that a SYS window reaches: CLMAP as it stood at the end of the previous control cycle (R494). -/
def State.windowPc (s : State) (cl : Nat) : Option Nat :=
  match s.map.before with
  | some b => if b.1 = s.ctlCycle then b.2.getD cl none else s.pcOf cl
  | none => s.pcOf cl

/-- Physical sector that backs a logical sector. -/
def State.psecOf (s : State) (sec : Nat) : Option Nat := (s.map.sec.getD sec none)

def State.secCtl (s : State) (sec : Nat) : SecCtl := sget SecCtl.fresh s.osura.secs sec

def State.modSec (s : State) (sec : Nat) (f : SecCtl → SecCtl) : State :=
  { s with osura := { s.osura with secs := smod SecCtl.fresh s.osura.secs sec f } }

/-- Sector, line, bank word of an Osura address (R35). -/
def secOf (a : Nat) : Nat := bitsOf a 23 6
def lineOf (a : Nat) : Nat := bitsOf a 10 13
def wordOf (a : Nat) : Nat := bitsOf a 5 5
/-- The bank of a bank word (R36). -/
def bankOf (a : Nat) : Nat := (wordOf a + lineOf a) % 32
/-- Granule of an Osura address (R398). -/
def granuleOf (a : Nat) : Nat := bitsOf a 16 13

/-- New accesses are allowed only to a backed Lit sector (R61, R65). -/
def State.secOpen (s : State) (sec : Nat) : Bool := (s.secCtl sec).st == .lit && (s.psecOf sec).isSome

/-! ### Error correction (R54, R55) -/

def popcount : Nat → Nat → Nat
  | 0, _ => 0
  | n + 1, x => x % 2 + popcount n (x / 2)

/-- The 64 column values of R54. -/
def eccColumns : List Nat :=
  (upTo 256).filter (fun v => popcount 8 v == 3) ++ ((upTo 256).filter (fun v => popcount 8 v == 5)).take 8

def eccFold : List Nat → Nat → Nat → Nat
  | [], _, acc => acc
  | c :: cs, x, acc => eccFold cs (x / 2) (if x % 2 == 1 then acc ^^^ c else acc)

/-- The check byte of 64 data bits (R54). -/
def eccCheck (x : Nat) : Nat := if x = 0 then 0 else eccFold eccColumns x 0

/-- Outcome of reading one ECC word (R55). -/
inductive EccRead where
  | clean (x : Nat)
  | corrected (x : Nat)
  | bad (x : Nat)
  deriving DecidableEq, Repr

def EccRead.data : EccRead → Nat
  | .clean x | .corrected x | .bad x => x

/-- The syndrome table of R55. -/
def eccDecode (x check : Nat) : EccRead :=
  let syn := check ^^^ eccCheck x
  if syn = 0 then .clean x
  else if popcount 8 syn == 1 then .corrected x
  else
    match eccColumns.findIdx? (· == syn) with
    | some i => .corrected (x ^^^ 2 ^ i)
    | none => .bad x

/-! ### Osura's bytes -/

/-- Physical address of an Osura address backed by a physical sector. -/
def physAddr (psec a : Nat) : Nat := psec * 2 ^ 23 + a % 2 ^ 23

/-- One stored ECC word as a number, by physical ECC-word index. DEDUCED: notes/assumptions/6.md. -/
def State.rawWord (s : State) (w : Nat) : Nat :=
  ofBytes ((fromTo (w * 8) 8).map (sget 0#8 s.osura.data))

/-- One ECC word read through the code. -/
def State.eccWord (s : State) (w : Nat) : EccRead :=
  eccDecode (s.rawWord w) (sget 0#8 s.osura.check w).toNat

/-- Stores 8 bytes and their check byte. -/
def State.putWord (s : State) (w x : Nat) : State :=
  { s with osura := { s.osura with
      data := ssetAll 0#8 s.osura.data ((toBytes 8 x).zipIdx.map (fun (b, i) => (w * 8 + i, b)))
      check := sset 0#8 s.osura.check w (BitVec.ofNat 8 (eccCheck x)) } }

/-- An error found now (R391, R397); the unit kinds and reasons are those of R397. -/
def State.err (s : State) (kind reason phys logi addr : Nat) : ErrRec :=
  let fog := s.flt.fognow || (match s.flt.lastFog with
    | some t => s.clk.ticks ≤ t + 53125
    | none => false)
  ⟨kind, reason, phys, logi, addr, s.clk.ticks, s.clk.ckr / 8, fog, false⟩

/-- Errors of one control cycle are handled by unit kind, then by physical number (R392). -/
def ErrRec.before (e x : ErrRec) : Bool :=
  x.ctl == e.ctl && (e.kind < x.kind || (e.kind == x.kind && e.phys < x.phys))

/-- A request of a restore. -/
def MemOwner.restore : MemOwner → Bool
  | .restoreRec _ _ | .restoreGran _ _ => true
  | _ => false

/-- A restore is refused or fails with a code of R409. -/
def restoreFail (code : Nat) (s : State) : State :=
  { s with log := { s.log with rbusy := false, rerr := code, restore := none }
           mem := { s.mem with
             logQ := s.mem.logQ.filter (fun r => !r.who.restore)
             rd := s.mem.rd.map (fun t => if t.who.restore then { t with who := .dropped } else t) } }

/-- A restore ends when a fault is detected (R392). -/
def endRestore (s : State) : State := if s.log.rbusy then restoreFail 7 s else s

/-- Detected error, for the fault sequencer (R391, R392). -/
def State.detect (s : State) (e : ErrRec) : State :=
  endRestore { s with errs := s.errs.takeWhile (fun x => !e.before x) ++ e :: s.errs.dropWhile (fun x => !e.before x) }

/-- Marks granules dirty in both areas (R398). -/
def State.markDirty (s : State) (g : Nat) : State :=
  { s with log := { s.log with dirtyA := sset false s.log.dirtyA g true
                               dirtyB := sset false s.log.dirtyB g true } }

/-- What follows from reading ECC word at logical address `a` (R55, R63, R70): counts, a write-back request, or a
data fault. DEDUCED: notes/assumptions/21.md. -/
def State.noteEcc (s : State) (a : Nat) (scrub : Bool) : EccRead → State
  | .clean _ => s
  | .corrected _ =>
    let s := bump 0x0240 s
    let s := if scrub then s.modSec (secOf a) (fun c => { c with ce := c.ce + 1 }) else s
    let req : AsyncReq := ⟨.writeBack, .writeBack, a, 8, none, 1, s.clk.cyc, false, 0, false, 0, false⟩
    { s with osura := { s.osura with q := s.osura.q ++ [req] } }
  | .bad _ =>
    let s := if s.osura.ueValid then s
      else { s with osura := { s.osura with ueAddr := a, ueScrub := scrub, ueValid := true } }
    (s.markDirty (granuleOf a)).detect (s.err 0x0B 0x03 0xFF 0xFF a)

/-- Reads `len` bytes at an Osura address through the code; the state changes only where a word is in error. An
unbacked sector reads as zero bytes. DEDUCED: notes/assumptions/6.md. -/
def State.readOsura (s : State) (scrub : Bool) (a len : Nat) : List Byte × State :=
  match s.psecOf (secOf a) with
  | none => (List.replicate len 0#8, s)
  | some ps =>
    let w0 := a / 8
    let n := (a + len + 7) / 8 - w0
    let rs := (fromTo w0 n).map (fun w => (w * 8, s.eccWord (physAddr ps (w * 8) / 8)))
    let bytes := rs.flatMap (fun r => toBytes 8 r.2.data)
    ((bytes.drop (a % 8)).take len, rs.foldl (fun s r => s.noteEcc r.1 scrub r.2) s)

/-- Distinct numbers of a list in order of first appearance. -/
def dedup : List Nat → List Nat → List Nat
  | [], acc => acc.reverse
  | x :: xs, acc => dedup xs (if acc.contains x then acc else x :: acc)

/-- Writes bytes by Osura address, all in one sector: partial ECC words are read first (R49). Marks the granules
dirty unless `clean` (R398). DEDUCED: notes/assumptions/6.md. -/
def State.writeOsura (s : State) (cells : List Host.Cell) : State :=
  match cells with
  | [] => s
  | (a0, _) :: _ =>
    match s.psecOf (secOf a0) with
    | none => s
    | some ps =>
      let ws := dedup (cells.map (fun c => c.1 / 8)) []
      let s := ws.foldl (fun s w =>
        let mine := cells.filter (fun c => c.1 / 8 == w)
        let pw := physAddr ps (w * 8) / 8
        let old := s.eccWord pw
        let whole := (upTo 8).all (fun i => mine.any (fun c => c.1 % 8 == i))
        let s := if whole then s else s.noteEcc (w * 8) false old
        let bytes := mine.foldl (fun (bs : List Byte) c => bs.set (c.1 % 8) c.2) (toBytes 8 old.data)
        s.putWord pw (ofBytes bytes)) s
      (dedup (cells.map (fun c => granuleOf c.1)) []).foldl State.markDirty s

/-- Bytes laid out from an address. -/
def cellsAt (a : Nat) (bs : List Byte) : List Host.Cell := bs.zipIdx.map (fun (b, i) => (a + i, b))

/-- Clears a physical sector to zero (R60). DEDUCED: notes/assumptions/6.md. -/
def State.zeroSector (s : State) (ps : Nat) : State :=
  { s with osura := { s.osura with
      data := seraseRange s.osura.data (ps * 2 ^ 23) ((ps + 1) * 2 ^ 23)
      check := seraseRange s.osura.check (ps * 2 ^ 20) ((ps + 1) * 2 ^ 20) } }

/-! ### Lane registers -/

def State.lane (s : State) (pc : Nat) : Lanes := sget Lanes.fresh s.lanes pc

def State.modLane (s : State) (pc : Nat) (f : Lanes → Lanes) : State :=
  { s with lanes := smod Lanes.fresh s.lanes pc f }

/-- A tile container of a logical cluster by `tileKey`; an unbacked cluster reads as zero. -/
def State.tileCell (s : State) (cl key : Nat) : Nat :=
  match s.pcOf cl with
  | some pc => (sget 0#32 (s.lane pc).tiles key).toNat
  | none => 0

/-- A mask register of a logical cluster. -/
def State.maskOf (s : State) (cl m : Nat) : Nat :=
  match s.pcOf cl with
  | some pc => (sget (BitVec.allOnes 256) (s.lane pc).masks m).toNat
  | none => 2 ^ 256 - 1

/-- Writes tile containers of a logical cluster. -/
def State.putCells (s : State) (cl : Nat) (cells : List (Nat × Nat)) : State :=
  match s.pcOf cl with
  | some pc => s.modLane pc (fun l =>
      { l with tiles := ssetAll 0#32 l.tiles (cells.map (fun c => (c.1, BitVec.ofNat 32 c.2))) })
  | none => s

def State.putMask (s : State) (cl m v : Nat) : State :=
  match s.pcOf cl with
  | some pc => s.modLane pc (fun l => { l with masks := sset (BitVec.allOnes 256) l.masks m (BitVec.ofNat 256 v) })
  | none => s

/-- Flags raised in control cycle `now` join those raised earlier in it (R198). -/
def raisedIn (at_ now : Nat) (old new : FlagSet) : FlagSet := if at_ = now then old ||| new else new

/-- Raises sticky flags of a cluster's lanes in control cycle `now` (R197, R198). -/
def Lanes.raiseAt (l : Lanes) (now : Nat) (fl : FlagSet) : Lanes :=
  { l with flags := raise l.flags fl, raisedAt := now, raisedNow := raisedIn l.raisedAt now l.raisedNow fl }

/-- The flags raised in control cycle `now`, which a register write of that cycle does not clear (R198). -/
def keptFlags (at_ now : Nat) (raisedNow : FlagSet) : FlagSet := if at_ = now then raisedNow else flagNone

/-- A register write clears flags in control cycle `now` (R198, R205). -/
def Lanes.clearFlags (l : Lanes) (now written : Nat) : Lanes :=
  { l with flags := Machine.clearFlags l.flags written ||| keptFlags l.raisedAt now l.raisedNow }

/-- Clusters and Lanterns are off, or were until now: their flags are in the always-on island (R429 to R431). -/
def State.unitsOff (s : State) : Bool := s.rst.entered || 2 ≤ s.rst.pstate

/-- Raises sticky flags in a logical cluster (R197). -/
def State.raiseIn (s : State) (cl : Nat) (fl : FlagSet) : State :=
  match s.pcOf cl with
  | some pc => if fl = flagNone then s else s.modLane pc (fun l => l.raiseAt (s.clk.ckr / 8) fl)
  | none => s

/-- A scalar register. -/
def State.scal (s : State) (n : Nat) : Nat := (sget 0#64 s.str.scal n).toNat

def State.setScal (s : State) (n v : Nat) : State :=
  { s with str := { s.str with scal := sset 0#64 s.str.scal n (BitVec.ofNat 64 v) } }

/-! ### Buoys (R71 to R87) -/

def State.buoy (s : State) (n : Nat) : Buoy := sget Buoy.idle s.buoys.b n

/-- The buoys as they stood at the end of the previous cycle, which is what checks read (R79). -/
def State.buoysBefore (s : State) : Sparse Buoy :=
  if s.buoys.changedAt = s.clk.ckr then s.buoys.before.foldl (fun m x => sset Buoy.idle m x.1 x.2.1) s.buoys.b
  else s.buoys.b

def State.buoyBefore (s : State) (n : Nat) : Buoy := sget Buoy.idle s.buoysBefore n

/-- Changes to buoys in the present cycle so far. -/
def State.buoyChanges (s : State) : List (Nat × Buoy × Bool) :=
  if s.buoys.changedAt = s.clk.ckr then s.buoys.before else []

/-- Has a command acted on the buoy in the present cycle (R79)? -/
def State.commanded (s : State) (n : Nat) : Bool := s.buoyChanges.any (fun x => x.1 == n && x.2.2)

/-- Replaces a buoy; `cmd` tells that a command does it (R79). -/
def State.putBuoy (s : State) (cmd : Bool) (n : Nat) (b : Buoy) : State :=
  let first : Nat × Buoy × Bool := match s.buoyChanges.find? (·.1 == n) with
    | some x => (n, x.2.1, x.2.2 || cmd)
    | none => (n, s.buoy n, cmd)
  { s with buoys := { s.buoys with
      b := sset Buoy.idle s.buoys.b n b
      changedAt := s.clk.ckr
      before := first :: s.buoyChanges.filter (·.1 != n) } }

def State.setBuoy (s : State) (n : Nat) (b : Buoy) : State := s.putBuoy false n b

/-- First line after a buoy's range. -/
def Buoy.endLine (b : Buoy) : Nat := b.base / 1024 + b.nlines

/-- Does an armed buoy cover a line (R71)? -/
def Buoy.covers (b : Buoy) (line : Nat) : Bool :=
  b.st != .free && b.base / 1024 ≤ line && line < b.endLine

/-- Buoys among `m` that cover some line of `[l0, l1)`. -/
def coveringIn (m : Sparse Buoy) (l0 l1 : Nat) : List (Nat × Buoy) :=
  m.filter (fun x => x.2.st != .free && x.2.base / 1024 < l1 && l0 < x.2.endLine)

/-- Buoys that cover some line of `[l0, l1)`. -/
def State.covering (s : State) (l0 l1 : Nat) : List Nat := (coveringIn s.buoys.b l0 l1).map (·.1)

/-- Buoys over `[l0, l1)` that were not in state `st` at the end of the previous cycle (R77 to R79). -/
def State.notIn (s : State) (st : BuoyState) (l0 l1 : Nat) : List Nat :=
  ((coveringIn s.buoysBefore l0 l1).filter (fun x => x.2.st != st)).map (·.1)

/-- The parameter rules of an arm (R72); NLINES = 0 breaks none of them. -/
def State.armOk (s : State) (n base nlines : Nat) : Bool :=
  nlines == 0 ||
    (base % 1024 == 0 && base < 2 ^ 29 && nlines ≤ 65536 && base + nlines * 1024 ≤ 2 ^ 29 &&
      s.buoys.b.all (fun x => x.1 == n || x.2.st == .free ||
        x.2.endLine ≤ base / 1024 || base / 1024 + nlines ≤ x.2.base / 1024))

/-- Filling, or Ready when nothing is expected (R73). -/
def Buoy.loaded (b : Buoy) : Buoy :=
  { b with p := b.expect, c := b.consume, st := if b.expect = 0 then .ready else .filling }

/-- Arms a buoy (R73); with NLINES = 0 it stays Free (R72). -/
def State.armBuoy (s : State) (n base nlines expect consume : Nat) (reload : Bool) : State :=
  if nlines = 0 then s
  else s.putBuoy true n (Buoy.loaded ⟨base, nlines, expect, consume, reload, 0, 0, .free⟩)

/-- Sets a buoy Free (R74). -/
def State.freeBuoy (s : State) (n : Nat) : State := s.putBuoy true n Buoy.idle

/-- The state that P and C give an armed buoy (R79, R80): Filling ends when P is 0, and a buoy that is no longer
Filling starts Draining when C has come to 0. DEDUCED: notes/assumptions/15.md. -/
def Buoy.derive (b : Buoy) : Buoy :=
  let over_ := b.consume != 0 && b.c == 0
  match b.st with
  | .filling => if b.p != 0 then b else { b with st := if over_ then .draining else .ready }
  | .ready => if over_ then { b with st := .draining } else b
  | _ => b

/-- Records a misuse (R87): the first in BUOY_ERR, later ones in BUOY_ERR_CNT. -/
def State.buoyMisuse (s : State) (n kind source : Nat) (uncovered : Bool) : State :=
  if s.buoys.errValid then bump 0x0248 s
  else { s with buoys := { s.buoys with
    errBuoy := if uncovered then 0xFF else n, errKind := kind, errSource := source,
    errUncov := uncovered, errValid := true } }

/-- A buoy after one producer completion (R75): P falls. A completion beyond EXPECT leaves P at 0 and is no misuse.
DESIGN CHOICE: notes/assumptions/15.md. -/
def Buoy.completed (b : Buoy) : Buoy := if b.st = .free then b else { b with p := b.p - 1 }.derive

/-- A buoy after one consumer release (R76, R80): C falls, but not of an unbounded consumer count. A release beyond
CONSUME changes nothing and is no misuse. DESIGN CHOICE: notes/assumptions/15.md. -/
def Buoy.released (b : Buoy) : Buoy :=
  if b.st = .free || b.consume = 0 || b.c = 0 then b else { b with c := b.c - 1 }.derive

/-- What completions and releases do to a buoy they do to it as it would stand without the stream's commands of this
control cycle as well (R386). -/
def State.alsoWithout (s : State) (n : Nat) (f : Buoy → Buoy) : State :=
  if s.str.cmds.isEmpty then s
  else { s with str := { s.str with cmds := s.str.cmds.map (fun c => if c.2.1 = n then (c.1, n, f c.2.2.1, c.2.2.2) else c) } }

/-- One change of a count (R75, R76), with the kind of its misuse (R87). It comes before the commands of its cycle (R79):
on a buoy that a command has already set in this cycle nothing is left of it, but a misuse where the buoy had been Free. -/
def State.countAt (s : State) (n kind source : Nat) (f : Buoy → Buoy) : State :=
  let b := s.buoy n
  if s.commanded n then (if (s.buoyBefore n).st = .free then s.buoyMisuse n kind source false else s)
  else if b.st = .free then s.buoyMisuse n kind source false
  else if f b = b then s
  else s.setBuoy n (f b)

/-- One producer completion (R75). -/
def State.complete (s : State) (n source : Nat) : State :=
  (s.countAt n 0x2 source Buoy.completed).alsoWithout n Buoy.completed

/-- One consumer release (R76, R80). -/
def State.release (s : State) (n source : Nat) : State :=
  (s.countAt n 0x1 source Buoy.released).alsoWithout n Buoy.released

/-- May a checked read of lines `[l0, l1)` proceed (R77)? -/
def State.readClear (s : State) (l0 l1 : Nat) : Bool := (s.notIn .ready l0 l1).isEmpty

/-- May an asynchronous write into lines `[l0, l1)` proceed (R78)? -/
def State.writeClear (s : State) (l0 l1 : Nat) : Bool := (s.notIn .filling l0 l1).isEmpty

/-- Watchdog limit in cycles, `none` when disabled (R84). -/
def State.stallLimit (s : State) : Option Nat :=
  if s.buoys.stallLog2 = 0 then none else some (2 ^ max 10 s.buoys.stallLog2)

/-! ### Asynchronous requests, copy-on-write -/

/-- Puts a request into its sector controller's queue. -/
def State.askOsura (s : State) (agent : Agent) (who : Owner) (a len : Nat) (wr : Option (List Host.Cell)) : State :=
  let passes := match wr with
    | none => 1
    | some cs => if cs.length % 32 == 0 && cs.length == len && a % 32 == 0 then 1 else 2
  { s with osura := { s.osura with q := s.osura.q ++ [⟨agent, who, a, len, wr, passes, s.clk.cyc, false, 0, false, 0, false⟩] } }

/-- The read of a fetch that waits as a checked read does (R76, R77). -/
def State.askChecked (s : State) (agent : Agent) (who : Owner) (a len : Nat) : State :=
  { s with osura := { s.osura with q := s.osura.q ++ [⟨agent, who, a, len, none, 1, s.clk.cyc, false, 0, true, 0, false⟩] } }

/-- A granule pending for a closing mark and not yet read (R405). -/
def State.cowPending (s : State) (g : Nat) : Bool := sget false s.log.pend g

/-! ### Host writes -/

/-- A register write by SYS (R424, R443): before READY it changes nothing, and it is answered either way. -/
def State.hostWrite (s : State) (f : State → State) : State :=
  let t := if s.rst.ready then f s else s
  { t with out := t.out ++ [.regWrote false] }

/-! ### Free values -/

/-- Draws the number of a fresh free value. DESIGN CHOICE: notes/assumptions/3.md. -/
def State.fresh (s : State) : State := { s with free := s.free + 1 }

end Sys2Proof.Machine
end

