-- ==== Sys2Proof/Machine/Clock.lean ====
section
/-! DEFINITION. Time (spec/19_clocks_power_supply.md R471 to R476): one core cycle of the block, which an empty
queue's step makes and which every BUNDLE_ISSUE makes. -/

namespace Sys2Proof.Machine

/-- Core divisor of a CLK_STATUS.DIV code (R486). -/
def divisorOf (code : Nat) : Nat := if code = 0 then 4 else if code = 1 then 5 else 8

/-- CKR cycles that one step of time takes: to the next edge of the core clock, or of the control clock while the core
clock stands (R472, R476). At ÷4 and ÷8 the core clock rises on every control edge (R473). -/
def Clk.span (c : Clk) : Nat :=
  if c.stopped then 8 - c.ckr % 8 else if c.divNow = 1 then 5 else divisorOf c.divNow - c.ckr % divisorOf c.divNow

/-- Edges of a clock of divide ratio `d` that fall in the next `n` CKR cycles (R473). -/
def edgesIn (d ckr n : Nat) : Nat := (ckr + n) / d - ckr / d

/-- One step of the clocks. -/
def Clk.advance (c : Clk) : Clk :=
  let n := c.span
  { c with
    ckr := c.ckr + n
    ticks := c.ticks + edgesIn 64 c.ckr n
    fab := if c.stopped then c.fab else c.fab + edgesIn 2 c.ckr n
    cyc := if c.stopped then c.cyc else c.cyc + 1 }

/-- HOLD of a fusion port (R271, R454, R455): few engine credits, halted or discarding, or no engine. -/
def Lantern.hold (low : Nat) (l : Lantern) : Bool :=
  !l.present || l.engCredits ≤ max 1 low || l.halted || l.suspended || l.abort || l.ack || l.fenced

/-- HOLDLOW in force: a write takes effect in the next control cycle (R301). -/
def State.lnHoldNow (s : State) : Nat :=
  match s.lnCfg.was with
  | some w => if w.1 = s.ctlCycle then w.2 else s.lnCfg.low
  | none => s.lnCfg.low

/-- The launch runs, stopped or not (KEEPER_STATUS.WRUN, R389). -/
def State.wrun (s : State) : Bool := s.str.launch.isSome

/-- The stream is stopped (R116). -/
def State.streamStopped (s : State) : Bool := s.str.stop.cause != 0

/-- Percent of a port's cycles that the Logbook gets (R415). -/
def Log.rateNow (l : Log) : Nat := if l.rate = 0 then 1 else min 100 l.rate

/-- Does a queued asynchronous request wait on a buoy (R77, R78)? -/
def State.buoyBlocked (s : State) (r : AsyncReq) : Bool :=
  let l0 := r.addr / 1024
  let l1 := (r.addr + r.len + 1023) / 1024
  if r.wr.isSome then
    (r.agent == .beacon || r.agent == .lantern || r.agent == .ring1 || r.agent == .tender || r.agent == .ring2) &&
      !s.writeClear l0 l1
  else r.checked && !s.readClear l0 l1

/-- Does a queued write wait for copy-on-write (R405)? -/
def State.cowBlocked (s : State) (r : AsyncReq) : Bool :=
  r.wr.isSome && r.agent != .log && s.cowPending (granuleOf r.addr)

/-- An asynchronous writer waits for copy-on-write (R405). -/
def State.cowWaits (s : State) : Bool := s.osura.q.any (fun r => s.cowBlocked r && !s.buoyBlocked r)

/-- Does an accepted arrival of this port and class wait on a buoy? Later packets wait behind it (R339). -/
def State.arrivalBlocked (s : State) (port : Option Nat) (cls : Nat) : Bool :=
  s.ring.arrivals.any (fun a => a.pkt.port == port && a.pkt.cls == cls &&
    s.osura.q.any (fun r => (match r.who with
      | .mooring _ id => id == a.id
      | _ => false) && s.buoyBlocked r))

/-- A packet in an arrival buffer stands behind a write that a buoy holds: the cycle is not one of R342's bound. -/
def State.agePkt (s : State) (p : Pkt) : Pkt :=
  if p.cls = 0 && s.arrivalBlocked p.port 0 then { p with came := p.came.map (· + 1) } else p

/-- The count of a wait after one more core cycle: it goes on while the wait does, starts afresh with the next wait,
and stands still while the host pauses the stream (R83). -/
def waitCount (frozen waits : Bool) (n : Nat) : Nat := if frozen then n else if waits then n + 1 else 0

/-- A stage of the Lantern's chain waits: for reads or writes that arbitration or a buoy holds up, for room in a relay
buffer, or for the buoys of the next product (R295, R297). What a halt or an abort has given up waits for nothing. -/
def Lantern.waiting (l : Lantern) : Bool :=
  !(l.halted || l.abort || l.ack || l.fenced || !l.present) &&
    (l.epi.any (fun j => j.fetch.any (fun f => !f.out.isEmpty)) || l.pro.any (fun x => !x.2.out.isEmpty) ||
      !l.writes.isEmpty || l.relayWait || l.annWait)

/-- Some line that an asynchronous write is to reach belongs to a Ready or Draining buoy (R78). -/
def State.linesHeld (s : State) (lines : List (Nat × Nat)) : Bool := lines.any (fun l => !s.writeClear l.1 l.2)

/-- A tag is kept while its channel is at work and the data waits on a buoy (R78). -/
def State.keepsTag (s : State) (t : HeldTag) : Bool :=
  (sget Chan.idle s.td.ch t.ch).st == .busy && s.linesHeld t.lines

/-- The waits that a core cycle adds to (R83, R342, R354, R405). -/
def State.countWaits (s : State) : State :=
  let frozen := s.str.frozen
  let q := s.osura.q.map (fun r =>
    if s.buoyBlocked r then { r with waited := waitCount frozen true r.waited, held := r.held + 1 }
    else { r with waited := waitCount frozen false r.waited, checked := false })
  let ch := s.td.ch.map (fun (c, x) =>
    let asks := if x.status = 0 then x.phase == 3 && x.reads.isEmpty else x.reads.all (fun r => r.data.isSome)
    if x.st == .busy && x.x.kind == 5 && asks && !frozen && !s.ring.hold
    then (c, { x with waited := x.waited + 1 }) else (c, x))
  let ln := s.ln.map (fun l => { l with
    waited := waitCount frozen l.annWait l.waited
    relayed := waitCount frozen l.relayWait l.relayed
    quiet := waitCount frozen (!l.prods.isEmpty && !l.suspended && !l.waiting) l.quiet })
  let ports := s.ring.ports.map (fun (r : RPort) => { r with held := r.held.map s.agePkt })
  bumpBy 0x0220 (bit s.cowWaits)
    { s with
      mem := { s.mem with held := s.mem.held.filter s.keepsTag }
      ring := { s.ring with ports := ports }, osura := { s.osura with q := q }, td := { s.td with ch := ch }, ln := ln }

/-- The time-out of a closing sector stands still while reads of its granules for a mark are to come (R62). -/
def State.holdCloses (s : State) : State :=
  if s.log.pend.isEmpty then s
  else (s.osura.secs.map (·.1)).foldl (fun s n =>
    if (s.secCtl n).st == .closing && s.log.pend.any (fun g => g.1 / 128 == n) then
      s.modSec n (fun c => { c with closeAt := c.closeAt + 1 })
    else s) s

/-- Counters that count cycles (R507, R508); those of the Lanterns only while their domains are on (R435). -/
def State.countCycle (s : State) : State :=
  let s := if s.wrun then bumpWide 0x0108 1 s else s
  let s := if s.clk.divNow = 0 then s else bump 0x0224 s
  if s.unitsOff then s
  else (upTo 4).foldl (fun s n =>
    let l := s.ln.getD n .fresh
    let s := if l.waiting then bump (0x0280 + 4 * n) s else s
    if l.hold s.lnHoldNow then bump (0x0290 + 4 * n) s else s) s

/-- Buckets and tick timers over one step of the clocks (R340, R397, R402, R408). -/
def State.countTicks (s : State) (dt df : Nat) : State :=
  let bucket := (upTo 24).foldl (fun (m : Sparse Nat) p =>
    sset 0 m p (min 1600 (sget 0 m p + df * s.log.rateNow))) s.mem.bucket
  let ports := s.ring.ports.map (fun p => { p with bucket := min 17408 (p.bucket + (125 * df : Nat)) })
  let lead := s.ring.chipId == s.ring.leadId && s.wrun
  { s with
    mem := { s.mem with bucket := bucket }
    ring := { s.ring with ports := ports, epochRun := if lead then s.ring.epochRun + dt else s.ring.epochRun }
    flt := { s.flt with lastFog := if s.flt.fognow then some (s.clk.ticks + dt) else s.flt.lastFog } }

/-- One core cycle passes (while the core clock stands, one control cycle). DESIGN CHOICE: notes/assumptions/1.md. -/
def State.advance (s : State) : State :=
  let c := s.clk.advance
  let s' := s.countTicks (c.ticks - s.clk.ticks) (c.fab - s.clk.fab)
  let s' := if s.clk.stopped then s' else (s'.countWaits.holdCloses).countCycle
  { s' with clk := c }

end Sys2Proof.Machine
end

