-- ==== Sys2Proof/Machine/Events.lean ====
section
/-! DEFINITION. Event records and the SYS master (spec/15_host_rings.md R380 to R384, spec/18_ports_and_signals.md
R444, R445). -/

namespace Sys2Proof.Machine

/-! ### SYS master requests -/

/-- A request that nobody waits for any more. -/
def SysReq.orphan (q : SysReq) : SysReq := if q.what = .expired then q else { q with what := .dropped }

/-- The lowest free SYS tag (R444). -/
def State.sysTag (s : State) : Option Nat :=
  if s.kp.sysFenced then none else (upTo 32).find? (fun t => s.kp.sys.all (fun r => r.tag != t))

/-- Issues a SYS read. -/
def State.sysRead (s : State) (tag : Nat) (what : SysFor) (addr len : Nat) : State :=
  { s with kp := { s.kp with sys := s.kp.sys ++ [⟨tag, what, addr, s.clk.ckr / 8⟩] }
           out := s.out ++ [.sysRead tag addr len] }

/-- Issues a SYS write. -/
def State.sysWrite (s : State) (tag : Nat) (what : SysFor) (addr : Nat) (data : List Byte) : State :=
  { s with kp := { s.kp with sys := s.kp.sys ++ [⟨tag, what, addr, s.clk.ckr / 8⟩] }
           out := s.out ++ [.sysWrite tag addr data] }

/-! ### Records -/

/-- SEQ of a record with no work descriptor of its own (R380). -/
def State.seqNow (s : State) : Nat :=
  match s.str.launch with
  | some l => l.seq
  | none => (s.kp.nextseq + 2 ^ 64 - 1) % 2 ^ 64

/-- A record that names no descriptor, timed now. -/
def State.record (s : State) (typ p0 p1 p2 p3 : Nat) : EvRec :=
  ⟨typ, 0, 0, s.clk.ticks % 2 ^ 32, s.seqNow, p0, p1, p2, p3⟩

/-- A record of the running launch: RING = 1 and its Work-ring index. -/
def State.launchRecord (s : State) (typ p0 p1 p2 p3 : Nat) : EvRec :=
  { s.record typ p0 p1 p2 p3 with ring := 1, index := (s.str.launch.map (·.index)).getD 0 }

/-- A record that names a descriptor of a ring. -/
def State.descRecord (s : State) (ring index typ p0 p1 p2 : Nat) : EvRec :=
  { s.record typ p0 p1 p2 0 with ring := ring, index := index }

/-- Slots of a ring (R367). -/
def HRing.size (r : HRing) : Nat := 2 ^ r.log2

/-- Free slots of the Event ring that records may go to now (R367, R384). -/
def State.eventFree (s : State) : Nat :=
  let r := s.kp.event
  if r.en && s.kp.evBad.isEmpty then (r.head + r.size - 1 - r.tail) % r.size else 0

/-- Records that wait in the event queue: those for which the ring has no slot, and those whose write has faulted
(R384). -/
def State.evWaiting (s : State) : Nat := s.kp.evBad.length + (s.evq.length - s.eventFree)

/-- The event queue holds a record (R384). -/
def State.evHolds (s : State) : Bool := s.evWaiting != 0

/-- Room in the event queue for an ordinary record (R384). DEDUCED: notes/assumptions/40.md. -/
def State.evRoom (s : State) (n : Nat := 1) : Bool := s.evWaiting + n ≤ 64

/-- Room for a FAULT, HOLD or RELEASE record, for which four places more are kept (R384). -/
def State.evKept (s : State) : Bool := s.evWaiting < 68

/-- Queues a record that is never dropped; the caller has waited for room (R384). DEDUCED: notes/assumptions/40.md. -/
def State.push (s : State) (e : EvRec) : State := { s with evq := s.evq ++ [e] }

/-- Queues a record that may be dropped (R384). DEDUCED: notes/assumptions/40.md. -/
def State.pushOrDrop (s : State) (e : EvRec) : State :=
  if s.evRoom then s.push e
  else bump 0x0250 { s with kp := { s.kp with evlost := true } }

/-- A DESC_ERR record (R381); rings are numbered 1 to 3 in records. -/
def State.descErr (s : State) (n slot reason op user : Nat) : State :=
  s.push (s.descRecord (n + 1) slot 0x02 (reason + 256 * op) user 0)

/-- LATE (R62, R381): source kind, unit, source chip, line address. -/
def State.late (s : State) (kind unit chip a : Nat) : State :=
  s.pushOrDrop (s.record 0x09 (kind + unit * 16 + chip * 65536) (a / 1024 * 1024) 0 0)

/-! ### Control descriptors under way (R377 to R379) -/

/-- Nothing of a completed or refused descriptor is still to be reported. -/
def CtlRun.told (r : CtlRun) : Bool := r.done && !r.cevt && r.err.isNone

/-- Queues the CTL_DONE record of a completed descriptor that asks for one, or the DESC_ERR record of a refused one,
once the event queue has room (R384). -/
def ctlReport (s : State) (r : CtlRun) : State :=
  if r.done && !r.told && s.evRoom then
    let s := { s with kp := { s.kp with ctlRun := s.kp.ctlRun.map (fun (x : CtlRun) =>
      if x.num = r.num then { x with cevt := false, err := none } else x) } }
    match r.err with
    | some reason => s.descErr 2 r.slot reason r.op r.user
    | none => s.push (s.descRecord 3 r.slot 0x03 (r.op + 256 * r.status) r.user r.p2)
  else s

/-- Reports what has completed, and counts completions in ring order (R379). -/
def ctlPump (s : State) : State :=
  let s := s.kp.ctlRun.foldl ctlReport s
  let n := (s.kp.ctlRun.takeWhile CtlRun.told).length
  { s with kp := { s.kp with ctlRun := s.kp.ctlRun.drop n, cdone := (s.kp.cdone + n) % 2 ^ 32 } }

/-- A started Control descriptor has completed, with STATUS FAILED if its effect did not come about. -/
def State.settle (s : State) (num : Nat) (failed : Bool) : State :=
  ctlPump { s with kp := { s.kp with ctlRun := s.kp.ctlRun.map (fun r =>
    if r.num = num then
      { r with done := true, status := if failed then 2 else r.status, p2 := if r.op = 8 then s.ring.mark.k else 0 }
    else r) } }

/-- A waiting ECLIPSE is refused with reason STATE (R428, R432); its DESC_ERR is queued once there is room (R384). -/
def refuseEclipse (s : State) : State :=
  match s.rst.eclipse with
  | none => s
  | some num =>
    let run : CtlRun := ⟨num, s.rst.eclipseAt.1, 0x0E, false, s.rst.eclipseAt.2, [], 0, 0, true, some 8⟩
    let runs := s.kp.ctlRun
    let runs := if runs.any (fun x => x.num == num)
      then runs.map (fun x => if x.num = num then { x with cevt := false, done := true, err := some 8 } else x)
      else runs ++ [run]
    ctlPump { s with
      rst := { s.rst with eclipse := none, pstate := 0, wakeHeld := none }
      kp := { s.kp with ctlRun := runs } }

/-- The 32 bytes of a record under a PHASE (R380). -/
def EvRec.bytes (e : EvRec) (phase : Bool) : List Byte :=
  toBytes 4 (e.typ + bit phase * 256 + e.ring * 512 + e.index * 65536) ++ toBytes 4 e.time ++ toBytes 8 e.seq ++
    toBytes 4 e.p0 ++ toBytes 4 e.p1 ++ toBytes 4 e.p2 ++ toBytes 4 e.p3

/-- The Event ring has no free slot (R368). -/
def State.eventFull (s : State) : Bool := (s.kp.event.tail + 1) % s.kp.event.size == s.kp.event.head

/-- Makes the two writes of a record, bytes 4 to 31 and then bytes 0 to 3 (R382); `none` while SYS has no two free
tags (R444). DEDUCED: notes/assumptions/26.md. -/
def State.evWrite (s : State) (o : EvOut) : Option State :=
  match s.sysTag with
  | none => none
  | some t =>
    let s := s.sysWrite t (.ev o.addr) (o.addr + 4) ((o.ev.bytes o.phase).drop 4)
    match s.sysTag with
    | none => none
    | some u =>
      let s := s.sysWrite u (.ev o.addr) o.addr ((o.ev.bytes o.phase).take 4)
      some { s with kp := { s.kp with evOut := s.kp.evOut ++ [{ o with left := 2, bad := false }] } }

/-- Makes again the writes that faulted, oldest first, as far as SYS has tags (R384). DEDUCED:
notes/assumptions/26.md. -/
def evRetry : Nat → State → State
  | 0, s => s
  | fuel + 1, s =>
    match s.kp.evAgain, s.kp.evBad with
    | true, o :: rest =>
      (match ({ s with kp := { s.kp with evBad := rest } }).evWrite o with
        | some s' => evRetry fuel s'
        | none => s)
    | true, [] => { s with kp := { s.kp with evAgain := false } }
    | false, _ => s

/-- An answer to one of the two writes of a record (R445): once both are in, a faulted record waits for the next
ERING_HEAD write. DEDUCED: notes/assumptions/26.md. -/
def evAnswer (addr : Nat) (ok : Bool) (s : State) : State :=
  match s.kp.evOut.find? (fun o => o.addr == addr) with
  | none => s
  | some o =>
    let o' : EvOut := { o with left := o.left - 1, bad := o.bad || !ok }
    if o'.left = 0 then
      { s with kp := { s.kp with
        evOut := s.kp.evOut.erase o, evBad := if o'.bad then s.kp.evBad ++ [o'] else s.kp.evBad } }
    else { s with kp := { s.kp with evOut := s.kp.evOut.map (fun x => if x = o then o' else x) } }

/-- ERING_IRQ (R382). DESIGN CHOICE: notes/assumptions/42.md. -/
def State.irq (s : State) : Bool := s.kp.event.tail != s.kp.event.head && s.kp.irqen

end Sys2Proof.Machine
end

