-- ==== Sys2Proof/Machine/Tender.lean ====
section
/-! DEFINITION. Tender (spec/13_tender_and_memory_ports.md R306 to R329): descriptors and their checks, and a
channel's progress row by row. A command that serves a request calls the handlers here. -/

namespace Sys2Proof.Machine

/-- A tag that nobody waits for any more. DEDUCED: notes/assumptions/24.md. -/
def MemTag.orphan (t : MemTag) : MemTag := if t.who = .expired then t else { t with who := .dropped }

/-! ### Descriptors -/

/-- Word `i` of a byte list. -/
def wordAt (bs : List Byte) (i : Nat) : Nat := ofBytes ((bs.drop (4 * i)).take 4)

/-- Reads the layout of R309. -/
def Xfer.ofBytes (bs : List Byte) : Xfer :=
  let w := wordAt bs
  { kind := bitsOf (w 0) 0 4, profile := bitsOf (w 0) 4 2, half := bitsOf (w 0) 6 1, ch := bitsOf (w 0) 7 6
    ssp := bitOf (w 0) 13, dsp := bitOf (w 0) 14, ben := bitOf (w 0) 15, buoy := bitsOf (w 0) 16 8
    evt := bitOf (w 0) 24, cls := bitsOf (w 0) 25 2, rsvd0 := bitsOf (w 0) 27 5
    conv := bitsOf (w 1) 0 4, rnd := bitsOf (w 1) 4 3, sat := bitOf (w 1) 7, psize := bitsOf (w 1) 8 2
    rsvd1 := bitsOf (w 1) 10 22
    src := w 2 + 2 ^ 32 * w 3, dst := w 4 + 2 ^ 32 * w 5, len := w 6
    n1 := bitsOf (w 7) 0 16, n2 := bitsOf (w 7) 16 16
    ss1 := toSigned 32 (w 8), ss2 := toSigned 32 (w 9), ds1 := toSigned 32 (w 10), ds2 := toSigned 32 (w 11)
    idx := w 12, idxlim := w 13, scl := w 14, evtdata := w 15 }

/-- Source and destination element formats of a CONV code (R314). -/
def convFmts : Nat → Fmt × Fmt
  | 1 => (.fp32, .bf16)
  | 2 => (.bf16, .fp32)
  | 3 => (.fp32, .f8a)
  | 4 => (.f8a, .fp32)
  | 5 => (.fp32, .f8b)
  | 6 => (.f8b, .fp32)
  | _ => (.uint8, .uint8)

/-- Bytes of a destination row (R314). -/
def Xfer.dlen (x : Xfer) : Nat :=
  let (s, d) := convFmts x.conv
  x.len * d.width / s.width

/-- Elements of a row. -/
def Xfer.elems (x : Xfer) : Nat := x.len * 8 / (convFmts x.conv).1.width

/-- Scale bytes of a row (R314). -/
def Xfer.scaleLen (x : Xfer) : Nat := ceilDiv x.elems 32

def Xfer.rows (x : Xfer) : Nat := x.n1 * x.n2

def Xfer.psizeBytes (x : Xfer) : Nat := 4 * 2 ^ x.psize

/-- A transfer of length 0 (R317). -/
def Xfer.empty (x : Xfer) : Bool := x.len == 0 || x.n1 == 0 || x.n2 == 0

/-- Address of row `k` in a space: modulo 2^32 in Osura, 2^64 outside (R311). -/
def rowAddr (ext : Bool) (base : Nat) (s1 s2 : Int) (n1 k : Nat) : Nat :=
  let i1 := k % n1
  let i2 := k / n1
  ofSigned (if ext then 64 else 32) ((base : Int) + (i1 : Int) * s1 + (i2 : Int) * s2)

/-- Row `k`'s source and destination addresses; a GATHER or SCATTER uses its index (R311, R312). -/
def Xfer.srcRow (x : Xfer) (idx : List Nat) (k : Nat) : Nat :=
  if x.kind = 2 then ofSigned (if x.ssp then 64 else 32) ((x.src : Int) + (idx.getD k 0 : Int) * x.ss1)
  else rowAddr x.ssp x.src x.ss1 x.ss2 (max 1 x.n1) k

def Xfer.dstRow (x : Xfer) (idx : List Nat) (k : Nat) : Nat :=
  if x.kind = 3 then ofSigned (if x.dsp then 64 else 32) ((x.dst : Int) + (idx.getD k 0 : Int) * x.ds1)
  else rowAddr x.dsp x.dst x.ds1 x.ds2 (max 1 x.n1) k

/-- Outcome of the checks of R316. -/
inductive XferCheck where
  | ok | rsvd | profile | bounds
  deriving DecidableEq, Repr

/-- Field and kind rules (R309, R310, R313 to R315): a reserved, unused or ill-coded field. -/
def Xfer.fieldsOk (x : Xfer) : Bool :=
  let indexed := x.kind == 2 || x.kind == 3
  let fill := x.kind == 4
  let send := x.kind == 5
  let (sf, _) := convFmts x.conv
  1 ≤ x.kind && x.kind ≤ 5 && x.rsvd0 == 0 && x.rsvd1 == 0 && x.conv ≤ 6 &&
    (if send then x.cls == 1 || x.cls == 2 else x.cls == 0) &&
    (if x.conv == 1 || x.conv == 3 || x.conv == 5 then x.rnd ≤ 3 else x.rnd == 0) &&
    (!x.sat || x.conv == 1) && (fill || x.psize == 0) &&
    (!(fill || send) || (!x.ssp && x.conv == 0)) && (!indexed || x.n2 == 1) &&
    (indexed || (x.idx == 0 && x.idxlim == 0)) && (3 ≤ x.conv || x.scl == 0) &&
    (!indexed || (x.ss2 == 0 && x.ds2 == 0)) && (!fill || (x.ss1 == 0 && x.ss2 == 0)) &&
    (!fill || x.psize != 0 || x.src / 2 ^ 32 == 0) &&
    (!send || (!x.dsp && x.ds1 == 0 && x.ds2 == 0 && x.dst / 2 ^ 54 == 0)) &&
    (x.len * 8) % sf.width == 0

/-- A run of bytes lies in Osura (R35). -/
def inOsura (a len : Nat) : Bool := a + len ≤ 2 ^ 29

/-- A corner of a strided range: for a sign of each stride the smallest or greatest offset. -/
def strideSpan (n : Nat) (s : Int) : Int × Int :=
  let e := ((n - 1 : Nat) : Int) * s
  (min 0 e, max 0 e)

/-- Every row of a strided range lies in its space: below 2^29 in Osura, no wrap past 2^64 outside. Rows are
computed modulo the space's width, so an Osura row is checked as computed when strides wrap. -/
def rangeOk (ext : Bool) (base : Nat) (s1 s2 : Int) (n1 n2 len : Nat) : Bool :=
  let (l1, h1) := strideSpan n1 s1
  let (l2, h2) := strideSpan n2 s2
  let lo := (base : Int) + l1 + l2
  let hi := (base : Int) + h1 + h2 + (len : Int)
  if ext then 0 ≤ lo && hi ≤ (2 ^ 64 : Nat)
  else base < 2 ^ 32 &&
    ((0 ≤ lo && hi ≤ (2 ^ 29 : Nat)) ||
      (n1 * n2 ≤ 65536 && (upTo (n1 * n2)).all (fun k => inOsura (rowAddr false base s1 s2 n1 k) len)))

/-- The address checks of R316; a transfer of length 0 touches nothing. -/
def Xfer.addrOk (x : Xfer) : Bool :=
  let indexed := x.kind == 2 || x.kind == 3
  let rows (ext : Bool) (base : Nat) (s1 s2 : Int) (byIdx : Bool) (len : Nat) : Bool :=
    if byIdx then x.idxlim == 0 || rangeOk ext base s1 0 x.idxlim 1 len
    else rangeOk ext base s1 s2 x.n1 x.n2 len
  let fillSrc := x.kind != 4 || x.psize ≤ 1 ||
    (x.src / 2 ^ 32 == 0 && x.src % x.psizeBytes == 0 && inOsura x.src x.psizeBytes)
  let highWords := (x.kind == 4 || x.ssp || x.src < 2 ^ 32) && (x.kind == 5 || x.dsp || x.dst < 2 ^ 32)
  highWords && fillSrc && (!indexed || x.idx % 4 == 0) &&
    (x.empty ||
      ((x.kind == 4 || rows x.ssp x.src x.ss1 x.ss2 (x.kind == 2) x.len) &&
        (x.kind == 5 || rows x.dsp x.dst x.ds1 x.ds2 (x.kind == 3) x.dlen) &&
        (!indexed || inOsura x.idx (4 * x.n1)) &&
        (x.conv < 3 || inOsura x.scl (x.rows * x.scaleLen))))

/-- The checks of R316 in the order RSVD, PROFILE, BOUNDS. `prof` is `none` for a PROFILE field of 0b00. -/
def Xfer.check (x : Xfer) (prof : Option Profile) : XferCheck :=
  if !x.fieldsOk then .rsvd
  else
    match prof with
    | none => .profile
    | some p =>
      let f := convFmts x.conv
      if x.conv != 0 && !(p.accepts f.1 && p.accepts f.2) then .profile
      else if !x.addrOk then .bounds
      else .ok

/-! ### Conversion on the way (R314) -/

/-- The elements of a byte list. -/
def unpackElems (f : Fmt) (bs : List Byte) : List Nat :=
  (upTo (bs.length * 8 / f.width)).map (fun i => rowElem' f bs i)
where
  /-- Element `i`, for formats of whole bytes. -/
  rowElem' (f : Fmt) (bs : List Byte) (i : Nat) : Nat :=
    let n := f.width / 8
    Sys2Proof.ofBytes ((bs.drop (n * i)).take n)

/-- Splits a list into runs of 32. -/
def blocksOf (xs : List Nat) : List (List Nat) := groupsOf 32 (xs.length / 32 + 1) xs

/-- Converts source bytes under their scales, from element `skip` of a block on; gives destination bytes and, for an encode,
scales. -/
def convBytes (p : Profile) (conv : Nat) (rnd : Rnd) (sat : Bool) (bs : List Byte) (scales : List Byte) (skip : Nat) :
    List Byte × List Byte :=
  let (sf, df) := convFmts conv
  let xs := unpackElems sf bs
  match conv with
  | 0 => (bs, [])
  | 1 | 2 => (xs.flatMap (fun x => toBytes (df.width / 8) (convert p sf df rnd sat x).1), [])
  | 3 | 5 =>
    let es := (blocksOf xs).map (blockEncodeAll p df rnd)
    (es.flatMap (fun e => e.2.map (BitVec.ofNat 8)), es.map (fun e => BitVec.ofNat 8 e.1))
  | _ => (xs.zipIdx.flatMap (fun (x, i) =>
      toBytes 4 (blockDecode p sf .fp32 (scales.getD ((skip + i) / 32) 0#8).toNat x).1), [])

/-! ### Channels -/

def State.chan (s : State) (c : Nat) : Chan := sget Chan.idle s.td.ch c

def State.setChan (s : State) (c : Nat) (x : Chan) : State :=
  { s with td := { s.td with ch := sset Chan.idle s.td.ch c x } }

/-- Splits a run at multiples of `unit`: (address, length, offset from the start). -/
def splitRun (unit : Nat) : Nat → Nat → Nat → Nat → List (Nat × Nat × Nat)
  | 0, _, _, _ => []
  | fuel + 1, a, len, off =>
    if len = 0 then []
    else
      let n := min len (unit - a % unit)
      (a, n, off) :: splitRun unit fuel (a + n) (len - n) (off + n)

/-- Issues reads of a run for a channel: Osura lines, or 256-byte units outside (R318, R324). -/
def tdRead (c kind : Nat) (ext : Bool) (a len pos : Nat) (s : State) : State :=
  let segs := splitRun (if ext then 256 else 1024) (len / 256 + 2) a len 0
  segs.foldl (fun s (sa, sl, so) =>
    let ch := s.chan c
    let r : TdRead := ⟨ch.nreq, kind, pos + so, sl, none⟩
    let ch' := { ch with nreq := ch.nreq + 1, reads := ch.reads ++ [r] }
    if ext then s.setChan c { ch' with ext := ch.ext ++ [⟨ch.nreq, sa, sl, none⟩] }
    else (s.setChan c ch').askOsura .tender (.tender c ch.nreq) sa sl none) s

/-- Issues writes of a run for a channel; `back` turns a destination offset into the source offset to go on
from after a fault (R321, R322). -/
def tdWrite (c : Nat) (ext : Bool) (a : Nat) (bs : List Byte) (back : Nat → Nat) (s : State) : State :=
  let segs := splitRun (if ext then 256 else 1024) (bs.length / 256 + 2) a bs.length 0
  segs.foldl (fun s (sa, sl, so) =>
    let ch := s.chan c
    let part := (bs.drop so).take sl
    let ch' := { ch with nreq := ch.nreq + 1, writes := ch.writes ++ [(ch.nreq, back so)] }
    if ext then s.setChan c { ch' with ext := ch.ext ++ [⟨ch.nreq, sa, sl, some part⟩] }
    else (s.setChan c ch').askOsura .tender (.tender c ch.nreq) sa sl (some (cellsAt sa part))) s

/-- Rows that form one run of requests, for row and plane strides in a space where a row is `len` bytes long (R311). -/
def rowsJoined (n1 n2 len : Nat) (s1 s2 : Int) : Nat :=
  if s1 = (len : Int) then (if s2 = ((n1 * len : Nat) : Int) then n1 * n2 else n1) else 1

def Xfer.srcJoined (x : Xfer) : Nat := rowsJoined x.n1 x.n2 x.len x.ss1 x.ss2
def Xfer.dstJoined (x : Xfer) : Nat := rowsJoined x.n1 x.n2 x.dlen x.ds1 x.ds2

/-- Rows that a channel takes in hand together (R311): those that form one run in either space. An in-memory MOVE goes row
by row, and so do GATHER and SCATTER. DEDUCED: notes/assumptions/22.md. -/
def Xfer.batch (x : Xfer) : Nat :=
  if x.kind = 4 then x.dstJoined
  else if x.kind = 1 && (x.ssp || x.dsp) then max x.srcJoined x.dstJoined
  else 1

/-- The pieces from place `p0` to place `p1` of rows of `len` bytes, `joined` of which form a run: address, length and
place. -/
def runPieces (start : Nat → Nat) (len joined p0 p1 : Nat) : List (Nat × Nat × Nat) :=
  let g := joined * len
  (fromTo (p0 / g) (ceilDiv p1 g - p0 / g)).map (fun j =>
    let b := max p0 (j * g)
    (start (j * joined) + (b - j * g), min p1 ((j + 1) * g) - b, b))

/-- Position of byte `q` of a SEND's dense stream in Osura, and how many bytes follow it in its run of rows. -/
def Xfer.sendAt (x : Xfer) (q : Nat) : Nat × Nat :=
  let k := q / x.len
  let run := x.srcJoined * x.len
  (ofSigned 32 ((x.srcRow [] k : Int) + ((q % x.len : Nat) : Int)), run - q % run)

/-- Reads `n` bytes of a SEND from stream position `q` on. -/
def sendReads (c : Nat) (x : Xfer) : Nat → Nat → Nat → Nat → State → State
  | 0, _, _, _, s => s
  | fuel + 1, q, n, pos, s =>
    if n = 0 then s
    else
      let (a, m) := x.sendAt q
      let t := min n m
      sendReads c x fuel (q + t) (n - t) (pos + t) (tdRead c 4 false a t pos s)

/-- Total bytes of a SEND. -/
def Xfer.total (x : Xfer) : Nat := x.len * x.rows

/-- Length of the packet at stream position `q`: it ends at the next 256-byte boundary of the mooring
offset (R345). -/
def Xfer.packetLen (x : Xfer) (q : Nat) : Nat :=
  let o := x.dst % 2 ^ 32 + q
  min (x.total - q) (256 - o % 256)

/-- The channel has nothing more in flight. -/
def Chan.quiet (ch : Chan) : Bool :=
  ch.reads.all (fun r => r.data.isSome) && ch.writes.isEmpty && ch.ext.isEmpty

/-- Ends a channel's transfer with a status, once nothing is in flight. -/
def tdFinish (c status : Nat) (s : State) : State :=
  s.setChan c { s.chan c with st := .finished, status := status, reads := [], writes := [], ext := [] }

/-- Starts the row the channel stands at: its source reads, or for FILL its writes; past the last row the transfer is
finished (R311 to R313). DEDUCED: notes/assumptions/22.md. -/
def tdStartRow (c : Nat) (s : State) : State :=
  let ch := s.chan c
  let x := ch.x
  let bad (k : Nat) : Bool := (x.kind == 2 || x.kind == 3) && x.idxlim ≤ ch.idx.getD k 0
  -- rows whose index is out of range are skipped (R312)
  let k := if bad ch.row then ((fromTo ch.row (x.n1 - ch.row)).find? (fun k => !bad k)).getD x.rows else ch.row
  let skipped := k != ch.row
  let ch := { ch with row := k, idxBad := ch.idxBad || skipped, reads := [], writes := [] }
  let s := s.setChan c ch
  if x.rows ≤ k then tdFinish c (if ch.idxBad then 1 else 0) s
  else if x.kind = 4 then
    let n := x.psizeBytes
    (runPieces (fun j => x.dstRow ch.idx (k + j)) x.len (min x.batch x.dstJoined) ch.off (x.batch * x.len)).foldl
      (fun s (a, m, b) =>
        tdWrite c x.dsp a ((fromTo a m).map (fun q => ch.pat.getD (q % n) 0#8)) (fun o => b + o) s)
      (s.setChan c { ch with phase := 2 })
  else
    let s := (runPieces (fun j => x.srcRow ch.idx (k + j)) x.len (min x.batch x.srcJoined) ch.off (x.batch * x.len)).foldl
      (fun s (a, m, b) => tdRead c 0 x.ssp a m b s) (s.setChan c { ch with phase := 1 })
    if x.conv = 4 || x.conv = 6 then
      tdRead c 1 false (x.scl + k * x.scaleLen) (x.batch * x.scaleLen) 0 s
    else s

/-- Bytes of the served reads of a kind, in order of place. -/
def Chan.gathered (ch : Chan) (kind : Nat) : List Byte :=
  (ch.reads.filter (·.kind == kind)).flatMap (fun r => r.data.getD [])

/-- The start of the element that holds a place of the rows at hand; an encode writes whole blocks of 32 elements
(R314, R321). -/
def Xfer.unitAt (x : Xfer) (p : Nat) : Nat :=
  let (sf, _) := convFmts x.conv
  p - p % x.len % (if x.conv = 3 || x.conv = 5 then 4 * sf.width else sf.width / 8)

/-- The place in the destination's rows of a place in the source's, and back. -/
def Xfer.dstPlace (x : Xfer) (p : Nat) : Nat :=
  let (sf, df) := convFmts x.conv
  p / x.len * x.dlen + p % x.len * df.width / sf.width
def Xfer.srcPlace (x : Xfer) (q : Nat) : Nat :=
  let (sf, df) := convFmts x.conv
  q / x.dlen * x.len + q % x.dlen * sf.width / df.width

/-- Scale bytes of the rows at hand before a place. -/
def Xfer.scalesTo (x : Xfer) (p : Nat) : Nat :=
  let (sf, _) := convFmts x.conv
  p / x.len * x.scaleLen + p % x.len / (4 * sf.width)

/-- Converts what has been read of the rows at hand, from `off` to place `p1`, row by row, and issues its writes; an
encode's scales are kept until they have been served (R314, R321). DEDUCED: notes/assumptions/22.md. -/
def tdWriteRow (c p1 : Nat) (s : State) : State :=
  let ch := s.chan c
  let x := ch.x
  let bs := ch.gathered 0
  let scales := ch.gathered 1
  let parts := (runPieces (fun j => j * x.len) x.len 1 ch.off p1).map (fun (a, m, _) =>
    convBytes ch.prof x.conv (rndOf x.rnd 0 0) x.sat ((bs.drop (a - ch.off)).take m) (scales.drop (x.scalesTo a))
      (a % x.len % 32))
  let out := parts.flatMap (·.1)
  let d0 := x.dstPlace ch.off
  let s := s.setChan c { ch with
    phase := 2, reads := [], pat := if x.conv = 3 || x.conv = 5 then parts.flatMap (·.2) else ch.pat }
  (runPieces (fun j => x.dstRow ch.idx (ch.row + j)) x.dlen (min x.batch x.dstJoined) d0 (d0 + out.length)).foldl
    (fun s (a, m, b) => tdWrite c x.dsp a ((out.drop (b - d0)).take m) (fun o => x.unitAt (x.srcPlace (b + o))) s) s

/-- An encode writes its scales for what has been written, up to place `p1` (R314, R321). -/
def tdScales (c p1 : Nat) (s : State) : State :=
  let ch := s.chan c
  let x := ch.x
  let n := x.scalesTo ch.off
  tdWrite c false (x.scl + ch.row * x.scaleLen + n) (ch.pat.take (x.scalesTo p1 - n)) (fun _ => ch.off)
    (s.setChan c { ch with phase := 4 })

/-- The row in hand is an in-memory copy between different sectors: each line is written as soon as it is read, so
that the sectors work at once (R53). DEDUCED: notes/assumptions/22.md. -/
def Chan.streams (ch : Chan) : Bool :=
  let src := ch.x.srcRow ch.idx ch.row
  let dst := ch.x.dstRow ch.idx ch.row
  let secs (a : Nat) : Nat × Nat := (secOf a, secOf (a + ch.x.len - 1))
  ch.x.kind == 1 && ch.x.conv == 0 && !ch.x.ssp && !ch.x.dsp && ch.phase == 1 && ch.off == 0 &&
    ((secs src).2 < (secs dst).1 || (secs dst).2 < (secs src).1)

/-- Writes a line of a copy that has just been read. DEDUCED: notes/assumptions/22.md. -/
def tdCopyLine (c req : Nat) (bs : List Byte) (s : State) : State :=
  let ch := s.chan c
  if !ch.streams || ch.status != 0 then s
  else
    match ch.reads.find? (fun r => r.req == req && r.kind == 0) with
    | some r => tdWrite c false (ch.x.dstRow ch.idx ch.row + r.pos) bs (fun o => r.pos + o) s
    | none => s

/-- Moves a channel on when what it waits for has come (R311 to R313, R321). SEND moves on in the ring's own
operations; one that has met a Dark sector still waits for the replies to the chunks it has sent (R323, R353). -/
def tdAdvance (c : Nat) (s : State) : State :=
  let ch := s.chan c
  let x := ch.x
  let readsIn := ch.reads.all (fun r => r.data.isSome)
  if ch.st != .busy then s
  else if ch.status != 0 then (if ch.quiet && ch.chunks.isEmpty then tdFinish c ch.status s else s)
  else
    match ch.fault with
    | some (place, _, _, _) =>
      let p1 := x.unitAt place
      -- the elements before the faulted one are written before the pause (R321)
      if !ch.quiet then s
      else if ch.phase = 1 && ch.off < p1 then tdWriteRow c p1 s
      else if ch.phase = 2 && ch.off < p1 && (x.conv = 3 || x.conv = 5) then tdScales c p1 s
      else refuseEclipse (s.setChan c { ch with st := .paused, off := max ch.off p1, reads := [] })
    | none =>
      if x.kind = 5 then s
      else
        match ch.phase with
        | 0 =>
          if readsIn then
            let idxBytes := ch.gathered 2
            let idx := (upTo (idxBytes.length / 4)).map (wordAt idxBytes)
            tdStartRow c (s.setChan c { ch with idx := idx, pat := if x.psize ≤ 1 then ch.pat else ch.gathered 3, reads := [] })
          else s
        | 1 =>
          if !readsIn then s
          else if !ch.streams then tdWriteRow c (x.batch * x.len) s
          else if ch.writes.isEmpty then tdStartRow c (s.setChan c { ch with row := ch.row + 1, off := 0, reads := [] })
          else s
        | _ =>
          if !ch.writes.isEmpty then s
          else if ch.phase = 2 && (x.conv = 3 || x.conv = 5) then tdScales c (x.batch * x.len) s
          else tdStartRow c (s.setChan c { ch with row := ch.row + x.batch, off := 0, reads := [] })

/-- Starts an accepted transfer on its Idle channel (R307, R317). -/
def tdStart (c : Nat) (x : Xfer) (ring : Option Nat) (p : Profile) (s : State) : State :=
  let ch : Chan := { Chan.idle with st := .busy, x := x, ring := ring, prof := p }
  let s := { s with td := { s.td with count := smod 0 s.td.count c (· + 1) } }
  let s := s.setChan c ch
  if x.empty then s.setChan c { ch with st := .finished }
  else if x.kind = 5 then s.setChan c { ch with phase := 3 }
  else
    match x.kind with
    | 2 | 3 => tdRead c 2 false x.idx (4 * x.n1) 0 s
    | 4 =>
      if x.psize ≤ 1 then tdAdvance c (s.setChan c { ch with pat := toBytes x.psizeBytes x.src })
      else tdRead c 3 false x.src x.psizeBytes 0 s
    | _ => tdStartRow c s

/-- Lines of Osura that the data of a read of rows is to be written to (R311 to R313). -/
def Chan.dstLines (ch : Chan) (r : TdRead) : List (Nat × Nat) :=
  let x := ch.x
  if r.kind != 0 || x.dsp || x.kind = 5 then []
  else
    (runPieces (fun j => x.dstRow ch.idx (ch.row + j)) x.dlen (min x.batch x.dstJoined) (x.dstPlace r.pos)
      (x.dstPlace (r.pos + r.len))).map (fun (a, m, _) => (a / 1024, (a + m + 1023) / 1024))

/-- A read of a channel has been served. -/
def tdReadDone (c req : Nat) (bs : List Byte) (s : State) : State :=
  let ch := s.chan c
  if ch.st = .busy then
    tdAdvance c (tdCopyLine c req bs (s.setChan c { ch with
      waited := 0, reads := ch.reads.map (fun r => if r.req = req then { r with data := some bs } else r) }))
  else s

/-- A write of a channel has been served. -/
def tdWriteDone (c req : Nat) (s : State) : State :=
  let ch := s.chan c
  if ch.st = .busy then
    tdAdvance c (s.setChan c { ch with waited := 0, writes := ch.writes.filter (fun w => w.1 != req) })
  else s

/-- Drops an unserved request of a channel from its books. -/
def Chan.drop (ch : Chan) (req : Nat) : Chan :=
  { ch with reads := ch.reads.filter (fun r => r.req != req), writes := ch.writes.filter (fun w => w.1 != req) }

/-- Gives up the requests that no tag has taken. -/
def Chan.unissue (ch : Chan) : Chan := (ch.ext.map (·.req)).foldl Chan.drop { ch with ext := [] }

/-- Keeps some of the requests that no tag has taken. -/
def Chan.keepExt (ch : Chan) (f : ExtReq → Bool) : Chan := { ch with ext := ch.ext.filter f }

/-- An Osura access of a channel was refused or cut off: the transfer ends with status DARK (R323, R326). -/
def tdDark (c req : Nat) (s : State) : State :=
  let ch := (s.chan c).unissue.drop req
  if ch.st = .busy then
    tdAdvance c (s.setChan c { ch with status := if ch.status = 0 then 2 else ch.status })
  else s

/-- A translation fault of a request in tag (R321): requests before it in element order go on, later ones that no tag has
taken are not issued, and the first place that faulted is kept. DEDUCED: notes/assumptions/24.md. -/
def tdXlate (c req dir port iova : Nat) (s : State) : State :=
  let ch := s.chan c
  if ch.st != .busy then s
  else
    let place := match ch.reads.find? (fun r => r.req == req), ch.writes.find? (fun w => w.1 == req) with
      | some r, _ => r.pos
      | none, some w => w.2
      | none, none => ch.off
    let later := (ch.ext.filter (fun e => req < e.req)).map (·.req)
    let ch := later.foldl Chan.drop ((ch.drop req).keepExt (fun e => e.req < req))
    let f := match ch.fault with
      | some f => if f.1 ≤ place then f else (place, iova, dir, port)
      | none => (place, iova, dir, port)
    tdAdvance c (s.setChan c { ch with fault := some f })

/-- RESUME of a Paused channel: it re-reads from the faulted request on (R322). -/
def tdResume (c : Nat) (s : State) : State :=
  let ch := s.chan c
  tdStartRow c (s.setChan c { ch with st := .busy, fault := none, reads := [], writes := [] })

/-- ABORT of a Paused channel (R322). -/
def tdAbort (c : Nat) (s : State) : State := tdFinish c 4 s

/-- The next channel of a half, by rotation, with a request for a port (R308). -/
def nextChannel (s : State) (half port : Nat) : Option Nat :=
  let last := sget 0 s.td.rot (half * 24 + port)
  (upTo 64).map (fun i => half * 64 + (last + i) % 64) |>.find? (fun c =>
    (s.chan c).st == .busy && (s.chan c).ext.any (fun e => (e.iova / 256) % 24 == port))

/-- Takes a channel's first request for a port. -/
def Chan.takeFor (ch : Chan) (port : Nat) : Option ExtReq × Chan :=
  match ch.ext.find? (fun e => (e.iova / 256) % 24 == port) with
  | none => (none, ch)
  | some e => (some e, { ch with ext := ch.ext.erase e })

end Sys2Proof.Machine
end

