-- ==== Sys2Proof/Machine/LnChain.lean ====
section
/-! DEFINITION. Chain definitions and product blocks of the Lanterns, their checks, and the arithmetic of their
stages (spec/11_lanterns_and_fusion.md R276 to R292, R299). -/

namespace Sys2Proof.Machine

/-! ### Layouts -/

/-- A stage entry (R277). -/
def LnStage.ofBytes (b : List Byte) : LnStage :=
  let w := wordAt b 0
  ⟨bitsOf w 0 8, bitsOf w 8 1, bitsOf w 9 3, bitsOf w 12 4, bitsOf w 16 16, wordAt b 1, wordAt b 2, wordAt b 3⟩

/-- Bytes of a chain definition whose header is `w` (R276). -/
def chainBytes (w : Nat) : Nat := 16 + 16 * (bitsOf w 2 4 + bitsOf w 6 5)

/-- A chain definition block (R276); `none` where the header itself breaks R278. -/
def LnChain.ofBytes (b : List Byte) : Option LnChain :=
  let w := wordAt b 0
  let npro := bitsOf w 2 4
  let nepi := bitsOf w 6 5
  let entry (i : Nat) : LnStage := LnStage.ofBytes ((b.drop (16 + 16 * i)).take 16)
  match Profile.ofCode (bitsOf w 0 2) with
  | none => none
  | some p =>
    if 8 < npro || 16 < nepi || bitsOf w 11 5 != 0 || wordAt b 1 != 0 || wordAt b 2 != 0 || wordAt b 3 != 0 then none
    else some ⟨p, bitsOf w 16 5, bitsOf w 21 5, bitsOf w 26 3, bitsOf w 29 3, (upTo npro).map entry,
      (fromTo npro nepi).map entry, []⟩

/-- A product block (R279), with whether its reserved fields are zero. -/
def LnBlock.ofBytes (b : List Byte) : LnBlock × Bool :=
  let w := wordAt b
  (⟨w 0, w 1, w 2, bitsOf (w 3) 0 8, bitOf (w 3) 8, bitsOf (w 3) 16 8, bitOf (w 3) 24, w 4, w 5,
    (fromTo 6 8).map w, w 14, w 15, bitOf (w 16) 0, bitOf (w 16) 1, bitOf (w 16) 2, w 17, (fromTo 18 12).map w⟩,
   bitsOf (w 3) 9 7 == 0 && bitsOf (w 3) 25 7 == 0 && bitsOf (w 16) 3 29 == 0 && w 30 == 0 && w 31 == 0)

/-! ### Stage fields -/

/-- Fields of P16 a stage uses, as a mask, and which of W1, W2, W3 it uses; `none` for a reserved code or field
value (R284, R288). -/
def LnStage.uses (st : LnStage) : Option (Nat × Bool × Bool × Bool) :=
  let p := st.p16
  match st.code with
  | 0x01 => some (0, false, false, false)
  | 0x02 => if bitsOf p 0 13 ≤ 4096 then some (0x3FFF, true, false, false) else none
  | 0x03 => if bitsOf p 0 2 = 3 then none
            else some (0x1FF, bitsOf p 0 2 != 2, bitsOf p 0 2 == 2 && bitOf p 3, false)
  | 0x04 => some (0x1F, true, false, false)
  | 0x05 => if st.w2 = 0 || st.w2 % 2 != 0 || st.w2 < 2 * (bitsOf p 0 8 + 1) then none
            else some (0x1FF, true, true, false)
  | 0x06 => if bitsOf p 5 3 ≤ 3 then some (0x1FF, false, false, false) else none
  | 0x10 => if 4 < bitsOf p 0 3 then none
            else some (7, bitsOf p 0 3 == 0 || 3 ≤ bitsOf p 0 3, 3 ≤ bitsOf p 0 3, false)
  | 0x11 => if bitsOf p 0 2 = 3 then none else some (3, bitsOf p 0 2 == 0, false, false)
  | 0x12 => some (0x3FFF, true, false, false)
  | 0x13 => if (SfuOp.ofCode (bitsOf p 0 8)).isSome || bitsOf p 0 8 = 0x20 then some (0xFF, false, false, false)
            else none
  | 0x14 => if bitsOf p 0 2 = 1 || bitsOf p 0 2 = 2 then some (3, true, false, false) else none
  | 0x15 => if bitsOf p 5 3 ≤ 4 then some (0x1FF, bitsOf p 5 3 == 4, bitsOf p 5 3 == 4, false) else none
  | 0x16 => if bitsOf p 0 2 = 3 then none else some (3, true, bitsOf p 0 2 ≤ 1, bitsOf p 0 2 == 1)
  | 0x17 => some (0, true, true, true)
  | 0x18 => some (1, false, false, false)
  | 0x19 => some (0, false, false, false)
  | 0x1A => some (0, true, false, false)
  | 0x1B => if bitsOf p 5 3 ≤ 4 then some (0xFF, bitsOf p 5 3 == 4, bitsOf p 5 3 == 4, false) else none
  | 0x1C => some (0x3FF, false, false, false)
  | 0x1D => some (0x1FF, true, false, false)
  | 0x1E => some (3, false, false, false)
  | 0x1F => some (0xFFF, true, true, false)
  | _ => none

/-- Reserved fields and unused parameters are zero (R277, R278). -/
def LnStage.fieldsOk (st : LnStage) (epi : Bool) : Bool :=
  match st.uses with
  | none => false
  | some (m, u1, u2, u3) =>
    st.rsvd == 0 && (st.p16 &&& m) == st.p16 && (u1 || st.w1 == 0) && (u2 || st.w2 == 0) && (u3 || st.w3 == 0) &&
      (if epi then 0x10 ≤ st.code && st.path == 0 else st.code ≤ 6)

/-- The format a CVT, DECODE, EXPAND, RESID or ROUND stage names. -/
def LnStage.fmt (st : LnStage) : Option Fmt :=
  match st.code with
  | 0x03 => Fmt.ofCode (bitsOf st.p16 4 5)
  | _ => Fmt.ofCode (bitsOf st.p16 0 5)

/-- Stages of one path, in order. -/
def LnChain.pathStages (c : LnChain) (path : Nat) : List LnStage := c.pro.filter (·.path == path)

/-- Source port of a relayed path. -/
def LnChain.relaySrc (c : LnChain) (path : Nat) : Option Nat :=
  let v := if path = 0 then c.asrc else c.bsrc
  if v = 0 then none else some (v - 1)

def LnChain.srcCode (c : LnChain) (path : Nat) : Nat := if path = 0 then c.asfmt else c.bsfmt

/-- Walks a path's stages by R283: the current format after each, and whether a ROPE or an XPOSE came. -/
def pathWalk (p : Profile) (relay : Bool) : List LnStage → Nat → Fmt → Bool → Bool → Option Fmt
  | [], _, f, _, _ => some f
  | st :: rest, i, f, rope, xpose =>
    match st.code with
    | 0x01 | 0x02 => if i = 0 && !relay then pathWalk p relay rest 1 f rope (st.code == 1) else none
    | 0x03 =>
      match st.fmt with
      | some o =>
        let mode := bitsOf st.p16 0 2
        let src := f == .int4 || f == .uint4 || f == .int8 || f == .uint8
        let ok := if mode = 0 then f.width == 4 else if mode = 1 then f.width == 8
          else o == .bf16 || o == .fp16 || o == .f8a || o == .f8b
        if src && ok && !rope && p.accepts o then pathWalk p relay rest (i + 1) o rope xpose else none
      | none => none
    | 0x04 =>
      match st.fmt with
      | some o =>
        if (f == .f8a || f == .f8b || f == .f4) && (o == .fp32 || o == .fp16 || o == .bf16) && !rope && !xpose &&
            p != .h1 && (p == .h3 || f == .f8a) then pathWalk p relay rest (i + 1) o rope xpose else none
      | none => none
    | 0x05 => if f.isFloat then pathWalk p relay rest (i + 1) .fp32 true xpose else none
    | _ =>
      match st.fmt with
      | some o => if p.accepts o then pathWalk p relay rest (i + 1) o rope xpose else none
      | none => none

/-- Delivered format of a path, `none` where R145, R239 or R283 refuses it. -/
def LnChain.delivered (c : LnChain) (path : Nat) : Option Fmt :=
  match fmtIn c.prof (c.srcCode path) with
  | none => none
  | some f =>
    match pathWalk c.prof (c.relaySrc path).isSome (c.pathStages path) 0 f false false with
    | some o => if [Fmt.fp32, .fp16, .bf16, .f8a, .f8b, .int8, .uint8].contains o then some o else none
    | none => none

/-- Walks the epilogue by R278 and R239; the flags say whether a CVT to a format other than FP32, an RSTAT, and a
PARK after an RSTAT have come. -/
def epiWalk (p : Profile) (relayed : Bool) : List LnStage → Bool → Bool → Bool → Bool
  | [], _, _, _ => true
  | st :: rest, narrow, stat, parkAfterStat =>
    let move := st.code == 0x1C || st.code == 0x1D || st.code == 0x1E || st.code == 0x1F
    let plain := !narrow || st.code == 0x15 || st.code == 0x1B || move
    let next (n s pa : Bool) : Bool := epiWalk p relayed rest n s pa
    plain && (match st.code with
    | 0x10 => (bitsOf st.p16 0 3 < 3 || parkAfterStat) && next narrow stat parkAfterStat
    | 0x12 => (fmtIn p (bitsOf st.p16 0 5)).isSome && next narrow stat parkAfterStat
    | 0x15 =>
      match st.fmt with
      | some o => p.accepts o && rndOk p (bitsOf st.p16 5 3) && next (narrow || o != .fp32) stat parkAfterStat
      | none => false
    | 0x18 => p == .h3 && next narrow true parkAfterStat
    | 0x19 => p == .h3 && next narrow stat parkAfterStat
    | 0x1A => p == .h3 && relayed && next narrow stat parkAfterStat
    | 0x1B =>
      match st.fmt with
      | some o => p.accepts o && rndOk p (bitsOf st.p16 5 3) && next narrow stat parkAfterStat
      | none => false
    | 0x1C => (!bitOf st.p16 0 || rest.isEmpty) && next narrow stat stat
    | _ => next narrow stat parkAfterStat)

/-- Counts stages of a code. -/
def LnChain.count (c : LnChain) (code : Nat) : Nat := (c.epi.filter (·.code == code)).length

/-- The checks of R278 and R455 for a LOAD on Lantern `ln`; `present` tells which fusion ports are connected. -/
def LnChain.ok (c : LnChain) (ln : Nat) (present : Nat → Bool) : Bool :=
  let srcs := [c.relaySrc 0, c.relaySrc 1].filterMap id
  let targets := (c.epi.filter (·.code == 0x1E)).map (fun st => bitsOf st.p16 0 2)
  c.asrc ≤ 4 && c.bsrc ≤ 4 && c.pro.all (fun st => st.fieldsOk false) && c.epi.all (fun st => st.fieldsOk true) &&
    (c.delivered 0).isSome && (c.delivered 1).isSome &&
    epiWalk c.prof (!srcs.isEmpty) c.epi false false false &&
    c.count 0x18 ≤ 1 && c.count 0x19 ≤ 1 && c.count 0x1C ≤ 1 && c.count 0x1E ≤ 1 &&
    !(c.count 0x19 == 1 && c.count 0x1C == 1) &&
    c.epi.any (fun st => [0x1D, 0x1F, 0x1E, 0x1C].contains st.code || (st.code == 0x18 && bitOf st.p16 0)) &&
    !srcs.contains ln && present ln && (srcs ++ targets).all present

/-- Tables that LOAD reads (R275): stage number, address and length. -/
def LnChain.tables (c : LnChain) : List (Nat × Nat × Nat) :=
  c.pro.zipIdx.filterMap (fun (st, i) =>
    match st.code with
    | 0x03 =>
      let w := (st.fmt.getD .fp32).width
      let n := if bitsOf st.p16 0 2 = 0 then 16 else 256
      if bitsOf st.p16 0 2 = 2 then none else some (i, st.w1, n * w / 8)
    | 0x05 => some (i, st.w1, 4 * (bitsOf st.p16 0 8 + 1))
    | _ => none)

/-- A LOAD's tables lie in Osura (R35). -/
def LnChain.tablesIn (c : LnChain) : Bool := c.tables.all (fun t => inOsura t.2.1 t.2.2)

/-! ### Product checks (R280) -/

def LnBlock.areg (b : LnBlock) (i : Nat) : Nat := b.ar.getD i 0

/-- Bytes of a row of `n` elements of `w` bits. -/
def rowBytes (n w : Nat) : Nat := ceilDiv (n * w) 8

/-- Bytes of a row written as whole 4-byte containers (R123, R288). -/
def paddedBytes (n w : Nat) : Nat := ceilDiv (n * w) 32 * 4

/-- The format carried after the epilogue stages before number `i`: CVT's, and FP32 after ROUND (R287). -/
def LnChain.carried (c : LnChain) (i : Nat) : Fmt :=
  (c.epi.take i).foldl (fun f st => if st.code = 0x15 then st.fmt.getD f else if st.code = 0x1B then .fp32 else f) .fp32

/-- The E_CHAIN checks of R280 that the chain and the block make alone. -/
def LnBlock.chainOk (b : LnBlock) (c : LnChain) : Bool :=
  b.m ≤ 131072 && b.n ≤ 131072 && 1 ≤ b.kd && b.kd ≤ 131072 && b.astr % 4 == 0 && b.bstr % 4 == 0 &&
    c.pro.all (fun st => st.code != 0x02 || bitsOf st.p16 0 13 == (if st.path = 0 then b.m else b.n)) &&
    !((c.count 0x18 == 1 || c.count 0x19 == 1) && 4096 < b.m) && !(c.count 0x19 == 1 && 1024 < b.n) &&
    !(c.count 0x1C == 1 && c.count 0x18 == 1 && !(b.sinit && b.sfinal))

/-- Runs of bytes that stand a stride apart: base, stride, how many, and the length of one. -/
structure RowRuns where
  base : Nat
  stride : Nat
  count : Nat
  len : Nat
  deriving DecidableEq, Repr

/-- Buoys over any of the runs that were not Ready at the end of the previous cycle (R77, R281). -/
def State.runsNotReady (s : State) (r : RowRuns) : List Nat :=
  let lines (a len : Nat) : List Nat := s.notIn .ready (a / 1024) ((a + len + 1023) / 1024)
  if (lines r.base ((r.count - 1) * r.stride + r.len)).isEmpty then []
  else (upTo r.count).flatMap (fun i => lines (r.base + i * r.stride) r.len)

/-- Everything from the first run to the end of the last. -/
def RowRuns.outer (r : RowRuns) : Nat × Nat := (r.base, (r.count - 1) * r.stride + r.len)

/-- What a path reads of Osura (R281, R284), GATHER's rows being those of its whole source. -/
def pathRuns (c : LnChain) (b : LnBlock) (path : Nat) : List RowRuns :=
  if (c.relaySrc path).isSome then []
  else
    let rows := if path = 0 then b.m else b.n
    let w := ((Fmt.ofCode (c.srcCode path)).getD .fp32).width
    let base := b.areg path
    let str := if path = 0 then b.astr else b.bstr
    let sts := c.pathStages path
    let gather := sts.find? (·.code == 0x02)
    let xpose := sts.any (·.code == 0x01)
    let src := match gather with
      | some st => ⟨b.areg st.ar, 0, 1, 4 * rows⟩ :: (if st.w1 = 0 then [] else [⟨base, str, st.w1, rowBytes b.kd w⟩])
      | none => if xpose then [⟨base, str, b.kd, rowBytes rows w⟩] else [⟨base, str, rows, rowBytes b.kd w⟩]
    src ++ sts.flatMap (fun st =>
      match st.code with
      | 0x03 =>
        if bitsOf st.p16 0 2 = 2 then
          let n := if bitOf st.p16 2 then b.kd else rows
          ⟨b.areg st.ar, 0, 1, 4 * n⟩ :: (if bitOf st.p16 3 then [⟨b.areg st.ar + st.w2, 0, 1, 4 * n⟩] else [])
        else []
      | 0x04 => [⟨b.areg st.ar, st.w1, rows, ceilDiv b.kd 32⟩]
      | _ => [])

/-- Source ranges of a path in Osura, as outer bounds. -/
def pathRanges (c : LnChain) (b : LnBlock) (path : Nat) : List (Nat × Nat) := (pathRuns c b path).map RowRuns.outer

/-- Ranges the epilogue reads or writes. -/
def epiRanges (c : LnChain) (b : LnBlock) : List (Nat × Nat) :=
  c.epi.zipIdx.flatMap (fun (st, i) =>
    let w := (c.carried i).width
    let a := b.areg st.ar
    let vec (src : Nat) : List (Nat × Nat) :=
      if src = 1 then [(a, 4 * b.m)] else if src = 2 then [(a, 4 * b.n)] else []
    match st.code with
    | 0x10 => vec (bitsOf st.p16 0 3)
    | 0x11 => vec (bitsOf st.p16 0 2)
    | 0x12 => [(a, (b.m - 1) * st.w1 + rowBytes b.n ((st.fmt.getD .fp32).width))]
    | 0x16 => if bitsOf st.p16 0 2 = 2 then [(a, 4 * b.m)] else []
    | 0x18 => if bitOf st.p16 0 then [(a, 16 * b.m)] else []
    | 0x1A => [(a, (b.m - 1) * st.w1 + 4 * b.n)]
    | 0x1C => [(a, ceilDiv b.m 32 * ceilDiv b.n 32 * (1024 * w / 8))]
    | 0x1D => [(a, (b.m - 1) * st.w1 + paddedBytes b.n w)]
    | 0x1F => (b.areg (bitsOf st.p16 0 3), 4 * b.m) :: (if st.w2 = 0 then [] else [(a, (st.w2 - 1) * st.w1 + paddedBytes b.n w)])
    | _ => [])

/-- An empty product (R280). -/
def LnBlock.empty (b : LnBlock) : Bool := b.m == 0 || b.n == 0

/-- Every range meets R35 (R280); an empty product touches nothing. -/
def LnBlock.boundsOk (b : LnBlock) (c : LnChain) : Bool :=
  b.empty || (pathRanges c b 0 ++ pathRanges c b 1 ++ epiRanges c b).all (fun r => inOsura r.1 r.2)

/-! ### Prologue arithmetic (R284 to R286) -/

/-- What prologue stages read: Osura bytes, a relayed element's bits by row and column, and the tables. -/
structure ProCtx where
  chain : LnChain
  blk : LnBlock
  path : Nat
  read : Nat → Nat → Nat
  relayed : Nat → Nat → Nat

/-- An element on its way: format, code, flags. -/
abbrev ProOut := Fmt × Nat × FlagSet

/-- Element `(row, k)` of a path's source (R281, R284). -/
def ProCtx.source (x : ProCtx) (row k : Nat) : ProOut :=
  let f := (Fmt.ofCode (x.chain.srcCode x.path)).getD .fp32
  let base := x.blk.areg x.path
  let str := if x.path = 0 then x.blk.astr else x.blk.bstr
  let elem (a i : Nat) : Nat := x.read (a + i * f.width / 8) (ceilDiv f.width 8) / 2 ^ (i * f.width % 8) % 2 ^ f.width
  let sts := x.chain.pathStages x.path
  if (x.chain.relaySrc x.path).isSome then (f, x.relayed row k, flagNone)
  else
    match sts.find? (·.code == 0x02) with
    | some st =>
      let q := x.read (x.blk.areg st.ar + 4 * row) 4
      let bad := if bitOf st.p16 13 then st.w1 ≤ q else 2 ^ 31 ≤ q || st.w1 ≤ q
      if bad then (f, 0, flagNV) else (f, elem (base + q * str) k, flagNone)
    | none => if sts.any (·.code == 0x01) then (f, elem (base + k * str) row, flagNone) else (f, elem (base + row * str) k, flagNone)

/-- The exact product of an integer and an FP32 value, rounded once (R285). -/
def affine (p : Profile) (o : Fmt) (d : Int) (s0 : Nat) : Nat × FlagSet :=
  let s : Operand := (⟨.fp32, s0⟩ : Operand).flush p
  match nanResult? p o [s] with
  | some r => r
  | none =>
    match mulX (.fin (decide (d < 0)) d.natAbs 0) s.val with
    | some x => deliver p o .rne false x
    | none => invalidResult o

/-- An element as FP32 (R286, R287, R288): every format but INT32 and UINT32 has its exact value there. As an exact
widening it is flushed by the profile's rules, like the widened load of the separate form (R230 to R232, R239, R299).
DEDUCED: notes/assumptions/25.md. -/
def exactFp32 (p : Profile) (f : Fmt) (c : Nat) : Nat × FlagSet :=
  if f = .fp32 then (c, flagNone) else convert p f .fp32 .rne false c

/-- RESID's `x + z` with `z` at its exact value and one rounding, where `z` is an integer as well (R287, R288). -/
def residElem (p : Profile) (zf : Fmt) (x0 z : Nat) : Nat × FlagSet :=
  if zf.isInt then
    let x := flushIn p .fp32 x0
    match nanResult? p .fp32 [⟨.fp32, x⟩] with
    | some r => r
    | none =>
      let i := decodeInt zf z
      match addX .rne (decodeFloat .fp32 x).toX (.fin (decide (i < 0)) i.natAbs 0 false) with
      | none => invalidResult .fp32
      | some y => deliver p .fp32 .rne false y
  else
    let (w, g) := exactFp32 p zf z
    let (y, g') := addElem p .fp32 .fp32 .rne false false x0 w
    (y, g ||| g')

/-- One ROPE output of the pair (x, y) at angle `th` (R286). -/
def ropeElem (p : Profile) (th : Nat) (second : Bool) (x y : Nat) : Nat × FlagSet :=
  let (c, f1) := sfuElem p .cost .fp32 false true th
  let (s, f2) := sfuElem p .sint .fp32 false true th
  let (m, f3) := f32mul p y (if second then c else s)
  let (v, f4) := fmaElem p .fp32 .fp32 .rne false false (!second) x (if second then s else c) m
  (v, f1 ||| f2 ||| f3 ||| f4)
where
  /-- FP32 product. -/
  f32mul (p : Profile) (a b : Nat) : Nat × FlagSet := mulElem p .fp32 .fp32 .rne false a b

/-- Bytes of a loaded table. -/
def LnChain.table (c : LnChain) (i : Nat) : List Byte :=
  match c.tabs.find? (·.1 == i) with
  | some t => t.2
  | none => []

/-- An element after a path's stages, latest stage first; each stage comes with its number in the chain. -/
def ProCtx.elem (x : ProCtx) : List (LnStage × Nat) → Nat → Nat → ProOut
  | [], row, k => x.source row k
  | (st, i) :: earlier, row, k =>
    let p := x.chain.prof
    let rows := if x.path = 0 then x.blk.rowbase else x.blk.colbase
    match st.code with
    | 0x03 =>
      let (f, c, fl) := x.elem earlier row k
      let o := st.fmt.getD .fp32
      if bitsOf st.p16 0 2 = 2 then
        let n := if bitOf st.p16 2 then k else row
        let s := x.read (x.blk.areg st.ar + 4 * n) 4
        let z : Int := if bitOf st.p16 3 then toSigned 32 (x.read (x.blk.areg st.ar + st.w2 + 4 * n) 4) else 0
        let (v, g) := affine p o (decodeInt f c - z) s
        (o, v, fl ||| g)
      else
        let n := o.width
        let t := x.chain.table i
        (o, ofBytes ((t.drop (c * n / 8)).take (ceilDiv n 8)) / 2 ^ (c * n % 8) % 2 ^ n, fl)
    | 0x04 =>
      let (f, c, fl) := x.elem earlier row k
      let o := st.fmt.getD .fp32
      let (v, g) := blockDecode p f o (x.read (x.blk.areg st.ar + row * st.w1 + k / 32) 1) c
      (o, v, fl ||| g)
    | 0x05 =>
      let kk := k % st.w2
      let n := bitsOf st.p16 0 8 + 1
      if 2 * n ≤ kk then
        let (f, c, fl) := x.elem earlier row k
        let (v, g) := exactFp32 p f c
        (.fp32, v, fl ||| g)
      else
        let halves := bitOf st.p16 8
        let pair := if halves then kk % n else kk / 2
        let second := if halves then n ≤ kk else kk % 2 = 1
        let mate := if halves then (if second then k - n else k + n) else (if second then k - 1 else k + 1)
        let (f, c, fl) := x.elem earlier row k
        let (f', c', fl') := if mate < x.blk.kd then x.elem earlier row mate else (f, 0, flagNone)
        let (a, ga) := exactFp32 p f c
        let (b, gb) := exactFp32 p f' c'
        let th := (rows + row) * ofBytes (((x.chain.table i).drop (4 * pair)).take 4) % 2 ^ 32
        let (v, g) := if second then ropeElem p th true b a else ropeElem p th false a b
        (.fp32, v, fl ||| fl' ||| ga ||| gb ||| g)
    | 0x06 =>
      let (f, c, fl) := x.elem earlier row k
      let o := st.fmt.getD .fp32
      let (v, g) := convert p f o (rndOf (bitsOf st.p16 5 3) 0 0) (bitOf st.p16 8) c
      (o, v, fl ||| g)
    | _ => x.elem earlier row k

/-- A path's stages with their numbers, latest first. -/
def LnChain.pathRev (c : LnChain) (path : Nat) : List (LnStage × Nat) :=
  (c.pro.zipIdx.filter (fun s => s.1.path == path)).reverse

/-- Elements of an operand beat's vector (R267). -/
def LnChain.perVector (c : LnChain) (path : Nat) : Nat := 1024 / ((c.delivered path).getD .fp32).width

/-- The operand beat of block `i`, chunk `h` (R267): 4 KiB and the flags its stages raise. -/
def operandBeat (x : ProCtx) (i h : Nat) : List Byte × FlagSet :=
  let e := x.chain.perVector x.path
  let rows := if x.path = 0 then x.blk.m else x.blk.n
  let w := ((x.chain.delivered x.path).getD .fp32).width
  let sts := x.chain.pathRev x.path
  let out := (upTo 32).map (fun t => (upTo e).map (fun j =>
    if 32 * i + t < rows && e * h + j < x.blk.kd then
      let o := x.elem sts (32 * i + t) (e * h + j)
      (o.2.1, o.2.2)
    else (0, flagNone)))
  (out.flatMap (fun v => toBytes 128 (packElems w (v.map (·.1)))),
   out.foldl (fun f v => v.foldl (fun f o => f ||| o.2) f) flagNone)

/-! ### Epilogue arithmetic (R287 to R292) -/

/-- What an element-wise epilogue stage reads. -/
structure EpiCtx where
  prof : Profile
  blk : LnBlock
  read : Nat → Nat → Nat
  /-- Row statistics of a row, for SCALE RMS and LNORM: sum and sum of squares. -/
  stat : Nat → Nat × Nat
  /-- RESC's factors of a row, with SINIT and SFINAL of the relaying product. -/
  factor : Nat → Nat × Nat × Bool × Bool

def ep32 (p : Profile) (neg : Bool) (a b c : Nat) : Nat × FlagSet := fmaElem p .fp32 .fp32 .rne false neg false a b c

/-- s of SCALE RMS and LNORM, with μ (R290). -/
def normScale (p : Profile) (lnorm : Bool) (sum sumsq invN eps : Nat) : Nat × Nat × FlagSet :=
  let (mu, f1) := mulElem p .fp32 .fp32 .rne false sum invN
  let (ms, f2) := mulElem p .fp32 .fp32 .rne false sumsq invN
  let (v0, f3) := if lnorm then ep32 p true mu mu ms else (ms, flagNone)
  let (v, f4) := addElem p .fp32 .fp32 .rne false false v0 eps
  let (s, f5) := sfuElem p .rsqrt .fp32 false false v
  (mu, s, (if lnorm then f1 else flagNone) ||| f2 ||| f3 ||| f4 ||| f5)

/-- One element-wise stage at product element `(r, c)` on a value in the carried format (R288, R289, R292). -/
def epiElem (x : EpiCtx) (st : LnStage) (f : Fmt) (r c v : Nat) : Nat × FlagSet :=
  let p := x.prof
  let a := x.blk.areg st.ar
  let gr := x.blk.rowbase + r
  let gc := x.blk.colbase + c
  let idx := (gr * 2 ^ 16 + gc) % 2 ^ 32
  let vec (src : Nat) : Nat := if src = 0 then st.w1 else x.read (a + 4 * (if src = 1 then r else c)) 4
  match st.code with
  | 0x10 =>
    let src := bitsOf st.p16 0 3
    if src < 3 then mulElem p .fp32 .fp32 .rne false v (vec src)
    else
      let (sum, sq) := x.stat r
      let (mu, s, g) := normScale p (src == 4) sum sq st.w1 st.w2
      let (d, g1) := if src = 4 then addElem p .fp32 .fp32 .rne false true v mu else (v, flagNone)
      let (y, g2) := mulElem p .fp32 .fp32 .rne false d s
      (y, g ||| g1 ||| g2)
  | 0x11 => addElem p .fp32 .fp32 .rne false false v (vec (bitsOf st.p16 0 2))
  | 0x12 =>
    let zf := st.fmt.getD .fp32
    let z := x.read (a + r * st.w1 + c * zf.width / 8) (ceilDiv zf.width 8) / 2 ^ (c * zf.width % 8) % 2 ^ zf.width
    residElem p zf v z
  | 0x13 =>
    match SfuOp.ofCode (bitsOf st.p16 0 8) with
    | some op => sfuElem p op .fp32 false false v
    | none => cvtsElem p .fp32 .rne false 3 0 ⟨.fp32, v⟩ none none
  | 0x14 => cvtsElem p .fp32 .rne false (bitsOf st.p16 0 2) st.w1 ⟨.fp32, v⟩ none none
  | 0x15 => convert p f (st.fmt.getD f) (rndOf (bitsOf st.p16 5 3) (st.w1 + st.w2 * 2 ^ 32) idx) (bitOf st.p16 8) v
  | 0x16 =>
    let keep : Bool := match bitsOf st.p16 0 2 with
      | 0 => decide ((gc : Int) ≤ gr + toSigned 32 st.w2)
      | 1 => decide ((gr : Int) - st.w2 ≤ gc) && decide (gc ≤ gr + st.w3)
      | _ => decide ((c : Int) < toSigned 32 (x.read (a + 4 * r) 4))
    (if keep then v else st.w1, flagNone)
  | 0x17 => (if srBits (st.w1 + st.w2 * 2 ^ 32) idx < st.w3 then 0 else v, flagNone)
  | 0x1A =>
    let (fac, l, first, final) := x.factor r
    let (y, g) := if first then (v, flagNone) else ep32 p false fac (x.read (a + r * st.w1 + c * 4) 4) v
    if final then
      let (q, g1) := sfuElem p .rcp .fp32 false false l
      let (z, g2) := mulElem p .fp32 .fp32 .rne false y q
      (z, g ||| g1 ||| g2)
    else (y, g)
  | 0x1B =>
    let o := st.fmt.getD .fp32
    let (w, g) := convert p f o (rndOf (bitsOf st.p16 5 3) (st.w1 + st.w2 * 2 ^ 32) idx) false v
    let (y, g') := exactFp32 p o w
    (y, g ||| g')
  | _ => (v, flagNone)

/-! ### Row state (R290, R291) -/

/-- Pushes a value onto a stack of pairwise partial sums: equal levels join at once. -/
def pairPush (p : Profile) : Nat → Nat → Nat → FlagSet → List (Nat × Nat) → List (Nat × Nat) × FlagSet
  | 0, lv, v, fl, st => ((lv, v) :: st, fl)
  | _ + 1, lv, v, fl, [] => ([(lv, v)], fl)
  | fuel + 1, lv, v, fl, (l, u) :: st =>
    if l = lv then
      let (s, g) := f32Add p .rne false u v
      pairPush p fuel (lv + 1) s (fl ||| g) st
    else ((lv, v) :: (l, u) :: st, fl)

/-- What a stack comes to: leftovers join from the last element upwards, as pairwise joins them (R183). -/
def pairTotal (p : Profile) (st : List (Nat × Nat)) : Nat × FlagSet :=
  match st with
  | [] => (0, flagNone)
  | (_, v) :: rest => rest.foldl (fun a e =>
      let (s, g) := f32Add p .rne false e.2 a.1
      (s, a.2 ||| g)) (v, flagNone)

/-- One element reaches RSTAT (R290). -/
def RowStat.add (p : Profile) (x : RowStat) (v : Nat) : RowStat × FlagSet :=
  let (mx, f0) := match x.max with
    | none => (v, flagNone)
    | some m => maxElem p .fp32 false m v
  let (s, f1) := pairPush p 64 0 v flagNone x.sum
  let (q, f2) := mulElem p .fp32 .fp32 .rne false v v
  let (sq, f3) := pairPush p 64 0 q flagNone x.sq
  (⟨some mx, s, sq, x.count + 1⟩, f0 ||| f1 ||| f2 ||| f3)

/-- OSMX over one row (R291): the new row state, f, the p values and the flags. -/
def osmxRow (p : Profile) (m0 l0 : Nat) (xs : List Nat) : (Nat × Nat) × Nat × List Nat × FlagSet :=
  let ninf := 0xFF800000
  let (mb, f0) := match xs with
    | [] => (ninf, flagNone)
    | x :: rest => rest.foldl (fun a v =>
        let (m, g) := maxElem p .fp32 false a.1 v
        (m, a.2 ||| g)) (x, flagNone)
  let (mn, f1) := maxElem p .fp32 false m0 mb
  let expOf (v : Nat) : Nat × FlagSet :=
    let (d, g) := addElem p .fp32 .fp32 .rne false true v mn
    let (e, g') := sfuElem p .exp .fp32 false false d
    (e, g ||| g')
  let (f, f2) := if mn = ninf then (0x3F800000, flagNone) else expOf m0
  let ps := xs.map (fun v => if mn = ninf then (0, flagNone) else expOf v)
  let zero : Nat × FlagSet := (0, flagNone)
  let (sum, f3) := pairwise (fun (a b : Nat × FlagSet) =>
    let (s, g) := f32Add p .rne false a.1 b.1
    (s, a.2 ||| b.2 ||| g)) zero ps
  let (l, f4) := ep32 p false f l0 sum
  ((mn, l), f, ps.map (·.1), f0 ||| f1 ||| f2 ||| f3 ||| f4)

end Sys2Proof.Machine
end

