-- ==== Sys2Proof/Config.lean ====
section
/-! DEFINITION. What the spec fixes by number for this block, and the free values it leaves open. -/

namespace Sys2Proof.Config

/-- A value of `w` bits that the spec leaves open, for the `n`-th time one is drawn (DESIGN CHOICE: notes/assumptions/3.md).
It has no body that a proof could use. -/
opaque freeValue (w n : Nat) : BitVec w

/-- Physical clusters, physical sectors, memory ports (R15, R20, R318). -/
def physClusters : Nat := 34
def physSectors : Nat := 68
def memPorts : Nat := 24

end Sys2Proof.Config
end

