-- ==== Sys2Proof/Machine/Crc.lean ====
section
/-! DEFINITION. CRC-32C (R337). -/

namespace Sys2Proof.Machine

/-- One bit of the reflected generator 0x82F6_3B78. -/
def crcBit : Nat → Nat → Nat
  | 0, c => c
  | n + 1, c => crcBit n (if c % 2 == 1 then (c / 2) ^^^ 0x82F63B78 else c / 2)

/-- Takes one byte, least significant bit first. -/
def crcByte (c : Nat) (b : Byte) : Nat := crcBit 8 (c ^^^ b.toNat)

/-- CRC-32C of a byte list (R337). -/
def crc32c (bs : List Byte) : Nat := (bs.foldl crcByte 0xFFFFFFFF) ^^^ 0xFFFFFFFF

end Sys2Proof.Machine
end

