-- ==== Sys2Proof/Machine/RingOps.lean ====
section
/-! DEFINITION. Packets, routing, credits and SENDs (spec/14_ring_and_moorings.md R330 to R354). -/

namespace Sys2Proof.Machine

/-! ### Headers -/

/-- Reads the layout of R334. -/
def Pkt.ofHdr (h : List Word) (payload : List Byte) (port : Option Nat) : Pkt :=
  let w (i : Nat) : Nat := (h.getD i 0#32).toNat
  { dst := bitsOf (w 0) 0 16, src := bitsOf (w 0) 16 16, cls := bitsOf (w 1) 0 2, kind := bitsOf (w 1) 2 4
    moor := bitsOf (w 1) 6 6, cstart := bitOf (w 1) 12, cend := bitOf (w 1) 13, last := bitOf (w 1) 14
    len := bitsOf (w 1) 15 9, hops := bitsOf (w 1) 24 8, offset := w 2, seq := w 3, jobkey := w 4
    xtag := bitsOf (w 5) 0 16, dem := bitOf (w 5) 16, rsvd := bitsOf (w 5) 17 15, hcrc := w 6, pcrc := w 7
    payload := payload, port := port, space := bitsOf (w 1) 0 2, came := none, ctl := none }

/-- Header words 0 to 5. -/
def Pkt.words (p : Pkt) : List Nat :=
  [p.dst + p.src * 2 ^ 16,
   p.cls + p.kind * 4 + p.moor * 64 + bit p.cstart * 2 ^ 12 + bit p.cend * 2 ^ 13 + bit p.last * 2 ^ 14 +
     p.len * 2 ^ 15 + p.hops * 2 ^ 24,
   p.offset, p.seq, p.jobkey, p.xtag + bit p.dem * 2 ^ 16 + p.rsvd * 2 ^ 17]

/-- The HCRC a header should carry: HOPS taken as zero (R334). -/
def Pkt.headCrc (p : Pkt) : Nat := crc32c (({ p with hops := 0 } : Pkt).words.flatMap (toBytes 4))

/-- The header checks of R336, and the length check of R457. -/
def Pkt.headerOk (p : Pkt) : Bool :=
  p.hcrc == p.headCrc && p.cls != 3 && p.len ≤ 256 && p.payload.length == p.len &&
    (p.kind == 0 || p.cls == 0) &&
    (!p.dem || (p.cls == 1 && p.kind == 0 && p.len ≤ 64)) &&
    (p.cls != 0 || p.len ≤ 64) &&
    (p.kind != 0 || p.offset % 256 + p.len ≤ 256) &&
    (p.kind == 0 || p.offset == 0) && (p.kind == 0 || p.kind == 2 || p.kind == 3 || (p.seq == 0 && p.xtag == 0)) &&
    p.rsvd == 0

/-- Credits that a packet costs, in units of 32 bytes (R458). -/
def Pkt.cost (p : Pkt) : Nat := 1 + ceilDiv p.len 32

/-- A packet that this chip makes. -/
def State.newPkt (s : State) (dst cls kind moor seq xtag : Nat) (payload : List Byte) : Pkt :=
  let p : Pkt :=
    { dst := dst, src := s.ring.chipId, cls := cls, kind := kind, moor := moor, cstart := false, cend := false
      last := false, len := payload.length, hops := 0, offset := 0, seq := seq, jobkey := s.ring.jobKey
      xtag := xtag, dem := false, rsvd := 0, hcrc := 0, pcrc := crc32c payload, payload := payload, port := none
      space := 0, came := none, ctl := none }
  { p with hcrc := p.headCrc }

/-! ### Ports and routes -/

def State.rport (s : State) (n : Nat) : RPort := s.ring.ports.getD n .fresh

def State.setPort (s : State) (n : Nat) (f : RPort → RPort) : State :=
  { s with ring := { s.ring with ports := modifyAt s.ring.ports n f } }

/-- The packet layer runs (R362): not before READY (R424), and not while the units are off (R430). -/
def State.packetsOn (s : State) : Bool := s.rst.ready && s.ring.en && !s.unitsOff

/-- A port takes part (R331, R362, R424, R458, R459). DEDUCED: notes/assumptions/38.md. -/
def State.portLive (s : State) (n : Nat) : Bool :=
  let p := s.rport n
  s.packetsOn && s.ring.porten.testBit n && p.linkUp && p.started && !p.fenced && !p.abort && !p.ack

/-- Records a dropped packet (R366). -/
def State.ringDrop (s : State) (reason : Nat) (p : Pkt) : State :=
  if s.ring.errValid then bump 0x0264 s
  else { s with ring := { s.ring with
    errReason := reason, errPort := p.port.getD 0, errLocal := p.port.isNone, errSrc := p.src, errValid := true } }

/-- The port of the first valid entry that covers a destination (R332). -/
def Ring.route (r : Ring) (dst : Nat) : Option Nat :=
  let e := (upTo 32).find? (fun n =>
    let w := (r.rt.getD n 0#32).toNat
    bitOf (r.rtport.getD (n / 8) 0#32).toNat (4 * (n % 8) + 3) && bitsOf w 0 16 ≤ dst && dst ≤ bitsOf w 16 16)
  match e with
  | none => none
  | some n =>
    let p := bitsOf (r.rtport.getD (n / 8) 0#32).toNat (4 * (n % 8)) 3
    if r.porten.testBit p then some p else none

/-- Sends a packet of this chip on its way (R332): to itself by the loopback path, or to its port. DEDUCED:
notes/assumptions/37.md. -/
def State.originate (s : State) (p : Pkt) : State :=
  if p.dst = s.ring.chipId then { s with ring := { s.ring with loopQ := s.ring.loopQ ++ [p] } }
  else
    match s.ring.route p.dst with
    | none => s.ringDrop 1 p
    | some n => s.setPort n (fun q => { q with loc := q.loc ++ [p] })

/-- An arriving packet takes its place in the arrival buffer of its class (R339). -/
def State.takeSpace (s : State) (p : Pkt) : State :=
  match p.port with
  | none => s
  | some n => s.setPort n (fun q => { q with used := modifyAt q.used p.space (· + p.cost) })

/-- Credits returned to a port's link controller: a transfer of RCRCNT returns 1 to 15 (R456). -/
def creditReturns (n cls units : Nat) : List PortOut :=
  (List.replicate (units / 15) 15 ++ (if units % 15 = 0 then [] else [units % 15])).map (PortOut.ringCredit n cls)

/-- Space of a packet's arrival buffer frees, and its link credits go back (R339, R458). DEDUCED:
notes/assumptions/38.md. -/
def State.freeSpace (s : State) (p : Pkt) : State :=
  match p.port with
  | none => s
  | some n =>
    let s := s.setPort n (fun q => { q with used := modifyAt q.used p.space (fun u => u - p.cost) })
    if (s.rport n).started then { s with out := s.out ++ creditReturns n p.space p.cost } else s

/-- Units of the arrival buffer of a class (R339). -/
def bufferUnits (cls : Nat) : Nat := if cls = 0 then 128 else 1024

/-! ### Credits of moorings -/

def State.mooring (s : State) (n : Nat) : Moor := sget Moor.shut s.ring.moors n

def Moor.isOpen (m : Moor) : Bool := m.size != 0 && m.cdepth != 0

/-- Number of a mooring's present settings (R346). -/
def State.moorGen (s : State) (n : Nat) : Nat := sget 0 s.ring.moorGen n

/-- A mooring's settings as an arriving packet meets them, with their number: an order of the same control cycle lands
behind the packet (R385). -/
def State.mooringMet (s : State) (n : Nat) : Moor × Nat :=
  match s.ring.moorWas.find? (fun w => w.1 == s.clk.ckr / 8 && w.2.1 == n) with
  | some w => w.2.2
  | none => (s.mooring n, s.moorGen n)

/-- A mooring is closed and set anew (R346): credits it owes are not returned, and what it has accepted completes under
the settings that accepted it. -/
def State.setMooring (s : State) (n : Nat) (m : Moor) : State :=
  let now := s.clk.ckr / 8
  let was := s.ring.moorWas.filter (·.1 == now)
  { s with ring := { s.ring with
    moors := sset Moor.shut s.ring.moors n m
    moorGen := sset 0 s.ring.moorGen n (s.moorGen n + 1)
    moorWas := if was.any (·.2.1 == n) then was else (now, n, s.mooring n, s.moorGen n) :: was
    owed := s.ring.owed.filter (fun o => o.2.1 != n)
    filled := s.ring.filled.filter (fun x => x.1 / 16384 % 64 != n || x.1 / 16384 / 64 == s.moorGen n) } }

/-- A CREDIT message (R350). -/
def State.sendCredit (s : State) (dst moor units : Nat) (setIt : Bool) : State :=
  s.originate (s.newPkt dst 0 1 moor 0 0 (toBytes 2 units ++ [BitVec.ofNat 8 (bit setIt), 0#8]))

/-- Fresh credit of a mooring that opens (R350). -/
def State.grantFresh (s : State) (n : Nat) : State :=
  let m := s.mooring n
  let k := m.hi - m.lo + 1
  if m.isOpen then (fromTo m.lo k).foldl (fun s c => s.sendCredit c n (m.cdepth / k) true) s else s

/-- Takes a CREDIT into the outbound table (R350). -/
def State.takeCredit (s : State) (p : Pkt) : State :=
  let units := ofBytes (p.payload.take 2)
  let setIt := (p.payload.getD 2 0#8).toNat % 2 == 1
  let key (e : Nat × Nat × Nat) : Bool := e.1 == p.src && e.2.1 == p.moor
  if s.ring.ctab.any key then
    { s with ring := { s.ring with ctab := s.ring.ctab.map (fun e =>
        if key e then (e.1, e.2.1, if setIt then units else min 65535 (e.2.2 + units)) else e) } }
  else if s.ring.ctab.length < 256 then
    { s with ring := { s.ring with ctab := s.ring.ctab ++ [(p.src, p.moor, units)] } }
  else s.ringDrop 5 p

/-- Credit that the table holds for a destination's mooring. -/
def Ring.creditFor (r : Ring) (dst moor : Nat) : Nat :=
  match r.ctab.find? (fun e => e.1 == dst && e.2.1 == moor) with
  | some e => e.2.2
  | none => 0

def State.addCredit (s : State) (dst moor : Nat) (f : Nat → Nat) : State :=
  { s with ring := { s.ring with ctab := s.ring.ctab.map (fun e =>
      if e.1 == dst && e.2.1 == moor then (e.1, e.2.1, f e.2.2) else e) } }

/-! ### SENDs (R315, R345, R349, R353) -/

/-- Destination chip, mooring and offset of a SEND's DST words (R315): bits [31:0] offset, [47:32] chip,
[53:48] mooring. -/
def Xfer.sendDst (x : Xfer) : Nat × Nat × Nat := (bitsOf x.dst 32 16, bitsOf x.dst 48 6, bitsOf x.dst 0 32)

/-- XTAG of a channel's present transfer (R334). -/
def State.xtagOf (s : State) (c : Nat) : Nat := c / 64 + c % 64 * 2 + (sget 0 s.td.count c % 512) * 128

/-- Moves a SEND on when it waits for nothing in flight: it ends, spends a credit at a chunk's start, and reads
its next packet's bytes. -/
def sendPump (c : Nat) (s : State) : State :=
  let ch := s.chan c
  let x := ch.x
  let (dst, moor, off) := x.sendDst
  if !(ch.st == .busy && x.kind == 5 && ch.reads.isEmpty && ch.status == 0 && s.ring.en && !s.ring.hold) then s
  else
    let atStart := ch.spos = 0 || (off + ch.spos) % 4096 = 0
    if x.total ≤ ch.spos || (ch.nak && atStart) then
      if ch.chunks.isEmpty then tdFinish c (if ch.nak then 5 else 0) s else s
    else if atStart then
      if s.ring.creditFor dst moor = 0 then s
      else
        let s := s.addCredit dst moor (· - 1)
        let s := s.setChan c { ch with chunkFrom := ch.sseq, phase := 3, waited := 0 }
        sendReads c x 257 ch.spos (x.packetLen ch.spos) 0 s
    else sendReads c x 257 ch.spos (x.packetLen ch.spos) 0 s

/-- A SEND's packet has its bytes: it goes to its port, and the SEND moves on (R345). -/
def sendPacket (c : Nat) (s : State) : State :=
  let ch := s.chan c
  let x := ch.x
  if !(ch.st == .busy && x.kind == 5 && ch.status == 0 && !ch.reads.isEmpty &&
      ch.reads.all (fun r => r.data.isSome)) then s
  else
    let (dst, moor, off) := x.sendDst
    let bs := ch.gathered 4
    let o := off + ch.spos
    let fin := x.total ≤ ch.spos + bs.length
    let cend := fin || (o + bs.length) % 4096 = 0
    let p := s.newPkt dst (if x.cls = 1 then 1 else 2) 0 moor ch.sseq (s.xtagOf c) bs
    let p := { p with cstart := ch.spos = 0 || o % 4096 = 0, cend := cend, last := fin, offset := o % 2 ^ 32 }
    let p := { p with hcrc := p.headCrc }
    let chunks := if cend && ch.phase = 3 then ch.chunks ++ [(ch.chunkFrom, ch.sseq)] else ch.chunks
    let s := s.setChan c { ch with
      reads := [], spos := ch.spos + bs.length, sseq := ch.sseq + 1, chunks := chunks
      phase := if cend then 3 else ch.phase }
    sendPump c (s.originate p)

/-- Every SEND that can move on does. -/
def sendAll (s : State) : State :=
  (s.td.ch.map (·.1)).foldl (fun s c => sendPump c s) s

/-- The channel whose present SEND an XTAG names. -/
def State.sendOf (s : State) (xtag : Nat) : Option Nat :=
  let c := xtag % 2 * 64 + xtag / 2 % 64
  let ch := s.chan c
  if ch.st == .busy && ch.x.kind == 5 && s.xtagOf c == xtag then some c else none

/-- An ACK for a chunk's last packet (R353). -/
def takeAck (p : Pkt) (s : State) : State :=
  match s.sendOf p.xtag with
  | none => s.ringDrop 6 p
  | some c =>
    let ch := s.chan c
    tdAdvance c (sendPump c (s.setChan c { ch with waited := 0, chunks := ch.chunks.filter (fun k => k.2 != p.seq) }))

/-- A NAK (R348, R353): a SEND's, whose returned credit any SEND that waits for it may spend, or a token's, which the Keeper
reports. A token's has XTAG 0 and returns no credit.
DEDUCED: notes/assumptions/37.md. -/
def takeNak (p : Pkt) (s : State) : State :=
  let reason := (p.payload.getD 0 0#8).toNat
  let cret := (p.payload.getD 1 0#8).toNat % 2 == 1
  let token := p.xtag == 0 && !cret
  match if token then none else s.sendOf p.xtag with
  | some c =>
    let ch := s.chan c
    let (dst, moor, _) := ch.x.sendDst
    let s := if cret then s.addCredit dst moor (fun u => min 65535 (u + 1)) else s
    let inHand := ch.chunks.any (fun k => k.1 ≤ p.seq && p.seq ≤ k.2)
    let ch := { ch with waited := 0, nak := true, phase := if inHand then ch.phase else 4
                        chunks := ch.chunks.filter (fun k => !(k.1 ≤ p.seq && p.seq ≤ k.2)) }
    let s := s.setChan c ch
    tdAdvance c (if cret then sendAll s else sendPump c s)
  | none =>
    if token then s.pushOrDrop (s.record 0x0F (reason + p.src * 65536) 0 0 0) else s.ringDrop 6 p

end Sys2Proof.Machine
end

