-- ==== Sys2Proof/Machine/LogOps.lean ====
section
/-! DEFINITION. The Logbook's areas, mark record, closing and restore steps (spec/16_faults_and_logbook.md R398 to
R410). -/

namespace Sys2Proof.Machine

/-- Base IOVA of an area. -/
def Log.base (l : Log) (inB : Bool) : Nat := if inB then l.baseB else l.baseA

/-- IOVA of a granule's copy (R399). -/
def Log.granAddr (l : Log) (inB : Bool) (g : Nat) : Nat := l.base inB + 0x10000 + g * 0x10000

/-- Queues a Logbook write, split at 256-byte units. -/
def State.logWrite (s : State) (who : MemOwner) (a : Nat) (bs : List Byte) : State :=
  let reqs := (splitRun 256 (bs.length / 256 + 2) a bs.length 0).map (fun (sa, sl, so) =>
    (⟨who, sa, sl, some ((bs.drop so).take sl)⟩ : MemReq))
  { s with mem := { s.mem with logQ := s.mem.logQ ++ reqs } }

/-- Queues a restore read, split at 256-byte units; `who` is given the offset of each part. -/
def State.logRead (s : State) (who : Nat → MemOwner) (a len : Nat) : State :=
  let reqs := (splitRun 256 (len / 256 + 2) a len 0).map (fun (sa, sl, so) => (⟨who so, sa, sl, none⟩ : MemReq))
  { s with mem := { s.mem with logQ := s.mem.logQ ++ reqs } }

/-- Writes STATE of an area (R400). -/
def State.logStateWrite (s : State) (inB : Bool) (value : Nat) : State :=
  s.logWrite (.logState inB value) (s.log.base inB) (toBytes 4 value)

/-- A Logbook write of mirroring or a close is under way. -/
def State.logWriting (s : State) : Bool :=
  let isLog (w : MemOwner) : Bool := match w with
    | .log _ _ | .logState _ _ | .logStale => true
    | _ => false
  s.mem.logQ.any (fun r => isLog r.who) || s.mem.wr.any (fun t => isLog t.who)

/-- The dirty bitmap of an area. -/
def Log.dirty (l : Log) (inB : Bool) : Sparse Bool := if inB then l.dirtyB else l.dirtyA

def Log.setDirty (l : Log) (inB : Bool) (d : Sparse Bool) : Log :=
  if inB then { l with dirtyB := d } else { l with dirtyA := d }

/-! ### The mark record (R400) -/

/-- MO_INFO0 to MO_INFO3 of a mooring (R365). -/
def Moor.info (m : Moor) : List Nat :=
  [m.base, m.size, m.lo + m.hi * 2 ^ 16,
   m.cdepth + bit m.aben * 2 ^ 15 + m.arrbuoy * 2 ^ 16 + bit m.isOpen * 2 ^ 24]

/-- A buoy's 16 bytes. -/
def Buoy.record (b : Buoy) : List Byte :=
  toBytes 4 b.base ++ toBytes 4 (b.nlines + bit b.reload * 2 ^ 17 + b.st.code * 2 ^ 18) ++
    toBytes 4 (b.expect + b.consume * 2 ^ 16) ++ toBytes 4 (b.p + b.c * 2 ^ 16)

/-- Flags of a logical cluster, 0 when it is not backed. -/
def State.clFlags (s : State) (cl : Nat) : FlagSet :=
  match s.pcOf cl with
  | some pc => (s.lane pc).flags
  | none => flagNone

/-- The ordinal mask of the Lit sectors. -/
def State.litMask (s : State) : Nat :=
  (upTo 64).foldl (fun m k => if (s.secCtl k).st == .lit then m + 2 ^ k else m) 0

/-- Bytes 0x0004 to 0x1FFF of the record of mark `k` at `S`, with `ngran` granules (R400). -/
def State.markBody (s : State) (k seq ngran : Nat) : List Byte :=
  let body :=
    toBytes 4 k ++ toBytes 8 seq ++ toBytes 4 s.ring.jobKey ++ toBytes 2 s.ring.chipId ++ toBytes 2 0 ++
      toBytes 8 s.litMask ++ toBytes 4 s.kp.xretired ++ toBytes 4 s.kp.cdone ++ toBytes 4 s.clk.ticks ++
      toBytes 4 ngran ++ toBytes 16 0 ++ (upTo 32).flatMap (fun n => toBytes 8 (s.scal n)) ++
      (upTo 32).map (fun c => BitVec.ofNat 8 (s.clFlags c).toNat) ++
      (upTo 4).map (fun n => BitVec.ofNat 8 (s.ln.getD n .fresh).flags.toNat) ++ toBytes 28 0 ++
      (upTo 256).flatMap (fun b => (s.buoy b).record) ++
      (upTo 64).flatMap (fun m => (s.mooring m).info.flatMap (toBytes 4) ++ toBytes 16 0) ++ toBytes 1660 0
  body ++ toBytes 4 (crc32c body)

/-! ### Closing (R404, R406) -/

/-- Every work descriptor below `seq` has completed (R404). -/
def State.belowDone (s : State) (seq : Nat) : Bool :=
  seq ≤ s.kp.nextseq && (match s.str.launch with
    | some l => seq ≤ l.seq
    | none => true)

/-- A close is between quiesce and completion (R418): it starts when the work descriptors below its number are complete
(R404). -/
def State.logClosing (s : State) : Bool :=
  match s.log.close with
  | some c => c.phase != 0 || s.belowDone c.seq
  | none => false

/-- Mirroring pauses between a close's completion and its CLOSED or MABORT, while its area is the open one (R401). -/
def Log.paused (l : Log) : Bool := l.sealedIn == some l.openB

/-- A close waits for quiescence, so Transfer and Control descriptors are not dispatched (R404); with EN = 0 a close
waits for none (R403). -/
def State.quiescing (s : State) : Bool :=
  match s.log.close with
  | some c => s.log.en && c.phase == 0 && s.belowDone c.seq
  | none => false

/-- No Tender channel is in use and no Lantern product is unfinished (R404). -/
def State.asyncQuiet (s : State) : Bool :=
  s.td.ch.all (fun c => c.2.st == .idle) &&
    s.ln.all (fun l => l.prods.isEmpty && l.q.all (fun c => c.start.isNone))

/-- CLOSE_CAPTURE (R404): the record fields and the open area's bitmap are taken at once; a granule whose mirroring read
has begun is pending until that read ends, and is read once more if it was written again since. -/
def execCloseCapture (s : State) : Host.Outcome State Fault Refusal :=
  match s.log.close with
  | some c =>
    if s.log.en && c.phase == 0 && s.belowDone c.seq && s.asyncQuiet && !s.log.err then
      let x := s.log.openB
      let old := s.log.dirty x
      let d := s.log.reading.foldl (fun d r => sset false d r.1 true) old
      .next { s with log := { (s.log.setDirty x []) with
        pend := d
        torn := old.filter (fun r => sget 0 s.log.reading r.1 != 0)
        close := some { c with phase := 1, inB := x, ngran := d.length, body := s.markBody c.k c.seq d.length } } }
    else .next s
  | none => .next s

/-- Moves a close on when a part of it is finished (R404). -/
def logPump (s : State) : State :=
  match s.log.close with
  | some c =>
    if s.logWriting || s.log.err || s.flt.fatal then s
    else if c.phase = 1 && s.log.areaOpen && s.log.pend.isEmpty && s.log.reading.isEmpty && s.log.staged.isEmpty then
      { s with log := { s.log with close := some { c with phase := 2 } } }.logWrite (.log 0xFFFF 0)
        (s.log.base c.inB + 4) c.body
    else if c.phase = 2 then
      { s with log := { s.log with close := some { c with phase := 3 } } }.logStateWrite c.inB 2
    else s
  | none => s

/-- Starts to read a granule: its 64 lines as LOG traffic, or ahead of a waiting write (R401, R405). What a closing mark
needs of a Closing sector counts as accepted and has copy-on-write rank (R62). -/
def State.readGranule (s : State) (agent : Agent) (g : Nat) : State :=
  let taken := (s.secCtl (g / 128)).st == .closing && s.cowPending g
  let s := { s with log := { s.log with reading := sset 0 s.log.reading g 64 } }
  let s := (upTo 64).foldl (fun s i =>
    s.askOsura (if taken then .cow else agent) (.log g i) (g * 0x10000 + i * 1024) 1024 none) s
  if taken then
    { s with osura := { s.osura with q := s.osura.q.map (fun r =>
      match r.who with
      | .log g' _ => if g' = g then { r with accepted := true } else r
      | _ => r) } }
  else s

/-- Granules in the staging buffer (R405): being read, waiting for their area, or being written out. -/
def State.stagedGranules (s : State) : List Nat :=
  let of (w : MemOwner) : Option Nat := match w with
    | .log g _ => if g < 8192 then some g else none
    | _ => none
  dedup (s.log.staged.map (·.1) ++ s.log.reading.map (·.1) ++ s.mem.logQ.filterMap (fun r => of r.who) ++
    s.mem.wr.filterMap (fun t => of t.who)) []

/-- The 32-granule staging buffer has a slot for a granule (R405). -/
def State.hasSlot (s : State) (g : Nat) : Bool :=
  let staged := s.stagedGranules
  staged.length < 32 || staged.contains g

/-- Forces the copy-on-write read of a pending granule (R405): the staging buffer must have room. -/
def State.forceCow (s : State) (g : Nat) : State :=
  if !s.cowPending g || !s.hasSlot g then s
  else if sget 0 s.log.reading g != 0 then
    { s with osura := { s.osura with q := s.osura.q.map (fun r =>
        match r.who with
        | .log g' _ => if g' = g then { r with agent := .cow } else r
        | _ => r) } }
  else s.readGranule .cow g

/-- The area that granules are written to. -/
def Log.target (l : Log) : Bool :=
  match l.close with
  | some c => if c.phase = 0 then l.openB else c.inB
  | none => l.openB

/-- Writes a granule's line to its area. -/
def State.lineWrite (s : State) (g line : Nat) (bs : List Byte) : State :=
  s.logWrite (.log g line) (s.log.granAddr s.log.target g + line * 1024) bs

/-- A line of a granule has been read: it goes to the area, once that is open (R401); with its last line the granule's
pending bit clears (R405). A read that the capture found torn is made once more (R404). -/
def logLineRead (g line : Nat) (bs : List Byte) (s : State) : State :=
  let left := sget 0 s.log.reading g - 1
  let torn := sget false s.log.torn g
  let log := { s.log with
    reading := sset 0 s.log.reading g left
    pend := if left = 0 && !torn then sset false s.log.pend g false else s.log.pend
    torn := if left = 0 then sset false s.log.torn g false else s.log.torn }
  if torn then { s with log := log }
  else if s.log.areaOpen then { s with log := log }.lineWrite g line bs
  else { s with log := { log with staged := s.log.staged ++ [(g, line, bs)] } }

/-- A STATE write of an area is still to be answered. -/
def State.stateWriting (s : State) (inB : Bool) : Bool :=
  let here (w : MemOwner) : Bool := match w with
    | .logState b _ => b == inB
    | _ => false
  s.mem.logQ.any (fun r => here r.who) || s.mem.wr.any (fun t => here t.who)

/-- STATE = OPEN has been written to an area: if that is the area in use and nothing has been written over it since, the
lines that waited for it follow (R401). -/
def areaOpened (inB : Bool) (s : State) : State :=
  if inB != s.log.target || s.stateWriting inB || s.log.paused then s
  else s.log.staged.foldl (fun s x => s.lineWrite x.1 x.2.1 x.2.2)
    { s with log := { s.log with
      areaOpen := true, staged := []
      aborted := if s.log.aborted = some s.log.target then none else s.log.aborted } }

/-- LOG_MIRROR_GRANULE (R401, R404): the next granule of the drain, or of mirroring; STATE = OPEN is written
and answered before an area's first granule. -/
def execLogMirrorGranule (s : State) : Host.Outcome State Fault Refusal :=
  let l := s.log
  let phase := (l.close.map LogClose.phase).getD 0
  let closing := phase == 1
  if !l.en || l.err || l.rbusy || l.paused || !s.rst.ready || s.rst.pstate != 0 || s.flt.fatal || 2 ≤ phase then .next s
  else if !l.areaOpen then
    if s.logWriting then .next s
    else if closing || !l.staged.isEmpty || !(l.dirty l.openB).isEmpty then .next (s.logStateWrite l.target 1)
    else .next s
  else if !l.reading.isEmpty then .next s
  else if closing then
    match l.pend with
    | (g, _) :: _ => .next (if s.hasSlot g then s.readGranule .log g else s)
    | [] => .next (logPump s)
  else
    let d := l.dirty l.openB
    match (d.find? (fun x => l.next ≤ x.1)).orElse (fun _ => d.head?) with
    | none => .next s
    | some (g, _) =>
      if s.hasSlot g then
        let s := { s with log := { (l.setDirty l.openB (sset false d g false)) with next := (g + 1) % 8192 } }
        .next (s.readGranule .log g)
      else .next s

/-- CLOSED(k) for a close of this chip (R406): the other area becomes open, if a restore of the mark has not already made
it so. DEDUCED: notes/assumptions/28.md. -/
def logClosed (s : State) : State :=
  match s.log.sealedIn with
  | some x =>
    let s := s.logStateWrite x 3
    { s with log := { s.log with
      openB := !x, areaOpen := s.log.areaOpen && s.log.openB != x, sealedIn := none, aborted := none, restorable := true } }
  | none => s

/-- MABORT(k) for a close of this chip (R406): it is discarded, and what it had not copied is dirty again. Its area stays
open, but while no area holds a closed ring mark the open area is one that holds no ABORTED close (R401). DEDUCED:
notes/assumptions/28.md. -/
def logAborted (s : State) : State :=
  let x := s.log.target
  let both := s.log.aborted == some (!x)
  let was := s.log.paused || 1 ≤ (s.log.close.map LogClose.phase).getD 0
  let back := s.log.pend.map (·.1) ++ s.log.reading.map (·.1) ++ s.log.staged.map (·.1)
  let d := back.foldl (fun d g => sset false d g true) (s.log.dirty x)
  let s := { s with
    log := { (s.log.setDirty x d) with
      close := none, pend := [], reading := [], torn := [], staged := [], sealedIn := none
      openB := if was && !s.log.restorable && !both then !x else x
      areaOpen := if was then false else s.log.areaOpen
      aborted := if was && !both then some x else s.log.aborted }
    osura := { s.osura with q := s.osura.q.filter (fun r => match r.who with
      | .log _ _ => false
      | _ => true) } }
  if was && s.log.en then s.logStateWrite x 4 else s

/-- A Logbook write has been answered. -/
def logWritten (who : MemOwner) (s : State) : State :=
  match who with
  | .logState inB 1 => areaOpened inB s
  | .logState _ 2 =>
    match s.log.close with
    | some c => if c.phase = 3 then { s with log := { s.log with close := some { c with phase := 4 } } } else s
    | none => s
  | _ => logPump s

/-- LOG_ENABLE's effect (R403). -/
def logEnable (s : State) : State :=
  let d := (upTo 64).foldl (fun (d : Sparse Bool) k =>
    if (s.secCtl k).st == .lit then (fromTo (k * 128) 128).foldl (fun d g => sset false d g true) d else d) []
  { s with log := { s.log with
    en := true, dirtyA := d, dirtyB := d, bitmapV := true, haveMark := false, areaOpen := false
    openB := if s.log.restored then s.log.openB else false, aborted := none, restorable := false } }

/-- LOG_DISABLE's effect (R403): mirroring stops, and a close under way completes at once. DEDUCED:
notes/assumptions/28.md. -/
def logDisable (s : State) : State :=
  { s with log := { s.log with en := false, haveMark := false, sealedIn := none, restorable := false } }

/-- The owner of an area write once the Logbook is off. -/
def MemOwner.stale (w : MemOwner) : MemOwner :=
  match w with
  | .log _ _ | .logState _ _ => .logStale
  | w => w

/-- Mirroring reads are dropped, and area writes that no port has taken; the writes under way mean nothing any more
(R403). -/
def logQuiet (s : State) : State :=
  { s with
    log := { s.log with pend := [], reading := [], torn := [], staged := [] }
    mem := { s.mem with
      logQ := s.mem.logQ.filter (fun r => r.who.restore), wr := s.mem.wr.map (fun t => { t with who := t.who.stale }) }
    osura := { s.osura with q := s.osura.q.filter (fun (r : AsyncReq) => match r.who with
      | .log _ _ => false
      | _ => true) } }

/-! ### Restore (R409, R410) -/

/-- Field of a mark record by offset in the block. -/
def recField (r : List Byte) (off n : Nat) : Nat := ofBytes ((r.drop off).take n)

/-- A record that a restore of mark `k` may use: STATE, K and RCRC (R409). -/
def recGood (k : Nat) (r : List Byte) : Bool :=
  (recField r 0 4 == 2 || recField r 0 4 == 3) && recField r 4 4 == k &&
    recField r 0x1FFC 4 == crc32c ((r.drop 4).take 0x1FF8)

/-- LOG_CMD (R409): the BUSY check, then the records are read. -/
def restoreStart (full : Bool) (s : State) : State :=
  let s := { s with log := { s.log with rerr := 0 } }
  if s.wrun || !s.asyncQuiet || s.ln.any (fun l => !l.q.isEmpty) || s.flt.swap || s.log.rbusy then
    { s with log := { s.log with rerr := 1 } }
  else
    let z := List.replicate 0x2000 0#8
    let s := { s with log := { s.log with rbusy := true, restore := some ⟨full, false, 0, z, z, []⟩ } }
    (s.logRead (.restoreRec false) s.log.baseA 0x2000).logRead (.restoreRec true) s.log.baseB 0x2000

/-- A restore's requests are still under way. -/
def State.restoreWaits (s : State) : Bool :=
  let isR (w : MemOwner) : Bool := match w with
    | .restoreRec _ _ | .restoreGran _ _ => true
    | _ => false
  s.mem.logQ.any (fun r => isR r.who) || s.mem.rd.any (fun t => isR t.who) ||
    s.osura.q.any (fun r => match r.who with
      | .restore _ _ => true
      | _ => false)

/-- Starts the next granule of a restore (R410 step 2). -/
def restoreNext (s : State) : State :=
  match s.log.restore with
  | some r =>
    if r.phase != 1 || s.restoreWaits then s
    else
      match r.todo with
      | [] => { s with log := { s.log with restore := some { r with phase := 2 } } }
      | g :: gs =>
        let s := { s with log := { s.log with restore := some { r with todo := gs } } }
        if (recField (if r.inB then r.recB else r.recA) 0x18 8).testBit (g / 128) then
          s.logRead (.restoreGran g) (s.log.granAddr r.inB g) 0x10000
        else
          (upTo 64).foldl (fun s i =>
            let a := g * 0x10000 + i * 1024
            s.askOsura .log (.restore g i) a 1024 (some (cellsAt a (List.replicate 1024 0#8)))) s
  | none => s

/-- Both records are in: the checks of R409 after BUSY, then the granules to restore (R410 step 1). -/
def restoreCheck (s : State) : State :=
  match s.log.restore with
  | some r =>
    if r.phase != 0 || s.restoreWaits then s
    else
      let okA := recGood s.log.restoreK r.recA
      let okB := recGood s.log.restoreK r.recB
      let x := !okA
      let rec' := if x then r.recB else r.recA
      if !okA && !okB then restoreFail 2 s
      else if recField rec' 0x10 4 != s.ring.jobKey || recField rec' 0x14 2 != s.ring.chipId then restoreFail 3 s
      else
        let lit := recField rec' 0x18 8
        if (upTo 64).any (fun k => lit.testBit k && (s.secCtl k).st != .lit) then restoreFail 4 s
        else if !r.full && !s.log.bitmapV then restoreFail 5 s
        else
          let todo := if r.full then
              (upTo 64).flatMap (fun k => if (s.secCtl k).st == .lit then fromTo (k * 128) 128 else [])
            else (s.log.dirty x).map (·.1)
          restoreNext { s with log := { s.log with
            restore := some { r with inB := x, phase := 1, todo := todo } } }
  | none => s

/-- A restore's read has been answered. -/
def restoreRead (who : MemOwner) (bs : List Byte) (s : State) : State :=
  match s.log.restore, who with
  | some r, .restoreRec inB off =>
    let put (l : List Byte) : List Byte := l.take off ++ bs ++ l.drop (off + bs.length)
    let r := if inB then { r with recB := put r.recB } else { r with recA := put r.recA }
    restoreCheck { s with log := { s.log with restore := some r } }
  | some _, .restoreGran g off =>
    let a := g * 0x10000 + off
    s.askOsura .log (.restore g (off / 1024)) a bs.length (some (cellsAt a bs))
  | _, _ => s

/-- A buoy from its 16 recorded bytes. -/
def Buoy.ofRecord (r : List Byte) : Buoy :=
  let w1 := recField r 4 4
  let st := match bitsOf w1 18 2 with
    | 0 => BuoyState.free
    | 1 => .filling
    | 2 => .ready
    | _ => .draining
  if st = .free then Buoy.idle
  else ⟨recField r 0 4, bitsOf w1 0 17, recField r 8 2, recField r 10 2, bitOf w1 17, recField r 12 2, recField r 14 2, st⟩

/-- A mooring from its recorded words. -/
def Moor.ofRecord (r : List Byte) : Moor :=
  let w3 := recField r 12 4
  if bitOf w3 24 then
    ⟨recField r 0 4, bitsOf (recField r 4 4) 0 27, recField r 8 2, recField r 10 2, bitsOf w3 0 15, bitOf w3 15,
      bitsOf w3 16 8⟩
  else Moor.shut

/-- Scalars, flags and buoys come back from a record (R410 steps 3 to 5). -/
def restoreRegs (b : List Byte) (s : State) : State :=
  let s := (upTo 32).foldl (fun s n => s.setScal n (recField b (0x40 + 8 * n) 8)) s
  let s := (upTo 32).foldl (fun s c =>
    match s.pcOf c with
    | some pc => s.modLane pc (fun l => { l with flags := BitVec.ofNat 5 (recField b (0x140 + c) 1) })
    | none => s) s
  let lns : List Lantern := s.ln.zipIdx.map (fun x =>
    { x.1 with flags := BitVec.ofNat 5 (recField b (0x160 + x.2) 1) })
  (upTo 256).foldl (fun s n => s.setBuoy n (Buoy.ofRecord ((b.drop (0x180 + 16 * n)).take 16))) { s with ln := lns }

/-- Moorings come back, and their credits are granted afresh. -/
def restoreMoors (b : List Byte) (s : State) : State :=
  (upTo 64).foldl (fun s n => (s.setMooring n (Moor.ofRecord ((b.drop (0x1180 + 32 * n)).take 32))).grantFresh n) s

/-- The counts of the mark come back, and the Logbook is ready for what follows (R410 steps 6 to 8). -/
def restoreLog (r : LogRestore) (b : List Byte) (s : State) : State :=
  let s := { s with
    kp := { s.kp with nextseq := recField b 8 8, xretired := recField b 0x20 4, cdone := recField b 0x24 4 }
    ring := { s.ring with markLast := recField b 4 4, markLastS := recField b 8 8 } }
  let done := if r.full then
      (upTo 64).flatMap (fun k => if (s.secCtl k).st == .lit then fromTo (k * 128) 128 else [])
    else (s.log.dirty r.inB).map (·.1)
  let log := if s.log.en then
      let other := done.foldl (fun d g => sset false d g true) (s.log.dirty (!r.inB))
      (s.log.setDirty r.inB []).setDirty (!r.inB) other
    else s.log
  { s with log := { log with
    openB := !r.inB, areaOpen := false, rbusy := false, rdone := true, restored := true, haveMark := false
    restore := none, aborted := none, restorable := true } }

/-- RESTORE_COMPLETE (R410 steps 3 to 8). -/
def execRestoreComplete (s : State) : Host.Outcome State Fault Refusal :=
  match s.log.restore with
  | some r =>
    if r.phase != 2 || s.flt.fatal then .next s
    else
      let b := if r.inB then r.recB else r.recA
      .next (restoreLog r b (restoreMoors b (restoreRegs b s)))
  | none => .next s

end Sys2Proof.Machine
end

