-- ==== Sys2Proof/Machine/Packets.lean ====
section
/-! DEFINITION. Packets that arrive and leave (spec/14_ring_and_moorings.md R332 to R354, spec/18_ports_and_signals.md
R456 to R459). -/

namespace Sys2Proof.Machine

/-- A fault of a ring port (R441): kind RING. -/
def State.ringFault (s : State) (n reason : Nat) : State := s.detect (s.err 0x08 reason n 0xFF 0)

/-- Room for the record that a packet for this chip leads to (R384). -/
def State.pktRoom (s : State) (p : Pkt) : Bool :=
  if p.dst != s.ring.chipId then true
  else if p.kind = 5 || p.kind = 6 then s.evRoom
  else if p.kind = 8 || p.kind = 9 then s.evKept
  else true

/-- A packet at the front of its class can be taken (R339, R384). -/
def State.canTake (s : State) (p : Pkt) : Bool := !s.arrivalBlocked p.port p.cls && s.pktRoom p

/-- A HOLD or RELEASE for this chip: its record never waits behind ordinary ones (R384). -/
def State.holdKind (s : State) (p : Pkt) : Bool := p.dst == s.ring.chipId && (p.kind == 8 || p.kind == 9)

/-- A packet waits its turn behind another: they are of one class, and a HOLD or RELEASE passes what waits for room for an
ordinary record (R339, R384). -/
def State.before (s : State) (q p : Pkt) : Bool := q.cls == p.cls && (!s.holdKind p || s.holdKind q)

/-- The packet's turn among those that wait has come: it is the first, and can be taken. -/
def State.turnOf (s : State) (ps : List Pkt) (p : Pkt) : Bool := ps.find? (fun q => s.before q p) == some p && s.canTake p

/-- Earlier packets wait in the arrival buffer. -/
def State.behindHeld (s : State) (p : Pkt) : Bool :=
  match p.port with
  | some n => (s.rport n).held.any (fun q => s.before q p)
  | none => false

/-- A packet for this chip, with its space taken: the job key and the payload are checked, then `act` follows (R338). -/
def deliverPkt (act : Pkt → State → State) (p : Pkt) (s : State) : State :=
  if p.jobkey != s.ring.jobKey then (s.ringDrop 3 p).freeSpace p
  else if p.kind = 0 then act p s
  else if p.pcrc != crc32c p.payload then s.ringFault (p.port.getD 0) 4
  else (act p s).freeSpace p

/-- A packet arrives at a port: it is taken, or waits in its arrival buffer behind what its class waits for (R339). -/
def takeOrHold (act : Pkt → State → State) (p : Pkt) (s : State) : State :=
  let s := s.takeSpace p
  if s.canTake p && !s.behindHeld p then act p s
  else
    match p.port with
    | some n => s.setPort n (fun r => { r with held := r.held ++ [{ p with came := some s.clk.cyc }] })
    | none => s

/-- The packet of the loopback path that a command stands for (R332): the first of its class; a hold bars classes 1 and 2
(R359). DEDUCED: notes/assumptions/37.md. -/
def State.loopNext (s : State) (kinds : List Nat) : Option Pkt :=
  s.ring.loopQ.find? (fun p => kinds.contains p.kind && s.turnOf s.ring.loopQ p && (p.cls == 0 || !s.ring.hold))

/-- A packet reaches this chip by a port, or by the loopback path (R332): header checks, credit, destination, job key
and payload check, then `act`. `kinds` are the kinds that the command stands for; a packet that is another command's
changes nothing. DEDUCED: notes/assumptions/37.md. -/
def arrive (port : Nat) (hdr : List Word) (payload : List Byte) (kinds : List Nat) (act : Pkt → State → State)
    (s : State) : Host.Outcome State Fault Refusal :=
  if !(hdr.length == 8 && payload.length < 512) then .refused .illFormed
  else if port = 8 then
    match if s.packetsOn then s.loopNext kinds else none with
    | none => .next s
    | some p => .next (deliverPkt act p { s with ring := { s.ring with loopQ := s.ring.loopQ.erase p } })
  else
    let p := Pkt.ofHdr hdr payload (some port)
    if !s.portLive port then .next s
    else if !p.headerOk || bufferUnits p.cls < (s.rport port).used.getD p.cls 0 + p.cost then .next (s.ringFault port 4)
    else if p.dst != s.ring.chipId || !kinds.contains p.kind then .next s
    else .next (takeOrHold (deliverPkt act) p s)

/-! ### DATA (R347, R348) -/

/-- A packet belongs to a chunk: the part of its sender's transfer that falls in one unit (R345). -/
def RxChunk.holds (c : RxChunk) (p : Pkt) : Bool :=
  c.src == p.src && c.xtag == p.xtag && c.mo == p.moor && c.unit == p.offset / 4096

/-- The chunk record of a packet. -/
def State.chunkOf (s : State) (p : Pkt) : Option RxChunk := s.ring.chunks.find? (fun c => c.holds p)

def State.dropChunk (s : State) (p : Pkt) : State :=
  { s with ring := { s.ring with chunks := s.ring.chunks.filter (fun c => !c.holds p) } }

def State.setChunk (s : State) (p : Pkt) (c : RxChunk) : State :=
  { s with ring := { s.ring with chunks := c :: (s.dropChunk p).ring.chunks } }

/-- A credited packet: class 1 or 2, and no demoted token (R349). -/
def Pkt.credited (p : Pkt) : Bool := p.cls != 0 && !p.dem

/-- A NAK (R348). -/
def State.sendNak (s : State) (p : Pkt) (reason : Nat) (cret : Bool) : State :=
  s.originate (s.newPkt p.src 0 3 0 p.seq p.xtag [BitVec.ofNat 8 reason, BitVec.ofNat 8 (bit cret), 0#8, 0#8])

/-- Notes a packet in its chunk's record, whether it is accepted or refused. -/
def State.noteChunk (s : State) (p : Pkt) : State :=
  if !p.credited then s
  else
    match s.chunkOf p with
    | some c => s.setChunk p { c with cend := if p.cend then some p.seq else c.cend }
    | none => s.setChunk p ⟨p.src, p.xtag, p.moor, p.offset / 4096, if p.cend then some p.seq else none, false,
        (s.mooringMet p.moor).2⟩

/-- Returns a chunk's credit now, or holds it for its arrival buoy (R351); none to a mooring that has been set anew
(R346). -/
def State.returnCredit (s : State) (c : RxChunk) : State :=
  let m := s.mooring c.mo
  let l0 := (m.base + c.unit * 4096) / 1024
  if c.gen != s.moorGen c.mo || !m.isOpen then s
  else if m.aben && (s.covering l0 (l0 + 4)).contains m.arrbuoy then
    { s with ring := { s.ring with owed := s.ring.owed ++ [(m.arrbuoy, c.mo, c.src, 1)] } }
  else s.sendCredit c.src c.mo 1 false

/-- A chunk is over once its CEND packet has come and no packet of it waits to be written: unless a packet of it was
refused, it is acknowledged, and its credit returned (R351, R353). -/
def State.chunkDone (s : State) (p : Pkt) : State :=
  match s.chunkOf p with
  | none => s
  | some c =>
    match c.cend with
    | none => s
    | some seq =>
      if s.ring.arrivals.any (fun a => a.pkt.credited && c.holds a.pkt) then s
      else if c.refused then s.dropChunk p
      else ((s.dropChunk p).originate (s.newPkt c.src 0 2 0 seq c.xtag [])).returnCredit c

/-- Refuses a DATA packet (R348): the chunk's first refusal returns its credit, but not one that a mooring set anew owes
(R346); later packets of the chunk are dropped without a word. -/
def State.refuseData (s : State) (p : Pkt) (reason : Nat) : State :=
  if !p.credited then s.sendNak p reason false
  else
    let s := s.noteChunk p
    match s.chunkOf p with
    | none => s
    | some c =>
      let s := if c.refused then s else s.sendNak p reason (c.gen == s.moorGen c.mo)
      (s.setChunk p { c with refused := true }).chunkDone p

/-- The checks of R347 but for the sector; 0 is a pass. -/
def State.dataCheck (s : State) (p : Pkt) : Nat :=
  let m := (s.mooringMet p.moor).1
  if !m.isOpen then 1
  else if !(m.lo ≤ p.src && p.src ≤ m.hi) then 2
  else if m.size < p.offset + p.len then 3
  else if p.pcrc != crc32c p.payload then 5
  else 0

/-- DATA at its destination (R347); its space has been taken. -/
def takeData (p : Pkt) (s : State) : State :=
  let refusedChunk := p.credited && ((s.chunkOf p).map (·.refused)).getD false
  let bad := s.dataCheck p
  let (m, gen) := s.mooringMet p.moor
  let a := m.base + p.offset
  let id := s.ring.nextArr
  let req : AsyncReq :=
    ⟨if p.cls = 0 then .beacon else if p.cls = 1 then .ring1 else .ring2, .mooring p.moor id, a, p.len,
      some (cellsAt a p.payload), if a % 32 == 0 && p.len % 32 == 0 then 1 else 2, s.clk.cyc, false, 0, false, 0, false⟩
  if refusedChunk || bad != 0 then (s.refuseData p (if bad = 0 then 1 else bad)).freeSpace p
  else if !s.buoyBlocked req && !s.secOpen (secOf a) then (s.refuseData p 4).freeSpace p
  else
    let s := s.noteChunk p
    { s with
      ring := { s.ring with
        nextArr := id + 1, arrivals := s.ring.arrivals ++ [⟨id, p.moor, p, 1, p.came.getD s.clk.cyc, m, gen⟩] }
      osura := { s.osura with q := s.osura.q ++ [req] } }

/-- A producer completion of a mooring's arrival buoy: a unit whose bytes are all written, or in which a
transfer ends (R75). -/
def State.unitWritten (s : State) (a : Arrival) : State :=
  let p := a.pkt
  let m := a.moor
  let key := (a.gen * 64 + p.moor) * 16384 + p.offset / 4096
  let bits := sget 0 s.ring.filled key ||| ((2 ^ p.len - 1) * 2 ^ (p.offset % 4096))
  let full := bits + 1 == 2 ^ 4096 || p.last
  let s := { s with ring := { s.ring with filled := sset 0 s.ring.filled key (if full then 0 else bits) } }
  if full && m.aben then s.complete m.arrbuoy 4 else s

/-- Adds units to those of the same mooring and source. -/
def mergeOwed (o : Nat × Nat × Nat × Nat) (os : List (Nat × Nat × Nat × Nat)) : List (Nat × Nat × Nat × Nat) :=
  if os.any (fun x => x.2.1 == o.2.1 && x.2.2.1 == o.2.2.1) then
    os.map (fun x => if x.2.1 == o.2.1 && x.2.2.1 == o.2.2.1 then (x.1, x.2.1, x.2.2.1, x.2.2.2 + o.2.2.2) else x)
  else os ++ [o]

/-- Credits held for a buoy's drain go back when it leaves Draining, one CREDIT for each source (R81, R351). -/
def State.returnOwed (s : State) (n : Nat) : State :=
  let (mine, rest) := s.ring.owed.partition (fun o => o.1 == n)
  (mine.foldl (fun os o => mergeOwed o os) []).foldl (fun s o => s.sendCredit o.2.2.1 o.2.1 o.2.2.2 false)
    { s with ring := { s.ring with owed := rest } }

/-- Takes an arrival out of the books and frees its space. -/
def State.endArrival (s : State) (a : Arrival) : State :=
  ({ s with ring := { s.ring with arrivals := s.ring.arrivals.filter (fun b => b.id != a.id) } }).freeSpace a.pkt

/-- A mooring write has been served by its bank. -/
def mooringWritten (held id : Nat) (s : State) : State :=
  match s.ring.arrivals.find? (fun a => a.id == id) with
  | none => s
  | some a =>
    let s := if a.pkt.cls = 0 && 64 < s.clk.cyc - a.at_ - held then bump 0x026C s else s
    let s := s.endArrival a
    let s := s.unitWritten a
    if a.pkt.credited then s.chunkDone a.pkt else s

/-- A mooring write reached a sector that refuses it (R61, R82, R348). -/
def mooringRefused (id : Nat) (s : State) : State :=
  match s.ring.arrivals.find? (fun a => a.id == id) with
  | none => s
  | some a => (s.endArrival a).refuseData a.pkt 4

/-- DATA (R347). -/
def execData (port : Fin 9) (hdr : List Word) (payload : List Byte) (s : State) : Host.Outcome State Fault Refusal :=
  arrive port hdr payload [0] takeData s

/-- CREDIT (R350): SENDs that waited for it move on. -/
def execCredit (port : Fin 9) (hdr : List Word) (payload : List Byte) (s : State) : Host.Outcome State Fault Refusal :=
  arrive port hdr payload [1] (fun p s => sendAll (s.takeCredit p)) s

/-- ACK (R353). -/
def execAck (port : Fin 9) (hdr : List Word) (payload : List Byte) (s : State) : Host.Outcome State Fault Refusal :=
  arrive port hdr payload [2] takeAck s

/-- NAK (R348). -/
def execNak (port : Fin 9) (hdr : List Word) (payload : List Byte) (s : State) : Host.Outcome State Fault Refusal :=
  arrive port hdr payload [3] takeNak s

/-- RESERVED_KIND_ARRIVAL (R336): dropped with reason KIND. -/
def execReservedKindArrival (port : Fin 9) (hdr : List Word) (payload : List Byte) (s : State) :
    Host.Outcome State Fault Refusal :=
  arrive port hdr payload [11, 12, 13, 14, 15] (fun p s => s.ringDrop 4 p) s

/-- A packet for another chip goes to its port; it keeps its space until it has left (R332, R333, R339). -/
def forward (p : Pkt) (s : State) : State :=
  if p.hops = 255 then (s.ringDrop 2 p).freeSpace p
  else
    match s.ring.route p.dst with
    | none => (s.ringDrop 1 p).freeSpace p
    | some n => s.setPort n (fun q => { q with fwd := q.fwd ++ [{ p with hops := p.hops + 1 }] })

/-- PACKET_FORWARD (R332, R333): header check, hop count and route only. -/
def execPacketForward (port : Fin 8) (hdr : List Word) (payload : List Byte) (s : State) :
    Host.Outcome State Fault Refusal :=
  if !(hdr.length == 8 && payload.length < 512) then .refused .illFormed
  else
    let p := Pkt.ofHdr hdr payload (some port.val)
    if !s.portLive port then .next s
    else if !p.headerOk || bufferUnits p.cls < (s.rport port).used.getD p.cls 0 + p.cost then .next (s.ringFault port 4)
    else if p.dst = s.ring.chipId then .next s
    else .next (takeOrHold forward p s)

/-! ### Sending (R340) -/

/-- The first packet of a class that would leave next: forwarded and local ones alternate. -/
def RPort.headOf (r : RPort) (cls : Nat) : Option (Bool × Pkt) :=
  match r.fwd.find? (fun p => p.cls == cls), r.loc.find? (fun p => p.cls == cls) with
  | some f, some l => if r.lastFwd.getD cls false then some (false, l) else some (true, f)
  | some f, none => some (true, f)
  | none, some l => some (false, l)
  | none, none => none

/-- Takes a packet out of its queue. -/
def RPort.without (r : RPort) (isFwd : Bool) (p : Pkt) : RPort :=
  if isFwd then { r with fwd := r.fwd.erase p } else { r with loc := r.loc.erase p }

/-- Demotes class 0 tokens at the head that find too few bytes in the bucket (R340); a forwarded one keeps its space in
the class 0 buffer (R339). -/
def demoteHeads : Nat → Nat → State → State
  | 0, _, s => s
  | fuel + 1, n, s =>
    match (s.rport n).headOf 0 with
    | some (isFwd, p) =>
      if p.kind = 0 && (s.rport n).bucket < 17 * ((32 + p.len : Nat) : Int) then
        let p' := { p with cls := 1, dem := true }
        let p' := { p' with hcrc := p'.headCrc }
        demoteHeads fuel n (bump 0x0268 (s.setPort n (fun r =>
          let r := r.without isFwd p
          if isFwd then { r with fwd := r.fwd ++ [p'] } else { r with loc := r.loc ++ [p'] })))
      else s
    | none => s

/-- Class of the next packet: class 0 first, then 1 and 2 by packet credits in the manner of R46, ties to class 1
(R340). The credits reload when no class with a packet waiting has any; a class is chosen when its head has the link
credits it needs, one of weight 0 only when no other is; a hold bars classes 1 and 2 (R359). -/
def State.sendClass (s : State) (n : Nat) : Option (Nat × List Nat) :=
  let r := s.rport n
  let waits (c : Nat) : Bool := (c = 0 || !s.ring.hold) && (r.headOf c).isSome
  let ready (c : Nat) : Bool := waits c && (match r.headOf c with
    | some (_, p) => p.cost ≤ r.out.getD c 0
    | none => false)
  let w := [s.ring.wFused, s.ring.wBulk]
  let fit := [1, 2].filter ready
  let paid := fit.filter (fun c => w.getD (c - 1) 0 != 0)
  let cr := if ([1, 2].filter waits).all (fun c => r.wcr.getD (c - 1) 0 == 0) then w else r.wcr
  if ready 0 then some (0, r.wcr)
  else
    match if paid.isEmpty then fit else paid with
    | [] => none
    | [c] => some (c, modifyAt cr (c - 1) (· - 1))
    | _ => if cr.getD 0 0 < cr.getD 1 0 then some (2, modifyAt cr 1 (· - 1)) else some (1, modifyAt cr 0 (· - 1))

/-- PACKET_SEND (R340, R458). -/
def execPacketSend (port : Fin 8) (s : State) : Host.Outcome State Fault Refusal :=
  if !s.portLive port then .next s
  else
    let s := demoteHeads ((s.rport port).fwd.length + (s.rport port).loc.length) port s
    match s.sendClass port with
    | none => .next s
    | some (cls, wcr) =>
      match (s.rport port).headOf cls with
      | none => .next s
      | some (isFwd, p) =>
        let s := s.setPort port (fun r =>
          { (r.without isFwd p) with
            out := modifyAt r.out cls (fun u => u - p.cost), lastFwd := r.lastFwd.set cls isFwd, wcr := wcr
            bucket := if cls = 0 then r.bucket - 17 * ((32 + p.len : Nat) : Int) else r.bucket })
        let s := { s with out := s.out ++ [PortOut.ringPkt port.val p] }
        let s := s.freeSpace p
        match p.ctl with
        | some num => .next (s.settle num false)
        | none => .next s

/-- RING_CREDIT_RETURN (R458): an outbound count above 65,535 is a violation; class 3 is none. -/
def execRingCreditReturn (port : Fin 8) (cls : BitVec 2) (count : BitVec 4) (s : State) :
    Host.Outcome State Fault Refusal :=
  let r := s.rport port
  if r.abort || r.fenced || !s.rst.ready then .next s
  else if cls = 3#2 || 65535 < r.out.getD cls.toNat 0 + count.toNat then .next (s.ringFault port 4)
  else .next (s.setPort port (fun r => { r with out := modifyAt r.out cls.toNat (· + count.toNat) }))

/-- Returns the full buffers of a port that may start (R458). DEDUCED: notes/assumptions/38.md. -/
def State.startPort (s : State) (n : Nat) : State :=
  let r := s.rport n
  if s.packetsOn && s.ring.porten.testBit n && r.linkUp && !r.fenced && !r.abort && !r.ack && !r.started then
    let s := s.setPort n (fun r => { r with started := true })
    { s with out := s.out ++ (upTo 3).flatMap (fun c => creditReturns n c (bufferUnits c - r.used.getD c 0)) }
  else s

/-- LINK_UP_RISE (R458). -/
def execLinkUpRise (port : Fin 8) (s : State) : Host.Outcome State Fault Refusal :=
  .next ((s.setPort port (fun r => { r with linkUp := true })).startPort port)

/-- LINK_DOWN (R459): on an enabled port a port fault. -/
def execLinkDown (port : Fin 8) (s : State) : Host.Outcome State Fault Refusal :=
  let was := (s.rport port).linkUp
  let s := s.setPort port (fun r => { r with linkUp := false, started := false })
  if was && s.ring.porten.testBit port && s.rst.ready then .next (s.ringFault port 4) else .next s

/-- INBOUND_FRAMING_VIOLATION (R457). -/
def execInboundFramingViolation (port : Fin 8) (s : State) : Host.Outcome State Fault Refusal :=
  if s.portLive port then .next (s.ringFault port 4) else .next s

/-- RING_ABORT_ACK (R459): partial packets, counts and arrival buffers are emptied and ABORT falls; an ACK
without an ABORT is a violation (R454). -/
def execRingAbortAck (port : Fin 8) (s : State) : Host.Outcome State Fault Refusal :=
  let r := s.rport port
  if !r.abort then
    if r.fenced || !s.rst.ready then .next s else .next ((s.setPort port (fun r => { r with ack := true })).ringFault port 4)
  else
    let mine (a : Arrival) : Bool := a.pkt.port == some port.val
    let gone := (s.ring.arrivals.filter mine).map (·.id)
    let s := { s with
      ring := { s.ring with arrivals := s.ring.arrivals.filter (fun a => !mine a) }
      osura := { s.osura with q := s.osura.q.filter (fun q => match q.who with
        | .mooring _ id => !gone.contains id
        | _ => true) } }
    let ports := s.ring.ports.map (fun (r : RPort) => { r with fwd := r.fwd.filter (fun p => p.port != some port.val) })
    .next ({ s with ring := { s.ring with ports := ports } }.setPort port (fun r =>
      { r with abort := false, ack := true, used := [0, 0, 0], held := [], out := [0, 0, 0], started := false }))

/-- RING_ABORT_TIMEOUT (R459, R454): the port stays fenced, a port fault with reason TIMEOUT. -/
def execRingAbortTimeout (port : Fin 8) (s : State) : Host.Outcome State Fault Refusal :=
  if (s.rport port).abort && (s.rport port).abortAt + 65536 ≤ s.clk.cyc then
    .next ((s.setPort port (fun r => { r with abort := false, fenced := true })).ringFault port 5)
  else .next s

/-- SEND_WATCHDOG (R354): the SEND ends with status STALL. DEDUCED: notes/assumptions/4.md. -/
def execSendWatchdog (ch : Fin 128) (s : State) : Host.Outcome State Fault Refusal :=
  let x := s.chan ch
  match s.stallLimit with
  | some n =>
    if x.st == .busy && x.x.kind == 5 && n < x.waited then .next (tdFinish ch 3 s) else .next s
  | none => .next s

/-- TOKEN's packet (R378). DEDUCED: notes/assumptions/37.md. -/
def State.sendToken (s : State) (num dst moor off : Nat) (bs : List Byte) : State :=
  let p := { s.newPkt dst 0 0 moor 0 0 bs with offset := off, ctl := some num }
  let p := { p with hcrc := p.headCrc }
  let s := s.originate p
  -- a token to this chip leaves no port; without a route it is dropped, and its effect does not come about
  if dst = s.ring.chipId then s.settle num false
  else if (s.ring.route dst).isNone then s.settle num true
  else s

end Sys2Proof.Machine
end

