-- ==== Sys2Proof/Machine/Marks.lean ====
section
/-! DEFINITION. Marks and ring holds (spec/14_ring_and_moorings.md R355 to R359). -/

namespace Sys2Proof.Machine

/-- Payload of MARK, SEAL, CLOSED and MABORT (R356). -/
def markPay (k seq held : Nat) : List Byte := toBytes 4 k ++ toBytes 4 0 ++ toBytes 8 seq ++ toBytes 4 held ++ toBytes 4 0

/-- Sends a ring message to the successor. -/
def State.toNext (s : State) (kind : Nat) (pay : List Byte) : State :=
  s.originate (s.newPkt s.ring.nextId 0 kind 0 0 0 pay)

def State.setMark (s : State) (f : Mark → Mark) : State := { s with ring := { s.ring with mark := f s.ring.mark } }

/-- This chip is the lead light (R330). -/
def State.isLead (s : State) : Bool := s.ring.chipId == s.ring.leadId

/-- A time in maintenance ticks exceeds MARK_TIMEOUT (R357, R364): 53.125 ticks are a microsecond (R472). DEDUCED:
notes/assumptions/4.md. -/
def State.markOver (s : State) (e : Nat) : Bool := 425 * max 1 s.ring.markTimeout < 8 * e

/-- The circulation in progress at the lead has timed out (R357). A SEAL that has returned still runs against
SEAL_LIMIT while the lead's own close is not complete (R404). DEDUCED: notes/assumptions/27.md. -/
def State.circLate (s : State) : Bool :=
  let m := s.ring.mark
  let e := s.clk.ticks - m.sentAt
  if m.phase = 2 then
    53125 * max 1 s.ring.sealLimit < e || (match m.sealHeld with
      | some (held, since) => s.markOver (since - m.sentAt - held)
      | none => false)
  else s.markOver e

/-- A MARKEV record (R381): SEQ holds S. -/
def State.markEv (s : State) (what k seq : Nat) : State := s.push { s.record 0x0E what k 0 0 with seq := seq }

/-- MARK descriptors that wait are done (R378). -/
def State.markWaitersDone (s : State) (failed : Bool) : State :=
  (s.ring.mark.waiters.foldl (fun s n => s.settle n failed) s).setMark (fun m => { m with waiters := [] })

/-- The lead starts the next mark, or notes that one is wanted after the present one (R355, R356). -/
def startMark (s : State) : State :=
  if s.ring.mark.phase != 0 then s.setMark (fun m => { m with again := true })
  else
    let k := s.ring.mark.started + 1
    let seq := s.kp.nextseq
    let s := s.setMark (fun m => { m with
      started := k, phase := 1, k := k, s := seq, held := 0, sentAt := s.clk.ticks, again := false
      restraint := some (seq, s.clk.ticks, false) })
    ({ s with ring := { s.ring with epochRun := 0 } }).toNext 4 (markPay k seq 0)

/-- After a mark ends, a request that came during it starts one more (R355). -/
def markEnded (s : State) : State :=
  let s := s.setMark (fun m => { m with phase := 0 })
  if s.ring.mark.again then startMark s else s

/-- This chip is to close mark `k` at `seq`: the close starts when the work descriptors below `seq` are complete (R356,
R404), and without the Logbook it is then complete at once (R403). -/
def startClose (k seq : Nat) (s : State) : State :=
  let s := s.setMark (fun m => { m with restraint := none })
  if s.log.en || !s.belowDone seq then
    { s with log := { s.log with close := some ⟨k, seq, 0, s.log.openB, [], 0⟩ } }
  else s

/-- Records `k` as the last closed ring mark (R356, R406). -/
def recordClosed (k seq : Nat) (s : State) : State :=
  let s := logClosed { s with ring := { s.ring with markLast := k, markLastS := seq } }
  let s := s.setMark (fun m => { m with restraint := none, sealHeld := none })
  (s.markEv 1 k seq).markWaitersDone false

/-- The lead declares the mark closed: SEAL has returned and its own close is complete (R356). -/
def leadClosed (s : State) : State :=
  let m := s.ring.mark
  let s := s.setMark (fun m => { m with phase := 3, sentAt := s.clk.ticks, sealHeld := none })
  (recordClosed m.k m.s s).toNext 6 (markPay m.k m.s m.held)

/-- The lead ends a mark with MABORT (R357). -/
def leadAborts (s : State) : State :=
  let m := s.ring.mark
  let s := logAborted s
  let s := s.setMark (fun m => { m with restraint := none, sealHeld := none, abortDue := false })
  markEnded (((s.markEv 2 m.k m.s).markWaitersDone true).toNext 7 (markPay m.k m.s 0))

/-- This chip's close is complete: SEAL goes on with its holding time, or the lead goes on to CLOSED (R356). DEDUCED:
notes/assumptions/28.md. -/
def closeDone (k seq : Nat) (s : State) : State :=
  match s.ring.mark.sealHeld with
  | none => s
  | some (held, since) =>
    if s.isLead then (if s.circLate then s else leadClosed s)
    else (s.setMark (fun m => { m with sealHeld := none })).toNext 5 (markPay k seq (held + (s.clk.ticks - since)))

/-- Nothing of a close is to come: its SEALED write has been answered (R404), or EN = 0 and the work below its number is
complete (R403). -/
def State.closeOver (s : State) (c : LogClose) : Bool := c.phase == 4 || (!s.log.en && s.belowDone c.seq)

/-- Completes a close of which nothing is to come, when the event queue has room for what may follow (R384, R404). -/
def closePump (s : State) : State :=
  match s.log.close with
  | some c =>
    if s.closeOver c && s.evRoom then
      closeDone c.k c.seq { s with log := { s.log with
        close := none, haveMark := s.log.en, sealedIn := if s.log.en then some c.inB else none } }
    else s
  | none => s

/-- CLOSE_COMPLETE (R404). -/
def execCloseComplete (s : State) : Host.Outcome State Fault Refusal := .next (closePump s)

/-- The fields of a mark payload. -/
def payK (p : Pkt) : Nat := ofBytes (p.payload.take 4)
def payS (p : Pkt) : Nat := ofBytes ((p.payload.drop 8).take 8)
def payHeld (p : Pkt) : Nat := ofBytes ((p.payload.drop 16).take 4)

/-- MARK (R356): at the lead it has returned, and SEAL starts; elsewhere S rises and the restraint holds. DEDUCED:
notes/assumptions/27.md. -/
def takeMark (p : Pkt) (s : State) : State :=
  if s.isLead then
    if s.ring.mark.phase = 1 && s.ring.mark.k = payK p && !s.circLate then
      let s := s.setMark (fun m => { m with phase := 2, s := payS p, held := 0, sentAt := s.clk.ticks })
      (startClose (payK p) (payS p) s).toNext 5 (markPay (payK p) (payS p) 0)
    else s
  else
    let seq := max (payS p) s.kp.nextseq
    (s.setMark (fun m => { m with k := payK p, s := seq, restraint := some (seq, s.clk.ticks, false) })).toNext 4
      (markPay (payK p) seq (payHeld p))

/-- SEAL (R356): at the lead it has returned; elsewhere the chip closes, and forwards it when its close is complete.
What returns too late closes nothing: MARK_TIMEOUT ends the mark. DEDUCED: notes/assumptions/27.md. -/
def takeSeal (p : Pkt) (s : State) : State :=
  let hold (s : State) : State := s.setMark (fun m => { m with sealHeld := some (payHeld p, s.clk.ticks) })
  if s.isLead then
    if s.ring.mark.phase = 2 && s.ring.mark.k = payK p then
      let s := hold (s.setMark (fun m => { m with held := payHeld p }))
      if s.log.close.isNone && !s.circLate then leadClosed s else s
    else s
  else
    let s := startClose (payK p) (payS p) (s.setMark (fun m => { m with k := payK p, s := payS p }))
    if s.log.close.isNone then closeDone (payK p) (payS p) (hold s) else hold s

/-- CLOSED (R356): at the lead the mark is over. DEDUCED: notes/assumptions/27.md. -/
def takeClosed (p : Pkt) (s : State) : State :=
  if s.isLead then
    (if s.ring.mark.phase = 3 && s.ring.mark.k = payK p && !s.circLate then markEnded s else s)
  else (recordClosed (payK p) (payS p) s).toNext 6 p.payload

/-- MABORT (R357, R406): the close is discarded and the restraint lifted; a chip whose MARK_LAST is already k
ignores it. -/
def takeMabort (p : Pkt) (s : State) : State :=
  if s.isLead then s
  else if s.ring.markLast = payK p then s.toNext 7 p.payload
  else
    let s := logAborted s
    ((s.setMark (fun m => { m with restraint := none, sealHeld := none })).markWaitersDone true).toNext 7 p.payload

/-- A HOLD ends a mark in progress (R358); without room for its record the MABORT waits (R384). DEDUCED:
notes/assumptions/27.md. -/
def holdAborts (s : State) : State :=
  if !(s.isLead && (s.ring.mark.phase = 1 || s.ring.mark.phase = 2)) then s
  else if s.evRoom then leadAborts s
  else s.setMark (fun m => { m with abortDue := true })

/-- A HOLD or RELEASE record carries the payload in P0 to P3 (R381). -/
def State.holdEv (s : State) (typ : Nat) (pay : List Byte) : State :=
  s.push (s.record typ (ofBytes (pay.take 4)) (ofBytes ((pay.drop 4).take 4)) (ofBytes ((pay.drop 8).take 4))
    (ofBytes ((pay.drop 12).take 4)))

/-- HOLD (R359, R358): the hold is in force, a record is written, and the HOLD goes on; one that the lead sent
has come round. -/
def takeHold (p : Pkt) (s : State) : State :=
  if s.isLead && s.ring.circ.contains (8, p.payload) then
    { s with ring := { s.ring with circ := s.ring.circ.erase (8, p.payload) } }
  else
    let s := { s with ring := { s.ring with hold := true, holdPay := p.payload } }
    let s := s.holdEv 0x0C p.payload
    let s := if s.isLead then { s with ring := { s.ring with circ := s.ring.circ ++ [(8, p.payload)] } } else s
    (holdAborts s).toNext 8 p.payload

/-- RELEASE (R359): the hold lifts; at the lead RELEASE descriptors are done. -/
def takeRelease (p : Pkt) (s : State) : State :=
  let lead := s.isLead
  let s := { s with
    ring := { s.ring with hold := false, circ := s.ring.circ.erase (9, p.payload) }
    flt := { s.flt with stopped := false } }
  let s := sendAll (s.holdEv 0x0D p.payload)
  if lead then
    let s := s.ring.relWait.foldl (fun s n => s.settle n false) s
    { s with ring := { s.ring with relWait := [] } }
  else s.toNext 9 p.payload

/-- What leads to a record that is never dropped waits for room in the event queue (R384). -/
def withRoom (s : State) (k : State → Host.Outcome State Fault Refusal) : Host.Outcome State Fault Refusal :=
  if s.evRoom then k s else .next s

/-- PKT_MARK (R356). -/
def execPktMark (port : Fin 9) (hdr : List Word) (payload : List Byte) (s : State) : Host.Outcome State Fault Refusal :=
  arrive port hdr payload [4] takeMark s

/-- SEAL (R356). -/
def execSeal (port : Fin 9) (hdr : List Word) (payload : List Byte) (s : State) : Host.Outcome State Fault Refusal :=
  arrive port hdr payload [5] takeSeal s

/-- CLOSED (R356). -/
def execClosed (port : Fin 9) (hdr : List Word) (payload : List Byte) (s : State) : Host.Outcome State Fault Refusal :=
  arrive port hdr payload [6] takeClosed s

/-- MABORT (R357). -/
def execMabort (port : Fin 9) (hdr : List Word) (payload : List Byte) (s : State) : Host.Outcome State Fault Refusal :=
  arrive port hdr payload [7] takeMabort s

/-- PKT_HOLD (R359). -/
def execPktHold (port : Fin 9) (hdr : List Word) (payload : List Byte) (s : State) : Host.Outcome State Fault Refusal :=
  arrive port hdr payload [8] takeHold s

/-- PKT_RELEASE (R359). -/
def execPktRelease (port : Fin 9) (hdr : List Word) (payload : List Byte) (s : State) :
    Host.Outcome State Fault Refusal :=
  arrive port hdr payload [9] takeRelease s

/-- MREQ's effect (R355): the lead starts a mark. -/
def takeMreq (_p : Pkt) (s : State) : State := if s.isLead then startMark s else s

/-- MREQ (R355). -/
def execMreq (port : Fin 9) (hdr : List Word) (payload : List Byte) (s : State) : Host.Outcome State Fault Refusal :=
  arrive port hdr payload [10] takeMreq s

/-! ### Packets that waited in an arrival buffer (R339) -/

/-- What a packet's kind asks for (R335); its space has been taken. -/
def takePkt (p : Pkt) (s : State) : State :=
  if p.dst != s.ring.chipId then forward p s
  else
    match p.kind with
    | 0 => deliverPkt takeData p s
    | 1 => deliverPkt (fun p s => sendAll (s.takeCredit p)) p s
    | 2 => deliverPkt takeAck p s
    | 3 => deliverPkt takeNak p s
    | 4 => deliverPkt takeMark p s
    | 5 => deliverPkt takeSeal p s
    | 6 => deliverPkt takeClosed p s
    | 7 => deliverPkt takeMabort p s
    | 8 => deliverPkt takeHold p s
    | 9 => deliverPkt takeRelease p s
    | 10 => deliverPkt takeMreq p s
    | _ => deliverPkt (fun p s => s.ringDrop 4 p) p s

/-- Takes the packets that wait in a port's arrival buffer as their turns come. -/
def heldPump (n : Nat) : Nat → State → State
  | 0, s => s
  | fuel + 1, s =>
    match (s.rport n).held.find? (fun p => s.turnOf (s.rport n).held p) with
    | some p => heldPump n fuel (takePkt p (s.setPort n (fun r => { r with held := r.held.erase p })))
    | none => s

/-- Takes what may be taken of the packets that wait in arrival buffers. -/
def arrivalsPump (s : State) : State :=
  if !s.ring.en || !s.rst.ready then s
  else
    (upTo 8).foldl (fun s n =>
      let r := s.rport n
      if r.fenced || r.abort || r.held.isEmpty then s
      else heldPump n r.held.length s) s

/-- MARK_TIMEOUT (R357): the circulation in progress has run out of time at the lead. DEDUCED:
notes/assumptions/4.md. -/
def execMarkTimeout (s : State) : Host.Outcome State Fault Refusal :=
  if s.isLead && s.ring.mark.phase != 0 && (s.circLate || s.ring.mark.abortDue) then
    withRoom s (fun s => .next (leadAborts s))
  else .next s

/-- MARK_WAIT_TIMEOUT (R357): MARK_WAIT is written once for a restraint, and the chip keeps waiting. -/
def execMarkWaitTimeout (s : State) : Host.Outcome State Fault Refusal :=
  match s.ring.mark.restraint with
  | some (seq, since, false) =>
    if s.markOver (s.clk.ticks - since) then
      withRoom s (fun s => .next ((s.markEv 3 s.ring.mark.k seq).setMark (fun m =>
        { m with restraint := some (seq, since, true) })))
    else .next s
  | _ => .next s

/-- Maintenance ticks of the epoch (R408): 100 ms are 5,312,500 ticks. -/
def Log.epochTicks (l : Log) : Nat := min 600 l.epoch * 5312500

/-- EPOCH_TIMER (R408): on the lead, while a launch runs, once the epoch has passed. -/
def execEpochTimer (s : State) : Host.Outcome State Fault Refusal :=
  if s.isLead && s.wrun && s.log.epoch != 0 && s.log.epochTicks ≤ s.ring.epochRun && s.rst.pstate = 0 then
    .next (startMark s)
  else .next s

end Sys2Proof.Machine
end

