-- ==== Sys2Proof/Machine/Mov.lean ====
section
/-! DEFINITION. What a MOV instruction is (spec/05_tiles_and_operands.md R130 to R140, spec/04 R94, R109):
its encoding checks, its memory rows and bank words, its conversions, and the tile or memory data it moves. -/

namespace Sys2Proof.Machine

/-- The MOV operations of R130 but NOP. -/
inductive MovOp where
  | ld | ldt | st | stt | ldm | stm | fldo
  deriving DecidableEq, Repr

def MovOp.ofCode : Nat → Option MovOp
  | 1 => some .ld
  | 2 => some .ldt
  | 3 => some .st
  | 4 => some .stt
  | 5 => some .ldm
  | 6 => some .stm
  | 7 => some .fldo
  | _ => none

def MovOp.isStore : MovOp → Bool
  | .st | .stt | .stm => true
  | _ => false

/-- Reads Osura on the stream's own path. -/
def MovOp.isLoad : MovOp → Bool
  | .ld | .ldt | .ldm => true
  | _ => false

/-- The load pairs of R135: memory format, tile format. -/
def loadPair (m t : Fmt) : Bool :=
  m == t ||
  match m, t with
  | .fp16, .fp32 | .bf16, .fp32 | .f8a, .fp32 | .f8b, .fp32 | .f4, .fp32 => true
  | .f8a, .fp16 | .f8b, .fp16 | .f4, .fp16 | .f8a, .bf16 | .f8b, .bf16 | .f4, .bf16 => true
  | .int4, .int32 | .int8, .int32 | .int16, .int32 | .uint4, .int32 | .uint8, .int32 => true
  | .int4, .int8 | .uint4, .uint8 => true
  | _, _ => false

/-- The store pairs of R135: memory format, tile format. -/
def storePair (m t : Fmt) : Bool :=
  m == t ||
  match m, t with
  | .fp16, .fp32 | .bf16, .fp32 | .f8a, .fp32 | .f8b, .fp32 => true
  | .int16, .int32 | .int8, .int32 | .uint8, .int32 => true
  | _, _ => false

/-- A decoded MOV. -/
structure MovPlan where
  op : MovOp
  f : MovSlot
  t : Fmt
  m : Fmt
  deriving DecidableEq, Repr

/-- The encoding checks of a MOV slot (R92, R130, R134, R135, R136, R140); `none` is E_ENCODING. An FLDO with
BEN = 0 is taken whatever its BUOY field says, and an OFF that is no multiple of 4 (R94) is not checked, only the address
that it gives. DESIGN CHOICE: notes/assumptions/11.md. -/
def planMov (p : Profile) (f : MovSlot) : Option MovPlan :=
  match MovOp.ofCode f.op with
  | none => none
  | some op =>
    if f.rsvd || (f.far && !(op == .ld || op == .fldo)) || (op == .fldo && !f.far) ||
        (f.ben && op != .fldo) || (op != .fldo && f.buoy != 0) ||
        (f.rel && (op == .st || op == .stt || op == .stm || op == .fldo || f.far)) then none
    else
      match op with
      | .ldm | .stm =>
        if f.tile < 8 && f.rows == 0 && f.cols == 0 && f.tfmt == 0 && f.mfmt == 0 && f.rstride == 0 then
          some ⟨op, f, .int32, .int32⟩
        else none
      | _ =>
        match fmtIn p f.tfmt, fmtIn p f.mfmt with
        | some t, some m =>
          match op with
          | .ld | .ldt => if loadPair m t then some ⟨op, f, t, m⟩ else none
          | .fldo => if t == m && f.tile == 0 && !f.men && f.msel == 0 then some ⟨op, f, t, m⟩ else none
          | _ =>
            if storePair m t &&
                (!f.men || (if op == .st then m == t else t.width == 32 && m.width == 32)) then
              some ⟨op, f, t, m⟩
            else none
        | _, _ => none

/-- Memory rows (R131). -/
def MovPlan.nRows (q : MovPlan) : Nat :=
  match q.op with
  | .ldm | .stm => 1
  | .ldt | .stt => q.f.cols + 1
  | _ => q.f.rows + 1

/-- Elements of a memory row (R131). -/
def MovPlan.rowElems (q : MovPlan) : Nat :=
  match q.op with
  | .ldt | .stt => q.f.rows + 1
  | _ => q.f.cols + 1

/-- Bytes of a memory row (R131, R136). -/
def MovPlan.rowLen (q : MovPlan) : Nat :=
  match q.op with
  | .ldm | .stm => 32
  | _ => ceilDiv (q.rowElems * q.m.width) 32 * 4

/-- A(C, m) of R94 from the captured scalar. -/
def movAddr (f : MovSlot) (base cl m : Nat) : Nat :=
  ofSigned 32 ((bitsOf base 0 32 : Int) + toSigned 22 f.off + (cl : Int) * toSigned 32 (bitsOf base 32 32) +
    ((m * f.rstride * 32 : Nat) : Int))

/-- The bounds checks of R35 and R132 on one set of rows. -/
def MovPlan.rowsInBounds (q : MovPlan) (base k : Nat) : Bool :=
  (upTo k).all (fun cl => (upTo q.nRows).all (fun m =>
    let a := movAddr q.f base cl m
    a % (if q.op == .ldm || q.op == .stm then 32 else 4) == 0 && a + q.rowLen ≤ 2 ^ 29))

/-- The shape checks of a MOV (R122, R134). -/
def MovPlan.shapeOk (q : MovPlan) (tags : Nat → Option Tag) : Bool :=
  match q.op with
  | .ldm | .stm => true
  | .fldo => q.f.cols + 1 ≤ 64 * q.m.pack
  | .st | .stt => tags q.f.tile == some ⟨q.f.rows + 1, q.f.cols + 1, q.t⟩
  | _ => q.f.cols + 1 ≤ 64 * q.t.pack

/-- Bank words that a memory row covers. -/
def rowWords (a len : Nat) : List Nat := fromTo (a / 32) ((a + len + 31) / 32 - a / 32)

/-- Bank words of a cluster in word order from row `first` on, each once (R133). -/
def MovPlan.words (q : MovPlan) (base cl first : Nat) : List Nat :=
  dedup ((fromTo first (q.nRows - first)).flatMap (fun m => rowWords (movAddr q.f base cl m) q.rowLen)) []

/-- Occupancy cycle that carries the last bank word of each memory row of a cluster, from row `first` on (R133): of a
row that brings no new word, the cycle of its latest word. -/
def MovPlan.clusterCycles (q : MovPlan) (base cl first : Nat) : List Nat :=
  ((fromTo first (q.nRows - first)).foldl (fun (acc : List Nat × List Nat) m =>
    let ws := rowWords (movAddr q.f base cl m) q.rowLen
    let new := ws.filter (fun w => !acc.1.contains w)
    let seen := acc.1 ++ new
    let last := if new.isEmpty then ws.foldl (fun n w => max n (seen.findIdx (· == w))) 0 else seen.length - 1
    (seen, acc.2 ++ [last / 16])) ([], [])).2

/-- The latest such cycle of each memory row over the clusters below `k`. -/
def MovPlan.rowCycles (q : MovPlan) (base k first : Nat) : List Nat :=
  (upTo k).foldl (fun out cl => (q.clusterCycles base cl first).zipIdx.map (fun (c, i) => max c (out.getD i 0))) []

/-- Occupancy from row `first` on (R109, R133): 16 words a cycle of the busiest cluster. -/
def MovPlan.occ (q : MovPlan) (base k first : Nat) : Nat :=
  max 1 (ceilDiv ((upTo k).foldl (fun a cl => max a (q.words base cl first).length) 0) 16)

/-! ### Loads -/

/-- The rounding and saturation of a MOV conversion (R135): RNE, and integers clamp. -/
def movConvert (p : Profile) (src dst : Fmt) (c : Nat) : Nat × FlagSet :=
  if src == dst then (c, flagNone) else convert p src dst .rne src.isInt c

/-- Element `i` of a packed memory row. -/
def rowElem (m : Fmt) (bs : List Byte) (i : Nat) : Nat :=
  elemOf m (fun c => ofBytes ((bs.drop (c * 4)).take 4)) i

/-- What loading memory row `r` writes into the tile of one cluster (R131, R123, R129): containers and flags.
`old` reads the tile as it stands. -/
def MovPlan.loadRow (q : MovPlan) (p : Profile) (en : Nat → Bool) (old : Nat → Nat) (row : Nat)
    (bs : List Byte) : List (Nat × Nat) × FlagSet :=
  let n := q.f.cols + 1
  let pk := q.t.pack
  let w := q.t.width
  match q.op with
  | .ldt =>
    let c := row / pk
    let parts := ((upTo (q.f.rows + 1)).filter (fun r => en (laneOf r c))).map (fun r =>
      let (e, fl) := movConvert p q.m q.t (rowElem q.m bs r)
      let key := tileKey q.f.tile r c
      let cell := old key
      let es := (upTo pk).map (fun i =>
        if i = row % pk then e else if n ≤ c * pk + i then 0 else bitsOf cell (w * i) w)
      ((key, packElems w es), fl))
    (parts.map (·.1), orFlags (parts.map (·.2)))
  | _ =>
    let parts := ((upTo (ceilDiv n pk)).filter (fun c => en (laneOf row c))).map (fun c =>
      let es := (fromTo (c * pk) pk).map (fun j =>
        if j < n then movConvert p q.m q.t (rowElem q.m bs j) else (0, flagNone))
      ((tileKey q.f.tile row c, packElems w (es.map (·.1))), orFlags (es.map (·.2))))
    (parts.map (·.1), orFlags (parts.map (·.2)))

/-! ### Stores -/

/-- Containers a store writes for memory row `row` of one cluster: byte address, container, and flags
(R134, R135). -/
def MovPlan.storeRow (q : MovPlan) (p : Profile) (en : Nat → Bool) (cell : Nat → Nat) (a row : Nat) :
    List (Nat × Nat × FlagSet) :=
  let nc := q.rowLen / 4
  let pm := q.m.pack
  (upTo nc).filterMap (fun c =>
    match q.op with
    | .st =>
      if q.m == q.t then
        if en (laneOf row c) then some (a + 4 * c, cell (tileKey q.f.tile row c), flagNone) else none
      else
        let es := (fromTo (c * pm) pm).map (fun j =>
          if j ≤ q.f.cols then
            movConvert p q.t q.m (elemOf q.t (fun cc => cell (tileKey q.f.tile row cc)) j)
          else (0, flagNone))
        some (a + 4 * c, packElems q.m.width (es.map (·.1)), orFlags (es.map (·.2)))
    | _ =>
      let es := (fromTo (c * pm) pm).map (fun r =>
        if r ≤ q.f.rows then
          movConvert p q.t q.m (elemOf q.t (fun cc => cell (tileKey q.f.tile r cc)) row)
        else (0, flagNone))
      if pm == 1 && !en (laneOf c row) then none
      else some (a + 4 * c, packElems q.m.width (es.map (·.1)), orFlags (es.map (·.2))))

/-- All of a store's containers of one cluster, in row order, with the flags each raises. -/
def MovPlan.storeData (q : MovPlan) (p : Profile) (en : Nat → Bool) (cell : Nat → Nat) (mask base cl : Nat) :
    List (Nat × Nat × FlagSet) :=
  match q.op with
  | .stm =>
    let a := movAddr q.f base cl 0
    (upTo 8).map (fun i => (a + 4 * i, bitsOf mask (32 * i) 32, flagNone))
  | _ => (upTo q.nRows).flatMap (fun m => q.storeRow p en cell (movAddr q.f base cl m) m)

/-- Bytes of a list of containers that fall into a bank word; a later container prevails (R132). -/
def containersIn (word : Nat) (cs : List (Nat × Nat)) : List Host.Cell :=
  let mine := (cs.filter (fun c => c.1 / 32 == word)).flatMap (fun c => cellsAt c.1 (toBytes 4 c.2))
  ssetAll' mine
where
  /-- Byte list with later writes prevailing, keys rising. -/
  ssetAll' (cs : List Host.Cell) : List Host.Cell := cs.foldl (fun m c => sput m c.1 c.2) []

/-! ### Distance classes (R20, R42) -/

/-- Load latency between a quadrant pair. -/
def quadLatency (a b : Nat) : Nat :=
  match (a + 4 - b) % 4 with
  | 0 => 14
  | 2 => 22
  | _ => 18

/-- Logical load latency of a cluster and sector (R20, R42). -/
def logicalLatency (cl sec : Nat) : Nat :=
  if sec / 2 = cl then 10 else quadLatency (cl / 8) (sec / 16)

/-- Physical quadrant of a physical cluster (R22). -/
def pcQuad (pc : Nat) : Nat := if pc = 32 then 0 else if pc = 33 then 2 else pc / 8

/-- Physical load latency (R22, R25): a spare cluster is near no sector, a spare sector is at
same-quadrant distance of every cluster. -/
def physicalLatency (pc ps : Nat) : Nat :=
  if ps % 17 = 16 then 14
  else
    let q := ps % 17 / 4
    -- the logical sector that the default map places here (R23)
    let k := q * 16 + (ps / 17) * 4 + ps % 17 % 4
    if pc < 32 && k / 2 = pc then 10 else quadLatency (pcQuad pc) q

/-- Latency of a load instruction: its longest logical class (R42). -/
def MovPlan.loadLatency (q : MovPlan) (base k : Nat) : Nat :=
  (upTo k).foldl (fun a cl => (upTo q.nRows).foldl (fun a m =>
    let x := movAddr q.f base cl m
    (secs x q.rowLen).foldl (fun a sec => max a (logicalLatency cl sec)) a) a) 10
where
  /-- Sectors of a run of bytes. -/
  secs (a len : Nat) : List Nat := fromTo (secOf a) (secOf (a + len - 1) + 1 - secOf a)

end Sys2Proof.Machine
end

