-- ==== Sys2Proof/Machine/StreamOps.lean ====
section
/-! DEFINITION. The stream's memory side (spec/02_osura_memory.md R40 to R51, spec/05 R131 to R143): access
windows, coalescing buffers, MOV instructions under way, far rows, and stopping and resuming (spec/04 R115 to
R119). -/

namespace Sys2Proof.Machine

/-! ### What the running launch fixes -/

def State.prof (s : State) : Profile := (s.str.launch.map (·.profile)).getD .h3
def State.lc (s : State) : Nat := (s.str.launch.map (·.lc)).getD 0
def State.tagOf (s : State) (t : Nat) : Option Tag := s.str.tags.getD t none
/-- The window period of the present cycle (R40). -/
def State.period (s : State) : Nat := s.clk.cyc / 4
def State.modStr (s : State) (f : Stream → Stream) : State := { s with str := f s.str }

/-- Changes one physical cluster's latches when a tile is written (R141): they empty in every slice, also where
the write reaches only some. DESIGN CHOICE: notes/assumptions/8.md. -/
def State.touchTile (s : State) (cl tile : Nat) : State :=
  match s.pcOf cl with
  | some pc =>
    if (s.lane pc).latches.isEmpty then s
    else s.modLane pc (fun l => { l with latches := l.latches.filter (fun x => (x.2 - 1) / 128 != tile) })
  | none => s

/-- Empties every reuse latch (R141). -/
def State.emptyLatches (s : State) : State :=
  s.lanes.foldl (fun s x => if x.2.latches.isEmpty then s else s.modLane x.1 (fun l => { l with latches := [] })) s

/-! ### Reading as the stream reads -/

/-- Puts cells over bytes laid out from an address. -/
def overlayCells (a : Nat) (bs : List Byte) (cells : List Host.Cell) : List Byte :=
  cells.foldl (fun bs c => if a ≤ c.1 then bs.set (c.1 - a) c.2 else bs) bs

/-- Reads a run that may cross sectors. DEDUCED: notes/assumptions/21.md. -/
def State.readRun (s : State) (a len : Nat) : List Byte × State :=
  (splitRun (2 ^ 23) 3 a len 0).foldl (fun (acc, s) (sa, sl, _) =>
    let (b, s) := s.readOsura false sa sl
    (acc ++ b, s)) ([], s)

/-- Bytes that a stream access stores. -/
def WinKind.cells : WinKind → List Host.Cell
  | .movStore _ cs | .sst cs => cs
  | _ => []

def WinKind.isStore : WinKind → Bool
  | .movStore _ _ | .sst _ => true
  | _ => false

/-- Stream accesses that no bank has served, in the order of R43. -/
def State.unserved (s : State) : List WinAcc := s.str.due.flatMap (·.accs) ++ s.str.window

/-- What a fetch read sees of bytes as they stand in Osura (R107): what stores have replaced is seen as it was until
a fence and then a taken branch, loop skip or loop exit have come. -/
def State.fetchView (s : State) (a : Nat) (bs : List Byte) : List Byte :=
  overlayCells a (overlayCells a bs s.str.shadow) s.str.fenced

/-- A stream store is written; fetch goes on seeing the bytes that it changes as they were (R107). -/
def State.streamWrite (s : State) (cells : List Host.Cell) : State :=
  let old := if !s.wrun then [] else cells.filterMap (fun c =>
    let b := ((s.readRun c.1 1).1).headD 0#8
    if b = c.2 || s.str.shadow.any (·.1 == c.1) then none else some (c.1, b))
  (s.modStr (fun t => { t with shadow := t.shadow ++ old })).writeOsura cells

/-- A fence has completed: what stores before it replaced is seen from the next jump on (R107). -/
def fenceStores (s : State) : State :=
  s.modStr (fun t => { t with
    shadow := [], fenced := t.fenced ++ t.shadow.filter (fun c => !t.fenced.any (·.1 == c.1)) })

/-- A taken branch, a loop skip or a loop exit: fetch sees what was stored before the last fence, in bytes that it
has read ahead as well (R107). DEDUCED: notes/assumptions/10.md. -/
def seeStores (s : State) : State :=
  if s.str.fenced.isEmpty then s
  else
    let s' := s.modStr (fun t => { t with fenced := [] })
    s'.modStr (fun t => { t with fetched := t.fetched.map (fun c =>
      if s.str.fenced.any (·.1 == c.1) then (c.1, (s'.fetchView c.1 (s'.readRun c.1 1).1).headD c.2) else c) })

/-- Does every byte of a run lie in an open sector (R61)? -/
def State.runOpen (s : State) (a len : Nat) : Bool :=
  (fromTo (a / 2 ^ 23) ((a + len + 2 ^ 23 - 1) / 2 ^ 23 - a / 2 ^ 23)).all s.secOpen

/-! ### Coalescing buffers (R48, R49) -/

/-- Bytes of a bank word that a cluster's own buffer and flush queue hold (R50). -/
def State.ownCells (s : State) (cl word : Nat) : List Host.Cell :=
  match s.pcOf cl with
  | none => []
  | some pc =>
    let fl := s.osura.q.filterMap (fun r => match r.who with
      | .flush p _ w _ => if p = pc && w = word then r.wr else none
      | _ => none)
    (fl ++ ((sget [] s.osura.cb pc).filter (·.word == word)).map (·.bytes)).flatten

/-- A flush queue of 8 entries has a place. -/
def State.flushSpace (s : State) (pc : Nat) : Bool :=
  (s.osura.q.filter (fun r => match r.who with
    | .flush p _ _ _ => p == pc
    | _ => false)).length < 8

def State.setCb (s : State) (pc : Nat) (f : List CbEntry → List CbEntry) : State :=
  { s with osura := { s.osura with cb := smod [] s.osura.cb pc f } }

/-- Moves an entry to the flush queue. -/
def State.flushEntry (s : State) (pc : Nat) (e : CbEntry) : State :=
  (s.setCb pc (·.erase e)).askOsura .flush (.flush pc e.cl e.word e.age) (e.word * 32) 32 (some e.bytes)

/-- Moves entries that must flush while the queue has places. -/
def flushMusts (pc : Nat) (s : State) : State :=
  ((sget [] s.osura.cb pc).filter (·.must)).foldl (fun s e => if s.flushSpace pc then s.flushEntry pc e else s) s

/-- Does a store of issue cycle `age` flush as it enters: a fence waits, or a later PROD (R50, R74)? -/
def State.flushesNow (s : State) (age : Nat) : Bool := s.str.fence || s.str.prods.any (fun p => age < p.2)

/-- A partial store enters its cluster's buffer; `none` when the oldest entry must flush first and cannot. -/
def cbEnter (p : PartStore) (s : State) : Option State :=
  match s.pcOf p.cl with
  | none => some s
  | some pc =>
    let es := sget [] s.osura.cb pc
    match es.find? (·.word == p.word) with
    | some e =>
      let bytes := p.cells.foldl (fun m c => sput m c.1 c.2) e.bytes
      let e' := { e with bytes := bytes, must := e.must || bytes.length == 32 || s.flushesNow p.age, age := min e.age p.age }
      some (flushMusts pc (s.setCb pc (·.map (fun x => if x.word == p.word then e' else x))))
    | none =>
      let e : CbEntry := ⟨p.word, p.cells, s.clk.cyc, p.age, p.cells.length == 32 || s.flushesNow p.age, p.cl⟩
      if es.length < 64 then some (flushMusts pc (s.setCb pc (· ++ [e])))
      else
        match es with
        | o :: _ => if s.flushSpace pc then some ((s.flushEntry pc o).setCb pc (· ++ [e])) else none
        | [] => some s

/-- Partial stores enter in order until one cannot. DEDUCED: notes/assumptions/9.md. -/
def carryPump : List PartStore → State → State
  | [], s => s.modStr (fun t => { t with carry := [] })
  | p :: ps, s =>
    match cbEnter p s with
    | some s' => carryPump ps s'
    | none => s.modStr (fun t => { t with carry := p :: ps })

/-- Physical clusters with a coalescing buffer in use, in the order of the logical indices they back (R27). -/
def State.cbOrder (s : State) : List Nat :=
  let mapped := (upTo 32).filterMap s.pcOf
  mapped.filter (fun pc => !(sget [] s.osura.cb pc).isEmpty) ++ (s.osura.cb.map (·.1)).filter (fun pc => !mapped.contains pc)

/-- What waits for a flush queue's place moves on (R49). -/
def flushPump (s : State) : State :=
  let s := s.cbOrder.foldl (fun s pc => flushMusts pc s) s
  carryPump s.str.carry s

/-- An entry that must flush finds its queue full, or a partial store cannot enter (R49). -/
def State.flushStuck (s : State) : Bool := !s.str.carry.isEmpty || s.osura.cb.any (fun x => x.2.any (·.must))

/-- Asks every entry that holds a store issued before `t` to flush (R50, R74). -/
def State.flushBefore (s : State) (t : Nat) : State :=
  flushPump (s.cbOrder.foldl (fun s pc =>
    s.setCb pc (·.map (fun e => if e.age < t then { e with must := true } else e))) s)

/-! ### MOV instructions under way -/

def State.setMov (s : State) (id : Nat) (f : MovInst → MovInst) : State :=
  s.modStr (fun t => { t with movs := t.movs.map (fun m => if m.id = id then f m else m) })

def State.movOf (s : State) (id : Nat) : Option MovInst := s.str.movs.find? (fun m => m.id == id)

/-- Bytes of a memory row that have come for a cluster. -/
def MovInst.rowBytes (m : MovInst) (q : MovPlan) (cl r : Nat) : Option (List Byte) :=
  let a := movAddr q.f m.base cl r
  if q.f.far then
    let mine := m.farGot.filter (fun g => g.1 == cl && g.2.1 == r)
    if (mine.map (fun g => g.2.2.2.length)).foldl (· + ·) 0 < q.rowLen then none
    else some (mine.foldl (fun bs g => overlayCells 0 bs (cellsAt g.2.2.1 g.2.2.2)) (List.replicate q.rowLen 0#8))
  else
    let ws := (rowWords a q.rowLen).map (fun w => m.got.find? (fun g => g.1 == cl && g.2.1 == w))
    if ws.all Option.isSome then
      some (((ws.flatMap (fun g => (g.map (·.2.2)).getD [])).drop (a % 32)).take q.rowLen)
    else none

/-- Lines that an FLDO row covers in Osura. -/
def MovInst.destLines (m : MovInst) (q : MovPlan) (cl r : Nat) : List Nat :=
  let d := movAddr q.f m.dbase cl r
  fromTo (d / 1024) ((d + q.rowLen + 1023) / 1024 - d / 1024)

/-- Key of a written FLDO line in `got`. -/
def fldoKey (r line : Nat) : Nat := r * 2 ^ 24 + line

/-- Is a memory row complete in every cluster (R116)? -/
def MovInst.rowReady (m : MovInst) (q : MovPlan) (k r : Nat) : Bool :=
  (upTo k).all (fun cl =>
    if q.op == .fldo then
      (m.destLines q cl r).all (fun l => m.got.any (fun g => g.1 == cl && g.2.1 == fldoKey r l))
    else (m.rowBytes q cl r).isSome)

/-- Writes a loaded row into the tiles or the mask of every cluster (R131, R136). -/
def writeRow (m : MovInst) (q : MovPlan) (r : Nat) (s : State) : State :=
  let p := s.prof
  (upTo s.lc).foldl (fun s cl =>
    let bs := (m.rowBytes q cl r).getD []
    match q.op with
    | .ldm => s.putMask cl (q.f.tile % 8) (ofBytes bs)
    | .ld | .ldt =>
      let en (i : Nat) : Bool := !q.f.men || bitOf (m.gates.getD cl 0) i
      let (cells, fl) := q.loadRow p en (s.tileCell cl) r bs
      ((s.putCells cl cells).raiseIn cl fl).touchTile cl q.f.tile
    | _ => s) s

/-- Registers that a MOV writes: tiles 0 to 15, masks 16 to 23 (R112). -/
def MovPlan.dest (q : MovPlan) : Option Nat :=
  match q.op with
  | .ld | .ldt => some q.f.tile
  | .ldm => some (16 + q.f.tile % 8)
  | _ => none

/-- Key of a mask in a held-back result. -/
def maskKey (m : Nat) : Nat := 2 ^ 20 + m

/-- Writes a result's containers and masks of one cluster. -/
def State.putAny (s : State) (cl : Nat) (cells : List (Nat × Nat)) : State :=
  let s := s.putCells cl (cells.filter (·.1 < 2 ^ 20))
  (cells.filter (2 ^ 20 ≤ ·.1)).foldl (fun s c => s.putMask cl (c.1 - 2 ^ 20) c.2) s

/-- Is a result held back behind an older load of one of its registers (R111, R112)? DEDUCED: notes/assumptions/8.md. -/
def State.heldBack (s : State) (id : Nat) (regs : List Nat) : Bool :=
  s.str.movs.any (fun m => m.id < id && (match planMov s.prof m.f with
    | some q => (match q.dest with
      | some d => regs.contains d
      | none => false)
    | none => false))

/-- Results whose older loads are done are written, in order. -/
def applyWb (s : State) : State :=
  s.str.wb.foldl (fun s w =>
    if s.heldBack w.id w.regs then s
    else
      let s := s.modStr (fun t => { t with wb := t.wb.filter (fun x => x.id != w.id) })
      w.cells.zipIdx.foldl (fun s (c, cl) => s.putAny cl c) s) s

/-- A MOV has completed: an FLDO counts toward its buoy (R75, R140). -/
def endMov (m : MovInst) (s : State) : State :=
  let s := s.modStr (fun t => { t with movs := t.movs.filter (fun x => x.id != m.id) })
  let s := if m.f.op = 7 && m.f.ben then s.complete m.f.buoy 1 else s
  applyWb s

/-- Issue cycle in which row `r` of a load is written: the write cycle of the words that come last (R111). -/
def MovInst.rowDue (m : MovInst) (r : Nat) : Nat := m.issue + m.lat - 1 + m.rowCyc.getD (r - m.first) 0

/-- A row of a load may be written: its data has come, its write cycle has, and no older load of its register is
under way (R111, R139). -/
def MovInst.rowMayLand (m : MovInst) (q : MovPlan) (s : State) : Bool :=
  m.rowReady q s.lc m.rowsDone && m.rowDue m.rowsDone < s.str.icyc && !s.heldBack m.id q.dest.toList

/-- Sends the next row of an FLDO to Osura as TENDER traffic, once its data has come in every cluster and every row
before it has been written (R140). DESIGN CHOICE: notes/assumptions/16.md. -/
def fldoSend (m : MovInst) (q : MovPlan) (s : State) : State :=
  let r := m.sent
  if r != m.rowsDone || q.nRows ≤ r then s
  else
    match (upTo s.lc).mapM (fun cl => m.rowBytes q cl r) with
    | none => s
    | some rows =>
      rows.zipIdx.foldl (fun s (bs, cl) =>
        let d := movAddr q.f m.dbase cl r
        (splitRun 1024 (q.rowLen / 1024 + 2) d q.rowLen 0).foldl (fun s (a, n, o) =>
          s.askOsura .tender (.fldo m.id cl r) a n (some (cellsAt a ((bs.drop o).take n)))) s)
        (s.setMov m.id (fun m => { m with sent := r + 1 }))

/-- Writes the rows of a load that may be written, in order, or sends and counts those of an FLDO. -/
def movRowsGo : Nat → Nat → State → State
  | 0, _, s => s
  | fuel + 1, id, s =>
    match s.movOf id with
    | none => s
    | some m =>
      match planMov s.prof m.f with
      | none => s
      | some q =>
        if m.cut.isSome || q.op.isStore then s
        else if q.nRows ≤ m.rowsDone then endMov m s
        else if q.op == .fldo then
          if m.rowReady q s.lc m.rowsDone then
            movRowsGo fuel id (s.setMov id (fun m => { m with rowsDone := m.rowsDone + 1 }))
          else fldoSend m q s
        else if m.rowMayLand q s then
          movRowsGo fuel id ((writeRow m q m.rowsDone s).setMov id (fun m => { m with rowsDone := m.rowsDone + 1 }))
        else s

def movPump (id : Nat) (s : State) : State := movRowsGo 514 id s

/-- Scalar results whose write cycle has come are written, in order (R98). -/
def landScals (s : State) : State :=
  let due (e : Nat × Nat × Option Nat) : Bool := e.1 < s.str.icyc && e.2.2.isSome
  (s.str.scalQ.filter due).foldl (fun s e => s.setScal e.2.1 (e.2.2.getD 0))
    (s.modStr (fun t => { t with scalQ := t.scalQ.filter (fun e => !due e) }))

/-- Flags whose write cycle has come are raised (R197). -/
def landFlags (s : State) : State :=
  (s.str.flagQ.filter (fun e => e.1 / 64 < s.str.icyc)).foldl (fun s e => s.raiseIn (e.1 % 64) e.2)
    (s.modStr (fun t => { t with flagQ := t.flagQ.filter (fun e => !(e.1 / 64 < t.icyc)) }))

/-- What the write cycles up to the present issue cycle write: loaded rows, scalars and flags (R111). -/
def land (s : State) : State := landFlags (landScals (s.str.movs.foldl (fun s m => movPump m.id s) s))

/-- The next issue cycle begins (R108). -/
def nextIssue (s : State) : State := land (s.modStr (fun t => { t with icyc := t.icyc + 1 }))

/-- Far data of a row has come (R137, R139, R140). DEDUCED: notes/assumptions/16.md. -/
def farData (id cl row off : Nat) (bs : List Byte) (s : State) : State :=
  match s.movOf id with
  | none => s
  | some m =>
    if m.cut.isSome then s
    else movPump id (s.setMov id (fun m => { m with farGot := m.farGot ++ [(cl, row, off, bs)] }))

/-- An FLDO write has been served, or has come to nothing. DEDUCED: notes/assumptions/16.md. -/
def fldoWritten (id cl row a : Nat) (s : State) : State :=
  movPump id (s.setMov id (fun m => { m with got := m.got ++ [(cl, fldoKey row (a / 1024), [])] }))

/-- A far read came back with a translation fault (R117). DEDUCED: notes/assumptions/16.md. -/
def farFaulted (id cl row port iova : Nat) (s : State) : State :=
  match s.movOf id with
  | none => s
  | some m =>
    if m.cut.isSome then s
    else s.modStr (fun t => { t with farHits := t.farHits ++ [(id, ⟨m.unit - 5, cl, row, port, true, iova⟩)] })

/-! ### Entering windows and buffers -/

/-- Words of a cluster that a MOV carries in the present issue cycle (R133). -/
def MovInst.wordsNow (m : MovInst) (q : MovPlan) (icyc cl : Nat) : List Nat :=
  ((q.words m.base cl m.first).drop (16 * (icyc - m.issue))).take 16

/-- A MOV still has words to carry in issue cycle `icyc`. -/
def MovInst.carrying (m : MovInst) (icyc : Nat) : Bool :=
  m.cut.isNone && m.issue ≤ icyc && icyc < m.issue + m.occ

/-- Bytes that a store puts into a bank word, of rows not stored before a cut. -/
def MovInst.storeCells (m : MovInst) (q : MovPlan) (cl word : Nat) : List Host.Cell :=
  let rows := (fromTo m.first (q.nRows - m.first)).map (fun r => movAddr q.f m.base cl r)
  containersIn word ((m.stores.getD cl []).filter (fun c =>
    m.first == 0 || rows.any (fun a => a ≤ c.1 && c.1 < a + q.rowLen)))

/-- One MOV's load words of this issue cycle enter the window (R40, R50). DEDUCED: notes/assumptions/9.md. -/
def enterLoad (m : MovInst) (q : MovPlan) (s : State) : State :=
  let p := s.period
  let add := (upTo s.lc).flatMap (fun cl => (m.wordsNow q s.str.icyc cl).map (fun w =>
    (⟨p, w, some cl, .movLoad m.id (s.ownCells cl w), m.born⟩ : WinAcc)))
  s.modStr (fun t => { t with window := t.window ++ add })

/-- The far reads that a MOV requests in this issue cycle, in word order within each cluster (R137, R138): a request
belongs to the cycle of its first 32-byte unit. DEDUCED: notes/assumptions/16.md. -/
def enterFar (m : MovInst) (q : MovPlan) (s : State) : State :=
  let k := s.str.icyc - m.issue
  let reqs := (upTo s.lc).flatMap (fun cl =>
    let ws := q.words m.base cl m.first
    (fromTo m.first (q.nRows - m.first)).flatMap (fun r =>
      let a0 := movAddr q.f m.base cl r
      let iova := (s.str.far.win + a0) % 2 ^ 64
      ((splitRun 256 (q.rowLen / 256 + 2) iova q.rowLen 0).filter (fun x =>
        ws.findIdx (· == (a0 + x.2.2) / 32) / 16 == k)).map (fun (a, n, off) =>
          (⟨.far m.id cl r off, a % 2 ^ 64, n, none⟩ : MemReq))))
  { s with mem := { s.mem with farQ := s.mem.farQ ++ reqs } }

/-- One MOV's store words of one cluster enter: whole words the window, others the buffer's door (R48, R134).
DEDUCED: notes/assumptions/9.md. -/
def enterStore (cl : Nat) (m : MovInst) (q : MovPlan) (s : State) : State :=
  let p := s.period
  let ws := (m.wordsNow q s.str.icyc cl).map (fun w => (w, m.storeCells q cl w))
  let whole := ws.filter (fun x => x.2.length == 32)
  let part := ws.filter (fun x => x.2.length != 32 && !x.2.isEmpty)
  s.modStr (fun t => { t with
    window := t.window ++ whole.map (fun x => ⟨p, x.1, some cl, .movStore m.id x.2, m.born⟩)
    carry := t.carry ++ part.map (fun x => ⟨cl, x.1, x.2, m.born⟩) })

/-- The words that every MOV carries in this issue cycle (R43, R133); `extra` is an SST's access, which comes after
the cluster stores. DEDUCED: notes/assumptions/9.md. -/
def movEnter (extra : List WinAcc) (s : State) : State :=
  let act := s.str.movs.filterMap (fun m =>
    if m.carrying s.str.icyc then (planMov s.prof m.f).map (fun q => (m, q)) else none)
  let act := (act.filter (·.1.unit == 5)) ++ act.filter (·.1.unit != 5)
  let s := (act.filter (fun x => x.2.op.isLoad && !x.2.f.far)).foldl (fun s x => enterLoad x.1 x.2 s) s
  let s := (act.filter (fun x => x.2.f.far)).foldl (fun s x => enterFar x.1 x.2 s) s
  let st := act.filter (fun x => x.2.op.isStore)
  let s := (upTo s.lc).foldl (fun s cl => st.foldl (fun s x => enterStore cl x.1 x.2 s) s) s
  let s := s.modStr (fun t => { t with
    window := t.window ++ extra
    movs := t.movs.filter (fun m => !((MovOp.ofCode m.f.op).any MovOp.isStore && m.cut.isNone &&
      m.issue + m.occ ≤ t.icyc + 1)) })
  flushPump s

/-! ### The window service (R40 to R44) -/

/-- Does the asynchronous side own a core cycle (R38)? -/
def asyncOwns (share cyc : Nat) : Bool :=
  let ph := cyc % 4
  if share = 0 then ph == 3 else if share = 1 then ph % 2 == 1 else ph != 0

/-- A bank of Osura, by its sector. -/
def accBank (x : WinAcc) : Nat := secOf (x.word * 32) * 32 + bankOf (x.word * 32)

/-- The bank accesses of a window, newest first: a read joins the last access of its word unless that is a store
(R41). -/
def mergeReads : List WinAcc → List BankAcc → List BankAcc
  | [], kept => kept
  | x :: xs, kept =>
    let own : BankAcc := ⟨x.period, accBank x, x.word, x.kind.isStore, [x]⟩
    match kept.findIdx? (fun k => k.word == x.word) with
    | some i =>
      if x.kind.isStore || (kept.getD i own).store then mergeReads xs (own :: kept)
      else mergeReads xs (modifyAt kept i (fun k => { k with accs := k.accs ++ [x] }))
    | none => mergeReads xs (own :: kept)

/-- Stream-owned cycles of a period (R38). -/
def State.allowance (s : State) : Nat := 3 - min 2 s.osura.share

/-- The window of a period closes: its bank accesses are owed, each bank's excess over the allowance is counted, and
the stall of R44 is owed for the largest excess. -/
def closeWindow (p : Nat) (s : State) : State :=
  let kept := (mergeReads (s.str.window.filter (·.period == p)) []).reverse
  let al := s.allowance
  let excess := (dedup (kept.map (·.bank)) []).flatMap (fun b => (kept.filter (fun x => x.bank == b)).drop al)
  let e := (dedup (excess.map (·.bank)) []).foldl (fun n b => max n (excess.filter (fun x => x.bank == b)).length) 0
  let s := s.modStr (fun t => { t with
    window := t.window.filter (fun x => x.period != p), due := t.due ++ kept
    bankStall := t.bankStall + e, deferred := t.deferred ++ excess.map (·.bank) })
  excess.foldl (fun s x =>
    match (x.accs.head?.bind (·.cl)).bind s.pcOf with
    | some pc => bumpCl 1 pc 1 s
    | none => s) (bumpBy 0x0200 e s)

/-- Closes the windows of all past periods. -/
def closeWindows (s : State) : State :=
  ((dedup (s.str.window.map (·.period)) []).filter (· < s.period)).foldl (fun s p => closeWindow p s) s

/-- Length in bytes of the bundle with a header (R88). -/
def bundleLen (hdr : Nat) : Nat := 4 * (1 + 3 * popcount 10 (hdr % 1024))

/-- Bundles that a body's bytes hold, up to 513 (R106). -/
def countBundles : Nat → Nat → List Byte → Nat
  | 0, _, _ => 0
  | fuel + 1, a, bs =>
    if bs.length < 4 then 0
    else
      let n := bundleLen (ofBytes (bs.take 4))
      if bs.length < n then 0 else countBundles fuel (a + n) (bs.drop n) + 1

/-- An emptied loop buffer (R106). -/
def LoopBuf.drop (b : LoopBuf) : LoopBuf := { LoopBuf.empty with gen := b.gen }

/-- The loop buffer begins to load a body. -/
def LoopBuf.start (b : LoopBuf) (lo hi : Nat) : LoopBuf := ⟨lo, hi, lo, false, [], b.gen + 1, false⟩

/-- Bytes of the loop buffer's load arrive; a body of more than 512 bundles leaves it empty (R106). -/
def takeBody (cells : List Host.Cell) (s : State) : State :=
  let lb := s.str.loopBuf
  let bytes := (cells.filter (fun c => lb.lo ≤ c.1 && c.1 < lb.hi)).foldl (fun m c => sput m c.1 c.2) lb.bytes
  let run := (bytes.zipIdx.takeWhile (fun c => c.1.1 == lb.lo + c.2)).map (·.1.2)
  let big := 512 < countBundles 513 lb.lo run
  s.modStr (fun t => { t with
    loopBuf := if big then lb.drop else { lb with bytes := bytes, complete := bytes.length == lb.hi - lb.lo } })

/-- A read gets the bank word's bytes. An SLD belongs to no cluster and does not see what coalescing buffers and flush
queues still hold. DEDUCED: notes/assumptions/9.md. -/
def takeRead (bs : List Byte) (s : State) (x : WinAcc) : State :=
  let a := x.word * 32
  match x.kind with
  | .movLoad id own =>
    movPump id (s.setMov id (fun m => { m with got := m.got ++ [(x.cl.getD 0, x.word, overlayCells a bs own)] }))
  | .sld reg at_ due =>
    let v := ofBytes ((bs.drop (at_ % 32)).take 8)
    landScals (s.modStr (fun t => { t with
      scalQ := t.scalQ.map (fun e => if e.1 = due && e.2.1 = reg && e.2.2.isNone then (due, reg, some v) else e) }))
  | .fetch gen =>
    if gen = s.str.fetchGen then s.modStr (fun t => { t with fetched := t.fetched ++ cellsAt a (s.fetchView a bs) }) else s
  | .loopLoad gen =>
    if gen = s.str.loopBuf.gen && !s.str.loopBuf.complete then takeBody (cellsAt a (s.fetchView a bs)) s else s
  | .desc | .movStore _ _ | .sst _ => s

/-- A stop found outside the stream's own issue (R83, R298), taken before the next bundle. A pause that has been found
there gives way to it (R115). -/
def State.askStop (s : State) (cause : Nat) (slot : Option Nat) (buoy : Nat) : State :=
  if !s.wrun || s.streamStopped then s
  else s.modStr (fun t => { t with stopWait := match t.stopWait with
    | some a => if a.cause = 2 then some ⟨cause, slot, 0, 0, 0, buoy⟩ else some a
    | none => some ⟨cause, slot, 0, 0, 0, buoy⟩ })

/-- An issued access reaches its sector: it is Lit, or Closing with work it has accepted (R61, R62). -/
def State.servesStream (s : State) (word : Nat) : Bool :=
  let st := (s.secCtl (secOf (word * 32))).st
  st == .lit || st == .closing

/-- A stream access whose sector has gone Dark meanwhile: a store is reported as E_LATE of its cluster, a load delivers
nothing and stops the stream (R61, R62). An SST is reported under C0. DEDUCED: notes/assumptions/21.md. -/
def cutAccess (s : State) (x : WinAcc) : State :=
  match x.kind with
  | .movStore _ _ | .sst _ => s.late 1 (x.cl.getD 0) 0 (x.word * 32)
  | .movLoad id _ =>
    match s.movOf id with
    | some m => applyWb ((s.modStr (fun t => { t with movs := t.movs.filter (fun y => y.id != id) })).askStop 0x0A (some m.unit) 0)
    | none => s
  | .sld reg _ due =>
    (s.modStr (fun t => { t with scalQ := t.scalQ.filter (fun e => !(e.1 == due && e.2.1 == reg)) })).askStop 0x0A (some 0) 0
  | .fetch _ | .loopLoad _ | .desc => s

/-- A bank serves one access: one read through the code for all the reads merged into it, or one store (R31, R41,
R55). -/
def serveBank (s : State) (x : BankAcc) : State :=
  if !s.servesStream x.word then x.accs.foldl cutAccess s
  else if x.store then x.accs.foldl (fun s y => s.streamWrite y.kind.cells) s
  else
    let (bs, s) := s.readOsura false (x.word * 32) 32
    x.accs.foldl (takeRead bs) s

/-- Splits off the oldest access of each bank that may serve. -/
def oldestOf (may : Nat → Bool) : List BankAcc → List Nat → List BankAcc × List BankAcc
  | [], _ => ([], [])
  | x :: xs, seen =>
    let (now, rest) := oldestOf may xs (x.bank :: seen)
    if may x.bank && !seen.contains x.bank then (x :: now, rest) else (now, x :: rest)

/-- Banks that have served the stream in this core cycle. -/
def State.streamBanks (s : State) : List Nat := if s.str.servedAt = s.clk.cyc + 1 then s.str.servedBanks else []

/-- In one core cycle, each bank that may serves the oldest stream access it owes (R34, R40, R43). -/
def serveBanks (may : Nat → Bool) (s : State) : State :=
  let used := s.streamBanks
  let (now, rest) := oldestOf (fun b => may b && !used.contains b) s.str.due []
  if now.isEmpty then s
  else now.foldl serveBank (s.modStr (fun t => { t with
    due := rest, servedAt := s.clk.cyc + 1, servedBanks := used ++ now.map (·.bank) }))

/-- A bank that is not to be borrowed: a Beacon write that no buoy holds waits for it, or the arbiter has granted it in
this cycle (R44). -/
def State.beaconAt (s : State) (bank : Nat) : Bool :=
  s.osura.q.any (fun r => r.agent == .beacon && !s.buoyBlocked r && (rowWords r.addr r.len).any (fun w =>
    secOf (w * 32) * 32 + bankOf (w * 32) == bank))

def State.bankTaken (s : State) (bank : Nat) : Bool :=
  s.beaconAt bank ||
    ((s.secCtl (bank / 32)).served == s.clk.cyc + 1 && (s.secCtl (bank / 32)).granted.contains (bank % 32))

/-- A bank that stall cycles have kept from serving a window in the period that is its turn: it serves one access in
any cycle, whichever side owns it. DESIGN CHOICE: notes/assumptions/9.md. -/
def State.lags (s : State) (bank : Nat) : Bool :=
  s.str.due.any (fun x => x.bank == bank && x.period + 1 < s.period) && !s.bankTaken bank

/-- What the banks do for the stream in the present core cycle, unless STREAM_WINDOW_SERVICE has made them do it: in a
stream-owned cycle each serves one access of the past windows (R31, R34, R40). -/
def serveWindows (s : State) : State :=
  if !s.rst.ready || s.clk.stopped || (s.str.window.isEmpty && s.str.due.isEmpty) then s
  else
    let s := closeWindows s
    serveBanks (if asyncOwns s.osura.share s.clk.cyc then s.lags else fun _ => true) s

/-- A step on an empty queue: a core cycle passes in which the stream issues nothing, unless power-on reset holds the
clocks (R466). DESIGN CHOICE: notes/assumptions/1.md. -/
def State.tick (s : State) : State := if s.rst.por then s else (serveWindows s).advance

/-- A descriptor's start reads a block in its own core cycle if the banks of its words are free in that cycle; they serve
nobody else in it (R31). `none` if one of them is not. DESIGN CHOICE: notes/assumptions/30.md. -/
def State.takeBanks (s : State) (a len : Nat) : Option State :=
  let banks := (rowWords a len).map (fun w => secOf (w * 32) * 32 + bankOf (w * 32))
  let used := s.streamBanks
  if banks.any (fun b => used.contains b || s.bankTaken b) then none
  else some (s.modStr (fun t => { t with servedAt := s.clk.cyc + 1, servedBanks := used ++ banks }))

/-- STREAM_WINDOW_SERVICE (R40): in a stream-owned core cycle each bank serves one access of the past windows. -/
def execStreamWindowService (s : State) : Host.Outcome State Fault Refusal :=
  if !s.rst.ready || s.clk.stopped || asyncOwns s.osura.share s.clk.cyc then .next s
  else .next (serveBanks (fun _ => true) (closeWindows s))

/-! ### Stops (R115, R116) -/

/-- First row of a MOV that is not complete (R116). -/
def MovInst.nextRow (m : MovInst) (q : MovPlan) (k icyc : Nat) : Nat :=
  if q.op.isStore then
    let gone (cl : Nat) : List Nat := (q.words m.base cl m.first).take (16 * (icyc - m.issue))
    ((fromTo m.first (q.nRows - m.first)).find? (fun r => (upTo k).any (fun cl =>
      (rowWords (movAddr q.f m.base cl r) q.rowLen).any (fun w => !(gone cl).contains w)))).getD q.nRows
  else m.rowsDone

/-- Bank words that a MOV has still to carry for a cluster, those of a cut MOV included (R116). -/
def MovInst.wordsLeft (m : MovInst) (q : MovPlan) (icyc cl : Nat) : List Nat :=
  match m.cut with
  | some r => q.words m.base cl r
  | none => (q.words m.base cl m.first).drop (16 * (icyc - m.issue))

/-- Does a MOV of the stream that is under way, cut or not, still carry a bank word with property `f`? -/
def State.movAhead (s : State) (load cutToo : Bool) (f : Nat → Bool) : Bool :=
  s.str.movs.any (fun m => (cutToo || m.cut.isNone) && !m.f.far && (match planMov s.prof m.f with
    | some q => (q.op.isLoad || !load) && (upTo s.lc).any (fun cl => (m.wordsLeft q s.str.icyc cl).any f)
    | none => false))

/-- A MOV number that no MOV has: far reads of a cut MOV answer to it. -/
def deadMov : Nat := 2 ^ 64

/-- Cuts a MOV at its next row (R116): what it had asked for beyond is dropped. -/
def cutMov (m : MovInst) (s : State) : State :=
  match planMov s.prof m.f with
  | none => s
  | some q =>
    let r := m.nextRow q s.lc s.str.icyc
    if q.nRows ≤ r then s.modStr (fun t => { t with movs := t.movs.filter (fun x => x.id != m.id) })
    else
      let s := s.setMov m.id (fun m => { m with cut := some r, got := [], farGot := [] })
      let dead (w : MemOwner) : Bool := match w with
        | .far id _ _ _ => id == m.id
        | _ => false
      let kill (x : MemTag) : MemTag := match x.who with
        | .far id c row o => if id = m.id then { x with who := .far deadMov c row o } else x
        | _ => x
      let past (x : AsyncReq) : Bool := match x.who with
        | .fldo id _ row => id == m.id && r ≤ row
        | _ => false
      { s with
        str := { s.str with movRow := if (s.str.movRow.getD (m.unit - 5) (0, false)).2 then s.str.movRow
          else s.str.movRow.set (m.unit - 5) (r % 64, true) }
        mem := { s.mem with farQ := s.mem.farQ.filter (fun x => !dead x.who), rd := s.mem.rd.map kill }
        osura := { s.osura with q := s.osura.q.filter (fun x => !past x) } }

/-- A stop whose cause RESUMABLE can mark (R115, R201). -/
def State.resumableCause (s : State) (cause : Nat) : Bool :=
  cause == 2 || cause == 3 || cause == 5 || (cause == 4 && s.trap.hitResume)

def StopAt.plain (cause : Nat) : StopAt := ⟨cause, none, 0, 0, 0, 0⟩

/-- SLOT of a stop that names no slot: one of the codes that are produced (notes/assumptions/14.md). -/
def openSlot (n : Nat) : Nat :=
  let v := (Config.freeValue 4 n).toNat
  if 10 ≤ v && v ≤ 14 then 0 else v

/-- PAUSE and ABORT descriptors that wait for the stream are done (R378, R426). -/
def State.settlePauses (s : State) : State :=
  ctlPump { s with kp := { s.kp with ctlRun := s.kp.ctlRun.map (fun r =>
    if r.op = 0x0A || r.op = 0x0C then { r with done := true } else r) } }

/-- The far fault a stop names: MOV0 first, its oldest MOV's lowest faulting row, then the lowest cluster (R143). -/
def State.farPick (s : State) : Option FarFault :=
  let unit := if s.str.farHits.any (·.2.unit == 0) then 0 else 1
  let id := (s.str.movs.find? (fun m => s.str.farHits.any (fun h => h.1 == m.id && h.2.unit == unit))).map (·.id)
  let mine := (s.str.farHits.filter (fun h => some h.1 == id)).map (·.2)
  let row := mine.foldl (fun r h => min r h.row) 64
  let cl := (mine.filter (·.row == row)).foldl (fun c h => min c h.cluster) 32
  mine.find? (fun h => h.row == row && h.cluster == cl)

/-- The lowest faulting row of a far MOV (R117). -/
def State.farRow (s : State) (m : MovInst) : Option Nat :=
  match s.str.farHits.filter (fun h => h.1 == m.id) with
  | [] => none
  | h :: hs => if m.cut.isNone then some (hs.foldl (fun r x => min r x.2.row) h.2.row) else none

/-- The rows of a far LD before its faulting row are written, so that it is cut there (R117). -/
def farLand (m : MovInst) (s : State) : State :=
  match s.farRow m, planMov s.prof m.f with
  | some r, some q =>
    if q.op == .fldo then s
    else ((fromTo m.rowsDone (r - m.rowsDone)).foldl (fun s i => writeRow m q i s) s).setMov m.id (fun m =>
      { m with rowsDone := max m.rowsDone r })
  | _, _ => s

/-- Results of older bundles that are still on their way are written at a stop (R116). -/
def settleResults (s : State) : State :=
  let s := s.str.scalQ.foldl (fun s e => match e.2.2 with
    | some v => s.setScal e.2.1 v
    | none => s) s
  let s := s.str.flagQ.foldl (fun s e => s.raiseIn (e.1 % 64) e.2) s
  s.modStr (fun t => { t with scalQ := [], flagQ := [] })

/-- Records a stop before the present bundle, cuts the MOVs of a resumable one, and queues the event record (R115,
R116, R143, R374, R375). DESIGN CHOICE: notes/assumptions/14.md. -/
def recordStop (a : StopAt) (s : State) : State :=
  let res := s.resumableCause a.cause
  let hit := if a.cause = 3 then s.farPick.getD .blank else .blank
  let other := if a.cause = 3 then s.str.stopWait.filter (·.cause != 2) else none
  let s := settleResults s
  let s := if a.cause = 3 then s.str.movs.foldl (fun s m => farLand m s) s else s
  let s := if res then s.str.movs.foldl (fun s m => cutMov m s) s else s
  let (slot, s) := match a.slot with
    | some n => (n, s)
    | none => (openSlot s.free, s.fresh)
  let (tgt, pend) := match s.str.branch with
    | some (t, d) => if t < 2 ^ 32 then (t, d) else (0, 0)
    | none => (0, 0)
  let s := (s.emptyLatches).modStr (fun t => { t with
    stop := ⟨t.pc, a.cause, slot, a.rclass, a.reg, a.rule, pend, res, tgt⟩
    board := [], unitFree := [], trapWait := 0, buoyWait := 0, looked := false, pauseReq := false, resuming := false
    stopWait := other, frozen := a.cause == 2, farHits := [], farFault := hit
    spareDue := if res then [] else t.spareDue })
  let s := { s with trap := { s.trap with hit := false } }
  let s := if res then
      let p1 := if a.cause = 5 then a.buoy else if a.cause = 3 then hit.unit + 2 * hit.cluster else 0
      s.push (s.launchRecord 0x07 a.cause p1 s.str.pc (if a.cause = 3 then hit.iova % 2 ^ 32 else 0))
    else s.push (s.launchRecord 0x01 a.cause ((s.str.launch.map (·.user)).getD 0) s.str.pc 0)
  refuseEclipse s.settlePauses

/-- A MOV still has rows to move before the stream may end or stop for good: words to carry, a row of a load to write,
or far data of an FLDO to come; an FLDO's own writes are asynchronous (R116, R140). -/
def MovInst.unfinished (m : MovInst) (s : State) : Bool :=
  m.carrying s.str.icyc || m.cut.isNone && (match planMov s.prof m.f with
    | some q =>
      if q.op == .fldo then (upTo s.lc).any (fun cl => (fromTo m.rowsDone (q.nRows - m.rowsDone)).any (fun r =>
        (m.rowBytes q cl r).isNone))
      else q.op.isLoad
    | none => false)

/-- Work of issued bundles that issue cycles still have to bring: MOVs, and results on their way. -/
def State.resultsAhead (s : State) : Bool :=
  s.str.movs.any (fun m => m.unfinished s) || !s.str.scalQ.isEmpty || !s.str.flagQ.isEmpty

/-- Stream accesses that no bank has served. -/
def State.windowsOpen (s : State) : Bool := !s.str.window.isEmpty || !s.str.due.isEmpty

/-- A cycle in which MOVs go on and no bundle issues: after END, before a terminal stop, and at a resume. -/
def drainCycle (s : State) : State := (nextIssue (movEnter [] s)).advance

/-- One core cycle of a stop that has been found: issued accesses are served first; a terminal stop lets every older
bundle complete; the stop is then recorded once the event queue has room (R116, R384). A stop that a far-load fault comes
before is kept for the resume. DEDUCED: notes/assumptions/14.md. -/
def stopCycle (a : StopAt) (s : State) : State :=
  let s := if a.cause = 3 then s else s.modStr (fun t => { t with stopWait := some a })
  if !s.resumableCause a.cause && s.str.movs.any (fun m => m.unfinished s) then drainCycle s
  else if s.windowsOpen || !s.evRoom then s.advance
  else (recordStop a s).advance

/-! ### Late data of spares (R25) -/

/-- The largest lateness of a load's data against its scheduled latency, with the occupancy cycle whose data is the
first to be so late (R25). -/
def spareLate (q : MovPlan) (base first lat : Nat) (s : State) : Nat × Nat :=
  let late (cl sec : Nat) : Nat := match s.pcOf cl, s.psecOf sec with
    | some pc, some ps => physicalLatency pc ps - lat
    | _, _ => 0
  let any := (upTo s.lc).any (fun cl => (upTo q.nRows).any (fun m =>
    (MovPlan.loadLatency.secs (movAddr q.f base cl m) q.rowLen).any (fun sec => late cl sec != 0)))
  if !(q.op.isLoad && !q.f.far && any) then (0, 0)
  else
    let worse (cl : Nat) (d : Nat × Nat) (x : Nat × Nat) : Nat × Nat :=
      let l := late cl (secOf (x.1 * 32))
      if Nat.blt d.1 l || (d.1 == l && l != 0 && Nat.blt (x.2 / 16) d.2) then (l, x.2 / 16) else d
    (upTo s.lc).foldl (fun d cl => (q.words base cl first).zipIdx.foldl (worse cl) d) (0, 0)

/-! ### Resume (R118) -/

/-- The larger of two latenesses, each with the issue cycle at which its data is due; of equal ones the earlier. -/
def laterOf (d x : Nat × Nat) : Nat × Nat :=
  if Nat.blt d.1 x.1 || (d.1 == x.1 && x.1 != 0 && Nat.blt x.2 d.2) then x else d

/-- Spare stalls owed for what issues together: for the largest lateness alone (R25). -/
def State.oweSpare (s : State) (d : Nat × Nat) : State :=
  if d.1 = 0 then s else s.modStr (fun t => { t with spareDue := t.spareDue ++ [(d.2, d.1)] })

/-- Lateness of a cut MOV's remaining data if it is issued again now (R25). -/
def State.reissueLate (s : State) (m : MovInst) : Nat × Nat :=
  match m.cut, planMov s.prof m.f with
  | some r, some q =>
    let (late, k) := spareLate q m.base r m.lat s
    (late, s.str.icyc + m.lat - 1 + k)
  | _, _ => (0, 0)

/-- Re-issues a cut MOV from its saved row. -/
def reissue (m : MovInst) (s : State) : State :=
  match m.cut, planMov s.prof m.f with
  | some r, some q =>
    s.setMov m.id (fun m => { m with
      issue := s.str.icyc, first := r, rowsDone := r, sent := r, cut := none, got := [], farGot := []
      occ := q.occ m.base s.lc r, rowCyc := q.rowCycles m.base s.lc r })
  | _, _ => s

/-- A cut MOV whose remaining rows meet a sector that is not open any more (R61). -/
def State.reissueDark (s : State) (m : MovInst) : Bool :=
  match m.cut, planMov s.prof m.f with
  | some r, some q => (upTo s.lc).any (fun cl => (fromTo r (q.nRows - r)).any (fun i =>
      !s.runOpen (movAddr q.f (if q.op == .fldo then m.dbase else m.base) cl i) q.rowLen)) && (!q.f.far || q.op == .fldo)
  | _, _ => false

/-- Resumes a resumable stop: cut MOVs go on, MOV0 before MOV1, and the stop bundle waits for them. A MOV that could
only go on in a sector that has closed meanwhile stops the stream with E_DARK instead. DEDUCED:
notes/assumptions/14.md. -/
def resumeStream (s : State) : State :=
  let cut := s.str.movs.filter (·.cut.isSome)
  let dark := cut.find? s.reissueDark
  let s := s.modStr (fun t => { t with
    stop := .blank, movRow := [(0, false), (0, false)], farFault := .blank, frozen := false, buoyWait := 0
    resuming := !cut.isEmpty })
  match dark with
  | some m => s.askStop 0x0A (some m.unit) 0
  | none => (cut.filter (·.unit == 5) ++ cut.filter (·.unit != 5)).foldl (fun s m => reissue m s)
      (s.oweSpare (cut.foldl (fun d m => laterOf d (s.reissueLate m)) (0, 0)))

/-! ### Blocks that FUS and TND read (R95, R274) -/

/-- Puts stores in the order of their issue cycles. -/
def insertByAge (x : Nat × List Host.Cell) : List (Nat × List Host.Cell) → List (Nat × List Host.Cell)
  | [] => [x]
  | y :: ys => if x.1 < y.1 then x :: y :: ys else y :: insertByAge x ys

/-- Store words of the MOVs under way that have not entered a window or a buffer yet. -/
def State.storesToCome (s : State) : List (Nat × List Host.Cell) :=
  s.str.movs.flatMap (fun m => match planMov s.prof m.f with
    | some q => if q.op.isStore && m.cut.isNone then
        (upTo s.lc).flatMap (fun cl => (m.wordsLeft q s.str.icyc cl).map (fun w => (m.born, m.storeCells q cl w)))
      else []
    | none => [])

/-- Every store issued and not yet written: in flush queues and coalescing buffers, at a buffer's door, in the windows,
and still to be carried, each with its issue cycle. -/
def State.storesAhead (s : State) : List (Nat × List Host.Cell) :=
  let flushing := s.osura.q.filterMap (fun r => match r.who with
    | .flush _ _ _ age => r.wr.map (fun cs => (age, cs))
    | _ => none)
  flushing ++ s.osura.cb.flatMap (fun b => b.2.map (fun e => (e.age, e.bytes))) ++
    s.str.carry.map (fun p => (p.age, p.cells)) ++ s.unserved.map (fun x => (x.age, x.kind.cells)) ++ s.storesToCome

/-- A FUS's or TND's block at issue: it sees every stream store issued before it (R95, R274), the later over the
earlier. -/
def State.readStream (s : State) (a len : Nat) : List Byte :=
  (s.storesAhead.foldl (fun l x => insertByAge x l) []).foldl (fun bs x => overlayCells a bs x.2) (s.readRun a len).1

end Sys2Proof.Machine
end

