-- ==== Sys2Proof/Machine/Lantern.lean ====
section
/-! DEFINITION. The Lanterns at work (spec/11_lanterns_and_fusion.md R266 to R302, spec/18 R449 to R455): commands,
products, operand requests, result beats through the epilogue, relays, tail passes and errors. -/

namespace Sys2Proof.Machine

/-! ### Access -/

def State.lan (s : State) (n : Nat) : Lantern := s.ln.getD n .fresh

def State.modLn (s : State) (n : Nat) (f : Lantern → Lantern) : State := { s with ln := modifyAt s.ln n f }

def State.modProd (s : State) (n cid : Nat) (f : LnProd → LnProd) : State :=
  s.modLn n (fun l => { l with prods := l.prods.map (fun p => if p.cid = cid then f p else p) })

/-- Raises flags of a Lantern (R197, R198). -/
def State.raiseLn (s : State) (n : Nat) (fl : FlagSet) : State :=
  let now := s.clk.ckr / 8
  if fl = flagNone then s
  else s.modLn n (fun l => { l with
    flags := raise l.flags fl, raisedAt := now, raisedNow := raisedIn l.raisedAt now l.raisedNow fl })

/-- A register write clears flags of a Lantern (R198, R205). -/
def State.clearLn (s : State) (n written : Nat) : State :=
  s.modLn n (fun l => { l with
    flags := clearFlags l.flags written ||| keptFlags l.raisedAt (s.clk.ckr / 8) l.raisedNow })

def Lantern.prod (l : Lantern) (cid : Nat) : Option LnProd := l.prods.find? (·.cid == cid)

/-- Fusion ports with an engine (R455). -/
def State.fpPresent (s : State) (n : Nat) : Bool := (s.lan n).present

/-- The Lantern takes no step: halted, suspended, or in an abort handshake. -/
def Lantern.stuck (l : Lantern) : Bool := l.halted || l.suspended || l.abort || l.ack || l.fenced || !l.present

/-! ### Reads (R45, R297) -/

/-- Puts a run of bytes over bytes laid out from an address. -/
def placeRun (a : Nat) (bs : List Byte) (c : Nat) (cs : List Byte) : List Byte :=
  let skip := c - a
  let x := (cs.drop (a - c)).take (bs.length - skip)
  bs.take skip ++ x ++ bs.drop (skip + x.length)

/-- Bytes that a fetch has read at an address. -/
def LnFetch.bytes (f : LnFetch) (a len : Nat) : List Byte :=
  (f.data.filter (fun c => c.1 < a + len && a < c.1 + c.2.length)).foldl (fun bs c => placeRun a bs c.1 c.2)
    (List.replicate len 0#8)

def LnFetch.num (f : LnFetch) (a len : Nat) : Nat := ofBytes (f.bytes a len)

/-- Data of one of the fetch's reads arrive. -/
def LnFetch.take (f : LnFetch) (req : Nat) (bs : List Byte) : LnFetch :=
  match f.out.find? (·.1 == req) with
  | some x => ⟨f.out.filter (·.1 != req), f.data ++ [(x.2, bs)]⟩
  | none => f

/-- Asks for ranges of Osura as LANTERN traffic, line by line; a checked fetch waits for its buoys (R45, R76, R77). -/
def State.lnAsk (s : State) (n : Nat) (checked : Bool) (ranges : List (Nat × Nat)) : LnFetch × State :=
  (ranges.flatMap (fun r => splitRun 1024 (r.2 / 1024 + 2) r.1 r.2 0)).foldl (fun (f, s) (a, len, _) =>
    let req := (s.lan n).nreq
    let s := s.modLn n (fun l => { l with nreq := req + 1 })
    let s := if checked then s.askChecked .lantern (.lantern n req) a len
      else s.askOsura .lantern (.lantern n req) a len none
    (({ f with out := f.out ++ [(req, a)] } : LnFetch), s)) (LnFetch.blank, s)

/-! ### Writes -/

/-- Queues a Lantern write, line by line (R294). -/
def State.lnWrite (s : State) (n cid a : Nat) (bs : List Byte) : State :=
  (splitRun 1024 (bs.length / 1024 + 2) a bs.length 0).foldl (fun s (sa, sl, so) =>
    let req := (s.lan n).nreq
    let s := s.modLn n (fun l => { l with nreq := req + 1, writes := l.writes ++ [(req, cid)] })
    s.askOsura .lantern (.lantern n req) sa sl (some (cellsAt sa ((bs.drop so).take sl)))) s

/-! ### Row state (R279, R290, R291) -/

/-- Row and column tiles of a product. -/
def LnBlock.rowTiles (b : LnBlock) : Nat := ceilDiv b.m 32
def LnBlock.colTiles (b : LnBlock) : Nat := ceilDiv b.n 32

/-- Rows and columns that a result tile holds inside the product. -/
def LnBlock.tileRows (b : LnBlock) (rowt : Nat) : Nat := min 32 (b.m - 32 * rowt)
def LnBlock.tileCols (b : LnBlock) (colt : Nat) : Nat := min 32 (b.n - 32 * colt)

/-- Final statistics of a row: sum, sum of squares, and the flags of joining what is left. -/
def RowStat.totals (p : Profile) (x : RowStat) : Nat × Nat × FlagSet :=
  let (a, f) := pairTotal p x.sum
  let (b, g) := pairTotal p x.sq
  (a, b, f ||| g)

/-- A beat's valid values of row `t`. -/
def beatRow (b : LnBlock) (colt t : Nat) (vals : List Nat) : List Nat := (vals.drop (32 * t)).take (b.tileCols colt)

/-- RSTAT takes a beat of a row tile whose state the product has (R290); the product keeps the states that its last beats
leave, for its tail and its output. -/
def rstatBeat (n : Nat) (p : LnProd) (rowt colt : Nat) (vals : List Nat) (s : State) : State :=
  let prof := p.chain.prof
  let last := colt + 1 = ceilDiv p.blk.n 32
  (upTo (p.blk.tileRows rowt)).foldl (fun s t =>
    let row := 32 * rowt + t
    let x0 := sget RowStat.fresh (s.lan n).stat row
    let (x, fl) := (beatRow p.blk colt t vals).foldl (fun (x, fl) v =>
      let (x, g) := x.add prof v
      (x, fl ||| g)) (x0, flagNone)
    let fl := if last && p.blk.sfinal then fl ||| (x.totals prof).2.2 else fl
    let s := (s.modLn n (fun l => { l with stat := sset RowStat.fresh l.stat row x })).raiseLn n fl
    if last then s.modProd n p.cid (fun p => { p with stat := sset RowStat.fresh p.stat row x }) else s) s

/-- A chain that keeps row state across products, and the last of its stages that does. -/
def LnChain.keepsRows (c : LnChain) : Bool := c.epi.any (fun st => st.code == 0x18 || st.code == 0x19)
def LnChain.lastRowStage (c : LnChain) : Nat :=
  c.epi.zipIdx.foldl (fun m x => if x.1.code = 0x18 || x.1.code = 0x19 then x.2 else m) 0

/-- No earlier product still adds to the row state of a tile: it is the product's turn, for elements are ordered by
product (R290). -/
def Lantern.rowTurn (l : Lantern) (p : LnProd) (i : Nat) : Bool :=
  (l.prods.takeWhile (fun q => q.cid != p.cid)).all (fun q =>
    !(q.chain.keepsRows && i < q.blk.rowTiles && !q.rowsDone.contains i))

/-- A product takes a row tile over; SINIT resets its rows (R279). Row state reaches up to 4,096 rows. -/
def takeRows (n cid i : Nat) (s : State) : State :=
  match (s.lan n).prod cid with
  | none => s
  | some p =>
    let s := if p.blk.sinit then s.modLn n (fun l => { l with
        stat := seraseRange l.stat (32 * i) (min p.blk.m (32 * i + 32))
        osm := seraseRange l.osm (32 * i) (min p.blk.m (32 * i + 32)) }) else s
    s.modProd n cid (fun p => { p with owns := p.owns ++ [i] })

/-- Takes the waiting beats of an owned tile into RSTAT, in order. -/
def takePend (n cid i : Nat) (s : State) : State :=
  match (s.lan n).prod cid with
  | none => s
  | some p =>
    let mine := p.pend.filter (fun b => b.1 == i)
    if mine.isEmpty then s
    else
      let s := s.modProd n cid (fun p => { p with pend := p.pend.filter (fun b => b.1 != i) })
      let s := mine.foldl (fun s b => rstatBeat n p b.1 b.2.1 b.2.2 s) s
      if p.chain.epi[p.chain.lastRowStage]?.any (·.code == 0x18) && mine.any (fun b => b.2.1 + 1 == p.blk.colTiles) then
        s.modProd n cid (fun p => { p with rowsDone := p.rowsDone ++ [i] })
      else s

/-- Row tiles come free for products that wait for them. -/
def rowsFreed (n : Nat) (s : State) : State :=
  (s.lan n).prods.foldl (fun s p =>
    let todo := (upTo (min p.blk.rowTiles 128)).filter (fun i => !p.owns.contains i && (s.lan n).rowTurn p i)
    todo.foldl (fun s i => takePend n p.cid i (takeRows n p.cid i s)) s) s

/-- A product's last beat of a row tile has been through its last stage that keeps row state. -/
def rowsOver (n cid i : Nat) (s : State) : State :=
  rowsFreed n (s.modProd n cid (fun p => { p with rowsDone := p.rowsDone ++ [i] }))

/-- A beat reaches RSTAT: it is taken, or waits for an earlier product. -/
def rstatStage (n : Nat) (p : LnProd) (w : BeatWork) (s : State) : State :=
  if !p.owns.contains w.rowt then s.modProd n p.cid (fun p => { p with pend := p.pend ++ [(w.rowt, w.colt, w.vals)] })
  else
    let s := rstatBeat n p w.rowt w.colt w.vals s
    if w.colt + 1 = p.blk.colTiles && p.chain.lastRowStage = w.stage then rowsOver n p.cid w.rowt s else s

/-! ### Errors (R298) -/

/-- A CHAIN record (R381). -/
def State.chainEv (s : State) (n slot : Nat) (failed : Bool) (cause evtdata : Nat) : State :=
  s.pushOrDrop (s.record 0x06 (n + 4 * slot + 256 * bit failed + 512 * cause) evtdata 0 0)

/-- What a Lantern is at belongs to a product or a LOAD that is gone: it is dropped. -/
def Lantern.forget (l : Lantern) : Lantern :=
  { l with
    epi := l.epi.filter (fun j => (l.prod j.cid).isSome)
    pro := if l.reqs.head?.any (fun h => (l.prod (bitsOf h 25 7)).isSome) then l.pro else none
    tab := if l.q.isEmpty then none else l.tab, relayWait := false
    lastOrder := l.lastOrder.filter (fun x => (l.prod x.1).isSome) }

/-- Abandons products and queued commands of a Lantern: all of them, or those that the stream started. -/
def lnAbandon (n : Nat) (all : Bool) (s : State) : State :=
  let gone (c : Option Nat) : Bool := all || c.isNone
  let l := s.lan n
  let ctls := (l.prods.filterMap (·.ctl)) ++ l.q.filterMap (·.ctl)
  let s := if all then ctls.foldl (fun s c => s.settle c true) s else s
  s.modLn n (fun l => ({ l with
    prods := l.prods.filter (fun p => !gone p.ctl)
    q := l.q.filter (fun c => !gone c.ctl)
    tab := if l.q.head?.any (fun (c : LnCmd) => gone c.ctl) then none else l.tab
    writes := l.writes.filter (fun w => l.prods.any (fun p => p.cid == w.2 && !gone p.ctl)), annWait := false }).forget)

/-- Starts the abort handshake of a connected port (R454). -/
def lnRaiseAbort (n : Nat) (s : State) : State :=
  if (s.lan n).present then s.modLn n (fun l => { l with abort := true, abortAt := if l.abort then l.abortAt else s.clk.cyc })
  else s

/-- Stop cause of the stream for a Lantern's cause (R115, R302). -/
def lnStopCause (cause : Nat) : Nat := if cause = 1 then 0x0A else if cause = 2 then 0x05 else 0x0B

/-- E_DARK or E_CHAIN of a Lantern in one of its announced products (R298): the product is abandoned, the Lantern halts with
its port's abort, and the stream stops naming it where the program started the product; one of the Control ring is
reported by an event, and a product beside it goes on after the handshake. -/
def lnError (n cid cause : Nat) (s : State) : State :=
  let l := s.lan n
  match l.prod cid with
  | none => s
  | some p =>
    let s := match p.ctl with
      | some c => (s.settle c true).chainEv n p.slot true cause p.blk.evtdata
      | none => s
    let s := rowsFreed n (s.modLn n (fun l => ({ l with
      halted := true, cause := cause, prods := l.prods.filter (fun q => q.cid != cid)
      writes := l.writes.filter (fun w => w.2 != cid), named := l.named || p.ctl.isNone }).forget))
    let s := lnRaiseAbort n s
    if p.ctl.isNone then s.askStop (lnStopCause cause) (some 8) 0 else s

/-- A queued command comes to nothing: a LOAD whose table lies in a sector that refuses the read (R61, R298), or a START
whose relayed operand does not fit (R295). Of a FUS, the Lantern halts and the stream stops naming it; of the Control
ring, the descriptor has failed and an event says so. -/
def lnCmdError (n i cause : Nat) (s : State) : State :=
  match (s.lan n).q[i]? with
  | none => s
  | some c =>
    let s := s.modLn n (fun l => { l with q := l.q.eraseIdx i, tab := if i = 0 then none else l.tab })
    match c.ctl with
    | some num => (s.settle num true).chainEv n c.slot true cause ((c.start.map (·.evtdata)).getD 0)
    | none =>
      (lnRaiseAbort n (s.modLn n (fun l => { l with halted := true, cause := cause, named := true }))).askStop
        (lnStopCause cause) (some 8) 0

/-- E_STALL of a Lantern (R83, R298) in a product that `ctl` started, or of the stream's: it is suspended at its waiting
accesses, and the stream stops with E_STALL naming the Lantern; a chain of the Control ring is reported by an event. -/
def lnStall (n : Nat) (ctl : Option Nat) (slot evtdata buoy : Nat) (s : State) : State :=
  let mine (r : AsyncReq) : Bool := (match r.who with
    | .lantern m _ => m == n
    | _ => false) && s.buoyBlocked r
  let q := s.osura.q.map (fun r => if mine r then { r with waited := 0, stalled := true } else r)
  let s := { s with osura := { s.osura with q := q } }.modLn n (fun l => { l with
    waited := 0, relayed := 0, quiet := 0, cause := 2, suspended := true, named := l.named || ctl.isNone })
  if ctl.isSome then s.chainEv n slot false 2 evtdata else s.askStop 0x05 (some 8) buoy

/-- E_STALL in an announced product. -/
def lnStallProd (n : Nat) (p : LnProd) (buoy : Nat) (s : State) : State := lnStall n p.ctl p.slot p.blk.evtdata buoy s

/-- A violation of the port's protocol (R272, R450, R441): a port fault. -/
def lnViolation (n reason : Nat) (s : State) : State :=
  (s.modLn n (fun l => { l with cause := 4 })).detect (s.err 0x07 reason n 0xFF 0)

/-! ### Commands (R273, R274) -/

/-- The chain that a START queued now would run: the last LOAD of its slot ahead of it, else the slot's. -/
def Lantern.chainFor (l : Lantern) (slot : Nat) : Option LnChain :=
  match (l.q.filter (fun c => c.slot == slot && c.load.isSome)).getLast? with
  | some c => c.load
  | none => sget none l.slots slot

/-- Outcome of the checks of a LOAD or START (R274, R278, R280). -/
inductive FusOut where
  | ok (c : LnCmd)
  | bounds
  | chain
  deriving DecidableEq, Repr

/-- Does a block address meet R274? -/
def fusAddrOk (a len : Nat) : Bool := a % 16 == 0 && inOsura a len

/-- How a command's block is read: a FUS sees what the stream has stored, the Keeper what Osura holds (R30, R274). -/
def State.blockBytes (s : State) (ctl : Option Nat) (a len : Nat) : List Byte :=
  if ctl.isNone then s.readStream a len else (s.readRun a len).1

/-- Checks a LOAD whose block stands at `a`, E_BOUNDS before E_CHAIN (R114). DEDUCED: notes/assumptions/25.md. -/
def fusLoad (s : State) (n slot a : Nat) (ctl : Option Nat) : FusOut :=
  if !fusAddrOk a 16 then .bounds
  else
    let len := chainBytes (ofBytes (s.blockBytes ctl a 4))
    if !fusAddrOk a len then .bounds
    else
      match LnChain.ofBytes (s.blockBytes ctl a len) with
      | none => .chain
      | some c =>
        if !c.tablesIn then .bounds
        else if !c.ok n s.fpPresent then .chain
        else .ok ⟨slot, ctl, some c, none⟩

/-- Checks a START whose block stands at `a`, E_BOUNDS before E_CHAIN (R114); `prof` is the running descriptor's for a FUS
(R226). DEDUCED:
notes/assumptions/25.md. -/
def fusStart (s : State) (n slot a : Nat) (ctl : Option Nat) (prof : Option Profile) : FusOut :=
  if !fusAddrOk a 128 then .bounds
  else
    match (s.lan n).chainFor slot with
    | none => .chain
    | some c =>
      let (b, rsvd) := LnBlock.ofBytes (s.blockBytes ctl a 128)
      if !b.boundsOk c then .bounds
      else if !rsvd || !b.chainOk c || (prof.any (fun p => p != c.prof)) || !s.fpPresent n then .chain
      else .ok ⟨slot, ctl, none, some b⟩

/-- Bytes of a command's block. -/
def fusBlockLen (s : State) (op a : Nat) : Nat := if op = 1 then chainBytes (ofBytes (s.readStream a 4)) else 128

/-- Room in a Lantern's queue of 4. -/
def State.lnRoom (s : State) (n : Nat) : Bool := (s.lan n).q.length < 4

def State.lnPut (s : State) (n : Nat) (c : LnCmd) : State := s.modLn n (fun l => { l with q := l.q ++ [c] })

/-- The LOAD at the head of the queue takes effect once its tables have been read (R275). -/
def loadDone (n : Nat) (s : State) : State :=
  let l := s.lan n
  match l.q, l.tab with
  | c :: rest, some f =>
    match c.load with
    | some ch =>
      if !f.out.isEmpty then s
      else
        let tabs := ch.tables.map (fun t => (t.1, f.bytes t.2.1 t.2.2))
        let s := s.modLn n (fun l => { l with
          q := rest, tab := none, slots := sset none l.slots c.slot (some { ch with tabs := tabs }) })
        match c.ctl with
        | some num => s.settle num false
        | none => s
    | none => s
  | _, _ => s

/-- LOAD_TAKE_EFFECT (R275): no earlier product is unfinished; the tables are asked for, and the slot is set when the
last of them has been read. -/
def execLoadTakeEffect (ln : Fin 4) (s : State) : Host.Outcome State Fault Refusal :=
  let n := ln.val
  let l := s.lan n
  match l.q.head?.bind (·.load) with
  | none => .next s
  | some ch =>
    if l.stuck || !l.prods.isEmpty || l.tab.isSome || !s.rst.ready then .next s
    else
      let (f, s) := s.lnAsk n false (ch.tables.map (·.2))
      .next (loadDone n (s.modLn n (fun l => { l with tab := some f })))

/-! ### Relays (R295) -/

/-- Bytes of a relayed beat. -/
def RelayBeat.bytes (b : RelayBeat) : Nat := 1024 * ((Fmt.ofCode b.fmt).getD .fp32).width / 8

/-- The operand of a product that a relayed beat feeds. -/
def LnProd.feeds (p : LnProd) (src seq : Nat) : Option Nat :=
  if p.chain.relaySrc 0 = some src && p.relA = seq then some 0
  else if p.chain.relaySrc 1 = some src && p.relB = seq then some 1
  else none

/-- K-chunks of an operand. -/
def LnProd.chunksOf (p : LnProd) (path : Nat) : Nat := ceilDiv p.blk.kd (p.chain.perVector path)

/-- Have all requests that need a relayed beat been made? Its space is then free (R295). -/
def Lantern.beatAsked (l : Lantern) (b : RelayBeat) : Bool :=
  l.prods.any (fun p => match p.feeds b.src b.seq with
    | some path =>
      let e := p.chain.perVector path
      let h0 := 32 * b.colt / e
      let h1 := min ((32 * b.colt + 31) / e) (p.chunksOf path - 1)
      (fromTo h0 (h1 + 1 - h0)).all (fun h => p.asked.contains (path, b.rowt, h))
    | none => false)

/-- Bytes of the relay buffer in use. -/
def Lantern.relayUsed (l : Lantern) : Nat :=
  l.relay.foldl (fun n b => if l.beatAsked b then n else n + b.bytes) 0

/-- Do a relaying product's dimensions and format fit the product it feeds (R295), and do the factors that its RESC
takes come with the row tile (R292)? -/
def relayFits (c : LnChain) (k : LnBlock) (path : Nat) (b : RelayBeat) (factors : Bool) : Bool :=
  b.m == (if path = 0 then k.m else k.n) && b.n == k.kd && b.fmt == c.srcCode path &&
    (factors || c.count 0x1A = 0 || (path = 1 && (c.relaySrc 0).isSome))

/-- The START among queued commands that relayed product `seq` of port `src` will feed, with its place, chain, block and
operand; `slots` are the chains as the commands before it leave them, and `k` counts the products that the port feeds.
An empty product takes no part in the pairing (R280, R295). -/
def queuedFor (src seq : Nat) : List LnCmd → Nat → Sparse (Option LnChain) → Nat → Option (Nat × LnChain × LnBlock × Nat)
  | [], _, _, _ => none
  | c :: cs, i, slots, k =>
    match c.load, c.start with
    | some ch, _ => queuedFor src seq cs (i + 1) (sset none slots c.slot (some ch)) k
    | none, some b =>
      match sget none slots c.slot with
      | some ch =>
        let a := bit (ch.relaySrc 0 == some src)
        let z := bit (ch.relaySrc 1 == some src)
        if b.empty then queuedFor src seq cs (i + 1) slots k
        else if a = 1 && k = seq then some (i, ch, b, 0)
        else if z = 1 && k + a = seq then some (i, ch, b, 1)
        else queuedFor src seq cs (i + 1) slots (k + a + z)
      | none => queuedFor src seq cs (i + 1) slots k
    | none, none => queuedFor src seq cs (i + 1) slots k

/-- The relay target of a chain. -/
def LnChain.relayTo (c : LnChain) : Option Nat := (c.epi.find? (·.code == 0x1E)).map (fun st => bitsOf st.p16 0 2)

/-- Room in the target's relay buffer for one more beat of format `f` (R295). -/
def State.relayRoom (s : State) (p : LnProd) (f : Fmt) : Bool :=
  match p.chain.relayTo with
  | none => true
  | some t => (s.lan t).relayUsed + 1024 * f.width / 8 ≤ 262144

/-! ### The prologue -/

/-- Addresses that one element of a path reads, GATHER's index apart (R281, R284). -/
def ProCtx.reads (x : ProCtx) : List (LnStage × Nat) → Nat → Nat → List (Nat × Nat)
  | [], row, k =>
    let f := (Fmt.ofCode (x.chain.srcCode x.path)).getD .fp32
    let base := x.blk.areg x.path
    let str := if x.path = 0 then x.blk.astr else x.blk.bstr
    let at_ (a i : Nat) : Nat × Nat := (a + i * f.width / 8, ceilDiv f.width 8)
    let sts := x.chain.pathStages x.path
    if (x.chain.relaySrc x.path).isSome then []
    else
      match sts.find? (·.code == 0x02) with
      | some st =>
        let q := x.read (x.blk.areg st.ar + 4 * row) 4
        let bad := if bitOf st.p16 13 then st.w1 ≤ q else 2 ^ 31 ≤ q || st.w1 ≤ q
        if bad then [] else [at_ (base + q * str) k]
      | none => if sts.any (·.code == 0x01) then [at_ (base + k * str) row] else [at_ (base + row * str) k]
  | (st, _) :: earlier, row, k =>
    match st.code with
    | 0x03 =>
      let n := if bitOf st.p16 2 then k else row
      let own := if bitsOf st.p16 0 2 = 2 then
          (x.blk.areg st.ar + 4 * n, 4) :: (if bitOf st.p16 3 then [(x.blk.areg st.ar + st.w2 + 4 * n, 4)] else [])
        else []
      own ++ x.reads earlier row k
    | 0x04 => (x.blk.areg st.ar + row * st.w1 + k / 32, 1) :: x.reads earlier row k
    | 0x05 =>
      let kk := k % st.w2
      let n := bitsOf st.p16 0 8 + 1
      if 2 * n ≤ kk then x.reads earlier row k
      else
        let mate := if bitOf st.p16 8 then (if n ≤ kk then k - n else k + n)
          else (if kk % 2 = 1 then k - 1 else k + 1)
        x.reads earlier row k ++ (if mate < x.blk.kd then x.reads earlier row mate else [])
    | _ => x.reads earlier row k

/-- Runs of ECC words, neighbours joined. -/
def wordRuns (ws : List Nat) : List (Nat × Nat) :=
  ws.foldl (fun (out : List (Nat × Nat)) w =>
    match out.getLast? with
    | some (a, len) => if a + len = 8 * w then out.dropLast ++ [(a, len + 8)] else out ++ [(8 * w, 8)]
    | none => [(8 * w, 8)]) []

/-- Ranges that an operand beat reads, each ECC word once. -/
def ProCtx.beatReads (x : ProCtx) (i h : Nat) : List (Nat × Nat) :=
  let e := x.chain.perVector x.path
  let rows := if x.path = 0 then x.blk.m else x.blk.n
  let sts := x.chain.pathRev x.path
  let all := (upTo 32).flatMap (fun t => (upTo e).flatMap (fun j =>
    if 32 * i + t < rows && e * h + j < x.blk.kd then x.reads sts (32 * i + t) (e * h + j) else []))
  wordRuns (dedup (all.flatMap (fun r => [r.1 / 8, (r.1 + r.2 - 1) / 8])) [])

/-- GATHER's indices of an operand block, which are read before its rows (R284). -/
def ProCtx.indexReads (x : ProCtx) (i : Nat) : List (Nat × Nat) :=
  let rows := if x.path = 0 then x.blk.m else x.blk.n
  match (x.chain.pathStages x.path).find? (·.code == 0x02) with
  | some st => [(x.blk.areg st.ar + 128 * i, 4 * min 32 (rows - 32 * i))]
  | none => []

/-- A relayed element (R295). -/
def Lantern.relayElem (l : Lantern) (src seq row k : Nat) : Nat :=
  match l.relay.find? (fun b => b.src == src && b.seq == seq && b.rowt == row / 32 && b.colt == k / 32) with
  | some b => b.vals.getD (row % 32 * 32 + k % 32) 0
  | none => 0

/-- Depth positions that an element of a path needs: its own, and the pair's other one for each ROPE (R286). -/
def depthNeeds (kd : Nat) : List (LnStage × Nat) → Nat → List Nat
  | [], k => [k]
  | (st, _) :: earlier, k =>
    if st.code = 0x05 then
      let kk := k % st.w2
      let n := bitsOf st.p16 0 8 + 1
      let mate := if bitOf st.p16 8 then (if n ≤ kk then k - n else k + n) else (if kk % 2 = 1 then k - 1 else k + 1)
      if 2 * n ≤ kk || kd ≤ mate then depthNeeds kd earlier k
      else depthNeeds kd earlier k ++ depthNeeds kd earlier mate
    else depthNeeds kd earlier k

/-- Has the relayed data of an operand beat come? -/
def Lantern.relayHere (l : Lantern) (p : LnProd) (path i h : Nat) : Bool :=
  match p.chain.relaySrc path with
  | none => true
  | some src =>
    let seq := if path = 0 then p.relA else p.relB
    let e := p.chain.perVector path
    let ks := (fromTo (e * h) (min p.blk.kd (e * h + e) - e * h)).flatMap (depthNeeds p.blk.kd (p.chain.pathRev path))
    (dedup (ks.map (· / 32)) []).all (fun j =>
      l.relay.any (fun b => b.src == src && b.seq == seq && b.rowt == i && b.colt == j))

/-- Drops the relayed beats of a row tile all of whose chunks have been requested and answered. -/
def Lantern.dropAsked (l : Lantern) (p : LnProd) (path i : Nat) : Lantern :=
  match p.chain.relaySrc path with
  | none => l
  | some src =>
    let seq := if path = 0 then p.relA else p.relB
    if (upTo (p.chunksOf path)).all (fun h => p.asked.contains (path, i, h)) &&
        l.reqs.all (fun r => !(bitsOf r 25 7 == p.cid && bitsOf r 0 12 == i && bitOf r 24 == (path == 1))) then
      { l with relay := l.relay.filter (fun b => !(b.src == src && b.seq == seq && b.rowt == i)) }
    else l

/-- All result beats of a product have come and no operand request of it waits: its last source read has been served
(R279). DESIGN CHOICE: notes/assumptions/25.md. -/
def Lantern.sourcesOver (l : Lantern) (p : LnProd) : Bool :=
  (p.next.map (·.2)).foldl (· + ·) 0 == p.blk.rowTiles * p.blk.colTiles && l.reqs.all (fun r => bitsOf r 25 7 != p.cid)

/-- Releases of ABUOY and BBUOY (R76, R279). -/
def blockReleases (b : LnBlock) (s : State) : State :=
  let s := if b.arel then s.release b.abuoy 2 else s
  if b.brel then s.release b.bbuoy 2 else s

/-- A product whose last source read has been served releases its buoys, once (R279). -/
def lnSources (n cid : Nat) (s : State) : State :=
  match (s.lan n).prod cid with
  | some p =>
    if !p.released && (s.lan n).sourcesOver p then
      blockReleases p.blk (s.modProd n cid (fun p => { p with released := true }))
    else s
  | none => s

/-- Answers requests in the order they came: the first one's reads are asked, GATHER's indices before the rows, and the
beat goes out when they have been served (R268, R297). -/
def lnAnswerGo : Nat → Nat → State → State
  | 0, _, s => s
  | fuel + 1, n, s =>
    let l := s.lan n
    match l.reqs with
    | [] => s
    | h :: rest =>
      match l.prod (bitsOf h 25 7) with
      | none => lnAnswerGo fuel n (s.modLn n (fun l => { l with reqs := rest, pro := none }))
      | some p =>
        let path := bitsOf h 24 1
        let i := bitsOf h 0 12
        let k := bitsOf h 12 12
        let seq := if path = 0 then p.relA else p.relB
        let src := (p.chain.relaySrc path).getD 0
        let ctx (f : LnFetch) : ProCtx := ⟨p.chain, p.blk, path, f.num, fun r c => l.relayElem src seq r c⟩
        if l.stuck then s
        else
          match l.pro with
          | none =>
            if !l.relayHere p path i k then s
            else
              let (f, s) := s.lnAsk n false ((ctx .blank).indexReads i)
              lnAnswerGo fuel n (s.modLn n (fun l => { l with pro := some (false, f) }))
          | some (rows, f) =>
            if !f.out.isEmpty then s
            else if !rows then
              let (g, s) := s.lnAsk n false ((ctx f).beatReads i k)
              lnAnswerGo fuel n (s.modLn n (fun l => { l with pro := some (true, { g with data := f.data }) }))
            else
              let (bytes, fl) := operandBeat (ctx f) i k
              let s := (s.raiseLn n fl).modLn n (fun l => ({ l with reqs := rest, pro := none }).dropAsked p path i)
              lnAnswerGo fuel n (lnSources n p.cid { s with out := s.out ++ [.operand n h bytes] })

def lnAnswer (n : Nat) (s : State) : State := lnAnswerGo 99 n s

/-- A relayed beat reaches its target, and requests that waited for it are answered; a mismatch, or factors that RESC
misses, stop the stream naming the target (R268, R292, R295). -/
def relayPush (tgt : Nat) (b : RelayBeat) (s : State) : State :=
  let l := s.lan tgt
  let bad := l.prods.find? (fun p => (p.feeds b.src b.seq).any (fun path => !relayFits p.chain p.blk path b b.factors.isSome))
  let queued := (queuedFor b.src b.seq l.q 0 l.slots (sget 0 l.relIn b.src)).filter (fun x =>
    !relayFits x.2.1 x.2.2.1 x.2.2.2 b b.factors.isSome)
  match bad, queued with
  | some p, _ => lnError tgt p.cid 3 s
  | none, some x => lnCmdError tgt x.1 3 s
  | none, none =>
    lnAnswer tgt (s.modLn tgt (fun l => { l with
      relay := l.relay ++ [{ b with factors := none }]
      facs := if b.colt = 0 then l.facs ++ [{ b with vals := [] }] else l.facs }))

/-! ### The epilogue -/

/-- Ranges that a stage fetches for a beat (R288). -/
def stageReads (b : LnBlock) (st : LnStage) (first : Bool) (rowt colt : Nat) : List (Nat × Nat) :=
  let r0 := 32 * rowt
  let c0 := 32 * colt
  let nr := b.tileRows rowt
  let nc := b.tileCols colt
  let a := b.areg st.ar
  let vec (src : Nat) : List (Nat × Nat) :=
    if src = 1 then [(a + 4 * r0, 4 * nr)] else if src = 2 then [(a + 4 * c0, 4 * nc)] else []
  match st.code with
  | 0x10 => vec (bitsOf st.p16 0 3)
  | 0x11 => vec (bitsOf st.p16 0 2)
  | 0x12 =>
    let w := (st.fmt.getD .fp32).width
    (upTo nr).map (fun t => (a + (r0 + t) * st.w1 + c0 * w / 8, ceilDiv (nc * w) 8))
  | 0x16 => if bitsOf st.p16 0 2 = 2 then [(a + 4 * r0, 4 * nr)] else []
  | 0x1A => if first then [] else (upTo nr).map (fun t => (a + (r0 + t) * st.w1 + 4 * c0, 4 * nc))
  | 0x1F => [(b.areg (bitsOf st.p16 0 3) + 4 * r0, 4 * nr)]
  | _ => []

/-- OSMX's factors with SINIT and SFINAL, as RELAY carries them. -/
abbrev RowFactors := List (Nat × Nat) × Bool × Bool

/-- The factors that arrived with the row tile a product's row tile was computed from (R292). -/
def Lantern.factorsFor (l : Lantern) (p : LnProd) (rowt : Nat) : Option RowFactors :=
  let find (src seq : Nat) : Option RowFactors :=
    (l.facs.find? (fun b => b.src == src && b.seq == seq && b.rowt == rowt)).bind (·.factors)
  match p.chain.relaySrc 0 with
  | some src => find src p.relA
  | none => (p.chain.relaySrc 1).bind (fun src => find src p.relB)

/-- One element-wise stage over a beat. -/
def epiBeat (x : EpiCtx) (st : LnStage) (f : Fmt) (rowt colt : Nat) (vals : List Nat) : List Nat × FlagSet :=
  let out := vals.zipIdx.map (fun (v, i) =>
    let r := 32 * rowt + i / 32
    let c := 32 * colt + i % 32
    if r < x.blk.m && c < x.blk.n then epiElem x st f r c v else (0, flagNone))
  (out.map (·.1), out.foldl (fun a o => a ||| o.2) flagNone)

/-- Bytes of one row of a beat in a format, as whole containers (R288). -/
def rowOut (b : LnBlock) (f : Fmt) (colt t : Nat) (vals : List Nat) : List Byte :=
  toBytes (paddedBytes (b.tileCols colt) f.width) (packElems f.width (beatRow b colt t vals))

/-- WRITE (R288). -/
def writeBeat (n : Nat) (p : LnProd) (st : LnStage) (f : Fmt) (rowt colt : Nat) (vals : List Nat) (s : State) : State :=
  (upTo (p.blk.tileRows rowt)).foldl (fun s t =>
    let a := p.blk.areg st.ar + (32 * rowt + t) * st.w1 + 32 * colt * f.width / 8
    s.lnWrite n p.cid a (rowOut p.blk f colt t vals)) s

/-- SCAT (R288): an index at or beyond W2 drops the row and raises NV. -/
def scatBeat (n : Nat) (p : LnProd) (st : LnStage) (f : Fmt) (rowt colt : Nat) (vals : List Nat) (read : LnFetch)
    (s : State) : State :=
  let idx := p.blk.areg (bitsOf st.p16 0 3)
  (upTo (p.blk.tileRows rowt)).foldl (fun s t =>
    let q := read.num (idx + 4 * (32 * rowt + t)) 4
    if st.w2 ≤ q then s.raiseLn n flagNV
    else s.lnWrite n p.cid (p.blk.areg st.ar + q * st.w1 + 32 * colt * f.width / 8) (rowOut p.blk f colt t vals)) s

/-- PARK (R293): the beat is stored whole; with TAIL = 0 its requests are remembered for the tail. -/
def parkBeat (n : Nat) (p : LnProd) (st : LnStage) (f : Fmt) (rowt colt : Nat) (vals : List Nat) (s : State) : State :=
  let ct := ceilDiv p.blk.n 32
  let bb := 1024 * f.width / 8
  let from_ := (s.lan n).nreq
  let s := s.lnWrite n p.cid (p.blk.areg st.ar + (rowt * ct + colt) * bb) (toBytes bb (packElems f.width vals))
  if bitOf st.p16 0 then s
  else
    let reqs := (fromTo from_ ((s.lan n).nreq - from_)).map (fun r => (r, rowt))
    (s.modProd n p.cid (fun p => { p with parkReqs := p.parkReqs ++ reqs })).modLn n (fun l => { l with
      lastOrder := if colt + 1 = ct then l.lastOrder ++ [(p.cid, rowt)] else l.lastOrder })

/-- OSMX on a buffered row tile (R291): factors and p values per row, the state being updated. -/
def osmxTile (n : Nat) (p : LnProd) (rowt : Nat) (s : State) : RowFactors × List (List Nat) × State :=
  let ct := ceilDiv p.blk.n 32
  let mine := p.osmx.filter (fun b => b.1 == rowt)
  let row (t : Nat) : List Nat := (upTo ct).flatMap (fun j =>
    match mine.find? (fun b => b.2.1 == j) with
    | some b => beatRow p.blk j t b.2.2
    | none => [])
  let (fs, ps, s) := (upTo (p.blk.tileRows rowt)).foldl (fun (fs, ps, s) t =>
    let key := 32 * rowt + t
    let st0 := sget (0xFF800000, 0) (s.lan n).osm key
    let (st, f, pv, fl) := osmxRow p.chain.prof st0.1 st0.2 (row t)
    let s := (s.modLn n (fun l => { l with osm := sset (0xFF800000, 0) l.osm key st })).raiseLn n fl
    (fs ++ [(f, st.2)], ps ++ [pv], s)) (([], [], s) : List (Nat × Nat) × List (List Nat) × State)
  let beats := (upTo ct).map (fun j => (upTo 32).flatMap (fun t =>
    let v := ((ps.getD t []).drop (32 * j)).take 32
    v ++ List.replicate (32 - v.length) 0))
  ((fs, p.blk.sinit, p.blk.sfinal), beats, s.modProd n p.cid (fun p => { p with osmx := p.osmx.filter (fun b => b.1 != rowt) }))

/-- An owned row tile's OSMX is made: its beats for the next stage (R291). -/
def osmxWork (n : Nat) (p : LnProd) (stage rowt : Nat) (s : State) : List BeatWork × State :=
  let (fac, beats, s) := osmxTile n p rowt s
  ((upTo p.blk.colTiles).map (fun j => ⟨stage + 1, rowt, j, beats.getD j [], some fac, false⟩),
    if p.chain.lastRowStage = stage then rowsOver n p.cid rowt s else s)

/-- A chain with a tail pass. -/
def LnChain.hasTail (c : LnChain) : Bool := c.epi.any (fun st => st.code == 0x1C && !bitOf st.p16 0)

/-- The epilogue's work goes on with `work`; nothing is fetched. -/
def State.epiNext (s : State) (n : Nat) (work : List BeatWork) : State :=
  s.modLn n (fun l => { l with epi := l.epi.map (fun j => { j with work := work, fetch := none }), relayWait := false, relayed := 0 })

/-- RESID has read a beat; after the product's last one it releases its buoy (R76, R288). -/
def residRead (n : Nat) (p : LnProd) (w : BeatWork) (st : LnStage) (s : State) : State :=
  let s := s.modProd n p.cid (fun p => { p with fetches := smod 0 p.fetches w.stage (· + 1) })
  if sget 0 p.fetches w.stage + 1 = p.blk.rowTiles * p.blk.colTiles && bitOf st.p16 13 then s.release (bitsOf st.p16 5 8) 2
  else s

/-- One stage works on a beat, its reads being here (R287, R288). -/
def runStage (n : Nat) (p : LnProd) (w : BeatWork) (rest : List BeatWork) (st : LnStage) (read : LnFetch) (s : State) :
    State :=
  let f := p.chain.carried w.stage
  let next (vals : List Nat) (s : State) : State := s.epiNext n ({ w with stage := w.stage + 1, vals := vals } :: rest)
  match st.code with
  | 0x18 => next w.vals (rstatStage n p w s)
  | 0x19 =>
    let p := { p with osmx := p.osmx ++ [(w.rowt, w.colt, w.vals)] }
    let s := s.modProd n p.cid (fun _ => p)
    if w.colt + 1 < p.blk.colTiles then s.epiNext n rest
    else if !p.owns.contains w.rowt then s.modLn n (fun l => { l with epi := none, relayWait := false })
    else
      let (work, s) := osmxWork n p w.stage w.rowt s
      s.epiNext n (work ++ rest)
  | 0x1C => (parkBeat n p st f w.rowt w.colt w.vals s).epiNext n rest
  | 0x1D => next w.vals (writeBeat n p st f w.rowt w.colt w.vals s)
  | 0x1F => next w.vals (scatBeat n p st f w.rowt w.colt w.vals read s)
  | 0x1E =>
    let b : RelayBeat := ⟨n, p.relO, p.blk.m, p.blk.n, w.rowt, w.colt, f.code, w.vals, w.fac⟩
    relayPush (bitsOf st.p16 0 2) b (next w.vals s)
  | _ =>
    let facs := (s.lan n).factorsFor p w.rowt
    let x : EpiCtx :=
      { prof := p.chain.prof, blk := p.blk, read := read.num
        stat := fun r =>
          let t := (sget RowStat.fresh p.stat r).totals p.chain.prof
          (t.1, t.2.1)
        factor := fun r => match facs with
          | some (fs, a, b) =>
            let v := fs.getD (r % 32) (0, 0)
            (v.1, v.2, a, b)
          | none => (0, 0, false, false) }
    let (vals, fl) := epiBeat x st f w.rowt w.colt w.vals
    let s := (next vals s).raiseLn n fl
    if st.code = 0x12 then residRead n p w st s else s

/-- A tail pass's beat in the park area (R293): its address, its bytes, and the width of a value. -/
def LnProd.parkPlace (p : LnProd) (w : BeatWork) : Nat × Nat × Nat :=
  let st := p.chain.epi.find? (·.code == 0x1C)
  let bits := (p.chain.carried (p.chain.epi.findIdx (·.code == 0x1C))).width
  let bb := 1024 * bits / 8
  (((st.map (fun st => p.blk.areg st.ar)).getD 0) + (w.rowt * p.blk.colTiles + w.colt) * bb, bb, bits)

/-- All of a product's beats have been through the epilogue, tails included. -/
def LnProd.worked (p : LnProd) : Bool :=
  p.tilesDone == p.blk.rowTiles * p.blk.colTiles && (!p.chain.hasTail || p.tailed.length == p.blk.rowTiles) && p.pend.isEmpty

/-- RSTAT's output, once the SFINAL product has had its last beat (R290). -/
def statWrites (n cid : Nat) (s : State) : State :=
  match (s.lan n).prod cid with
  | none => s
  | some p =>
    match p.chain.epi.find? (fun st => st.code == 0x18 && bitOf st.p16 0) with
    | none => s
    | some st =>
      if p.statOut || !p.blk.sfinal || !p.worked then s
      else
        let s := s.modProd n cid (fun p => { p with statOut := true })
        (upTo p.blk.m).foldl (fun s r =>
          let x := sget RowStat.fresh p.stat r
          let (a, b, _) := x.totals p.chain.prof
          s.lnWrite n cid (p.blk.areg st.ar + 16 * r)
            (toBytes 4 (x.max.getD 0xFF800000) ++ toBytes 4 a ++ toBytes 4 b ++ toBytes 4 (x.count % 2 ^ 32))) s

/-- A beat leaves the result buffer for the first stage, and its credit goes back (R271); `none` while writes of earlier
beats are still to be served (R294, R297). -/
def takeBeat (n : Nat) (s : State) : Option State :=
  let l := s.lan n
  match l.writes, l.buf with
  | [], (h, vals) :: rest =>
    let s := s.modLn n (fun l => { l with buf := rest, engCredits := l.engCredits + 1 })
    match l.prod (bitsOf h 25 7) with
    | none => some s
    | some p =>
      let rowt := bitsOf h 0 12
      let colt := bitsOf h 12 12
      let vals := vals.zipIdx.map (fun (v, i) =>
        if 32 * rowt + i / 32 < p.blk.m && 32 * colt + i % 32 < p.blk.n then v else 0)
      some (s.modLn n (fun l => { l with epi := some ⟨p.cid, none, [⟨0, rowt, colt, vals, none, false⟩], none⟩ }))
  | _, _ => none

/-- The epilogue's job is over: a beat of the product is done, or a row tile's tail (R282, R293). -/
def epiOver (n : Nat) (j : EpiJob) (s : State) : State :=
  let s := s.modLn n (fun l => { l with epi := none, relayWait := false })
  statWrites n j.cid (s.modProd n j.cid (fun p => match j.tail with
    | none => { p with tilesDone := p.tilesDone + 1 }
    | some i => { p with tailed := p.tailed ++ [i] }))

/-- The epilogue's next step: a stage asks for what it reads once its Lantern's earlier writes have been served (R294),
and works when that has come; `none` while it waits (R297). -/
def epiStep (n : Nat) (j : EpiJob) (s : State) : Option State :=
  let l := s.lan n
  match l.prod j.cid, j.work with
  | none, _ => some (s.modLn n (fun l => { l with epi := none, relayWait := false }))
  | some _, [] => some (epiOver n j s)
  | some p, w :: rest =>
    let ask (checked : Bool) (ranges : List (Nat × Nat)) : Option State :=
      if !l.writes.isEmpty then none
      else
        let (f, s) := s.lnAsk n checked ranges
        some (s.modLn n (fun l => { l with epi := some { j with fetch := some f } }))
    let (at_, bb, bits) := p.parkPlace w
    match (if w.parked then none else p.chain.epi[w.stage]?), j.fetch with
    | none, none => if w.parked then ask false [(at_, bb)] else some (s.epiNext n rest)
    | none, some f =>
      if !f.out.isEmpty then none
      else
        let x := f.num at_ bb
        some (s.epiNext n ({ w with vals := (upTo 1024).map (fun v => bitsOf x (v * bits) bits), parked := false } :: rest))
    | some st, none =>
      let facs := l.factorsFor p w.rowt
      let ranges := stageReads p.blk st ((facs.map (·.2.1)).getD false) w.rowt w.colt
      if st.code = 0x1A && facs.isNone then some (lnError n p.cid 3 s)
      else if st.code = 0x1E && !s.relayRoom p (p.chain.carried w.stage) then none
      else if ranges.isEmpty then some (runStage n p w rest st .blank s)
      else ask (st.code == 0x12) ranges
    | some st, some f => if f.out.isEmpty then some (runStage n p w rest st f s) else none

/-- A row tile that OSMX has buffered whole while an earlier product had its row state, and that it may now work on. -/
def Lantern.osmxReady (l : Lantern) : Option (LnProd × Nat) :=
  l.prods.findSome? (fun p => (dedup (p.osmx.map (·.1)) []).findSome? (fun i =>
    if p.owns.contains i && (p.osmx.filter (fun b => b.1 == i)).length == p.blk.colTiles then some (p, i) else none))

/-- OSMX works on such a row tile. -/
def osmxStart (n : Nat) (s : State) : Option State :=
  (s.lan n).osmxReady.map (fun x =>
    let (work, s) := osmxWork n x.1 (x.1.chain.epi.findIdx (·.code == 0x19)) x.2 s
    s.modLn n (fun l => { l with epi := some ⟨x.1.cid, none, work, none⟩ }))

/-- The epilogue waits for room in a relay buffer (R295). -/
def State.relayStalled (s : State) (n : Nat) : Bool :=
  let l := s.lan n
  match l.epi with
  | some j =>
    match l.prod j.cid, j.work with
    | some p, w :: _ => !w.parked && (p.chain.epi[w.stage]?).any (·.code == 0x1E) && !s.relayRoom p (p.chain.carried w.stage)
    | _, _ => false
  | none => false

/-- The epilogue works on while it can. -/
def lnPumpGo : Nat → Nat → State → State
  | 0, _, s => s
  | fuel + 1, n, s =>
    let l := s.lan n
    if l.stuck then s
    else
      match (match l.epi with
        | some j => epiStep n j s
        | none => (osmxStart n s).orElse (fun _ => takeBeat n s)) with
      | some s' => lnPumpGo fuel n s'
      | none => s

def lnPump (n : Nat) (s : State) : State :=
  let s := lnPumpGo 4096 n s
  if (s.lan n).relayWait == s.relayStalled n then s else s.modLn n (fun l => { l with relayWait := !l.relayWait })

def lnPumpAll (s : State) : State := (upTo 4).foldl (fun s n => lnPump n s) s

/-! ### Rows of the table -/

/-- RESULT_BEAT (R270 to R272, R450): a beat spends a credit and enters the result buffer. A half 1 without its half 0, or
with another RHDR, is a violation. -/
def execResultBeat (ln : Fin 4) (hdr0 : Option Word) (hdr1 : Word) (data : List Word) (s : State) : Host.Outcome State Fault Refusal :=
  let n := ln.val
  let l := s.lan n
  let h := hdr1.toNat
  let rowt := bitsOf h 0 12
  let colt := bitsOf h 12 12
  if hdr0.isSome && data.length != 1024 then .refused .illFormed
  else if l.abort || l.ack || l.fenced || !l.present || !s.rst.ready then .next s
  else if hdr0 != some hdr1 || l.engCredits = 0 then .next (lnViolation n 4 s)
  else
    match l.prod (bitsOf h 25 7) with
    | none => .next (lnViolation n 4 s)
    | some p =>
      let got := sget 0 p.next rowt
      let inOrder := !(p.chain.count 0x19 == 1) ||
        (upTo rowt).all (fun i => sget 0 p.next i == p.blk.colTiles)
      if rowt < p.blk.rowTiles && colt == got && colt < p.blk.colTiles &&
          bitOf h 24 == (colt + 1 == p.blk.colTiles) && inOrder then
        let s := s.modLn n (fun l => { l with
          engCredits := l.engCredits - 1, buf := l.buf ++ [(h, data.map BitVec.toNat)], quiet := 0 })
        .next (lnPump n (lnSources n p.cid (s.modProd n p.cid (fun p => { p with next := sset 0 p.next rowt (got + 1) }))))
      else .next (lnViolation n 4 s)

/-- The product and row tile whose tail may run next: the one whose LAST beat arrived first, once its park writes have
been served and its row statistics are final (R290, R293). -/
def Lantern.tailNext (l : Lantern) : Option (LnProd × Nat × List (Nat × Nat)) :=
  match l.lastOrder with
  | (cid, i) :: rest =>
    match l.prod cid with
    | some p =>
      if p.parkReqs.all (fun r => r.2 != i) && p.pend.all (fun b => b.1 != i) then some (p, i, rest) else none
    | none => none
  | [] => none

/-- TAIL_PASS_START (R293): the tail pass of a row tile begins; its beats are read in ascending COLT. -/
def execTailPassStart (ln : Fin 4) (s : State) : Host.Outcome State Fault Refusal :=
  let n := ln.val
  let l := s.lan n
  match l.tailNext with
  | none => .next s
  | some (p, i, rest) =>
    if l.stuck || l.epi.isSome then .next s
    else
      let k := p.chain.epi.findIdx (·.code == 0x1C) + 1
      let work := (upTo p.blk.colTiles).map (fun j => (⟨k, i, j, [], none, true⟩ : BeatWork))
      .next (lnPump n (s.modLn n (fun l => { l with lastOrder := rest, epi := some ⟨p.cid, some i, work, none⟩ })))

/-- Announce words (R269). -/
def announceWords (cid : Nat) (c : LnChain) (b : LnBlock) : List Nat :=
  let code (path : Nat) : Nat := ((c.delivered path).map Fmt.code).getD 0
  [cid + code 0 * 2 ^ 7 + code 1 * 2 ^ 12, b.m, b.n, b.kd] ++ (upTo 12).map (fun i => b.eng.getD i 0)

/-- Producer completions of a finished product (R75, R282). -/
def lnCounts (c : LnChain) (s : State) : State :=
  c.epi.foldl (fun s st =>
    match st.code with
    | 0x1C => if bitOf st.p16 9 then s.complete (bitsOf st.p16 1 8) 2 else s
    | 0x1D => if bitOf st.p16 8 then s.complete (bitsOf st.p16 0 8) 2 else s
    | 0x1F => if bitOf st.p16 11 then s.complete (bitsOf st.p16 3 8) 2 else s
    | _ => s) s

/-- Completions and releases of an empty product, which fetches nothing (R280). -/
def emptyCounts (c : LnChain) (b : LnBlock) (s : State) : State :=
  c.epi.foldl (fun s st =>
    if st.code = 0x12 && bitOf st.p16 13 then s.release (bitsOf st.p16 5 8) 2 else s) (blockReleases b (lnCounts c s))

/-- What is written when a product is over: its event, and its descriptor's completion. -/
def lnReport (n slot : Nat) (ctl : Option Nat) (b : LnBlock) (s : State) : State :=
  let s := if b.evt then s.chainEv n slot false 0 b.evtdata else s
  match ctl with
  | some num => s.settle num false
  | none => s

/-- PRODUCT_ANNOUNCE (R269, R280, R281): the next START of the queue. An empty product completes at once. -/
def execProductAnnounce (ln : Fin 4) (s : State) : Host.Outcome State Fault Refusal :=
  let n := ln.val
  let l := s.lan n
  match l.q with
  | [] => .next s
  | c :: rest =>
    match c.start, sget none l.slots c.slot with
    | some b, some ch =>
      if l.stuck || 2 ≤ l.prods.length || !s.rst.ready then .next s
      else
        let cid := c.slot + 64 * bit l.par
        let pop (s : State) : State := s.modLn n (fun l => { l with q := rest, par := !l.par, annWait := false, waited := 0, quiet := if l.prods.isEmpty then 0 else l.quiet })
        if b.empty then .next (lnReport n c.slot c.ctl b (emptyCounts ch b (pop s)))
        else
          if (pathRuns ch b 0 ++ pathRuns ch b 1).all (fun r => (s.runsNotReady r).isEmpty) then
            let out := ch.relayTo
            let relO := match out with
              | some t => sget 0 l.relOut t
              | none => 0
            let inc (m : Sparse Nat) (k : Option Nat) : Sparse Nat := match k with
              | some k => smod 0 m k (· + 1)
              | none => m
            let inA := inc l.relIn (ch.relaySrc 0)
            let relA := match ch.relaySrc 0 with
              | some k => sget 0 l.relIn k
              | none => 0
            let relB := match ch.relaySrc 1 with
              | some k => sget 0 inA k
              | none => 0
            let p : LnProd := ⟨c.slot, cid, c.ctl, ch, b, [], [], [], [], [], 0, [], [], [], false, [], [], false, relO, relA, relB⟩
            let s := (pop s).modLn n (fun l => { l with
              prods := l.prods ++ [p], relOut := inc l.relOut out, relIn := inc inA (ch.relaySrc 1) })
            let s := rowsFreed n { s with out := s.out ++ [.announce n (announceWords cid ch b)] }
            -- beats that came before this product stood in the queue are held against its dimensions now
            let bad := l.relay.any (fun x => match p.feeds x.src x.seq with
              | some path => !relayFits ch b path x
                  (l.facs.any (fun y => y.src == x.src && y.seq == x.seq && y.rowt == x.rowt && y.factors.isSome))
              | none => false)
            if bad then .next (lnError n cid 3 s) else .next s
          else .next (s.modLn n (fun l => { l with annWait := true }))
    | _, _ => .next s

/-- OPERAND_REQUEST (R268, R272, R451). -/
def execOperandRequest (ln : Fin 4) (hdr : Word) (s : State) : Host.Outcome State Fault Refusal :=
  let n := ln.val
  let l := s.lan n
  let h := hdr.toNat
  let path := bitsOf h 24 1
  let i := bitsOf h 0 12
  let k := bitsOf h 12 12
  if l.abort || l.ack || l.fenced || !l.present || !s.rst.ready || 32 ≤ l.reqs.length then .next s
  else
    match l.prod (bitsOf h 25 7) with
    | none => .next (lnViolation n 4 s)
    | some p =>
      let rows := if path = 0 then p.blk.m else p.blk.n
      let relayed := (p.chain.relaySrc path).isSome
      if ceilDiv rows 32 ≤ i || p.chunksOf path ≤ k || (relayed && p.asked.contains (path, i, k)) then
        .next (lnViolation n 4 s)
      else
        let s := if relayed then s.modProd n p.cid (fun p => { p with asked := p.asked ++ [(path, i, k)] }) else s
        let s := lnAnswer n (s.modLn n (fun l => { l with reqs := l.reqs ++ [h], quiet := 0 }))
        .next (if relayed then lnPumpAll s else s)

/-- PRODUCT_COMPLETE (R282): the first product whose stages and writes are all over. -/
def execProductComplete (ln : Fin 4) (s : State) : Host.Outcome State Fault Refusal :=
  let n := ln.val
  let l := s.lan n
  match l.prods.find? (fun p => p.worked && l.writes.all (fun w => w.2 != p.cid)) with
  | none => .next s
  | some p =>
    let s := s.modLn n (fun l => { l with
      prods := l.prods.filter (fun q => q.cid != p.cid)
      relay := l.relay.filter (fun b => (p.feeds b.src b.seq).isNone)
      facs := l.facs.filter (fun b => (p.feeds b.src b.seq).isNone) })
    .next (lnPumpAll (lnReport n p.slot p.ctl p.blk (lnCounts p.chain s)))

/-- RELAY_STALL_TIMEOUT (R295). -/
def execRelayStallTimeout (ln : Fin 4) (s : State) : Host.Outcome State Fault Refusal :=
  match s.stallLimit with
  | some lim =>
    match (s.lan ln).epi.bind (fun j => (s.lan ln).prod j.cid) with
    | some p => if s.relayStalled ln && !(s.lan ln).stuck && lim < (s.lan ln).relayed then .next (lnStallProd ln p 0 s) else .next s
    | none => .next s
  | none => .next s

/-- A product beside one that has been abandoned expects the beats again that the handshake takes out of the result
buffer, and the relayed beats' requests that it drops. DEDUCED: notes/assumptions/25.md. -/
def LnProd.unsent (p : LnProd) (buf : List (Nat × List Nat)) : LnProd :=
  { p with next := buf.foldl (fun m x =>
      if bitsOf x.1 25 7 = p.cid then smod 0 m (bitsOf x.1 0 12) (· - 1) else m) p.next }

/-- FP_ABORT_ACK (R454): the buffer is emptied, accepted requests are dropped and ABORT falls; an ACK without an
ABORT is a violation. -/
def execFpAbortAck (ln : Fin 4) (s : State) : Host.Outcome State Fault Refusal :=
  let n := ln.val
  if (s.lan n).abort then
    .next (s.modLn n (fun l => { l with
      abort := false, ack := true, halted := false, suspended := false, prods := l.prods.map (fun p => p.unsent l.buf)
      buf := [], reqs := [], pro := none, engCredits := 16, waited := 0, relayed := 0, quiet := 0 }))
  else if (s.lan n).fenced || !s.rst.ready then .next s
  else .next (lnViolation n 4 (s.modLn n (fun l => { l with ack := true })))

/-- FP_ABORT_TIMEOUT (R454): with no ABORT_ACK for 65,536 core cycles the port is fenced as a port fault with reason
TIMEOUT. -/
def execFpAbortTimeout (ln : Fin 4) (s : State) : Host.Outcome State Fault Refusal :=
  if (s.lan ln).abort && (s.lan ln).abortAt + 65536 ≤ s.clk.cyc then .next (lnViolation ln 5 (s.modLn ln (fun l => { l with abort := false, fenced := true })))
  else .next s

/-- A Lantern access has been served; a read brings its bytes. -/
def lnServed (n req : Nat) (bs : List Byte) (s : State) : State :=
  let s := s.modLn n (fun l => { l with
    writes := l.writes.filter (fun w => w.1 != req)
    epi := l.epi.map (fun j => { j with fetch := j.fetch.map (·.take req bs) })
    pro := l.pro.map (fun x => (x.1, x.2.take req bs))
    tab := l.tab.map (·.take req bs)
    prods := l.prods.map (fun p => { p with parkReqs := p.parkReqs.filter (fun r => r.1 != req) }) })
  lnPumpAll (lnAnswer n (loadDone n s))

/-- The announced product that an access of the Lantern is for. -/
def Lantern.productOf (l : Lantern) (req : Nat) : Option LnProd :=
  let mine (f : LnFetch) : Bool := f.out.any (·.1 == req)
  let cid := match l.writes.find? (·.1 == req) with
    | some w => some w.2
    | none =>
      if l.epi.any (fun (j : EpiJob) => j.fetch.any mine) then l.epi.map (fun (j : EpiJob) => j.cid)
      else if l.pro.any (fun (x : Bool × LnFetch) => mine x.2) then l.reqs.head?.map (bitsOf · 25 7)
      else none
  cid.bind l.prod

/-- A Lantern access met a sector that refuses it (R61, R62). -/
def lnDark (n req : Nat) (s : State) : State :=
  let l := s.lan n
  let mine (f : LnFetch) : Bool := f.out.any (·.1 == req)
  if l.tab.any mine then lnCmdError n 0 1 s
  else
    match l.productOf req with
    | some p => lnError n p.cid 1 s
    | none => s

/-- A stream abort or a discard reaches a Lantern (R393, R426): what is dropped ends with the abort handshake. -/
def lnDrop (n : Nat) (all : Bool) (s : State) : State :=
  let l := s.lan n
  let hit := all || l.prods.any (·.ctl.isNone) || l.q.any (·.ctl.isNone) || !l.sentBack.isEmpty || l.halted || l.suspended
  if hit then
    let s := lnRaiseAbort n (lnAbandon n all s)
    s.modLn n (fun l => { l with
      halted := false, suspended := false, annWait := false, waited := 0, relayed := 0, quiet := 0, sentBack := [] })
  else s

/-- Relayed beats and factors that no product is left to send or to take are dropped (R393, R426). -/
def dropRelays (s : State) : State :=
  let sends (t : Nat) (b : RelayBeat) : Bool :=
    (s.lan b.src).prods.any (fun p => p.relO == b.seq && p.chain.relayTo == some t)
  { s with ln := s.ln.zipIdx.map (fun (l, t) =>
      let keep (b : RelayBeat) : Bool :=
        sends t b || !l.q.isEmpty || l.prods.any (fun p => (p.feeds b.src b.seq).isSome)
      { l with relay := l.relay.filter keep, facs := l.facs.filter keep }) }

/-- A resume retries the waiting accesses of suspended Lanterns, whose counts start at 0 (R298). -/
def lnResume (s : State) : State :=
  let was (n : Nat) : Bool := (s.lan n).suspended
  let q := s.osura.q.map (fun r => match r.who with
    | .lantern n _ => if was n then { r with waited := 0, stalled := false } else r
    | _ => r)
  let s := { s with
    osura := { s.osura with q := q }
    ln := s.ln.map (fun l => { l with
      suspended := false, cause := if l.suspended then 0 else l.cause, waited := if l.suspended then 0 else l.waited
      relayed := if l.suspended then 0 else l.relayed, quiet := if l.suspended then 0 else l.quiet }) }
  lnPumpAll ((upTo 4).foldl (fun s n => lnAnswer n s) s)

end Sys2Proof.Machine
end

