-- ==== Sys2Proof/Machine/Slots.lean ====
section
/-! DEFINITION. Bundles and their checks (spec/04_bundle_stream.md R88 to R114): headers, slots, encoding, bounds,
shape and hazard checks. -/

namespace Sys2Proof.Machine

/-! ### Bundles (R88, R90) -/

/-- A bundle: its bytes as a number per slot, `none` where a slot is not present. -/
structure Bundle where
  present : Nat
  pen : Bool
  pneg : Bool
  pctl : Bool
  preg : Nat
  rsvd : Nat
  slots : List (Option Nat)
  deriving DecidableEq, Repr


/-- Reads a bundle's bytes. -/
def Bundle.ofBytes (bs : List Byte) : Bundle :=
  let h := Sys2Proof.ofBytes (bs.take 4)
  let slot (i : Nat) : Option Nat :=
    if bitOf h i then some (Sys2Proof.ofBytes ((bs.drop (4 + 12 * popcount i (h % 2 ^ i))).take 12)) else none
  { present := h % 1024, pen := bitOf h 10, pneg := bitOf h 11, pctl := bitOf h 12, preg := bitsOf h 13 5
    rsvd := bitsOf h 18 14, slots := (upTo 10).map slot }

/-- The FUS slot (R95). -/
structure FusSlot where
  op : Nat
  port : Nat
  chain : Nat
  spar : Nat
  deriving DecidableEq, Repr

/-- The TND slot (R95): channel as half × 64 + number. -/
structure TndSlot where
  ch : Nat
  sdesc : Nat
  deriving DecidableEq, Repr

/-- A decoded, non-NOP slot. -/
inductive SlotOp where
  | ctl (f : CtlSlot)
  | vec (q : VPlan)
  | swp (q : SwpPlan)
  | mov (q : MovPlan)
  | fus (f : FusSlot)
  | tnd (f : TndSlot)
  deriving DecidableEq, Repr

/-- A branch (R102). -/
def CtlSlot.isBranch (f : CtlSlot) : Bool := 0x30 ≤ f.op && f.op ≤ 0x33

/-- Operations that may not stand in a delay bundle (R103). -/
def CtlSlot.notInDelay (f : CtlSlot) : Bool := f.isBranch || f.op == 0x20 || f.op == 0x21 || f.op == 0x52

/-- The encoding of a CTL slot (R96, R97, R104). A BITSCAN takes the E_ENCODING rules of LOOP (R105), its
IMM[63:56] as well. DEDUCED: notes/assumptions/11.md. -/
def CtlSlot.ok (f : CtlSlot) : Bool :=
  let known := (0x01 ≤ f.op && f.op ≤ 0x11) || f.op == 0x20 || f.op == 0x21 || (0x30 ≤ f.op && f.op ≤ 0x33) ||
    (0x40 ≤ f.op && f.op ≤ 0x44) || (0x50 ≤ f.op && f.op ≤ 0x52)
  let counter := f.op == 0x0F || f.op == 0x20 || f.op == 0x21
  known && (!counter || f.x < 4) &&
    (!(f.op == 0x20 || f.op == 0x21) || (bitsOf f.imm 56 8 == 0 && bitsOf f.imm 32 24 != 0)) &&
    (f.op != 0x40 || bitsOf f.imm 18 14 == 0)

/-- Decodes slot `n`: `none` is E_ENCODING, `some none` a NOP (R92). -/
def slotDecode (p : Profile) (n v : Nat) : Option (Option SlotOp) :=
  if v % 256 = 0 then some none
  else
    let vec (r : Option VPlan) : Option (Option SlotOp) := r.map (fun q => some (.vec q))
    match n with
    | 0 =>
      let f := CtlSlot.ofBits v
      if f.ok then some (some (.ctl f)) else none
    | 1 | 2 => vec (planFma p (VSlot.ofBits v))
    | 3 => vec (planSfu p (VSlot.ofBits v))
    | 4 => vec (planInt p (VSlot.ofBits v))
    | 5 | 6 => (planMov p (MovSlot.ofBits v)).map (fun q => some (.mov q))
    | 7 => (planSwp p (VSlot.ofBits v)).map (fun q => some (.swp q))
    | 8 =>
      if v % 256 ≤ 2 && v / 2 ^ 21 = 0 then
        some (some (.fus ⟨v % 256, bitsOf v 8 2, bitsOf v 10 6, bitsOf v 16 5⟩))
      else none
    | _ =>
      if v % 256 = 1 && v / 2 ^ 20 = 0 then some (some (.tnd ⟨bitsOf v 8 1 * 64 + bitsOf v 9 6, bitsOf v 15 5⟩))
      else none

/-- The predicate is false (R91). -/
def Bundle.off (b : Bundle) (s : State) : Bool := b.pen && ((s.scal b.preg != 0) == b.pneg)

/-- Is a slot suppressed (R91)? -/
def Bundle.suppressed (b : Bundle) (s : State) (n : Nat) : Bool := b.off s && (n != 0 || b.pctl)

/-! ### Fetch buffers -/

/-- A byte that the loop buffer or the prefetched bytes hold. -/
def State.fetchedByte (s : State) (a : Nat) : Option Byte :=
  let lb := s.str.loopBuf
  let src := if lb.complete && !lb.idle && lb.lo ≤ a && a < lb.hi then lb.bytes else s.str.fetched
  (src.find? (fun c => c.1 == a)).map (·.2)

/-- `n` fetched bytes, if all are there. -/
def State.fetchedRun (s : State) (a n : Nat) : Option (List Byte) := (fromTo a n).mapM s.fetchedByte

/-- Header of the bundle at `a`: fetched, or as fetch will see it. DEDUCED: notes/assumptions/10.md. -/
def State.headerAt (s : State) (a : Nat) : Nat :=
  match s.fetchedRun a 4 with
  | some bs => ofBytes bs
  | none => ofBytes (s.fetchView a (s.readRun a 4).1)

/-- The bundle at the stream's pc, with its length, if it has been fetched. -/
def State.bundleHere (s : State) : Option (Bundle × Nat) :=
  match s.fetchedRun s.str.pc 4 with
  | none => none
  | some h =>
    let n := bundleLen (ofBytes h)
    (s.fetchedRun s.str.pc n).map (fun bs => (Bundle.ofBytes bs, n))

/-! ### Loops -/

def State.kctr (s : State) (k : Nat) : KCtr := sget KCtr.off s.str.k k

/-- Active loops whose body holds an address. -/
def State.loopsOver (s : State) (a : Nat) : List KCtr :=
  (s.str.loopOrder.map s.kctr).filter (fun c => c.active && c.lo ≤ a && a < c.hi)

/-! ### E_ENCODING (R92, R103, R104, R316) -/

/-- Encoding rules that the place of a CTL slot breaks: in a delay bundle, in a loop's last two bundles, or a
loop that may not start. The bundles behind a branch that its predicate suppresses are no delay bundles. DESIGN CHOICE:
notes/assumptions/11.md. -/
def ctlPlaceBad (s : State) (len : Nat) (off : Bool) (f : CtlSlot) : Bool :=
  let end_ := s.str.pc + len
  let over_ := s.loopsOver s.str.pc
  (s.str.branch.isSome && f.notInDelay) ||
    (f.isBranch && over_.any (fun c => c.hi == end_ || c.hi == end_ + bundleLen (s.headerAt end_))) ||
    (!off && (f.op == 0x20 || f.op == 0x21) &&
      ((s.kctr f.x).active || over_.any (fun c => c.hi < end_ + bitsOf f.imm 32 24)))

/-- Address of a TND's or FUS's block. -/
def ptrOf (s : State) (reg : Nat) : Nat := s.scal reg % 2 ^ 32

/-- A TND's descriptor, when its block can be read. -/
def tndXfer (s : State) (f : TndSlot) : Option Xfer :=
  let a := ptrOf s f.sdesc
  if a % 4 == 0 && inOsura a 64 && s.runOpen a 64 then
    let x := Xfer.ofBytes (s.readStream a 64)
    some { x with half := f.ch / 64, ch := f.ch % 64 }
  else none

/-- Outcome of a TND's descriptor check (R316). -/
def tndCheck (s : State) (f : TndSlot) : XferCheck :=
  match tndXfer s f with
  | some x => x.check (some s.prof)
  | none => .ok

/-- Decoded slots with their numbers, or the first that breaks its encoding; header bits break it without a slot. -/
def decodeAll (p : Profile) (b : Bundle) : Except (Option Nat) (List (Nat × SlotOp)) :=
  if b.rsvd != 0 then .error none
  else
    let all := b.slots.zipIdx.map (fun (v, n) => (n, match v with
      | none => some none
      | some v => slotDecode p n v))
    match all.find? (fun x => x.2.isNone) with
    | some x => .error (some x.1)
    | none => .ok (all.filterMap (fun x => (x.2.join).map (fun o => (x.1, o))))

/-! ### E_BOUNDS -/

/-- The address of an SLD or SST (R99); a sum that carries out of bit 31 wraps. DEDUCED:
notes/assumptions/11.md. -/
def ctlAddr (s : State) (f : CtlSlot) : Nat := (s.scal f.sa + bitsOf f.imm 0 32) % 2 ^ 32

/-- Destination rows of an FLDO as a MOV of its own. -/
def State.fldoBase (s : State) (q : MovPlan) : Nat := s.scal ((q.f.sbase + 1) % 32)

/-- E_BOUNDS of an unsuppressed slot (R35, R72, R95, R99, R132, R274, R316). -/
def boundsBad (s : State) (o : SlotOp) : Bool :=
  match o with
  | .ctl f =>
    match f.op with
    | 0x10 | 0x11 => ctlAddr s f % 8 != 0 || 2 ^ 29 ≤ ctlAddr s f
    | 0x40 => !s.str.looked && !s.armOk f.x (s.scal f.sa % 2 ^ 32) (bitsOf f.imm 0 17)
    | _ => false
  | .mov q =>
    !q.rowsInBounds (s.scal q.f.sbase) s.lc || (q.op == .fldo && !q.rowsInBounds (s.fldoBase q) s.lc)
  | .fus f =>
    let a := ptrOf s f.spar
    !fusAddrOk a 16 || !fusAddrOk a (if s.runOpen a 4 then fusBlockLen s f.op a else 16) ||
      (s.runOpen a (fusBlockLen s f.op a) &&
        ((if f.op = 1 then fusLoad s f.port f.chain a none
          else fusStart s f.port f.chain a none (some s.prof)) == .bounds))
  | .tnd f =>
    let a := ptrOf s f.sdesc
    a % 4 != 0 || !inOsura a 64 || tndCheck s f == .bounds
  | _ => false

/-! ### E_SHAPE -/

def shapeBad (s : State) (o : SlotOp) : Bool :=
  match o with
  | .vec q => !q.shapeOk s.tagOf
  | .swp q => !q.shapeOk s.tagOf
  | .mov q => !q.shapeOk s.tagOf
  | _ => false

/-! ### E_CHAIN (R226, R274) -/

/-- The slot of a START is empty, or set up for another profile than the running descriptor's (R226, R280): this needs
none of the block's bytes. -/
def slotBad (s : State) (f : FusSlot) : Bool :=
  f.op != 1 && (match (s.lan f.port).chainFor f.chain with
    | some c => s.prof != c.prof
    | none => true)

def chainBad (s : State) (o : SlotOp) : Bool :=
  match o with
  | .fus f =>
    let a := ptrOf s f.spar
    slotBad s f || fusAddrOk a 16 && s.runOpen a 4 && s.runOpen a (fusBlockLen s f.op a) &&
      ((if f.op = 1 then fusLoad s f.port f.chain a none
        else fusStart s f.port f.chain a none (some s.prof)) == .chain)
  | _ => false

/-! ### E_HAZARD (R109 to R113) -/

/-- What a slot reads and writes, in issue cycles: registers as tiles 0 to 15, masks 16 to 23, scalars from 32;
reads with their last cycle, writes with first and last cycle. -/
structure Use where
  slot : Nat
  reads : List (Nat × Nat)
  writes : List (Nat × Nat × Nat)
  occ : Nat
  /-- Occupancy plus latency: from issue to the ready cycle, plus one. -/
  span : Nat
  deriving DecidableEq, Repr

/-- Scalars a CTL operation reads, and those it writes with their latency (R97, R110). -/
def ctlRegs (s : State) (f : CtlSlot) : List Nat × List Nat × Nat :=
  let b := if f.immsel then [] else [f.sb]
  match f.op with
  | 0x01 => ([], [f.sd], 1)
  | 0x04 => (f.sa :: b, [f.sd], 3)
  | 0x0E => ([f.sa], [f.sd, f.sa], 1)
  | 0x0F => ([], [f.sd], 1)
  | 0x10 => ([f.sa], [f.sd], 10)
  | 0x11 => ([f.sa, f.sb], [], 1)
  | 0x20 => (b, [], 1)
  | 0x21 => ([f.sa], if s.scal f.sa = 0 then [] else [f.sd], 1)
  | 0x31 | 0x32 | 0x33 | 0x40 => ([f.sa], [], 1)
  | _ => if f.op ≤ 0x0D then (f.sa :: b, [f.sd], 1) else ([], [], 1)

/-- Occupancy and latency of a slot (R109, R110). -/
def slotTiming (s : State) (n : Nat) (o : SlotOp) : Nat × Nat :=
  match o with
  | .ctl f => (1, (ctlRegs s f).2.2)
  | .vec q => (q.occ s.prof s.tagOf (n == 1 || n == 2), q.lat)
  | .swp q => q.timing s.tagOf
  | .mov q =>
    let base := s.scal q.f.sbase
    (q.occ base s.lc 0, if q.f.far then max 64 s.str.far.lat else q.loadLatency base s.lc)
  | .fus _ | .tnd _ => (1, 1)

/-- Tiles and masks an operation writes. -/
def slotDests (o : SlotOp) : List Nat :=
  match o with
  | .vec q => match q.dest with
    | .tile td _ _ _ => [td]
    | .mask m => [16 + m % 8]
  | .swp q => q.f.td :: q.payTile.toList
  | .mov q => q.dest.toList
  | _ => []

/-- Tiles and masks an operation reads. -/
def slotSources (o : SlotOp) : List Nat :=
  match o with
  | .vec q => q.srcs.map (·.tile) ++ q.maskReads.map (16 + ·)
  | .swp q => q.srcs.map (·.tile) ++ q.maskReads.map (16 + ·)
  | .mov q =>
    match q.op with
    | .stm => [16 + q.f.tile % 8]
    | .ldm | .fldo => []
    | .st | .stt => q.f.tile :: (if q.f.men then [16 + q.f.msel] else [])
    | _ => if q.f.men then [16 + q.f.msel] else []
  | _ => []

/-- Scalars an operation reads. -/
def slotScals (s : State) (o : SlotOp) : List Nat :=
  match o with
  | .ctl f => (ctlRegs s f).1
  | .vec q => q.scals
  | .swp _ => []
  | .mov q => q.f.sbase :: (if q.op == .fldo then [(q.f.sbase + 1) % 32] else [])
  | .fus f => [f.spar]
  | .tnd f => [f.sdesc]

/-- A slot's reads and writes in issue cycles (R111). -/
def slotUse (s : State) (n : Nat) (o : SlotOp) : Use :=
  let t := s.str.icyc
  let (occ, lat) := slotTiming s n o
  let scalW := match o with
    | .ctl f => (ctlRegs s f).2.1
    | _ => []
  { slot := n, occ := occ, span := occ + lat
    reads := (slotSources o).map (fun r => (r, t + occ - 1)) ++ (slotScals s o).map (fun r => (32 + r, t))
    writes := ((slotDests o) ++ scalW.map (32 + ·)).map (fun r => (r, t + lat - 1, t + occ + lat - 2)) }

/-- A failed hazard check: register and rule. -/
structure Hazard where
  slot : Nat
  reg : Nat
  rule : Nat
  deriving DecidableEq, Repr

/-- The first hazard of a slot: RAW, WAR, WAW, then UNIT (R112). DEDUCED: notes/assumptions/11.md. -/
def hazardOf (s : State) (uses : List Use) (u : Use) : Option Hazard :=
  let t := s.str.icyc
  let raw := u.reads.find? (fun r => s.str.board.any (fun e => e.isWrite && e.reg == r.1 && t < e.ready))
  let war := u.writes.find? (fun w => w.1 < 32 &&
    (s.str.board.any (fun e => !e.isWrite && e.reg == w.1 && w.2.1 ≤ e.last) ||
      uses.any (fun v => v.slot != u.slot && v.reads.any (fun r => r.1 == w.1 && w.2.1 ≤ r.2))))
  let waw := u.writes.find? (fun w =>
    s.str.board.any (fun e => e.isWrite && e.reg == w.1 && w.2.1 ≤ e.last) ||
      uses.any (fun v => v.slot < u.slot && v.writes.any (fun x => x.1 == w.1 && w.2.1 ≤ x.2.2)))
  match raw, war, waw with
  | some r, _, _ => some ⟨u.slot, r.1, 0⟩
  | none, some w, _ => some ⟨u.slot, w.1, 1⟩
  | none, none, some w => some ⟨u.slot, w.1, 2⟩
  | none, none, none => if t < sget 0 s.str.unitFree u.slot then some ⟨u.slot, 0, 3⟩ else none

/-- The first slot that fails a hazard check; the header's predicate read comes last (R114, R119). DEDUCED:
notes/assumptions/11.md. -/
def hazardIn (s : State) (b : Bundle) (uses : List Use) : Option Hazard :=
  match uses.findSome? (hazardOf s uses) with
  | some h => some h
  | none =>
    if b.pen && s.str.board.any (fun e => e.isWrite && e.reg == 32 + b.preg && s.str.icyc < e.ready) then
      some ⟨15, 32 + b.preg, 0⟩
    else none

/-- The stop for a hazard (R113, R119). DEDUCED: notes/assumptions/11.md. -/
def Hazard.stop (h : Hazard) : StopAt :=
  if h.rule = 3 then ⟨0x09, some h.slot, 0, 0, 3, 0⟩
  else ⟨0x09, some h.slot, if h.reg < 16 then 0 else if h.reg < 32 then 1 else 2,
    if h.reg < 16 then h.reg else if h.reg < 32 then h.reg - 16 else h.reg - 32, h.rule, 0⟩

/-- The checks of R114 in their order; a pass gives the slots to execute. DEDUCED: notes/assumptions/11.md. -/
def checkBundle (s : State) (b : Bundle) (len : Nat) : Except StopAt (List (Nat × SlotOp)) :=
  let at_ (cause : Nat) (n : Option Nat) : StopAt := ⟨cause, n, 0, 0, 0, 0⟩
  let end_ := s.str.pc + len
  let placeBad := match (b.slots.head?.join).bind (slotDecode s.prof 0) with
    | some (some (.ctl f)) => ctlPlaceBad s len (b.suppressed s 0) f
    | _ => false
  match decodeAll s.prof b with
  | .error n => .error (at_ 0x06 (if n.isSome && placeBad then some 0 else n))
  | .ok all =>
    let run := all.filter (fun x => !b.suppressed s x.1)
    let straddle := (s.loopsOver s.str.pc).any (fun c => c.hi < end_)
    let first (cause : Nat) (bad : SlotOp → Bool) : Option StopAt :=
      (run.find? (fun x => bad x.2)).map (fun x => at_ cause (some x.1))
    let enc := first 0x06 (fun o => match o with
      | .tnd f => tndCheck s f == .rsvd || tndCheck s f == .profile
      | _ => false)
    if placeBad then .error (at_ 0x06 (some 0))
    else if straddle then .error (at_ 0x06 none)
    else
      let uses := run.map (fun x => slotUse s x.1 x.2)
      match enc, first 0x07 (boundsBad s), first 0x08 (shapeBad s), hazardIn s b uses, first 0x0B (chainBad s) with
      | some a, _, _, _, _ => .error a
      | none, some a, _, _, _ => .error a
      | none, none, some a, _, _ => .error a
      | none, none, none, some h, _ => .error h.stop
      | none, none, none, none, some a => .error a
      | none, none, none, none, none => .ok run

end Sys2Proof.Machine
end

