-- ==== Sys2Proof/Machine/Issue.lean ====
section
/-! DEFINITION. The bundle stream at work (spec/04_bundle_stream.md R97 to R119): what an issued bundle does, the
waits and stops before it, fetch, loops, fences and the end of a program. -/

namespace Sys2Proof.Machine

/-! ### Conflicts with other masters (R386) -/

/-- Notes an order of a higher master for a unit in this control cycle: kind 1 a buoy, 2 a Lantern queue, 3 a Tender
channel, 4 a buoy that the order freed, which lets a command that waited for it issue only in the next control cycle
(R79), 5 and 6 the stream, by KEEPER_CMD.PAUSE and RESUME, and 7 a sector, by BIST_CMD. DEDUCED: notes/assumptions/15.md. -/
def State.order (s : State) (kind unit : Nat) : State :=
  let now := s.clk.ckr / 8
  { s with kp := { s.kp with orders := (kind, unit, now) :: s.kp.orders.filter (fun o => o.2.2 == now) } }

/-- A higher master has commanded the unit in this control cycle. DEDUCED: notes/assumptions/15.md. -/
def State.ordered (s : State) (kind unit : Nat) : Bool := s.kp.orders.contains (kind, unit, s.clk.ckr / 8)

/-- Counts and records a conflict. -/
def State.noteConflict (s : State) (kind unit : Nat) : State :=
  let s := bump 0x024C s
  if s.kp.conflictValid then s
  else { s with kp := { s.kp with conflictKind := kind, conflictUnit := unit, conflictValid := true } }

/-- A higher master's order at a buoy drops the stream's commands of the same control cycle, those that have come
first too (R386). DEDUCED: notes/assumptions/15.md. -/
def State.overrule (s : State) (n : Nat) : State :=
  let mine := s.str.cmds.filter (fun c => c.1 == s.clk.ckr / 8 && c.2.1 == n)
  let prod (p : Nat × Nat) : Bool := p.1 == n && mine.any (fun c => c.2.2.2 == p.2)
  match mine with
  | [] => s
  | c :: _ =>
    let s := mine.foldl (fun s _ => s.noteConflict 1 n) s
    (s.modStr (fun t => { t with
      cmds := t.cmds.filter (fun c => c.2.1 != n), prods := t.prods.filter (fun p => !prod p) })).setBuoy n c.2.2.1

/-- A FUS (kind 2) or TND (kind 3) issues to a unit. -/
def State.noteSent (s : State) (kind unit : Nat) : State :=
  let now := s.clk.ckr / 8
  s.modStr (fun t => { t with sentTo := t.sentTo.filter (fun x => x.1 == now) ++ [(now, kind, unit)] })

/-- FUS or TND that have issued to a unit in this control cycle. -/
def State.sentNow (s : State) (kind unit : Nat) : Nat :=
  (s.str.sentTo.filter (fun x => x == (s.clk.ckr / 8, kind, unit))).length

/-- An order reaches a unit in the control cycle in which a FUS or TND has issued to it: a conflict (R386). -/
def State.meetSent (s : State) (kind unit : Nat) : State :=
  if s.sentNow kind unit = 0 || s.ordered (kind + 8) unit then s else (s.noteConflict kind unit).order (kind + 8) unit

/-- FUS commands of this control cycle at a Lantern queue's end, of which none has begun. -/
def State.fusBack (s : State) (n : Nat) : List LnCmd :=
  let l := s.lan n
  let idle := if l.tab.isSome || l.annWait then l.q.drop 1 else l.q
  ((idle.reverse.takeWhile (fun c => c.ctl.isNone)).take (s.sentNow 2 n)).reverse

/-- The FUS commands of this control cycle leave a Lantern queue, and wait for it again (R386). -/
def State.fusAside (s : State) (n : Nat) : State :=
  let back := s.fusBack n
  s.modLn n (fun l => { l with q := l.q.take (l.q.length - back.length), sentBack := back ++ l.sentBack })

/-- A Control-ring command enters a Lantern queue ahead of the FUS commands of its control cycle (R274, R386). DEDUCED:
notes/assumptions/15.md. -/
def lnPutFirst (n : Nat) (c : LnCmd) (s : State) : State := (((s.meetSent 2 n).fusAside n).lnPut n c).order 2 n

/-- The queue has room for a Control-ring command, ahead of the FUS commands of this control cycle (R274). -/
def State.ctlRoom (s : State) (n : Nat) : Bool := (s.lan n).q.length < 4 + (s.fusBack n).length

/-- An order of a higher master at a buoy (R386). -/
def State.orderBuoy (s : State) (n : Nat) : State := (s.order 1 n).overrule n

/-- FREE of a buoy (R74): held credits go back if it leaves Draining by it (R81). -/
def State.freeNow (s : State) (n : Nat) : State :=
  let drains := (s.buoy n).st == .draining
  let s := s.freeBuoy n
  if drains then s.returnOwed n else s

/-- A delay by an order is noted once (R386). -/
def State.noteDelay (s : State) (kind unit : Nat) : State :=
  if s.ordered kind unit && !s.ordered (kind + 8) unit then (s.noteConflict kind unit).order (kind + 8) unit else s

/-! ### Fetch (R101, R102, R106) -/

/-- Is an address held in the loop buffer? -/
def State.held (s : State) (a : Nat) : Bool :=
  s.str.loopBuf.complete && !s.str.loopBuf.idle && s.str.loopBuf.lo ≤ a && a < s.str.loopBuf.hi

/-- Fetch starts afresh at an address: what it had asked for counts no more. -/
def fetchFrom (a : Nat) (s : State) : State :=
  s.modStr (fun t => { t with fetchPc := a, fetched := [], fetchGen := t.fetchGen + 1 })

/-- The byte at an address has been fetched, is on its way, or is the next to be asked for. -/
def State.fetchComing (s : State) (a : Nat) : Bool :=
  s.str.fetchPc == a || (s.fetchedByte a).isSome ||
    s.unserved.any (fun x => x.kind == .fetch s.str.fetchGen && x.word == a / 32)

/-- Starts fetch afresh when nothing that was fetched leads to the pc. -/
def refetch (s : State) : State := if s.fetchComing s.str.pc then s else fetchFrom s.str.pc s

/-- Bytes from `a` that one fetch can read: 128 at most, up to a limit, a sector that is not open or the end of
Osura. DEDUCED: notes/assumptions/10.md. -/
def State.fetchLen (s : State) (a limit : Nat) : Nat :=
  let n := min 128 (min limit (2 ^ 29) - a)
  if 2 ^ 29 ≤ a || !s.secOpen (secOf a) then 0
  else if s.runOpen a n then n else 2 ^ 23 - a % 2 ^ 23

/-- Words of a fetch as window accesses. -/
def fetchAccs (s : State) (kind : WinKind) (a n : Nat) : List WinAcc :=
  (rowWords a n).map (fun w => ⟨s.period, w, none, kind, s.str.icyc⟩)

/-- One read of the loop buffer's load; a body that cannot be read leaves it empty. DEDUCED:
notes/assumptions/10.md. -/
def loopLoad (s : State) : State :=
  let lb := s.str.loopBuf
  let n := s.fetchLen lb.next lb.hi
  if lb.next = lb.hi then s
  else if n = 0 then s.modStr (fun t => { t with loopBuf := t.loopBuf.drop })
  else s.modStr (fun t => { t with
    window := t.window ++ fetchAccs s (.loopLoad lb.gen) lb.next n, loopBuf := { lb with next := lb.next + n } })

/-- BUNDLE_FETCH (R101, R106): in a core cycle, the next 128 bytes of the program are asked for, up to 1 KiB ahead of
issue; they arrive when a bank has served them. A loop buffer's load goes on instead once 512 bytes lie ahead of issue,
so that issue stays fed. DEDUCED: notes/assumptions/10.md. -/
def execBundleFetch (s : State) : Host.Outcome State Fault Refusal :=
  if !s.wrun || s.streamStopped || s.str.ended || s.str.stopWait.isSome || !s.rst.ready || s.clk.stopped ||
      s.str.pc % 4 != 0 || s.str.fetchAt == s.clk.cyc + 1 then .next s
  else
    let s := (refetch s).modStr (fun t => { t with fetchAt := s.clk.cyc + 1 })
    let a := if s.held s.str.pc then max s.str.fetchPc s.str.loopBuf.hi else s.str.fetchPc
    let n := s.fetchLen a (s.str.pc + 1024)
    let loading := s.str.loopBuf.lo < s.str.loopBuf.hi && !s.str.loopBuf.complete
    if n != 0 && !(loading && s.str.pc + 512 ≤ a) then
      .next (s.modStr (fun t => { t with
        window := t.window ++ fetchAccs s (.fetch t.fetchGen) a n, fetchPc := a + n }))
    else if loading then .next (loopLoad s)
    else .next s

/-! ### Branches and loops (R102 to R106) -/

/-- Deactivates the loops whose body does not hold a branch target, and every loop started inside one (R103). -/
def leaveLoops (tgt : Nat) (s : State) : State :=
  let out (k : Nat) : Bool := let c := s.kctr k; !(c.lo ≤ tgt && tgt < c.hi)
  let n := (s.str.loopOrder.zipIdx.filter (fun x => out x.1)).foldl (fun m x => max m (x.2 + 1)) 0
  (s.str.loopOrder.take n).foldl (fun s k => s.modStr (fun t => { t with k := sset KCtr.off t.k k .off })) s
    |>.modStr (fun t => { t with loopOrder := t.loopOrder.drop n })

/-- Issue goes on at a target: at once when the loop buffer holds it, be it since an earlier launch (R373), else not
before `at_` (R102); behind a held body that is entered from outside, fetch starts at the body's end. A body that no
loop runs any more stays held until the next load of the buffer, with the bytes that it was loaded with (R107): DESIGN
CHOICE: notes/assumptions/10.md. -/
def goTo (tgt at_ : Nat) (s : State) : State :=
  let s := s.modStr (fun t => { t with loopBuf := { t.loopBuf with idle := false } })
  if s.held tgt then
    (if s.held s.str.pc then s else fetchFrom s.str.loopBuf.hi s).modStr (fun t => { t with pc := tgt, earliest := 0 })
  else (fetchFrom tgt s).modStr (fun t => { t with pc := tgt, earliest := at_ })

/-- A loop's return to its first bundle: without cost from the loop buffer, else as a taken branch (R106, R107). -/
def goBack (lo : Nat) (s : State) : State :=
  goTo lo (s.clk.cyc + 10) (if s.held lo then s else seeStores s)

/-- Index of the lowest set bit. -/
def lowBit (x : Nat) : Nat := ((upTo 64).find? (fun i => bitOf x i)).getD 64

/-- Writes a BITSCAN index; it can be read in the next issue cycle (R105). -/
def scanIndex (sd x : Nat) (s : State) : State :=
  let t := s.str.icyc
  (s.setScal sd (lowBit x)).modStr (fun st => { st with board := st.board ++ [⟨32 + sd, true, t, t, t + 1⟩] })

/-- The last body bundle of loops that end at `end_` has issued: the latest loop first (R104). Gives the return
target, if a loop goes round again. -/
def loopEnd (end_ : Nat) : List Nat → State → Option Nat × State
  | [], s => (none, s)
  | k :: ks, s =>
    let c := s.kctr k
    if c.hi != end_ then loopEnd end_ ks s
    else
      let left := if c.isScan then c.left &&& (c.left - 1) else c.left - 1
      if left = 0 then
        loopEnd end_ ks ((seeStores s).modStr (fun t => { t with
          k := sset KCtr.off t.k k .off, loopOrder := t.loopOrder.filter (· != k) }))
      else
        let s := s.modStr (fun t => { t with k := sset KCtr.off t.k k { c with left := left } })
        (some c.lo, if c.isScan then scanIndex c.sd left s else s)

/-- Where issue goes after a bundle that ends at `end_` (R102, R104). -/
def advancePc (end_ : Nat) (s : State) : State :=
  let (ret, s) := if (s.loopsOver s.str.pc).isEmpty then (none, s) else loopEnd end_ s.str.loopOrder s
  match s.str.branch, ret with
  | some (tgt, 1), _ =>
    let s := s.modStr (fun t => { t with branch := none })
    if tgt < 2 ^ 32 then goTo tgt s.str.earliest (seeStores (leaveLoops tgt s)) else
      match ret with
      | some lo => goBack lo s
      | none => s.modStr (fun t => { t with pc := end_ })
  | b, some lo => goBack lo (s.modStr (fun t => { t with branch := b.map (fun x => (x.1, x.2 - 1)) }))
  | b, none => s.modStr (fun t => { t with pc := end_, branch := b.map (fun x => (x.1, x.2 - 1)) })

/-- Drops fetched bytes that lie before the pc. -/
def dropFetched (s : State) : State :=
  if s.held s.str.pc then s
  else refetch (s.modStr (fun t => { t with fetched := t.fetched.filter (fun c => t.pc ≤ c.1) }))

/-! ### CTL (R97) -/

/-- Result of the arithmetic of a CTL operation (R97). -/
def ctlArith (op a b : Nat) : Nat :=
  let w := 2 ^ 64
  match op with
  | 0x02 => (a + b) % w
  | 0x03 => (a + w - b) % w
  | 0x04 => a * b % w
  | 0x05 => a &&& b
  | 0x06 => a ||| b
  | 0x07 => a ^^^ b
  | 0x08 => a * 2 ^ (b % 64) % w
  | 0x09 => a / 2 ^ (b % 64)
  | 0x0A => ofSigned 64 (toSigned 64 a / ((2 ^ (b % 64) : Nat) : Int))
  | 0x0B => bit (a == b)
  | 0x0C => bit (decide (toSigned 64 a < toSigned 64 b))
  | _ => bit (decide (a < b))

/-- Iterations left in a counter, the present one included (R97, R105). -/
def KCtr.remaining (c : KCtr) : Nat := if !c.active then 0 else if c.isScan then popcount 64 c.left else c.left

/-- Starts a LOOP or BITSCAN after its bundle, which ends at `end_`: the body runs or is skipped (R104 to R106). Only a
held body that encloses the loop stays in the loop buffer. -/
def startLoop (f : CtlSlot) (count end_ : Nat) (s : State) : State :=
  let hi := end_ + bitsOf f.imm 32 24
  let lb := s.str.loopBuf
  let s := if lb.complete && !lb.idle && lb.lo < end_ && end_ ≤ lb.hi && hi ≤ lb.hi then s
    else (if s.held s.str.pc then fetchFrom end_ s else s).modStr (fun t => { t with
      loopBuf := t.loopBuf.start end_ hi })
  if count = 0 then goTo hi (s.clk.cyc + 10) (seeStores (leaveLoops hi s))
  else
    let scan := f.op = 0x21
    let s := if scan then scanIndex f.sd count s else s
    (s.modStr (fun t => { t with
      k := sset KCtr.off t.k f.x ⟨true, scan, count, f.sd, end_, hi⟩, loopOrder := f.x :: t.loopOrder }))

/-- What comes of a CTL slot besides the pc; `s0` is the state before the bundle, whose scalars it reads (R98). -/
def ctlEffect (s0 : State) (f : CtlSlot) (s : State) : State :=
  let a := s0.scal f.sa
  let b := if f.immsel then f.imm else s0.scal f.sb
  let t := s0.str.icyc
  let buoyCmd (act : State → State) : State :=
    if s0.ordered 1 f.x then s.noteConflict 1 f.x
    else (act s).modStr (fun st => { st with
      cmds := st.cmds.filter (fun c => c.1 == s.clk.ckr / 8) ++ [(s.clk.ckr / 8, f.x, s.buoy f.x, t)] })
  let later (due : Nat) (v : Option Nat) : State := s.modStr (fun st => { st with scalQ := st.scalQ ++ [(due, f.sd, v)] })
  match f.op with
  | 0x01 => s.setScal f.sd f.imm
  | 0x0E => (s.setScal f.sa (a &&& (a - 1))).setScal f.sd (lowBit a)
  | 0x0F => s.setScal f.sd (s0.kctr f.x).remaining
  | 0x04 => later (t + 2) (some (ctlArith f.op a b))
  | 0x10 => (later (t + 9) none).modStr (fun st => { st with
      window := st.window ++ [⟨s.period, ctlAddr s0 f / 32, none, .sld f.sd (ctlAddr s0 f) (t + 9), t⟩] })
  | 0x11 | 0x20 | 0x21 => s
  | 0x30 | 0x31 | 0x32 | 0x33 =>
    let taken := f.op = 0x30 || f.op = 0x31 || (f.op = 0x32 && a = 0) || (f.op = 0x33 && a != 0)
    let tgt := if f.op = 0x31 then a % 2 ^ 32 else f.imm % 2 ^ 32
    s.modStr (fun t => { t with
      branch := some (if taken then tgt else 2 ^ 32, 3), earliest := if taken then s.clk.cyc + 10 else t.earliest })
  | 0x40 => buoyCmd (fun s => s.armBuoy f.x (a % 2 ^ 32) (bitsOf f.imm 0 17) (bitsOf f.imm 32 16) (bitsOf f.imm 48 16)
      (bitOf f.imm 17))
  | 0x41 => buoyCmd (fun s => s.countAt f.x 1 1 Buoy.released)
  | 0x42 => buoyCmd (fun s => (s.modStr (fun t => { t with prods := t.prods ++ [(f.x, t.icyc)] })).flushBefore s.str.icyc)
  | 0x44 => buoyCmd (fun s => s.freeNow f.x)
  | 0x50 => s.modStr (fun t => { t with fence := true })
  | 0x51 => s.push (s.launchRecord 0x04 (f.imm % 2 ^ 32) s.str.pc 0 0)
  | 0x52 => s.modStr (fun t => { t with fence := true, ended := true })
  | 0x43 => s
  | _ => s.setScal f.sd (ctlArith f.op a b)

/-- The store of an SST (R99). -/
def sstAcc (s0 : State) (f : CtlSlot) : List WinAcc :=
  if f.op = 0x11 then
    let a := ctlAddr s0 f
    [⟨s0.period, a / 32, none, .sst (cellsAt a (toBytes 8 (s0.scal f.sb))), s0.str.icyc⟩]
  else []

/-! ### Vector and Sweep slots -/

/-- What a vector or Sweep operation reads, as it stands before the bundle. -/
def State.vctx (s : State) : VCtx := ⟨s.prof, s.lc, s.scal, s.tileCell, s.maskOf, s.tagOf⟩

/-- Source positions of an FMA operation: A 0, B 1, C 2 (R141). -/
def VPlan.positions (q : VPlan) : List (Nat × TileSrc) :=
  match q.kind with
  | .dot g _ => q.srcs.zipIdx.map (fun (x, i) => (if i < g then 0 else if i < 2 * g then 1 else 2, x))
  | .arith (.tile _) _ | .bdec | .bqnt => q.srcs.zipIdx.map (fun (x, i) => (i, x))
  | .arith _ _ => q.srcs.zipIdx.map (fun (x, i) => (2 * i, x))
  | .cvts _ =>
    let ps := [0] ++ (if bitOf q.f.mod 0 then [1] else []) ++ (if bitOf q.f.mod 1 then [2] else [])
    ps.zip q.srcs
  | _ => q.srcs.map (fun x => (0, x))

/-- Elements that one container position of a cycle handles: those of the widest operand (R109, R124). -/
def VPlan.few (q : VPlan) (tags : Nat → Option Tag) (fma : Bool) : Nat :=
  let pk (f : Fmt) : Nat := if fma && f.width == 4 then 4 else f.pack
  let d := match q.dest with
    | .tile _ _ _ g => pk g
    | .mask _ => 8
  (q.srcs.map (fun x => ((tags x.tile).map (fun g => pk g.fmt)).getD 1)).foldl min d

/-- Elements per container of a DOT's products, and cycles of one of its passes (R109). -/
def VPlan.dotPack (q : VPlan) (p : Profile) : Nat := if q.fmt.width == 4 && p != .h2 then 4 else q.fmt.pack
def VPlan.dotPass (q : VPlan) (p : Profile) : Nat := ceilDiv q.f.r 8 * ceilDiv (ceilDiv q.f.n (q.dotPack p)) 32

/-- The reads of one cycle of an FMA's occupancy: position, tile, row broadcast, container group, row set (R124). A DOT of
several source tiles passes over them one after the other, and reads its C operand in every pass: DESIGN CHOICE:
notes/assumptions/8.md. -/
def VPlan.cycleReads (q : VPlan) (p : Profile) (tags : Nat → Option Tag) (k : Nat) :
    List (Nat × Nat × Bool × Nat × Nat) :=
  let h := ceilDiv q.f.r 8
  let few := q.few tags true
  match q.kind with
  | .dot g hasC =>
    let pp := q.dotPack p
    let blk := q.dotPass p
    let t := k / blk
    let grp := k % blk / h
    let e0 := 32 * grp * pp
    let at_ (x : TileSrc) (e : Nat) (pos : Nat) : Nat × Nat × Bool × Nat × Nat :=
      let f := ((tags x.tile).map (·.fmt)).getD .fp32
      (pos, x.tile, x.rowB, (if x.colB then 0 else e) / (32 * f.pack), k % h)
    let c := if hasC then q.srcs.getLast?.toList.map (fun x => at_ x (e0 / q.fmt.pack) 2) else []
    ((q.srcs.drop t).take 1).map (fun x => at_ x e0 0) ++ ((q.srcs.drop (g + t)).take 1).map (fun x => at_ x e0 1) ++ c
  | _ =>
    let e0 := 32 * (k / h) * few
    q.positions.map (fun (pos, x) =>
      let f := ((tags x.tile).map (·.fmt)).getD .fp32
      let e := if x.colB then 0 else if pos = 1 && (q.kind == .bdec || q.kind == .bqnt) then e0 / 32 else e0
      (pos, x.tile, x.rowB, e / (32 * f.pack), k % h))

/-- The tile that an instruction writes in one of its own read cycles, with the row set (R111): cycle `k` of its occupancy
is the write cycle of the reads `lat - 1` cycles before; a DOT writes in its last pass alone. -/
def VPlan.ownWrite (q : VPlan) (p : Profile) (lat k : Nat) : Option (Nat × Nat) :=
  let from_ := match q.kind with
    | .dot g _ => (g - 1) * q.dotPass p
    | _ => 0
  match q.dest with
  | .tile td _ _ _ => if from_ + lat ≤ k + 1 then some (td, (k + 1 - lat) % ceilDiv q.f.r 8) else none
  | .mask _ => none

/-- One read of a slice: the latch has it, or is filled with it. -/
def latchRead (unit rows sl : Nat) (acc : Nat × Sparse Nat) (x : Nat × Nat × Bool × Nat × Nat) : Nat × Sparse Nat :=
  let (pos, tile, rb, grp, qs) := x
  if rows ≤ 8 * qs + sl then acc
  else
    let v := (tile * 64 + (if rb then 0 else 8 * qs + sl)) * 2 + grp + 1
    let key := (unit * 3 + pos) * 8 + sl
    if sget 0 acc.2 key = v then (acc.1 + 1, acc.2) else (acc.1, sset 0 acc.2 key v)

/-- A write to a tile reaches the slices of a row set: their latches of that tile are empty (R141). -/
def latchWrite (rows : Nat) (w : Option (Nat × Nat)) (m : Sparse Nat) : Sparse Nat :=
  match w with
  | some (td, qs) => m.filter (fun x => !((x.2 - 1) / 128 == td && Nat.blt (8 * qs + x.1 % 8) rows))
  | none => m

/-- Runs the reuse latches of one cluster through an instruction; gives the hits (R141). Each cycle is its reads, and what
the instruction's own write of that cycle reaches. -/
def latchRun (unit rows : Nat) (cycles : List (List (Nat × Nat × Bool × Nat × Nat) × Option (Nat × Nat))) (m : Sparse Nat) :
    Nat × Sparse Nat :=
  cycles.foldl (fun acc c =>
    let acc := (upTo 8).foldl (fun acc sl => c.1.foldl (latchRead unit rows sl) acc) acc
    (acc.1, latchWrite rows c.2 acc.2)) (0, m)

/-- The reuse latches of every cluster through an FMA instruction. -/
def latchAll (unit : Nat) (q : VPlan) (n : Nat) (s : State) : State :=
  let cycles := (upTo n).map (fun k => (q.cycleReads s.prof s.tagOf k, q.ownWrite s.prof q.lat k))
  (upTo s.lc).foldl (fun s cl =>
    match s.pcOf cl with
    | some pc =>
      let (hits, m) := latchRun unit q.f.r cycles (s.lane pc).latches
      let s := s.modLane pc (fun l => { l with latches := m })
      if hits = 0 then s else bumpCl 0 pc hits s
    | none => s) s

/-- Occupancy cycle of a vector instruction that writes the element at a row and column (R109, R124). DEDUCED:
notes/assumptions/8.md. -/
def VPlan.writeCycle (q : VPlan) (p : Profile) (tags : Nat → Option Tag) (fma : Bool) (row col : Nat) : Nat :=
  let h := ceilDiv q.f.r 8
  match q.kind with
  | .mcmp _ _ | .mlogic _ | .mset => 0
  | .dot g _ => (g - 1) * q.dotPass p + col / 32 * h + row / 8
  | _ => col / (32 * q.few tags fma) * h + row / 8

/-- A result to be written: number, registers, containers and NaNs per cluster, and flags by issue cycle × 64 + logical
cluster (R197). -/
structure SlotResult where
  slot : Nat
  op : Nat
  fmt : Fmt
  regs : List Nat
  tag : List (Nat × Tag)
  outs : List ClusterOut
  flags : List (Nat × FlagSet)
  deriving DecidableEq, Repr

/-- The result of a vector or Sweep slot, computed from the state before the bundle (R98, R245). DEDUCED:
notes/assumptions/8.md. -/
def slotResult (s : State) (n : Nat) (o : SlotOp) : Option SlotResult :=
  let c := s.vctx
  let (occ, lat) := slotTiming s n o
  let flags (at_ : Nat → Nat → Nat) (outs : List ClusterOut) : List (Nat × FlagSet) :=
    outs.zipIdx.flatMap (fun (x, cl) => x.fls.map (fun e => ((s.str.icyc + lat - 1 + at_ e.1 e.2.1) * 64 + cl, e.2.2)))
  match o with
  | .vec q =>
    let outs := (upTo s.lc).map (fun cl =>
      let (out, mask) := q.run c cl
      { out with cells := out.cells ++ (mask.map (fun m => (maskKey m.1, m.2))).toList })
    let fls := flags (q.writeCycle s.prof s.tagOf (n == 1 || n == 2)) outs
    match q.dest with
    | .tile td r n' g => some ⟨n, q.f.op, g, [td], [(td, ⟨r, n', g⟩)], outs, fls⟩
    | .mask m => some ⟨n, q.f.op, .int32, [16 + m % 8], [], outs, fls⟩
  | .swp q =>
    let pay := q.payTile.toList.map (fun t => (t, (⟨q.f.r, q.f.n, ((c.tag q.f.tb).map (·.fmt)).getD .int32⟩ : Tag)))
    let outs := q.run c
    some ⟨n, q.f.op, q.dest.fmt, q.f.td :: q.payTile.toList, (q.f.td, q.dest) :: pay, outs, flags (fun _ _ => occ - 1) outs⟩
  | _ => none

/-- Sets tile tags (R125). -/
def State.setTags (s : State) (ts : List (Nat × Tag)) : State :=
  s.modStr (fun t => { t with tags := ts.foldl (fun l x => l.set x.1 (some x.2)) t.tags })

/-- Flags to be raised in later issue cycles (R197). -/
def State.raiseLater (s : State) (fls : List (Nat × FlagSet)) : State :=
  s.modStr (fun t => { t with
    flagQ := fls.foldl (fun m e => if e.2 = flagNone then m else smod flagNone m e.1 (· ||| e.2)) t.flagQ })

/-- A result is written, or held back behind an older load of its register (R111, R112). DEDUCED:
notes/assumptions/8.md. -/
def putResult (base : Nat) (r : SlotResult) (s : State) : State :=
  let id := base + r.slot
  let s := (s.setTags r.tag).raiseLater r.flags
  if s.heldBack id r.regs then
    s.modStr (fun t => { t with wb := t.wb ++ [⟨id, r.regs, r.outs.map (·.cells)⟩] })
  else
    r.outs.zipIdx.foldl (fun s (o, cl) =>
      (r.regs.filter (· < 16)).foldl (fun s t => s.touchTile cl t) (s.putAny cl o.cells)) s

/-- Is a slot checked by the NaN trap (R203)? Bit 0 of SLOTS is FMA0, bit 4 is SWP. -/
def trapBit (slot : Nat) : Nat := if slot = 7 then 4 else slot - 1

/-- MODE, RESUME and SLOTS of TRAPCTL that an issuing bundle meets: a write counts from the next control cycle on
(R200). -/
def State.trapNow (s : State) : Nat × Bool × Nat :=
  if s.trap.setAt = s.clk.ckr / 8 + 1 then s.trap.was else (s.trap.mode, s.trap.resume, s.trap.slots)

/-- The order of R27 between the elements of one instruction. -/
def NanHit.before (h x : NanHit) : Bool :=
  h.cluster < x.cluster || (h.cluster == x.cluster && (h.row < x.row || (h.row == x.row && h.col < x.col)))

/-- The first of an instruction's trapping elements (R27, R202); of two tiles' elements at one place the destination's. -/
def firstHit (h : NanHit) (hs : List NanHit) : NanHit := hs.foldl (fun m x => if x.before m then x else m) h

/-- NaN traps of an issued bundle, which are recorded when its results have all been checked (R199, R200, R202).
DEDUCED: notes/assumptions/12.md. -/
def takeTraps (results : List SlotResult) (s : State) : State :=
  let (mode, resume, slots) := s.trapNow
  let hits := (results.filter (fun r => mode != 0 && slots.testBit (trapBit r.slot))).flatMap (fun r =>
    (r.outs.flatMap (·.nans)).filterMap (fun h => if mode = 2 || h.born then some (r, h) else none))
  match hits with
  | [] => s
  | (r, h0) :: rest =>
    let h := firstHit h0 ((rest.filter (fun x => x.1.slot == r.slot)).map (·.2))
    let hit : TrapHit :=
      { count := hits.length, resume := resume, pc := s.str.pc, slot := r.slot, cluster := h.cluster
        slice := h.row % 8, lane := h.col / h.pack % 32, opcode := r.op, born := h.born, row := h.row
        col := h.col, seq := (s.str.launch.map (·.seq)).getD 0 }
    { s with trap := { s.trap with found := some hit } }

/-- The traps of the last bundle are counted, and the first is recorded unless a record is kept (R201, R202). -/
def recordTrap (h : TrapHit) (s : State) : State :=
  let s := bumpBy 0x0244 h.count s
  let t := { s.trap with found := none, hit := true, hitResume := h.resume }
  let kept := { t with
    valid := true, pc := h.pc, slot := h.slot, cluster := h.cluster, slice := h.slice, lane := h.lane
    opcode := h.opcode, born := h.born, row := h.row, col := h.col, seq := h.seq }
  { s with trap := if s.trap.valid then t else kept }

/-! ### MOV, FUS and TND slots -/

/-- First line that a MOV load reads in C0 (R76). -/
def relLine (s : State) (q : MovPlan) : Nat := movAddr q.f (s.scal q.f.sbase) 0 0 / 1024

/-- Releases of a bundle: REL on loads (R76). -/
def movRelease (s0 : State) (q : MovPlan) (s : State) : State :=
  if !q.f.rel then s
  else
    match coveringIn s0.buoysBefore (relLine s0 q) (relLine s0 q + 1) with
    | (n, _) :: _ => s.release n 1
    | [] => s.buoyMisuse 0xFF 1 1 true

/-- Starts a MOV: its gates, and a store's data, are captured (R98, R118, R134). -/
def startMov (s0 : State) (n id : Nat) (q : MovPlan) (s : State) : State :=
  let base := s0.scal q.f.sbase
  let k := s0.lc
  let (occ, lat) := slotTiming s0 n (.mov q)
  let gates := (upTo k).map (fun cl => s0.maskOf cl q.f.msel)
  let data := if q.op.isStore then (upTo k).map (fun cl =>
      q.storeData s0.prof (fun i => !q.f.men || bitOf (gates.getD cl 0) i) (s0.tileCell cl)
        (s0.maskOf cl (q.f.tile % 8)) base cl) else []
  let m : MovInst :=
    { id := id, born := s0.str.icyc, issue := s0.str.icyc, unit := n, f := q.f, base := base, dbase := s0.fldoBase q, first := 0
      lat := lat, occ := occ, rowCyc := q.rowCycles base k 0, gates := gates
      stores := data.map (fun d => d.map (fun c => (c.1, c.2.1))), got := [], farGot := []
      rowsDone := 0, sent := 0, cut := none }
  -- a converting store raises its flags in its read cycles (R197)
  let fls := data.zipIdx.flatMap (fun (d, cl) =>
    let ws := q.words base cl 0
    (d.filter (fun c => c.2.2 != flagNone)).map (fun c =>
      ((s0.str.icyc + ws.findIdx (· == c.1 / 32) / 16) * 64 + cl, c.2.2)))
  let s := (s.raiseLater fls).modStr (fun t => { t with movs := t.movs ++ [m] })
  if q.op == .ld || q.op == .ldt then s.setTags [(q.f.tile, ⟨q.f.rows + 1, q.f.cols + 1, q.t⟩)] else s

/-- Words of a block that FUS or TND reads, as window accesses (R41). DEDUCED: notes/assumptions/25.md. -/
def descAccs (s : State) (a n : Nat) : List WinAcc := fetchAccs s .desc a n

/-- A FUS enters its Lantern's queue (R274). -/
def startFus (s0 : State) (f : FusSlot) (s : State) : State :=
  let a := ptrOf s0 f.spar
  let n := fusBlockLen s0 f.op a
  let s := s.modStr (fun t => { t with window := t.window ++ descAccs s0 a n })
  let out := if f.op = 1 then fusLoad s0 f.port f.chain a none else fusStart s0 f.port f.chain a none (some s0.prof)
  match out with
  | .ok c => (s.lnPut f.port c).noteSent 2 f.port
  | .bounds | .chain => s

/-- A TND starts its transfer (R95, R515). -/
def startTnd (s0 : State) (f : TndSlot) (s : State) : State :=
  let a := ptrOf s0 f.sdesc
  let s := s.modStr (fun t => { t with window := t.window ++ descAccs s0 a 64 })
  match tndXfer s0 f with
  | some x => (sendPump f.ch (tdStart f.ch x none s0.prof s)).noteSent 3 f.ch
  | none => s

/-! ### Waits before a bundle (R77, R95, R100, R114, R384, R405) -/

/-- Buoys that block a bundle. DEDUCED: notes/assumptions/15.md. -/
def buoysBlocking (s : State) (o : SlotOp) : List Nat :=
  let notClear (n : Nat) : List Nat :=
    let st := (s.buoyBefore n).st
    if st == .ready || st == .free then [] else [n]
  match o with
  | .mov q =>
    if q.op.isLoad && !q.f.far then
      let base := s.scal q.f.sbase
      (upTo s.lc).flatMap (fun cl => (upTo q.nRows).flatMap (fun m =>
        let a := movAddr q.f base cl m
        s.notIn .ready (a / 1024) ((a + q.rowLen + 1023) / 1024)))
    else []
  | .ctl f =>
    match f.op with
    | 0x40 => if (s.buoyBefore f.x).st == .free && !s.ordered 4 f.x then [] else [f.x]
    | 0x41 => if s.ordered 4 f.x then [f.x] else notClear f.x
    | 0x43 => notClear f.x
    | _ => []
  | _ => []

/-- Granules pending for a mark that a bundle's stores can touch (R405). -/
def cowBlocking (s : State) (o : SlotOp) : List Nat :=
  if s.log.pend.isEmpty then []
  else
    match o with
    | .mov q =>
      if q.op.isStore then
        let base := s.scal q.f.sbase
        ((upTo s.lc).flatMap (fun cl => (upTo q.nRows).flatMap (fun m =>
          let a := movAddr q.f base cl m
          fromTo (granuleOf a) (granuleOf (a + q.rowLen - 1) + 1 - granuleOf a)))).filter s.cowPending
      else []
    | .ctl f => if f.op = 0x11 && s.cowPending (granuleOf (ctlAddr s f)) then [granuleOf (ctlAddr s f)] else []
    | _ => []

/-- A Transfer- or Control-ring descriptor may start (R384, R404); an error that waits for the fault sequencer comes
before it (R33). -/
def State.mayStart (s : State) : Bool :=
  s.rst.ready && s.rst.pstate == 0 && !s.evHolds && !s.quiescing && !s.flt.fatal && s.errs.isEmpty

/-- The Transfer-ring descriptor that is next may start in this cycle and takes this Idle channel (R307). -/
def State.ringTakes (s : State) (c : Nat) : Bool :=
  match s.kp.xferTaken with
  | [] => false
  | d :: _ =>
    let x := Xfer.ofBytes d.bytes
    s.mayStart && !s.ring.hold && !s.flt.stopped && !s.flt.unitdown && x.half * 64 + x.ch == c && x.check (Profile.ofCode x.profile) == .ok

/-- A channel, a Lantern queue or the event queue keeps a bundle waiting. -/
def unitBlocking (s : State) (o : SlotOp) : Bool :=
  match o with
  | .fus f => !s.lnRoom f.port || s.ordered 2 f.port
  | .tnd f => (s.chan f.ch).st != .idle || s.ordered 3 f.ch || s.ringTakes f.ch
  | .ctl f => f.op == 0x51 && s.evHolds
  | _ => false

/-- Conflicts that delay a FUS or TND (R386). -/
def noteDelays (ops : List (Nat × SlotOp)) (s : State) : State :=
  ops.foldl (fun s x => match x.2 with
    | .fus f => s.noteDelay 2 f.port
    | .tnd f => s.noteDelay 3 f.ch
    | _ => s) s

/-- A slot's access meets a sector that is not open (R61). -/
def darkBad (s : State) (o : SlotOp) : Bool :=
  match o with
  | .mov q =>
    let rows (base : Nat) : Bool := (upTo s.lc).all (fun cl => (upTo q.nRows).all (fun m =>
      s.runOpen (movAddr q.f base cl m) q.rowLen))
    if q.op == .fldo then !rows (s.fldoBase q) else !q.f.far && !rows (s.scal q.f.sbase)
  | .ctl f => (f.op == 0x10 || f.op == 0x11) && !s.runOpen (ctlAddr s f) 8
  | .fus f =>
    let a := ptrOf s f.spar
    !s.runOpen a 4 || !s.runOpen a (fusBlockLen s f.op a)
  | .tnd f => !s.runOpen (ptrOf s f.sdesc) 64
  | _ => false

/-! ### Issue -/

/-- The bundle's largest lateness, with the issue cycle at which that data is due (R25). -/
def bundleLate (s : State) (ops : List (Nat × SlotOp)) : Nat × Nat :=
  ops.foldl (fun d x => match x.2 with
    | .mov q =>
      let base := s.scal q.f.sbase
      let lat := q.loadLatency base s.lc
      let (late, k) := spareLate q base 0 lat s
      let due := s.str.icyc + lat - 1 + k
      laterOf d (late, due)
    | _ => d) (0, 0)

/-- Adds a slot's reads and writes to the hazard board, and occupies its unit (R112). -/
def boardAdd (t : Nat) (u : Use) (st : Stream) : Stream :=
  { st with
    board := st.board ++ u.reads.filterMap (fun r => if r.1 < 32 then some ⟨r.1, false, t, r.2, 0⟩ else none) ++
      u.writes.map (fun w => ⟨w.1, true, w.2.1, w.2.2, w.2.2 + 1⟩)
    unitFree := sset 0 st.unitFree u.slot (t + u.occ) }

/-- A full line of trace records goes to Osura as FLUSH traffic (R509). DEDUCED: notes/assumptions/39.md. -/
def traceLine (s : State) : State :=
  if 128 ≤ s.trc.buf.length && !s.trc.busy && !s.trc.stopped then
    let bs := (s.trc.buf.take 128).flatMap (fun r => toBytes 4 r.1 ++ toBytes 4 r.2)
    ({ s with trc := { s.trc with busy := true } }).askOsura .flush .trace s.trc.ptr 1024 (some (cellsAt s.trc.ptr bs))
  else s

/-- A trace record (R509, R510): the buffer holds 256. DEDUCED: notes/assumptions/39.md. -/
def traceIssue (s : State) : State :=
  let t := s.trc
  let jump := match t.lastPc with
    | some p => s.str.pc != p
    | none => true
  if t.mode = 0 || 3 ≤ t.mode || (t.mode = 2 && !jump) then s
  else if t.stopped || t.actLimit ≤ t.actBase || 256 ≤ t.buf.length then bump 0x0274 s
  else
    let s := { s with trc := { t with buf := t.buf ++ [(s.str.pc, s.clk.cyc % 2 ^ 32)] } }
    traceLine s

/-- Counts of an issue cycle (R507, R508). -/
def countIssue (s : State) : State :=
  let busy := s.str.unitFree.any (fun x => 1 ≤ x.1 && x.1 ≤ 7 && s.str.icyc < x.2)
  let s := bumpWide 0x0110 1 s
  if busy then (upTo s.lc).foldl (fun s cl => match s.pcOf cl with
    | some pc => bumpCl 2 pc 1 s
    | none => s) s
  else s

/-- The CTL slot of a bundle, if it executes one. -/
def ctlOf (ops : List (Nat × SlotOp)) : Option CtlSlot :=
  ops.findSome? (fun x => match x.2 with
    | .ctl f => some f
    | _ => none)

/-- The bundle issues (R91, R98, R107 to R112): every slot reads the state before it. DEDUCED:
notes/assumptions/8.md. -/
def issueBundle (ops : List (Nat × SlotOp)) (len : Nat) (s0 : State) : State :=
  let end_ := s0.str.pc + len
  let base := s0.str.movNext
  let t := s0.str.icyc
  let uses := ops.map (fun x => slotUse s0 x.1 x.2)
  let results := ops.filterMap (fun x => slotResult s0 x.1 x.2)
  let s := traceIssue s0
  let s := uses.foldl (fun s u => s.modStr (boardAdd t u)) (s.modStr (fun st => { st with
    movNext := base + 10
    board := st.board.filter (fun e => if e.isWrite then t < e.ready else t ≤ e.last)
    buoyWait := 0, looked := false }))
  let s := s.oweSpare (bundleLate s0 ops)
  let s := ops.foldl (fun s x => match x.2 with
    | .vec q => if x.1 = 1 || x.1 = 2 then latchAll (x.1 - 1) q (slotTiming s0 x.1 x.2).1 s else s
    | _ => s) s
  let s := ops.foldl (fun s x => match x.2 with
    | .mov q => movRelease s0 q s
    | _ => s) s
  let s := match ctlOf ops with
    | some f => ctlEffect s0 f s
    | none => s
  -- a later slot writes a tile later, and its tag with it (R112, R125)
  let s := (results.filter (·.slot < 5)).foldl (fun s r => putResult base r s) s
  let s := ops.foldl (fun s x => match x.2 with
    | .mov q => startMov s0 x.1 (base + x.1) q s
    | .fus f => startFus s0 f s
    | .tnd f => startTnd s0 f s
    | _ => s) s
  let s := takeTraps results ((results.filter (5 ≤ ·.slot)).foldl (fun s r => putResult base r s) s)
  let checked := (uses.filter (fun u =>
    (u.slot = 7 || (1 ≤ u.slot && u.slot ≤ 4)) && s.trapNow.2.2.testBit (trapBit u.slot)))
  let wait := if s.trapNow.1 = 0 then 0 else checked.foldl (fun m u => max m (u.span - 2)) 0
  let s := movEnter ((ctlOf ops).map (sstAcc s0) |>.getD []) (s.modStr (fun st => { st with trapWait := wait }))
  let s := if s.str.fence then s.flushBefore (2 ^ 64) else s
  let s := countIssue s
  let s := { s with trc := { s.trc with lastPc := some end_ } }
  if s.str.ended then nextIssue s
  else
    let s := match ctlOf ops with
      | some f =>
        if f.op = 0x20 then
          startLoop f (if f.immsel then f.imm % 2 ^ 32 else s0.scal f.sb % 2 ^ 32) end_ (advancePc end_ s)
        else if f.op = 0x21 then startLoop f (s0.scal f.sa) end_ (advancePc end_ s)
        else advancePc end_ s
      | none => advancePc end_ s
    dropFetched (nextIssue s)

/-! ### Stream aborts (R426) -/

/-- A memory tag of the stream's far reads. -/
def MemOwner.isFar : MemOwner → Bool
  | .far _ _ _ _ => true
  | _ => false

/-- Takes far reads and FLDO writes off the stream: waiting ones are dropped, accepted writes complete for
nobody, and outstanding responses are dropped when they return. -/
def dropFar (s : State) : State :=
  let q := s.osura.q.filterMap (fun r => match r.who with
    | .fldo _ _ _ => if s.buoyBlocked r then none else some { r with who := .nobody }
    | _ => some r)
  { s with
    osura := { s.osura with q := q }
    mem := { s.mem with farQ := [], rd := s.mem.rd.map (fun t => if t.who.isFar then t.orphan else t) } }

/-- Ends every transfer that `gone` names and those of TNDs that wait, with no record, event or completion (R393, R426): what its sectors
have accepted completes, and outstanding responses are dropped when they return. -/
def dropChannels (gone : Chan → Bool) (s : State) : State :=
  let dead (c : Nat) : Bool := (s.chan c).st != .idle && gone (s.chan c)
  let q := s.osura.q.filterMap (fun r => match r.who with
    | .tender c _ => if !dead c then some r
      else if r.wr.isSome && !s.buoyBlocked r then some { r with who := .nobody }
      else none
    | _ => some r)
  let kill (t : MemTag) : MemTag := match t.who with
    | .tender c _ => if dead c then t.orphan else t
    | _ => t
  { s with
    osura := { s.osura with q := q }
    mem := { s.mem with rd := s.mem.rd.map kill, wr := s.mem.wr.map kill }
    td := { s.td with ch := s.td.ch.filter (fun x => !gone x.2), sentBack := [] } }

/-- Every buffer and flush queue is empty and its writes are served (R50). -/
def State.fenceDone (s : State) : Bool :=
  s.str.carry.isEmpty && s.osura.cb.isEmpty && s.unserved.all (fun x => !x.kind.isStore) &&
    s.osura.q.all (fun r => match r.who with
      | .flush _ _ _ _ => false
      | _ => true)

/-- A launch is over: the stream is idle. -/
def endLaunch (s : State) : State :=
  { s.modStr (fun t => { t with
      launch := none, branch := none, window := [], due := [], movs := [], wb := [], carry := [], scalQ := []
      flagQ := [], cmds := [], shadow := [], fenced := [], prods := [], board := [], unitFree := [], fence := false
      ended := false, pauseReq := false, stopWait := none, resuming := false, trapWait := 0, bankStall := 0
      deferred := [], spareDue := [], spareStall := 0, buoyWait := 0, looked := false, farHits := [], frozen := false
      loopBuf := if t.loopBuf.complete then t.loopBuf else t.loopBuf.drop })
    with trap := { s.trap with found := none, hit := false } }

/-- The stream is idle, and its stop registers read as for RUN (R119). DEDUCED: notes/assumptions/32.md. -/
def clearStream (s : State) : State :=
  (endLaunch s).modStr (fun t => { t with
    stop := .blank, movRow := [(0, false), (0, false)], farFault := .blank })

/-- A stream abort is under way. -/
def State.aborting (s : State) : Bool := s.str.stopWait.any (·.cause == 0x0C)

/-- The abort's first step: issue stops, what has not completed is abandoned, and of the accesses issued the stores
remain. A terminal stop, whose WORK_DONE has been queued, stays recorded until the end. DEDUCED:
notes/assumptions/32.md. -/
def startAbort (s : State) : State :=
  let next := if s.str.ended then s.trc.lastPc.getD s.str.pc else s.str.pc
  (dropFar s).modStr (fun t => { t with
    stop := if t.stop.resumable then .blank else t.stop
    stopWait := some (.plain 0x0C), pc := next, ended := false, fence := false, frozen := false, pauseReq := false
    resuming := false, movs := [], wb := [], scalQ := [], flagQ := [], spareDue := [], spareStall := 0, trapWait := 0
    window := t.window.filter (fun x => x.kind.isStore), due := t.due.filter (·.store), farHits := [] })

/-- The abort's other steps, once the stores are written and the event queue has room. DEDUCED:
notes/assumptions/32.md. -/
def endAbort (s : State) : State :=
  let s := dropChannels (fun c => c.ring.isNone) s
  let s := dropRelays ((upTo 4).foldl (fun s n => lnDrop n false s) s)
  let s := if s.streamStopped then s
    else s.push (s.launchRecord 0x01 0x0C ((s.str.launch.map (·.user)).getD 0) s.str.pc 0)
  (clearStream s).settlePauses

/-- One core cycle of an abort: the stores already issued are fenced (R50). -/
def abortCycle (s : State) : State :=
  let s := s.flushBefore (2 ^ 64)
  if s.fenceDone && s.evRoom then (endAbort s).advance else s.advance

/-! ### The cycle -/

/-- A cycle in which nothing issues, counted at an offset. -/
def stallAt (off : Nat) (s : State) : State := (bump off s).advance

/-- One bank-conflict stall cycle: each bank that holds deferred accesses serves one, whichever side owns the cycle,
unless a Beacon write waits for the bank, which extends the stall (R44). A stall cycle that the stream owns would bring a
bank an access of the window as well (R40), against R34: the bank serves the older of the two, and the other comes
later. DESIGN CHOICE: notes/assumptions/9.md. -/
def bankCycle (s : State) : State :=
  let banks := dedup s.str.deferred []
  let lent := banks.filter (fun b => !s.bankTaken b)
  let left := lent.foldl (fun l b => l.erase b) s.str.deferred
  let more := if lent.length = banks.length then 0 else 1
  let s := serveBanks lent.contains s
  (bumpBy 0x0200 more (s.modStr (fun t => { t with deferred := left, bankStall := t.bankStall + more - 1 }))).advance

/-- Far loads whose data should be here by now and is not (R117, R139). -/
def State.farLate (s : State) : Bool :=
  s.str.movs.any (fun m => m.f.far && m.f.op == 1 && m.cut.isNone && m.issue + m.occ + m.lat - 1 ≤ s.str.icyc)

/-- Every MOV with a faulting row has the data of the rows before it, and those of an FLDO are written (R117, R140). -/
def State.farSettled (s : State) : Bool :=
  s.str.movs.all (fun m =>
    match s.farRow m, planMov s.prof m.f with
    | some r, some q => if q.op == .fldo then r ≤ m.rowsDone else
        (fromTo m.rowsDone (r - m.rowsDone)).all (fun i => m.rowReady q s.lc i)
    | _, _ => true)

/-- A MOV with a faulting row still asks for rows. -/
def State.farCarries (s : State) : Bool := s.str.movs.any (fun m => (s.farRow m).isSome && m.carrying s.str.icyc)

/-- A channel's requests are taken back; responses to those in tag are dropped when they return. -/
def State.withoutRequests (s : State) (c : Nat) : State :=
  let mine (w : MemOwner) : Bool := match w with
    | .tender c' _ => c' == c
    | _ => false
  let kill (t : MemTag) : MemTag := if mine t.who then t.orphan else t
  { s with
    osura := { s.osura with q := s.osura.q.filter (fun r => match r.who with
      | .tender c' _ => c' != c
      | _ => true) }
    mem := { s.mem with rd := s.mem.rd.map kill, wr := s.mem.wr.map kill } }

/-- An order of a higher master reaches a channel: the transfer of a TND that has issued to it in this control cycle waits
for the channel again (R307, R386). DEDUCED: notes/assumptions/15.md. -/
def State.tndBack (s : State) (c : Nat) : State :=
  let ch := s.chan c
  let s' := s.meetSent 3 c
  if s.sentNow 3 c != 0 && ch.ring.isNone && (ch.st == .busy || ch.st == .finished) then
    let s' := (s'.withoutRequests c).setChan c Chan.idle
    { s' with td := { s'.td with sentBack := s'.td.sentBack ++ [(c, ch.x)] } }
  else s'

/-- A FUS or TND has been sent back to wait for its unit (R386). -/
def State.sentBackAny (s : State) : Bool := !s.td.sentBack.isEmpty || s.ln.any (fun l => !l.sentBack.isEmpty)

/-- One core cycle of a stop that has been found. -/
def waitedStop (a : StopAt) (s : State) : State := if a.cause = 0x0C then abortCycle s else stopCycle a s

/-- One core cycle of an XLATE stop (R117, R140): the rows before the faulting one come first, and are asked for first. -/
def farStop (h : FarFault) (s : State) : State :=
  if s.farSettled then stopCycle ⟨3, some (h.unit + 5), 0, 0, 0, 0⟩ s
  else if s.farCarries then drainCycle (bump 0x0218 s)
  else stallAt 0x0218 s

/-- FUS and TND that have been sent back enter, in a later cycle, once their unit can take them (R274, R307, R386). -/
def backPump (s : State) : State :=
  let s := (upTo 4).foldl (fun s n =>
    match (s.lan n).sentBack with
    | c :: rest => if s.lnRoom n && !s.ordered 2 n then (s.modLn n (fun l => { l with sentBack := rest })).lnPut n c else s
    | [] => s) s
  match s.td.sentBack with
  | (c, x) :: rest =>
    if (s.chan c).st == .idle && !s.ordered 3 c && !s.ringTakes c then
      sendPump c (tdStart c x none s.prof { s with td := { s.td with sentBack := rest } })
    else s
  | [] => s

/-- A result that the next issue cycle's end would write lacks its data (R40). -/
def State.dataLate (s : State) : Bool :=
  s.str.scalQ.any (fun e => e.1 ≤ s.str.icyc && e.2.2.isNone) ||
    s.str.movs.any (fun m => m.cut.isNone && !m.f.far && (match planMov s.prof m.f with
      | some q => q.op.isLoad && m.rowsDone < q.nRows && m.rowDue m.rowsDone ≤ s.str.icyc &&
          !m.rowReady q s.lc m.rowsDone
      | none => false))

/-- A bank that conflicts have kept busy without a break may not have served an access in time for the results of this
cycle: the conflict stall then goes on for one more cycle (R31, R44). DESIGN CHOICE: notes/assumptions/9.md. -/
def stallLate (s : State) : State :=
  if s.str.bankStall = 0 && s.dataLate && !s.str.due.isEmpty then
    bumpBy 0x0200 1 (s.modStr (fun t => { t with bankStall := 1, deferred := dedup (t.due.map (·.bank)) [] }))
  else s

/-- A resume still waits for the MOVs that it has re-issued (R118). -/
def State.resumeAhead (s : State) : Bool :=
  s.str.resuming && (s.str.movs.any (fun m => m.unfinished s) || !s.str.carry.isEmpty ||
    s.unserved.any (fun x => x.kind.isStore))
/-- An entry that must flush finds its queue full and holds up the stream (R49). While a fence waits, its cycles count
as the fence's alone; after END, they count while a MOV still carries words. DESIGN CHOICE: notes/assumptions/9.md. -/
def State.flushHolds (s : State) : Bool :=
  s.flushStuck && (!s.str.fence || (s.str.ended && s.str.movs.any (·.carrying s.str.icyc)))

/-- What comes before the bundle at the pc: the waits of R108 that do not depend on it. `none` lets it be looked at.
Cycles that wait for the rows before a faulted row count as far-load stalls. DEDUCED: notes/assumptions/12.md; DESIGN
CHOICE: notes/assumptions/16.md. -/
def preCycle (s : State) : Option State :=
  let due := (s.str.spareDue.filter (fun d => d.1 ≤ s.str.icyc)).foldl (fun n d => n + d.2) 0
  let s := if due = 0 then s else s.modStr (fun t => { t with
    spareDue := t.spareDue.filter (fun d => t.icyc < d.1), spareStall := t.spareStall + due })
  if s.str.bankStall != 0 then some (bankCycle s)
  else if s.str.spareStall != 0 then some (stallAt 0x0204 (s.modStr (fun t => { t with spareStall := t.spareStall - 1 })))
  else if s.flushHolds then
    let s := flushPump s
    some (stallAt 0x0208 s)
  else
    match s.str.stopWait, s.farPick with
    | some a, none => some (waitedStop a s)
    | some a, some h => some (if a.cause = 5 || a.cause = 0x0C then waitedStop a s else farStop h s)
    | none, some h => some (farStop h s)
    | none, none =>
      if s.sentBackAny then some (backPump s).advance
      else if s.resumeAhead then some (drainCycle s)
      else if s.str.trapWait != 0 then some (stallAt 0x021C (s.modStr (fun t => { t with trapWait := t.trapWait - 1 })))
      else
        match s.trap.found with
        | some h => some (stopCycle ⟨4, some h.slot, 0, 0, 0, 0⟩ (recordTrap h s))
        | none =>
          if s.str.ended then (if s.resultsAhead then some (drainCycle s) else none)
          else if s.str.fence then some (stallAt 0x0210 (s.flushBefore (2 ^ 64)))
          else if s.farLate then some (stallAt 0x0218 s)
          else none

/-- The bundle at the pc has not been fetched: a stall, or the stop of R101. -/
def notFetched (s : State) : State :=
  match s.fetchedRun s.str.pc 4 with
  | none => if s.secOpen (secOf s.str.pc) then stallAt 0x0214 s else stopCycle (.plain 0x0A) s
  | some h =>
    let n := bundleLen (ofBytes h)
    if 2 ^ 29 < s.str.pc + n then stopCycle (.plain 0x07) s
    else if !s.runOpen s.str.pc n then stopCycle (.plain 0x0A) s
    else stallAt 0x0214 s

/-- An ARM that its second check refuses, in the cycle in which it would issue (R72). DEDUCED:
notes/assumptions/15.md. -/
def armBad (s : State) (o : SlotOp) : Bool :=
  match o with
  | .ctl f => f.op == 0x40 && !s.armOk f.x (s.scal f.sa % 2 ^ 32) (bitsOf f.imm 0 17)
  | _ => false

/-- A fetched bundle: its checks, its waits, and its issue (R72, R114); of a pause and an error that fall on it, the
error is recorded (R115). -/
def bundleCycle (b : Bundle) (len : Nat) (s : State) : State :=
  match checkBundle s b len with
  | .error a => stopCycle a s
  | .ok ops =>
    let byBuoy := ops.any (fun x => !(buoysBlocking s x.2).isEmpty)
    let cows := ops.flatMap (fun x => cowBlocking s x.2)
    let byUnit := ops.any (fun x => unitBlocking s x.2)
    if byBuoy || byUnit || !cows.isEmpty then
      if s.str.pauseReq then stopCycle (.plain 2) s
      else
        let s := if byBuoy then bump 0x020C (s.modStr (fun t => { t with buoyWait := t.buoyWait + 1 }))
          else s.modStr (fun t => { t with buoyWait := 0 })
        let s := cows.foldl (fun s g => s.forceCow g) s
        let s := if cows.isEmpty || s.cowWaits then s else bump 0x0220 s
        let s := if byBuoy || !cows.isEmpty then s else noteDelays ops s
        (s.modStr (fun t => { t with looked := true })).advance
    else
      match ops.find? (fun x => armBad s x.2), ops.find? (fun x => darkBad s x.2) with
      | some x, _ => stopCycle ⟨0x07, some x.1, 0, 0, 0, 0⟩ s
      | none, some x => stopCycle ⟨0x0A, some x.1, 0, 0, 0, 0⟩ s
      | none, none => if s.str.pauseReq then stopCycle (.plain 2) s else (issueBundle ops len s).advance

/-- One core cycle of the running stream. -/
def streamCycle (s : State) : State :=
  match preCycle s with
  | some s' => s'
  | none =>
    let s := s.modStr (fun t => { t with resuming := false })
    let pc := s.str.pc
    if s.str.ended then s
    else if s.str.branch.isNone && s.clk.cyc < s.str.earliest then stallAt 0x0214 s
    else if pc % 4 != 0 || 2 ^ 29 ≤ pc then stopCycle (.plain 0x07) s
    else
      match s.bundleHere with
      | some (b, len) => bundleCycle b len s
      | none => notFetched s

/-- BUNDLE_ISSUE: one core cycle of the stream, in which its next bundle issues, waits or is stopped before
(R108). An error that waits for the fault sequencer comes first (R33). -/
def execBundleIssue (s : State) : Host.Outcome State Fault Refusal :=
  if !s.wrun || (s.streamStopped && !s.aborting) || !s.rst.ready || s.clk.stopped || s.rst.pstate != 0 ||
      !s.errs.isEmpty then .next s
  else .next (streamCycle (stallLate (serveWindows s)))

/-! ### Rows that end what a bundle began -/

/-- Nothing of a store issued before `t` is on its way (R74). -/
def State.storesDone (s : State) (t : Nat) : Bool :=
  s.unserved.all (fun x => !x.kind.isStore || t ≤ x.age) && s.str.carry.all (fun p => t ≤ p.age) &&
    s.osura.cb.all (fun c => c.2.all (fun e => t ≤ e.age)) &&
    s.osura.q.all (fun r => match r.who with
      | .flush _ _ _ age => t ≤ age
      | _ => true) &&
    s.str.movs.all (fun m => !((MovOp.ofCode m.f.op).any MovOp.isStore) || t ≤ m.born)

/-- PROD_COUNT (R74): the oldest PROD of the buoy counts once every earlier stream store has been served. An order that
drops the PROD later in its control cycle drops the count with it (R386). -/
def execProdCount (buoy : Fin 256) (s : State) : Host.Outcome State Fault Refusal :=
  match s.str.prods.find? (fun p => p.1 == buoy.val) with
  | some p =>
    if s.storesDone p.2 then
      let t := s.modStr (fun t => { t with prods := t.prods.erase p })
      let mine := t.str.cmds.any (fun c => c.1 == t.clk.ckr / 8 && c.2.1 == buoy.val && c.2.2.2 == p.2)
      .next (if mine then t.countAt buoy 2 1 Buoy.completed else t.complete buoy 1)
    else .next s
  | none => .next s

/-- FENCE_COMPLETE (R100). -/
def execFenceComplete (s : State) : Host.Outcome State Fault Refusal :=
  if s.str.fence && !s.str.ended && s.fenceDone then .next (fenceStores (s.modStr (fun t => { t with fence := false })))
  else .next s

/-- Tender transfers and Lantern chains that the program started are over (R100). -/
def State.programQuiet (s : State) : Bool :=
  s.td.ch.all (fun c => c.2.st == .idle || c.2.ring.isSome) &&
    s.ln.all (fun l => l.prods.all (·.ctl.isSome) && l.q.all (·.ctl.isSome))

/-- Nothing of the ended program is still to come: no stop, no trap, no MOV, result, access, fence or count, and what
it started has ended (R100). -/
def State.programOver (s : State) : Bool :=
  s.str.stopWait.isNone && s.str.farHits.isEmpty && s.str.trapWait == 0 && s.trap.found.isNone && s.str.bankStall == 0 &&
    s.str.spareStall == 0 && s.str.movs.isEmpty && !s.resultsAhead && !s.windowsOpen && s.fenceDone &&
    s.str.prods.isEmpty && s.programQuiet

/-- END_COMPLETE (R100, R374): the fence is over and what the program started has ended; WORK_DONE is queued. -/
def execEndComplete (s : State) : Host.Outcome State Fault Refusal :=
  if s.wrun && s.str.ended && !s.streamStopped && s.evRoom && s.programOver then
    let l := s.str.launch
    let s := s.push (s.launchRecord 0x01 1 ((l.map (·.user)).getD 0) 0 0)
    let pc := s.str.pc
    .next ((endLaunch s).modStr (fun t => { t with stop := { StopRec.blank with pc := pc, cause := 1 } }))
  else .next s

/-- CB_ENTRY_TIMEOUT (R48): an entry flushes 64 cycles after it was allocated. -/
def execCbEntryTimeout (pc : Fin 34) (word : BitVec 24) (s : State) : Host.Outcome State Fault Refusal :=
  match (sget [] s.osura.cb pc.val).find? (fun e => e.word == word.toNat && e.at_ + 64 ≤ s.clk.cyc) with
  | some e =>
    .next (flushMusts pc (s.setCb pc (·.map (fun x => if x.word == e.word then { x with must := true } else x))))
  | none => .next s

/-- KEEPER_CMD.PAUSE and the Control-ring PAUSE (R375): the stream is to stop before its next bundle. -/
def askPause (s : State) : State :=
  if s.wrun && !s.streamStopped && !s.str.ended then s.modStr (fun t => { t with pauseReq := true }) else s

/-- RESUME (R118, R375): a resumable stop is resumed, and suspended Lanterns go on (R298). -/
def askResume (s : State) : State :=
  if s.wrun && s.str.stop.resumable then lnResume (resumeStream s) else s

/-- KEEPER_CMD.PAUSE, with its note for the Control ring's PAUSE and RESUME of the same control cycle (R385). -/
def cmdPause (s : State) : State := (askPause s).order 5 0

/-- KEEPER_CMD.RESUME, with that note where it resumes a stop. -/
def cmdResume (s : State) : State := askResume (if s.wrun && s.str.stop.resumable then s.order 6 0 else s)

/-- KEEPER_PAUSE. -/
def execKeeperPause (s : State) : Host.Outcome State Fault Refusal :=
  .next (s.hostWrite cmdPause)

/-- KEEPER_RESUME. -/
def execKeeperResume (s : State) : Host.Outcome State Fault Refusal :=
  .next (s.hostWrite cmdResume)

end Sys2Proof.Machine
end

