-- ==== Sys2Proof/Machine/Async.lean ====
section
/-! DEFINITION. The sector controllers: asynchronous service, scrubbing, sector power and states
(spec/02_osura_memory.md R38 to R65), and the buoys' own events (spec/03_buoys.md R79 to R86). -/

namespace Sys2Proof.Machine

/-! ### Power requests (R462, R478, R479) -/

/-- SB domain of a physical sector (R461). -/
def secDom (ps : Nat) : Nat := 34 + ps

def State.powerBusy (s : State) (dom : Nat) : Bool := s.pwr.reqs.any (·.1 == dom)

/-- Sends a power request; OFF and RETAIN take the domain off at once (R479). -/
def State.powerAsk (s : State) (dom op : Nat) : State :=
  { s with
    pwr := { s.pwr with
      reqs := s.pwr.reqs ++ [(dom, op)]
      asked := sset 0 s.pwr.asked dom s.clk.ckr
      on := if op = 0 || op = 2 then sset false s.pwr.on dom false else s.pwr.on }
    out := s.out ++ [.power dom op] }

/-- A request for a cluster is outstanding; outside bring-up and Eclipse each is made alone (R478). -/
def State.clusterAsking (s : State) : Bool := s.pwr.reqs.any (fun r => r.1 < 34)

/-- Switches a domain off; while a request for it is outstanding (R462), the OFF follows its answer, and a cluster's is
made alone (R478). -/
def State.powerOff (s : State) (dom : Nat) : State :=
  if dom < 34 && s.clusterAsking then
    (if s.pwr.offDue.contains dom then s else { s with pwr := { s.pwr with offDue := s.pwr.offDue ++ [dom] } })
  else if s.powerBusy dom then s
  else s.powerAsk dom 0

/-- An error about the very spare that is being swapped in (R395, R462). -/
def State.aboutSpare (s : State) (e : ErrRec) : Bool :=
  (e.kind == 1 && s.flt.swapFor.any (·.spare == e.phys)) || (e.kind == 2 && s.flt.secSwap.any (·.spare == e.phys))

/-- The next request for a cluster, alone: an OFF that is due, or the ON of the spare that a swap has chosen (R395,
R478). -/
def clusterPump (s : State) : State :=
  if s.clusterAsking then s
  else
    match s.pwr.offDue, s.flt.swapFor with
    | d :: rest, _ => { s with pwr := { s.pwr with offDue := rest } }.powerAsk d 0
    | [], j :: _ => if j.on || s.errs.any s.aboutSpare then s else s.powerAsk j.spare 1
    | [], [] => s

/-! ### Sectors that light and close (R59, R60, R433) -/

/-- LIGHT and DARKEN descriptors hear of a sector: it leaves the sectors still to come of every running
descriptor with the code, and a descriptor with none left has completed (R378). -/
def State.secSettled (s : State) (op sec : Nat) (failed : Bool) : State :=
  let runs := s.kp.ctlRun.map (fun (r : CtlRun) =>
    if r.op = op && !r.done && r.secs.contains sec then
      let rest := r.secs.filter (· != sec)
      { r with secs := rest, status := if failed then 2 else r.status, done := rest.isEmpty }
    else r)
  ctlPump { s with kp := { s.kp with ctlRun := runs } }

/-- Starts to light a sector whose turn has come. DEDUCED: notes/assumptions/19.md. -/
def startLight (ps sec : Nat) (s : State) : State :=
  let s := { s with pwr := { s.pwr with
    lightQ := s.pwr.lightQ.filter (· != sec), lightOn := s.pwr.lightOn ++ [(sec, false)] } }
  (s.modSec sec (fun c => { c with st := .lighting })).powerAsk (secDom ps) 1

/-- The physical sector that a logical sector is lit on: the spare while it is being retired (R64). -/
def State.lightHome (s : State) (sec : Nat) : Option Nat :=
  match s.flt.secSwap with
  | some w => if w.sec = sec then some w.spare else s.psecOf sec
  | none => s.psecOf sec

/-- Sectors between their ON and the end of their zero-fill, with those whose ON is outstanding though the lighting has
been given up (R478). -/
def State.lightCount (s : State) : Nat :=
  s.pwr.lightOn.length + (s.pwr.reqs.filter (fun r =>
    r.2 == 1 && 34 ≤ r.1 && r.1 < 102 && s.pwr.lightOn.all (fun x => (s.lightHome x.1).map secDom != some r.1))).length

/-- A sector whose map still names a fenced sector, after a reset in the middle of its retirement: it is retired again
before it can be lit (R64). DEDUCED: notes/assumptions/34.md. -/
def State.retireAgain (s : State) (ps sec : Nat) : State :=
  if s.errs.any (fun e => e.kind == 2 && e.phys == ps) then s else s.detect (s.err 0x02 0x08 ps sec 0)

/-- Lights the sectors of a list in its order, at most four at a time, and none past one that has to wait (R433). DEDUCED:
notes/assumptions/19.md. -/
def lightGo : List Nat → State → State
  | [], s => s
  | sec :: rest, s =>
    match s.lightHome sec with
    | none => lightGo rest { s with pwr := { s.pwr with lightQ := s.pwr.lightQ.filter (· != sec) } }
    | some ps =>
      if s.map.psec.getD ps .spare == .fenced then lightGo rest (s.retireAgain ps sec)
      else if 4 ≤ s.lightCount || s.powerBusy (secDom ps) then s
      else lightGo rest (startLight ps sec s)

/-- Lights the next sectors. -/
def lightNext (s : State) : State := lightGo s.pwr.lightQ s

/-- The lighting of a sector comes to its zero-fill's end or to nothing. -/
def State.unlight (s : State) (sec : Nat) : State :=
  { s with pwr := { s.pwr with lightOn := s.pwr.lightOn.filter (fun x => x.1 != sec) } }

/-- Clears both dirty bits of a sector's granules (R59). -/
def State.cleanSector (s : State) (sec : Nat) : State :=
  { s with log := { s.log with
    dirtyA := seraseRange s.log.dirtyA (sec * 128) (sec * 128 + 128)
    dirtyB := seraseRange s.log.dirtyB (sec * 128) (sec * 128 + 128) } }

/-- A Closing sector goes Dark: power off over SB (R59). -/
def goDark (sec : Nat) (s : State) : State :=
  let s := (s.modSec sec (fun c => { c with
    st := .dark, closeAfter := false, scrubWait := false, scrubOver := false })).cleanSector sec
  let s := match s.psecOf sec with
    | some ps => s.powerAsk (secDom ps) 0
    | none => s
  s.secSettled 2 sec false

/-- Pending mark reads of a sector's granules that are still to come (R62). -/
def State.markReads (s : State) (sec : Nat) : List Nat :=
  (s.log.pend.map (·.1)).filter (fun g => g / 128 == sec)

/-- A Lit sector starts to close (R62): its coalescing entries are flushed and accepted, with what stands in
its queue and the reads of its granules that a closing mark needs. A write that waits for copy-on-write waits in its
agent (R405), not in the queue. -/
def startClosing (sec : Nat) (s : State) : State :=
  let s := s.cbOrder.foldl (fun s pc =>
    ((sget [] s.osura.cb pc).filter (fun e => secOf (e.word * 32) == sec)).foldl (fun s e => s.flushEntry pc e) s) s
  let s := (s.markReads sec).foldl State.forceCow s
  let q := s.osura.q.map (fun (r : AsyncReq) =>
    if secOf r.addr == sec && !s.buoyBlocked r && (r.agent == .flush || !s.cowBlocked r) then
      let mark := match r.who with
        | .log g _ => s.cowPending g
        | _ => false
      { r with accepted := true, agent := if mark then .cow else r.agent }
    else r)
  let q := q.filter (fun r => !(secOf r.addr == sec && (r.agent == .scrub || r.agent == .scrubOver)))
  { s with osura := { s.osura with q := q } }.modSec sec (fun c => { c with
    st := .closing, closeAt := s.clk.cyc, scrubWait := false, scrubOver := false })

/-- A sector whose zero-fill ends is Lit; its granules are dirty (R60, R398), and its scrubber starts at line 0
(R57). A DARKEN that came meanwhile closes it at once (R59). -/
def fillDone (ps sec : Nat) (s : State) : State :=
  let later := (s.secCtl sec).closeAfter
  let s := (s.zeroSector ps).unlight sec
  let s := (fromTo (sec * 128) 128).foldl State.markDirty s
  let s := s.modSec sec (fun c => { c with
    st := .lit, closeAfter := false, scrubLine := 0, scrubWait := false, scrubOver := false
    scrubTick := s.clk.ticks, ce := 0 })
  let s := if s.bist.busy && s.bist.sec = sec then { s with bist := { s.bist with busy := false } } else s
  let s := s.secSettled 1 sec false
  lightNext (if later then startClosing sec s else s)

/-- No launch, transfer or Lantern product is at work (R511). -/
def State.allIdle (s : State) : Bool :=
  !s.wrun && s.td.ch.all (fun c => c.2.st == .idle) && s.ln.all (fun l => l.prods.isEmpty && l.q.isEmpty)

/-- A write of BIST_CMD (R511): refused unless the block is idle and the sector Lit. DEDUCED:
notes/assumptions/20.md. -/
def bistCommand (v : Nat) (s : State) : State :=
  let sec := bitsOf v 0 6
  if !bitOf v 6 then s
  else if !s.allIdle || !s.secOpen sec || s.bist.busy then { s with bist := { s.bist with refused := true } }
  else
    let s := s.order 7 sec
    ({ s with
      bist := ⟨true, false, false, sec, s.bist.pass, s.bist.sec⟩
      pwr := { s.pwr with lightOn := s.pwr.lightOn ++ [(sec, true)] } }.modSec sec (fun c => { c with st := .lighting }))

/-- BIST_CMD. DEDUCED: notes/assumptions/20.md. -/
def execBistCmd (value : Word) (s : State) : Host.Outcome State Fault Refusal :=
  .next (s.hostWrite (bistCommand value.toNat))

/-! ### Owners of asynchronous requests -/

/-- A trace line has been written: TRACE_PTR moves on, wraps, or stops at the limit (R509). DEDUCED:
notes/assumptions/39.md. -/
def traceWritten (s : State) : State :=
  let t := s.trc
  let p := t.ptr + 1024
  let t := { t with busy := false, buf := t.buf.drop 128 }
  let t := if t.actLimit ≤ p then
      (if t.wrap then { t with ptr := t.actBase } else { t with ptr := p, stopped := true })
    else { t with ptr := p }
  traceLine { s with trc := t }

/-- A scrubbed line: the scrubber moves on, and after its last line the count of corrected errors is checked (R56,
R63). DEDUCED: notes/assumptions/21.md. -/
def scrubbed (sec : Nat) (s : State) : State :=
  let c := s.secCtl sec
  let past := c.scrubLine = 8191 && s.osura.ceRetire != 0 && s.osura.ceRetire < c.ce
  let s := s.modSec sec (fun c => { c with
    scrubLine := (c.scrubLine + 1) % 8192, scrubWait := false, scrubOver := false
    ce := if c.scrubLine = 8191 then 0 else c.ce })
  if past then s.detect (s.err 0x02 0x09 ((s.psecOf sec).getD 0xFF) sec 0) else s

/-- A corrected word is written back (R55): what is read then, corrected; no dirty bit (R398). DEDUCED:
notes/assumptions/21.md. -/
def writeBackWord (a : Nat) (s : State) : State :=
  match s.psecOf (secOf a) with
  | none => s
  | some ps =>
    let w := physAddr ps a / 8
    match s.eccWord w with
    | .corrected x => s.putWord w x
    | _ => s

/-- What follows from a served request. -/
def ownerServed (r : AsyncReq) (bs : List Byte) (s : State) : State :=
  match r.who with
  | .flush _ _ _ _ => flushPump s
  | .scrub _ => scrubbed (secOf r.addr) s
  | .writeBack => writeBackWord r.addr s
  | .tender c req => if r.wr.isSome then tdWriteDone c req s else sendPacket c (tdReadDone c req bs s)
  | .fldo id cl row => fldoWritten id cl row r.addr s
  | .lantern n req => lnServed n req bs s
  | .mooring _ id => mooringWritten r.held id s
  | .log g line => logLineRead g line bs s
  | .restore _ _ => restoreNext s
  | .trace => traceWritten s
  | .nobody => s

/-- Source chip of a mooring write. -/
def State.arrivalSrc (s : State) (id : Nat) : Nat :=
  ((s.ring.arrivals.find? (fun a => a.id == id)).map (fun a => a.pkt.src)).getD 0

/-- What follows from a request that its sector refuses, or that the time-out of R62 cuts off (`cut`): the
requester's own answer (R51, R61), and E_LATE for a flush and for a write cut off. -/
def ownerRefused (r : AsyncReq) (cut : Bool) (s : State) : State :=
  let late (k u chip : Nat) (s : State) : State := if cut && r.wr.isSome then s.late k u chip r.addr else s
  match r.who with
  | .flush _ cl _ _ => flushPump (s.late 1 cl 0 r.addr)
  | .scrub _ => s.modSec (secOf r.addr) (fun c => { c with scrubWait := false, scrubOver := false })
  | .tender c req => tdDark c req (late 2 c 0 s)
  | .fldo id cl row => fldoWritten id cl row r.addr (s.late 1 cl 0 r.addr)
  | .lantern n req => lnDark n req (late 4 n 0 s)
  | .mooring mo id => mooringRefused id (late 3 mo (s.arrivalSrc id) s)
  | .log g _ => { s with log := { s.log with reading := sset 0 s.log.reading g 0, pend := sset false s.log.pend g false } }
  | .restore _ _ => restoreNext s
  | .trace => { s with trc := { s.trc with busy := false, stopped := true, err := true, buf := s.trc.buf.drop 128 } }
  | .writeBack | .nobody => s

/-- Takes a request out of the queue. -/
def State.takeReq (s : State) (r : AsyncReq) : State :=
  { s with osura := { s.osura with q := s.osura.q.erase r } }

/-- One granted access: the first of a read-modify-write's two passes, or the request itself (R49). -/
def serveReq (s : State) (r : AsyncReq) : State :=
  if r.passes = 2 then
    { s with osura := { s.osura with q := s.osura.q.map (fun x => if x = r then { x with passes := 1 } else x) } }
  else
    let s := s.takeReq r
    match r.wr with
    | some cs => ownerServed r [] (if r.agent == .flush then s.streamWrite cs else s.writeOsura cs)
    | none =>
      let scrub := r.agent == .scrub || r.agent == .scrubOver
      if r.agent == .writeBack then ownerServed r [] s
      else
        let (bs, s) := s.readOsura scrub r.addr r.len
        ownerServed r bs s

/-! ### Arbitration (R38, R45 to R47) -/

/-- Banks that a request needs. -/
def AsyncReq.banks (r : AsyncReq) : List Nat := (rowWords r.addr r.len).map (fun w => bankOf (w * 32))

/-- Two requests touch one bank word. -/
def AsyncReq.meets (r x : AsyncReq) : Bool :=
  r.addr / 32 < (x.addr + x.len + 31) / 32 && x.addr / 32 < (r.addr + r.len + 31) / 32

/-- An arbiter's choice in one cycle: banks still free, credits, the weights in force, the requests that wait, and those
chosen. -/
structure Arb where
  free : List Nat
  credits : List Nat
  weights : List Nat
  pool : List AsyncReq
  sel : List AsyncReq
  deriving DecidableEq, Repr

def Arb.fits (a : Arb) (r : AsyncReq) : Bool := r.banks.all a.free.contains

def Arb.take (a : Arb) (r : AsyncReq) : Arb :=
  { a with free := a.free.filter (fun b => !r.banks.contains b), pool := a.pool.erase r, sel := a.sel ++ [r] }

/-- The oldest request of an agent. -/
def Arb.headOf (a : Arb) (g : Agent) : Option AsyncReq := a.pool.find? (·.agent == g)

/-- Grants an unweighted agent's requests in order of arrival. One that does not fit is passed over, but not by a later
one at a bank word of its own. DEDUCED: notes/assumptions/18.md. -/
def grantRank (g : Agent) (a : Arb) : Arb :=
  ((a.pool.filter (·.agent == g)).foldl (fun (x : Arb × List AsyncReq) r =>
    if x.1.fits r && !x.2.any r.meets then (x.1.take r, x.2) else (x.1, r :: x.2)) (a, [])).1

/-- The weighted agents in the order of their ties (R46). DEDUCED: notes/assumptions/18.md. -/
def weighted : List Agent := [.lantern, .ring1, .tender, .ring2, .flush, .log]

/-- Chooses among fitting agents: most credit, then a weight that is not 0, then the order of ties. -/
def chooseAgent (weights : List Nat) (credits : List Nat) (fit : List Nat) : Option Nat :=
  let key (i : Nat) : Nat := 2 * credits.getD i 0 + (if weights.getD i 0 = 0 then 0 else 1)
  let best := fit.foldl (fun m i => max m (key i)) 0
  fit.find? (fun i => key i == best)

/-- The steps of R46, while a request that fits remains; ASYNC_WEIGHTS comes into force at a reload (R67). DEDUCED:
notes/assumptions/18.md. -/
def grantWeighted (weights : List Nat) : Nat → Arb → Arb
  | 0, a => a
  | fuel + 1, a =>
    let asking := (upTo 6).filter (fun i => (a.headOf (weighted.getD i .log)).isSome)
    let fit := asking.filter (fun i => match a.headOf (weighted.getD i .log) with
      | some r => a.fits r
      | none => false)
    if fit.isEmpty then a
    else
      let a := if asking.all (fun i => a.credits.getD i 0 == 0) then { a with credits := weights, weights := weights } else a
      match chooseAgent a.weights a.credits fit with
      | none => a
      | some i =>
        match a.headOf (weighted.getD i .log) with
        | some r => grantWeighted weights fuel { a.take r with credits := modifyAt a.credits i (· - 1) }
        | none => a

/-- Everything one arbiter grants in a cycle, in the order of R45. DEDUCED: notes/assumptions/18.md. -/
def arbitrate (weights : List Nat) (a : Arb) : Arb :=
  let a := [Agent.beacon, .cow, .writeBack, .scrubOver].foldl (fun a g => grantRank g a) a
  grantRank .scrub (grantWeighted weights 33 a)

/-- Banks of a sector that the arbiter has in this cycle: not those that have served the stream in it, nor those lent to
deferred stream accesses (R34, R44). -/
def State.asyncBanks (s : State) (sec : Nat) : List Nat :=
  (upTo 32).filter (fun b => !s.streamBanks.contains (sec * 32 + b) &&
    !(s.str.bankStall != 0 && s.str.deferred.contains (sec * 32 + b) && !s.beaconAt (sec * 32 + b)))

/-- A request can be granted now: its sector takes it, no buoy or closing mark holds it, and a Beacon write has
not come in this very cycle (R47). -/
def State.grantable (s : State) (sec : Nat) (r : AsyncReq) : Bool :=
  secOf r.addr == sec && (r.accepted || s.secOpen sec) && !s.buoyBlocked r && !s.cowBlocked r &&
    (r.agent != .beacon || r.since < s.clk.cyc) && !r.stalled

/-- OSURA_ASYNC_SERVE (R45): new accesses to a sector that is not open are refused (R61); waits on a closing mark
force their reads out (R405); then the arbiter grants, once in an async-owned cycle. -/
def execOsuraAsyncServe (sec : Fin 64) (s : State) : Host.Outcome State Fault Refusal :=
  let n := sec.val
  if !s.rst.ready || s.clk.stopped || !asyncOwns s.osura.share s.clk.cyc || s.clk.cyc < (s.secCtl n).served then .next s
  else
    let s := closeWindows s
    let mine := s.osura.q.filter (fun r => secOf r.addr == n)
    let s := (mine.filter (fun r => !r.accepted && !s.secOpen n && !s.buoyBlocked r && !s.cowBlocked r)).foldl
      (fun s r => ownerRefused r false (s.takeReq r)) s
    let s := (s.osura.q.filter (fun r => secOf r.addr == n && !s.buoyBlocked r && s.cowBlocked r)).foldl
      (fun s r => s.forceCow (granuleOf r.addr)) s
    let s := if (s.secCtl n).st == .closing then (s.markReads n).foldl State.forceCow s else s
    let c := s.secCtl n
    let a := arbitrate s.osura.weights ⟨s.asyncBanks n, c.credits, c.weights, s.osura.q.filter (s.grantable n), []⟩
    let s := s.modSec n (fun c => { c with
      credits := a.credits, weights := a.weights, served := s.clk.cyc + 1, granted := a.sel.flatMap AsyncReq.banks })
    .next (arrivalsPump (a.sel.foldl serveReq s))

/-! ### Scrubbing (R56, R57) -/

/-- SCRUB_REQUEST: a Lit sector's scrubber asks for its next line every SCRUB_PACE ticks; a request that still
waits is overdue. While Eclipse is being entered the scrubbers go on (R429). -/
def execScrubRequest (sec : Fin 64) (s : State) : Host.Outcome State Fault Refusal :=
  let n := sec.val
  let c := s.secCtl n
  if c.st != .lit || s.osura.scrubPace = 0 || s.clk.ticks < c.scrubTick + s.osura.scrubPace || !s.rst.ready ||
      1 < s.rst.pstate then .next s
  else
    let s := s.modSec n (fun c => { c with scrubTick := s.clk.ticks, scrubOver := c.scrubWait, scrubWait := true })
    if c.scrubWait then
      .next { s with osura := { s.osura with q := s.osura.q.map (fun r =>
        if secOf r.addr == n && r.agent == .scrub then { r with agent := .scrubOver } else r) } }
    else .next (s.askOsura .scrub (.scrub c.scrubLine) (n * 2 ^ 23 + c.scrubLine * 1024) 1024 none)

/-! ### Settings that wait for the stream (R39, R142) -/

/-- Applies a pending ASYNC_SHARE. -/
def applyShare (s : State) : State :=
  match s.osura.sharePend with
  | some v => { s with osura := { s.osura with share := v, sharePend := none } }
  | none => s

/-- Applies pending far-load settings. -/
def applyFar (s : State) : State :=
  match s.str.farPend with
  | some c => s.modStr (fun t => { t with far := c, farPend := none })
  | none => s

/-- ASYNC_SHARE_APPLY (R39): at the first period boundary with the stream idle. -/
def execAsyncShareApply (s : State) : Host.Outcome State Fault Refusal :=
  if !s.wrun && s.clk.cyc % 4 == 0 then .next (applyShare s) else .next s

/-- FAR_SETTINGS_APPLY (R142): with the stream idle. -/
def execFarSettingsApply (s : State) : Host.Outcome State Fault Refusal :=
  if !s.wrun then .next (applyFar s) else .next s

/-! ### Closing sectors (R62) -/

/-- Accepted work of a sector. -/
def State.acceptedIn (s : State) (sec : Nat) : List AsyncReq :=
  s.osura.q.filter (fun r => r.accepted && secOf r.addr == sec)

/-- The stream still has accesses to a sector: issued ones that no bank has served, and words that a MOV carries. -/
def State.streamIn (s : State) (sec : Nat) : Bool :=
  s.unserved.any (fun x => secOf (x.word * 32) == sec) || s.movAhead false false (fun w => secOf (w * 32) == sec)

/-- SECTOR_CLOSE_DRAINED (R59). DEDUCED: notes/assumptions/21.md. -/
def execSectorCloseDrained (sec : Fin 64) (s : State) : Host.Outcome State Fault Refusal :=
  if (s.secCtl sec).st == .closing && (s.acceptedIn sec).isEmpty && (s.markReads sec).isEmpty && !s.streamIn sec then
    .next (goDark sec s)
  else .next s

/-- DARKEN_TIMEOUT (R62): accepted work is cut off 4,096 cycles after DARKEN, those with mark reads to come not counted;
what the stream still has for the sector is cut off as its banks come to it. -/
def execDarkenTimeout (sec : Fin 64) (s : State) : Host.Outcome State Fault Refusal :=
  if (s.secCtl sec).st == .closing && (s.secCtl sec).closeAt + 4096 ≤ s.clk.cyc && (s.markReads sec).isEmpty then
    .next (goDark sec ((s.acceptedIn sec).foldl (fun s r => ownerRefused r true (s.takeReq r)) s))
  else .next s

/-! ### Buoys -/

/-- Accepted reads of lines of a buoy that are still to be served (R80): words of stream loads, those that a MOV has still
to carry included, and Lantern reads that do not wait on a buoy. -/
def State.readsInFlight (s : State) (b : Buoy) : Bool :=
  let on (word : Nat) : Bool := b.covers (word * 32 / 1024)
  s.unserved.any (fun x => match x.kind with
    | .movLoad _ _ | .sld _ _ _ => on x.word
    | _ => false) || s.movAhead true true on ||
  s.osura.q.any (fun r => r.agent == .lantern && r.wr.isNone && b.covers (r.addr / 1024) && !s.buoyBlocked r)

/-- BUOY_DRAIN_END (R80, R81). -/
def execBuoyDrainEnd (buoy : Fin 256) (s : State) : Host.Outcome State Fault Refusal :=
  let n := buoy.val
  let b := s.buoy n
  if b.st != .draining || s.readsInFlight b then .next s
  else .next ((s.setBuoy n (if b.reload then b.loaded else .idle)).returnOwed n)

/-- The lowest buoy that blocks an asynchronous request (R83). -/
def State.blockerOf (s : State) (r : AsyncReq) : Nat :=
  (s.notIn (if r.wr.isSome then .filling else .ready) (r.addr / 1024) ((r.addr + r.len + 1023) / 1024)).foldl
    (fun m n => min m n) 255

/-- Buoys that block the bundle at the pc. -/
def State.bundleBlockers (s : State) : List Nat :=
  match s.bundleHere with
  | some (b, len) =>
    match checkBundle s b len with
    | .ok ops => ops.flatMap (fun x => buoysBlocking s x.2)
    | .error _ => []
  | none => []

/-- Buoys that hold up the announce of a Lantern's next product. -/
def State.annBlockers (s : State) (l : Lantern) : List Nat :=
  match l.q with
  | c :: _ =>
    (match c.start, sget none l.slots c.slot with
      | some b, some ch => (pathRuns ch b 0 ++ pathRuns ch b 1).flatMap s.runsNotReady
      | _, _ => [])
  | [] => []

/-- What of a Lantern has waited past the limit (R83): an access of a product, the announce of the next one, or a product
whose port has fallen silent (R470). Given are the product's descriptor, slot and EVTDATA, and the lowest buoy that
blocks. DEDUCED: notes/assumptions/4.md. -/
def State.lnWaiter (s : State) (n limit : Nat) : Option (Option Nat × Nat × Nat × Nat) :=
  let l := s.lan n
  let access := s.osura.q.findSome? (fun r => match r.who with
    | .lantern m req =>
      if m == n && s.buoyBlocked r && limit < r.waited then
        (l.productOf req).map (fun p => (p.ctl, p.slot, p.blk.evtdata, s.blockerOf r))
      else none
    | _ => none)
  let announce := if l.annWait && limit < l.waited then
      l.q.head?.map (fun c =>
        (c.ctl, c.slot, (c.start.map (·.evtdata)).getD 0, (s.annBlockers l).foldl (fun m x => min m x) 255))
    else none
  let silent := if limit < l.quiet then l.prods.head?.map (fun p => (p.ctl, p.slot, p.blk.evtdata, 0)) else none
  if l.suspended || l.halted then none else (access.orElse (fun _ => announce)).orElse (fun _ => silent)

/-- BUOY_WATCHDOG (R83): E_STALL takes the waiter's own effect once its count exceeds the limit. DEDUCED:
notes/assumptions/4.md. -/
def execBuoyWatchdog (who : Waiter) (s : State) : Host.Outcome State Fault Refusal :=
  match s.stallLimit with
  | none => .next s
  | some limit =>
    if s.str.frozen then .next s
    else
      match who with
      | .stream =>
        if s.wrun && !s.streamStopped && limit < s.str.buoyWait then
          .next (s.askStop 5 none (s.bundleBlockers.foldl (fun m n => min m n) 255))
        else .next s
      | .lantern n =>
        match s.lnWaiter n limit with
        | some (ctl, slot, evtdata, buoy) => .next (lnStall n ctl slot evtdata buoy s)
        | none => .next s
      | .tender c =>
        let held (r : AsyncReq) : Option Nat := match r.who with
          | .tender c' n => if c' = c.val && s.buoyBlocked r then some n else none
          | _ => none
        if s.osura.q.any (fun r => (held r).isSome && limit < r.waited) then
          let ch := (s.osura.q.filterMap held).foldl Chan.drop (s.chan c).unissue
          let s := { s with osura := { s.osura with q := s.osura.q.filter (fun r => (held r).isNone) } }
          .next (tdAdvance c (s.setChan c { ch with status := if ch.status = 0 then 3 else ch.status }))
        else .next s
      | .mooring m =>
        match s.osura.q.find? (fun r => (match r.who with
            | .mooring m' _ => m' == m.val
            | _ => false) && s.buoyBlocked r && limit < r.waited) with
        | some r =>
          let id := match r.who with
            | .mooring _ id => id
            | _ => 0
          let s' := { s with osura := { s.osura with q := s.osura.q.map (fun x => if x = r then { x with waited := 0 } else x) } }
          .next (s'.pushOrDrop (s.record 0x0A (m + 256 * s.blockerOf r + 65536 * s.arrivalSrc id) 0 0 0))
        | none => .next s

/-- A write of BUOY_SEL (R86): one buoy is captured into the three information registers. -/
def captureBuoy (v : Nat) (s : State) : State :=
  let n := bitsOf v 0 8
  let b := s.buoy n
  { s with buoys := { s.buoys with
      sel := n
      info0 := BitVec.ofNat 32 b.base
      info1 := BitVec.ofNat 32 (b.nlines + bit b.reload * 2 ^ 17 + b.st.code * 2 ^ 18)
      info2 := BitVec.ofNat 32 (b.p + b.c * 2 ^ 16) } }

/-- BUOY_SEL. -/
def execBuoySel (value : Word) (s : State) : Host.Outcome State Fault Refusal :=
  .next (s.hostWrite (captureBuoy value.toNat))

end Sys2Proof.Machine
end

