-- ==== Sys2Proof/Machine/Mem.lean ====
section
/-! DEFINITION. Memory ports and the end of transfers (spec/13_tender_and_memory_ports.md R318 to R329,
spec/18_ports_and_signals.md R446 to R448, spec/15_host_rings.md R376). -/

namespace Sys2Proof.Machine

/-! ### Requests (R318 to R320) -/

/-- The port of an IOVA (R318). -/
def portOf (iova : Nat) : Nat := iova / 256 % 24

/-- The lowest free tag of a port and direction (R319): none that a waiting channel keeps (R78). DEDUCED: notes/assumptions/24.md. -/
def MemPorts.freeTag (m : MemPorts) (port : Nat) (isWrite : Bool) : Option Nat :=
  let used := ((if isWrite then m.wr else m.rd).filter (fun t => t.port == port)).map (·.tag) ++
    (if isWrite then [] else (m.held.filter (fun t => t.port == port)).map (·.tag))
  (upTo (if isWrite then 512 else 1536)).find? (fun t => !used.contains t)

/-- Gives a request a tag and puts it on its port. -/
def grantMem (port : Nat) (r : MemReq) (s : State) : Option State :=
  match s.mem.freeTag port r.wr.isSome with
  | none => none
  | some t =>
    let tag : MemTag := ⟨port, t, r.who, r.iova, r.len, r.wr, s.clk.fab⟩
    match r.wr with
    | some bs => some { s with mem := { s.mem with wr := s.mem.wr ++ [tag] }, out := s.out ++ [.memWrite port t r.iova bs] }
    | none => some { s with mem := { s.mem with rd := s.mem.rd ++ [tag] }, out := s.out ++ [.memRead port t r.iova r.len] }

/-- The first far-load read of a port (R138). -/
def grantFar (port : Nat) (s : State) : Option State :=
  match s.mem.farQ.find? (fun r => portOf r.iova == port) with
  | none => none
  | some r => grantMem port r { s with mem := { s.mem with farQ := s.mem.farQ.erase r } }

/-- The Logbook's request for a port: a restore's first, which is not metered (R410), else the oldest, paid for by the
port's bucket (R402); none of these while the Logbook is off or stopped (R403, R418). -/
def grantLog (port : Nat) (s : State) : Option State :=
  let mine := s.mem.logQ.filter (fun r => portOf r.iova == port)
  let take (r : MemReq) : State := { s with mem := { s.mem with logQ := s.mem.logQ.erase r } }
  match mine.find? (fun r => r.who.restore), mine with
  | some r, _ => grantMem port r (take r)
  | none, [] => none
  | none, r :: _ =>
    if !s.log.en || s.log.err || sget 0 s.mem.bucket port < 100 then none
    else
      let s' := take r
      grantMem port r { s' with mem := { s'.mem with bucket := smod 0 s'.mem.bucket port (· - 100) } }

/-- The next request of a half for a port, by rotation over its channels (R308). -/
def grantHalf (half port : Nat) (s : State) : Option State :=
  match nextChannel s half port with
  | none => none
  | some c =>
    match (s.chan c).takeFor port with
    | (some e, ch) =>
      let s' := (s.setChan c ch)
      let s' := { s' with td := { s'.td with
        rot := sset 0 s'.td.rot (half * 24 + port) (c % 64 + 1), half := sset 0 s'.td.half port (1 - half) } }
      grantMem port ⟨.tender c e.req, e.iova, e.len, e.wr⟩ s'
    | (none, _) => none

/-- MEM_REQUEST_ISSUE (R320): a far-load read, then a Logbook request, then the halves by turns. -/
def execMemRequestIssue (port : Fin 24) (s : State) : Host.Outcome State Fault Refusal :=
  let p := port.val
  if !s.rst.ready || s.clk.stopped || sget false s.mem.fenced p then .next s
  else
    let h := sget 0 s.td.half p
    .next ((((grantFar p s).orElse (fun _ => grantLog p s)).orElse (fun _ => grantHalf h p s)).orElse
      (fun _ => grantHalf (1 - h) p s) |>.getD s)

/-! ### Responses (R321, R448) -/

/-- A data fault: a failing IOVA (R397). -/
def State.memError (s : State) (iova : Nat) : State :=
  s.detect (s.err 0x0B 0x0B 0xFF 0xFF (iova % 2 ^ 32))

/-- A fault of a memory port. -/
def State.memFault (s : State) (port reason : Nat) : State := s.detect (s.err 0x09 reason port 0xFF 0)

/-- A Logbook fault (R418): the Logbook stops at once; the failed write is made again when it goes on, unless EN has been
cleared since (R403). DEDUCED: notes/assumptions/24.md. -/
def logFault (t : MemTag) (reason : Nat) (s : State) : State :=
  { s with
    log := { s.log with err := true }
    mem := { s.mem with
      logQ := if t.who = MemOwner.logStale then s.mem.logQ else ⟨t.who, t.iova, t.len, t.wr⟩ :: s.mem.logQ } }.detect
      (s.err 0x0C reason 0xFF 0xFF (t.iova % 2 ^ 32))

/-- A translation fault of a Tender request (R321, R329): an event for every fault, and the first in TD_FAULT. -/
def tenderXlate (c req dir : Nat) (t : MemTag) (s : State) : State :=
  if (s.chan c).st != .busy then s
  else
    let s := tdXlate c req dir t.port t.iova s
    let s := if s.td.fValid then s else { s with td := { s.td with
      fHalf := c / 64, fCh := c % 64, fDir := dir, fPort := t.port, fValid := true, fIova := t.iova } }
    s.pushOrDrop (s.record 0x08 (c / 64 + c % 64 * 2 + dir * 128 + t.port * 256) 0 (t.iova % 2 ^ 32) (t.iova / 2 ^ 32))

/-- The tag of an answered Tender read stays with its channel while a buoy holds the write of the data (R78). -/
def State.holdTag (s : State) (t : MemTag) (c req : Nat) : State :=
  match (s.chan c).reads.find? (fun r => r.req == req) with
  | some r =>
    let h : HeldTag := ⟨t.port, t.tag, c, (s.chan c).dstLines r⟩
    if s.keepsTag h then { s with mem := { s.mem with held := s.mem.held ++ [h] } } else s
  | none => s

/-- A read's answer reaches its requester. -/
def readAnswer (t : MemTag) (status : Nat) (data : List Byte) (s : State) : State :=
  let bs := (data.drop (t.iova % 256)).take t.len
  match t.who, status with
  | .tender c req, 0 => tdReadDone c req bs (s.holdTag t c req)
  | .tender c req, 1 => tenderXlate c req 0 t s
  | .tender _ _, _ => s.memError t.iova
  | .far id cl row off, 0 => farData id cl row off bs s
  | .far id cl row _, 1 => farFaulted id cl row t.port t.iova s
  | .far _ _ _ _, _ => s.memError t.iova
  | .restoreRec b off, 0 => restoreRead (.restoreRec b off) bs s
  | .restoreGran g off, 0 => restoreRead (.restoreGran g off) bs s
  | .restoreRec _ _, _ => restoreFail 6 s
  | .restoreGran _ _, _ => restoreFail 6 s
  | .log _ _, _ => s
  | .logState _ _, _ => s
  | .logStale, _ => s
  | .dropped, _ => s
  | .expired, _ => s

/-- A write's answer reaches its requester. -/
def writeAnswer (t : MemTag) (status : Nat) (s : State) : State :=
  match t.who, status with
  | .tender c req, 0 => tdWriteDone c req s
  | .tender c req, 1 => tenderXlate c req 1 t s
  | .tender _ _, _ => s.memError t.iova
  | .log g l, 0 => logWritten (.log g l) s
  | .logState b v, 0 => logWritten (.logState b v) s
  | .logStale, 0 => s
  | .log _ _, 1 => logFault t 0x0C s
  | .logState _ _, 1 | .logStale, 1 => logFault t 0x0C s
  | .log _ _, _ => logFault t 0x0B s
  | .logState _ _, _ | .logStale, _ => logFault t 0x0B s
  | .far _ _ _ _, _ => s
  | .restoreRec _ _, _ => s
  | .restoreGran _ _, _ => s
  | .dropped, _ => s
  | .expired, _ => s

/-- MEM_READ_RESPONSE (R448): the tag is freed; a tag that is not outstanding, and status 3, are violations. -/
def execMemReadResponse (port : Fin 24) (tag : BitVec 11) (status : BitVec 2) (data : List Byte) (s : State) :
    Host.Outcome State Fault Refusal :=
  if data.length != 256 then .refused .illFormed
  else if s.rst.por then .next s
  else
    match s.mem.rd.find? (fun t => t.port == port.val && t.tag == tag.toNat) with
    | none => if sget false s.mem.fenced port || !s.rst.ready then .next s else .next (s.memFault port 4)
    | some t =>
      let s := { s with mem := { s.mem with rd := s.mem.rd.erase t } }
      if status = 3#2 && t.who != .expired && !sget false s.mem.fenced port then .next (s.memFault port 4)
      else .next (readAnswer t status.toNat data s)

/-- MEM_WRITE_ACK (R448). -/
def execMemWriteAck (port : Fin 24) (tag : BitVec 9) (status : BitVec 2) (s : State) : Host.Outcome State Fault Refusal :=
  if s.rst.por then .next s
  else
    match s.mem.wr.find? (fun t => t.port == port.val && t.tag == tag.toNat) with
    | none => if sget false s.mem.fenced port || !s.rst.ready then .next s else .next (s.memFault port 4)
    | some t =>
      let s := { s with mem := { s.mem with wr := s.mem.wr.erase t } }
      if status = 3#2 && t.who != .expired && !sget false s.mem.fenced port then .next (s.memFault port 4)
      else .next (writeAnswer t status.toNat s)

/-- MEM_TIMEOUT (R448): a request unanswered for 2^20 fabric cycles is a fault of its port. -/
def execMemTimeout (port : Fin 24) (isWrite : Bool) (tag : BitVec 11) (s : State) : Host.Outcome State Fault Refusal :=
  let hit (t : MemTag) : Bool :=
    t.port == port.val && t.tag == tag.toNat && t.who != .expired && !sget false s.mem.fenced port.val &&
      t.at_ + 2 ^ 20 ≤ s.clk.fab
  if (if isWrite then s.mem.wr else s.mem.rd).any hit then
    let kill (ts : List MemTag) : List MemTag := ts.map (fun t => if hit t then { t with who := .expired } else t)
    .next ({ s with mem := (if isWrite then { s.mem with wr := kill s.mem.wr } else { s.mem with rd := kill s.mem.rd }) }.memFault
      port 5)
  else .next s

/-! ### The end of a transfer (R323, R376) -/

/-- Issues a completion-record write when a SYS tag is free (R444). DEDUCED: notes/assumptions/23.md. -/
def recPump (s : State) : State :=
  match s.kp.recQ, s.sysTag with
  | (slot, word, ev) :: rest, some t =>
    { s with kp := { s.kp with recQ := rest } }.sysWrite t (.xrec slot word ev)
      (s.kp.xfer.base + slot * 64 + 56) (toBytes 4 word)
  | _, _ => s

/-- RETIRE passes every consecutive slot whose record has been written. -/
def retireGo : Nat → State → State
  | 0, s => s
  | fuel + 1, s =>
    if sget false s.kp.xdone s.kp.xretire then
      retireGo fuel { s with kp := { s.kp with
        xdone := sset false s.kp.xdone s.kp.xretire false
        xretire := (s.kp.xretire + 1) % s.kp.xfer.size, xretired := (s.kp.xretired + 1) % 2 ^ 32 } }
    else s

/-- A slot's record has been written: its XFER event is queued, RETIRE moves on, and the channel is Idle (R376,
R323). DEDUCED: notes/assumptions/23.md. -/
def recWritten (slot : Nat) (ev : Option EvRec) (s : State) : State :=
  let s := match ev with
    | some e => s.pushOrDrop e
    | none => s
  let s := { s with
    kp := { s.kp with xdone := sset false s.kp.xdone slot true }
    td := { s.td with ch := s.td.ch.filter (fun x => !(x.2.st == .recording && x.2.ring == some slot)) } }
  retireGo (s.kp.xdone.length + 1) s

/-- Queues a slot's completion record. DEDUCED: notes/assumptions/23.md. -/
def queueRecord (slot word : Nat) (ev : Option EvRec) (s : State) : State :=
  recPump { s with kp := { s.kp with recQ := s.kp.recQ ++ [(slot, word, ev)] } }

/-- An XFER record (R381). -/
def State.xferEv (s : State) (c status evtdata : Nat) (ring : Option Nat) : EvRec :=
  let p0 := c / 64 + c % 64 * 2 + status * 256
  match ring with
  | some slot => s.descRecord 2 slot 0x05 p0 evtdata 0
  | none => s.record 0x05 p0 evtdata 0 0

/-- TRANSFER_COMPLETE (R323): the producer completion, then the event of a TND, or the completion record, for which the
channel waits. DEDUCED: notes/assumptions/23.md. -/
def execTransferComplete (ch : Fin 128) (s : State) : Host.Outcome State Fault Refusal :=
  let c := ch.val
  let x := s.chan c
  if x.st != .finished then .next s
  else
    let s := if x.x.ben && x.status ≤ 1 then s.complete x.x.buoy 3 else s
    let ev := if x.x.evt then some (s.xferEv c x.status x.x.evtdata x.ring) else none
    match x.ring, ev with
    | some slot, _ => .next (queueRecord slot (x.status + 2 ^ 31) ev (s.setChan c { x with st := .recording }))
    | none, some e => .next ((s.pushOrDrop e).setChan c Chan.idle)
    | none, none => .next (s.setChan c Chan.idle)

/-! ### Commands of a Paused channel (R322, R328) -/

/-- RESUME (1) or ABORT (2) of a channel; one that is not Paused is counted. -/
def tdCommand (op c : Nat) (s : State) : State :=
  if (s.chan c).st != .paused then bump 0x025C s
  else if op = 1 then tdResume c s else tdAbort c s

/-- A TD_CMD write; in Eclipse Tender is off (R430). What the channel was is kept, for a command of the Control ring in the
same control cycle lands first (R385). -/
def tdRegister (op c : Nat) (s : State) : State :=
  if s.unitsOff then bump 0x0258 s
  else
    let s := (s.tndBack c).order 3 c
    tdCommand op c { s with td := { s.td with cmdWas := some (s.ctlCycle, c, op, s.chan c) } }

/-- TDCMD of the Control ring on a channel; gives STATUS. A TD_CMD write of this control cycle lands after it (R385): the
channel is taken back to what that write found, and the write's operation then follows. -/
def tdControl (op c : Nat) (s : State) : Nat × State :=
  let s := (s.tndBack c).order 3 c
  let status (ch : Chan) : Nat := if ch.st = .paused then 0 else 1
  match s.td.cmdWas with
  | some (t, c', op', ch) =>
    let took := ch.st == .paused && ((s.chan c).st == .busy || (s.chan c).st == .finished)
    if t = s.ctlCycle && c' = c && took then
      let s := (s.withoutRequests c).setChan c ch
      (0, tdCommand op' c (tdCommand op c s))
    else (status (s.chan c), tdCommand op c s)
  | none => (status (s.chan c), tdCommand op c s)

/-- TD_RESUME. -/
def execTdResume (ch : Fin 128) (s : State) : Host.Outcome State Fault Refusal := .next (s.hostWrite (tdRegister 1 ch))

/-- TD_ABORT. -/
def execTdAbort (ch : Fin 128) (s : State) : Host.Outcome State Fault Refusal := .next (s.hostWrite (tdRegister 2 ch))

end Sys2Proof.Machine
end

