-- ==== Sys2Proof/Machine/Keeper.lean ====
section
/-! DEFINITION. Host rings and the Keeper (spec/15_host_rings.md R367 to R376, R384, R388, R389,
spec/18_ports_and_signals.md R444, R445): doorbells, descriptor fetch, launches and transfer starts. -/

namespace Sys2Proof.Machine

/-! ### Rings (R367 to R369) -/

/-- The rings by number: 0 Work, 1 Transfer, 2 Control, 3 Event. -/
def Keeper.ring (k : Keeper) (n : Nat) : HRing :=
  if n = 0 then k.work else if n = 1 then k.xfer else if n = 2 then k.ctl else k.event

def State.setRing (s : State) (n : Nat) (r : HRing) : State :=
  { s with kp :=
    if n = 0 then { s.kp with work := r } else if n = 1 then { s.kp with xfer := r }
    else if n = 2 then { s.kp with ctl := r } else { s.kp with event := r } }

/-- An ignored set-up write (R367). -/
def setupIgnored (s : State) : State := bump 0x0258 s

/-- The Event ring starts again: PHASE is 1, faulted records are queued anew, and answers to writes of the old ring
count for nothing. -/
def eventRestart (s : State) : State :=
  { s with
    evq := s.kp.evBad.map (fun o => o.ev) ++ s.evq
    kp := { s.kp with
      evPhase := true, evOut := [], evBad := [], evAgain := false
      sys := s.kp.sys.map (fun q => match q.what with
        | .ev _ => { q with what := .dropped }
        | _ => q) } }

/-- A write of a ring's configuration register (R367, R388). -/
def ringConfig (n v : Nat) (s : State) : State :=
  let r := s.kp.ring n
  let k := bitsOf v 0 5
  let en := bitOf v 8
  if (r.en && k != r.log2) || (en && !(4 ≤ k && k ≤ 16)) then setupIgnored s
  else
    let irq (s : State) : State := if n = 3 then { s with kp := { s.kp with irqen := bitOf v 9 } } else s
    let s := irq s
    if en && !r.en then
      let s := s.setRing n { r with log2 := k, en := true, head := 0, tail := 0 }
      if n = 1 then { s with kp := { s.kp with xretire := 0, xdone := [] } }
      else if n = 3 then eventRestart s
      else s
    else s.setRing n { r with log2 := k, en := en }

/-- RING_ENABLE. -/
def execRingEnable (ring : Fin 4) (value : Word) (s : State) : Host.Outcome State Fault Refusal :=
  .next (s.hostWrite (ringConfig ring value.toNat))

/-- A write of a ring's base register (R367, R388): ignored while the ring is enabled and it would change. -/
def ringBase (n base : Nat) (s : State) : State :=
  let r := s.kp.ring n
  if r.en && base != r.base then setupIgnored s else s.setRing n { r with base := base }

/-- A wake event (R430, R432): in Eclipse and its entry it is noted; SB outranks a doorbell. -/
def wakeEvent (sb : Bool) (s : State) : State :=
  if s.rst.pstate = 1 || s.rst.pstate = 2 then
    { s with rst := { s.rst with wakeHeld := some (sb || s.rst.wakeHeld.getD false) } }
  else s

/-- A doorbell (R369): TAIL, a fetch stop of R370, and completion records that a fault held back (R445). -/
def doorbell (n v : Nat) (s : State) : State :=
  let r := s.kp.ring n
  let v := v % 2 ^ 16
  if !r.en || r.size ≤ v then bump 0x0254 s
  else
    let s := s.setRing n { r with tail := v }
    let s := { s with kp := { s.kp with fstop := s.kp.fstop.set n false } }
    let s := if n = 1 then
        recPump { s with kp := { s.kp with recWait := [], recQ := s.kp.recWait ++ s.kp.recQ } }
      else s
    wakeEvent false s

/-- DOORBELL_WRITE. -/
def execDoorbellWrite (ring : Fin 3) (value : Word) (s : State) : Host.Outcome State Fault Refusal :=
  .next (s.hostWrite (doorbell ring value.toNat))

/-- WORK_NEXTSEQ may be written (R389). -/
def State.seqWritable (s : State) : Bool := !s.wrun && (!s.kp.work.en || s.kp.seqstop)

/-- WORK_NEXTSEQ_LO (R389). -/
def nextseqLo (v : Nat) (s : State) : State :=
  if s.seqWritable then
    { s with kp := { s.kp with nextseq := s.kp.nextseq / 2 ^ 32 * 2 ^ 32 + v, seqstop := false } }
  else setupIgnored s

/-- WORK_NEXTSEQ_HI (R389). -/
def nextseqHi (v : Nat) (s : State) : State :=
  if s.seqWritable then { s with kp := { s.kp with nextseq := s.kp.nextseq % 2 ^ 32 + v * 2 ^ 32 } } else setupIgnored s

def execWorkNextseqLo (value : Word) (s : State) : Host.Outcome State Fault Refusal :=
  .next (s.hostWrite (nextseqLo value.toNat))

/-! ### Fetch (R370) -/

/-- Descriptors of a ring that are taken and not started. -/
def Keeper.taken (k : Keeper) (n : Nat) : List Desc :=
  if n = 0 then k.workTaken else if n = 1 then k.xferTaken else k.ctlTaken

/-- The Keeper may read the next descriptor of a ring: one is taken at a time; Work and Transfer stop from a discard to
the end of its ring hold (R393, R359), and for an ECLIPSE that waits (R428). DEDUCED: notes/assumptions/29.md. -/
def State.mayFetch (s : State) (n : Nat) : Bool :=
  let r := s.kp.ring n
  s.rst.ready && s.rst.pstate == 0 && r.en && r.head != r.tail && !s.kp.fstop.getD n false &&
    (s.kp.taken n).isEmpty && !(n == 0 && s.kp.seqstop) &&
    (n == 2 || (!s.ring.hold && !s.flt.stopped && s.rst.eclipse.isNone)) &&
    s.kp.descHeld.all (fun x => x.1 != n) && s.kp.sys.all (fun q => match q.what with
      | .desc m _ => m != n
      | _ => true)

/-- DESCRIPTOR_FETCH: one 64-byte read. -/
def execDescriptorFetch (ring : Fin 3) (s : State) : Host.Outcome State Fault Refusal :=
  let n := ring.val
  match s.sysTag with
  | some t =>
    let r := s.kp.ring n
    if s.mayFetch n then .next (s.sysRead t (.desc n r.head) (r.base + r.head * 64) 64) else .next s
  | none => .next s

/-- HEAD moves past an entry. -/
def advanceHead (n : Nat) (s : State) : State :=
  let r := s.kp.ring n
  s.setRing n { r with head := (r.head + 1) % r.size }

/-! ### Work descriptors (R371, R372) -/

/-- A work descriptor's fields. -/
structure WorkDesc where
  op : Nat
  profile : Nat
  lc : Nat
  xwait : Bool
  cwait : Bool
  lds : Bool
  user : Nat
  seq : Nat
  pc : Nat
  xtarget : Nat
  ctarget : Nat
  rsvd : Bool
  scal : List Nat
  deriving DecidableEq, Repr

def WorkDesc.parse (bs : List Byte) : WorkDesc :=
  let w := wordAt bs
  let lds := bitOf (w 0) 14
  let scal := (upTo 4).map (fun i => w (8 + 2 * i) + 2 ^ 32 * w (9 + 2 * i))
  { op := bitsOf (w 0) 0 4, profile := bitsOf (w 0) 4 2, lc := bitsOf (w 0) 6 6, xwait := bitOf (w 0) 12
    cwait := bitOf (w 0) 13, lds := lds, user := w 1, seq := w 2 + 2 ^ 32 * w 3, pc := w 4, xtarget := w 5
    ctarget := w 6, rsvd := bitsOf (w 0) 15 17 != 0 || w 7 != 0 || (!lds && scal.any (· != 0)), scal := scal }

/-- Physical clusters that work: they back a logical cluster, or are idle (R26, R198). -/
def Maps.working (m : Maps) : List Nat :=
  (upTo 34).filter (fun p => m.pc.getD p .spare == .mapped || m.pc.getD p .spare == .idle)

/-- The checks of R372 after SEQ: the reason of a refusal, or 0. -/
def workCheck (s : State) (d : WorkDesc) : Nat :=
  if d.op != 1 || d.rsvd || d.lc = 0 || 32 < d.lc then 1
  else if d.profile = 0 then 3
  else if d.pc % 4 != 0 || 2 ^ 29 ≤ d.pc then 2
  else if s.map.working.length < d.lc then 4
  else 0

/-- A work descriptor has been read (R372). -/
def takeWork (slot : Nat) (bs : List Byte) (s : State) : State :=
  let d := WorkDesc.parse bs
  let err (reason : Nat) (s : State) : State :=
    s.push { s.descRecord 1 slot 0x02 (reason + 256 * d.op) d.user 0 with seq := d.seq }
  if d.seq != s.kp.nextseq then err 5 { s with kp := { s.kp with seqstop := true } }
  else
    let r := workCheck s d
    if r != 0 then err r (advanceHead 0 { s with kp := { s.kp with nextseq := (s.kp.nextseq + 1) % 2 ^ 64 } })
    else advanceHead 0 { s with kp := { s.kp with workTaken := s.kp.workTaken ++ [⟨slot, bs⟩] } }

/-- Would taking this descriptor queue a record? -/
def takeNeedsRoom (n : Nat) (bs : List Byte) (s : State) : Bool :=
  n == 0 && (let d := WorkDesc.parse bs
    d.seq != s.kp.nextseq || workCheck s d != 0)

/-- A descriptor has been read (R370). DEDUCED: notes/assumptions/29.md. -/
def takeDesc (n slot : Nat) (bs : List Byte) (s : State) : State :=
  if n = 0 then takeWork slot bs s
  else if n = 1 then advanceHead 1 { s with kp := { s.kp with xferTaken := s.kp.xferTaken ++ [⟨slot, bs⟩] } }
  else advanceHead 2 { s with kp := { s.kp with ctlTaken := s.kp.ctlTaken ++ [⟨slot, bs⟩] } }

/-- A fault of the SYS port (R441, R445). -/
def State.sysFault (s : State) (reason : Nat) : State := s.detect (s.err 0x0A reason 0 0xFF 0)

/-- The answer of a descriptor read is acted on: nothing of it queues a record, or there is room for one (R384). An
ECLIPSE that waits takes no Work or Transfer descriptor (R428): it is read again later. DEDUCED:
notes/assumptions/29.md. -/
def descTake (x : Nat × Nat × Nat × List Byte) (s : State) : State :=
  let drop : State := { s with kp := { s.kp with descHeld := s.kp.descHeld.erase x } }
  if x.1 != 2 && x.2.2.1 = 0 && s.rst.eclipse.isSome then drop
  else if (x.2.2.1 = 0 && !takeNeedsRoom x.1 x.2.2.2 s) || s.evRoom then
    (if x.2.2.1 = 0 then takeDesc x.1 x.2.1 x.2.2.2 drop
    else { drop with kp := { drop.kp with fstop := drop.kp.fstop.set x.1 true } }.descErr x.1 x.2.1 0x0A 0 0)
  else s

/-- What has waited for room in the event queue goes on (R384): descriptors that have completed, and descriptors that
have been read. -/
def roomPump (s : State) : State := s.kp.descHeld.foldl (fun s x => descTake x s) (ctlPump s)

/-- An answer to a SYS master request (R445). The answer of a descriptor read has no READY to wait with (R439): it is held
until its record has room. -/
def sysAnswer (q : SysReq) (status : Nat) (data : List Byte) (s : State) : State :=
  match q.what, status with
  | .desc n slot, st => descTake (n, slot, st, data) { s with kp := { s.kp with descHeld := s.kp.descHeld ++ [(n, slot, st, data)] } }
  | .ev addr, st => evAnswer addr (st == 0) s
  | .xrec slot _ ev, 0 => recWritten slot ev s
  | .xrec slot word ev, _ => { s with kp := { s.kp with recWait := s.kp.recWait ++ [(slot, word, ev)] } }
  | .dropped, _ => s
  | .expired, _ => s

/-- SYS_RESPONSE (R444, R445): a tag that is not outstanding, and RSTAT 3, are violations. -/
def execSysResponse (tag : BitVec 5) (status : BitVec 2) (data : List Byte) (s : State) :
    Host.Outcome State Fault Refusal :=
  if data.length != 64 then .refused .illFormed
  else if s.rst.por then .next s
  else
    match s.kp.sys.find? (fun q => q.tag == tag.toNat) with
    | none => if s.kp.sysFenced || !s.rst.ready then .next s else .next (s.sysFault 4)
    | some q =>
      let s := { s with kp := { s.kp with sys := s.kp.sys.erase q } }
      if status = 3#2 && q.what != .expired && !s.kp.sysFenced then .next (s.sysFault 4)
      else .next (evRetry (s.kp.evBad.length + 2) (recPump (sysAnswer q status.toNat data s)))

/-- SYS_TIMEOUT (R445): unanswered for 2^18 control cycles. -/
def execSysTimeout (tag : BitVec 5) (s : State) : Host.Outcome State Fault Refusal :=
  let hit (q : SysReq) : Bool :=
    q.tag == tag.toNat && q.what != .expired && !s.kp.sysFenced && q.at_ + 2 ^ 18 ≤ s.clk.ckr / 8
  if s.kp.sys.any hit then
    .next ({ s with kp := { s.kp with sys := s.kp.sys.map (fun q => if hit q then { q with what := .expired } else q) } }.sysFault 5)
  else .next s

/-- EVENT_RECORD_WRITE (R382): the oldest record leaves the queue for its slot; TAIL moves on, and PHASE inverts as
it wraps to 0. Behind a record whose write has faulted it waits (R384). DEDUCED: notes/assumptions/26.md. -/
def execEventRecordWrite (s : State) : Host.Outcome State Fault Refusal :=
  match s.evq with
  | [] => .next s
  | e :: rest =>
    if s.kp.event.en && !s.eventFull && s.kp.evBad.isEmpty && s.rst.ready then
      let r := s.kp.event
      let t := (r.tail + 1) % r.size
      match s.evWrite ⟨r.base + r.tail * 32, s.kp.evPhase, e, 2, false⟩ with
      | none => .next s
      | some s => .next (roomPump { s with
          evq := rest
          kp := { s.kp with event := { r with tail := t }, evPhase := if t = 0 then !s.kp.evPhase else s.kp.evPhase } })
    else .next s

/-- ERING_HEAD_WRITE (R382, R384): slots come back, and a record write that faulted is made again. -/
def eringHead (v : Nat) (s : State) : State :=
  roomPump (evRetry (s.kp.evBad.length + 1) { s with kp := { s.kp with
    event := { s.kp.event with head := v % 2 ^ 16 }, evAgain := !s.kp.evBad.isEmpty } })

def execEringHeadWrite (value : Word) (s : State) : Host.Outcome State Fault Refusal :=
  .next (s.hostWrite (eringHead value.toNat))

/-! ### Launch (R373) -/

/-- `a - b` of two 32-bit counts is not negative as s32. -/
def countReached (a b : Nat) : Bool := 0 ≤ toSigned 32 (a + 2 ^ 32 - b % 2 ^ 32)

/-- Sequence numbers from which on descriptors are barred: by a mark's restraint, and by a close until its capture
(R356, R404). -/
def State.barredFrom (s : State) : List Nat :=
  (s.ring.mark.restraint.map (·.1)).toList ++ (match s.log.close with
    | some c => if c.phase = 0 && !s.closeOver c then [c.seq] else []
    | none => [])

/-- A mark restraint or a close bars a sequence number (R356, R404). -/
def State.seqBarred (s : State) (seq : Nat) : Bool := s.barredFrom.any (fun k => k ≤ seq)

/-- The waits of R373, R397 for a fenced unspared unit, and R33 for an error that the fault sequencer has still to
handle. -/
def State.mayLaunch (s : State) (d : WorkDesc) : Bool :=
  s.rst.ready && s.rst.pstate == 0 && !s.wrun && (!d.xwait || countReached s.kp.xretired d.xtarget) &&
    (!d.cwait || countReached s.kp.cdone d.ctarget) && !s.seqBarred d.seq && !s.ring.hold && !s.flt.stopped && !s.evHolds &&
    !s.flt.unitdown && !s.flt.fatal && !s.flt.seqbusy && s.errs.isEmpty

/-- The logical clusters without a working home take the lowest free physical clusters (R26). -/
def fillMap (free : List Nat) : List (Option Nat) → List (Option Nat)
  | [] => []
  | some p :: cs => some p :: fillMap free cs
  | none :: cs =>
    match free with
    | p :: rest => some p :: fillMap rest cs
    | [] => none :: fillMap [] cs

/-- The map rebuild of R26, in control cycle `k`. -/
def rebuildMap (k lc : Nat) (m : Maps) : Maps :=
  let work := m.working
  let homes := (upTo lc).map (fun n => m.home.getD n none)
  let kept := homes.map (fun h => h.filter work.contains)
  let free := work.filter (fun p => !homes.contains (some p))
  let cl := fillMap free kept ++ List.replicate (32 - lc) none
  { m.setCl k cl with
    lastLc := lc
    pc := m.pc.zipIdx.map (fun (st, p) =>
      if !work.contains p then st else if cl.contains (some p) then .mapped else .idle) }

/-- Every mask bit 1 and every reuse latch empty (R128, R141). -/
def launchLanes (s : State) : State :=
  (s.lanes.map (·.1)).foldl (fun s p => s.modLane p (fun l => { l with masks := [], latches := [] })) s

/-- TRACE_BASE and TRACE_LIMIT take effect at a launch (R509). DEDUCED: notes/assumptions/39.md. -/
def Trace.atLaunch (t : Trace) : Trace :=
  { t with
    ptr := if t.base = t.actBase then t.ptr else t.base
    actBase := t.base, actLimit := t.limit, lastPc := none }

/-- The steps of R373: the loop buffer is left as it is, and fetch starts past it. -/
def launch (slot : Nat) (d : WorkDesc) (p : Profile) (s : State) : State :=
  let s := applyFar (applyShare s)
  let s := launchLanes { s with map := rebuildMap s.ctlCycle d.lc s.map }
  let s := fetchFrom d.pc ((endLaunch s).modStr (fun t => { t with
    launch := some ⟨d.seq, p, d.lc, d.user, slot⟩
    stop := .blank, movRow := [(0, false), (0, false)], farFault := .blank
    pc := d.pc, branch := none, earliest := s.clk.cyc + 10
    loopBuf := { t.loopBuf with idle := true }, tags := List.replicate 16 none }))
  let s := if d.lds then (d.scal.zipIdx).foldl (fun s x => s.setScal x.2 x.1) s else s
  { s with
    kp := { s.kp with nextseq := (d.seq + 1) % 2 ^ 64, workTaken := s.kp.workTaken.drop 1 }
    trc := s.trc.atLaunch }

/-- LAUNCH. -/
def execLaunch (s : State) : Host.Outcome State Fault Refusal :=
  match s.kp.workTaken with
  | [] => .next s
  | x :: _ =>
    let d := WorkDesc.parse x.bytes
    match Profile.ofCode d.profile with
    | none => .next s
    | some p => if s.mayLaunch d then .next (launch x.slot d p s) else .next s

/-! ### Transfers (R307, R316, R376) -/

/-- A refused descriptor: DESC_ERR, and a record with REFUSED (R376). -/
def refuseTransfer (slot reason : Nat) (x : Xfer) (s : State) : State :=
  queueRecord slot (2 ^ 31 + 2 ^ 30) none (s.descErr 1 slot reason x.kind x.evtdata)

/-- TRANSFER_START. -/
def execTransferStart (s : State) : Host.Outcome State Fault Refusal :=
  match s.kp.xferTaken with
  | [] => .next s
  | d :: rest =>
    if !s.mayStart || s.ring.hold || s.flt.stopped || s.flt.unitdown then .next s
    else
      let x := Xfer.ofBytes d.bytes
      let s' := { s with kp := { s.kp with xferTaken := rest } }
      match x.check (Profile.ofCode x.profile), Profile.ofCode x.profile with
      | .rsvd, _ => .next (refuseTransfer d.slot 1 x s')
      | .bounds, _ => .next (refuseTransfer d.slot 2 x s')
      | .ok, some p =>
        let c := x.half * 64 + x.ch
        let s' := s'.tndBack c
        if (s'.chan c).st != .idle then .next s
        else .next ((sendPump c (tdStart c x (some d.slot) p s')).order 3 c)
      | _, _ => .next (refuseTransfer d.slot 3 x s')

end Sys2Proof.Machine
end

