-- ==== Sys2Proof/Machine/Faults.lean ====
section
/-! DEFINITION. Stream aborts, the discard and the fault sequencer (spec/16_faults_and_logbook.md R390 to R397,
R419 to R421, spec/17_reset_and_eclipse.md R426, R427, spec/01 R24). -/

namespace Sys2Proof.Machine

/-! ### Dropping work -/

/-- The ring's part of a discard (R393): arrivals in arrival buffers go with no reply, and packets of SENDs that have not
left; tokens and forwarded packets still pass. -/
def discardRing (s : State) : State :=
  let here (x : Pkt) : Bool := x.kind == 0 && x.dst == s.ring.chipId
  let sent (x : Pkt) : Bool := x.kind == 0 && x.ctl.isNone
  let s := s.ring.arrivals.foldl (fun s a => s.endArrival a) s
  let s := (s.ring.ports.flatMap (fun (r : RPort) => r.held.filter here)).foldl (fun s x => s.freeSpace x) s
  { s with ring := { s.ring with
    chunks := []
    loopQ := s.ring.loopQ.filter (fun x => !sent x)
    ports := s.ring.ports.map (fun (r : RPort) =>
      { r with loc := r.loc.filter (fun x => !sent x), held := r.held.filter (fun x => !here x) }) } }

/-- The Keeper's part of a discard (R393): descriptors that have not started are dropped, and so are the completion
records of transfers; Work and Transfer fetch stops for the hold that follows. -/
def discardKeeper (slots : List Nat) (s : State) : State :=
  let keep (r : Nat × Nat × Option EvRec) : Bool := !slots.contains r.1
  { s with
    kp := { s.kp with
      workTaken := [], xferTaken := [], ctlTaken := []
      recQ := s.kp.recQ.filter keep, recWait := s.kp.recWait.filter keep
      descHeld := []
      sys := s.kp.sys.map (fun (q : SysReq) => match q.what with
        | .desc _ _ => q.orphan
        | .xrec slot word _ => { q with what := .xrec slot word none }
        | _ => q) }
    flt := { s.flt with stopped := s.ring.en } }

/-- The discard of R393 and R394; it covers every error that has been found (R392). -/
def discard (s : State) : State :=
  let slots := s.td.ch.filterMap (fun x => if x.2.st == .recording then x.2.ring else none)
  let s := dropChannels (fun _ => true) (dropFar s)
  let q := s.osura.q.filterMap (fun r => match r.who with
    | .flush _ _ _ _ => none
    | .lantern _ _ | .mooring _ _ => if s.buoyBlocked r || r.wr.isNone then none else some { r with who := .nobody }
    | _ => some r)
  let s := { s with osura := { s.osura with q := q, cb := [] } }
  let s := discardKeeper slots (discardRing s)
  let s := (upTo 4).foldl (fun s n => lnDrop n true s) s
  let lns : List Lantern := s.ln.map (fun l => { l with relay := [], facs := [], relOut := [], relIn := [] })
  let s := { s with ln := lns, errs := s.errs.map (fun e => { e with covered := true }) }
  (refuseEclipse (clearStream s)).settlePauses

/-! ### FAULT and HOLD (R397, R359) -/

/-- The record of a fault (R397, R403). With no restorable mark, the spec gives SEQ no value: a free value. DESIGN CHOICE:
notes/assumptions/3.md. -/
def faultRecord (e : ErrRec) (spare remain : Nat) (s : State) : EvRec :=
  let marked := s.log.en && s.log.restorable
  { s.record 0x0B (e.kind + e.reason * 256 + e.phys * 65536 + e.logi * 2 ^ 24)
      (spare + remain * 256 + bit e.fog * 65536) (if marked then s.ring.markLast else 0xFFFFFFFF) e.addr with
    seq := if marked then s.ring.markLastS else (Config.freeValue 64 s.free).toNat }

/-- Queues the FAULT record, and keeps it in FLT_INFO if it is the first (R420). DEDUCED: notes/assumptions/31.md. -/
def faultEvent (e : ErrRec) (spare remain : Nat) (s : State) : State :=
  let r := faultRecord e spare remain s
  let s := (s.push r).fresh
  let i0 := BitVec.ofNat 32 r.p0
  let i1 := BitVec.ofNat 32 (r.p1 + 2 ^ 31)
  let at_ := if s.flt.recAt.any (fun x => x.1 == s.ctlCycle) then s.flt.recAt else some (s.ctlCycle, i0, i1)
  if bitOf s.flt.info1.toNat 31 then { s with flt := { s.flt with recAt := at_ } }
  else { s with flt := { s.flt with info0 := i0, info1 := i1, recAt := at_ } }

/-- HOLD goes to the lead light (R359); no packet is sent while the packet layer is off (R362). DEDUCED:
notes/assumptions/31.md. -/
def sendHold (e : ErrRec) (s : State) : State :=
  if s.ring.en then
    s.originate (s.newPkt s.ring.leadId 0 8 0 0 0
      (toBytes 2 s.ring.chipId ++ toBytes 2 e.reason ++ toBytes 4 s.ring.markLast ++ toBytes 8 0))
  else s

/-! ### Sparing (R24, R395, R64) -/

/-- Physical quadrant of a cluster (R22). -/
def pcQuadrant (p : Nat) : Nat := if p < 32 then p / 8 else if p = 32 then 0 else 2

/-- Spare clusters, without one that a swap has chosen. -/
def State.spareClusters (s : State) : List Nat :=
  (upTo 34).filter (fun p => s.map.pc.getD p .fenced == .spare && s.flt.swapFor.all (fun x => x.spare != p))

/-- Clusters that may take an index: spares, and idle ones (R26). -/
def State.clusterChoices (s : State) : List Nat :=
  (upTo 34).filter (fun p => (s.map.pc.getD p .fenced == .spare || s.map.pc.getD p .fenced == .idle) &&
    s.flt.swapFor.all (fun x => x.spare != p))

/-- The spare for a failed cluster (R24). -/
def State.pickCluster (s : State) (failed : Nat) : Option Nat :=
  let c := s.clusterChoices
  (c.find? (fun p => pcQuadrant p == pcQuadrant failed)).orElse (fun _ => c.head?)

def State.setPc (s : State) (p : Nat) (st : PcState) : State :=
  { s with map := { s.map with pc := s.map.pc.set p st } }

/-- The logical index that a physical cluster backs, or else is the home of. -/
def Maps.indexOf (m : Maps) (p : Nat) : Option Nat :=
  ((upTo 32).find? (fun n => m.cl.getD n none == some p)).orElse
    (fun _ => (upTo 32).find? (fun n => m.home.getD n none == some p))

/-- Starts a swap of index `n` away from a fenced cluster: the chosen spare, if any, is powered up for its BIST. -/
def startSwap (n failed : Nat) (s : State) : Option Nat × State :=
  match s.pickCluster failed with
  | none =>
    (none, { s with
      map := { s.map.setCl s.ctlCycle
          (s.map.cl.set n (if s.map.cl.getD n none = some failed then none else s.map.cl.getD n none)) with
        home := s.map.home.set n none }
      flt := { s.flt with swapFor := [], swap := false, seqbusy := false } })
  | some p =>
    let powered := sget false s.pwr.on p
    let s := { s with flt := { s.flt with swapFor := [⟨n, p, powered, failed⟩], swap := true, seqbusy := true } }
    (some p, clusterPump s)

/-- A cluster is fenced, its state is lost (R21), and its index moves to a spare (R395, steps 1 to 4). DEDUCED:
notes/assumptions/31.md. -/
def clusterFault (e : ErrRec) (s : State) : State :=
  let p := e.phys
  let idx := s.map.indexOf p
  let s := { (s.setPc p .fenced).powerOff p with lanes := serase s.lanes p }
  let (spare, s) := match idx with
    | some n => startSwap n p s
    | none => (none, s)
  let e := { e with logi := idx.getD 0xFF }
  sendHold e (faultEvent e (spare.getD 0xFF) s.spareClusters.length s)

/-- The spare sector for a failed one (R24). -/
def State.pickSector (s : State) (failed : Nat) : Option Nat :=
  let free := (upTo 68).filter (fun p => s.map.psec.getD p .fenced == .spare)
  (free.find? (· == failed / 17 * 17 + 16)).orElse (fun _ => free.head?)

/-- Requests that a retired sector still held: reads of the Logbook are given up, the rest is dropped. -/
def dropSectorWork (k : Nat) (s : State) : State :=
  (s.osura.q.filter (fun r => secOf r.addr == k)).foldl (fun s r => match r.who with
    | .log _ _ | .scrub _ | .trace | .restore _ _ => ownerRefused r false (s.takeReq r)
    | _ => s.takeReq r) s

/-- Spare sectors remaining. -/
def State.spareSectors (s : State) : Nat := (s.map.psec.filter (· == .spare)).length

/-- Reports retired sectors, each with its spare (R64 step 6). -/
def reportSectors (rs : List (ErrRec × Nat)) (s : State) : State :=
  rs.foldl (fun s r => sendHold r.1 (faultEvent r.1 r.2 s.spareSectors s)) s

/-- The map names the spare, now lit, and what was retired for the sector is reported (R64 steps 5 and 6). -/
def secSwapDone (w : SecSwap) (s : State) : State :=
  reportSectors w.reports { s with
    map := { s.map with sec := s.map.sec.set w.sec (some w.spare), psec := s.map.psec.set w.spare .mapped }
    flt := { s.flt with secSwap := none, swap := false, seqbusy := false } }

/-- A spare is chosen for a retired sector and starts to light (R64 steps 3 and 4); with none left the logical sector is
unbacked (R65). `rs` are the faults of this sector still to report. DEDUCED: notes/assumptions/31.md. -/
def startSecSwap (k : Nat) (e : ErrRec) (rs : List (ErrRec × Nat)) (s : State) : State :=
  match s.pickSector e.phys with
  | none =>
    let s := { s with
      map := { s.map with sec := s.map.sec.set k none }
      pwr := { s.pwr with lightQ := s.pwr.lightQ.filter (· != k) }
      flt := { s.flt with secSwap := none, swap := false, seqbusy := false }
      bist := if s.bist.busy && s.bist.sec = k then { s.bist with busy := false } else s.bist }
    reportSectors (rs ++ [(e, 0xFF)]) (s.secSettled 1 k true)
  | some q =>
    lightNext { s with
      flt := { s.flt with secSwap := some ⟨k, q, rs ++ [(e, q)]⟩, swap := true, seqbusy := true }
      pwr := { s.pwr with lightQ := k :: s.pwr.lightQ.filter (· != k) } }

/-- A physical sector is fenced and switched off (R64 step 1). -/
def fenceSector (p : Nat) (s : State) : State :=
  let s := { s with map := { s.map with psec := s.map.psec.set p .fenced } }
  if sget false s.pwr.on (secDom p) then s.powerOff (secDom p) else s

/-- A sector is retired (R64, R65): what it held is lost, and a spare is lit in its place before the map names it. -/
def sectorFault (e : ErrRec) (s : State) : State :=
  let s := fenceSector e.phys s
  match (upTo 64).find? (fun k => s.psecOf k == some e.phys) with
  | none => reportSectors [({ e with logi := 0xFF }, 0xFF)] s
  | some k =>
    let s := (dropSectorWork k s).unlight k
    let s := s.modSec k (fun c => { c with st := .dark, closeAfter := false, scrubWait := false, scrubOver := false })
    startSecSwap k { e with logi := k } [] (s.secSettled 2 k false)

/-- The spare that is being lit has failed as well: it is retired in its turn (R433). -/
def spareSectorFailed (reason : Nat) (w : SecSwap) (s : State) : State :=
  startSecSwap w.sec (s.err 0x02 reason w.spare w.sec 0) w.reports ((fenceSector w.spare s).unlight w.sec)

/-- SECTOR_FILL_DONE (R60): the sector's power is good, and no test runs in it. A spare's waits for a place for the FAULT
record that follows (R64, R384). -/
def execSectorFillDone (sec : Fin 64) (s : State) : Host.Outcome State Fault Refusal :=
  match s.lightHome sec with
  | some ps =>
    if s.pwr.lightOn.contains (sec.val, false) && !s.powerBusy (secDom ps) && sget false s.pwr.on (secDom ps) then
      match s.flt.secSwap with
      | some w =>
        if w.sec != sec.val then .next (fillDone ps sec s)
        else if s.evKept then .next (secSwapDone w (fillDone ps sec s))
        else .next s
      | none => .next (fillDone ps sec s)
    else .next s
  | none => .next s

/-- SECTOR_BIST_DONE (R433, R511): a pass is followed by the zero-fill; a failure retires the physical sector by the
fault sequencer, and a spare at once. DEDUCED: notes/assumptions/20.md. -/
def execSectorBistDone (psec : Fin 68) (pass : Bool) (s : State) : Host.Outcome State Fault Refusal :=
  match s.pwr.lightOn.find? (fun x => x.2 && s.lightHome x.1 == some psec.val) with
  | none => .next s
  | some (sec, _) =>
    let own := s.bist.busy && s.bist.sec == sec
    let s := { s with
      map := { s.map with tested := s.map.tested.set psec true }
      bist := if own then { s.bist with pass := pass } else s.bist }
    if pass then
      .next { s with pwr := { s.pwr with lightOn := s.pwr.lightOn.map (fun x => if x.1 = sec then (sec, false) else x) } }
    else
      match s.flt.secSwap with
      | some w =>
        if w.sec = sec then .next (spareSectorFailed 0x0A w s)
        else .next ((s.unlight sec).detect (s.err 0x02 0x0A psec sec 0))
      | none => .next ((s.unlight sec).detect (s.err 0x02 0x0A psec sec 0))

/-! ### The sequencer (R392) -/

/-- Fences a unit that has no spare, until a block reset, or a port, until FLT_UNFENCE (R390, R397). -/
def fenceUnit (e : ErrRec) (s : State) : State :=
  let n := e.phys
  let s := { s with flt := { s.flt with
    fenced := (e.kind, n) :: s.flt.fenced.filter (· != (e.kind, n))
    fencedAt := ((e.kind, n), s.ctlCycle) :: s.flt.fencedAt.filter (fun x => x.2 == s.ctlCycle)
    unitdown := s.flt.unitdown || (e.kind != 7 && e.kind != 8) } }
  match e.kind with
  | 3 => (s.modLn n (fun l => { l with fenced := true })).powerOff (102 + n)
  | 4 => s.powerOff (106 + n)
  | 7 => s.modLn n (fun l => { l with fenced := true, cause := 4 })
  | 8 => s.setPort n (fun r => { r with fenced := true })
  | 9 => { s with mem := { s.mem with
      fenced := sset false s.mem.fenced n true
      rd := s.mem.rd.map (fun t => if t.port = n then t.orphan else t)
      wr := s.mem.wr.map (fun t => if t.port = n then t.orphan else t) } }
  | 10 => { s with kp := { s.kp with sysFenced := true, sys := s.kp.sys.map SysReq.orphan } }
  | _ => s

/-- What the sequencer does with one error. DEDUCED: notes/assumptions/31.md. -/
def handleFault (e : ErrRec) (s : State) : State :=
  if e.kind = 12 then faultEvent e 0xFF 0 { s with log := { s.log with err := true } }
  else
    let s := if e.covered then s else discard s
    if e.kind = 1 then clusterFault e s
    else if e.kind = 2 then sectorFault e s
    else if e.kind = 11 then sendHold e (faultEvent e 0xFF 0 s)
    else sendHold e (faultEvent e 0xFF 0 (fenceUnit e s))

/-- A fault of the Keeper or of the always-on island: no event; everything is discarded (R390, R397). -/
def fatalFault (s : State) : State :=
  let s := logQuiet (discard s)
  { s with
    flt := { s.flt with fatal := true }
    log := { s.log with close := none }
    osura := { s.osura with q := s.osura.q.filter (fun (r : AsyncReq) => match r.who with
      | .restore _ _ => false
      | _ => true) } }

/-- A spare enters service as R427 says, and the maps are rewritten (R26, R395 step 5). -/
def swapDone (n p : Nat) (s : State) : State :=
  let mapped := n < s.map.lastLc
  let s := { s with
    lanes := serase s.lanes p
    osura := { s.osura with cb := serase s.osura.cb p }
    cnt := { s.cnt with
      cl := s.cnt.cl.filter (fun (x : Nat × Nat) => x.1 % 64 != p)
      was := s.cnt.was.map (fun (w : Nat × Sparse Nat × Sparse Nat) =>
        (w.1, w.2.1, w.2.2.filter (fun (x : Nat × Nat) => x.1 % 64 != p))) }
    flt := { s.flt with swapFor := [], swap := false, seqbusy := false } }
  let home := s.map.home.map (fun h => if h = some p then none else h)
  let s := { s with map := { s.map.setCl s.ctlCycle (if mapped then s.map.cl.set n (some p) else s.map.cl) with
    home := home.set n (some p) } }
  s.setPc p (if mapped then .mapped else .idle)

/-- A chosen spare fails its BIST or its power-up (R395, R462): it is fenced as well, and another is chosen for the
cluster that failed. -/
def spareFailed (reason : Nat) (j : ClSwap) (s : State) : State :=
  let s := { s with flt := { s.flt with swapFor := [] } }
  let s := (s.setPc j.spare .fenced).powerOff j.spare
  let (spare, s) := startSwap j.idx j.failed s
  let e := s.err 0x01 reason j.spare j.idx 0
  sendHold e (faultEvent e (spare.getD 0xFF) s.spareClusters.length s)

/-- The sequencer while it swaps: only an error about the chosen spare concerns it. -/
def swapFault (s : State) : State :=
  match s.errs.find? s.aboutSpare with
  | none => s
  | some e =>
    let s := { s with errs := s.errs.erase e }
    if e.kind = 1 then
      (match s.flt.swapFor with
        | j :: _ => spareFailed e.reason j s
        | [] => s)
    else
      (match s.flt.secSwap with
        | some w => spareSectorFailed e.reason w s
        | none => s)

/-- FAULT_SEQUENCER_START (R392): one error at a time, in order of detection, and during a swap only what concerns its
spare; a unit error found while Eclipse or wake runs is handled after wake (R432). -/
def execFaultSequencerStart (found : Option Detected) (s : State) : Host.Outcome State Fault Refusal :=
  if !s.rst.ready then .next s
  else
    let s := match found with
      | some d => s.detect (s.err d.kind.toNat d.reason.toNat d.phys.toNat d.logical.toNat d.addr.toNat)
      | none => s
    match s.errs with
    | [] => .next s
    | e :: rest =>
      let s' := { s with errs := rest }
      if e.kind = 0 || 12 < e.kind then .next (fatalFault s')
      else if 2 ≤ s.rst.pstate || s.rst.entered || !s.evKept then .next s
      else if s.flt.seqbusy then .next (swapFault s)
      else .next (handleFault e s')

/-- SPARE_BIST_DONE (R395): a spare that fails is fenced as well, and another is chosen. -/
def execSpareBistDone (pc : Fin 34) (pass : Bool) (s : State) : Host.Outcome State Fault Refusal :=
  match s.flt.swapFor with
  | j :: _ =>
    if !j.on || j.spare != pc.val then .next s
    else if pass then .next (swapDone j.idx j.spare s)
    else if !s.evKept then .next s
    else .next (spareFailed 0x0A j s)
  | [] => .next s

/-- A port is fenced, and was so before this control cycle: FLT_UNFENCE lands ahead of the sequencer (R385, R488). -/
def State.mayUnfence (s : State) (kind n : Nat) : Bool :=
  s.flt.fenced.contains (kind, n) && !s.flt.fencedAt.contains ((kind, n), s.ctlCycle)

/-- Releases a fenced port by its abort handshake (R421). -/
def unfence (kind n : Nat) (s : State) : State :=
  if s.unitsOff then setupIgnored s
  else if kind = 1 then
    if n < 4 && s.mayUnfence 7 n then
      let s := { s with flt := { s.flt with fenced := s.flt.fenced.filter (· != (7, n)) } }
      lnRaiseAbort n (s.modLn n (fun l => { l with fenced := s.flt.fenced.contains (3, n), cause := 0 }))
    else setupIgnored s
  else if kind = 2 then
    if s.mayUnfence 8 n then
      let s := { s with flt := { s.flt with fenced := s.flt.fenced.filter (· != (8, n)) } }
      s.setPort n (fun r => { r with fenced := false, abort := true, abortAt := s.clk.cyc })
    else setupIgnored s
  else s

/-- FLT_UNFENCE (R421). -/
def execFltUnfence (value : Word) (s : State) : Host.Outcome State Fault Refusal :=
  .next (s.hostWrite (unfence (bitsOf value.toNat 3 2) (bitsOf value.toNat 0 3)))

/-- ABORT_ACK_FALL (R454, R459): the port is normal again; a ring port starts its credits. -/
def execAbortAckFall (port : PortId) (s : State) : Host.Outcome State Fault Refusal :=
  match port with
  | .fp n => if (s.lan n).abort then .next s else .next (lnPump n (s.modLn n (fun l => { l with ack := false })))
  | .ring n =>
    if (s.rport n).abort then .next s else .next ((s.setPort n (fun r => { r with ack := false })).startPort n)
  | .sys | .sb | .mem _ => .next s

end Sys2Proof.Machine
end

