-- ==== Sys2Proof/Machine/Control.lean ====
section
/-! DEFINITION. The Control-ring commands (spec/15_host_rings.md R377 to R379). Each acts on the Control
descriptor that is next in ring order, when its OP is the command's and its start conditions hold; else nothing
changes. -/

namespace Sys2Proof.Machine

/-- Word `i` of a descriptor. -/
def Desc.w (d : Desc) (i : Nat) : Nat := wordAt d.bytes i
def Desc.op (d : Desc) : Nat := bitsOf (d.w 0) 0 8
def Desc.sync (d : Desc) : Bool := bitOf (d.w 0) 8
def Desc.cevt (d : Desc) : Bool := bitOf (d.w 0) 9
def Desc.wwait (d : Desc) : Bool := bitOf (d.w 0) 10
def Desc.user (d : Desc) : Nat := d.w 1
def Desc.wseq (d : Desc) : Nat := d.w 14 + 2 ^ 32 * d.w 15

/-- Operand words 2 to 13 that a command uses, with the bits it gives a meaning. -/
def ctlOperands : Nat → List (Nat × Nat)
  | 1 | 2 => [(2, 0xFFFFFFFF), (3, 0xFFFFFFFF)]
  | 3 => [(2, 0x3F), (3, 0xFFFFFFFF), (4, 0xFFFFFFFF), (5, 0xFFFFFFFF), (6, 0xFFFFFF)]
  | 4 => [(2, 0xFF), (3, 0xFFFFFFFF), (4, 0x3FFFF), (5, 0xFFFFFFFF)]
  | 5 => [(2, 0xFF)]
  | 6 | 7 => [(2, 0xFF), (3, 0xFFFFFFFF)]
  | 0x0D => [(2, 0x37F)]
  | 0x0F => [(2, 0x3FFFFF), (3, 0xFFFFFFFF), (4, 0x7F), (5, 0xFFFFFFFF)]
  | _ => []

/-- No reserved field or code (R13, R377, R378). -/
def Desc.ctlFields (d : Desc) : Bool :=
  1 ≤ d.op && d.op ≤ 0x10 && d.w 0 / 2 ^ 11 == 0 && (d.wwait || d.wseq == 0) &&
    (fromTo 2 12).all (fun i =>
      match (ctlOperands d.op).find? (·.1 == i) with
      | some (_, m) => d.w i &&& m == d.w i
      | none => d.w i == 0)

/-- Start conditions of R379 with those of R384 and R404. DEDUCED: notes/assumptions/29.md. -/
def State.ctlMayStart (s : State) (d : Desc) : Bool :=
  s.mayStart && (!d.sync || s.kp.ctlRun.all (·.done)) &&
    (!d.wwait || (d.wseq ≤ s.kp.nextseq && (match s.str.launch with
      | some l => d.wseq ≤ l.seq
      | none => true)))

/-- What a command comes to. -/
inductive CtlOut where
  /-- It waits to start, and every later descriptor behind it. -/
  | wait
  | refused (reason : Nat) (s : State)
  /-- It has completed, with STATUS. -/
  | done (status : Nat) (s : State)
  /-- It runs; LIGHT and DARKEN name the sectors still to come. -/
  | running (secs : List Nat) (s : State)

/-- Enters the descriptor at the head among those started. DEDUCED: notes/assumptions/29.md. -/
def enterCtl (d : Desc) (secs : List Nat) (status : Nat) (cevt done : Bool) (s : State) : State :=
  let r : CtlRun := ⟨s.kp.ctlNum, d.slot, d.op, cevt, d.user, secs, status, 0, done, none⟩
  { s with kp := { s.kp with ctlTaken := s.kp.ctlTaken.drop 1, ctlNum := s.kp.ctlNum + 1, ctlRun := s.kp.ctlRun ++ [r] } }

/-- Starts the head descriptor if it is the command's. A descriptor with a reserved field or code is refused
whatever command asks. `act` is given the descriptor's number in start order. -/
def startCtl (op : Nat) (act : Desc → Nat → State → CtlOut) (s : State) : Host.Outcome State Fault Refusal :=
  match s.kp.ctlTaken with
  | [] => .next s
  | d :: _ =>
    if !s.ctlMayStart d then .next s
    else
      let refuse (reason : Nat) (s : State) : State :=
        ctlPump ((enterCtl d [] 0 false true s).descErr 2 d.slot reason d.op d.user)
      if !d.ctlFields then .next (refuse 1 s)
      else if d.op != op then .next s
      else
        let num := s.kp.ctlNum
        let s0 := enterCtl d [] 0 d.cevt false s
        match act d num s0 with
        | .wait => .next s
        | .refused reason s' =>
          let runs := s'.kp.ctlRun.map (fun (r : CtlRun) => if r.num = num then { r with cevt := false, done := true } else r)
          .next (ctlPump ({ s' with kp := { s'.kp with ctlRun := runs } }.descErr 2 d.slot reason d.op d.user))
        | .done status s' =>
          let runs := s'.kp.ctlRun.map (fun (r : CtlRun) => if r.num = num then { r with status := status, done := true } else r)
          .next (ctlPump { s' with kp := { s'.kp with ctlRun := runs } })
        | .running secs s' =>
          let runs := s'.kp.ctlRun.map (fun (r : CtlRun) => if r.num = num then { r with secs := secs } else r)
          .next (ctlPump { s' with kp := { s'.kp with ctlRun := runs } })

/-! ### Sectors (R59, R433) -/

/-- Sectors that a mask names. -/
def maskSecs (d : Desc) : List Nat :=
  let m := d.w 2 + 2 ^ 32 * d.w 3
  (upTo 64).filter m.testBit

/-- LIGHT's action. DEDUCED: notes/assumptions/19.md. -/
def actLight (d : Desc) (_num : Nat) (s : State) : CtlOut :=
  let secs := maskSecs d
  if secs.any (fun k => (s.secCtl k).st == .closing || (s.psecOf k).isNone) then .refused 8 s
  else
    let todo := secs.filter (fun k => (s.secCtl k).st != .lit)
    if todo.isEmpty then .done 1 s
    else
      let add := todo.filter (fun k => (s.secCtl k).st == .dark && !s.pwr.lightQ.contains k)
      .running todo (lightNext { s with pwr := { s.pwr with lightQ := s.pwr.lightQ ++ add } })

/-- LIGHT (R59). -/
def execLight (s : State) : Host.Outcome State Fault Refusal := startCtl 1 actLight s

/-- A DARKEN lands ahead of a BIST_CMD of the same control cycle (R385), which then finds the sector Closing and is refused
(R511). -/
def bistOverruled (s : State) (sec : Nat) : State :=
  if s.ordered 7 sec && s.bist.busy && s.bist.sec = sec then
    ((s.unlight sec).modSec sec (fun c => { c with st := .lit })) |> fun s =>
      { s with bist := ⟨false, s.bist.prior.1, true, s.bist.prior.2, s.bist.prior⟩ }
  else s

/-- DARKEN's action. DEDUCED: notes/assumptions/19.md. -/
def actDarken (d : Desc) (_num : Nat) (s : State) : CtlOut :=
  let secs := maskSecs d
  if secs.any (fun k => (s.psecOf k).isNone) then .refused 8 s
  else
    let s := secs.foldl bistOverruled s
    let todo := secs.filter (fun k => (s.secCtl k).st != .dark)
    if todo.isEmpty then .done 1 s
    else .running todo (todo.foldl (fun s k =>
      if (s.secCtl k).st == .lighting then s.modSec k (fun c => { c with closeAfter := true })
      else if (s.secCtl k).st == .lit then startClosing k s
      else s) s)

/-- DARKEN (R59). -/
def execDarken (s : State) : Host.Outcome State Fault Refusal := startCtl 2 actDarken s

/-! ### Moorings and buoys -/

/-- MOOR's settings. -/
def moorOf (d : Desc) : Moor :=
  ⟨d.w 3, d.w 4, bitsOf (d.w 5) 0 16, bitsOf (d.w 5) 16 16, bitsOf (d.w 6) 0 15, bitOf (d.w 6) 15, bitsOf (d.w 6) 16 8⟩

/-- The rules of R344. DEDUCED: notes/assumptions/30.md. -/
def Moor.ok (m : Moor) : Bool :=
  m.base % 4096 == 0 && m.base < 2 ^ 29 && m.size % 4096 == 0 && m.size ≤ 2 ^ 26 &&
    (m.size == 0 || m.base + m.size ≤ 2 ^ 29) && m.lo ≤ m.hi && m.hi - m.lo < 16 && m.cdepth ≤ 16384 &&
    (!m.isOpen || m.hi - m.lo + 1 ≤ m.cdepth)

/-- MOOR's action (R344, R346): what it held is closed first; credits it owes are not returned. DEDUCED:
notes/assumptions/30.md. -/
def actMoor (d : Desc) (_num : Nat) (s : State) : CtlOut :=
  let n := bitsOf (d.w 2) 0 6
  let m := moorOf d
  if !m.ok then .refused 0x0B s
  else
    let m := if m.isOpen then m else Moor.shut
    .done 0 ((s.setMooring n m).grantFresh n)

/-- MOOR (R344). -/
def execMoor (s : State) : Host.Outcome State Fault Refusal := startCtl 3 actMoor s

/-- ARM's action (R72 to R74). -/
def actArm (d : Desc) (_num : Nat) (s : State) : CtlOut :=
  let n := bitsOf (d.w 2) 0 8
  let lines := bitsOf (d.w 4) 0 17
  let s := s.orderBuoy n
  if !s.armOk n (d.w 3) lines then .refused 2 s
  else if (s.buoy n).st != .free then .refused 6 (s.buoyMisuse n 3 5 false)
  else .done 0 (s.armBuoy n (d.w 3) lines (bitsOf (d.w 5) 0 16) (bitsOf (d.w 5) 16 16) (bitOf (d.w 4) 17))

/-- ARM (R74). -/
def execArm (s : State) : Host.Outcome State Fault Refusal := startCtl 4 actArm s

/-- FREE's action (R74, R81). -/
def actFree (d : Desc) (_num : Nat) (s : State) : CtlOut :=
  let n := bitsOf (d.w 2) 0 8
  let s := if (s.buoy n).st == .free then s else s.order 4 n
  .done 0 ((s.orderBuoy n).freeNow n)

/-- FREE (R74). -/
def execFree (s : State) : Host.Outcome State Fault Refusal := startCtl 5 actFree s

/-! ### Lantern commands (R274) -/

/-- What LOAD and START share: a full queue waits, the block must lie in open sectors, and the checks of R278 and
R280 refuse. DEDUCED: notes/assumptions/30.md. -/
def actLantern (isLoad : Bool) (d : Desc) (num : Nat) (s : State) : CtlOut :=
  let n := bitsOf (d.w 2) 0 2
  let slot := bitsOf (d.w 2) 2 6
  let a := d.w 3
  let head := if isLoad then 16 else 128
  if !s.ctlRoom n then .wait
  else if !fusAddrOk a head then .refused 2 s
  else if !s.runOpen a head then .refused 8 s
  else
    let len := if isLoad then chainBytes (ofBytes (s.readRun a 4).1) else 128
    if fusAddrOk a len && !s.runOpen a len then .refused 8 s
    else
      let got := if fusAddrOk a len then len else head
      match s.takeBanks a got with
      | none => .wait
      | some s =>
        let read := (s.readRun a got).2
        let first := s.fusAside n
        match (if isLoad then fusLoad first n slot a (some num) else fusStart first n slot a (some num) none) with
        | .bounds => .refused 2 read
        | .chain => .refused 7 read
        | .ok c => .running [] (lnPutFirst n c read)

/-- LOAD (R274, R275). -/
def execLoad (s : State) : Host.Outcome State Fault Refusal := startCtl 6 (actLantern true) s

/-- START (R274). -/
def execStart (s : State) : Host.Outcome State Fault Refusal := startCtl 7 (actLantern false) s

/-! ### Marks and holds -/

/-- MARK's action (R355). -/
def actMark (_d : Desc) (num : Nat) (s : State) : CtlOut :=
  let s := s.setMark (fun m => { m with waiters := m.waiters ++ [num] })
  .running [] (if s.isLead then startMark s else s.originate (s.newPkt s.ring.leadId 0 10 0 0 0 []))

/-- MARK (R355). -/
def execMark (s : State) : Host.Outcome State Fault Refusal := startCtl 8 actMark s

/-- RELEASE's action (R359): only the lead light may circulate it. -/
def actRelease (_d : Desc) (num : Nat) (s : State) : CtlOut :=
  if !s.isLead then .refused 9 s
  else
    let pay := if s.ring.holdPay.length = 16 then s.ring.holdPay else toBytes 16 0
    let s := { s with ring := { s.ring with relWait := s.ring.relWait ++ [num] } }
    .running [] (s.toNext 9 pay)

/-- RELEASE (R359). -/
def execRelease (s : State) : Host.Outcome State Fault Refusal := startCtl 9 actRelease s

/-! ### The stream (R375, R426) -/

/-- PAUSE's action: one that meets a KEEPER_CMD.RESUME of its control cycle lands on the stream still stopped (R385). -/
def actPause (_d : Desc) (_num : Nat) (s : State) : CtlOut :=
  if s.wrun && !s.streamStopped && !s.str.ended && !s.ordered 6 0 then .running [] (askPause s) else .done 1 s

/-- PAUSE (R375). -/
def execPause (s : State) : Host.Outcome State Fault Refusal := startCtl 0x0A actPause s

/-- RESUME's action: a KEEPER_CMD.PAUSE of its control cycle lands after it (R385). With no resumable stop it has no effect
(R375), so that a Control-ring product that E_STALL has suspended goes on only when the stream is resumed: DESIGN CHOICE:
notes/assumptions/25.md. -/
def actResume (_d : Desc) (_num : Nat) (s : State) : CtlOut :=
  if s.wrun && s.str.stop.resumable then
    .done 0 (if s.ordered 5 0 then askPause (askResume s) else askResume s)
  else .done 1 s

/-- RESUME (R375). -/
def execResume (s : State) : Host.Outcome State Fault Refusal := startCtl 0x0B actResume s

/-- ABORT's action: it completes when the abort is over. -/
def actAbort (_d : Desc) (_num : Nat) (s : State) : CtlOut :=
  if s.wrun then .running [] (if s.aborting then s else startAbort s) else .done 1 s

/-- ABORT (R426). -/
def execAbort (s : State) : Host.Outcome State Fault Refusal := startCtl 0x0C actAbort s

/-! ### Tender, Eclipse, tokens -/

/-- TDCMD's action (R322): OP 0 and 3 are ignored (R328). -/
def actTdcmd (d : Desc) (_num : Nat) (s : State) : CtlOut :=
  let c := bitsOf (d.w 2) 0 1 * 64 + bitsOf (d.w 2) 1 6
  let op := bitsOf (d.w 2) 8 2
  if op = 0 || op = 3 then .done 1 s
  else .done (tdControl op c s).1 (tdControl op c s).2

/-- TDCMD (R322). -/
def execTdcmd (s : State) : Host.Outcome State Fault Refusal := startCtl 0x0D actTdcmd s

/-- The grounds on which ECLIPSE is refused (R428). -/
def State.eclipseBarred (s : State) : Bool :=
  s.ring.en || s.ring.hold || s.logClosing || s.log.rbusy || s.flt.seqbusy || !s.errs.isEmpty ||
    s.streamStopped && s.wrun || s.td.ch.any (fun c => c.2.st == .paused)

/-- ECLIPSE's action. -/
def actEclipse (d : Desc) (num : Nat) (s : State) : CtlOut :=
  if s.eclipseBarred then .refused 8 s
  else .running [] { s with rst := { s.rst with eclipse := some num, eclipseAt := (d.slot, d.user) } }

/-- ECLIPSE (R428). -/
def execEclipse (s : State) : Host.Outcome State Fault Refusal := startCtl 0x0E actEclipse s

/-- TOKEN's action (R378): a class 0 DATA packet. DEDUCED: notes/assumptions/30.md. -/
def actToken (d : Desc) (num : Nat) (s : State) : CtlOut :=
  let len := d.w 4
  let off := d.w 3
  let a := d.w 5
  if len = 0 || 64 < len || 256 < off % 256 + len then .refused 0x0B s
  else if !inOsura a len then .refused 2 s
  else if !s.runOpen a len then .refused 8 s
  else
    match s.takeBanks a len with
    | none => .wait
    | some s =>
      let (bs, s) := s.readRun a len
      .running [] (s.sendToken num (bitsOf (d.w 2) 0 16) (bitsOf (d.w 2) 16 6) off bs)

/-- TOKEN (R378). -/
def execToken (s : State) : Host.Outcome State Fault Refusal := startCtl 0x0F actToken s

/-- NOTE (R378). -/
def execNote (s : State) : Host.Outcome State Fault Refusal := startCtl 0x10 (fun _ _ s => .done 0 s) s

end Sys2Proof.Machine
end

