-- ==== Sys2Proof/Machine/Power.lean ====
section
/-! DEFINITION. Clocks, Foghorn, power answers, resets, bring-up and Eclipse (spec/17_reset_and_eclipse.md R422 to
R437, spec/18_ports_and_signals.md R460 to R467, spec/19_clocks_power_supply.md R471 to R486). -/

namespace Sys2Proof.Machine

/-! ### Divisor and Foghorn (R474, R483) -/

/-- The slower of the host's request and the active Foghorn throttle's. -/
def Clk.wanted (c : Clk) : Nat := max (min 2 c.coreDiv) (if c.fogThr then c.fogAdiv + 1 else 0)

/-- A change of a request: a switch waits for its edge if the divisor in force is another, and the next control cycle
evaluates it (R474). -/
def State.evalDiv (s : State) : State :=
  let c := s.clk
  let t := if c.wanted = c.divNow then none else some c.wanted
  { s with clk := { c with divTarget := t, askedAt := if t = c.divTarget then c.askedAt else some s.ctlCycle } }

/-- The levels on SB (R460), which are 0 until READY (R424). -/
def State.sbFog (s : State) : Bool := s.rst.ready && s.flt.fognow
def State.sbFatal (s : State) : Bool := s.rst.ready && s.flt.fatal
def State.sbDiv (s : State) : Nat := if s.rst.ready then s.clk.divNow else 0

/-- FOGHORN_START (R483, R413). -/
def execFoghornStart (s : State) : Host.Outcome State Fault Refusal :=
  if s.rst.por || s.flt.fognow then .next s
  else
    .next { s with
      flt := { s.flt with foghorn := true, fognow := true, lastFog := some s.clk.ticks }
      clk := { s.clk with fogThr := s.clk.fogThr || s.clk.fogAuto } }.evalDiv

/-- FOGHORN_END (R483). -/
def execFoghornEnd (s : State) : Host.Outcome State Fault Refusal :=
  if s.flt.fognow then .next { s with flt := { s.flt with fognow := false, lastFog := some s.clk.ticks } } else .next s

/-- THROTTLE_RELEASE (R483): the condition has been absent for HOLD × 64 ticks. -/
def execThrottleRelease (s : State) : Host.Outcome State Fault Refusal :=
  if s.clk.fogThr && !s.flt.fognow && s.flt.lastFog.getD 0 + max 1 s.clk.fogHold * 64 ≤ s.clk.ticks then
    .next ({ s with clk := { s.clk with fogThr := false } }.evalDiv)
  else .next s

/-- A reset holds the divisor in force at ÷4 (R476), and so does a held test (R512). -/
def State.divHeld (s : State) : Bool := s.rst.por || s.rst.brst || s.tw.held

/-- CORE_DIV_SWITCH (R474): on an edge of both the core and the control clock, once the request has been evaluated; in
Eclipse the core clock has no edge (R476). -/
def execCoreDivSwitch (s : State) : Host.Outcome State Fault Refusal :=
  match s.clk.divTarget with
  | some v =>
    if s.clk.ckr % 8 = 0 && s.clk.pending s.ctlCycle && !s.divHeld && !s.clk.stopped then
      .next { s with clk := { s.clk with divNow := v, divTarget := none } }
    else .next s
  | none => .next s

/-! ### Resets (R422 to R425, R435, R466) -/

/-- Everything is as after a power-on reset but what comes in from outside and the model's own fields; `last` is
LASTRST. -/
def powerReset (last : Nat) (brown : Bool) (s : State) : State :=
  let r := State.reset
  { r with
    rst := { r.rst with por := true, brown := brown, lastRst := last, brst := s.rst.brst }
    ln := s.ln.map (fun l => { Lantern.fresh with present := l.present })
    ring := { r.ring with ports := s.ring.ports.map (fun p => { RPort.fresh with linkUp := p.linkUp }) }
    tw := { s.tw with tested := false }
    out := s.out, free := s.free, pending := s.pending }

/-- POWER_ON_RESET (R466, R422). -/
def execPowerOnReset (s : State) : Host.Outcome State Fault Refusal :=
  .next (powerReset (if s.rst.brown then 1 else 0) s.rst.brown s)

/-- BROWN_OUT (R485, R414). -/
def execBrownOut (s : State) : Host.Outcome State Fault Refusal := .next (powerReset 1 true s)

/-- BROWN_OUT_RELEASE (R485): the sequence of R466 runs then. -/
def execBrownOutRelease (s : State) : Host.Outcome State Fault Refusal :=
  .next { s with rst := { s.rst with brown := false } }

/-- POR_RELEASE (R466): the reset ends and bring-up waits for the Daymark; a brown-out or a block reset holds it
(R485, R424). -/
def execPorRelease (s : State) : Host.Outcome State Fault Refusal :=
  if s.rst.por && !s.rst.brown && !s.rst.brst then .next { s with rst := { s.rst with por := false, phase := 0 } }
  else .next s

/-- The sector controllers after a block reset (R425, R435): Lit stays Lit, everything else is Dark. DEDUCED:
notes/assumptions/34.md. -/
def SecCtl.atReset (c : SecCtl) : SecCtl :=
  { SecCtl.fresh with st := if c.st = .lit then .lit else .dark, scrubLine := c.scrubLine }

/-- Sectors that a block reset darkens are powered off. DEDUCED: notes/assumptions/34.md. -/
def darkenForReset (s : State) : State :=
  (upTo 64).foldl (fun s k =>
    let st := (s.secCtl k).st
    if st = .closing || st = .lighting then
      match s.lightHome k with
      | some p => if sget false s.pwr.on (secDom p) then s.powerAsk (secDom p) 0 else s
      | none => s
    else s) s

/-- A spare that a swap had powered up goes off again: the reset ends the swap and keeps the maps (R425, R435). DEDUCED:
notes/assumptions/34.md. -/
def dropSwap (s : State) : State :=
  match s.flt.swapFor with
  | j :: _ => if j.on && s.map.pc.getD j.spare .fenced == .spare then s.powerOff j.spare else s
  | [] => s

/-- The state that a block reset leaves while it is held: the Reset values, and what R435 keeps. DEDUCED:
notes/assumptions/34.md. -/
def blockReset (s0 : State) : State :=
  let s := darkenForReset (dropSwap s0)
  let r := State.reset
  let ring (x : HRing) : HRing := { HRing.fresh with base := x.base, log2 := x.log2 }
  { r with
    clk := { s.clk with
      cyc := 0, ticks := 0, divNow := 0, fogThr := false, stopped := false
      divTarget := if min 2 s.clk.coreDiv = 0 then none else some (min 2 s.clk.coreDiv) }
    map := s.map
    osura := { r.osura with
      data := s.osura.data, check := s.osura.check
      secs := (upTo 64).foldl (fun m k => sset SecCtl.fresh m k (s.secCtl k).atReset) []
      share := s.osura.share, sharePend := s.osura.sharePend, weights := s.osura.weights
      scrubPace := s.osura.scrubPace, ceRetire := s.osura.ceRetire
      ueAddr := s.osura.ueAddr, ueScrub := s.osura.ueScrub, ueValid := s.osura.ueValid }
    buoys := { r.buoys with
      stallLog2 := s.buoys.stallLog2, errBuoy := s.buoys.errBuoy, errKind := s.buoys.errKind
      errSource := s.buoys.errSource, errUncov := s.buoys.errUncov, errValid := s.buoys.errValid }
    str := { r.str with far := s.str.far, farPend := s.str.farPend }
    trap := { r.trap with mode := s.trap.mode, resume := s.trap.resume, slots := s.trap.slots }
    ln := s.ln.map (fun l => { Lantern.fresh with present := l.present, abort := l.present })
    td := { r.td with
      fHalf := s.td.fHalf, fCh := s.td.fCh, fDir := s.td.fDir, fPort := s.td.fPort, fValid := s.td.fValid
      fIova := s.td.fIova }
    mem := { r.mem with rd := s.mem.rd.map MemTag.orphan, wr := s.mem.wr.map MemTag.orphan }
    ring := { r.ring with
      chipId := s.ring.chipId, leadId := s.ring.leadId, nextId := s.ring.nextId, jobKey := s.ring.jobKey
      wFused := s.ring.wFused, wBulk := s.ring.wBulk, rt := s.ring.rt, rtport := s.ring.rtport
      markTimeout := s.ring.markTimeout, sealLimit := s.ring.sealLimit
      errReason := s.ring.errReason, errPort := s.ring.errPort, errLocal := s.ring.errLocal
      errSrc := s.ring.errSrc, errValid := s.ring.errValid
      ports := s.ring.ports.map (fun p => { RPort.fresh with linkUp := p.linkUp }) }
    kp := { r.kp with
      work := ring s.kp.work, xfer := ring s.kp.xfer, ctl := ring s.kp.ctl, event := ring s.kp.event
      conflictKind := s.kp.conflictKind, conflictUnit := s.kp.conflictUnit, conflictValid := s.kp.conflictValid
      sys := s.kp.sys.map SysReq.orphan }
    flt := { r.flt with
      info0 := s.flt.info0, info1 := s.flt.info1, fognow := s.flt.fognow
      lastFog := if s.flt.fognow then some 0 else none }
    cnt := { r.cnt with freeze := s.cnt.freeze }
    log := { r.log with
      baseA := s.log.baseA, baseB := s.log.baseB, rate := s.log.rate, epoch := s.log.epoch }
    rst := { r.rst with
      lastRst := 2, brst := s.rst.brst, phase := if 3 ≤ s.rst.phase then 4 else s.rst.phase }
    pwr := { r.pwr with on := s.pwr.on, reqs := s.pwr.reqs, asked := s.pwr.asked, offDue := s.pwr.offDue }
    dm := s.dm, tw := s.tw
    trc := { r.trc with mode := s.trc.mode, wrap := s.trc.wrap, base := s.trc.base, limit := s.trc.limit }
    lnCfg := s.lnCfg
    out := s.out, free := s.free, pending := s.pending }

/-- A reset waits for the wake: in Eclipse, in wake, and once entry has put sectors into Retention (R432, R425). -/
def State.resetWaits (s : State) : Bool := 2 ≤ s.rst.pstate || s.rst.entered

/-- The block reset is asserted (R425, R432): READY is 0 from here on (R424), in Eclipse and wake too. -/
def assertReset (s : State) : State :=
  if s.resetWaits then { s with rst := { s.rst with resetHeld := true, ready := false } } else blockReset s

/-- BLOCK_RESET (R467, R425, R432): a power-on reset is only extended (R424). -/
def execBlockReset (s : State) : Host.Outcome State Fault Refusal :=
  let s := { s with rst := { s.rst with brst := true } }
  .next (if s.rst.por then s else assertReset s)

/-- What a fault had switched off of Lanterns and Tender comes on again after a block reset (R435, R478). DEDUCED:
notes/assumptions/34.md. -/
def repower (s : State) : State :=
  (s.map.working ++ fromTo 102 6).foldl (fun s d =>
    if sget false s.pwr.on d || s.powerBusy d then s else s.powerAsk d 1) s

/-- Requests power for every cluster, Lantern and Tender half (R436 step 3, R478). -/
def bringUp (s : State) : State :=
  let s := { s with rst := { s.rst with phase := 1 } }
  (upTo 34 ++ fromTo 102 6).foldl (fun s d =>
    if s.powerBusy d || sget false s.pwr.on d || (d < 34 && s.map.pc.getD d .spare == .fenced) then s
    else s.powerAsk d 1) s

/-- BLOCK_RESET_RELEASE (R425): the cluster BIST repeats. -/
def execBlockResetRelease (s : State) : Host.Outcome State Fault Refusal :=
  let s := { s with rst := { s.rst with brst := false } }
  .next (if s.rst.phase = 4 then repower s else s)

/-! ### Bring-up (R436, R463) -/

/-- DAYMARK_WORD (R463, R504): at the last word the record locks, and cluster power is requested. -/
def execDaymarkWord (word : Word) (last : Bool) (s : State) : Host.Outcome State Fault Refusal :=
  if s.rst.por || s.dm.locked then .next s
  else
    let dm := { s.dm with
      words := if s.dm.nwords < 32 then s.dm.words.set s.dm.nwords word else s.dm.words
      nwords := min 32 (s.dm.nwords + 1) }
    if !last then .next { s with dm := dm }
    else
      let bytes := (dm.words.take 31).flatMap (fun w => toBytes 4 w.toNat)
      .next (bringUp { s with dm := { dm with
        locked := true, crcErr := crc32c bytes != (dm.words.getD 31 0#32).toNat } })

/-- Clusters whose bring-up power answer is still to come. -/
def State.clusterPowerWait (s : State) : Bool := s.pwr.reqs.any (fun r => r.1 < 34 && r.2 == 1)

/-- When the last cluster is on, the BIST runs (R436). -/
def bistStart (s : State) : State :=
  if s.rst.phase = 1 && !s.clusterPowerWait then { s with rst := { s.rst with phase := 2 } } else s

/-- The index of a cluster that failed at bring-up moves to a spare that passed, and FAULT is queued (R436,
R24). -/
def bringUpFault (reason p : Nat) (s : State) : State :=
  let idx := s.map.indexOf p
  let spare := idx.bind (fun _ => s.pickCluster p)
  let s := match idx with
    | some n =>
      let s := { s with map := { s.map.setCl s.ctlCycle (s.map.cl.set n spare) with home := s.map.home.set n spare } }
      (match spare with
        | some q => s.setPc q .mapped
        | none => s)
    | none => s
  faultEvent (s.err 0x01 reason p (idx.getD 0xFF) 0) (spare.getD 0xFF) s.spareClusters.length s

/-- Fences a cluster at bring-up and switches it off. -/
def fenceOff (p : Nat) (s : State) : State :=
  let s := s.setPc p .fenced
  if s.powerBusy p then s else s.powerAsk p 0

/-- CLUSTER_BIST_DONE (R436, R425): at bring-up failures are fenced, unused clusters are switched off, and the block
is READY; after a block reset a failure goes to the fault sequencer. -/
def execClusterBistDone (failed : BitVec 34) (s : State) : Host.Outcome State Fault Refusal :=
  if s.rst.por || s.rst.brst || s.tw.held || s.clusterPowerWait then .next s
  else
    let bad := (upTo 34).filter (fun p => failed.toNat.testBit p && s.map.pc.getD p .fenced != .fenced)
    let up (s : State) : State := { s with rst := { s.rst with phase := 3, bistDone := true, ready := true } }
    if s.rst.phase = 2 then
      let s := bad.foldl (fun s p => fenceOff p s) s
      let s := bad.foldl (fun s p => bringUpFault 0x0A p s) s
      .next (up (s.spareClusters.foldl (fun s p => s.powerAsk p 0) s))
    else if s.rst.phase = 4 then
      let bad := bad.filter (fun p => s.map.working.contains p)
      .next (up (bad.foldl (fun s p => s.detect (s.err 0x01 0x0A p ((s.map.indexOf p).getD 0xFF) 0)) s))
    else .next s

/-! ### Power answers (R462) -/

/-- A failed answer, or a power-switch fault, by domain. -/
def powerFail (dom : Nat) (s : State) : State :=
  if dom < 34 then
    if s.rst.phase = 1 then bistStart (bringUpFault 0x08 dom (fenceOff dom s))
    else s.detect (s.err 0x01 0x08 dom ((s.map.indexOf dom).getD 0xFF) 0)
  else if dom < 102 then
    let k := (upTo 64).find? (fun k => s.psecOf k == some (dom - 34))
    s.detect (s.err 0x02 0x08 (dom - 34) (k.getD 0xFF) 0)
  else if dom < 106 then s.detect (s.err 0x03 0x08 (dom - 102) 0xFF 0)
  else s.detect (s.err 0x04 0x08 (dom - 106) 0xFF 0)

/-- A domain that nothing keeps on: its unit has been fenced (R64, R395, R390), or it is a spare, or a sector, whose
activation has been given up. -/
def State.domUnwanted (s : State) (dom : Nat) : Bool :=
  if dom < 34 then s.map.pc.getD dom .spare == .fenced ||
    (3 ≤ s.rst.phase && s.map.pc.getD dom .spare == .spare && s.flt.swapFor.all (·.spare != dom))
  else if dom < 102 then s.map.psec.getD (dom - 34) .spare == .fenced ||
    s.pwr.lightOn.all (fun x => s.lightHome x.1 != some (dom - 34))
  else s.flt.fenced.contains (if dom < 106 then (3, dom - 102) else (4, dom - 106))

/-- A good answer: what waited for the domain goes on. What is no longer wanted goes off again. -/
def powerGood (dom op : Nat) (s : State) : State :=
  let s := if op = 1 || op = 3 then { s with pwr := { s.pwr with on := sset false s.pwr.on dom true } } else s
  if op = 0 then lightNext s
  else if op != 1 then s
  else if s.domUnwanted dom then s.powerOff dom
  else if dom < 34 then
    bistStart { s with flt := { s.flt with swapFor := s.flt.swapFor.map (fun (x : ClSwap) =>
      if x.spare = dom then { x with on := true } else x) } }
  else if dom < 102 then
    -- the first LIGHT of a physical sector runs its BIST before the zero-fill (R433)
    let fresh := !s.map.tested.getD (dom - 34) true
    { s with pwr := { s.pwr with lightOn := s.pwr.lightOn.map (fun x =>
      if s.lightHome x.1 = some (dom - 34) then (x.1, fresh || (s.bist.busy && s.bist.sec == x.1)) else x) } }
  else s

/-- An SB transfer that is ignored (R441). -/
def sbIgnored (s : State) : State := bump 0x0270 s

/-- A retained sector's domain. -/
def State.retainedDom (s : State) (dom : Nat) : Bool :=
  (upTo 64).any (fun k => (s.secCtl k).st == .retention && (s.psecOf k).map secDom == some dom)

/-- RESUME is asked for every sector in Retention, once nothing else of the wake's power-up is outstanding (R431). -/
def wakeResume (s : State) : State :=
  if s.rst.pstate = 3 && !s.rst.resumed && !s.pwr.reqs.any (fun r => r.2 == 1) then
    s.rst.retained.foldl (fun s k => match s.psecOf k with
      | some p => s.powerAsk (secDom p) 3
      | none => s) { s with rst := { s.rst with resumed := true } }
  else s

/-- A request has been answered: the requests that waited for it are made (R431, R478). -/
def powerNext (s : State) : State := wakeResume (clusterPump s)

/-- SB_POWER_ANSWER (R462). -/
def execSbPowerAnswer (dom : BitVec 7) (fail : Bool) (s : State) : Host.Outcome State Fault Refusal :=
  let d := dom.toNat
  if s.rst.por then .next s
  else if 108 ≤ d then .next (sbIgnored s)
  else
    match s.pwr.reqs.find? (fun r => r.1 == d) with
    | some (_, op) =>
      let s := { s with pwr := { s.pwr with reqs := s.pwr.reqs.erase (d, op) } }
      .next (powerNext (if fail then powerFail d s else powerGood d op s))
    | none =>
      if fail && (sget false s.pwr.on d || s.retainedDom d) then .next (powerFail d s) else .next (sbIgnored s)

/-- CKR cycles of 1 ms at the nominal clock (R462, R472). -/
def oneMs : Nat := 3400000

/-- SB_POWER_TIMEOUT (R462): a request unanswered for 1 ms counts as answered with fail. -/
def execSbPowerTimeout (dom : BitVec 7) (s : State) : Host.Outcome State Fault Refusal :=
  match s.pwr.reqs.find? (fun r => r.1 == dom.toNat) with
  | some r =>
    if s.rst.por || s.clk.ckr < sget 0 s.pwr.asked r.1 + oneMs then .next s
    else .next (powerNext (powerFail r.1 { s with pwr := { s.pwr with reqs := s.pwr.reqs.erase r } }))
  | none => .next s

/-- SB_WAKE (R464). -/
def execSbWake (s : State) : Host.Outcome State Fault Refusal := .next (wakeEvent true s)

/-! ### Eclipse (R428 to R432) -/

/-- The four parts of quiescence (R428). -/
def State.quiescent (s : State) : Bool := s.allIdle && s.fenceDone

/-- ECLIPSE's CTL_DONE and every queued record have been written, and the Logbook has finished its granule (R429
steps 1 and 2). -/
def State.entryReady (s : State) : Bool :=
  s.evq.isEmpty && s.kp.evBad.isEmpty && s.kp.evOut.isEmpty && s.kp.recQ.isEmpty && s.log.reading.isEmpty && !s.logWriting

/-- Steps 3 to 6 of R429; entry goes on until the power requests are answered. DEDUCED: notes/assumptions/33.md. -/
def enterEclipse (s : State) : State :=
  let lit := (upTo 64).filter (fun k => (s.secCtl k).st == .lit)
  let on := (upTo 34).filter (fun p => sget false s.pwr.on p)
  let cl : Sparse FlagSet := s.lanes.foldl (fun (m : Sparse FlagSet) (x : Nat × Lanes) => sset flagNone m x.1 x.2.flags) []
  let lnf : List FlagSet := s.ln.map (fun (l : Lantern) => l.flags)
  let s := { s with rst := { s.rst with
    savedCl := cl, savedLn := lnf, wasOn := on, retained := lit, eclipse := none, entered := true } }
  let s := lit.foldl (fun (s : State) (k : Nat) =>
    let s := s.modSec k (fun c => { c with st := .retention, scrubWait := false, scrubOver := false })
    match s.psecOf k with
    | some p => s.powerAsk (secDom p) 2
    | none => s) s
  let s := (on ++ (fromTo 102 6).filter (fun d => sget false s.pwr.on d)).foldl
    (fun (s : State) (d : Nat) => s.powerAsk d 0) s
  let tdOrLn (a : Nat) : Bool := a = 0x025C || (0x0280 ≤ a && a ≤ 0x029C)
  let q := s.osura.q.filter (fun (r : AsyncReq) => r.agent != .scrub && r.agent != .scrubOver)
  let lns : List Lantern := s.ln.map (fun (l : Lantern) =>
    { Lantern.fresh with present := l.present, fenced := l.fenced, cause := l.cause, named := l.named })
  let eng : Sparse Nat := s.cnt.eng.filter (fun (x : Nat × Nat) => !tdOrLn x.1)
  { s with
    osura := { s.osura with q := q }
    lanes := []
    cnt := { s.cnt with
      cl := [], eng := eng
      was := s.cnt.was.map (fun (w : Nat × Sparse Nat × Sparse Nat) => (w.1, w.2.1.filter (fun x => !tdOrLn x.1), [])) }
    ln := lns }

/-- Domains that wake waits for. -/
def State.wakeWaits (s : State) : Bool := !s.rst.resumed || s.pwr.reqs.any (fun r => r.2 == 1 || r.2 == 3)

/-- The first steps of wake: the core clock restarts at the slower of the two requests (R476), and power is asked for what
was on, then for what was retained (R431). DEDUCED: notes/assumptions/33.md. -/
def startWake (s : State) : State :=
  let clk := if s.clk.stopped then { s.clk with stopped := false, divNow := s.clk.wanted, divTarget := none } else s.clk
  let s := { s with
    clk := clk
    rst := { s.rst with
      pstate := 3, entered := false, resumed := false, wakeSrc := s.rst.wakeHeld.getD s.rst.wakeSrc, wakeHeld := none } }
  wakeResume ((s.rst.wasOn ++ (fromTo 102 6).filter (fun d =>
    !s.flt.fenced.contains (if d < 106 then (3, d - 102) else (4, d - 106)))).foldl (fun s d => s.powerAsk d 1) s)

/-- ECLIPSE_ENTRY (R429): once quiescent, CTL_DONE is queued and entry begins; once every record is written, flags are
kept and power goes down; once all of that is answered, the core clock stops and the block is in Eclipse. A reset that
came meanwhile wakes it at once (R432). DEDUCED: notes/assumptions/33.md. -/
def execEclipseEntry (s : State) : Host.Outcome State Fault Refusal :=
  if s.rst.entered then
    if !s.pwr.reqs.isEmpty then .next s
    else if s.rst.resetHeld then .next (startWake s)
    else .next { s with clk := { s.clk with stopped := true }, rst := { s.rst with pstate := 2, entered := false } }
  else
    match s.rst.eclipse with
    | none => .next s
    | some num =>
      if s.rst.pstate = 1 then (if s.entryReady && s.errs.isEmpty then .next (enterEclipse s) else .next s)
      else if s.quiescent && s.evRoom && s.errs.isEmpty then
        .next (({ s with rst := { s.rst with pstate := 1 } }).settle num false)
      else .next s

/-- The last steps of wake (R431): flags come back, sectors are Lit with their contents, and a held block reset
follows (R432). -/
def endWake (s : State) : State :=
  let s := s.rst.retained.foldl (fun s k => s.modSec k (fun c => { c with st := .lit, scrubTick := s.clk.ticks })) s
  let s := s.rst.savedCl.foldl (fun s x => s.modLane x.1 (fun l => { l with flags := x.2 })) s
  let lns : List Lantern := s.ln.zipIdx.map (fun x => { x.1 with flags := s.rst.savedLn.getD x.2 flagNone })
  let s := { s with
    ln := lns
    str := { s.str with stop := .blank, movRow := [(0, false), (0, false)], farFault := .blank }
    rst := { s.rst with pstate := 0, wasOn := [], retained := [], savedCl := [], savedLn := [] } }
  if !s.rst.resetHeld then (upTo 8).foldl (fun s n => s.startPort n) s
  else if s.rst.brst || s.tw.held then blockReset s
  else repower (blockReset s)

/-- ECLIPSE_WAKE (R431): a wake event starts the sequence; it ends when every power request is answered. DEDUCED:
notes/assumptions/33.md. -/
def execEclipseWake (s : State) : Host.Outcome State Fault Refusal :=
  if s.rst.pstate = 2 && (s.rst.wakeHeld.isSome || s.rst.resetHeld) && s.pwr.reqs.isEmpty then .next (startWake s)
  else if s.rst.pstate = 3 && !s.wakeWaits then .next (endWake s)
  else .next s

end Sys2Proof.Machine
end

