-- ==== Sys2Proof/Machine/Registers.lean ====
section
/-! DEFINITION. The register map (spec/20_register_map.md R487 to R502, spec/21_identity_and_observation.md R503 to
R514): reads, writes, and the windows of the per-cluster region. Addresses are byte offsets. -/

namespace Sys2Proof.Machine

/-! ### Reads -/

/-- Fields of `w` bits each, the first in the lowest bits. -/
def packFields (w : Nat) (xs : List Nat) : Nat := xs.foldr (fun x acc => x % 2 ^ w + 2 ^ w * acc) 0

/-- Consecutive registers from an offset on (R490). -/
def regRow (base : Nat) (vals : List Nat) : List (Nat × Nat) := vals.zipIdx.map (fun x => (base + 4 * x.2, x.1))

/-- The low and high words of a 64-bit value. -/
def loHi (x : Nat) : List Nat := [x % 2 ^ 32, x / 2 ^ 32 % 2 ^ 32]

/-- A list of Booleans as bits, the first lowest. -/
def bitsWord (xs : List Bool) : Nat := packFields 1 (xs.map bit)

/-- A flag set as a register (R205). -/
def flagWord (f : FlagSet) : Nat := f.toNat


/-- Flags of a physical cluster. -/
def State.flagsOfPc (s : State) (pc : Nat) : FlagSet :=
  if s.unitsOff then sget flagNone s.rst.savedCl pc else (s.lane pc).flags

/-- Flags of a Lantern. -/
def State.flagsOfLn (s : State) (n : Nat) : FlagSet :=
  if s.unitsOff then s.rst.savedLn.getD n flagNone else (s.lan n).flags

/-- ENG_FLAGS (R198). -/
def State.engFlags (s : State) : FlagSet :=
  orFlags ((upTo 4).map s.flagsOfLn ++ s.map.working.map s.flagsOfPc)

/-- The identity and Keeper region (R244, R389, R437, R502). -/
def keeperRegs (s : State) : List (Nat × Nat) :=
  let run := (s.str.launch.map (fun l => l.profile.code)).getD 0
  let k := s.kp
  regRow 0x0000 [0x48580100, run + 0x7C,
    bit s.rst.ready + 2 * bit s.dm.locked + 4 * bit s.rst.bistDone + 8 * s.rst.lastRst + 32 * s.rst.pstate +
      128 * bit s.rst.wakeSrc] ++
  regRow 0x0010 ([0,
    bit s.wrun + 2 * bitsWord k.fstop + 16 * bit k.seqstop + 32 * bit s.evHolds + 64 * bit k.evlost] ++
    loHi k.nextseq ++ [k.xretired, k.cdone, k.conflictKind + 16 * k.conflictUnit + 2 ^ 31 * bit k.conflictValid])

/-- One host ring's registers (R388). -/
def ringRegs (base : Nat) (r : HRing) (cfg : Nat) (rest : List Nat) : List (Nat × Nat) :=
  regRow base (loHi r.base ++ [r.log2 + 256 * bit r.en + cfg, r.head] ++ rest)

/-- The host rings and the doorbells, which read as 0 (R388). -/
def hostRegs (s : State) : List (Nat × Nat) :=
  let k := s.kp
  ringRegs 0x1000 k.work 0 [] ++ ringRegs 0x1020 k.xfer 0 [k.xretire] ++ ringRegs 0x1040 k.ctl 0 [] ++
  ringRegs 0x1060 k.event (512 * bit k.irqen) [k.event.tail + 2 ^ 16 * bit k.evPhase] ++ regRow 0x2000 [0, 0, 0]

/-- FLT_STATUS (R419). DEDUCED: notes/assumptions/36.md. -/
def State.fltStatus (s : State) : Nat :=
  let f := s.flt
  let sec := (s.map.psec.filter (· == .spare)).length
  bit f.seqbusy + 2 * bit f.swap + 4 * bit f.fatal + 8 * bit f.unitdown + 16 * bit f.foghorn + 32 * bit f.fognow +
    2 ^ 8 * bitsWord ((upTo 4).map (fun n => f.fenced.contains (7, n))) +
    2 ^ 12 * bitsWord ((upTo 8).map (fun n => f.fenced.contains (8, n))) +
    2 ^ 20 * min 3 s.spareClusters.length + 2 ^ 22 * sec

/-- Clocks, power and faults (R479, R484, R486, R419 to R421). -/
def clockRegs (s : State) : List (Nat × Nat) :=
  let c := s.clk
  regRow 0x3000 [c.coreDiv, c.divNow + 4 * bit c.fogThr + 8 * bit (c.pending s.ctlCycle),
    c.fogThresh + 2 ^ 6 * c.fogHyst + 2 ^ 10 * c.fogFilter + 2 ^ 18 * bit c.fogAuto + 2 ^ 19 * c.fogAdiv +
      2 ^ 20 * c.fogHold] ++
  regRow 0x3010 ((upTo 4).map (fun n => bitsWord ((fromTo (32 * n) 32).map (sget false s.pwr.on)))) ++
  regRow 0x3020 [s.fltStatus, s.flt.info0.toNat, s.flt.info1.toNat, 0]

/-- A byte of CLMAP or SECMAP (R498, R500). -/
def mapByte : Option Nat → Nat
  | some p => p + 0x80
  | none => 0

/-- Code of a physical cluster's state (R499). -/
def PcState.clCode : PcState → Nat
  | .spare => 0
  | .mapped => 1
  | .fenced => 2
  | .idle => 3

/-- Maps and aliases (R495, R496, R498 to R501). -/
def mapRegs (s : State) : List (Nat × Nat) :=
  let m := s.map
  let four (l : List (Option Nat)) (n : Nat) : Nat := packFields 8 ((fromTo (4 * n) 4).map (fun i => mapByte (l.getD i none)))
  let codes (l : List PcState) (n : Nat) : Nat :=
    packFields 2 ((fromTo (16 * n) 16).map (fun i => (l.getD i .spare).clCode))
  regRow 0x4000 ((upTo 8).map (four m.cl)) ++ regRow 0x4020 ((upTo 3).map (codes m.pc)) ++
  regRow 0x4040 ((upTo 16).map (four m.sec)) ++ regRow 0x4080 ((upTo 5).map (codes m.psec)) ++
  regRow 0x40A0 (m.grp.map BitVec.toNat) ++ [(0x40C0, m.bcast.toNat)]

/-- Osura and buoys (R66 to R70, R84 to R87). DEDUCED: notes/assumptions/36.md. -/
def osuraRegs (s : State) : List (Nat × Nat) :=
  let o := s.osura
  let b := s.buoys
  regRow 0x5000 ([o.sharePend.getD o.share + 16 * bit o.sharePend.isSome, packFields 4 o.weights,
    o.scrubPace + 2 ^ 16 * o.ceRetire, o.ueAddr + 2 ^ 30 * bit o.ueScrub + 2 ^ 31 * bit o.ueValid] ++
    (upTo 4).map (fun n => packFields 2 ((fromTo (16 * n) 16).map (fun k =>
      if (s.psecOf k).isSome then (s.secCtl k).st.code else 0)))) ++
  regRow 0x5020 [b.stallLog2, b.sel, b.info0.toNat, b.info1.toNat, b.info2.toNat,
    b.errBuoy + 2 ^ 8 * b.errKind + 2 ^ 12 * b.errSource + 2 ^ 16 * bit b.errUncov + 2 ^ 31 * bit b.errValid] ++
  regRow 0x5040 ((upTo 16).map (fun n => packFields 2 ((fromTo (16 * n) 16).map (fun k => (s.buoy k).st.code))))

/-- STREAM_STOP (R119). -/
def StopRec.word (r : StopRec) : Nat :=
  r.cause + 2 ^ 5 * r.slot + 2 ^ 9 * r.rclass + 2 ^ 11 * r.reg + 2 ^ 16 * r.rule + 2 ^ 18 * r.brpend +
    2 ^ 20 * bit r.resumable

/-- The stream (R119, R142, R143, R203 to R205). A far-load setting reads as last written. DEDUCED:
notes/assumptions/36.md. -/
def streamRegs (s : State) : List (Nat × Nat) :=
  let t := s.str
  let far := t.farPend.getD t.far
  let f := t.farFault
  let x := s.trap
  regRow 0x6000 ([t.stop.pc, t.stop.word, t.stop.brtgt] ++
    (upTo 2).map (fun n => let r := t.movRow.getD n (0, false); r.1 + 64 * bit r.2)) ++
  regRow 0x6020 (loHi far.win ++ [far.lat + 2 ^ 12 * bit t.farPend.isSome,
    f.unit + 2 * f.cluster + 2 ^ 6 * f.row + 2 ^ 12 * f.port + 2 ^ 31 * bit f.valid] ++ loHi f.iova) ++
  regRow 0x6040 ([x.mode + 4 * bit x.resume + 8 * x.slots, x.pc,
    x.slot + 2 ^ 4 * x.cluster + 2 ^ 9 * x.slice + 2 ^ 12 * x.lane + 2 ^ 17 * x.opcode + 2 ^ 25 * bit x.born +
      2 ^ 31 * bit x.valid, x.row + 2 ^ 6 * x.col] ++ loHi x.seq) ++
  [(0x6060, flagWord s.engFlags)]

/-- LN_STATUSn (R302). -/
def State.lnStatus (s : State) (n : Nat) : Nat :=
  let l := s.lan n
  let st := if l.halted then 2 else if l.suspended then 3 else if l.prods.isEmpty && l.q.isEmpty then 0 else 1
  let (slot, cid) := match l.prods with
    | p :: _ => (p.slot, p.cid)
    | [] => (0, 0)
  st + 4 * l.q.length + 2 ^ 5 * slot + 2 ^ 11 * cid + 2 ^ 18 * l.cause + 2 ^ 21 * bit (l.hold s.lnHoldNow) +
    2 ^ 31 * bit l.named

/-- Lanterns (R301, R302, R205). -/
def lanternRegs (s : State) : List (Nat × Nat) :=
  (0x7000, s.lnCfg.low) :: regRow 0x7010 ((upTo 4).map s.lnStatus) ++
    regRow 0x7020 ((upTo 4).map (fun n => flagWord (s.flagsOfLn n)))

/-- Tender (R327 to R329). -/
def tenderRegs (s : State) : List (Nat × Nat) :=
  let t := s.td
  let word (p : ChSt → Bool) (n : Nat) : Nat := bitsWord ((fromTo (32 * n) 32).map (fun c => p (s.chan c).st))
  regRow 0x8000 ((upTo 4).map (word (fun x => x != .idle))) ++ regRow 0x8010 ((upTo 4).map (word (fun x => x == .paused))) ++
  regRow 0x8020 ([0, t.fHalf + 2 * t.fCh + 2 ^ 7 * t.fDir + 2 ^ 8 * t.fPort + 2 ^ 31 * bit t.fValid] ++ loHi t.fIova)

/-- Ring and moorings (R361 to R366). -/
def moorRegs (s : State) : List (Nat × Nat) :=
  let r := s.ring
  regRow 0x9000 [r.chipId + 2 ^ 16 * r.leadId, r.nextId, r.jobKey,
    r.porten + 2 ^ 8 * r.wFused + 2 ^ 12 * r.wBulk + 2 ^ 16 * bit r.en,
    r.markTimeout + 2 ^ 16 * r.sealLimit, r.markLast,
    r.mark.phase + 4 * bit (!s.barredFrom.isEmpty) + 8 * bit r.hold,
    r.errReason + 2 ^ 4 * r.errPort + 2 ^ 7 * bit r.errLocal + 2 ^ 8 * r.errSrc + 2 ^ 31 * bit r.errValid,
    r.moSel] ++
  regRow 0x9024 (r.moInfo.map BitVec.toNat) ++ regRow 0x9040 (r.rtport.map BitVec.toNat) ++
  regRow 0x9080 (r.rt.map BitVec.toNat)

/-- The Logbook (R415 to R418). -/
def logRegs (s : State) : List (Nat × Nat) :=
  let l := s.log
  regRow 0xA000 ([bit l.en + 2 * l.rate + 2 ^ 16 * l.epoch,
    bit l.openB + 2 * bit l.haveMark + 4 * bit s.logClosing + 8 * bit l.bitmapV + 16 * bit l.rbusy + 32 * bit l.rdone +
      64 * l.rerr + 512 * bit l.err, 0, l.restoreK] ++ loHi l.baseA ++ loHi l.baseB)

/-- Offsets of the 32-bit engine counters (R508). -/
def counterOffsets : List Nat :=
  fromTo 0x80 10 |>.map (4 * ·) |>.append [0x0240, 0x0244, 0x0248, 0x024C, 0x0250, 0x0254, 0x0258, 0x025C, 0x0260, 0x0264,
    0x0268, 0x026C, 0x0270, 0x0274, 0x0280, 0x0284, 0x0288, 0x028C, 0x0290, 0x0294, 0x0298, 0x029C]

/-- The observation region (R503 to R514). -/
def observeRegs (s : State) : List (Nat × Nat) :=
  let t := s.trc
  let at_ (o : Nat) : Nat := sget 0 s.cnt.eng o
  let before := s.cnt.engWas s.ctlCycle
  let row (o : Nat) (v : List Nat) := regRow (0x10000 + o) v
  row 0x0000 (s.dm.words.map (fun w => if s.dm.locked then w.toNat else 0)) ++
  row 0x0080 [bit s.dm.locked + 2 * bit s.dm.crcErr + 4 * s.dm.nwords] ++
  row 0x0100 [bit s.cnt.freeze] ++ row 0x0108 (loHi (at_ 0x0108) ++ loHi (at_ 0x0110)) ++
  counterOffsets.map (fun o => (0x10000 + o, counterShown (sget 0 before o))) ++
  row 0x0400 [t.mode + 4 * bit t.wrap + 8 * bit t.stopped + 16 * bit t.err, t.base, t.limit, t.ptr] ++
  row 0x0500 [0, bit s.bist.busy + 2 * bit s.bist.pass + 4 * bit s.bist.refused + 8 * s.bist.sec] ++
  row 0x0600 [bit s.tw.wrstn + 2 * s.tw.wir + 32 * bit s.tw.tested]

/-- Every engine register with what it reads as (R490, R514). -/
def engineRegs (s : State) (a : Nat) : List (Nat × Nat) :=
  match a / 0x1000 with
  | 0 => keeperRegs s
  | 1 | 2 => hostRegs s
  | 3 => clockRegs s
  | 4 => mapRegs s
  | 5 => osuraRegs s
  | 6 => streamRegs s
  | 7 => lanternRegs s
  | 8 => tenderRegs s
  | 9 => moorRegs s
  | 10 => logRegs s
  | 16 => observeRegs s
  | _ => []

/-! ### The per-cluster region (R491 to R497) -/

/-- CL_STATUS of a backed logical cluster (R497). -/
def State.clStatus (s : State) (n pc : Nat) : Nat :=
  pc + 2 ^ 6 + 2 ^ 7 * bit (n < s.map.lastLc) + 2 ^ 8 * bit (pc != n)

/-- Offsets of a window that hold a register (R491, R508). -/
def windowOffsets : List Nat := [0x0000, 0x0004, 0x0100, 0x0104, 0x0108]

/-- A per-cluster register of a backed logical cluster. -/
def State.windowReg (s : State) (off n pc : Nat) : Nat :=
  if off = 0 then s.clStatus n pc
  else if off = 4 then flagWord (s.flagsOfPc pc)
  else counterShown (sget 0 (s.cnt.clWas s.ctlCycle) ((off - 0x0100) / 4 * 64 + pc))

/-- Members of a window: 0 all-broadcast, 1 to 8 the groups (R491, R496). -/
def State.members (s : State) (w : Nat) : List (Nat × Nat) :=
  (upTo 32).filterMap (fun n =>
    match s.windowPc n with
    | some pc => if w = 0 || bitOf (s.map.grp.getD (w - 1) 0#32).toNat n then some (n, pc) else none
    | none => none)

/-- A read through a broadcast or group window (R494): value, RERR, and the state with a disagreement recorded. -/
def windowRead (w off : Nat) (s : State) : Nat × Bool × State :=
  if !windowOffsets.contains off then (0, true, s)
  else
    let vals := (s.members w).map (fun m => s.windowReg off m.1 m.2)
    if off = 4 then (vals.foldl (· ||| ·) 0, false, s)
    else
      match vals with
      | [] => (0, false, s)
      | v :: vs =>
        let s := if vs.all (· == v) || bitOf s.map.bcast.toNat 0 then s
          else { s with map := { s.map with bcast := BitVec.ofNat 32 (1 + off + w * 2 ^ 14) } }
        (v, false, s)

/-- A write to a register of some clusters (R493, R205): CL_FLAGS alone takes writes; a powered-off cluster's is
ignored and counted (R430). -/
def clusterWrite (off v : Nat) (ms : List (Nat × Nat)) (s : State) : State :=
  if off != 4 then s
  else if s.unitsOff then setupIgnored s
  else ms.foldl (fun s m => s.modLane m.2 (·.clearFlags (s.clk.ckr / 8) v)) s

/-- A write through a broadcast or group window (R492, R493): RERR and the state. -/
def windowWrite (w off v : Nat) (s : State) : Bool × State :=
  if !windowOffsets.contains off then (true, s)
  else if (s.members w).isEmpty then (false, setupIgnored s)
  else (false, clusterWrite off v (s.members w) s)

/-- Unicast window and offset of an address. -/
def unicastOf (a : Nat) : Option (Nat × Nat) :=
  if 0x100000 ≤ a && a < 0x180000 then some ((a - 0x100000) / 0x4000, a % 0x4000) else none

/-- Broadcast or group window and offset of an address. DESIGN CHOICE: notes/assumptions/7.md. -/
def aliasOf (a : Nat) : Option (Nat × Nat) :=
  if 0x180000 ≤ a && a < 0x1A4000 then some ((a - 0x180000) / 0x4000, a % 0x4000) else none

/-- A counter that has been read keeps the events of control cycle `k` alone (R505). -/
def Counters.takeEng (k off : Nat) (c : Counters) : Counters :=
  { c with
    eng := sset 0 c.eng off (sget 0 c.eng off - sget 0 (c.engWas k) off)
    was := c.was.map (fun w => (w.1, serase w.2.1 off, w.2.2)) }

/-- The same for a per-cluster counter. -/
def Counters.takeCl (k x : Nat) (c : Counters) : Counters :=
  { c with
    cl := sset 0 c.cl x (sget 0 c.cl x - sget 0 (c.clWas k) x)
    was := c.was.map (fun w => (w.1, w.2.1, serase w.2.2 x)) }

/-- A read-to-clear counter is cleared unless counting is frozen (R505, R506). -/
def clearOnRead (a : Nat) (s : State) : State :=
  if s.cnt.freeze then s
  else
    match unicastOf a with
    | some (n, off) =>
      match s.windowPc n with
      | some pc => if 0x0100 ≤ off then { s with cnt := s.cnt.takeCl s.ctlCycle ((off - 0x0100) / 4 * 64 + pc) } else s
      | none => s
    | none =>
      if counterOffsets.contains (a - 0x10000) && 0x10000 ≤ a then
        { s with cnt := s.cnt.takeEng s.ctlCycle (a - 0x10000) }
      else s

/-- What a register reads as, `none` where no register is (R443, R490 to R492). -/
def State.regValue (s : State) (a : Nat) : Option Nat :=
  match unicastOf a with
  | some (n, off) =>
    if windowOffsets.contains off then
      (match s.windowPc n with
        | some pc => some (s.windowReg off n pc)
        | none => some 0)
    else none
  | none => (engineRegs s a).lookup a

/-- A SYS read (R424, R443, R505): data, RERR, and the state after it. DESIGN CHOICE: notes/assumptions/7.md. -/
def regRead (a : Nat) (s : State) : Nat × Bool × State :=
  if !s.rst.ready then (0, false, s)
  else
    match aliasOf a with
    | some (w, off) => windowRead w off s
    | none =>
      match s.regValue a with
      | some v => (v, false, clearOnRead a s)
      | none => (0, true, s)

/-- A read's answer on the port. DESIGN CHOICE: notes/assumptions/7.md. -/
def answerRead (r : Nat × Bool × State) : State :=
  { r.2.2 with out := r.2.2.out ++ [.regRead (BitVec.ofNat 32 r.1) r.2.1] }

/-! ### Writes: the fields of each register -/

/-- KEEPER_CMD (R389). -/
def keeperCmd (v : Nat) (s : State) : State :=
  let s := if bitOf v 0 then cmdPause s else s
  if bitOf v 1 then cmdResume s else s

/-- The Keeper's registers. -/
def keeperWrite (a v : Nat) (s : State) : State :=
  if a = 0x0010 then keeperCmd v s
  else if a = 0x0014 then (if bitOf v 6 then { s with kp := { s.kp with evlost := false } } else s)
  else if a = 0x0018 then nextseqLo v s
  else if a = 0x001C then nextseqHi v s
  else if a = 0x0028 then (if bitOf v 31 then { s with kp := { s.kp with conflictValid := false } } else s)
  else s

/-- The host rings and doorbells (R388). -/
def hostRingWrite (a v : Nat) (s : State) : State :=
  if a / 0x1000 = 2 then doorbell (bitsOf a 2 2) v s
  else
    let n := bitsOf a 5 2
    let base := (s.kp.ring n).base
    let o := a % 32
    if o = 0 then ringBase n (base / 2 ^ 32 * 2 ^ 32 + v / 64 * 64) s
    else if o = 4 then ringBase n (base % 2 ^ 32 + v * 2 ^ 32) s
    else if o = 8 then ringConfig n v s
    else if a = 0x106C then eringHead v s
    else s

/-- FOG_CFG (R484): clearing AUTO releases the throttle at once (R483). -/
def fogWrite (v : Nat) (s : State) : State :=
  let auto := bitOf v 18
  { s with clk := { s.clk with
      fogThresh := bitsOf v 0 6, fogHyst := bitsOf v 6 4, fogFilter := bitsOf v 10 8, fogAuto := auto
      fogAdiv := bitsOf v 19 1, fogHold := bitsOf v 20 8, fogThr := s.clk.fogThr && auto } }.evalDiv

/-- CLK_CFG (R486): 3 is ignored. -/
def clkWrite (v : Nat) (s : State) : State :=
  if bitsOf v 0 2 = 3 then s else { s with clk := { s.clk with coreDiv := bitsOf v 0 2 } }.evalDiv

/-- FLT_INFO1.VALID is cleared (R420); what the sequencer records in the same control cycle remains (R385). -/
def faultSeen (s : State) : State :=
  match s.flt.recAt with
  | some r =>
    if r.1 = s.ctlCycle then { s with flt := { s.flt with info0 := r.2.1, info1 := r.2.2 } }
    else { s with flt := { s.flt with info1 := BitVec.ofNat 32 (s.flt.info1.toNat % 2 ^ 31) } }
  | none => { s with flt := { s.flt with info1 := BitVec.ofNat 32 (s.flt.info1.toNat % 2 ^ 31) } }

/-- Clocks and faults. -/
def clockWrite (a v : Nat) (s : State) : State :=
  if a = 0x3000 then clkWrite v s
  else if a = 0x3008 then fogWrite v s
  else if a = 0x3020 then (if bitOf v 4 then { s with flt := { s.flt with foghorn := false } } else s)
  else if a = 0x3028 then
    (if bitOf v 31 then faultSeen s else s)
  else if a = 0x302C then unfence (bitsOf v 3 2) (bitsOf v 0 3) s
  else s

/-- Group masks and BCAST_STATUS (R495, R496). -/
def mapWrite (a v : Nat) (s : State) : State :=
  if 0x40A0 ≤ a && a < 0x40C0 then
    { s with map := { s.map with grp := s.map.grp.set ((a - 0x40A0) / 4) (BitVec.ofNat 32 v) } }
  else if a = 0x40C0 && bitOf v 0 then
    { s with map := { s.map with bcast := BitVec.ofNat 32 (s.map.bcast.toNat / 2 * 2) } }
  else s

/-- Osura and buoy settings (R66 to R70, R84 to R87). DEDUCED: notes/assumptions/36.md. -/
def osuraWrite (a v : Nat) (s : State) : State :=
  let o := s.osura
  if a = 0x5000 then (if bitsOf v 0 2 = 3 then s else { s with osura := { o with sharePend := some (bitsOf v 0 2) } })
  else if a = 0x5004 then { s with osura := { o with weights := (upTo 6).map (fun i => bitsOf v (4 * i) 4) } }
  else if a = 0x5008 then { s with osura := { o with scrubPace := bitsOf v 0 12, ceRetire := bitsOf v 16 8 } }
  else if a = 0x500C then (if bitOf v 31 then { s with osura := { o with ueValid := false } } else s)
  else if a = 0x5020 then { s with buoys := { s.buoys with stallLog2 := bitsOf v 0 5 } }
  else if a = 0x5024 then captureBuoy v s
  else if a = 0x5034 then (if bitOf v 31 then { s with buoys := { s.buoys with errValid := false } } else s)
  else s

/-- A far-load setting waits for the stream to be idle (R142). -/
def farWrite (f : FarCfg → FarCfg) (s : State) : State :=
  s.modStr (fun t => { t with farPend := some (f (t.farPend.getD t.far)) })

/-- ENG_FLAGS (R198). -/
def engFlagsClear (v : Nat) (s : State) : State :=
  if s.unitsOff then setupIgnored s
  else
    let s := (upTo 4).foldl (fun s n => s.clearLn n v) s
    s.map.working.foldl (fun s pc => s.modLane pc (·.clearFlags (s.clk.ckr / 8) v)) s

/-- TRAPCTL (R203, R199): a MODE of 3 is ignored and the field keeps its value. Bundles meet the new settings after
this control cycle (R200). -/
def trapCtl (v : Nat) (s : State) : State :=
  let m := bitsOf v 0 2
  let next := s.clk.ckr / 8 + 1
  { s with trap := { s.trap with
      was := if s.trap.setAt = next then s.trap.was else (s.trap.mode, s.trap.resume, s.trap.slots), setAt := next
      mode := if m = 3 then s.trap.mode else m, resume := bitOf v 2, slots := bitsOf v 3 5 } }

/-- The stream's registers. -/
def streamWrite (a v : Nat) (s : State) : State :=
  if a = 0x6020 then farWrite (fun c => { c with win := c.win / 2 ^ 32 * 2 ^ 32 + v / 4096 * 4096 }) s
  else if a = 0x6024 then farWrite (fun c => { c with win := c.win % 2 ^ 32 + v * 2 ^ 32 }) s
  else if a = 0x6028 then farWrite (fun c => { c with lat := bitsOf v 0 12 }) s
  else if a = 0x6040 then trapCtl v s
  else if a = 0x6048 then (if bitOf v 31 then { s with trap := { s.trap with valid := false } } else s)
  else if a = 0x6060 then engFlagsClear v s
  else s

/-- The Lanterns' registers (R301, R302, R205). -/
def lanternWrite (a v : Nat) (s : State) : State :=
  let n := bitsOf a 2 2
  if a = 0x7000 then { s with lnCfg := ⟨bitsOf v 0 4, some (s.ctlCycle, s.lnHoldNow)⟩ }
  else if 0x7010 ≤ a && a < 0x7020 then
    if bitOf v 31 then s.modLn n (fun l => { l with named := false }) else s
  else if 0x7020 ≤ a && a < 0x7030 then
    if s.unitsOff then setupIgnored s else s.clearLn n v
  else s

/-- TD_CMD (R328): OP 0 and 3 are ignored. -/
def tdCmdWrite (v : Nat) (s : State) : State :=
  let op := bitsOf v 8 2
  if op = 1 || op = 2 then tdRegister op (bitsOf v 0 1 * 64 + bitsOf v 1 6) s else s

/-- Tender's registers. -/
def tenderWrite (a v : Nat) (s : State) : State :=
  if a = 0x8020 then tdCmdWrite v s
  else if a = 0x8024 then (if bitOf v 31 then { s with td := { s.td with fValid := false } } else s)
  else s

/-- A write of a ring identity or route register: ignored and counted while RING_CFG.EN = 1 (R361). -/
def ringIdWrite (f : Ring → Ring) (s : State) : State :=
  if s.ring.en then bump 0x0260 s else { s with ring := f s.ring }

/-- RING_CFG (R362): ports that stop taking part return no more credits; ports that start return their buffers (R331,
R458); SENDs that waited go on. DEDUCED: notes/assumptions/38.md. -/
def ringCfgWrite (v : Nat) (s : State) : State :=
  let en := bitOf v 16
  let ports := s.ring.ports.zipIdx.map (fun (x : RPort × Nat) =>
    if en && bitOf v x.2 then x.1 else { x.1 with started := false })
  let s := { s with ring := { s.ring with
    porten := bitsOf v 0 8, wFused := bitsOf v 8 4, wBulk := bitsOf v 12 4, en := en, ports := ports } }
  sendAll ((upTo 8).foldl (fun s n => s.startPort n) s)

/-- MO_SEL (R365): one mooring is captured. -/
def captureMoor (v : Nat) (s : State) : State :=
  let n := bitsOf v 0 6
  { s with ring := { s.ring with moSel := n, moInfo := (s.mooring n).info.map (BitVec.ofNat 32) } }

/-- The ring's registers (R361 to R366). -/
def ringWrite (a v : Nat) (s : State) : State :=
  if a = 0x9000 then ringIdWrite (fun r => { r with chipId := bitsOf v 0 16, leadId := bitsOf v 16 16 }) s
  else if a = 0x9004 then ringIdWrite (fun r => { r with nextId := bitsOf v 0 16 }) s
  else if a = 0x9008 then ringIdWrite (fun r => { r with jobKey := v }) s
  else if a = 0x900C then ringCfgWrite v s
  else if a = 0x9010 then { s with ring := { s.ring with markTimeout := bitsOf v 0 16, sealLimit := bitsOf v 16 8 } }
  else if a = 0x901C then (if bitOf v 31 then { s with ring := { s.ring with errValid := false } } else s)
  else if a = 0x9020 then captureMoor v s
  else if 0x9040 ≤ a && a < 0x9050 then
    ringIdWrite (fun r => { r with rtport := r.rtport.set ((a - 0x9040) / 4) (BitVec.ofNat 32 v) }) s
  else if 0x9080 ≤ a && a < 0x9100 then
    ringIdWrite (fun r => { r with rt := r.rt.set ((a - 0x9080) / 4) (BitVec.ofNat 32 v) }) s
  else s

/-- Clearing LOG_CFG.EN (R403): mirroring stops, and a close whose work is done completes at once and writes nothing. -/
def logStop (s : State) : State := closePump (logQuiet (logDisable s))

/-- LOG_CFG (R415, R403). -/
def logCfg (v : Nat) (s : State) : State :=
  let s := { s with log := { s.log with rate := bitsOf v 1 7, epoch := bitsOf v 16 16 } }
  if bitOf v 0 && !s.log.en then logEnable s
  else if !bitOf v 0 && s.log.en then logStop s
  else s

/-- A log area base: ignored and counted while LOG_CFG.EN = 1 (R416). -/
def logBase (inB : Bool) (f : Nat → Nat) (s : State) : State :=
  if s.log.en then setupIgnored s
  else if inB then { s with log := { s.log with baseB := f s.log.baseB } }
  else { s with log := { s.log with baseA := f s.log.baseA } }

/-- LOG_CMD (R417, R409): OP 0 and 3 are ignored. -/
def logCmd (v : Nat) (s : State) : State :=
  if bitsOf v 0 2 = 1 then restoreStart false s else if bitsOf v 0 2 = 2 then restoreStart true s else s

/-- LOG_STATUS (R418): clearing ERR lets mirroring and closes go on. -/
def logStatusWrite (v : Nat) (s : State) : State :=
  let s := if bitOf v 5 then { s with log := { s.log with rdone := false } } else s
  if bitOf v 9 && s.log.err then logPump { s with log := { s.log with err := false } } else s

/-- The Logbook's registers (R415 to R418). -/
def logWriteReg (a v : Nat) (s : State) : State :=
  if a = 0xA000 then logCfg v s
  else if a = 0xA004 then logStatusWrite v s
  else if a = 0xA008 then logCmd v s
  else if a = 0xA00C then { s with log := { s.log with restoreK := v } }
  else if a = 0xA010 || a = 0xA018 then logBase (a = 0xA018) (fun b => b / 2 ^ 32 * 2 ^ 32 + v / 2 ^ 16 * 2 ^ 16) s
  else if a = 0xA014 || a = 0xA01C then logBase (a = 0xA01C) (fun b => b % 2 ^ 32 + v * 2 ^ 32) s
  else s

/-- CNT_CTL (R506). -/
def cntCtl (v : Nat) (s : State) : State :=
  let s := { s with cnt := { s.cnt with freeze := bitOf v 0 } }
  if bitOf v 1 then { s with cnt := { s.cnt with eng := [], cl := [], was := none, cleared := some s.ctlCycle } } else s

/-- TRACE_CFG (R510): clearing STOPPED restarts tracing at the base in force. -/
def traceCfg (v : Nat) (s : State) : State :=
  let s := { s with trc := { s.trc with
    mode := bitsOf v 0 2, wrap := bitOf v 2, err := s.trc.err && !bitOf v 4 } }
  if bitOf v 3 && s.trc.stopped then traceLine { s with trc := { s.trc with stopped := false, ptr := s.trc.actBase } } else s

/-- The observation region's registers. -/
def observeWrite (a v : Nat) (s : State) : State :=
  if a = 0x10100 then cntCtl v s
  else if a = 0x10400 then traceCfg v s
  else if a = 0x10404 then { s with trc := { s.trc with base := bitsOf v 10 19 * 1024 } }
  else if a = 0x10408 then { s with trc := { s.trc with limit := bitsOf v 10 19 * 1024 } }
  else if a = 0x10500 then bistCommand v s
  else if a = 0x10504 then (if bitOf v 2 then { s with bist := { s.bist with refused := false } } else s)
  else if a = 0x10600 then (if bitOf v 5 then { s with tw := { s.tw with tested := false } } else s)
  else s

/-- A unicast window's write (R492). -/
def unicastWrite (n off v : Nat) (s : State) : State :=
  match s.windowPc n with
  | some pc => clusterWrite off v [(n, pc)] s
  | none => setupIgnored s

/-- The effect of a write to an assigned address outside the alias windows (R488); read-only registers ignore it.
DESIGN CHOICE: notes/assumptions/7.md. -/
def regEffect (a v : Nat) (s : State) : State :=
  match unicastOf a with
  | some (n, off) => unicastWrite n off v s
  | none =>
    match a / 0x1000 with
    | 0 => keeperWrite a v s
    | 1 | 2 => hostRingWrite a v s
    | 3 => clockWrite a v s
    | 4 => mapWrite a v s
    | 5 => osuraWrite a v s
    | 6 => streamWrite a v s
    | 7 => lanternWrite a v s
    | 8 => tenderWrite a v s
    | 9 => ringWrite a v s
    | 10 => logWriteReg a v s
    | 16 => observeWrite a v s
    | _ => s

/-- A SYS write (R424, R443): RERR and the state after it. -/
def regWrite (a v : Nat) (s : State) : Bool × State :=
  if !s.rst.ready then (false, s)
  else
    match aliasOf a with
    | some (w, off) => windowWrite w off v s
    | none => if (s.regValue a).isSome then (false, regEffect a v s) else (true, s)

/-- A write's answer on the port. -/
def answerWrite (r : Bool × State) : State := { r.2 with out := r.2.out ++ [.regWrote r.1] }

/-! ### The rows -/

/-- REGISTER_WRITE (R488): a write to any register, by its word address; one that has a row of its own has that
row's effect. -/
def execRegisterWrite (addr : BitVec 20) (value : Word) (s : State) : Host.Outcome State Fault Refusal :=
  .next (answerWrite (regWrite (4 * addr.toNat) value.toNat s))

/-- COUNTER_READ (R505): a read, by word address; every register is read this way. -/
def execCounterRead (addr : BitVec 20) (s : State) : Host.Outcome State Fault Refusal :=
  .next (answerRead (regRead (4 * addr.toNat) s))

/-- COUNTER_CLEAR (R506): a write of CNT_CTL. -/
def execCounterClear (value : Word) (s : State) : Host.Outcome State Fault Refusal :=
  .next (s.hostWrite (cntCtl value.toNat))

/-- TRACE_RESTART (R510): a write of TRACE_CFG. -/
def execTraceRestart (value : Word) (s : State) : Host.Outcome State Fault Refusal :=
  .next (s.hostWrite (traceCfg value.toNat))

/-- MO_SEL (R365). -/
def execMoSel (value : Word) (s : State) : Host.Outcome State Fault Refusal :=
  .next (s.hostWrite (captureMoor value.toNat))

/-- ENG_FLAGS_WRITE (R198). -/
def execEngFlagsWrite (value : Word) (s : State) : Host.Outcome State Fault Refusal :=
  .next (s.hostWrite (engFlagsClear value.toNat))

/-- BCAST_WRITE (R493): `offset` is bits [13:2] of the byte offset in the window. -/
def execBcastWrite (window : Fin 9) (offset : BitVec 12) (value : Word) (s : State) : Host.Outcome State Fault Refusal :=
  .next (answerWrite (if s.rst.ready then windowWrite window (4 * offset.toNat) value.toNat s else (false, s)))

/-- BCAST_READ (R494). -/
def execBcastRead (window : Fin 9) (offset : BitVec 12) (s : State) : Host.Outcome State Fault Refusal :=
  .next (answerRead (if s.rst.ready then windowRead window (4 * offset.toNat) s else (0, false, s)))

/-- LOG_ENABLE (R403): a write of LOG_CFG. -/
def execLogEnable (value : Word) (s : State) : Host.Outcome State Fault Refusal :=
  .next (s.hostWrite (logCfg value.toNat))

/-- LOG_DISABLE (R403): a write of LOG_CFG. -/
def execLogDisable (value : Word) (s : State) : Host.Outcome State Fault Refusal :=
  .next (s.hostWrite (logCfg value.toNat))

/-- RESTORE_DIRTY (R409). -/
def execRestoreDirty (s : State) : Host.Outcome State Fault Refusal := .next (s.hostWrite (restoreStart false))

/-- RESTORE_FULL (R409). -/
def execRestoreFull (s : State) : Host.Outcome State Fault Refusal := .next (s.hostWrite (restoreStart true))

end Sys2Proof.Machine
end

