-- ==== Sys2Proof/Machine/Wrapper.lean ====
section
/-! DEFINITION. The test wrapper (spec/21_identity_and_observation.md R512, R513) and a VALID that is lowered
(spec/18_ports_and_signals.md R439, R441). -/

namespace Sys2Proof.Machine

/-- A block reset, now or after a wake (R425, R432); a power-on reset in progress is not disturbed (R424). -/
def resetNow (s : State) : State :=
  if s.rst.por then s else assertReset s

/-- WS_EXTEST or WS_INTEST comes into force (R512): the block is held as in block reset. DEDUCED:
notes/assumptions/35.md. -/
def holdForTest (code : Nat) (s : State) : State :=
  let s := resetNow s
  { s with rst := { s.rst with ready := false }, tw := { wrstn := true, wir := code, tested := true, held := true } }

/-- The end of a held test: a block reset runs (R512, R425). DEDUCED: notes/assumptions/35.md. -/
def endTest (s : State) : State :=
  if s.tw.held then
    let s := resetNow { s with tw := { s.tw with held := false } }
    if s.rst.phase = 4 then repower s else s
  else s

/-- WS_BYPASS, by its code 0 or by one of 0x4 to 0xF, which act as it does: the instruction in force is WS_BYPASS
(R512), and TW_STATUS.WIR reads its code (R513). DEDUCED: notes/assumptions/35.md. -/
def execWsBypass (s : State) : Host.Outcome State Fault Refusal :=
  .next (endTest { s with tw := { s.tw with wrstn := true, wir := 0 } })

/-- WS_EXTEST. -/
def execWsExtest (s : State) : Host.Outcome State Fault Refusal := .next (holdForTest 1 s)

/-- WS_INTEST. -/
def execWsIntest (s : State) : Host.Outcome State Fault Refusal := .next (holdForTest 2 s)

/-- The 1,024 Daymark bits, word 0 bit 0 first; the words read 0 until the record locks (R504). DEDUCED:
notes/assumptions/35.md. -/
def Daymark.bits (d : Daymark) : List Bool :=
  d.words.flatMap (fun w => (upTo 32).map (fun i => d.locked && w.getLsbD i))

/-- DM_READ: functional operation continues. DEDUCED: notes/assumptions/35.md. -/
def execDmRead (s : State) : Host.Outcome State Fault Refusal :=
  .next { s with
    tw := { s.tw with wrstn := true, wir := 3 }
    out := s.out ++ [.serial s.dm.bits] }

/-- WRSTN_FALL (R469, R512): the wrapper is transparent. -/
def execWrstnFall (s : State) : Host.Outcome State Fault Refusal :=
  .next (endTest { s with tw := { s.tw with wrstn := false, wir := 0 } })

/-- VALID_LOWERED: a protocol violation of its port (R439, R441); a port that is fenced, aborting or held in reset
takes no part. -/
def execValidLowered (port : PortId) (s : State) : Host.Outcome State Fault Refusal :=
  match port with
  | .sb => if s.rst.por then .next s else .next (sbIgnored s)
  | .sys => if s.rst.ready && !s.kp.sysFenced then .next (s.sysFault 4) else .next s
  | .mem n => if s.rst.ready && !sget false s.mem.fenced n.val then .next (s.memFault n 4) else .next s
  | .fp n =>
    let l := s.lan n
    if s.rst.ready && l.present && !l.fenced && !l.abort then .next (lnViolation n 4 s) else .next s
  | .ring n => if s.portLive n then .next (s.ringFault n 4) else .next s

end Sys2Proof.Machine
end

