-- ==== Sys2Proof/Machine/Dispatch.lean ====
section
/-! DEFINITION. The meaning of every command, arm by arm. -/

namespace Sys2Proof.Machine

/-- The effect of a command on everything but the queue. -/
def exec (i : Instr) (s : State) : Host.Outcome State Fault Refusal :=
  match i with
  | .bundleIssue => Sys2Proof.Machine.execBundleIssue s
  | .bundleFetch => Sys2Proof.Machine.execBundleFetch s
  | .streamWindowService => Sys2Proof.Machine.execStreamWindowService s
  | .prodCount buoy => Sys2Proof.Machine.execProdCount buoy s
  | .fenceComplete => Sys2Proof.Machine.execFenceComplete s
  | .endComplete => Sys2Proof.Machine.execEndComplete s
  | .cbEntryTimeout pc word => Sys2Proof.Machine.execCbEntryTimeout pc word s
  | .osuraAsyncServe sec => Sys2Proof.Machine.execOsuraAsyncServe sec s
  | .scrubRequest sec => Sys2Proof.Machine.execScrubRequest sec s
  | .asyncShareApply => Sys2Proof.Machine.execAsyncShareApply s
  | .farSettingsApply => Sys2Proof.Machine.execFarSettingsApply s
  | .sectorFillDone sec => Sys2Proof.Machine.execSectorFillDone sec s
  | .sectorCloseDrained sec => Sys2Proof.Machine.execSectorCloseDrained sec s
  | .darkenTimeout sec => Sys2Proof.Machine.execDarkenTimeout sec s
  | .sectorBistDone psec pass => Sys2Proof.Machine.execSectorBistDone psec pass s
  | .bistCmd value => Sys2Proof.Machine.execBistCmd value s
  | .buoyDrainEnd buoy => Sys2Proof.Machine.execBuoyDrainEnd buoy s
  | .buoyWatchdog who => Sys2Proof.Machine.execBuoyWatchdog who s
  | .buoySel value => Sys2Proof.Machine.execBuoySel value s
  | .doorbellWrite ring value => Sys2Proof.Machine.execDoorbellWrite ring value s
  | .descriptorFetch ring => Sys2Proof.Machine.execDescriptorFetch ring s
  | .launch => Sys2Proof.Machine.execLaunch s
  | .keeperPause => Sys2Proof.Machine.execKeeperPause s
  | .keeperResume => Sys2Proof.Machine.execKeeperResume s
  | .transferStart => Sys2Proof.Machine.execTransferStart s
  | .memRequestIssue port => Sys2Proof.Machine.execMemRequestIssue port s
  | .memReadResponse port tag status data => Sys2Proof.Machine.execMemReadResponse port tag status data s
  | .memWriteAck port tag status => Sys2Proof.Machine.execMemWriteAck port tag status s
  | .memTimeout port isWrite tag => Sys2Proof.Machine.execMemTimeout port isWrite tag s
  | .transferComplete ch => Sys2Proof.Machine.execTransferComplete ch s
  | .tdResume ch => Sys2Proof.Machine.execTdResume ch s
  | .tdAbort ch => Sys2Proof.Machine.execTdAbort ch s
  | .light => Sys2Proof.Machine.execLight s
  | .darken => Sys2Proof.Machine.execDarken s
  | .moor => Sys2Proof.Machine.execMoor s
  | .arm => Sys2Proof.Machine.execArm s
  | .free => Sys2Proof.Machine.execFree s
  | .load => Sys2Proof.Machine.execLoad s
  | .start => Sys2Proof.Machine.execStart s
  | .mark => Sys2Proof.Machine.execMark s
  | .release => Sys2Proof.Machine.execRelease s
  | .pause => Sys2Proof.Machine.execPause s
  | .resume => Sys2Proof.Machine.execResume s
  | .abort => Sys2Proof.Machine.execAbort s
  | .tdcmd => Sys2Proof.Machine.execTdcmd s
  | .eclipse => Sys2Proof.Machine.execEclipse s
  | .token => Sys2Proof.Machine.execToken s
  | .note => Sys2Proof.Machine.execNote s
  | .loadTakeEffect ln => Sys2Proof.Machine.execLoadTakeEffect ln s
  | .productAnnounce ln => Sys2Proof.Machine.execProductAnnounce ln s
  | .operandRequest ln hdr => Sys2Proof.Machine.execOperandRequest ln hdr s
  | .resultBeat ln hdr0 hdr1 data => Sys2Proof.Machine.execResultBeat ln hdr0 hdr1 data s
  | .tailPassStart ln => Sys2Proof.Machine.execTailPassStart ln s
  | .relayStallTimeout ln => Sys2Proof.Machine.execRelayStallTimeout ln s
  | .productComplete ln => Sys2Proof.Machine.execProductComplete ln s
  | .fpAbortAck ln => Sys2Proof.Machine.execFpAbortAck ln s
  | .fpAbortTimeout ln => Sys2Proof.Machine.execFpAbortTimeout ln s
  | .data port hdr payload => Sys2Proof.Machine.execData port hdr payload s
  | .credit port hdr payload => Sys2Proof.Machine.execCredit port hdr payload s
  | .ack port hdr payload => Sys2Proof.Machine.execAck port hdr payload s
  | .nak port hdr payload => Sys2Proof.Machine.execNak port hdr payload s
  | .pktMark port hdr payload => Sys2Proof.Machine.execPktMark port hdr payload s
  | .pktSeal port hdr payload => Sys2Proof.Machine.execSeal port hdr payload s
  | .closed port hdr payload => Sys2Proof.Machine.execClosed port hdr payload s
  | .mabort port hdr payload => Sys2Proof.Machine.execMabort port hdr payload s
  | .pktHold port hdr payload => Sys2Proof.Machine.execPktHold port hdr payload s
  | .pktRelease port hdr payload => Sys2Proof.Machine.execPktRelease port hdr payload s
  | .mreq port hdr payload => Sys2Proof.Machine.execMreq port hdr payload s
  | .packetForward port hdr payload => Sys2Proof.Machine.execPacketForward port hdr payload s
  | .packetSend port => Sys2Proof.Machine.execPacketSend port s
  | .ringCreditReturn port cls count => Sys2Proof.Machine.execRingCreditReturn port cls count s
  | .linkDown port => Sys2Proof.Machine.execLinkDown port s
  | .ringAbortAck port => Sys2Proof.Machine.execRingAbortAck port s
  | .sendWatchdog ch => Sys2Proof.Machine.execSendWatchdog ch s
  | .markTimeout => Sys2Proof.Machine.execMarkTimeout s
  | .markWaitTimeout => Sys2Proof.Machine.execMarkWaitTimeout s
  | .epochTimer => Sys2Proof.Machine.execEpochTimer s
  | .closeCapture => Sys2Proof.Machine.execCloseCapture s
  | .closeComplete => Sys2Proof.Machine.execCloseComplete s
  | .logMirrorGranule => Sys2Proof.Machine.execLogMirrorGranule s
  | .logEnable value => Sys2Proof.Machine.execLogEnable value s
  | .logDisable value => Sys2Proof.Machine.execLogDisable value s
  | .restoreDirty => Sys2Proof.Machine.execRestoreDirty s
  | .restoreFull => Sys2Proof.Machine.execRestoreFull s
  | .restoreComplete => Sys2Proof.Machine.execRestoreComplete s
  | .faultSequencerStart found => Sys2Proof.Machine.execFaultSequencerStart found s
  | .spareBistDone pc pass => Sys2Proof.Machine.execSpareBistDone pc pass s
  | .fltUnfence value => Sys2Proof.Machine.execFltUnfence value s
  | .foghornStart => Sys2Proof.Machine.execFoghornStart s
  | .foghornEnd => Sys2Proof.Machine.execFoghornEnd s
  | .throttleRelease => Sys2Proof.Machine.execThrottleRelease s
  | .coreDivSwitch => Sys2Proof.Machine.execCoreDivSwitch s
  | .brownOut => Sys2Proof.Machine.execBrownOut s
  | .powerOnReset => Sys2Proof.Machine.execPowerOnReset s
  | .porRelease => Sys2Proof.Machine.execPorRelease s
  | .blockReset => Sys2Proof.Machine.execBlockReset s
  | .blockResetRelease => Sys2Proof.Machine.execBlockResetRelease s
  | .clusterBistDone failed => Sys2Proof.Machine.execClusterBistDone failed s
  | .daymarkWord word last => Sys2Proof.Machine.execDaymarkWord word last s
  | .sbPowerAnswer dom fail => Sys2Proof.Machine.execSbPowerAnswer dom fail s
  | .sbPowerTimeout dom => Sys2Proof.Machine.execSbPowerTimeout dom s
  | .sbWake => Sys2Proof.Machine.execSbWake s
  | .eclipseEntry => Sys2Proof.Machine.execEclipseEntry s
  | .eclipseWake => Sys2Proof.Machine.execEclipseWake s
  | .eventRecordWrite => Sys2Proof.Machine.execEventRecordWrite s
  | .eringHeadWrite value => Sys2Proof.Machine.execEringHeadWrite value s
  | .sysResponse tag status data => Sys2Proof.Machine.execSysResponse tag status data s
  | .sysTimeout tag => Sys2Proof.Machine.execSysTimeout tag s
  | .ringEnable ring value => Sys2Proof.Machine.execRingEnable ring value s
  | .workNextseqLo value => Sys2Proof.Machine.execWorkNextseqLo value s
  | .moSel value => Sys2Proof.Machine.execMoSel value s
  | .engFlagsWrite value => Sys2Proof.Machine.execEngFlagsWrite value s
  | .bcastWrite window offset value => Sys2Proof.Machine.execBcastWrite window offset value s
  | .bcastRead window offset => Sys2Proof.Machine.execBcastRead window offset s
  | .counterRead addr => Sys2Proof.Machine.execCounterRead addr s
  | .counterClear value => Sys2Proof.Machine.execCounterClear value s
  | .traceRestart value => Sys2Proof.Machine.execTraceRestart value s
  | .wsBypass => Sys2Proof.Machine.execWsBypass s
  | .wsExtest => Sys2Proof.Machine.execWsExtest s
  | .wsIntest => Sys2Proof.Machine.execWsIntest s
  | .dmRead => Sys2Proof.Machine.execDmRead s
  | .wrstnFall => Sys2Proof.Machine.execWrstnFall s
  | .registerWrite addr value => Sys2Proof.Machine.execRegisterWrite addr value s
  | .linkUpRise port => Sys2Proof.Machine.execLinkUpRise port s
  | .ringAbortTimeout port => Sys2Proof.Machine.execRingAbortTimeout port s
  | .brownOutRelease => Sys2Proof.Machine.execBrownOutRelease s
  | .abortAckFall port => Sys2Proof.Machine.execAbortAckFall port s
  | .reservedKindArrival port hdr payload => Sys2Proof.Machine.execReservedKindArrival port hdr payload s
  | .inboundFramingViolation port => Sys2Proof.Machine.execInboundFramingViolation port s
  | .validLowered port => Sys2Proof.Machine.execValidLowered port s

end Sys2Proof.Machine
end

