-- ==== Sys2Proof/Safety.lean ====
section
/-! DEFINITION. What claims speak of: the canonical form of Osura's store, and the invariant that every command
keeps. -/

namespace Sys2Proof.Machine

/-- Osura's bytes and check bytes are in canonical form: addresses strictly rise, and no entry is the byte that
an unlisted address reads as. -/
abbrev Memory.wf (s : State) : Prop := swf 0#8 s.osura.data = true ∧ swf 0#8 s.osura.check = true

/-- The Daymark record has 32 words, NWORDS is capped at 32, and once the record is locked CRCERR says whether its
last word differs from the CRC of the others (R463, R504). -/
def Daymark.Truthful (d : Daymark) : Prop :=
  d.words.length = 32 ∧ d.nwords ≤ 32 ∧
    (d.locked = true →
      d.crcErr = (crc32c ((d.words.take 31).flatMap (fun w => toBytes 4 w.toNat)) != (d.words.getD 31 0#32).toNat))

/-- The wrapper holds one of its four instructions, and holds the block for a test only while WRSTN is high (R512). -/
def Wrapper.Legal (w : Wrapper) : Prop := w.wir ≤ 3 ∧ (w.held = true → w.wrstn = true)

/-- The lane state, the counters, Tender's channels, the buoys, the sector controllers and the coalescing buffers are
in canonical form. -/
def State.Canon (s : State) : Prop :=
  swf Lanes.fresh s.lanes = true ∧ swf 0 s.cnt.eng = true ∧ swf 0 s.cnt.cl = true ∧ swf Chan.idle s.td.ch = true ∧
    swf Buoy.idle s.buoys.b = true ∧ swf SecCtl.fresh s.osura.secs = true ∧
    swf [] s.osura.cb = true

/-- What every command keeps: Osura in canonical form, a truthful Daymark, a legal wrapper and power state, no
HAVEMARK while the Logbook is off (R403), and the other stores in canonical form. -/
def State.Inv (s : State) : Prop :=
  Memory.wf s ∧ s.dm.Truthful ∧ s.tw.Legal ∧ s.rst.pstate ≤ 3 ∧ (s.log.haveMark = true → s.log.en = true) ∧ s.Canon

/-! ### What statements speak of -/

/-- `t` is `s` but for what reading Osura through its code may change (R55, R63, R70): a write-back request, the
sectors' counts of corrected errors, OSURA_UE_ADDR, counters, dirty bits, and a detected data fault, which ends a
running restore (R392). -/
def State.ReadsOnly (s t : State) : Prop :=
  t = { s with
    osura := { s.osura with
      q := t.osura.q, secs := t.osura.secs, ueAddr := t.osura.ueAddr, ueScrub := t.osura.ueScrub
      ueValid := t.osura.ueValid }
    log := { s.log with
      dirtyA := t.log.dirtyA, dirtyB := t.log.dirtyB, rbusy := t.log.rbusy, rerr := t.log.rerr
      restore := t.log.restore }
    mem := { s.mem with logQ := t.mem.logQ, rd := t.mem.rd }
    cnt := t.cnt, errs := t.errs }

/-- In `t` an error has been detected that `s` had not: it stands before the errors of its control cycle that R392
puts behind it, with the tick of its detection, and no discard has covered it. -/
def State.Found (s t : State) (kind reason phys logi addr : Nat) : Prop :=
  ∃ e l r, s.errs = l ++ r ∧ t.errs = l ++ e :: r ∧ e.kind = kind ∧ e.reason = reason ∧ e.phys = phys ∧ e.logi = logi ∧
    e.addr = addr ∧ e.at_ = s.clk.ticks ∧ e.ctl = s.clk.ckr / 8 ∧ e.covered = false ∧
    (∀ x ∈ l, e.before x = false) ∧ (∀ x, r.head? = some x → e.before x = true)

/-- An error has been detected and nothing else has come of it; a restore that ran has ended with RERR = FAULT
(R391, R392). -/
def State.Detected (s t : State) (kind reason phys logi addr : Nat) : Prop :=
  s.Found t kind reason phys logi addr ∧
    t = { s with
      errs := t.errs
      log := if s.log.rbusy then { s.log with rbusy := false, rerr := 7, restore := none } else s.log
      mem := { s.mem with logQ := t.mem.logQ, rd := t.mem.rd } } ∧
    (s.log.rbusy = false → t.mem = s.mem)

/-- The stream runs and nothing holds it before its next bundle (R108). -/
def State.StreamClear (s : State) : Prop :=
  s.wrun = true ∧ s.streamStopped = false ∧ s.str.ended = false ∧ s.rst.ready = true ∧ s.clk.stopped = false ∧
    s.rst.pstate = 0 ∧ s.errs = [] ∧ s.str.window = [] ∧ s.str.due = [] ∧ s.str.movs = [] ∧
    (∀ e ∈ s.str.scalQ, e.2.2 ≠ none) ∧ s.str.bankStall = 0 ∧ s.str.spareDue = [] ∧ s.str.spareStall = 0 ∧
    s.flushStuck = false ∧ s.str.stopWait = none ∧ s.str.farHits = [] ∧ s.str.resuming = false ∧
    s.trap.found = none ∧ s.str.trapWait = 0 ∧ s.str.fence = false ∧ s.sentBackAny = false

/-- The epilogue of a Lantern has nothing at hand to work on (R294, R297). -/
abbrev Lantern.AtRest (l : Lantern) : Prop :=
  l.buf = [] ∧ l.epi = none ∧ l.relayWait = false ∧ l.osmxReady = none

/-- Banks may serve the stream in this cycle, and none has done so yet (R38, R40). -/
def State.BanksOpen (s : State) : Prop :=
  s.rst.ready = true ∧ s.clk.stopped = false ∧ asyncOwns s.osura.share s.clk.cyc = false ∧
    s.str.servedAt ≠ s.clk.cyc + 1

/-- The bundle at the pc has been fetched, passes its checks with the operations `ops`, and may issue now. -/
def State.IssueReady (s : State) (b : Bundle) (len : Nat) (ops : List (Nat × SlotOp)) : Prop :=
  s.StreamClear ∧ s.str.pauseReq = false ∧ s.str.branch = none ∧ s.str.earliest ≤ s.clk.cyc ∧
    s.str.pc % 4 = 0 ∧ s.str.pc < 2 ^ 29 ∧ s.bundleHere = some (b, len) ∧ checkBundle s b len = .ok ops

/-- From `s` to `t` one core cycle has passed, in which a terminal stop has been taken before the bundle at the pc: the stop
registers name it and what a branch has pending, WORK_DONE with the cause is queued, a waiting ECLIPSE is refused, the
reuse latches are empty, and nothing of the bundle has executed (R115, R116, R374). -/
def State.StoppedBy (s t : State) (a : StopAt) : Prop :=
  t.str.stop.pc = s.str.pc ∧ t.str.stop.cause = a.cause ∧ (∀ n, a.slot = some n → t.str.stop.slot = n) ∧
    t.str.stop.rclass = a.rclass ∧ t.str.stop.reg = a.reg ∧ t.str.stop.rule = a.rule ∧ t.str.stop.resumable = false ∧
    (∀ tgt d, s.str.branch = some (tgt, d) → tgt < 2 ^ 32 → t.str.stop.brtgt = tgt ∧ t.str.stop.brpend = d) ∧
    (s.str.branch = none → t.str.stop.brpend = 0) ∧
    (∃ e l, t.evq = s.evq ++ e :: l ∧ e.typ = 1 ∧ e.ring = 1 ∧ e.p0 = a.cause ∧ e.p2 = s.str.pc ∧
      ∀ w, s.str.launch = some w → e.index = w.index ∧ e.p1 = w.user) ∧
    (∀ p, t.lane p = { s.lane p with latches := [] }) ∧
    t.str.pc = s.str.pc ∧ t.str.scal = s.str.scal ∧ t.str.tags = s.str.tags ∧ t.str.launch = s.str.launch ∧
    t.str.pauseReq = false ∧ t.str.stopWait = none ∧ t.rst.eclipse = none ∧ t.clk = s.clk.advance ∧
    t = { s with
      lanes := t.lanes, clk := t.clk, str := t.str, cnt := t.cnt, trc := t.trc, ln := t.ln, evq := t.evq, free := t.free
      kp := { s.kp with ctlRun := t.kp.ctlRun, cdone := t.kp.cdone }
      rst := { s.rst with eclipse := none, wakeHeld := t.rst.wakeHeld }, trap := { s.trap with hit := false }
      mem := { s.mem with bucket := t.mem.bucket, held := t.mem.held }, td := { s.td with ch := t.td.ch }
      flt := { s.flt with lastFog := t.flt.lastFog }
      ring := { s.ring with ports := t.ring.ports, epochRun := t.ring.epochRun }
      osura := { s.osura with q := t.osura.q, secs := t.osura.secs } }

/-- `d` is the next Control descriptor, may start, has no reserved field, and its OP is `op` (R377, R379). -/
def State.CtlNext (s : State) (d : Desc) (rest : List Desc) (op : Nat) : Prop :=
  s.kp.ctlTaken = d :: rest ∧ s.ctlMayStart d = true ∧ d.ctlFields = true ∧ d.op = op

/-- From `s` to `t` the next Control descriptor has started: of the Keeper's state only the books of Control
descriptors, the orders of the cycle and the event queue may have changed. -/
def State.CtlBooks (s t : State) (rest : List Desc) : Prop :=
  s.evq <+: t.evq ∧
    t.kp = { s.kp with
      ctlTaken := rest, ctlNum := s.kp.ctlNum + 1, ctlRun := t.kp.ctlRun, cdone := t.kp.cdone
      orders := t.kp.orders }

/-- A packet is this chip's to take from arrival port `port` (8 is the loopback path): `hdr` and `payload` read as
`p`, which the port may take now and which passes the checks of R336 and R457, fits its buffer, is for this chip and
this job, waits behind no earlier packet of its class (R332, R339), and, but for DATA, has the payload of its CRC. -/
def State.Comes (s : State) (port : Fin 9) (hdr : List Word) (payload : List Byte) (p : Pkt) : Prop :=
  hdr.length = 8 ∧ payload.length < 512 ∧ p.jobkey = s.ring.jobKey ∧ (p.kind ≠ 0 → p.pcrc = crc32c p.payload) ∧
    s.canTake p = true ∧
    (port.val = 8 → (∃ rest, s.ring.loopQ = p :: rest) ∧ s.packetsOn = true ∧ p.port = none ∧
      (p.cls = 0 ∨ s.ring.hold = false)) ∧
    (port.val ≠ 8 → p = Pkt.ofHdr hdr payload (some port.val) ∧ s.portLive port = true ∧ p.headerOk = true ∧
      (s.rport port).used.getD p.cls 0 + p.cost ≤ bufferUnits p.cls ∧ p.dst = s.ring.chipId ∧
      s.behindHeld p = false)

/-- A packet leaves the loopback path as it is taken, or takes the space of its arrival buffer, which `State.freeSpace`
gives back (R332, R339). -/
def State.took (s : State) (port : Fin 9) (p : Pkt) : State :=
  if port.val = 8 then { s with ring := { s.ring with loopQ := s.ring.loopQ.drop 1 } } else s.takeSpace p

/-- From `s` to `t` this chip has sent one class 0 message to `dst` (R332): it stands at the end of the loopback path,
or of the own packets of the port to `dst`. -/
def State.SentTo (s t : State) (dst kind : Nat) (pay : List Byte) : Prop :=
  ∃ p : Pkt, p.dst = dst ∧ p.src = s.ring.chipId ∧ p.kind = kind ∧ p.cls = 0 ∧ p.jobkey = s.ring.jobKey ∧
    p.payload = pay ∧
    (dst = s.ring.chipId → t.ring.loopQ = s.ring.loopQ ++ [p] ∧ t.ring.ports = s.ring.ports) ∧
    (dst ≠ s.ring.chipId → t.ring.loopQ = s.ring.loopQ ∧
      ∀ m < s.ring.ports.length, s.ring.route dst = some m →
        t.rport m = { s.rport m with loc := (s.rport m).loc ++ [p] } ∧ ∀ n, n ≠ m → t.rport n = s.rport n)

/-- The ring's state but for what a message of this chip and a mark's own books may change. -/
def State.RingBooks (s t : State) : Prop :=
  t.ring = { s.ring with
    ports := t.ring.ports, loopQ := t.ring.loopQ, mark := t.ring.mark, epochRun := t.ring.epochRun
    errReason := t.ring.errReason, errPort := t.ring.errPort, errLocal := t.ring.errLocal, errSrc := t.ring.errSrc
    errValid := t.ring.errValid }

end Sys2Proof.Machine
end

