-- ==== Sys2Proof/WellFormed.lean ====
section
/-! DEFINITION. The checks on a command's operands that their types do not make: lengths of the port's data. -/

namespace Sys2Proof

/-- A ring packet crosses a port as eight header words and at most 256 bytes of payload would be legal (R334);
a longer LEN is for the header check, so only the header's length and the greatest length LEN can name count
here. -/
def packetWf (hdr : List Word) (payload : List Byte) : Bool := hdr.length == 8 && payload.length < 512

/-- Is a command's data as long as its port carries (R442, R446, R449, R456)? DESIGN CHOICE: notes/assumptions/41.md. -/
def Instr.wf : Instr → Bool
  | .memReadResponse _ _ _ d => d.length == 256
  | .sysResponse _ _ d => d.length == 64
  | .resultBeat _ h _ d => h.isNone || d.length == 1024
  | .data _ h p | .credit _ h p | .ack _ h p | .nak _ h p | .pktMark _ h p | .pktSeal _ h p | .closed _ h p
  | .mabort _ h p | .pktHold _ h p | .pktRelease _ h p | .mreq _ h p | .reservedKindArrival _ h p
  | .packetForward _ h p => packetWf h p
  | _ => true

end Sys2Proof
end

