-- ==== Sys2Proof/Certificates/Slice0/Obligations.lean ====
section
/-! DEFINITION. The statements for the provers. A statement of a command's effect says that `exec` answers a next
state `t`; where it says `t = ⟨s with …⟩`, that is the frame: every field not named there is as it was. -/

open Sys2Proof Sys2Proof.Machine

/-! ### The block as a whole -/

/-- The command at the front of the queue is what a step runs, on the state with the queue's rest; with no command
waiting a core cycle passes (the model's choice, notes/assumptions/1.md). -/
def Obligations.StepRunsFront : Prop :=
  (∀ (c : Instr) (rest : List Instr) (s : State),
    step { s with pending := c :: rest } = exec c { s with pending := rest }) ∧
  ∀ s : State, s.pending = [] → step s = .next s.tick

/-- Every command whose data have the length of its port completes, in every state; one whose data have not is
refused and changes nothing. -/
def Obligations.EveryCommandAnswers : Prop :=
  ∀ (c : Instr) (s : State),
    (c.wf = true → ∃ t, exec c s = .next t) ∧ (c.wf = false → exec c s = .refused .illFormed)

/-- A step takes the front command and leaves the rest of the queue as it was. -/
def Obligations.QueueShrinks : Prop :=
  ∀ s t : State, step s = .next t → t.pending = s.pending.tail

/-- The state right after power-on reset has the invariant, no waiting command, and these reset values of the spec: the
async share (R66), the agents' weights (R67), SCRUB_PACE and CE_RETIRE (R68), STALL_LOG2 (R84), the stop registers
(R119), TRAP_CTL.SLOTS (R203), the mark and seal limits (R364), the rings (R388), LOG_CFG's rate and epoch (R415), and
READY at 0 (R437). -/
def Obligations.ResetState : Prop :=
  State.reset.Inv ∧ State.reset.pending = [] ∧
    State.reset.osura.share = 1 ∧ State.reset.osura.scrubPace = 64 ∧ State.reset.osura.ceRetire = 64 ∧
    State.reset.osura.weights = [6, 4, 3, 2, 2, 1] ∧ State.reset.buoys.stallLog2 = 24 ∧
    State.reset.str.stop = StopRec.blank ∧ State.reset.trap.slots = 0x1F ∧
    State.reset.kp.work.log2 = 4 ∧ State.reset.kp.work.en = false ∧ State.reset.kp.evPhase = true ∧
    State.reset.log.rate = 5 ∧ State.reset.log.epoch = 20 ∧ State.reset.ring.markTimeout = 1000 ∧
    State.reset.ring.sealLimit = 250 ∧ State.reset.rst.ready = false

/-- Every step keeps the invariant: Osura's bytes and check bytes, and the lane state, counters, channels, buoys, sector
controllers and coalescing buffers, stay in canonical form, the Daymark record stays
truthful about its CRC (R504), the wrapper and the power state stay legal, and HAVEMARK is never set while the
Logbook is off (R403). -/
def Obligations.EveryStepKeepsInv : Prop :=
  ∀ s t : State, s.Inv → step s = .next t → t.Inv

/-! ### SYS writes and reads -/

/-- Until READY, every SYS write is answered and changes nothing, and every read returns 0; RERR is 0 (R424,
R443). -/
def Obligations.BeforeReadyOnlyAnswers : Prop :=
  ∀ (s : State) (v : Word) (a : BitVec 20) (ch : Fin 128) (r3 : Fin 3) (r4 : Fin 4) (w : Fin 9) (off : BitVec 12),
    s.rst.ready = false →
    (∀ c ∈ [Instr.bistCmd v, .buoySel v, .doorbellWrite r3 v, .keeperPause, .keeperResume, .tdResume ch, .tdAbort ch,
        .logEnable v, .logDisable v, .restoreDirty, .restoreFull, .fltUnfence v, .eringHeadWrite v, .ringEnable r4 v,
        .workNextseqLo v, .moSel v, .engFlagsWrite v, .bcastWrite w off v, .counterClear v, .traceRestart v,
        .registerWrite a v],
      exec c s = .next { s with out := s.out ++ [.regWrote false] }) ∧
    (∀ c ∈ [Instr.counterRead a, .bcastRead w off],
      exec c s = .next { s with out := s.out ++ [.regRead 0#32 false] })

/-- BUOY_SEL captures a buoy and MO_SEL a mooring into their information registers, and nothing else changes (R86,
R365). CNT_CTL sets FREEZE, and CLEAR sets every counter of the block to 0; nothing else changes (R506). -/
def Obligations.SelectsAndCounterClear : Prop :=
  ∀ (s : State) (v : Word), s.rst.ready = true →
    (∃ t, exec (.buoySel v) s = .next t ∧
      t.buoys.sel = v.toNat % 256 ∧
      t.buoys.info0 = BitVec.ofNat 32 (s.buoy (v.toNat % 256)).base ∧
      t.buoys.info1 = BitVec.ofNat 32 ((s.buoy (v.toNat % 256)).nlines + bit (s.buoy (v.toNat % 256)).reload * 2 ^ 17 +
        (s.buoy (v.toNat % 256)).st.code * 2 ^ 18) ∧
      t.buoys.info2 = BitVec.ofNat 32 ((s.buoy (v.toNat % 256)).p + (s.buoy (v.toNat % 256)).c * 2 ^ 16) ∧
      t = { s with
        buoys := { s.buoys with sel := t.buoys.sel, info0 := t.buoys.info0, info1 := t.buoys.info1, info2 := t.buoys.info2 }
        out := s.out ++ [.regWrote false] }) ∧
    (∃ t, exec (.moSel v) s = .next t ∧
      t.ring.moSel = v.toNat % 64 ∧
      t.ring.moInfo = (s.mooring (v.toNat % 64)).info.map (BitVec.ofNat 32) ∧
      t = { s with
        ring := { s.ring with moSel := t.ring.moSel, moInfo := t.ring.moInfo }, out := s.out ++ [.regWrote false] }) ∧
    (∃ t, exec (.counterClear v) s = .next t ∧
      t.cnt.freeze = v.getLsbD 0 ∧
      (v.getLsbD 1 = true → ∀ n, sget 0 t.cnt.eng n = 0 ∧ sget 0 t.cnt.cl n = 0) ∧
      (v.getLsbD 1 = false → t.cnt.eng = s.cnt.eng ∧ t.cnt.cl = s.cnt.cl) ∧
      t = { s with cnt := t.cnt, out := s.out ++ [.regWrote false] })

/-- A read of an engine counter answers its value before the events of the present control cycle, at most
0xFFFF_FFFF; unless FREEZE holds the counters, those events alone remain in it, and every other counter is as it was
(R505, R506). -/
def Obligations.CounterReadClears : Prop :=
  ∀ (s : State) (off : Nat), s.Inv → s.rst.ready = true → off ∈ counterOffsets →
    ∃ t, exec (.counterRead (BitVec.ofNat 20 ((0x10000 + off) / 4))) s = .next t ∧
      t.out = s.out ++ [.regRead (BitVec.ofNat 32 (min 0xFFFFFFFF (sget 0 (s.cnt.engWas s.ctlCycle) off))) false] ∧
      (s.cnt.freeze = false → ∀ n, sget 0 t.cnt.eng n =
        if n = off then sget 0 s.cnt.eng off - sget 0 (s.cnt.engWas s.ctlCycle) off else sget 0 s.cnt.eng n) ∧
      (s.cnt.freeze = true → t.cnt = s.cnt) ∧
      t = { s with cnt := { s.cnt with eng := t.cnt.eng, was := t.cnt.was }, out := t.out }

/-- Through a broadcast or group window, a write to CL_FLAGS clears the written flags in every member and in no other
cluster (R493), but for flags raised in the same control cycle (R198), and a read of CL_FLAGS answers the OR of the
members' flags (R494). A write to ENG_FLAGS clears the written flags in every Lantern and in every working physical
cluster, and in no other, but for flags raised in the same control cycle (R198). -/
def Obligations.FlagWritesReachMembers : Prop :=
  ∀ (s : State) (w : Fin 9) (v : Word), s.Inv → s.rst.ready = true → s.unitsOff = false →
    (s.members w ≠ [] → ∃ t, exec (.bcastWrite w 1#12 v) s = .next t ∧
      (∀ pc, (t.lane pc).flags = if (s.members w).any (fun m => m.2 == pc) then
          clearFlags (s.lane pc).flags v.toNat ||| keptFlags (s.lane pc).raisedAt (s.clk.ckr / 8) (s.lane pc).raisedNow
        else (s.lane pc).flags) ∧
      t = { s with lanes := t.lanes, out := s.out ++ [.regWrote false] }) ∧
    (s.members w ≠ [] → ∃ t, exec (.bcastRead w 1#12) s = .next t ∧
      t = { s with out := s.out ++ [.regRead
        (BitVec.ofNat 32 (((s.members w).map (fun m => flagWord (s.flagsOfPc m.2))).foldl (· ||| ·) 0)) false] }) ∧
    (∃ t, exec (.engFlagsWrite v) s = .next t ∧
      (∀ pc, (t.lane pc).flags = if s.map.working.contains pc then
          clearFlags (s.lane pc).flags v.toNat ||| keptFlags (s.lane pc).raisedAt (s.clk.ckr / 8) (s.lane pc).raisedNow
        else (s.lane pc).flags) ∧
      (∀ n : Fin 4, (t.lan n).flags = clearFlags (s.lan n).flags v.toNat |||
        keptFlags (s.lan n).raisedAt (s.clk.ckr / 8) (s.lan n).raisedNow) ∧
      t = { s with lanes := t.lanes, ln := t.ln, out := s.out ++ [.regWrote false] })

/-! ### Clocks, resets and bring-up -/

/-- A Foghorn start sets the sticky and the present condition and, with AUTO, the throttle, and asks for the slower
divisor; its end clears the condition; the throttle is released once the condition has been absent for HOLD × 64 ticks
(R413, R483). A divisor that waits takes force on an edge of both clocks, in a control cycle after the one that asked
for it (R474), and not while a reset holds ÷4 or the core clock stands (R476). A call that changes no request leaves the
evaluation as it was. -/
def Obligations.Clocks : Prop :=
  ∀ s : State,
    (∀ (w : Nat) (target : Option Nat), s.rst.por = false → s.flt.fognow = false →
      w = max (min 2 s.clk.coreDiv) (if s.clk.fogThr || s.clk.fogAuto then s.clk.fogAdiv + 1 else 0) →
      target = (if w = s.clk.divNow then none else some w) → exec .foghornStart s = .next { s with
        flt := { s.flt with foghorn := true, fognow := true, lastFog := some s.clk.ticks }
        clk := { s.clk with
          fogThr := s.clk.fogThr || s.clk.fogAuto, divTarget := target
          askedAt := if target = s.clk.divTarget then s.clk.askedAt else some (s.clk.ckr / 8) } }) ∧
    (s.flt.fognow = true → exec .foghornStart s = .next s ∧
      exec .foghornEnd s = .next { s with flt := { s.flt with fognow := false, lastFog := some s.clk.ticks } }) ∧
    (s.flt.fognow = false → exec .foghornEnd s = .next s) ∧
    (∀ (since : Nat) (target : Option Nat), s.flt.lastFog = some since → s.clk.fogThr = true → s.flt.fognow = false →
      target = (if min 2 s.clk.coreDiv = s.clk.divNow then none else some (min 2 s.clk.coreDiv)) →
      (since + max 1 s.clk.fogHold * 64 ≤ s.clk.ticks → exec .throttleRelease s = .next { s with
        clk := { s.clk with
          fogThr := false, divTarget := target
          askedAt := if target = s.clk.divTarget then s.clk.askedAt else some (s.clk.ckr / 8) } }) ∧
      (s.clk.ticks < since + max 1 s.clk.fogHold * 64 → exec .throttleRelease s = .next s)) ∧
    (s.clk.fogThr = false ∨ s.flt.fognow = true → exec .throttleRelease s = .next s) ∧
    (∀ v, s.clk.divTarget = some v →
      (s.clk.ckr % 8 = 0 → s.clk.askedAt ≠ some (s.clk.ckr / 8) → s.divHeld = false → s.clk.stopped = false →
        exec .coreDivSwitch s = .next { s with
        clk := { s.clk with divNow := v, divTarget := none } }) ∧
      (s.clk.ckr % 8 ≠ 0 ∨ s.clk.askedAt = some (s.clk.ckr / 8) ∨ s.divHeld = true ∨ s.clk.stopped = true →
        exec .coreDivSwitch s = .next s)) ∧
    (s.clk.divTarget = none → exec .coreDivSwitch s = .next s)

/-- A power-on reset, and a brown-out that holds it, put every register at its Reset value and leave Osura and the
Daymark empty (R422, R466, R485); it ends only once POR_N, the brown-out and BRST_N are released (R424, R466, R485). A
block reset keeps what R435 lists, the maps among it (R425), and puts the rest at its Reset value; that TW_STATUS.TESTED
is kept as well is the model's choice (notes/assumptions/35.md); in Eclipse the reset follows the wake, with READY at 0 (R424, R425, R432).
The Daymark takes its words in order and locks at the last, when cluster power is requested (R436, R463, R504). A good
power answer brings its domain up, unless its unit has been fenced, when it goes off again; a bad one and 1 ms without
one are faults of reason POWER, and an answer to nobody is
counted (R441, R462). The end of the cluster BIST makes the block READY and switches the spares off (R425, R436). -/
def Obligations.ResetsAndBringUp : Prop :=
  ∀ s : State, s.Inv → s.ring.ports.length = 8 → s.map.pc.length = 34 →
    (∀ c ∈ [Instr.powerOnReset, Instr.brownOut], ∃ t, exec c s = .next t ∧
      t.rst = { Rst.reset with
        por := true, brown := s.rst.brown || (c == Instr.brownOut), brst := s.rst.brst
        lastRst := bit (s.rst.brown || (c == Instr.brownOut)) } ∧
      (∀ n < 8, t.rport n = { RPort.fresh with linkUp := (s.rport n).linkUp }) ∧
      t = { State.reset with
        rst := t.rst, ln := s.ln.map (fun l => { Lantern.fresh with present := l.present })
        ring := { Ring.reset with ports := t.ring.ports }, tw := { s.tw with tested := false }
        out := s.out, free := s.free, pending := s.pending }) ∧
    exec .brownOutRelease s = .next { s with rst := { s.rst with brown := false } } ∧
    (s.rst.por = true → s.rst.brown = false → s.rst.brst = false →
      exec .porRelease s = .next { s with rst := { s.rst with por := false, phase := 0 } }) ∧
    (s.rst.brown = true ∨ s.rst.brst = true → exec .porRelease s = .next s) ∧
    (s.rst.por = false → s.unitsOff = false → ∃ t, exec .blockReset s = .next t ∧
      t.rst.ready = false ∧ t.rst.brst = true ∧ t.clk.cyc = 0 ∧ t.wrun = false ∧ t.lanes = [] ∧
      t.osura.data = s.osura.data ∧ t.osura.check = s.osura.check ∧ t.osura.q = [] ∧ t.osura.cb = [] ∧
      (∀ k < 64, (t.secCtl k).st = if (s.secCtl k).st = .lit then .lit else .dark) ∧
      (∀ n, t.buoy n = Buoy.idle) ∧ t.td.ch = [] ∧ t.ring.moors = [] ∧ t.ring.en = false ∧ t.ring.ctab = [] ∧
      t.ring.chipId = s.ring.chipId ∧ t.ring.jobKey = s.ring.jobKey ∧ t.ring.rt = s.ring.rt ∧
      (∀ n : Fin 4, t.kp.ring n = ⟨(s.kp.ring n).base, (s.kp.ring n).log2, false, 0, 0⟩) ∧
      t.kp.nextseq = 0 ∧ t.evq = [] ∧ t.errs = [] ∧ t.flt.fenced = [] ∧ t.flt.fatal = false ∧ t.flt.unitdown = false ∧
      t.log.en = false ∧ t.log.haveMark = false ∧ t.log.bitmapV = false ∧ t.log.baseA = s.log.baseA ∧
      t.log.baseB = s.log.baseB ∧ t.dm = s.dm ∧ t.tw = s.tw ∧
      t.flt.swap = false ∧ t.flt.seqbusy = false ∧ t.map = s.map ∧
      t.cnt = { eng := [], cl := [], freeze := s.cnt.freeze, was := none, cleared := none }) ∧
    (s.rst.por = true → exec .blockReset s = .next { s with rst := { s.rst with brst := true } }) ∧
    (s.rst.por = false → s.unitsOff = true → exec .blockReset s = .next { s with
      rst := { s.rst with brst := true, resetHeld := true, ready := false } }) ∧
    (∃ t, exec .blockResetRelease s = .next t ∧ t.rst = { s.rst with brst := false } ∧
      (s.rst.phase ≠ 4 → t.pwr = s.pwr) ∧ t = { s with rst := t.rst, pwr := t.pwr, out := t.out }) ∧
    (∀ w : Word, (s.rst.por = true ∨ s.dm.locked = true → ∀ last, exec (.daymarkWord w last) s = .next s) ∧
      (s.rst.por = false → s.dm.locked = false → s.dm.nwords < 32 →
        exec (.daymarkWord w false) s = .next { s with dm := { s.dm with
          words := s.dm.words.set s.dm.nwords w, nwords := s.dm.nwords + 1 } } ∧
        (∃ t, exec (.daymarkWord w true) s = .next t ∧ t.dm.words = s.dm.words.set s.dm.nwords w ∧
          t.dm.nwords = s.dm.nwords + 1 ∧ t.dm.locked = true ∧ t.rst = { s.rst with phase := 1 } ∧
          (∀ d, d < 34 ∨ (102 ≤ d ∧ d < 108) → s.powerBusy d = false → sget false s.pwr.on d = false →
            (d < 34 → s.map.pc.getD d .spare ≠ .fenced) → (d, 1) ∈ t.pwr.reqs) ∧
          t = { s with dm := t.dm, rst := t.rst, pwr := t.pwr, out := t.out }))) ∧
    (∀ d : BitVec 7, s.rst.por = false →
      (108 ≤ d.toNat → ∀ f, exec (.sbPowerAnswer d f) s = .next { s with cnt := (bump 0x0270 s).cnt }) ∧
      (d.toNat < 108 → s.powerBusy d.toNat = false → exec (.sbPowerAnswer d false) s = .next { s with
        cnt := (bump 0x0270 s).cnt }) ∧
      (102 ≤ d.toNat → d.toNat < 108 → s.pwr.reqs = [(d.toNat, 1)] → s.pwr.offDue = [] → s.rst.pstate ≠ 3 →
        s.flt.swapFor = [] → s.domUnwanted d.toNat = false →
        exec (.sbPowerAnswer d false) s = .next { s with
          pwr := { s.pwr with reqs := [], on := sset false s.pwr.on d.toNat true } } ∧
        (∃ t, exec (.sbPowerAnswer d true) s = .next t ∧
          State.Detected { s with pwr := { s.pwr with reqs := [] } } t (if d.toNat < 106 then 0x03 else 0x04) 8
            (if d.toNat < 106 then d.toNat - 102 else d.toNat - 106) 0xFF 0) ∧
        (sget 0 s.pwr.asked d.toNat + oneMs ≤ s.clk.ckr →
          exec (.sbPowerTimeout d) s = exec (.sbPowerAnswer d true) s) ∧
        (s.clk.ckr < sget 0 s.pwr.asked d.toNat + oneMs → exec (.sbPowerTimeout d) s = .next s)) ∧
      (d.toNat < 34 → s.pwr.reqs = [(d.toNat, 1)] → s.pwr.offDue = [] → s.rst.pstate ≠ 3 →
        s.map.pc.getD d.toNat .spare = .fenced →
        exec (.sbPowerAnswer d false) s = .next { s with
          pwr := { s.pwr with
            reqs := [(d.toNat, 0)], on := sset false (sset false s.pwr.on d.toNat true) d.toNat false
            asked := sset 0 s.pwr.asked d.toNat s.clk.ckr }
          out := s.out ++ [.power d.toNat 0] }) ∧
      (d.toNat < 34 → s.pwr.reqs = [(d.toNat, 1)] → s.pwr.offDue = [] → s.rst.pstate ≠ 3 → s.flt.swapFor = [] →
        s.map.pc.getD d.toNat .spare ≠ .fenced → s.rst.phase = 1 → ∃ t,
        exec (.sbPowerAnswer d false) s = .next t ∧ t.rst = { s.rst with phase := 2 } ∧ t.pwr.reqs = [] ∧
        t.pwr.on = sset false s.pwr.on d.toNat true ∧ t = { s with rst := t.rst, pwr := t.pwr }) ∧
      (34 ≤ d.toNat → d.toNat < 102 → s.pwr.reqs = [(d.toNat, 1)] → s.pwr.offDue = [] → s.rst.pstate ≠ 3 →
        s.flt.swapFor = [] → s.domUnwanted d.toNat = false → ∃ t,
        exec (.sbPowerAnswer d false) s = .next t ∧ t.pwr.on = sset false s.pwr.on d.toNat true ∧
        t = { s with pwr := t.pwr }) ∧
      (s.powerBusy d.toNat = false → exec (.sbPowerTimeout d) s = .next s)) ∧
    (s.rst.por = false → s.rst.brst = false → s.tw.held = false → s.clusterPowerWait = false →
      (s.rst.phase = 2 → ∃ t, exec (.clusterBistDone 0#34) s = .next t ∧
        t.rst = { s.rst with phase := 3, bistDone := true, ready := true } ∧
        (∀ p ∈ s.spareClusters, (p, 0) ∈ t.pwr.reqs) ∧ t = { s with rst := t.rst, pwr := t.pwr, out := t.out }) ∧
      (∀ (f : BitVec 34) (p : Fin 34), s.rst.phase = 2 → f.getLsbD p = true → s.map.pc.getD p .fenced ≠ .fenced →
        s.powerBusy p = false → ∃ t, exec (.clusterBistDone f) s = .next t ∧ t.rst.ready = true ∧ t.map.pc.getD p .spare = .fenced ∧
          (p.val, 0) ∈ t.pwr.reqs) ∧
      (s.rst.phase = 4 → exec (.clusterBistDone 0#34) s = .next { s with
        rst := { s.rst with phase := 3, bistDone := true, ready := true } })) ∧
    (∀ f, s.rst.phase ≠ 2 → s.rst.phase ≠ 4 → exec (.clusterBistDone f) s = .next s)

/-! ### Eclipse and the test wrapper -/

/-- An ECLIPSE descriptor that waits completes once the block is quiescent; a stopped launch or an error holds it off, and
a discard refuses it (R428, R432).
Once every record is written, Lit sectors go to Retention, clusters, Lanterns and Tender are
switched off and their flags are saved; once all of that is answered, the core clock stops and PSTATE reads Eclipse
(R429). A wake event is noted in Eclipse and on the
way into it; the block then wakes: clusters, Lanterns and Tender are powered up at the requested divisor (R476), then the
sectors are resumed, and then it runs again with its sectors Lit and its flags restored
(R430, R431). WS_EXTEST and WS_INTEST hold the block as in block reset, the other instructions do not, and leaving a
held test by WS_BYPASS, by a code that acts as it does, or by WRSTN runs a block reset; DM_READ shifts out the Daymark
(R512, R513). That WIR reads 0 after WRSTN falls and
after a code that acts as WS_BYPASS, that TESTED is kept over the reset that ends a
test, and that DM_READ ends no held test are the model's choices (notes/assumptions/35.md). -/
def Obligations.EclipseAndWrapper : Prop :=
  ∀ s : State, s.Inv → s.ring.ports.length = 8 →
    (s.rst.eclipse = none → s.rst.entered = false → exec .eclipseEntry s = .next s) ∧
    (∀ num, s.rst.eclipse = some num → s.rst.pstate = 0 → s.rst.entered = false →
      (s.quiescent = true → s.evRoom = true → s.errs = [] → ∃ t, exec .eclipseEntry s = .next t ∧
        t.rst = { s.rst with pstate := 1 } ∧ s.evq <+: t.evq ∧
        t = { s with
          rst := t.rst, evq := t.evq, kp := { s.kp with ctlRun := t.kp.ctlRun, cdone := t.kp.cdone } }) ∧
      (s.wrun = true ∨ s.quiescent = false ∨ s.errs ≠ [] ∨ s.evRoom = false → exec .eclipseEntry s = .next s)) ∧
    (∀ num e rest, s.rst.eclipse = some num → s.errs = e :: rest → e.kind = 6 → e.covered = false →
      s.rst.ready = true → s.unitsOff = false → s.flt.seqbusy = false → s.evWaiting < 68 →
      ∃ t, exec (.faultSequencerStart none) s = .next t ∧ t.rst = { s.rst with eclipse := none, pstate := 0, wakeHeld := none } ∧
        s.evq <+: t.evq) ∧
    (∀ num, s.rst.eclipse = some num → s.rst.pstate = 1 → s.rst.entered = false →
      s.entryReady = false ∨ s.errs ≠ [] → exec .eclipseEntry s = .next s) ∧
    (∀ num, s.rst.eclipse = some num → s.rst.pstate = 1 → s.rst.entered = false → s.entryReady = true →
      s.errs = [] → (∀ k < 64, ∀ p, s.psecOf k = some p → p < 68) → ∃ t,
      exec .eclipseEntry s = .next t ∧ t.rst.pstate = 1 ∧ t.rst.entered = true ∧ t.rst.eclipse = none ∧ t.clk = s.clk ∧
      (∀ k < 64, (t.secCtl k).st = if (s.secCtl k).st = .lit then .retention else (s.secCtl k).st) ∧
      (∀ k < 64, (s.secCtl k).st = .lit → ∀ p, s.psecOf k = some p → (34 + p, 2) ∈ t.pwr.reqs) ∧
      (∀ d, d < 34 ∨ (102 ≤ d ∧ d < 108) → sget false s.pwr.on d = true → (d, 0) ∈ t.pwr.reqs) ∧
      t.lanes = [] ∧ (∀ p, sget flagNone t.rst.savedCl p = (s.lane p).flags) ∧
      t.rst.savedLn = s.ln.map (·.flags) ∧ t.osura.data = s.osura.data ∧ t.buoys = s.buoys ∧ t.str = s.str ∧
      t.ring = s.ring ∧ t.log = s.log ∧ t.kp = s.kp) ∧
    (s.rst.entered = true →
      (s.pwr.reqs ≠ [] → exec .eclipseEntry s = .next s) ∧
      (s.pwr.reqs = [] → s.rst.resetHeld = false → exec .eclipseEntry s = .next { s with
        clk := { s.clk with stopped := true }, rst := { s.rst with pstate := 2, entered := false } })) ∧
    (s.rst.pstate = 1 ∨ s.rst.pstate = 2 →
      exec .sbWake s = .next { s with rst := { s.rst with wakeHeld := some true } }) ∧
    (s.rst.pstate = 0 ∨ s.rst.pstate = 3 → exec .sbWake s = .next s) ∧
    (∀ sb, s.rst.pstate = 2 → s.rst.wakeHeld = some sb → s.pwr.reqs = [] → ∃ t, exec .eclipseWake s = .next t ∧
      t.rst = { s.rst with
        pstate := 3, entered := false, resumed := t.rst.resumed, wakeSrc := sb, wakeHeld := none } ∧
      (s.clk.stopped = true → t.clk = { s.clk with stopped := false, divNow := s.clk.wanted, divTarget := none }) ∧
      (∀ d ∈ s.rst.wasOn, (d, 1) ∈ t.pwr.reqs) ∧
      (∀ d, 102 ≤ d → d < 106 → (3, d - 102) ∉ s.flt.fenced → (d, 1) ∈ t.pwr.reqs) ∧
      (∀ d, 106 ≤ d → d < 108 → (4, d - 106) ∉ s.flt.fenced → (d, 1) ∈ t.pwr.reqs) ∧
      (s.rst.wasOn ≠ [] → t.rst.resumed = false ∧ ∀ r ∈ t.pwr.reqs, r.2 = 1) ∧
      t = { s with rst := t.rst, clk := t.clk, pwr := t.pwr, out := t.out }) ∧
    (∀ d : BitVec 7, s.rst.pstate = 3 → s.rst.resumed = false → s.rst.por = false → 102 ≤ d.toNat → d.toNat < 108 →
      s.pwr.reqs = [(d.toNat, 1)] → s.pwr.offDue = [] → s.flt.swapFor = [] → s.domUnwanted d.toNat = false →
      ∃ t, exec (.sbPowerAnswer d false) s = .next t ∧ t.rst = { s.rst with resumed := true } ∧
        (∀ k ∈ s.rst.retained, ∀ p, s.psecOf k = some p → (34 + p, 3) ∈ t.pwr.reqs) ∧
        t = { s with rst := t.rst, pwr := t.pwr, out := t.out }) ∧
    (s.rst.pstate = 3 → s.rst.resumed = false → exec .eclipseWake s = .next s) ∧
    (s.rst.pstate = 3 → s.rst.resumed = true → s.pwr.reqs = [] → s.rst.resetHeld = false → ∃ t, exec .eclipseWake s = .next t ∧
      t.rst = { s.rst with pstate := 0, wasOn := [], retained := [], savedCl := [], savedLn := [] } ∧
      (∀ k ∈ s.rst.retained, (t.secCtl k).st = .lit) ∧
      (∀ k, k ∉ s.rst.retained → t.secCtl k = s.secCtl k) ∧
      (∀ n < s.ln.length, (t.lan n).flags = s.rst.savedLn.getD n flagNone) ∧ t.str.stop = .blank ∧
      t.osura.data = s.osura.data ∧ t.buoys = s.buoys ∧ t.ring = { s.ring with ports := t.ring.ports } ∧
      (s.ring.en = false → t.ring = s.ring) ∧ t.kp = s.kp) ∧
    (s.rst.pstate = 0 ∨ s.rst.pstate = 1 → exec .eclipseWake s = .next s) ∧
    (s.rst.por = false → s.unitsOff = false →
      ∀ c ∈ [(1, Instr.wsExtest), (2, Instr.wsIntest)], ∃ t, exec c.2 s = .next t ∧ t.rst.ready = false ∧
        t.tw = ⟨true, c.1, true, true⟩ ∧ t.wrun = false ∧ t.osura.data = s.osura.data ∧ t.dm = s.dm ∧ t.map = s.map) ∧
    (s.tw.held = false → ∀ c ∈ [(true, Instr.wsBypass), (false, Instr.wrstnFall)],
      exec c.2 s = .next { s with tw := { s.tw with wrstn := c.1, wir := 0 } }) ∧
    (s.tw.held = true → s.rst.por = false → s.unitsOff = false →
      ∀ c ∈ [(true, Instr.wsBypass), (false, Instr.wrstnFall)], ∃ t, exec c.2 s = .next t ∧
      t.rst.ready = false ∧ t.tw = ⟨c.1, 0, s.tw.tested, false⟩ ∧ t.wrun = false ∧ t.kp.nextseq = 0 ∧
      t.osura.data = s.osura.data ∧ t.dm = s.dm ∧ t.map = s.map) ∧
    (∃ bs, exec .dmRead s = .next { s with tw := { s.tw with wrstn := true, wir := 3 }, out := s.out ++ [.serial bs] } ∧
      bs.length = 1024 ∧ (s.dm.locked = false → ∀ b ∈ bs, b = false) ∧
      (s.dm.locked = true → ∀ i < 1024, bs.getD i false = (s.dm.words.getD (i / 32) 0#32).getLsbD (i % 32)))

/-- A doorbell within its enabled ring sets TAIL and clears the ring's fetch stop, and wakes a block that enters or is
in Eclipse; any other value is ignored and counted (R369, R370, R430). A write of DB_XFER also makes again the
completion records that a fault had held back (R445), so that only for it SYS requests and records change. -/
def Obligations.DoorbellRings : Prop :=
  ∀ (s : State) (n : Fin 3) (v : Word), s.rst.ready = true →
    ((s.kp.ring n).en = true ∧ v.toNat % 2 ^ 16 < (s.kp.ring n).size →
      ∃ t, exec (.doorbellWrite n v) s = .next t ∧
        t.kp.ring n = { s.kp.ring n with tail := v.toNat % 2 ^ 16 } ∧
        (∀ m : Fin 4, m.val ≠ n.val → t.kp.ring m = s.kp.ring m) ∧
        t.kp.fstop = s.kp.fstop.set n false ∧
        t.rst.wakeHeld = (if s.rst.pstate = 1 ∨ s.rst.pstate = 2 then some (s.rst.wakeHeld.getD false)
          else s.rst.wakeHeld) ∧
        (n.val ≠ 1 → t.kp.recWait = s.kp.recWait ∧ t.kp.recQ = s.kp.recQ ∧ t.kp.sys = s.kp.sys ∧
          t.kp.evlost = s.kp.evlost ∧ t.evq = s.evq ∧ t.cnt = s.cnt ∧ t.out = s.out ++ [.regWrote false]) ∧
        (n.val = 1 → t.kp.recWait = []) ∧
        t = { s with
          kp := { s.kp with
            work := t.kp.work, xfer := t.kp.xfer, ctl := t.kp.ctl, fstop := t.kp.fstop, recWait := t.kp.recWait
            recQ := t.kp.recQ, sys := t.kp.sys, evlost := t.kp.evlost }
          rst := { s.rst with wakeHeld := t.rst.wakeHeld }, evq := t.evq, cnt := t.cnt, out := t.out }) ∧
    (¬ ((s.kp.ring n).en = true ∧ v.toNat % 2 ^ 16 < (s.kp.ring n).size) →
      exec (.doorbellWrite n v) s = .next { bump 0x0254 s with out := s.out ++ [.regWrote false] })

/-- A ring's configuration write sets its size and EN; enabling starts the ring empty, and for the Transfer ring
RETIRE with it, for the Event ring PHASE 1. A size other than 16 to 65,536 slots, or a change of size while the ring
is enabled, is ignored and counted (R367). -/
def Obligations.RingEnableConfigures : Prop :=
  ∀ (s : State) (n : Fin 4) (v : Word), s.rst.ready = true →
    (((s.kp.ring n).en = true ∧ v.toNat % 32 ≠ (s.kp.ring n).log2) ∨
        (v.getLsbD 8 = true ∧ ¬ (4 ≤ v.toNat % 32 ∧ v.toNat % 32 ≤ 16)) →
      exec (.ringEnable n v) s = .next { bump 0x0258 s with out := s.out ++ [.regWrote false] }) ∧
    (¬ (((s.kp.ring n).en = true ∧ v.toNat % 32 ≠ (s.kp.ring n).log2) ∨
        (v.getLsbD 8 = true ∧ ¬ (4 ≤ v.toNat % 32 ∧ v.toNat % 32 ≤ 16))) →
      ∃ t, exec (.ringEnable n v) s = .next t ∧
        t.kp.ring n = (if v.getLsbD 8 = true ∧ (s.kp.ring n).en = false
          then ⟨(s.kp.ring n).base, v.toNat % 32, true, 0, 0⟩
          else ⟨(s.kp.ring n).base, v.toNat % 32, v.getLsbD 8, (s.kp.ring n).head, (s.kp.ring n).tail⟩) ∧
        (∀ m : Fin 4, m ≠ n → t.kp.ring m = s.kp.ring m) ∧
        t.kp.irqen = (if n.val = 3 then v.getLsbD 9 else s.kp.irqen) ∧
        (n.val = 1 ∧ v.getLsbD 8 = true ∧ (s.kp.ring n).en = false → t.kp.xretire = 0) ∧
        (n.val = 3 ∧ v.getLsbD 8 = true ∧ (s.kp.ring n).en = false → t.kp.evPhase = true) ∧
        (¬ (n.val = 1 ∧ v.getLsbD 8 = true ∧ (s.kp.ring n).en = false) →
          t.kp.xretire = s.kp.xretire ∧ t.kp.xdone = s.kp.xdone) ∧
        (¬ (n.val = 3 ∧ v.getLsbD 8 = true ∧ (s.kp.ring n).en = false) →
          t.evq = s.evq ∧ t.kp.evPhase = s.kp.evPhase ∧ t.kp.evOut = s.kp.evOut ∧ t.kp.evBad = s.kp.evBad ∧
            t.kp.evAgain = s.kp.evAgain ∧ t.kp.sys = s.kp.sys) ∧
        t = { s with
          kp := { s.kp with
            work := t.kp.work, xfer := t.kp.xfer, ctl := t.kp.ctl, event := t.kp.event, irqen := t.kp.irqen
            xretire := t.kp.xretire, xdone := t.kp.xdone, evPhase := t.kp.evPhase, evOut := t.kp.evOut
            evBad := t.kp.evBad, evAgain := t.kp.evAgain, sys := t.kp.sys }
          evq := t.evq, out := s.out ++ [.regWrote false] })

/-- ERING_HEAD takes the software's pointer, here while nothing waits for room in the event queue (record writes that had
faulted are then made again, R384), and
WORK_NEXTSEQ_LO loads the low half of the expected sequence number while no launch runs and the Work ring is disabled
or stopped for a sequence error, else is ignored and counted (R382, R389). -/
def Obligations.HeadAndSequenceWrites : Prop :=
  ∀ (s : State) (v : Word), s.rst.ready = true →
    (s.kp.ctlRun = [] → s.kp.descHeld = [] → ∃ t, exec (.eringHeadWrite v) s = .next t ∧
      t.kp.event = { s.kp.event with head := v.toNat % 2 ^ 16 } ∧
      (s.kp.evBad = [] → t.kp.evBad = [] ∧ t.kp.evOut = s.kp.evOut ∧ t.kp.sys = s.kp.sys ∧
        t.out = s.out ++ [.regWrote false]) ∧
      t = { s with
        kp := { s.kp with
          event := t.kp.event, evAgain := t.kp.evAgain, evBad := t.kp.evBad, evOut := t.kp.evOut, sys := t.kp.sys
          cdone := t.kp.cdone }
        out := t.out }) ∧
    (s.wrun = false ∧ (s.kp.work.en = false ∨ s.kp.seqstop = true) →
      exec (.workNextseqLo v) s = .next { s with
        kp := { s.kp with nextseq := s.kp.nextseq / 2 ^ 32 * 2 ^ 32 + v.toNat, seqstop := false }
        out := s.out ++ [.regWrote false] }) ∧
    (¬ (s.wrun = false ∧ (s.kp.work.en = false ∨ s.kp.seqstop = true)) →
      exec (.workNextseqLo v) s = .next { bump 0x0258 s with out := s.out ++ [.regWrote false] })

/-- TD_CMD on a channel that is not Paused is ignored and counted, whichever command it is; on a Paused one ABORT
ends the transfer with status ABORT, and RESUME lets it go on where it stopped, with nothing in flight of what came
before (R322, R328). The statement takes a channel to which no TND has issued in the same control cycle; such a transfer
waits again and the command meets an Idle channel (R386; the model's reading, notes/assumptions/15.md). -/
def Obligations.TenderCommands : Prop :=
  ∀ (s : State) (c : Fin 128), s.Inv → s.rst.ready = true → s.unitsOff = false →
    (s.sentNow 3 c ≠ 0 → (s.chan c).ring = none → (s.chan c).st = .busy →
      ∀ i ∈ [Instr.tdResume c, Instr.tdAbort c], ∃ t, exec i s = .next t ∧ t.chan c = Chan.idle ∧
        t.td.sentBack = s.td.sentBack ++ [(c.val, (s.chan c).x)]) ∧
    (s.sentNow 3 c = 0 → (s.chan c).st ≠ .paused → ∀ i ∈ [Instr.tdResume c, Instr.tdAbort c], ∃ t, exec i s = .next t ∧
      t = { bump 0x025C s with
        td := { s.td with cmdWas := t.td.cmdWas }, kp := { s.kp with orders := t.kp.orders }
        out := s.out ++ [.regWrote false] }) ∧
    (s.sentNow 3 c = 0 → (s.chan c).st = .paused →
      (∃ t, exec (.tdAbort c) s = .next t ∧
        (∀ d : Fin 128, t.chan d = if d = c then
          { s.chan c with st := .finished, status := 4, reads := [], writes := [], ext := [] } else s.chan d) ∧
        t = { s with
          td := { s.td with ch := t.td.ch, cmdWas := t.td.cmdWas }, kp := { s.kp with orders := t.kp.orders }
          out := s.out ++ [.regWrote false] }) ∧
      (∃ t, exec (.tdResume c) s = .next t ∧
        ((t.chan c).st = .busy ∨ (t.chan c).st = .finished) ∧ (t.chan c).fault = none ∧
        (t.chan c).x = (s.chan c).x ∧ (t.chan c).ring = (s.chan c).ring ∧ (t.chan c).off = (s.chan c).off ∧
        ((s.chan c).row ≤ (s.chan c).x.rows → (s.chan c).row ≤ (t.chan c).row) ∧
        (∀ d : Fin 128, d ≠ c → t.chan d = s.chan d) ∧
        t = { s with
          td := { s.td with ch := t.td.ch, cmdWas := t.td.cmdWas }, osura := { s.osura with q := t.osura.q }
          kp := { s.kp with orders := t.kp.orders }, out := s.out ++ [.regWrote false] }))

/-- LOG_CFG.EN switches the Logbook: enabling makes every granule of a Lit sector dirty in both areas and no other,
with the bitmap valid and no mark; disabling drops HAVEMARK and stops what is being mirrored, and a close whose work is
done completes at once, while one whose work still runs stays (R403, R404, R356). That disabling also drops the area
writes that no port has taken, and forgets those a port has, is the model's choice (notes/assumptions/28.md). -/
def Obligations.LogbookSwitches : Prop :=
  ∀ (s : State) (v : Word), s.rst.ready = true →
    (v.getLsbD 0 = true → s.log.en = false → ∃ t, exec (.logEnable v) s = .next t ∧
      t.log.en = true ∧ t.log.bitmapV = true ∧ t.log.haveMark = false ∧ t.log.rate = v.toNat / 2 % 128 ∧
      t.log.epoch = v.toNat / 65536 ∧
      (∀ g < 8192, sget false t.log.dirtyA g = ((s.secCtl (g / 128)).st == .lit) ∧
        sget false t.log.dirtyB g = ((s.secCtl (g / 128)).st == .lit)) ∧
      t = { s with
        log := { s.log with
          en := true, rate := t.log.rate, epoch := t.log.epoch, dirtyA := t.log.dirtyA, dirtyB := t.log.dirtyB
          bitmapV := true, haveMark := false, areaOpen := false, openB := t.log.openB, aborted := none
          restorable := false }
        out := s.out ++ [.regWrote false] }) ∧
    (v.getLsbD 0 = false → s.log.en = true → s.log.close = none → ∃ t, exec (.logDisable v) s = .next t ∧
      t.log.en = false ∧ t.log.haveMark = false ∧ t.log.pend = [] ∧ t.log.reading = [] ∧
      t.mem.logQ = s.mem.logQ.filter (fun r => r.who.restore) ∧
      t.log.rate = v.toNat / 2 % 128 ∧ t.log.epoch = v.toNat / 65536 ∧
      t = { s with
        log := { s.log with
          en := false, rate := t.log.rate, epoch := t.log.epoch, haveMark := false, sealedIn := none, pend := []
          reading := [], torn := [], staged := [], restorable := false }
        mem := { s.mem with logQ := t.mem.logQ, wr := s.mem.wr.map (fun x => { x with who := x.who.stale }) }
        osura := { s.osura with q := t.osura.q }, out := s.out ++ [.regWrote false] }) ∧
    (∀ c, s.log.close = some c → v.getLsbD 0 = false → s.log.en = true → s.evRoom = true →
      ∃ t, exec (.logDisable v) s = .next t ∧ t.log.en = false ∧ t.log.haveMark = false ∧ t.log.pend = [] ∧
      (s.belowDone c.seq = true → t.log.close = none ∧ t.logClosing = false) ∧
      (s.belowDone c.seq = false → c.phase ≠ 4 → t.log.close = some c) ∧
      t = { s with
        log := t.log, osura := { s.osura with q := t.osura.q }
        mem := { s.mem with logQ := t.mem.logQ, wr := t.mem.wr }
        ring := t.ring, out := t.out, cnt := t.cnt
        kp := t.kp, evq := t.evq }) ∧
    (v.getLsbD 0 = s.log.en → ∀ i ∈ [Instr.logEnable v, Instr.logDisable v],
      exec i s = .next { s with
        log := { s.log with rate := v.toNat / 2 % 128, epoch := v.toNat / 65536 }
        out := s.out ++ [.regWrote false] })

/-- A restore starts only on a block at rest, with the two mark records' reads; on any other RERR is BUSY and nothing
else changes (R409). RESTORE_DIRTY and RESTORE_FULL differ in what they will write. -/
def Obligations.RestoreStarts : Prop :=
  ∀ s : State, s.rst.ready = true →
    ((s.wrun = true ∨ s.asyncQuiet = false ∨ s.ln.any (fun l => !l.q.isEmpty) = true ∨ s.flt.swap = true ∨
        s.log.rbusy = true) →
      ∀ i ∈ [Instr.restoreDirty, Instr.restoreFull],
        exec i s = .next { s with log := { s.log with rerr := 1 }, out := s.out ++ [.regWrote false] }) ∧
    (¬ (s.wrun = true ∨ s.asyncQuiet = false ∨ s.ln.any (fun l => !l.q.isEmpty) = true ∨ s.flt.swap = true ∨
        s.log.rbusy = true) →
      ∀ i ∈ [Instr.restoreDirty, Instr.restoreFull], ∃ t, exec i s = .next t ∧
        t.log.rbusy = true ∧ t.log.rerr = 0 ∧
        (∃ r, t.log.restore = some r ∧ r.phase = 0 ∧ (r.full = true ↔ i = Instr.restoreFull)) ∧
        (∃ qs, t.mem.logQ = s.mem.logQ ++ qs ∧ ∀ q ∈ qs, q.wr = none ∧ ∃ b o, q.who = .restoreRec b o) ∧
        t = { s with
          log := { s.log with rbusy := true, rerr := 0, restore := t.log.restore }
          mem := { s.mem with logQ := t.mem.logQ }, out := s.out ++ [.regWrote false] })

/-- BIST_CMD with GO starts a test of a backed Lit sector of an idle block, and else sets REFUSED; without GO nothing
happens (R511). That the sector leaves Lit and reads as Dark while it is tested, and that an accepted GO clears REFUSED
and PASS, is the model's choice (notes/assumptions/20.md). -/
def Obligations.BistStartsOrRefuses : Prop :=
  ∀ (s : State) (v : Word), s.rst.ready = true →
    (v.getLsbD 6 = false → exec (.bistCmd v) s = .next { s with out := s.out ++ [.regWrote false] }) ∧
    (v.getLsbD 6 = true →
      (s.wrun = true ∨ (∃ x ∈ s.td.ch, x.2.st ≠ .idle) ∨ (∃ l ∈ s.ln, l.prods ≠ [] ∨ l.q ≠ []) ∨
        s.secOpen (v.toNat % 64) = false ∨ s.bist.busy = true) →
      exec (.bistCmd v) s = .next { s with
        bist := { s.bist with refused := true }, out := s.out ++ [.regWrote false] }) ∧
    (v.getLsbD 6 = true →
      ¬ (s.wrun = true ∨ (∃ x ∈ s.td.ch, x.2.st ≠ .idle) ∨ (∃ l ∈ s.ln, l.prods ≠ [] ∨ l.q ≠ []) ∨
        s.secOpen (v.toNat % 64) = false ∨ s.bist.busy = true) →
      ∃ t, exec (.bistCmd v) s = .next t ∧ (t.secCtl (v.toNat % 64)).st = .lighting ∧
        t = { s with
          bist := ⟨true, false, false, v.toNat % 64, s.bist.pass, s.bist.sec⟩
          pwr := { s.pwr with lightOn := s.pwr.lightOn ++ [(v.toNat % 64, true)] }
          kp := { s.kp with orders := t.kp.orders }, osura := { s.osura with secs := t.osura.secs }, out := s.out ++ [.regWrote false] })

/-- TRACE_CFG takes MODE and WRAP, clears ERR by a 1, and restarts a stopped trace at its base (R510). FLT_UNFENCE
releases one fenced port and starts its abort handshake; a port that is not fenced, or was not before
this control cycle, in which the sequencer's fencing lands last (R385), is ignored and counted (R421). -/
def Obligations.TraceAndUnfence : Prop :=
  ∀ (s : State) (v : Word), s.rst.ready = true →
    (∃ t, exec (.traceRestart v) s = .next t ∧
      t.trc.mode = v.toNat % 4 ∧ t.trc.wrap = v.getLsbD 2 ∧ t.trc.err = (s.trc.err && !v.getLsbD 4) ∧
      t.trc.stopped = (s.trc.stopped && !v.getLsbD 3) ∧
      t.trc.ptr = (if s.trc.stopped && v.getLsbD 3 then s.trc.actBase else s.trc.ptr) ∧
      t = { s with
        trc := { s.trc with
          mode := t.trc.mode, wrap := t.trc.wrap, err := t.trc.err, stopped := t.trc.stopped, ptr := t.trc.ptr
          busy := t.trc.busy }
        osura := { s.osura with q := t.osura.q }, out := s.out ++ [.regWrote false] }) ∧
    (s.unitsOff = false → v.toNat / 8 % 4 = 1 → s.mayUnfence 7 (v.toNat % 8) = true → v.toNat % 8 < 4 → s.ln.length = 4 →
      ∃ t, exec (.fltUnfence v) s = .next t ∧ (7, v.toNat % 8) ∉ t.flt.fenced ∧
        (t.lan (v.toNat % 8)).cause = 0 ∧ ((s.lan (v.toNat % 8)).present = true → (t.lan (v.toNat % 8)).abort = true) ∧
        (∀ n, n ≠ v.toNat % 8 → t.lan n = s.lan n) ∧
        t = { s with
          flt := { s.flt with fenced := s.flt.fenced.filter (· != (7, v.toNat % 8)) }, ln := t.ln
          out := s.out ++ [.regWrote false] }) ∧
    (s.unitsOff = false → v.toNat / 8 % 4 = 2 → s.mayUnfence 8 (v.toNat % 8) = true → s.ring.ports.length = 8 →
      ∃ t, exec (.fltUnfence v) s = .next t ∧ (8, v.toNat % 8) ∉ t.flt.fenced ∧
        (t.rport (v.toNat % 8)).fenced = false ∧ (t.rport (v.toNat % 8)).abort = true ∧
        (∀ n, n ≠ v.toNat % 8 → t.rport n = s.rport n) ∧
        t = { s with
          flt := { s.flt with fenced := s.flt.fenced.filter (· != (8, v.toNat % 8)) }
          ring := { s.ring with ports := t.ring.ports }, out := s.out ++ [.regWrote false] }) ∧
    ((s.unitsOff = true ∨ (v.toNat / 8 % 4 = 1 ∧ s.mayUnfence 7 (v.toNat % 8) = false) ∨
        (v.toNat / 8 % 4 = 1 ∧ 4 ≤ v.toNat % 8) ∨
        (v.toNat / 8 % 4 = 2 ∧ s.mayUnfence 8 (v.toNat % 8) = false)) →
      exec (.fltUnfence v) s = .next { bump 0x0258 s with out := s.out ++ [.regWrote false] }) ∧
    (s.unitsOff = false → (v.toNat / 8 % 4 = 0 ∨ v.toNat / 8 % 4 = 3) →
      exec (.fltUnfence v) s = .next { s with out := s.out ++ [.regWrote false] })

/-- REGISTER_WRITE: an address with no register is answered with RERR and changes nothing (R443); a read-only
register ignores the write (R488); the settings named here take their fields (R66, R68, R84, R203, R301, R495); and at
the address of a register that has a row of its own, the write is that row. -/
def Obligations.RegisterWrites : Prop :=
  ∀ (s : State) (v : Word), s.rst.ready = true →
    (∀ a : BitVec 20, s.regValue (4 * a.toNat) = none → aliasOf (4 * a.toNat) = none →
      exec (.registerWrite a v) s = .next { s with out := s.out ++ [.regWrote true] }) ∧
    (∀ a ∈ [0x0000, 0x0004, 0x0008, 0x0020, 0x0024, 0x100C, 0x102C, 0x1030, 0x104C, 0x1070, 0x3004, 0x3010, 0x3024,
        0x4000, 0x4020, 0x4040, 0x4080, 0x5010, 0x5028, 0x502C, 0x5030, 0x5040, 0x6000, 0x6004, 0x6008, 0x6044, 0x8000,
        0x8010, 0x8028, 0x9014, 0x9018],
      exec (.registerWrite (BitVec.ofNat 20 (a / 4)) v) s = .next { s with out := s.out ++ [.regWrote false] }) ∧
    (v.toNat % 4 ≠ 3 → exec (.registerWrite 0x01400#20 v) s = .next { s with
      osura := { s.osura with sharePend := some (v.toNat % 4) }, out := s.out ++ [.regWrote false] }) ∧
    exec (.registerWrite 0x01402#20 v) s = .next { s with
      osura := { s.osura with scrubPace := v.toNat % 2 ^ 12, ceRetire := v.toNat / 2 ^ 16 % 2 ^ 8 }
      out := s.out ++ [.regWrote false] } ∧
    exec (.registerWrite 0x01408#20 v) s = .next { s with
      buoys := { s.buoys with stallLog2 := v.toNat % 32 }, out := s.out ++ [.regWrote false] } ∧
    exec (.registerWrite 0x01810#20 v) s = .next { s with
      trap := { s.trap with
        mode := if v.toNat % 4 = 3 then s.trap.mode else v.toNat % 4
        resume := v.getLsbD 2, slots := v.toNat / 8 % 32
        was := if s.trap.setAt = s.clk.ckr / 8 + 1 then s.trap.was else (s.trap.mode, s.trap.resume, s.trap.slots)
        setAt := s.clk.ckr / 8 + 1 }
      out := s.out ++ [.regWrote false] } ∧
    exec (.registerWrite 0x01C00#20 v) s = .next { s with
      lnCfg := ⟨v.toNat % 16, some (s.ctlCycle, s.lnHoldNow)⟩, out := s.out ++ [.regWrote false] } ∧
    (∀ n : Fin 8, s.map.grp.length = 8 → exec (.registerWrite (BitVec.ofNat 20 (0x1028 + n)) v) s = .next { s with
      map := { s.map with grp := s.map.grp.set n v }, out := s.out ++ [.regWrote false] }) ∧
    (∀ n : Fin 3, exec (.registerWrite (BitVec.ofNat 20 (0x800 + n)) v) s = exec (.doorbellWrite n v) s) ∧
    (∀ n : Fin 4, exec (.registerWrite (BitVec.ofNat 20 (0x402 + 8 * n)) v) s = exec (.ringEnable n v) s) ∧
    exec (.registerWrite 0x0041B#20 v) s = exec (.eringHeadWrite v) s ∧
    exec (.registerWrite 0x00006#20 v) s = exec (.workNextseqLo v) s ∧
    exec (.registerWrite 0x00004#20 1#32) s = exec .keeperPause s ∧
    exec (.registerWrite 0x00004#20 2#32) s = exec .keeperResume s ∧
    exec (.registerWrite 0x01409#20 v) s = exec (.buoySel v) s ∧
    exec (.registerWrite 0x01818#20 v) s = exec (.engFlagsWrite v) s ∧
    exec (.registerWrite 0x02408#20 v) s = exec (.moSel v) s ∧
    exec (.registerWrite 0x00C0B#20 v) s = exec (.fltUnfence v) s ∧
    exec (.registerWrite 0x02800#20 v) s = exec (.logEnable v) s

/-! ### The bundle stream -/

/-- A bundle whose one slot is a CTL operation that computes a scalar (LI, and ADD to SLTU, R97) issues when nothing
holds the stream: its scalar takes the result, computed from the scalars before the bundle, and for MUL takes it two
issue cycles later (R98, R111); the pc moves behind the bundle, and one core cycle passes. What an earlier bundle has
left to land is written in its write cycle: a scalar, and a cluster's flags (R197). No other scalar, no tile, mask or
flag, no buoy, no byte of Osura and no queue of the Keeper changes. -/
def Obligations.ScalarBundleIssues : Prop :=
  ∀ (s : State) (b : Bundle) (len n : Nat) (f : CtlSlot), s.Inv → s.IssueReady b len [(n, .ctl f)] →
    1 ≤ f.op → f.op ≤ 0x0D → s.loopsOver s.str.pc = [] →
    ∃ t v m, v = (if f.op = 1 then f.imm
        else ctlArith f.op (s.scal f.sa) (if f.immsel then f.imm else s.scal f.sb)) ∧
      m = (if f.op = 4 then s.str.scal else sset 0#64 s.str.scal f.sd (BitVec.ofNat 64 v)) ∧
      exec .bundleIssue s = .next t ∧
      (s.str.scalQ = [] → t.str.scal = m ∧
        t.str.scalQ = if f.op = 4 then [(s.str.icyc + 2, f.sd, some v)] else []) ∧
      (∀ c r w, s.str.scalQ = [(c, r, some w)] → c ≤ s.str.icyc → t.str.scal = sset 0#64 m r (BitVec.ofNat 64 w)) ∧
      (s.str.flagQ = [] → t.lanes = s.lanes ∧ t.str.flagQ = []) ∧
      (∀ c cl p fl, s.str.flagQ = [(c * 64 + cl, fl)] → cl < 64 → c ≤ s.str.icyc → s.pcOf cl = some p →
        t.str.flagQ = [] ∧ (t.lane p).flags = (s.lane p).flags ||| fl ∧ (t.lane p).tiles = (s.lane p).tiles ∧
        (t.lane p).masks = (s.lane p).masks ∧ ∀ q, q ≠ p → t.lane q = s.lane q) ∧
      t.str.pc = s.str.pc + len ∧ t.str.icyc = s.str.icyc + 1 ∧ t.clk = s.clk.advance ∧
      t.str.launch = s.str.launch ∧ t.str.stop = s.str.stop ∧ t.str.tags = s.str.tags ∧
      t = { s with
        clk := t.clk, str := t.str, lanes := t.lanes, cnt := t.cnt, trc := t.trc, ln := t.ln
        mem := { s.mem with bucket := t.mem.bucket, held := t.mem.held }
        td := { s.td with ch := t.td.ch }, flt := { s.flt with lastFog := t.flt.lastFog }
        ring := { s.ring with ports := t.ring.ports, epochRun := t.ring.epochRun }
        osura := { s.osura with q := t.osura.q, secs := t.osura.secs } }

/-- A bundle whose one slot is a vector operation with a tile for destination issues when nothing holds the stream, no
result is held back and the NaN trap is off: in every logical cluster of the launch the operation's containers go into
the physical cluster that backs it, computed from the state before the bundle; the flags of its elements wait for
their write cycles, and the destination's tag takes the result's shape and format (R98, R125, R197, R245). That the
containers stand in the tile as the bundle issues is the model's choice: log entry 8 (by R111 they are written in the
write cycles). No other tag, no mask, no flag, no lane of another cluster, no scalar, no buoy and no byte of Osura changes. Every decoded
destination has its containers below 2^20, every decoded latency is at least 2, and every map of clusters is one to
one and has at most 32, as the premises say. -/
def Obligations.VectorBundleIssues : Prop :=
  ∀ (s : State) (b : Bundle) (len n td rows cols : Nat) (q : VPlan) (g : Fmt), s.Inv →
    s.IssueReady b len [(n, .vec q)] → q.dest = .tile td rows cols g → s.str.wb = [] → s.trapNow.1 = 0 →
    s.str.scalQ = [] → s.str.flagQ = [] → s.loopsOver s.str.pc = [] → 2 ≤ q.lat → s.lc ≤ 32 →
    (∀ cl < s.lc, ∀ x ∈ (q.run s.vctx cl).1.cells, x.1 < 2 ^ 20) →
    (∀ c < s.lc, ∀ c' < s.lc, s.pcOf c = s.pcOf c' → s.pcOf c = none ∨ c = c') →
    ∃ t, exec .bundleIssue s = .next t ∧
      (∀ cl < s.lc, ∀ p, s.pcOf cl = some p → t.lane p = { s.lane p with
        tiles := ssetAll 0#32 (s.lane p).tiles
          ((q.run s.vctx cl).1.cells.map (fun x => (x.1, BitVec.ofNat 32 x.2)))
        latches := (t.lane p).latches }) ∧
      (∀ p, (∀ cl < s.lc, s.pcOf cl ≠ some p) → t.lane p = s.lane p) ∧
      (∀ c, ∀ cl < s.lc, sget flagNone t.str.flagQ (c * 64 + cl) =
        (((q.run s.vctx cl).1.fls.filter (fun e =>
          s.str.icyc + q.lat - 1 + q.writeCycle s.prof s.tagOf (n == 1 || n == 2) e.1 e.2.1 == c)).map (·.2.2)).foldl
            (· ||| ·) flagNone) ∧
      t.str.tags = s.str.tags.set td (some ⟨rows, cols, g⟩) ∧ t.str.scal = s.str.scal ∧
      t.str.pc = s.str.pc + len ∧ t.str.icyc = s.str.icyc + 1 ∧ t.clk = s.clk.advance ∧
      t.str.launch = s.str.launch ∧ t.str.stop = s.str.stop ∧
      t = { s with
        lanes := t.lanes, clk := t.clk, str := t.str, cnt := t.cnt, trc := t.trc, ln := t.ln
        mem := { s.mem with bucket := t.mem.bucket, held := t.mem.held }, td := { s.td with ch := t.td.ch }
        flt := { s.flt with lastFog := t.flt.lastFog }
        ring := { s.ring with ports := t.ring.ports, epochRun := t.ring.epochRun }
        osura := { s.osura with q := t.osura.q, secs := t.osura.secs } }

/-- A bundle that fails a check at issue stops the stream before it, with the cause of its first failed check, and nothing
in it executes (R113, R114): E_ENCODING where a slot cannot be decoded, and among the checks of decoded slots E_BOUNDS,
E_SHAPE, E_HAZARD and E_CHAIN in that order, E_BOUNDS, E_SHAPE and E_CHAIN with the first slot that fails it; a bundle that passes them and waits
for nothing stops with E_BOUNDS on an ARM that its second check refuses (R72), else with E_DARK on an access to a sector
that is not open (R61). The stop is terminal, is recorded though a pause has been asked for, names the bundle's address
and what a branch has pending, and queues WORK_DONE with the cause (R115, R116). No scalar, tile, mask, flag, tag, buoy
or byte of Osura changes. The statement takes a stream of which no earlier result is still to land. -/
def Obligations.FailedChecksStop : Prop :=
  ∀ (s : State) (b : Bundle) (len : Nat), s.Inv → s.StreamClear →
    (s.str.branch = none → s.str.earliest ≤ s.clk.cyc) → s.str.pc % 4 = 0 → s.str.pc < 2 ^ 29 →
    s.bundleHere = some (b, len) → s.str.scalQ = [] → s.str.flagQ = [] → s.evRoom = true →
    (∀ a, checkBundle s b len = .error a → a.cause ∈ [0x06, 0x07, 0x08, 0x09, 0x0B] ∧
      ∃ t, exec .bundleIssue s = .next t ∧ s.StoppedBy t a) ∧
    (∀ n, decodeAll s.prof b = .error n → ∃ a, checkBundle s b len = .error a ∧ a.cause = 0x06) ∧
    (∀ all run a, decodeAll s.prof b = .ok all → run = all.filter (fun x => !b.suppressed s x.1) →
      checkBundle s b len = .error a →
      (a.cause = 0x07 → a.slot = (run.find? (fun x => boundsBad s x.2)).map (·.1)) ∧
      (a.cause ∈ [0x08, 0x09, 0x0B] → ∀ x ∈ run, boundsBad s x.2 = false) ∧
      (a.cause = 0x08 → a.slot = (run.find? (fun x => shapeBad s x.2)).map (·.1)) ∧
      (a.cause ∈ [0x09, 0x0B] → ∀ x ∈ run, shapeBad s x.2 = false) ∧
      (a.cause = 0x0B → a.slot = (run.find? (fun x => chainBad s x.2)).map (·.1) ∧
        hazardIn s b (run.map (fun x => slotUse s x.1 x.2)) = none)) ∧
    (∀ ops x, checkBundle s b len = .ok ops →
      (∀ y ∈ ops, buoysBlocking s y.2 = [] ∧ cowBlocking s y.2 = [] ∧ unitBlocking s y.2 = false) →
      (ops.find? (fun y => armBad s y.2) = some x →
        ∃ t, exec .bundleIssue s = .next t ∧ s.StoppedBy t ⟨0x07, some x.1, 0, 0, 0, 0⟩) ∧
      (ops.find? (fun y => armBad s y.2) = none → ops.find? (fun y => darkBad s y.2) = some x →
        ∃ t, exec .bundleIssue s = .next t ∧ s.StoppedBy t ⟨0x0A, some x.1, 0, 0, 0, 0⟩))

/-- BUNDLE_FETCH asks for the next bytes of the program in order, at most 128 of them and at most 1 KiB ahead of
issue: it enters their bank words in the window of the present period and moves on behind them, once in a core cycle
(R101, R40). It does not move the pc, and no byte is there before a bank has served it. -/
def Obligations.FetchReadsAhead : Prop :=
  ∀ s : State, s.wrun = true → s.streamStopped = false → s.str.ended = false → s.rst.ready = true →
    s.clk.stopped = false → s.str.stopWait = none → s.str.pc % 4 = 0 → s.str.loopBuf = LoopBuf.empty →
    s.fetchComing s.str.pc = true →
    (s.str.fetchAt ≠ s.clk.cyc + 1 → s.fetchLen s.str.fetchPc (s.str.pc + 1024) ≠ 0 →
      ∃ t n w, exec .bundleFetch s = .next t ∧
        0 < n ∧ n ≤ 128 ∧ s.str.fetchPc + n ≤ s.str.pc + 1024 ∧ s.runOpen s.str.fetchPc n = true ∧
        (∀ x ∈ w, x.period = s.period ∧ x.kind = .fetch s.str.fetchGen ∧ x.cl = none) ∧
        (∀ a, (∃ x ∈ w, x.word = a) ↔ s.str.fetchPc / 32 ≤ a ∧ a ≤ (s.str.fetchPc + n - 1) / 32) ∧
        t = { s with str := { s.str with
          fetchPc := s.str.fetchPc + n, window := s.str.window ++ w, fetchAt := s.clk.cyc + 1 } }) ∧
    (s.str.fetchAt ≠ s.clk.cyc + 1 → s.fetchLen s.str.fetchPc (s.str.pc + 1024) = 0 →
      exec .bundleFetch s = .next { s with str := { s.str with fetchAt := s.clk.cyc + 1 } }) ∧
    (s.str.fetchAt = s.clk.cyc + 1 → exec .bundleFetch s = .next s)

/-- STREAM_WINDOW_SERVICE serves, in a stream-owned cycle, what past windows have asked for: a read alone in its
window brings the bank word at its address, read through the code of R55, to the SLD or the fetch that asked for it
(R40, R97, R101), and an SLD's scalar is written no earlier than its write cycle (R98). In a cycle that the
asynchronous side owns, and while no past period has a window, nothing changes. -/
def Obligations.WindowServed : Prop :=
  ∀ s : State,
    (s.rst.ready = false ∨ s.clk.stopped = true ∨ asyncOwns s.osura.share s.clk.cyc = true →
      exec .streamWindowService s = .next s) ∧
    (s.str.due = [] → (∀ x ∈ s.str.window, s.period ≤ x.period) → exec .streamWindowService s = .next s) ∧
    (s.BanksOpen → ∃ t, exec .streamWindowService s = .next t ∧
      t.str.window = s.str.window.filter (fun y => s.period ≤ y.period)) ∧
    (∀ (x : WinAcc) (r a d ps v : Nat), s.BanksOpen → s.str.due = [] → s.str.window = [x] → x.period < s.period →
      x.kind = .sld r a d → x.word = a / 32 → a % 8 = 0 → a < 2 ^ 29 → s.str.scalQ = [(d, r, none)] →
      s.servesStream (a / 32) = true → s.psecOf (secOf a) = some ps → (∀ i < 4, ∃ w, s.eccWord (physAddr ps (a / 32 * 32) / 8 + i) = .clean w) →
      s.eccWord (physAddr ps a / 8) = .clean v →
      ∃ t, exec .streamWindowService s = .next t ∧
        t.str.scal = (if d < s.str.icyc then sset 0#64 s.str.scal r (BitVec.ofNat 64 v) else s.str.scal) ∧
        t.str.scalQ = (if d < s.str.icyc then [] else [(d, r, some v)]) ∧
        t = { s with
          str := { s.str with
            window := [], scal := t.str.scal, scalQ := t.str.scalQ, servedAt := s.clk.cyc + 1
            servedBanks := t.str.servedBanks }
          cnt := t.cnt }) ∧
    (∀ x : WinAcc, s.BanksOpen → s.str.due = [] → s.str.window = [x] → x.period < s.period →
      x.kind = .fetch s.str.fetchGen → s.servesStream x.word = true →
      ∃ t, exec .streamWindowService s = .next t ∧
        t.str.fetched = s.str.fetched ++ cellsAt (x.word * 32)
          (s.fetchView (x.word * 32) (s.readOsura false (x.word * 32) 32).1) ∧
        State.ReadsOnly { s with
          str := { s.str with
            window := [], fetched := t.str.fetched, servedAt := s.clk.cyc + 1, servedBanks := t.str.servedBanks } } t)

/-- An SST that is served stores its eight bytes and the check byte of R54 in the one ECC word, marks its granule dirty
in both areas, and leaves every other byte of Osura as it was (R48, R54, R398). -/
def Obligations.StoreServed : Prop :=
  ∀ (s : State) (x : WinAcc) (a ps v : Nat), s.Inv → s.BanksOpen → s.str.due = [] → s.str.window = [x] →
    x.period < s.period → x.kind = .sst (cellsAt a (toBytes 8 v)) → a % 8 = 0 → a < 2 ^ 29 → v < 2 ^ 64 →
    s.servesStream (a / 32) = true → x.word = a / 32 → s.psecOf (secOf a) = some ps →
    ∃ t, exec .streamWindowService s = .next t ∧
      t.rawWord (physAddr ps a / 8) = v ∧ t.eccWord (physAddr ps a / 8) = .clean v ∧
      (∀ p, ¬ (physAddr ps a ≤ p ∧ p < physAddr ps a + 8) → sget 0#8 t.osura.data p = sget 0#8 s.osura.data p) ∧
      (∀ w, w ≠ physAddr ps a / 8 → sget 0#8 t.osura.check w = sget 0#8 s.osura.check w) ∧
      sget false t.log.dirtyA (granuleOf a) = true ∧ sget false t.log.dirtyB (granuleOf a) = true ∧
      t = { s with
        str := { s.str with
          window := [], shadow := t.str.shadow, servedAt := s.clk.cyc + 1, servedBanks := t.str.servedBanks }
        cnt := t.cnt, osura := { s.osura with data := t.osura.data, check := t.osura.check }
        log := { s.log with dirtyA := t.log.dirtyA, dirtyB := t.log.dirtyB } }

/-- PROD_COUNT counts a PROD once every earlier stream store has been served: an armed buoy's P falls by one, and a
Filling buoy whose P reaches 0 becomes Ready, or Draining where its consumers have all released it already; on a Free
buoy it is a misuse (R74, R75, R79, R87). FENCE_COMPLETE ends a fence that is over: what stores before it replaced is
seen from the next jump on (R50, R100, R107). Until then nothing changes. Both complete under these premises alone. -/
def Obligations.ProdAndFence : Prop :=
  (∀ (s : State) (n : Fin 256) (p : Nat × Nat), s.Inv → s.str.prods.find? (fun q => q.1 == n.val) = some p →
    (s.storesDone p.2 = false → exec (.prodCount n) s = .next s) ∧
    (s.storesDone p.2 = true → s.commanded n = false → (s.buoy n).st ≠ .free →
      ∃ t, exec (.prodCount n) s = .next t ∧
        t.str.prods = s.str.prods.erase p ∧
        t.buoy n = { s.buoy n with
          p := (s.buoy n).p - 1
          st := if (s.buoy n).st = .filling ∧ (s.buoy n).p ≤ 1 then
              (if (s.buoy n).consume ≠ 0 ∧ (s.buoy n).c = 0 then .draining else .ready)
            else if (s.buoy n).st = .ready ∧ (s.buoy n).consume ≠ 0 ∧ (s.buoy n).c = 0 then .draining
            else (s.buoy n).st } ∧
        (∀ m, m ≠ n.val → t.buoy m = s.buoy m) ∧
        t = { s with
          str := { s.str with prods := t.str.prods, cmds := t.str.cmds }
          buoys := { s.buoys with b := t.buoys.b, before := t.buoys.before, changedAt := t.buoys.changedAt } }) ∧
    (s.storesDone p.2 = true → s.commanded n = false → (s.buoy n).st = .free → s.buoys.errValid = false →
      ∃ t, exec (.prodCount n) s = .next t ∧ t = { s with
        str := { s.str with prods := s.str.prods.erase p, cmds := t.str.cmds }
        buoys := { s.buoys with
          errBuoy := n, errKind := 2, errSource := 1, errUncov := false, errValid := true } })) ∧
  (∀ (s : State) (n : Fin 256), s.str.prods.find? (fun q => q.1 == n.val) = none →
    exec (.prodCount n) s = .next s) ∧
  (∀ s : State,
    (s.str.fence = true → s.str.ended = false → s.fenceDone = true →
      exec .fenceComplete s = .next { s with str := { s.str with
        fence := false, shadow := []
        fenced := s.str.fenced ++ s.str.shadow.filter (fun c => !s.str.fenced.any (·.1 == c.1)) } }) ∧
    (¬ (s.str.fence = true ∧ s.str.ended = false ∧ s.fenceDone = true) → exec .fenceComplete s = .next s))

/-- END_COMPLETE ends the launch once the last fence is over and what the program started has ended: WORK_DONE with
status DONE is queued for the descriptor, and the stream is idle with its stop registers naming DONE (R100, R374). -/
def Obligations.EndCompletes : Prop :=
  ∀ (s : State) (l : Launch), s.str.launch = some l → s.str.ended = true → s.streamStopped = false →
    s.evRoom = true → s.str.window = [] → s.str.due = [] → s.osura.cb = [] → s.str.carry = [] → s.str.movs = [] →
    s.str.scalQ = [] → s.str.flagQ = [] → s.str.prods = [] → s.str.farHits = [] → s.str.stopWait = none →
    s.trap.found = none → s.str.trapWait = 0 → s.str.bankStall = 0 → s.str.spareStall = 0 → s.programQuiet = true →
    (∀ r ∈ s.osura.q, ∀ pc cl w age, r.who ≠ .flush pc cl w age) →
    ∃ t, exec .endComplete s = .next t ∧
      t.evq = s.evq ++ [⟨1, 1, l.index, s.clk.ticks % 2 ^ 32, l.seq, 1, l.user, 0, 0⟩] ∧
      t.str.launch = none ∧ t.str.stop = { StopRec.blank with pc := s.str.pc, cause := 1 } ∧
      t.str.scal = s.str.scal ∧ t.str.tags = s.str.tags ∧ t.str.ended = false ∧ t.str.fence = false ∧
      t = { s with str := t.str, evq := t.evq, trap := { s.trap with found := none, hit := false } }

/-- CB_ENTRY_TIMEOUT sends an entry to its flush queue 64 cycles after it was allocated: it leaves the buffer and asks
for its own bytes, and no other entry moves (R48). -/
def Obligations.EntryFlushes : Prop :=
  ∀ (s : State) (pc : Fin 34) (e : CbEntry) (es : List CbEntry), s.Inv → e.word < 2 ^ 24 →
    sget [] s.osura.cb pc.val = e :: es → (∀ x ∈ e :: es, x.must = false) → (∀ x ∈ es, x.word ≠ e.word) →
    s.flushSpace pc = true →
    (e.at_ + 64 ≤ s.clk.cyc → ∃ t, exec (.cbEntryTimeout pc (BitVec.ofNat 24 e.word)) s = .next t ∧
      sget [] t.osura.cb pc.val = es ∧
      (∃ r, t.osura.q = s.osura.q ++ [r] ∧ r.agent = .flush ∧ r.who = .flush pc e.cl e.word e.age ∧
        r.addr = e.word * 32 ∧ r.wr = some e.bytes) ∧
      t = { s with osura := { s.osura with cb := t.osura.cb, q := t.osura.q } }) ∧
    (s.clk.cyc < e.at_ + 64 → exec (.cbEntryTimeout pc (BitVec.ofNat 24 e.word)) s = .next s)

/-- KEEPER_CMD: PAUSE asks a running stream to stop before its next bundle, and is ignored on any other; the stop is
recorded with cause PAUSE unless an error falls on that bundle, and a waiting ECLIPSE is refused by it (R115, R428).
RESUME clears
a resumable stop, so that the stream runs on from where it stood, and is ignored on any other (R118, R375). -/
def Obligations.PauseAndResume : Prop :=
  ∀ s : State, s.rst.ready = true →
    (s.wrun = true → s.streamStopped = false → s.str.ended = false →
      ∃ t, exec .keeperPause s = .next t ∧ t = { s with
        str := { s.str with pauseReq := true }, kp := { s.kp with orders := t.kp.orders }
        out := s.out ++ [.regWrote false] }) ∧
    (∀ b len ops, State.IssueReady { s with str := { s.str with pauseReq := false } } b len ops →
      s.str.pauseReq = true → s.evRoom = true →
      (∀ x ∈ ops, armBad s x.2 = false ∧ darkBad s x.2 = false) →
      ∃ t, exec .bundleIssue s = .next t ∧ t.str.stop.cause = 2 ∧ t.str.stop.pc = s.str.pc ∧ t.str.stop.resumable = true ∧
        t.str.pauseReq = false ∧ t.rst.eclipse = none ∧ t.wrun = true ∧
        (∃ r ∈ t.evq, r.typ = 7 ∧ r.p0 = 2 ∧ r.p2 = s.str.pc)) ∧
    (¬ (s.wrun = true ∧ s.streamStopped = false ∧ s.str.ended = false) →
      ∃ t, exec .keeperPause s = .next t ∧
        t = { s with kp := { s.kp with orders := t.kp.orders }, out := s.out ++ [.regWrote false] }) ∧
    (s.wrun = true → s.str.stop.resumable = true → s.str.movs = [] →
      (∀ l ∈ s.ln, l.reqs = [] ∧ l.AtRest) →
      ∃ t, exec .keeperResume s = .next t ∧ t.str.stop = .blank ∧ t.str.frozen = false ∧
        t = { s with
          str := { s.str with
            stop := .blank, movRow := [(0, false), (0, false)], farFault := .blank, frozen := false, buoyWait := 0
            resuming := false }
          ln := s.ln.map (fun l => { l with
            suspended := false, cause := if l.suspended then 0 else l.cause
            waited := if l.suspended then 0 else l.waited, relayed := if l.suspended then 0 else l.relayed
            quiet := if l.suspended then 0 else l.quiet })
          osura := { s.osura with q := t.osura.q }, kp := { s.kp with orders := t.kp.orders }
          out := s.out ++ [.regWrote false] }) ∧
    (¬ (s.wrun = true ∧ s.str.stop.resumable = true) →
      exec .keeperResume s = .next { s with out := s.out ++ [.regWrote false] })

/-! ### Osura and its sectors -/

/-- The error-correcting code: a word stored with its check byte reads clean; with any one of its 64 data bits or of
its 8 check bits inverted it reads corrected, with the data that was stored; with two data bits inverted it reads
uncorrectable (R54, R55). -/
def Obligations.CodeCorrectsOneBit : Prop :=
  ∀ x < 2 ^ 64,
    eccDecode x (eccCheck x) = .clean x ∧
    (∀ i < 64, eccDecode (x ^^^ 2 ^ i) (eccCheck x) = .corrected x) ∧
    (∀ j < 8, eccDecode x (eccCheck x ^^^ 2 ^ j) = .corrected x) ∧
    (∀ i < 64, ∀ j < 64, i ≠ j →
      eccDecode (x ^^^ 2 ^ i ^^^ 2 ^ j) (eccCheck x) = .bad (x ^^^ 2 ^ i ^^^ 2 ^ j))

/-- A flush alone in its sector's queue is served in an async-owned cycle: of its two passes the first only reads, the
second stores its bytes, here one whole ECC word, with their check byte, and leaves every other byte of Osura as it
was (R45, R49, R54). -/
def Obligations.AsyncServes : Prop :=
  ∀ (s : State) (sec : Fin 64) (r : AsyncReq) (pc cl w age a ps v : Nat), s.Inv → s.rst.ready = true →
    s.clk.stopped = false → asyncOwns s.osura.share s.clk.cyc = true → (s.secCtl sec).served ≤ s.clk.cyc →
    s.osura.q = [r] → secOf r.addr = sec → s.secOpen sec = true → r.agent = .flush → r.who = .flush pc cl w age →
    r.len ≤ 32 → r.wr = some (cellsAt a (toBytes 8 v)) → a % 8 = 0 → a < 2 ^ 29 → secOf a = sec → v < 2 ^ 64 →
    s.psecOf sec = some ps → s.log.pend = [] → s.osura.cb = [] → s.str.carry = [] → s.str.window = [] →
    s.str.bankStall = 0 → s.streamBanks = [] → r.stalled = false → (∀ r ∈ s.ring.ports, r.held = []) →
    (r.passes = 2 → ∃ t, exec (.osuraAsyncServe sec) s = .next t ∧ t.osura.q = [{ r with passes := 1 }] ∧
      t = { s with osura := { s.osura with q := t.osura.q, secs := t.osura.secs } }) ∧
    (r.passes = 1 → ∃ t, exec (.osuraAsyncServe sec) s = .next t ∧ t.osura.q = [] ∧
      t.eccWord (physAddr ps a / 8) = .clean v ∧
      (∀ p, ¬ (physAddr ps a ≤ p ∧ p < physAddr ps a + 8) → sget 0#8 t.osura.data p = sget 0#8 s.osura.data p) ∧
      t = { s with
        str := { s.str with shadow := t.str.shadow }
        osura := { s.osura with q := [], data := t.osura.data, check := t.osura.check, secs := t.osura.secs }
        log := { s.log with dirtyA := t.log.dirtyA, dirtyB := t.log.dirtyB } })

/-- R51: a sector that is not open refuses a flush; the entry is dropped and reported as E_LATE, with the source
cluster as the source. -/
def Obligations.DarkSectorRefusesFlush : Prop :=
  ∀ (s : State) (sec : Fin 64) (r : AsyncReq) (pc cl w age : Nat), s.rst.ready = true → s.clk.stopped = false →
    asyncOwns s.osura.share s.clk.cyc = true → (s.secCtl sec).served ≤ s.clk.cyc → s.osura.q = [r] →
    secOf r.addr = sec → s.secOpen sec = false → r.accepted = false → r.agent = .flush → r.who = .flush pc cl w age →
    r.wr.isSome = true → s.log.pend = [] → s.osura.cb = [] → s.str.carry = [] → s.str.window = [] → (∀ x ∈ s.ring.ports, x.held = []) →
    s.evRoom = true →
    ∃ t, exec (.osuraAsyncServe sec) s = .next t ∧ t.osura.q = [] ∧
      t.evq = s.evq ++ [⟨0x09, 0, 0, s.clk.ticks % 2 ^ 32, s.seqNow, 1 + cl * 16, r.addr / 1024 * 1024, 0, 0⟩] ∧
      t.osura.data = s.osura.data ∧ t.osura.check = s.osura.check ∧
      t = { s with osura := { s.osura with q := [], secs := t.osura.secs }, evq := t.evq }

/-- SCRUB_REQUEST asks for a Lit sector's next line once SCRUB_PACE ticks have passed, and a request that still waits
becomes overdue; it goes on while Eclipse is being entered (R429). SCRUB_PACE 0, a sector that is not Lit, too early a
tick, or Eclipse and wake, change nothing (R56, R57). -/
def Obligations.ScrubberAsks : Prop :=
  ∀ (s : State) (sec : Fin 64), s.Inv → s.rst.ready = true →
    ((s.secCtl sec).st ≠ .lit ∨ s.osura.scrubPace = 0 ∨ 1 < s.rst.pstate ∨ s.clk.ticks < (s.secCtl sec).scrubTick + s.osura.scrubPace →
      exec (.scrubRequest sec) s = .next s) ∧
    ((s.secCtl sec).st = .lit → s.osura.scrubPace ≠ 0 → s.rst.pstate ≤ 1 →
      (s.secCtl sec).scrubTick + s.osura.scrubPace ≤ s.clk.ticks → ∃ t, exec (.scrubRequest sec) s = .next t ∧
        t.secCtl sec = { s.secCtl sec with
          scrubTick := s.clk.ticks, scrubOver := (s.secCtl sec).scrubWait, scrubWait := true } ∧
        (∀ n, n ≠ sec.val → t.secCtl n = s.secCtl n) ∧
        ((s.secCtl sec).scrubWait = false → ∃ r, t.osura.q = s.osura.q ++ [r] ∧ r.agent = .scrub ∧ r.wr = none ∧
          r.addr = sec.val * 2 ^ 23 + (s.secCtl sec).scrubLine * 1024 ∧ r.len = 1024) ∧
        ((s.secCtl sec).scrubWait = true → t.osura.q.length = s.osura.q.length) ∧
        t = { s with osura := { s.osura with q := t.osura.q, secs := t.osura.secs } })

/-- A written async share applies at the first period boundary with the stream idle (R39), and written far-load
settings while it is idle (R142); until then they wait. -/
def Obligations.SettingsApply : Prop :=
  ∀ s : State,
    (s.wrun = false → s.clk.cyc % 4 = 0 → ∀ v, s.osura.sharePend = some v →
      exec .asyncShareApply s = .next { s with osura := { s.osura with share := v, sharePend := none } }) ∧
    ((s.wrun = true ∨ s.clk.cyc % 4 ≠ 0 ∨ s.osura.sharePend = none) → exec .asyncShareApply s = .next s) ∧
    (s.wrun = false → ∀ c, s.str.farPend = some c →
      exec .farSettingsApply s = .next { s with str := { s.str with far := c, farPend := none } }) ∧
    ((s.wrun = true ∨ s.str.farPend = none) → exec .farSettingsApply s = .next s)

/-- SECTOR_FILL_DONE: a lighting sector that has good power and runs no test becomes Lit with every byte 0 and every
granule dirty, and its scrubber at line 0; the bytes of other sectors are as they were (R57, R59, R60, R398). Without
its power nothing changes (R462). Where a spare is lit for a retired sector, the map then names the spare (R64). -/
def Obligations.FillClearsSector : Prop :=
  ∀ (s : State) (sec : Fin 64) (ps : Nat), s.Inv →
    (s.psecOf sec = some ps → (∀ w, s.flt.secSwap = some w → w.sec ≠ sec.val) → (sec.val, false) ∈ s.pwr.lightOn →
      s.powerBusy (secDom ps) = false → sget false s.pwr.on (secDom ps) = true → (s.secCtl sec).closeAfter = false →
      s.pwr.lightQ = [] →
      ∃ t, exec (.sectorFillDone sec) s = .next t ∧
        (t.secCtl sec).st = .lit ∧ (t.secCtl sec).scrubLine = 0 ∧ (∀ n, n ≠ sec.val → t.secCtl n = s.secCtl n) ∧
        (∀ p, sget 0#8 t.osura.data p = if p / 2 ^ 23 = ps then 0#8 else sget 0#8 s.osura.data p) ∧
        (∀ g, g / 128 = sec.val → sget false t.log.dirtyA g = true ∧ sget false t.log.dirtyB g = true) ∧
        t.pwr.lightOn = s.pwr.lightOn.filter (fun x => x.1 != sec.val) ∧
        t = { s with
          osura := { s.osura with data := t.osura.data, check := t.osura.check, secs := t.osura.secs }
          log := { s.log with dirtyA := t.log.dirtyA, dirtyB := t.log.dirtyB }
          pwr := { s.pwr with lightOn := t.pwr.lightOn }, bist := { s.bist with busy := t.bist.busy }
          kp := { s.kp with ctlRun := t.kp.ctlRun, cdone := t.kp.cdone }, evq := t.evq }) ∧
    (s.psecOf sec = some ps → (∀ w, s.flt.secSwap = some w → w.sec ≠ sec.val) →
      ((sec.val, false) ∉ s.pwr.lightOn ∨ s.powerBusy (secDom ps) = true ∨ sget false s.pwr.on (secDom ps) = false) →
      exec (.sectorFillDone sec) s = .next s) ∧
    (∀ w, s.flt.secSwap = some w → w.sec = sec.val → (sec.val, false) ∈ s.pwr.lightOn →
      s.powerBusy (secDom w.spare) = false → sget false s.pwr.on (secDom w.spare) = true → s.evKept = true →
      s.map.sec.length = 64 → ∃ t, exec (.sectorFillDone sec) s = .next t ∧
        t.psecOf sec = some w.spare ∧ t.flt.secSwap = none ∧ t.flt.swap = false ∧ t.flt.seqbusy = false ∧
        ∀ n, n ≠ sec.val → t.psecOf n = s.psecOf n)

/-- A Closing sector goes Dark once its accepted work, its mark reads and the stream's accesses to it are over
(SECTOR_CLOSE_DRAINED, R59), or 4,096 cycles after DARKEN (DARKEN_TIMEOUT, R62; here with nothing accepted to cut off):
its dirty bits are cleared and its power is asked off. Before that neither row changes anything. -/
def Obligations.ClosingSectorGoesDark : Prop :=
  ∀ (s : State) (sec : Fin 64) (ps : Nat), s.Inv → s.psecOf sec = some ps → s.acceptedIn sec = [] →
    s.markReads sec = [] →
    (∀ c ∈ [Instr.sectorCloseDrained sec, Instr.darkenTimeout sec], (s.secCtl sec).st = .closing →
      (c = Instr.sectorCloseDrained sec → s.streamIn sec = false) →
      (c = Instr.darkenTimeout sec → (s.secCtl sec).closeAt + 4096 ≤ s.clk.cyc) →
      ∃ t, exec c s = .next t ∧ (t.secCtl sec).st = .dark ∧ (∀ n, n ≠ sec.val → t.secCtl n = s.secCtl n) ∧
        (∀ x ∈ t.log.dirtyA, x.1 / 128 ≠ sec.val) ∧ (∀ x ∈ t.log.dirtyB, x.1 / 128 ≠ sec.val) ∧
        t.out = s.out ++ [.power (34 + ps) 0] ∧ (34 + ps, 0) ∈ t.pwr.reqs ∧
        t = { s with
          osura := { s.osura with secs := t.osura.secs }
          log := { s.log with dirtyA := t.log.dirtyA, dirtyB := t.log.dirtyB }
          pwr := { s.pwr with
            reqs := s.pwr.reqs ++ [(34 + ps, 0)], on := sset false s.pwr.on (34 + ps) false, asked := t.pwr.asked }
          out := t.out, kp := { s.kp with ctlRun := t.kp.ctlRun, cdone := t.kp.cdone }, evq := t.evq, cnt := t.cnt }) ∧
    ((s.secCtl sec).st ≠ .closing → exec (.sectorCloseDrained sec) s = .next s ∧ exec (.darkenTimeout sec) s = .next s) ∧
    (s.clk.cyc < (s.secCtl sec).closeAt + 4096 → exec (.darkenTimeout sec) s = .next s)

/-- SECTOR_BIST_DONE: a sector under test whose test passes goes on to its zero-fill, and BIST_STATUS reports the pass
of a test that BIST_CMD asked for; a failure lights nothing and goes to the fault sequencer with reason BIST (R64,
R433, R511). A physical sector that is not under test changes nothing. -/
def Obligations.SectorBistEnds : Prop :=
  ∀ (s : State) (p : Fin 68) (sec : Nat),
    (s.pwr.lightOn.find? (fun x => x.2 && s.lightHome x.1 == some p.val) = some (sec, true) →
      (∃ t, exec (.sectorBistDone p true) s = .next t ∧
        t.pwr.lightOn = s.pwr.lightOn.map (fun x => if x.1 = sec then (sec, false) else x) ∧
        t.map.tested = s.map.tested.set p true ∧
        t.bist.pass = (if s.bist.busy = true ∧ s.bist.sec = sec then true else s.bist.pass) ∧
        t = { s with
          pwr := { s.pwr with lightOn := t.pwr.lightOn }, map := { s.map with tested := t.map.tested }
          bist := { s.bist with pass := t.bist.pass } }) ∧
      ((∀ w, s.flt.secSwap = some w → w.sec ≠ sec) → ∃ t, exec (.sectorBistDone p false) s = .next t ∧
        State.Detected { s with
          pwr := { s.pwr with lightOn := s.pwr.lightOn.filter (fun x => x.1 != sec) }
          map := { s.map with tested := s.map.tested.set p true }
          bist := { s.bist with
            pass := if s.bist.busy = true ∧ s.bist.sec = sec then false else s.bist.pass } } t 0x02 0x0A p sec 0)) ∧
    (s.pwr.lightOn.find? (fun x => x.2 && s.lightHome x.1 == some p.val) = none →
      ∀ b, exec (.sectorBistDone p b) s = .next s)

/-! ### Buoys -/

/-- BUOY_DRAIN_END: a Draining buoy none of whose reads is still to be served is armed again with its counts if RELOAD
is set, and else is Free; any other changes nothing (R80, R81). -/
def Obligations.DrainEnds : Prop :=
  ∀ (s : State) (n : Fin 256), s.Inv → (∀ o ∈ s.ring.owed, o.1 ≠ n.val) →
    ((s.buoy n).st = .draining → s.readsInFlight (s.buoy n) = false → ∃ t, exec (.buoyDrainEnd n) s = .next t ∧
      t.buoy n = (if (s.buoy n).reload = true then
        { s.buoy n with
          p := (s.buoy n).expect, c := (s.buoy n).consume
          st := if (s.buoy n).expect = 0 then .ready else .filling } else Buoy.idle) ∧
      (∀ m, m ≠ n.val → t.buoy m = s.buoy m) ∧
      t = { s with
        buoys := { s.buoys with b := t.buoys.b, before := t.buoys.before, changedAt := t.buoys.changedAt } }) ∧
    ((s.buoy n).st ≠ .draining ∨ s.readsInFlight (s.buoy n) = true → exec (.buoyDrainEnd n) s = .next s)

/-- BUOY_WATCHDOG: a waiter whose count has passed the limit takes its E_STALL: the stream is to stop, and its next
core cycle records that stop, resumably and with the buoy in its record; a mooring is reported and waits on; a Tender
transfer ends with status STALL; a Lantern is suspended, for an access of a product, for the next product's announce, or
for a port that has fallen silent (R470), and the stream is to stop naming it, or an event says so for a chain of the
Control ring (R83, R115, R298). With the watchdog disabled (R84), or while a pause
of the stream freezes the counts, nothing happens. -/
def Obligations.WatchdogStalls : Prop :=
  ∀ s : State,
    ((s.stallLimit = none ∨ s.str.frozen = true) → ∀ w, exec (.buoyWatchdog w) s = .next s) ∧
    (∀ limit, s.stallLimit = some limit → s.str.frozen = false →
      (s.wrun = true → s.streamStopped = false → limit < s.str.buoyWait → s.str.stopWait = none →
        ∃ k, (s.bundleBlockers ≠ [] → (∀ x ∈ s.bundleBlockers, x ≤ 255) →
            k ∈ s.bundleBlockers ∧ ∀ x ∈ s.bundleBlockers, k ≤ x) ∧
          exec (.buoyWatchdog .stream) s = .next { s with
            str := { s.str with stopWait := some ⟨5, none, 0, 0, 0, k⟩ } }) ∧
      (s.str.buoyWait ≤ limit → exec (.buoyWatchdog .stream) s = .next s) ∧
      (∀ (m : Fin 64) (id : Nat) (r : AsyncReq), s.osura.q = [r] → r.who = .mooring m id → s.buoyBlocked r = true →
        limit < r.waited → s.evRoom = true → ∃ t e, exec (.buoyWatchdog (.mooring m)) s = .next t ∧
          t.evq = s.evq ++ [e] ∧ e.typ = 0x0A ∧ e.p0 % 256 = m.val ∧
          t = { s with osura := { s.osura with q := [{ r with waited := 0 }] }, evq := t.evq }) ∧
      (∀ (c : Fin 128) (req : Nat) (r : AsyncReq), s.osura.q = [r] → r.who = .tender c req → s.buoyBlocked r = true →
        limit < r.waited → (s.chan c).st = .busy → (s.chan c).status = 0 → (s.chan c).reads = [] →
        (∀ w ∈ (s.chan c).writes, w.1 = req) → (s.chan c).chunks = [] →
        ∃ t, exec (.buoyWatchdog (.tender c)) s = .next t ∧ (t.chan c).st = .finished ∧ (t.chan c).status = 3 ∧
          t = { s with td := { s.td with ch := t.td.ch }, osura := { s.osura with q := [] } }) ∧
      (∀ (n : Fin 4) (ctl : Option Nat) (slot ev buoy : Nat), n.val < s.ln.length → (s.lan n).suspended = false →
        (s.lan n).halted = false →
        ((s.osura.q = [] ∧ (s.lan n).annWait = true ∧ limit < (s.lan n).waited ∧
            ∃ c rest, (s.lan n).q = c :: rest ∧ c.ctl = ctl ∧ c.slot = slot ∧ (c.start.map (·.evtdata)).getD 0 = ev ∧
              buoy = (s.annBlockers (s.lan n)).foldl (fun m x => min m x) 255) ∨
          (s.osura.q = [] ∧ (s.lan n).annWait = false ∧ limit < (s.lan n).quiet ∧
            ∃ p ps, (s.lan n).prods = p :: ps ∧ p.ctl = ctl ∧ p.slot = slot ∧ p.blk.evtdata = ev ∧ buoy = 0) ∨
          (∃ r req p, s.osura.q = [r] ∧ r.who = .lantern n req ∧ s.buoyBlocked r = true ∧ limit < r.waited ∧
            (s.lan n).productOf req = some p ∧ p.ctl = ctl ∧ p.slot = slot ∧ p.blk.evtdata = ev ∧
            buoy = s.blockerOf r)) →
        ∃ t, exec (.buoyWatchdog (.lantern n)) s = .next t ∧ (t.lan n).suspended = true ∧ (t.lan n).cause = 2 ∧
          (∀ m, m ≠ n.val → t.lan m = s.lan m) ∧
          (ctl = none → s.wrun = true → s.streamStopped = false → s.str.stopWait = none →
            t.str.stopWait = some ⟨5, some 8, 0, 0, 0, buoy⟩) ∧
          (ctl ≠ none ∨ s.wrun = false → t.str = s.str) ∧ (ctl = none → t.evq = s.evq) ∧
          (ctl ≠ none → s.evRoom = true → t.evq = s.evq ++
            [⟨0x06, 0, 0, s.clk.ticks % 2 ^ 32, s.seqNow, n + 4 * slot + 1024, ev, 0, 0⟩]) ∧
          (s.evRoom = true → t = { s with
            ln := t.ln, osura := { s.osura with q := t.osura.q }, evq := t.evq
            str := { s.str with stopWait := t.str.stopWait } }))) ∧
    (∀ a : StopAt, a.cause = 5 → s.str.stopWait = some a → State.StreamClear { s with str := { s.str with stopWait := none } } →
      s.evRoom = true → ∃ t, exec .bundleIssue s = .next t ∧ t.str.stop.cause = 5 ∧ t.str.stop.resumable = true ∧
        t.str.stop.pc = s.str.pc ∧ t.str.launch = s.str.launch ∧ t.str.stopWait = none)

/-! ### Arithmetic -/

/-- R174: ABS and NEG change the sign bit and nothing else; they raise no flag and do not quiet a NaN; in F8a and F8b
the codes 0x00 and 0x80 are left unchanged; in F4 they act on bit 3. `a` is the element read, of its format's width. -/
def Obligations.SignBitOperations : Prop :=
  ∀ (q : VPlan) (c : VCtx) (cl r j : Nat) (src : TileSrc) (neg : Bool), q.kind = .sign neg → q.a = some src →
    (c.src cl src r j).code < 2 ^ q.fmt.width →
    (q.elem c cl r j).fl = flagNone ∧
    ((q.fmt = .f8a ∨ q.fmt = .f8b) → ((c.src cl src r j).code = 0x00 ∨ (c.src cl src r j).code = 0x80) →
      (q.elem c cl r j).code = (c.src cl src r j).code) ∧
    (¬ ((q.fmt = .f8a ∨ q.fmt = .f8b) ∧ ((c.src cl src r j).code = 0x00 ∨ (c.src cl src r j).code = 0x80)) →
      (q.elem c cl r j).code.testBit (q.fmt.width - 1) =
        (neg && !(c.src cl src r j).code.testBit (q.fmt.width - 1))) ∧
    (∀ i, i ≠ q.fmt.width - 1 → (q.elem c cl r j).code.testBit i = (c.src cl src r j).code.testBit i) ∧
    (q.fmt = .f4 → neg = false → (c.src cl src r j).code = 0x8 → (q.elem c cl r j).code = 0x0)

/-! ### The Keeper -/

/-- DESCRIPTOR_FETCH reads the 64 bytes at a ring's HEAD when the ring may be fetched (R370). SYS_RESPONSE takes a
Transfer or Control descriptor that has come, and moves HEAD; a work descriptor is taken if its SEQ is the expected one
and no check of R372 fails, stops the fetch of its ring with reason SEQ and is not consumed if it is not the expected
one, and is else refused with the first failing check's reason, consuming its number (R372). A fault or an error response
instead stops the ring's fetch with a DESC_ERR event, reason FETCH, whose OP and USERDATA read 0 as no descriptor has
come (R370, R445; the model's choice, notes/assumptions/30.md). While an ECLIPSE waits, Work and Transfer descriptors are
not taken (R428). An answer to a tag that is not outstanding, and a request unanswered for 2^18
control cycles (SYS_TIMEOUT), are faults of the port (R445). -/
def Obligations.KeeperFetches : Prop :=
  (∀ (s : State) (n : Fin 3) (tag : Nat), s.sysTag = some tag → s.mayFetch n = true →
    exec (.descriptorFetch n) s = .next { s with
      kp := { s.kp with sys := s.kp.sys ++ [⟨tag, .desc n (s.kp.ring n).head,
        (s.kp.ring n).base + (s.kp.ring n).head * 64, s.clk.ckr / 8⟩] }
      out := s.out ++ [.sysRead tag ((s.kp.ring n).base + (s.kp.ring n).head * 64) 64] }) ∧
  (∀ (s : State) (n : Fin 3), (s.sysTag = none ∨ s.mayFetch n = false) → exec (.descriptorFetch n) s = .next s) ∧
  (∀ (s : State) (q : SysReq) (tag : BitVec 5) (slot n : Nat) (bs : List Byte), s.rst.por = false → bs.length = 64 →
    s.kp.sys = [q] → q.tag = tag.toNat → q.what = .desc n slot → s.kp.recQ = [] → s.kp.evAgain = false →
    s.kp.descHeld = [] →
    (n = 2 ∨ n = 1 ∧ s.rst.eclipse = none → ∃ t, exec (.sysResponse tag 0#2 bs) s = .next t ∧
      t.kp.taken n = s.kp.taken n ++ [⟨slot, bs⟩] ∧
      t.kp.ring n = { s.kp.ring n with head := ((s.kp.ring n).head + 1) % (s.kp.ring n).size } ∧
      t = { s with kp := { s.kp with
        sys := [], xfer := t.kp.xfer, ctl := t.kp.ctl, xferTaken := t.kp.xferTaken, ctlTaken := t.kp.ctlTaken } }) ∧
    (n = 0 ∨ n = 1 → s.rst.eclipse ≠ none →
      exec (.sysResponse tag 0#2 bs) s = .next { s with kp := { s.kp with sys := [] } }) ∧
    (∀ (d : WorkDesc) (r : Nat), n = 0 → s.rst.eclipse = none → s.evRoom = true → d = WorkDesc.parse bs →
      r = (if d.op ≠ 1 ∨ d.rsvd = true ∨ d.lc = 0 ∨ 32 < d.lc then 1 else if d.profile = 0 then 3
        else if d.pc % 4 ≠ 0 ∨ 2 ^ 29 ≤ d.pc then 2 else if s.map.working.length < d.lc then 4 else 0) →
      (d.seq ≠ s.kp.nextseq → exec (.sysResponse tag 0#2 bs) s = .next { s with
        kp := { s.kp with sys := [], seqstop := true }
        evq := s.evq ++ [⟨0x02, 1, slot, s.clk.ticks % 2 ^ 32, d.seq, 5 + 256 * d.op, d.user, 0, 0⟩] }) ∧
      (d.seq = s.kp.nextseq → ∃ t, exec (.sysResponse tag 0#2 bs) s = .next t ∧
        t.kp.work = { s.kp.work with head := (s.kp.work.head + 1) % s.kp.work.size } ∧
        (r ≠ 0 → t.kp.nextseq = (s.kp.nextseq + 1) % 2 ^ 64 ∧ t.kp.workTaken = s.kp.workTaken ∧
          t.evq = s.evq ++ [⟨0x02, 1, slot, s.clk.ticks % 2 ^ 32, d.seq, r + 256 * d.op, d.user, 0, 0⟩]) ∧
        (r = 0 → t.kp.nextseq = s.kp.nextseq ∧ t.kp.workTaken = s.kp.workTaken ++ [⟨slot, bs⟩] ∧ t.evq = s.evq) ∧
        t = { s with
          kp := { s.kp with sys := [], work := t.kp.work, nextseq := t.kp.nextseq, workTaken := t.kp.workTaken }
          evq := t.evq })) ∧
    (∀ st : BitVec 2, st = 1#2 ∨ st = 2#2 → n < 3 → s.evRoom = true → ∃ t, exec (.sysResponse tag st bs) s = .next t ∧
      t.kp.fstop = s.kp.fstop.set n true ∧
      t.evq = s.evq ++ [⟨0x02, n + 1, slot, s.clk.ticks % 2 ^ 32, s.seqNow, 0x0A, 0, 0, 0⟩] ∧
      t = { s with kp := { s.kp with sys := [], fstop := t.kp.fstop }, evq := t.evq })) ∧
  (∀ (s : State) (tag : BitVec 5) (bs : List Byte) (st : BitVec 2), s.rst.por = false → s.rst.ready = true →
    bs.length = 64 → s.kp.sysFenced = false → (∀ q ∈ s.kp.sys, q.tag ≠ tag.toNat) →
    ∃ t, exec (.sysResponse tag st bs) s = .next t ∧ s.Detected t 0x0A 4 0 0xFF 0) ∧
  (∀ (s : State) (tag : BitVec 5) (q : SysReq), s.kp.sys = [q] → q.tag = tag.toNat → q.what ≠ .expired →
    s.kp.sysFenced = false →
    (q.at_ + 2 ^ 18 ≤ s.clk.ckr / 8 → ∃ t, exec (.sysTimeout tag) s = .next t ∧
      State.Detected { s with kp := { s.kp with sys := [{ q with what := .expired }] } } t 0x0A 5 0 0xFF 0) ∧
    (s.clk.ckr / 8 < q.at_ + 2 ^ 18 → exec (.sysTimeout tag) s = .next s))

/-- EVENT_RECORD_WRITE makes the two writes of the oldest record at ERING_TAIL, bytes 4 to 31 and then bytes 0 to 3;
TAIL moves on, and PHASE inverts as TAIL wraps to 0. With no record, a disabled ring or no free slot it does nothing
(R380, R382, R384); the clause of the writes takes a Keeper in which nothing waits for room in the queue. That TAIL moves at once is the model's reading (notes/assumptions/26.md). -/
def Obligations.EventWritten : Prop :=
  (∀ s : State, s.evq = [] → exec .eventRecordWrite s = .next s) ∧
  ∀ (s : State) (e : EvRec) (rest : List EvRec), s.evq = e :: rest →
    (s.kp.event.en = true → s.eventFull = false → s.kp.evBad = [] → s.rst.ready = true → s.kp.sys = [] →
      s.kp.sysFenced = false → s.kp.ctlRun = [] → s.kp.descHeld = [] → ∃ t, exec .eventRecordWrite s = .next t ∧
        t.evq = rest ∧ t.kp.event = { s.kp.event with tail := (s.kp.event.tail + 1) % s.kp.event.size } ∧
        t.kp.evPhase = (if (s.kp.event.tail + 1) % s.kp.event.size = 0 then !s.kp.evPhase else s.kp.evPhase) ∧
        t.out = s.out ++ [
          .sysWrite 0 (s.kp.event.base + s.kp.event.tail * 32 + 4) ((e.bytes s.kp.evPhase).drop 4),
          .sysWrite 1 (s.kp.event.base + s.kp.event.tail * 32) ((e.bytes s.kp.evPhase).take 4)] ∧
        t = { s with
          evq := rest, out := t.out
          kp := { s.kp with
            event := t.kp.event, evPhase := t.kp.evPhase, sys := t.kp.sys, evOut := t.kp.evOut, cdone := t.kp.cdone } }) ∧
    (s.kp.event.en = false ∨ s.eventFull = true → exec .eventRecordWrite s = .next s)

/-- LAUNCH starts the work descriptor taken when nothing bars it: the launch runs from its PC with its profile and
LCCOUNT, the next sequence number is expected, every tag is invalid and every mask bit is 1; S0 to S3 are loaded only
with LDS (R128, R371, R373). A descriptor that is barred waits. -/
def Obligations.LaunchStarts : Prop :=
  ∀ (s : State) (x : Desc) (rest : List Desc) (p : Profile), s.Inv → s.kp.workTaken = x :: rest →
    Profile.ofCode (WorkDesc.parse x.bytes).profile = some p →
    (s.mayLaunch (WorkDesc.parse x.bytes) = false → exec .launch s = .next s) ∧
    (s.mayLaunch (WorkDesc.parse x.bytes) = true → ∃ t, exec .launch s = .next t ∧
      t.str.launch = some ⟨(WorkDesc.parse x.bytes).seq, p, (WorkDesc.parse x.bytes).lc,
        (WorkDesc.parse x.bytes).user, x.slot⟩ ∧
      t.str.pc = (WorkDesc.parse x.bytes).pc ∧ t.str.stop = .blank ∧ (∀ i < 16, t.tagOf i = none) ∧
      (∀ pc m, sget (BitVec.allOnes 256) (t.lane pc).masks m = BitVec.allOnes 256) ∧
      (∀ pc, (t.lane pc).tiles = (s.lane pc).tiles ∧ (t.lane pc).flags = (s.lane pc).flags) ∧
      ((WorkDesc.parse x.bytes).lds = false → t.str.scal = s.str.scal) ∧
      t.map.lastLc = (WorkDesc.parse x.bytes).lc ∧ t.kp.workTaken = rest ∧
      t.kp.nextseq = ((WorkDesc.parse x.bytes).seq + 1) % 2 ^ 64 ∧
      t = { s with
        lanes := t.lanes, map := { s.map with cl := t.map.cl, pc := t.map.pc, lastLc := t.map.lastLc, before := t.map.before }
        osura := { s.osura with share := t.osura.share, sharePend := none }, str := t.str
        trap := { s.trap with found := none, hit := false }, trc := t.trc
        kp := { s.kp with nextseq := t.kp.nextseq, workTaken := rest } })

/-- TRANSFER_START (R376, R316, R317): a Transfer-ring descriptor that fails a check of R316 is refused with DESC_ERR and
its reason, and its record says REFUSED; a transfer whose LEN, N1 or N2 is 0 makes no access and completes at once; one
with rows to move, here an in-memory MOVE without scales, makes its channel Busy and asks for the lines of its first row
(R311, R318). TRANSFER_COMPLETE counts the producer completion, also of an empty transfer, and queues the event of one
without a slot; a slot's record is written instead, and that the channel waits for that write's answer before its
event and before it is Idle is the model's reading (notes/assumptions/23.md). The statement takes channels to which no TND
has issued in the same control cycle. -/
def Obligations.TransfersRun : Prop :=
  (∀ (s : State) (d : Desc) (rest : List Desc), s.Inv → s.kp.xferTaken = d :: rest → s.mayStart = true →
    s.ring.hold = false → s.flt.stopped = false → s.flt.unitdown = false →
    ∀ (x : Xfer) (c : Nat), x = Xfer.ofBytes d.bytes → c = x.half * 64 + x.ch → s.sentNow 3 c = 0 →
    (∀ (reason tag : Nat), s.kp.recQ = [] → s.sysTag = some tag →
      reason = (if x.fieldsOk = false then 1 else match Profile.ofCode x.profile with
        | none => 3
        | some p => if x.conv ≠ 0 ∧ ¬ (p.accepts (convFmts x.conv).1 = true ∧ p.accepts (convFmts x.conv).2 = true) then 3
          else if x.addrOk = false then 2 else 0) → reason ≠ 0 →
      ∃ t, exec .transferStart s = .next t ∧
        t.evq = s.evq ++ [⟨0x02, 2, d.slot, s.clk.ticks % 2 ^ 32, s.seqNow, reason + 256 * x.kind, x.evtdata, 0, 0⟩] ∧
        t.out = s.out ++ [.sysWrite tag (s.kp.xfer.base + d.slot * 64 + 56) (toBytes 4 (2 ^ 31 + 2 ^ 30))] ∧
        t = { s with kp := { s.kp with xferTaken := rest, sys := t.kp.sys }, evq := t.evq, out := t.out }) ∧
    (∀ p : Profile, Profile.ofCode x.profile = some p → x.check (some p) = .ok → (s.chan c).st = .idle →
      (x.empty = true → ∃ t, exec .transferStart s = .next t ∧
        (∀ k, t.chan k = if k = c then { Chan.idle with st := .finished, x := x, ring := some d.slot, prof := p }
          else s.chan k) ∧
        t = { s with
          td := { s.td with ch := t.td.ch, count := t.td.count }
          kp := { s.kp with xferTaken := rest, orders := t.kp.orders } }) ∧
      (x.empty = false → x.kind = 1 → x.ssp = false → x.dsp = false → x.conv ≠ 4 → x.conv ≠ 6 →
        ∃ t rs, exec .transferStart s = .next t ∧
          (t.chan c).st = .busy ∧ (t.chan c).x = x ∧ (t.chan c).ring = some d.slot ∧ (t.chan c).prof = p ∧
          (t.chan c).row = 0 ∧ (t.chan c).phase = 1 ∧ (∀ k, k ≠ c → t.chan k = s.chan k) ∧
          t.osura.q = s.osura.q ++ rs ∧ (∀ r ∈ rs, r.agent = .tender ∧ r.wr = none) ∧
          rs.map (fun r => (r.addr, r.len)) =
            (splitRun 1024 (x.len / 256 + 2) (x.srcRow [] 0) x.len 0).map (fun y => (y.1, y.2.1)) ∧
          t = { s with
            td := { s.td with ch := t.td.ch, count := t.td.count }, osura := { s.osura with q := t.osura.q }
            kp := { s.kp with xferTaken := rest, orders := t.kp.orders } }))) ∧
  (∀ (s : State) (c : Fin 128), s.Inv → (s.chan c).st = .finished → (s.chan c).status ≤ 1 → (s.chan c).ring = none →
    s.evRoom = true →
    ((s.chan c).x.ben = true → (s.buoy (s.chan c).x.buoy).st ≠ .free ∧ s.commanded (s.chan c).x.buoy = false) →
    ∃ t, exec (.transferComplete c) s = .next t ∧
      (∀ k, t.chan k = if k = c.val then Chan.idle else s.chan k) ∧
      (∀ n, (t.buoy n).p = if (s.chan c).x.ben = true ∧ n = (s.chan c).x.buoy then (s.buoy n).p - 1 else (s.buoy n).p) ∧
      t.evq = s.evq ++ (if (s.chan c).x.evt then [⟨0x05, 0, 0, s.clk.ticks % 2 ^ 32, s.seqNow,
        c / 64 + c % 64 * 2 + (s.chan c).status * 256, (s.chan c).x.evtdata, 0, 0⟩] else []) ∧
      t = { s with
        td := { s.td with ch := t.td.ch }, str := { s.str with cmds := t.str.cmds }
        buoys := { s.buoys with b := t.buoys.b, before := t.buoys.before, changedAt := t.buoys.changedAt }
        evq := t.evq }) ∧
  (∀ (s : State) (c : Fin 128) (slot tag : Nat), s.Inv → (s.chan c).st = .finished → (s.chan c).ring = some slot →
    (s.chan c).x.ben = false → s.kp.recQ = [] → s.sysTag = some tag →
    ∃ t, exec (.transferComplete c) s = .next t ∧
      (∀ k, t.chan k = if k = c.val then { s.chan c with st := .recording } else s.chan k) ∧
      t.out = s.out ++ [.sysWrite tag (s.kp.xfer.base + slot * 64 + 56) (toBytes 4 ((s.chan c).status + 2 ^ 31))] ∧
      t = { s with td := { s.td with ch := t.td.ch }, kp := { s.kp with sys := t.kp.sys }, out := t.out }) ∧
  (∀ (s : State) (c : Fin 128) (q : SysReq) (tag : BitVec 5) (slot word : Nat) (ev : Option EvRec) (bs : List Byte),
    s.Inv → s.rst.por = false → bs.length = 64 → s.kp.sys = [q] → q.tag = tag.toNat → q.what = .xrec slot word ev →
    s.kp.recQ = [] → s.kp.evAgain = false → (s.chan c).st = .recording → (s.chan c).ring = some slot →
    s.evRoom = true →
    ∃ t, exec (.sysResponse tag 0#2 bs) s = .next t ∧ (t.chan c).st = .idle ∧ t.evq = s.evq ++ ev.toList ∧
      t = { s with
        td := { s.td with ch := t.td.ch }, evq := t.evq
        kp := { s.kp with sys := [], xdone := t.kp.xdone, xretire := t.kp.xretire, xretired := t.kp.xretired } })

/-! ### Control descriptors -/

/-- R73: arming sets P = EXPECT and C = CONSUME, and the buoy enters Filling, or Ready at once if EXPECT is 0; with
CONSUME = 0 it then stays Ready until it is freed: no release and no drain changes it, whatever RELOAD says. A command
that the stream has given the buoy in the same control cycle is dropped (R386), which the premise leaves out. -/
def Obligations.ArmingLoads : Prop :=
  (∀ (s : State) (d : Desc) (rest : List Desc), s.Inv → s.CtlNext d rest 4 → (s.buoy (d.w 2 % 256)).st = .free →
    s.armOk (d.w 2 % 256) (d.w 3) (d.w 4 % 2 ^ 17) = true → d.w 4 % 2 ^ 17 ≠ 0 →
    (∀ c ∈ s.str.cmds, c.1 = s.clk.ckr / 8 → c.2.1 ≠ d.w 2 % 256) →
    ∃ t, exec .arm s = .next t ∧
      (∀ m, t.buoy m = if m = d.w 2 % 256 then
        { base := d.w 3, nlines := d.w 4 % 2 ^ 17, expect := d.w 5 % 2 ^ 16, consume := d.w 5 / 2 ^ 16
          reload := (d.w 4).testBit 17, p := d.w 5 % 2 ^ 16, c := d.w 5 / 2 ^ 16
          st := if d.w 5 % 2 ^ 16 = 0 then .ready else .filling } else s.buoy m) ∧
      s.CtlBooks t rest ∧
      t = { s with
        buoys := { s.buoys with b := t.buoys.b, before := t.buoys.before, changedAt := t.buoys.changedAt }
        kp := t.kp, evq := t.evq }) ∧
  (∀ (s : State) (n : Fin 256), (s.buoy n).st = .ready → (s.buoy n).consume = 0 →
    (∀ src m, (s.release n src).buoy m = s.buoy m) ∧ exec (.buoyDrainEnd n) s = .next s)

/-- FREE makes its buoy Free (R74), and a command of the stream at that buoy in the same control cycle is dropped and
counted (R386); NOTE does nothing (R378); and a descriptor that completes with nothing started
before it is counted at once, with the CTL_DONE record that CEVT asks for (R379, R381). TDCMD on a channel that is not
Paused is counted and completes without effect, and on a Paused one ABORT ends the transfer (R322), here of a channel
that no TND and no TD_CMD has met in the same control cycle (R385, R386). -/
def Obligations.ControlCompletes : Prop :=
  ∀ (s : State) (d : Desc) (rest : List Desc), s.Inv →
    (s.CtlNext d rest 5 → (∀ o ∈ s.ring.owed, o.1 ≠ d.w 2 % 256) →
      (∀ c ∈ s.str.cmds, c.1 = s.clk.ckr / 8 → c.2.1 ≠ d.w 2 % 256) → ∃ t, exec .free s = .next t ∧
      (∀ m, t.buoy m = if m = d.w 2 % 256 then Buoy.idle else s.buoy m) ∧ s.CtlBooks t rest ∧
      t = { s with
        buoys := { s.buoys with b := t.buoys.b, before := t.buoys.before, changedAt := t.buoys.changedAt }
        kp := t.kp, evq := t.evq }) ∧
    (∀ (k : Nat) (b : Buoy), s.CtlNext d rest 5 → (∀ o ∈ s.ring.owed, o.1 ≠ d.w 2 % 256) →
      s.str.cmds = [(s.clk.ckr / 8, d.w 2 % 256, b, k)] → ∃ t, exec .free s = .next t ∧
        t.buoy (d.w 2 % 256) = Buoy.idle ∧ t.cnt = (bump 0x024C s).cnt ∧ t.str.cmds = [] ∧ s.flt = t.flt) ∧
    (s.CtlNext d rest 0x10 → s.kp.ctlRun = [] → (d.cevt = true → s.evRoom = true) →
      exec .note s = .next { s with
        kp := { s.kp with
          ctlTaken := rest, ctlNum := s.kp.ctlNum + 1, cdone := (s.kp.cdone + 1) % 2 ^ 32 }
        evq := s.evq ++ (if d.cevt then
          [⟨0x03, 3, d.slot, s.clk.ticks % 2 ^ 32, s.seqNow, 0x10, d.user, 0, 0⟩] else []) }) ∧
    (∀ c : Fin 128, s.CtlNext d rest 0x0D → c.val = d.w 2 % 2 * 64 + d.w 2 / 2 % 64 → s.sentNow 3 c = 0 →
      (∀ w, s.td.cmdWas = some w → w.1 ≠ s.ctlCycle ∨ w.2.1 ≠ c) →
      (d.w 2 / 2 ^ 8 % 4 = 1 ∨ d.w 2 / 2 ^ 8 % 4 = 2 → (s.chan c).st ≠ .paused → ∃ t, exec .tdcmd s = .next t ∧
        t.cnt = (bump 0x025C s).cnt ∧ s.CtlBooks t rest ∧ t = { s with cnt := t.cnt, kp := t.kp, evq := t.evq }) ∧
      (d.w 2 / 2 ^ 8 % 4 = 2 → (s.chan c).st = .paused → ∃ t, exec .tdcmd s = .next t ∧
        (t.chan c).st = .finished ∧ (t.chan c).status = 4 ∧ s.CtlBooks t rest ∧
        t = { s with td := { s.td with ch := t.td.ch }, kp := t.kp, evq := t.evq }))

/-- LIGHT of one Dark sector asks for its power, and DARKEN of one Lit sector with nothing in flight closes it; either
then runs until the sector is settled. On a sector that already is as asked, either completes at once without effect (R59, R378, R433).
DARKEN of a sector for which BIST_CMD has come in the same control cycle, ahead of which it lands (R385), is left out. -/
def Obligations.ControlSectors : Prop :=
  ∀ (s : State) (d : Desc) (rest : List Desc) (k : Fin 64) (ps : Nat), s.Inv → d.w 2 + 2 ^ 32 * d.w 3 = 2 ^ k.val →
    s.psecOf k = some ps → (∀ w, s.flt.secSwap = some w → w.sec ≠ k.val) →
    (s.CtlNext d rest 1 → (s.secCtl k).st = .dark → s.pwr.lightQ = [] → s.pwr.lightOn.length < 4 →
      s.powerBusy (secDom ps) = false → ∃ t, exec .light s = .next t ∧
        (t.secCtl k).st = .lighting ∧ (∀ n, n ≠ k.val → t.secCtl n = s.secCtl n) ∧
        t.pwr.lightOn = s.pwr.lightOn ++ [(k.val, false)] ∧ t.pwr.reqs = s.pwr.reqs ++ [(34 + ps, 1)] ∧
        t.out = s.out ++ [.power (34 + ps) 1] ∧
        (∃ r ∈ t.kp.ctlRun, r.num = s.kp.ctlNum ∧ r.done = false ∧ r.secs = [k.val]) ∧ s.CtlBooks t rest ∧
        t = { s with
          osura := { s.osura with secs := t.osura.secs }
          pwr := { s.pwr with lightQ := [], lightOn := t.pwr.lightOn, reqs := t.pwr.reqs, asked := t.pwr.asked }
          out := t.out
          kp := t.kp, evq := t.evq }) ∧
    (s.ordered 7 k = false → s.CtlNext d rest 2 → (s.secCtl k).st = .lit → s.osura.cb = [] → s.osura.q = [] → s.log.pend = [] →
      ∃ t, exec .darken s = .next t ∧
        (t.secCtl k).st = .closing ∧ (t.secCtl k).closeAt = s.clk.cyc ∧
        (∀ n, n ≠ k.val → t.secCtl n = s.secCtl n) ∧
        (∃ r ∈ t.kp.ctlRun, r.num = s.kp.ctlNum ∧ r.done = false ∧ r.secs = [k.val]) ∧ s.CtlBooks t rest ∧
        t = { s with osura := { s.osura with secs := t.osura.secs }, kp := t.kp, evq := t.evq }) ∧
    (s.CtlNext d rest 1 → (s.secCtl k).st = .lit → ∃ t, exec .light s = .next t ∧ s.CtlBooks t rest ∧
      t = { s with kp := t.kp, evq := t.evq }) ∧
    (s.ordered 7 k = false → s.CtlNext d rest 2 → (s.secCtl k).st = .dark → ∃ t, exec .darken s = .next t ∧ s.CtlBooks t rest ∧
      t = { s with kp := t.kp, evq := t.evq })

/-- PAUSE asks a running stream to stop and runs until it has; ABORT stops issue and runs until the launch is over: once
the stores already issued are written, the stream's next cycle ends the launch with a WORK_DONE record of status
ABORT (R50, R426; here with nothing else in flight). Without a launch both complete without effect, and so does RESUME
without a resumable stop; with one it clears the stop (R375, R378). The statement takes a stream that KEEPER_CMD has not
commanded in the same control cycle (R385). ECLIPSE waits for quiescence, or is refused
with reason STATE on one of the grounds of R428. -/
def Obligations.ControlStream : Prop :=
  ∀ (s : State) (d : Desc) (rest : List Desc), s.Inv →
    (s.ordered 6 0 = false → s.CtlNext d rest 0x0A → s.wrun = true → s.streamStopped = false → s.str.ended = false →
      ∃ t, exec .pause s = .next t ∧ (∃ r ∈ t.kp.ctlRun, r.num = s.kp.ctlNum ∧ r.done = false) ∧ s.CtlBooks t rest ∧
        t = { s with str := { s.str with pauseReq := true }, kp := t.kp, evq := t.evq }) ∧
    (s.ordered 5 0 = false → s.CtlNext d rest 0x0B → s.wrun = true → s.str.stop.resumable = true → s.str.movs = [] →
      (∀ l ∈ s.ln, l.reqs = [] ∧ l.AtRest) → ∃ t, exec .resume s = .next t ∧ t.str.stop = .blank ∧ t.str.pc = s.str.pc ∧
        s.CtlBooks t rest ∧ t = { s with
          str := { s.str with
            stop := .blank, movRow := t.str.movRow, farFault := .blank, frozen := false, buoyWait := 0
            resuming := false, prods := t.str.prods }
          ln := t.ln, osura := { s.osura with q := t.osura.q }, kp := t.kp, evq := t.evq }) ∧
    (s.CtlNext d rest 0x0C → s.wrun = true → s.streamStopped = false → s.str.ended = false → s.aborting = false →
      ∃ t, exec .abort s = .next t ∧ t.str.launch = s.str.launch ∧ t.str.pc = s.str.pc ∧
        (s.str.stop.resumable = false → t.str.stop = s.str.stop) ∧
        t.str.stopWait = some (.plain 0x0C) ∧ t.str.movs = [] ∧ t.str.scalQ = [] ∧ t.str.scal = s.str.scal ∧
        t.str.window = s.str.window.filter (fun x => x.kind.isStore) ∧ t.str.due = s.str.due.filter (·.store) ∧
        (∃ r ∈ t.kp.ctlRun, r.num = s.kp.ctlNum ∧ r.done = false) ∧ s.CtlBooks t rest ∧
        t.lanes = s.lanes ∧ t.osura.data = s.osura.data ∧ t.buoys = s.buoys ∧ t.ln = s.ln ∧ t.td = s.td ∧
        t.ring = s.ring) ∧
    (s.aborting = true → s.wrun = true → s.streamStopped = false → s.rst.ready = true → s.clk.stopped = false →
      s.rst.pstate = 0 → s.errs = [] → s.str.window = [] → s.str.due = [] → s.str.bankStall = 0 → s.str.spareStall = 0 →
      s.str.spareDue = [] → s.str.farHits = [] → s.osura.cb = [] → s.str.carry = [] → s.osura.q = [] → s.evRoom = true →
      (∀ x ∈ s.td.ch, x.2.ring.isSome = true) → s.td.sentBack = [] →
      (∀ l ∈ s.ln, l.prods = [] ∧ l.q = [] ∧ l.sentBack = [] ∧ l.halted = false ∧ l.suspended = false) →
      ∃ t, exec .bundleIssue s = .next t ∧ t.str.launch = none ∧ t.str.stop = .blank ∧ t.str.scal = s.str.scal ∧
        (∃ e, s.evq ++ [e] <+: t.evq ∧ e.typ = 0x01 ∧ e.p0 = 0x0C ∧ e.p2 = s.str.pc) ∧
        t.lanes = s.lanes ∧ t.osura.data = s.osura.data ∧ t.buoys = s.buoys ∧
        ∀ k, t.chan k = { s.chan k with waited := (t.chan k).waited }) ∧
    (∀ c ∈ [(0x0A, Instr.pause), (0x0B, Instr.resume), (0x0C, Instr.abort)], s.CtlNext d rest c.1 → s.wrun = false →
      ∃ t, exec c.2 s = .next t ∧ s.CtlBooks t rest ∧ t = { s with kp := t.kp, evq := t.evq }) ∧
    (s.CtlNext d rest 0x0E → s.eclipseBarred = false → ∃ t, exec .eclipse s = .next t ∧
      t.rst.eclipse = some s.kp.ctlNum ∧ s.CtlBooks t rest ∧
      t = { s with
        rst := { s.rst with eclipse := t.rst.eclipse, eclipseAt := (d.slot, d.user) }, kp := t.kp, evq := t.evq }) ∧
    (s.CtlNext d rest 0x0E → s.eclipseBarred = true → ∃ t, exec .eclipse s = .next t ∧
      (∃ e ∈ t.evq, e.typ = 0x02 ∧ e.ring = 3 ∧ e.index = d.slot ∧ e.p0 = 8 + 256 * 0x0E) ∧ s.CtlBooks t rest ∧
      t = { s with kp := t.kp, evq := t.evq })

/-- MOOR sets a mooring, or is refused with reason SETTING where a rule of R344 is broken; TOKEN to this chip puts its
bytes on the loopback path; LOAD and START queue their command on their Lantern when its block passes the checks, and
wait while its queue is full (R274, R332, R344, R378, R379). That every broken rule of R344, a BASE or range beyond Osura
included, gives reason SETTING, and that a descriptor waits while a bank of its block is not free in its cycle (R31), is
the model's choice (notes/assumptions/30.md). LOAD and START are taken with no FUS issued to their Lantern in the same
control cycle, ahead of which they would land (R386). -/
def Obligations.ControlUnits : Prop :=
  ∀ (s : State) (d : Desc) (rest : List Desc), s.Inv →
    (s.CtlNext d rest 3 → (moorOf d).ok = true → ∃ t, exec .moor s = .next t ∧
      t.ring.moors = sset Moor.shut s.ring.moors (d.w 2 % 64) (if (moorOf d).isOpen then moorOf d else Moor.shut) ∧
      (∀ o, o ∈ t.ring.owed → o.2.1 ≠ d.w 2 % 64) ∧ s.CtlBooks t rest ∧
      t.osura = s.osura ∧ t.lanes = s.lanes ∧ t.td = s.td ∧ t.buoys = s.buoys ∧ t.str = s.str) ∧
    (s.CtlNext d rest 3 → (moorOf d).ok = false → ∃ t, exec .moor s = .next t ∧
      (∃ e ∈ t.evq, e.typ = 0x02 ∧ e.ring = 3 ∧ e.index = d.slot ∧ e.p0 = 0x0B + 256 * 3) ∧ s.CtlBooks t rest ∧
      t = { s with kp := t.kp, evq := t.evq }) ∧
    (s.CtlNext d rest 0x0F → 0 < d.w 4 → d.w 4 ≤ 64 → d.w 3 % 256 + d.w 4 ≤ 256 → inOsura (d.w 5) (d.w 4) = true →
      s.runOpen (d.w 5) (d.w 4) = true → d.w 2 % 2 ^ 16 = s.ring.chipId →
      (s.takeBanks (d.w 5) (d.w 4) = none → exec .token s = .next s) ∧
      (s.takeBanks (d.w 5) (d.w 4) ≠ none → ∃ t p, exec .token s = .next t ∧
        t.ring = { s.ring with loopQ := s.ring.loopQ ++ [p] } ∧ p.kind = 0 ∧ p.cls = 0 ∧ p.dst = s.ring.chipId ∧
        p.moor = d.w 2 / 2 ^ 16 % 64 ∧ p.offset = d.w 3 ∧ p.payload = (s.readRun (d.w 5) (d.w 4)).1 ∧
        s.CtlBooks t rest ∧ t.lanes = s.lanes ∧ t.buoys = s.buoys ∧ t.td = s.td ∧ t.osura.data = s.osura.data)) ∧
    (∀ (n : Fin 4) (x : LnCmd), n.val = d.w 2 % 4 → n.val < s.ln.length → (s.lan n).q.length < 4 →
      s.sentNow 2 n = 0 →
      (∀ len, len = chainBytes (ofBytes (s.readRun (d.w 3) 4).1) → s.CtlNext d rest 6 → s.runOpen (d.w 3) 16 = true →
        s.runOpen (d.w 3) len = true → fusLoad s n (d.w 2 / 4 % 64) (d.w 3) (some s.kp.ctlNum) = .ok x →
        (s.takeBanks (d.w 3) len = none → exec .load s = .next s) ∧
        (∀ v, s.takeBanks (d.w 3) len = some v → ∃ t u, exec .load s = .next t ∧
          (t.lan n).q = (s.lan n).q ++ [x] ∧ (∀ m, m ≠ n.val → t.lan m = s.lan m) ∧
          t.kp.ctlTaken = rest ∧ v.ReadsOnly u ∧ t = { u with ln := t.ln, kp := t.kp, evq := t.evq })) ∧
      (s.CtlNext d rest 7 → s.runOpen (d.w 3) 128 = true →
        fusStart s n (d.w 2 / 4 % 64) (d.w 3) (some s.kp.ctlNum) none = .ok x →
        (s.takeBanks (d.w 3) 128 = none → exec .start s = .next s) ∧
        (∀ v, s.takeBanks (d.w 3) 128 = some v → ∃ t u, exec .start s = .next t ∧
          (t.lan n).q = (s.lan n).q ++ [x] ∧ (∀ m, m ≠ n.val → t.lan m = s.lan m) ∧
          t.kp.ctlTaken = rest ∧ v.ReadsOnly u ∧ t = { u with ln := t.ln, kp := t.kp, evq := t.evq }))) ∧
    (4 ≤ (s.lan (d.w 2 % 4)).q.length → s.sentNow 2 (d.w 2 % 4) = 0 → (s.CtlNext d rest 6 → exec .load s = .next s) ∧
      (s.CtlNext d rest 7 → exec .start s = .next s))

/-! ### Memory ports -/

/-- MEM_REQUEST_ISSUE gives a port's oldest far-load read a tag and puts it on the port, and does nothing where
nothing waits (R138, R319, R320). A response frees its tag, but one that its channel keeps while a buoy holds up the write of the data (R78), and reaches
its owner: a Tender read's bytes, a Tender write's end; a tag that is not outstanding, and a request unanswered for 2^20 fabric cycles, are faults of the port
(R321, R448). -/
def Obligations.MemoryPorts : Prop :=
  ∀ (s : State) (p : Fin 24), s.Inv → s.rst.ready = true → s.rst.por = false →
    sget false s.mem.fenced p = false →
    (∀ (r : MemReq) (tag : Nat), s.clk.stopped = false → s.mem.farQ.find? (fun r => portOf r.iova == p.val) = some r →
      r.wr = none → s.mem.freeTag p false = some tag → ∃ t, exec (.memRequestIssue p) s = .next t ∧
        t.out = s.out ++ [.memRead p tag r.iova r.len] ∧ t.mem.farQ = s.mem.farQ.erase r ∧
        t.mem.rd = s.mem.rd ++ [⟨p, tag, r.who, r.iova, r.len, none, s.clk.fab⟩] ∧
        t = { s with mem := { s.mem with farQ := t.mem.farQ, rd := t.mem.rd }, out := t.out }) ∧
    (s.mem.farQ = [] → s.mem.logQ = [] → s.td.ch = [] → exec (.memRequestIssue p) s = .next s) ∧
    (∀ (x : MemTag) (tag : BitVec 11) (bs : List Byte) (c req : Nat), bs.length = 256 → s.mem.rd = [x] →
      x.port = p.val → x.tag = tag.toNat → x.who = .tender c req → (s.chan c).st = .busy → (s.chan c).status = 0 →
      (s.chan c).fault = none → (s.chan c).phase = 1 → (s.chan c).streams = false →
      (∃ r ∈ (s.chan c).reads, r.req ≠ req ∧ r.data = none) →
      ∃ t, exec (.memReadResponse p tag 0#2 bs) s = .next t ∧
        (∀ r, (s.chan c).reads.find? (fun r => r.req == req) = some r →
          t.mem.held = if s.linesHeld ((s.chan c).dstLines r) then
            s.mem.held ++ [⟨p, tag.toNat, c, (s.chan c).dstLines r⟩] else s.mem.held) ∧
        (t.chan c).reads = (s.chan c).reads.map (fun r =>
          if r.req = req then { r with data := some ((bs.drop (x.iova % 256)).take x.len) } else r) ∧
        (∀ k, k ≠ c → t.chan k = s.chan k) ∧
        t = { s with mem := { s.mem with rd := [], held := t.mem.held }, td := { s.td with ch := t.td.ch } }) ∧
    (∀ (x : MemTag) (tag : BitVec 9) (c req : Nat), s.mem.wr = [x] → x.port = p.val → x.tag = tag.toNat →
      x.who = .tender c req → (s.chan c).st = .busy → (s.chan c).status = 0 → (s.chan c).fault = none →
      (s.chan c).phase = 2 → (∃ w ∈ (s.chan c).writes, w.1 ≠ req) → ∃ t, exec (.memWriteAck p tag 0#2) s = .next t ∧
        (t.chan c).writes = (s.chan c).writes.filter (fun w => w.1 != req) ∧ (∀ k, k ≠ c → t.chan k = s.chan k) ∧
        t = { s with mem := { s.mem with wr := [] }, td := { s.td with ch := t.td.ch } }) ∧
    (∀ (tag : BitVec 11) (st : BitVec 2) (bs : List Byte), bs.length = 256 → s.mem.rd = [] →
      ∃ t, exec (.memReadResponse p tag st bs) s = .next t ∧ s.Detected t 0x09 4 p 0xFF 0) ∧
    (∀ (tag : BitVec 9) (st : BitVec 2), s.mem.wr = [] →
      ∃ t, exec (.memWriteAck p tag st) s = .next t ∧ s.Detected t 0x09 4 p 0xFF 0) ∧
    (∀ (x : MemTag) (tag : BitVec 11), s.mem.rd = [x] → x.port = p.val → x.tag = tag.toNat → x.who ≠ .expired →
      (x.at_ + 2 ^ 20 ≤ s.clk.fab → ∃ t, exec (.memTimeout p false tag) s = .next t ∧
        State.Detected { s with mem := { s.mem with rd := [{ x with who := .expired }] } } t 0x09 5 p 0xFF 0) ∧
      (s.clk.fab < x.at_ + 2 ^ 20 → exec (.memTimeout p false tag) s = .next s))

/-! ### Lanterns -/

/-- A LOAD at the head of a Lantern's queue takes effect when no product is unfinished: its chain fills its slot
(R275). A START whose product is not empty is announced when its operands' buoys are clear, and waits until then; it
alternates the CID's parity (R269, R281). A product whose work and writes are over completes with its event (R282).
A LOAD whose chain has tables asks for them first. The statement of a completion takes products without buoys to
count. -/
def Obligations.LanternCommands : Prop :=
  ∀ (s : State) (n : Fin 4) (c : LnCmd) (rest : List LnCmd), n.val < s.ln.length → s.rst.ready = true →
    (s.lan n).stuck = false →
    (∀ ch, (s.lan n).q = c :: rest → c.load = some ch → (∃ x ∈ ch.tables, x.2.2 ≠ 0) → (s.lan n).prods = [] →
      (s.lan n).tab = none → ∃ t f rs, exec (.loadTakeEffect n) s = .next t ∧
        t.lan n = { s.lan n with tab := some f, nreq := (t.lan n).nreq } ∧ f.out ≠ [] ∧ f.data = [] ∧
        t.osura.q = s.osura.q ++ rs ∧ (∀ r ∈ rs, r.agent = .lantern ∧ r.wr = none) ∧
        rs.map (fun r => (r.addr, r.len)) = ch.tables.flatMap (fun x =>
          (splitRun 1024 (x.2.2 / 1024 + 2) x.2.1 x.2.2 0).map (fun y => (y.1, y.2.1))) ∧
        (∀ m, m ≠ n.val → t.lan m = s.lan m) ∧ t = { s with ln := t.ln, osura := { s.osura with q := t.osura.q } }) ∧
    (∀ ch, (s.lan n).q = c :: rest → c.load = some ch → ch.tables = [] → (s.lan n).prods = [] → c.ctl = none →
      (s.lan n).tab = none →
      ∃ t, exec (.loadTakeEffect n) s = .next t ∧
        t.lan n = { s.lan n with
          q := rest, slots := sset none (s.lan n).slots c.slot (some { ch with tabs := [] }) } ∧
        (∀ m, m ≠ n.val → t.lan m = s.lan m) ∧ t = { s with ln := t.ln }) ∧
    ((s.lan n).q = c :: rest → (s.lan n).prods ≠ [] → exec (.loadTakeEffect n) s = .next s) ∧
    (∀ b ch, (s.lan n).q = c :: rest → c.start = some b → sget none (s.lan n).slots c.slot = some ch →
      (s.lan n).prods.length < 2 → b.empty = false → (s.lan n).relay = [] →
      (pathRuns ch b 0 ++ pathRuns ch b 1).all (fun r => (s.runsNotReady r).isEmpty) = true →
      ∃ t, exec (.productAnnounce n) s = .next t ∧
        t.out = s.out ++ [.announce n (announceWords (c.slot + 64 * bit (s.lan n).par) ch b)] ∧
        (t.lan n).prods.map (fun p => (p.slot, p.cid, p.chain, p.blk)) =
          (s.lan n).prods.map (fun p => (p.slot, p.cid, p.chain, p.blk)) ++
            [(c.slot, c.slot + 64 * bit (s.lan n).par, ch, b)] ∧ (t.lan n).q = rest ∧ (t.lan n).par = !(s.lan n).par ∧
        (∀ m, m ≠ n.val → t.lan m = s.lan m) ∧ t = { s with ln := t.ln, out := t.out }) ∧
    (∀ b ch, (s.lan n).q = c :: rest → c.start = some b → sget none (s.lan n).slots c.slot = some ch →
      (s.lan n).prods.length < 2 → b.empty = false →
      (pathRuns ch b 0 ++ pathRuns ch b 1).all (fun r => (s.runsNotReady r).isEmpty) = false →
      ∃ t, exec (.productAnnounce n) s = .next t ∧ t.lan n = { s.lan n with annWait := true } ∧
        (∀ m, m ≠ n.val → t.lan m = s.lan m) ∧ t = { s with ln := t.ln }) ∧
    (∀ p, (s.lan n).prods = [p] → p.worked = true → (s.lan n).writes = [] → (s.lan n).relay = [] →
      (∀ l ∈ s.ln, l.AtRest) →
      (∀ st ∈ p.chain.epi, st.code = 0x1D ∧ bitOf st.p16 8 = false) → p.ctl = none → p.blk.evt = true → s.evRoom = true → ∃ t, exec (.productComplete n) s = .next t ∧ (t.lan n).prods = [] ∧
        t.evq = s.evq ++ [⟨0x06, 0, 0, s.clk.ticks % 2 ^ 32, s.seqNow, n + 4 * p.slot, p.blk.evtdata, 0, 0⟩] ∧
        (∀ m, m ≠ n.val → t.lan m = s.lan m) ∧ t = { s with ln := t.ln, evq := t.evq }) ∧
    ((s.lan n).prods = [] → exec (.productComplete n) s = .next s)

/-- An OPERAND_REQUEST inside its announced product is accepted, and what its operand beat reads, here of a path
without GATHER, is asked for as LANTERN traffic (R45, R268, R297); when the last of these reads has been served, the
beat goes out (R268). Outside every product it is a violation of the port. A RESULT_BEAT in its place takes a credit and
enters the buffer, here one whose Lantern waits for a write, and after the product's last beat, with no request waiting,
ABUOY is released (R76, R279; that this is the end of the source reads is the model's choice,
notes/assumptions/25.md); without a credit, with unlike headers, or with half 1 alone, it is a violation (R270 to R272,
R450). A tail pass starts, of the row tile whose last beat has come first, when no park write of it is outstanding: its
first beat is read back from the park area (R293). A
Lantern that waits too long for a relay buffer is suspended, and the stream is to stop naming it, or, for a chain of the
Control ring, an event says so (R295, R298). Each of the four commands completes under these premises alone. -/
def Obligations.LanternData : Prop :=
  ∀ (s : State) (n : Fin 4), n.val < s.ln.length → s.rst.ready = true → (s.lan n).stuck = false →
    (∀ (p : LnProd) (h : Word) (path i k : Nat) (x : ProCtx), path = h.toNat / 2 ^ 24 % 2 → i = h.toNat % 2 ^ 12 →
      k = h.toNat / 2 ^ 12 % 2 ^ 12 → (s.lan n).prod (h.toNat / 2 ^ 25 % 2 ^ 7) = some p →
      x = ⟨p.chain, p.blk, path, LnFetch.blank.num,
        fun r c => (s.lan n).relayElem 0 (if path = 0 then p.relA else p.relB) r c⟩ →
      (s.lan n).reqs = [] → (s.lan n).pro = none → p.chain.relaySrc path = none → x.indexReads i = [] →
      x.beatReads i k ≠ [] → (∀ r ∈ x.beatReads i k, r.2 ≠ 0) →
      i < ceilDiv (if path = 0 then p.blk.m else p.blk.n) 32 → k < p.chunksOf path →
      ∃ t f rs, exec (.operandRequest n h) s = .next t ∧
        t.lan n = { s.lan n with reqs := [h.toNat], pro := some (true, f), nreq := (t.lan n).nreq, quiet := 0 } ∧
        f.data = [] ∧ f.out.map (·.2) = rs.map (·.addr) ∧ t.osura.q = s.osura.q ++ rs ∧
        (∀ r ∈ rs, r.agent = .lantern ∧ r.wr = none ∧ r.checked = false) ∧
        rs.map (fun r => (r.addr, r.len)) = (x.beatReads i k).flatMap (fun y =>
          (splitRun 1024 (y.2 / 1024 + 2) y.1 y.2 0).map (fun z => (z.1, z.2.1))) ∧
        (∀ m, m ≠ n.val → t.lan m = s.lan m) ∧ t = { s with ln := t.ln, osura := { s.osura with q := t.osura.q } }) ∧
    (∀ (p : LnProd) (h path i k req : Nat) (r : AsyncReq) (f : LnFetch) (bs : List Byte), path = h / 2 ^ 24 % 2 →
      i = h % 2 ^ 12 → k = h / 2 ^ 12 % 2 ^ 12 → (s.lan n).prod (h / 2 ^ 25 % 2 ^ 7) = some p →
      (∀ q ∈ (s.lan n).prods, q.parkReqs = []) → (s.lan n).reqs = [h] → (s.lan n).pro = some (true, f) →
      f.out = [(req, r.addr)] → p.chain.relaySrc path = none → (s.lan n).tab = none → p.released = true →
      (∀ l ∈ s.ln, l.AtRest) → (s.lan n).writes = [] → r.stalled = false → s.streamBanks = [] →
      s.osura.q = [r] → r.who = .lantern n req → r.agent = .lantern → r.wr = none → r.checked = false → r.passes = 1 →
      bs = (s.readOsura false r.addr r.len).1 → s.clk.stopped = false → asyncOwns s.osura.share s.clk.cyc = true →
      secOf r.addr < 64 → (s.secCtl (secOf r.addr)).served ≤ s.clk.cyc → s.secOpen (secOf r.addr) = true →
      s.str.window = [] → s.str.bankStall = 0 → (∀ x ∈ s.ring.ports, x.held = []) →
      ∃ t, exec (.osuraAsyncServe (Fin.ofNat 64 (secOf r.addr))) s = .next t ∧
        t.out = s.out ++ [.operand n h (operandBeat ⟨p.chain, p.blk, path,
          LnFetch.num ⟨[], f.data ++ [(r.addr, bs)]⟩,
          fun r c => (s.lan n).relayElem 0 (if path = 0 then p.relA else p.relB) r c⟩ i k).1] ∧
        (t.lan n).reqs = [] ∧ (t.lan n).pro = none ∧ (∀ m, m ≠ n.val → t.lan m = s.lan m) ∧
        t.buoys = s.buoys ∧ t.lanes = s.lanes ∧ t.td = s.td ∧ t.osura.data = s.osura.data) ∧
    (∀ h : Word, (s.lan n).prod (h.toNat / 2 ^ 25 % 2 ^ 7) = none → (s.lan n).reqs.length < 32 →
      ∃ t, ∃ u : State, exec (.operandRequest n h) s = .next t ∧ u.lan n = { s.lan n with cause := 4 } ∧
        (∀ m, m ≠ n.val → u.lan m = s.lan m) ∧ u = { s with ln := u.ln } ∧ u.Detected t 0x07 4 n 0xFF 0) ∧
    (∀ (p : LnProd) (h : Word) (vs : List Word) (i j : Nat), vs.length = 1024 → 0 < (s.lan n).engCredits →
      i = h.toNat % 2 ^ 12 → j = h.toNat / 2 ^ 12 % 2 ^ 12 →
      (s.lan n).prod (h.toNat / 2 ^ 25 % 2 ^ 7) = some p → (s.lan n).writes ≠ [] → (s.lan n).epi = none →
      (s.lan n).relayWait = false → (s.lan n).osmxReady = none → p.chain.count 0x19 ≠ 1 → i < p.blk.rowTiles → j = sget 0 p.next i →
      j < p.blk.colTiles → h.getLsbD 24 = (j + 1 == p.blk.colTiles) →
      ∃ t q, exec (.resultBeat n (some h) h vs) s = .next t ∧ (t.lan n).engCredits = (s.lan n).engCredits - 1 ∧
        (t.lan n).buf = (s.lan n).buf ++ [(h.toNat, vs.map BitVec.toNat)] ∧
        (t.lan n).prod p.cid = some q ∧ q = { p with next := sset 0 p.next i (j + 1), released := q.released } ∧
        ((p.released = true ∨ p.blk.arel = false ∧ p.blk.brel = false ∨
          (q.next.map (·.2)).foldl (· + ·) 0 ≠ p.blk.rowTiles * p.blk.colTiles) → t.buoys = s.buoys ∧ t.cnt = s.cnt) ∧
        (p.released = false → p.blk.arel = true → p.blk.brel = false → s.Inv → s.commanded p.blk.abuoy = false →
          (q.next.map (·.2)).foldl (· + ·) 0 = p.blk.rowTiles * p.blk.colTiles → (s.lan n).reqs = [] →
          (s.buoy p.blk.abuoy).st = .ready → (s.buoy p.blk.abuoy).consume ≠ 0 → 1 < (s.buoy p.blk.abuoy).c →
          ∀ m, t.buoy m = if m = p.blk.abuoy then { s.buoy m with c := (s.buoy m).c - 1 } else s.buoy m) ∧
        (∀ m, m ≠ n.val → t.lan m = s.lan m) ∧
        t = { s with ln := t.ln, buoys := t.buoys, cnt := t.cnt, str := { s.str with cmds := t.str.cmds } }) ∧
    (∀ (h0 : Option Word) (h1 : Word) (vs : List Word), (h0.isSome = true → vs.length = 1024) →
      (h0 ≠ some h1 ∨ (s.lan n).engCredits = 0) →
      ∃ t, ∃ u : State, exec (.resultBeat n h0 h1 vs) s = .next t ∧ u.lan n = { s.lan n with cause := 4 } ∧
        (∀ m, m ≠ n.val → u.lan m = s.lan m) ∧ u = { s with ln := u.ln } ∧ u.Detected t 0x07 4 n 0xFF 0) ∧
    (∀ (p : LnProd) (w : BeatWork) (i : Nat) (rest : List (Nat × Nat)), (s.lan n).prods = [p] →
      (s.lan n).lastOrder = (p.cid, i) :: rest → (∀ r ∈ p.parkReqs, r.2 ≠ i) → (∀ b ∈ p.pend, b.1 ≠ i) → (s.lan n).epi = none → (s.lan n).writes = [] →
      (s.lan n).relayWait = false → 0 < p.blk.colTiles →
      w = ⟨p.chain.epi.findIdx (·.code == 0x1C) + 1, i, 0, [], none, true⟩ →
      ∃ t f rs, exec (.tailPassStart n) s = .next t ∧
        t.lan n = { s.lan n with
          lastOrder := rest, nreq := (t.lan n).nreq
          epi := some ⟨p.cid, some i, (upTo p.blk.colTiles).map (fun j => { w with colt := j }), some f⟩ } ∧
        f.data = [] ∧ f.out.map (·.2) = rs.map (·.addr) ∧ t.osura.q = s.osura.q ++ rs ∧
        (∀ r ∈ rs, r.agent = .lantern ∧ r.wr = none) ∧
        rs.map (fun r => (r.addr, r.len)) =
          (splitRun 1024 ((p.parkPlace w).2.1 / 1024 + 2) (p.parkPlace w).1 (p.parkPlace w).2.1 0).map
            (fun y => (y.1, y.2.1)) ∧
        (∀ m, m ≠ n.val → t.lan m = s.lan m) ∧ t = { s with ln := t.ln, osura := { s.osura with q := t.osura.q } }) ∧
    ((s.lan n).lastOrder = [] → exec (.tailPassStart n) s = .next s) ∧
    (∀ (lim : Nat) (j : EpiJob) (p : LnProd), s.stallLimit = some lim → s.relayStalled n = true →
      lim < (s.lan n).relayed → (s.lan n).epi = some j → (s.lan n).prod j.cid = some p →
      ∃ t, exec (.relayStallTimeout n) s = .next t ∧
        t.lan n = { s.lan n with
          suspended := true, cause := 2, waited := 0, relayed := 0, quiet := 0, named := (s.lan n).named || p.ctl.isNone } ∧
        (∀ m, m ≠ n.val → t.lan m = s.lan m) ∧
        (p.ctl = none → t = { s with
          ln := t.ln, osura := { s.osura with q := t.osura.q }
          str := { s.str with
            stopWait := (if s.wrun = true ∧ s.streamStopped = false then
              (match s.str.stopWait with
                | some a => if a.cause = 2 then some ⟨5, some 8, 0, 0, 0, 0⟩ else some a
                | none => some ⟨5, some 8, 0, 0, 0, 0⟩) else s.str.stopWait) } }) ∧
        (p.ctl ≠ none → s.evRoom = true → t = { s with
          ln := t.ln, osura := { s.osura with q := t.osura.q }
          evq := s.evq ++ [⟨0x06, 0, 0, s.clk.ticks % 2 ^ 32, s.seqNow, n + 4 * p.slot + 1024, p.blk.evtdata, 0, 0⟩] })) ∧
    (∀ lim, s.stallLimit = some lim → (s.lan n).relayed ≤ lim → exec (.relayStallTimeout n) s = .next s)

/-! ### Ports and links -/

/-- Abort acknowledgements empty the buffers of their port and end the handshake; one without a request is a violation
(R454, R459); a handshake that has taken 65,536 core cycles fences the port with a fault of reason TIMEOUT. A lowered VALID, a
framing violation, a link that fails and an outbound credit count above 65,535 are faults of reason PROTOCOL, which
are queued for the fault sequencer (R439, R441, R457 to R459); a port that starts returns its full buffers
(R458), by transfers of 1 to 15 credits (R456). -/
def Obligations.PortsAndLinks : Prop :=
  ∀ (s : State) (l : Fin 4) (n : Fin 8), l.val < s.ln.length → s.ring.ports.length = 8 → s.rst.ready = true →
    ((s.lan l).abort = true → ∃ t, exec (.fpAbortAck l) s = .next t ∧
      t.lan l = { s.lan l with
        abort := false, ack := true, halted := false, suspended := false
        prods := (s.lan l).prods.map (fun p => p.unsent (s.lan l).buf), buf := [], reqs := [], pro := none
        engCredits := 16, waited := 0, relayed := 0, quiet := 0 } ∧
      (∀ m, m ≠ l.val → t.lan m = s.lan m) ∧ t = { s with ln := t.ln }) ∧
    ((s.lan l).abort = false → (s.lan l).fenced = false → ∃ t, ∃ u : State, exec (.fpAbortAck l) s = .next t ∧
      u.lan l = { s.lan l with ack := true, cause := 4 } ∧
      (∀ m, m ≠ l.val → u.lan m = s.lan m) ∧ u = { s with ln := u.ln } ∧ u.Detected t 0x07 4 l 0xFF 0) ∧
    ((s.lan l).abort = true → (s.lan l).abortAt + 65536 ≤ s.clk.cyc → ∃ t, ∃ u : State, exec (.fpAbortTimeout l) s = .next t ∧
      u.lan l = { s.lan l with abort := false, fenced := true, cause := 4 } ∧
      (∀ m, m ≠ l.val → u.lan m = s.lan m) ∧ u = { s with ln := u.ln } ∧ u.Detected t 0x07 5 l 0xFF 0) ∧
    ((s.lan l).abort = false ∨ s.clk.cyc < (s.lan l).abortAt + 65536 → exec (.fpAbortTimeout l) s = .next s) ∧
    ((s.lan l).abort = false → (s.lan l).AtRest → ∃ t, exec (.abortAckFall (.fp l)) s = .next t ∧
      t.lan l = { s.lan l with ack := false } ∧ (∀ m, m ≠ l.val → t.lan m = s.lan m) ∧ t = { s with ln := t.ln }) ∧
    ((s.rport n).abort = true → ∃ t, exec (.ringAbortAck n) s = .next t ∧
      t.rport n = { s.rport n with
        abort := false, ack := true, used := [0, 0, 0], held := [], out := [0, 0, 0], started := false
        fwd := (s.rport n).fwd.filter (fun p => p.port != some n.val) } ∧
      (∀ m, m ≠ n.val → t.rport m = { s.rport m with
        fwd := (s.rport m).fwd.filter (fun p => p.port != some n.val) }) ∧
      t.ring.arrivals = s.ring.arrivals.filter (fun a => a.pkt.port != some n.val) ∧
      t = { s with
        ring := { s.ring with ports := t.ring.ports, arrivals := t.ring.arrivals }
        osura := { s.osura with q := t.osura.q } }) ∧
    ((s.rport n).abort = false → (s.rport n).fenced = false → ∃ t, ∃ u : State, exec (.ringAbortAck n) s = .next t ∧
      u.rport n = { s.rport n with ack := true } ∧ (∀ m, m ≠ n.val → u.rport m = s.rport m) ∧
      u = { s with ring := { s.ring with ports := u.ring.ports } } ∧ u.Detected t 0x08 4 n 0xFF 0) ∧
    ((s.rport n).abort = true → (s.rport n).abortAt + 65536 ≤ s.clk.cyc → ∃ t, ∃ u : State, exec (.ringAbortTimeout n) s = .next t ∧
      u.rport n = { s.rport n with abort := false, fenced := true } ∧ (∀ m, m ≠ n.val → u.rport m = s.rport m) ∧
      u = { s with ring := { s.ring with ports := u.ring.ports } } ∧ u.Detected t 0x08 5 n 0xFF 0) ∧
    ((s.rport n).abort = false ∨ s.clk.cyc < (s.rport n).abortAt + 65536 → exec (.ringAbortTimeout n) s = .next s) ∧
    (∀ cls units, ∃ ks : List Nat, creditReturns n cls units = ks.map (PortOut.ringCredit n cls) ∧
      (∀ k ∈ ks, 1 ≤ k ∧ k ≤ 15) ∧ ks.sum = units) ∧
    ((s.rport n).abort = false → (s.rport n).started = false → (s.rport n).fenced = false → s.packetsOn = true →
      s.ring.porten.testBit n = true → (s.rport n).linkUp = true → (s.rport n).used = [0, 0, 0] →
      ∃ t, exec (.abortAckFall (.ring n)) s = .next t ∧ t.rport n = { s.rport n with ack := false, started := true } ∧
        (∀ m, m ≠ n.val → t.rport m = s.rport m) ∧
        t.out = s.out ++ (creditReturns n 0 128 ++ creditReturns n 1 1024 ++ creditReturns n 2 1024) ∧
        t = { s with ring := { s.ring with ports := t.ring.ports }, out := t.out }) ∧
    ((s.rport n).started = false → (s.rport n).fenced = false → (s.rport n).abort = false → (s.rport n).ack = false →
      (s.rport n).used = [0, 0, 0] → ∃ t, exec (.linkUpRise n) s = .next t ∧
        (s.packetsOn = true ∧ s.ring.porten.testBit n = true →
          t.rport n = { s.rport n with linkUp := true, started := true } ∧
          t.out = s.out ++ (creditReturns n 0 128 ++ creditReturns n 1 1024 ++ creditReturns n 2 1024)) ∧
        (¬ (s.packetsOn = true ∧ s.ring.porten.testBit n = true) →
          t.rport n = { s.rport n with linkUp := true } ∧ t.out = s.out) ∧
        (∀ m, m ≠ n.val → t.rport m = s.rport m) ∧
        t = { s with ring := { s.ring with ports := t.ring.ports }, out := t.out }) ∧
    (∃ t, ∃ u : State, exec (.linkDown n) s = .next t ∧ u.rport n = { s.rport n with linkUp := false, started := false } ∧
      (∀ m, m ≠ n.val → u.rport m = s.rport m) ∧ u = { s with ring := { s.ring with ports := u.ring.ports } } ∧
      ((s.rport n).linkUp = true ∧ s.ring.porten.testBit n = true → u.Detected t 0x08 4 n 0xFF 0) ∧
      (¬ ((s.rport n).linkUp = true ∧ s.ring.porten.testBit n = true) → t = u)) ∧
    (∀ (c : BitVec 2) (k : BitVec 4), (s.rport n).abort = false → (s.rport n).fenced = false →
      (s.rport n).out.length = 3 →
      (c ≠ 3#2 → (s.rport n).out.getD c.toNat 0 + k.toNat ≤ 65535 → ∃ t,
        exec (.ringCreditReturn n c k) s = .next t ∧
        (t.rport n).out = (s.rport n).out.set c.toNat ((s.rport n).out.getD c.toNat 0 + k.toNat) ∧
        t.rport n = { s.rport n with out := (t.rport n).out } ∧ (∀ m, m ≠ n.val → t.rport m = s.rport m) ∧
        t = { s with ring := { s.ring with ports := t.ring.ports } }) ∧
      (c = 3#2 ∨ 65535 < (s.rport n).out.getD c.toNat 0 + k.toNat →
        ∃ t, exec (.ringCreditReturn n c k) s = .next t ∧ s.Detected t 0x08 4 n 0xFF 0)) ∧
    (s.portLive n = true → ∀ i ∈ [Instr.inboundFramingViolation n, Instr.validLowered (.ring n)],
      ∃ t, exec i s = .next t ∧ s.Detected t 0x08 4 n 0xFF 0) ∧
    (s.portLive n = false → ∀ i ∈ [Instr.inboundFramingViolation n, Instr.validLowered (.ring n)],
      exec i s = .next s) ∧
    (s.kp.sysFenced = false → ∃ t, exec (.validLowered .sys) s = .next t ∧ s.Detected t 0x0A 4 0 0xFF 0) ∧
    (∀ m : Fin 24, sget false s.mem.fenced m = false →
      ∃ t, exec (.validLowered (.mem m)) s = .next t ∧ s.Detected t 0x09 4 m 0xFF 0) ∧
    ((s.lan l).present = true → (s.lan l).fenced = false → (s.lan l).abort = false →
      ∃ t, ∃ u : State, exec (.validLowered (.fp l)) s = .next t ∧ u.lan l = { s.lan l with cause := 4 } ∧
        (∀ m, m ≠ l.val → u.lan m = s.lan m) ∧ u = { s with ln := u.ln } ∧ u.Detected t 0x07 4 l 0xFF 0) ∧
    (s.rst.por = false → exec (.validLowered .sb) s = .next { s with cnt := (bump 0x0270 s).cnt })

/-! ### Packets -/

/-- DATA into an open mooring queues the write of its payload at BASE + OFFSET, and keeps its space until that is
written (R339, R347); the mooring is as the packet meets it (R385). DATA that a check refuses writes
nothing and is answered by a NAK to its source with the reason (R348), here an uncredited packet. CREDIT loads or
raises the outbound credit (R350). ACK ends a chunk of its SEND (R353), and NAK notes a refusal; one of a token, which
has XTAG 0 and returns no credit (the model's choice, log entry 37), is an
event (R348, R381); either for no SEND is dropped with reason XTAG. A packet of a reserved kind is dropped with reason
KIND (R336). MREQ makes the lead light start a mark, after the present one if one runs (R355). Every packet but accepted
DATA frees its space as it is taken (R339). -/
def Obligations.RingDataPackets : Prop :=
  ∀ (s : State) (port : Fin 9) (hdr : List Word) (pl : List Byte) (p : Pkt), s.Inv → s.ring.ports.length = 8 →
    s.Comes port hdr pl p →
    (∀ m gen, p.kind = 0 → s.mooringMet p.moor = (m, gen) → m.isOpen = true →
      m.lo ≤ p.src → p.src ≤ m.hi → p.offset + p.len ≤ m.size →
      p.pcrc = crc32c p.payload → s.secOpen (secOf (m.base + p.offset)) = true →
      (p.cls = 0 ∨ s.chunkOf p = none) → ∃ t r, exec (.data port hdr pl) s = .next t ∧
        t.osura.q = s.osura.q ++ [r] ∧ r.addr = m.base + p.offset ∧ r.len = p.len ∧
        r.wr = some (cellsAt r.addr p.payload) ∧ r.who = .mooring p.moor s.ring.nextArr ∧
        t.ring.arrivals = s.ring.arrivals ++ [⟨s.ring.nextArr, p.moor, p, 1, p.came.getD s.clk.cyc, m, gen⟩] ∧
        (p.cls = 0 → t.ring.chunks = s.ring.chunks) ∧
        t = { s.took port p with
          ring := { (s.took port p).ring with
            nextArr := s.ring.nextArr + 1, arrivals := t.ring.arrivals, chunks := t.ring.chunks }
          osura := { s.osura with q := t.osura.q } }) ∧
    (∀ m gen reason, p.kind = 0 → p.cls = 0 → s.mooringMet p.moor = (m, gen) → reason ≠ 0 →
      reason = (if m.isOpen = false then 1
        else if ¬ (m.lo ≤ p.src ∧ p.src ≤ m.hi) then 2
        else if m.size < p.offset + p.len then 3
        else if p.pcrc ≠ crc32c p.payload then 5 else 0) →
      ∃ t : State, exec (.data port hdr pl) s = .next (t.freeSpace p) ∧
        (s.took port p).SentTo t p.src 3 [BitVec.ofNat 8 reason, 0#8, 0#8, 0#8] ∧ (s.took port p).RingBooks t ∧
        t = { s.took port p with ring := t.ring, cnt := t.cnt }) ∧
    (p.kind = 1 → s.td.ch = [] → s.ring.ctab.any (fun e => e.1 == p.src && e.2.1 == p.moor) = true →
      ∃ t : State, exec (.credit port hdr pl) s = .next (t.freeSpace p) ∧
        t.ring.creditFor p.src p.moor = (if (p.payload.getD 2 0#8).toNat % 2 = 1 then ofBytes (p.payload.take 2)
          else min 65535 (s.ring.creditFor p.src p.moor + ofBytes (p.payload.take 2))) ∧
        (∀ d m, (d, m) ≠ (p.src, p.moor) → t.ring.creditFor d m = s.ring.creditFor d m) ∧
        t = { s.took port p with ring := { (s.took port p).ring with ctab := t.ring.ctab } }) ∧
    (p.kind = 1 → s.td.ch = [] → s.ring.ctab.any (fun e => e.1 == p.src && e.2.1 == p.moor) = false →
      s.ring.ctab.length < 256 → ∃ t : State, exec (.credit port hdr pl) s = .next (t.freeSpace p) ∧
        t.ring.ctab = s.ring.ctab ++ [(p.src, p.moor, ofBytes (p.payload.take 2))] ∧
        t = { s.took port p with ring := { (s.took port p).ring with ctab := t.ring.ctab } }) ∧
    (∀ c, s.sendOf p.xtag = some c → (s.chan c).reads ≠ [] → (s.chan c).status = 0 → (s.chan c).fault = none →
      (p.kind = 2 → ∃ t : State, exec (.ack port hdr pl) s = .next (t.freeSpace p) ∧
        (∀ k, t.chan k = if k = c then { s.chan c with
          waited := 0, chunks := (s.chan c).chunks.filter (fun x => x.2 != p.seq) } else s.chan k) ∧
        t = { s.took port p with td := { s.td with ch := t.td.ch } }) ∧
      (p.kind = 3 → p.xtag ≠ 0 → (p.payload.getD 1 0#8).toNat % 2 = 0 →
        ∃ t : State, exec (.nak port hdr pl) s = .next (t.freeSpace p) ∧
          (∀ k, t.chan k = if k = c then { s.chan c with
            nak := true, waited := 0
            phase := if (s.chan c).chunks.any (fun x => x.1 ≤ p.seq && p.seq ≤ x.2) then (s.chan c).phase else 4
            chunks := (s.chan c).chunks.filter (fun x => !(x.1 ≤ p.seq && p.seq ≤ x.2)) } else s.chan k) ∧
          t = { s.took port p with td := { s.td with ch := t.td.ch } })) ∧
    (s.sendOf p.xtag = none → s.ring.errValid = false →
      ∀ t : State, t = { s.took port p with ring := { (s.took port p).ring with
        errReason := 6, errPort := p.port.getD 0, errLocal := p.port.isNone, errSrc := p.src, errValid := true } } →
      (p.kind = 2 → exec (.ack port hdr pl) s = .next (t.freeSpace p)) ∧
      (p.kind = 3 → p.xtag ≠ 0 ∨ (p.payload.getD 1 0#8).toNat % 2 = 1 →
        exec (.nak port hdr pl) s = .next (t.freeSpace p))) ∧
    (p.kind = 3 → p.xtag = 0 → (p.payload.getD 1 0#8).toNat % 2 = 0 → s.evRoom = true →
      exec (.nak port hdr pl) s = .next (State.freeSpace { s.took port p with
        evq := s.evq ++ [⟨0x0F, 0, 0, s.clk.ticks % 2 ^ 32, s.seqNow,
          (p.payload.getD 0 0#8).toNat + p.src * 65536, 0, 0, 0⟩] } p)) ∧
    (p.kind ∈ [11, 12, 13, 14, 15] → s.ring.errValid = false →
      exec (.reservedKindArrival port hdr pl) s = .next (State.freeSpace { s.took port p with
        ring := { (s.took port p).ring with
          errReason := 4, errPort := p.port.getD 0, errLocal := p.port.isNone, errSrc := p.src, errValid := true } } p)) ∧
    (p.kind = 10 → s.isLead = false → exec (.mreq port hdr pl) s = .next ((s.took port p).freeSpace p)) ∧
    (p.kind = 10 → s.isLead = true → s.ring.mark.phase ≠ 0 →
      exec (.mreq port hdr pl) s = .next (State.freeSpace { s.took port p with
        ring := { (s.took port p).ring with mark := { s.ring.mark with again := true } } } p)) ∧
    (p.kind = 10 → s.isLead = true → s.ring.mark.phase = 0 →
      ∃ t : State, exec (.mreq port hdr pl) s = .next (t.freeSpace p) ∧
        t.ring.mark.phase = 1 ∧ t.ring.mark.started = s.ring.mark.started + 1 ∧
        t.ring.mark.k = s.ring.mark.started + 1 ∧ t.ring.mark.s = s.kp.nextseq ∧
        (s.took port p).SentTo t s.ring.nextId 4 (markPay (s.ring.mark.started + 1) s.kp.nextseq 0) ∧
        (s.took port p).RingBooks t ∧ t = { s.took port p with ring := t.ring, cnt := t.cnt })

/-- The circulations of R356, R357 and R359 at this chip. MARK raises S to this chip's next sequence number, sets the
restraint and goes on; at the lead it has come round, and SEAL starts. SEAL starts this chip's close and is held until
that is complete, or with LOG_CFG.EN = 0 until the work below S is (R356, R403); back at the lead, whose own close is
complete, it makes the mark closed and CLOSED goes round. CLOSED records the mark, with its event, and goes on. MABORT
lifts the restraint and goes on, unless its mark is closed here, when it only goes on (R406). HOLD and RELEASE set and
lift the hold, with their events, and go on; RELEASE also ends the stop of a fault (R359, R393). At the lead a HOLD that
a chip has sent circulates and ends a mark that runs (R358, R359), and stops when it is back; a RELEASE that is back
lifts the hold and completes its descriptor (R359). That a MARK or CLOSED which comes round too late does nothing, and
MARK_TIMEOUT ends its mark, is the model's choice: log entry 27 (R357 does not say what such a packet does). The Control
descriptor MARK starts a mark at the lead and asks the lead for one elsewhere (R355); RELEASE circulates from the lead
and is refused with reason NOTLEAD elsewhere (R359). -/
def Obligations.RingCirculations : Prop :=
  ∀ s : State, s.Inv → s.ring.ports.length = 8 →
    (∀ (port : Fin 9) (hdr : List Word) (pl : List Byte) (p : Pkt), s.Comes port hdr pl p → s.isLead = false →
      (p.kind = 4 → ∃ t : State, exec (.pktMark port hdr pl) s = .next (t.freeSpace p) ∧
        t.ring.mark = { s.ring.mark with
          k := payK p, s := max (payS p) s.kp.nextseq
          restraint := some (max (payS p) s.kp.nextseq, s.clk.ticks, false) } ∧
        (s.took port p).SentTo t s.ring.nextId 4 (markPay (payK p) (max (payS p) s.kp.nextseq) (payHeld p)) ∧
        (s.took port p).RingBooks t ∧ t = { s.took port p with ring := t.ring, cnt := t.cnt }) ∧
      (p.kind = 5 → s.log.en = true ∨ s.belowDone (payS p) = false →
        ∃ t : State, exec (.pktSeal port hdr pl) s = .next (t.freeSpace p) ∧
        t.ring.mark = { s.ring.mark with
          k := payK p, s := payS p, restraint := none, sealHeld := some (payHeld p, s.clk.ticks) } ∧
        t.log = { s.log with close := some ⟨payK p, payS p, 0, s.log.openB, [], 0⟩ } ∧
        t = { s.took port p with ring := { (s.took port p).ring with mark := t.ring.mark }, log := t.log }) ∧
      (p.kind = 5 → s.log.en = false → s.belowDone (payS p) = true → s.log.close = none →
        ∃ t : State, exec (.pktSeal port hdr pl) s = .next (t.freeSpace p) ∧
          t.ring.mark = { s.ring.mark with k := payK p, s := payS p, restraint := none, sealHeld := none } ∧
          (s.took port p).SentTo t s.ring.nextId 5 (markPay (payK p) (payS p) (payHeld p)) ∧
          (s.took port p).RingBooks t ∧ t = { s.took port p with ring := t.ring, cnt := t.cnt }) ∧
      (p.kind = 6 → s.log.sealedIn = none → s.ring.mark.waiters = [] →
        ∃ t : State, exec (.closed port hdr pl) s = .next (t.freeSpace p) ∧
          t.ring.markLast = payK p ∧ t.ring.markLastS = payS p ∧
          t.ring.mark = { s.ring.mark with restraint := none, sealHeld := none } ∧
          t.evq = s.evq ++ [⟨0x0E, 0, 0, s.clk.ticks % 2 ^ 32, payS p, 1, payK p, 0, 0⟩] ∧
          (s.took port p).SentTo t s.ring.nextId 6 p.payload ∧
          t = { s.took port p with ring := t.ring, evq := t.evq, cnt := t.cnt }) ∧
      (p.kind = 7 → s.ring.markLast = payK p → ∃ t : State, exec (.mabort port hdr pl) s = .next (t.freeSpace p) ∧
        (s.took port p).SentTo t s.ring.nextId 7 p.payload ∧ t.ring.mark = s.ring.mark ∧
        (s.took port p).RingBooks t ∧ t = { s.took port p with ring := t.ring, cnt := t.cnt }) ∧
      (p.kind = 7 → s.ring.markLast ≠ payK p → s.ring.mark.waiters = [] → ∃ t : State, exec (.mabort port hdr pl) s = .next (t.freeSpace p) ∧
        t.log.close = none ∧ t.log.pend = [] ∧ t.log.sealedIn = none ∧
        t.ring.mark = { s.ring.mark with restraint := none, sealHeld := none } ∧
        (s.took port p).SentTo t s.ring.nextId 7 p.payload ∧ (s.took port p).RingBooks t ∧
        t = { s.took port p with
          ring := t.ring, cnt := t.cnt, log := t.log, mem := { s.mem with logQ := t.mem.logQ }
          osura := { s.osura with q := t.osura.q } }) ∧
      (p.kind = 8 → ∃ t : State, exec (.pktHold port hdr pl) s = .next (t.freeSpace p) ∧
        t.ring.hold = true ∧ t.ring.holdPay = p.payload ∧
        t.evq = s.evq ++ [⟨0x0C, 0, 0, s.clk.ticks % 2 ^ 32, s.seqNow, ofBytes (p.payload.take 4),
          ofBytes ((p.payload.drop 4).take 4), ofBytes ((p.payload.drop 8).take 4),
          ofBytes ((p.payload.drop 12).take 4)⟩] ∧
        (s.took port p).SentTo t s.ring.nextId 8 p.payload ∧
        t = { s.took port p with ring := t.ring, evq := t.evq, cnt := t.cnt }) ∧
      (p.kind = 9 → s.td.ch = [] → ∃ t : State, exec (.pktRelease port hdr pl) s = .next (t.freeSpace p) ∧
        t.ring.hold = false ∧
        t.evq = s.evq ++ [⟨0x0D, 0, 0, s.clk.ticks % 2 ^ 32, s.seqNow, ofBytes (p.payload.take 4),
          ofBytes ((p.payload.drop 4).take 4), ofBytes ((p.payload.drop 8).take 4),
          ofBytes ((p.payload.drop 12).take 4)⟩] ∧
        (s.took port p).SentTo t s.ring.nextId 9 p.payload ∧
        t = { s.took port p with
          ring := t.ring, evq := t.evq, cnt := t.cnt, flt := { s.flt with stopped := false } })) ∧
    (∀ (port : Fin 9) (hdr : List Word) (pl : List Byte) (p : Pkt), s.Comes port hdr pl p → s.isLead = true →
      (p.kind = 4 → s.ring.mark.phase = 1 → s.ring.mark.k = payK p → s.circLate = false → ∃ t : State, exec (.pktMark port hdr pl) s = .next (t.freeSpace p) ∧
        t.ring.mark = { s.ring.mark with
          phase := 2, s := payS p, held := 0, sentAt := s.clk.ticks, restraint := none } ∧
        t.log = (if s.log.en || !s.belowDone (payS p) then { s.log with
          close := some ⟨payK p, payS p, 0, s.log.openB, [], 0⟩ } else s.log) ∧
        (s.took port p).SentTo t s.ring.nextId 5 (markPay (payK p) (payS p) 0) ∧ (s.took port p).RingBooks t ∧
        t = { s.took port p with ring := t.ring, log := t.log, cnt := t.cnt }) ∧
      (p.kind = 5 → s.ring.mark.phase = 2 → s.ring.mark.k = payK p → s.log.close ≠ none →
        exec (.pktSeal port hdr pl) s = .next (State.freeSpace { s.took port p with ring := { (s.took port p).ring with
          mark := { s.ring.mark with held := payHeld p, sealHeld := some (payHeld p, s.clk.ticks) } } } p)) ∧
      (p.kind = 5 → s.ring.mark.phase = 2 → s.ring.mark.k = payK p → s.log.close = none → s.log.sealedIn = none →
        s.ring.mark.waiters = [] → s.clk.ticks - s.ring.mark.sentAt ≤ 53125 * max 1 s.ring.sealLimit →
        8 * (s.clk.ticks - s.ring.mark.sentAt - payHeld p) ≤ 425 * max 1 s.ring.markTimeout →
        ∃ t : State, exec (.pktSeal port hdr pl) s = .next (t.freeSpace p) ∧
          t.ring.mark = { s.ring.mark with
            phase := 3, sentAt := s.clk.ticks, held := payHeld p, restraint := none, sealHeld := none } ∧
          t.ring.markLast = payK p ∧ t.ring.markLastS = s.ring.mark.s ∧
          t.evq = s.evq ++ [⟨0x0E, 0, 0, s.clk.ticks % 2 ^ 32, s.ring.mark.s, 1, payK p, 0, 0⟩] ∧
          (s.took port p).SentTo t s.ring.nextId 6 (markPay (payK p) s.ring.mark.s (payHeld p)) ∧
          t = { s.took port p with ring := t.ring, evq := t.evq, cnt := t.cnt }) ∧
      (p.kind = 6 → s.ring.mark.phase = 3 → s.ring.mark.k = payK p → s.circLate = false →
        s.ring.mark.again = false →
        exec (.closed port hdr pl) s = .next (State.freeSpace { s.took port p with ring := { (s.took port p).ring with
          mark := { s.ring.mark with phase := 0 } } } p)) ∧
      ((p.kind = 4 → s.circLate = true → exec (.pktMark port hdr pl) s = .next ((s.took port p).freeSpace p)) ∧
        (p.kind = 6 → s.circLate = true → exec (.closed port hdr pl) s = .next ((s.took port p).freeSpace p))) ∧
      (p.kind = 7 → exec (.mabort port hdr pl) s = .next ((s.took port p).freeSpace p)) ∧
      (p.kind = 8 → (8, p.payload) ∉ s.ring.circ → s.ring.mark.phase ≠ 1 → s.ring.mark.phase ≠ 2 →
        ∃ t : State, exec (.pktHold port hdr pl) s = .next (t.freeSpace p) ∧
          t.ring.hold = true ∧ t.ring.holdPay = p.payload ∧ t.ring.circ = s.ring.circ ++ [(8, p.payload)] ∧
          t.evq = s.evq ++ [⟨0x0C, 0, 0, s.clk.ticks % 2 ^ 32, s.seqNow, ofBytes (p.payload.take 4),
            ofBytes ((p.payload.drop 4).take 4), ofBytes ((p.payload.drop 8).take 4),
            ofBytes ((p.payload.drop 12).take 4)⟩] ∧
          t.ring.mark = s.ring.mark ∧ (s.took port p).SentTo t s.ring.nextId 8 p.payload ∧
          t = { s.took port p with ring := t.ring, evq := t.evq, cnt := t.cnt }) ∧
      (p.kind = 8 → (8, p.payload) ∉ s.ring.circ → s.ring.mark.phase = 1 ∨ s.ring.mark.phase = 2 →
        s.ring.mark.waiters = [] → s.ring.mark.again = false →
        (∀ e, (State.push (s.took port p) e).evRoom = true) →
        ∃ t u v : State, exec (.pktHold port hdr pl) s = .next (t.freeSpace p) ∧
          t.ring.hold = true ∧ t.ring.holdPay = p.payload ∧ t.ring.circ = s.ring.circ ++ [(8, p.payload)] ∧
          (∃ e f, t.evq = s.evq ++ [e, f] ∧ e.typ = 0x0C ∧ f.typ = 0x0E ∧ f.p0 = 2 ∧ f.p1 = s.ring.mark.k) ∧
          t.ring.mark = { s.ring.mark with phase := 0, restraint := none, sealHeld := none, abortDue := false } ∧
          t.log.close = none ∧ u.SentTo v s.ring.nextId 7 (markPay s.ring.mark.k s.ring.mark.s 0) ∧
          v.SentTo t s.ring.nextId 8 p.payload ∧ u.ring.loopQ = (s.took port p).ring.loopQ ∧
          u.ring.ports = (s.took port p).ring.ports) ∧
      (p.kind = 8 → (8, p.payload) ∈ s.ring.circ →
        exec (.pktHold port hdr pl) s = .next (State.freeSpace { s.took port p with
          ring := { (s.took port p).ring with circ := s.ring.circ.erase (8, p.payload) } } p)) ∧
      (p.kind = 9 → s.td.ch = [] → s.ring.relWait = [] →
        exec (.pktRelease port hdr pl) s = .next (State.freeSpace { s.took port p with
          ring := { (s.took port p).ring with hold := false, circ := s.ring.circ.erase (9, p.payload) }
          flt := { s.flt with stopped := false }
          evq := s.evq ++ [⟨0x0D, 0, 0, s.clk.ticks % 2 ^ 32, s.seqNow, ofBytes (p.payload.take 4),
            ofBytes ((p.payload.drop 4).take 4), ofBytes ((p.payload.drop 8).take 4),
            ofBytes ((p.payload.drop 12).take 4)⟩] } p)) ∧
      (∀ r : CtlRun, p.kind = 9 → s.td.ch = [] → s.ring.relWait = [r.num] → s.kp.ctlRun = [r] → r.op = 9 →
        r.done = false → r.err = none → r.cevt = false →
        ∃ t : State, exec (.pktRelease port hdr pl) s = .next (t.freeSpace p) ∧
          t.ring.hold = false ∧ t.ring.relWait = [] ∧ t.flt.stopped = false ∧ t.kp.ctlRun = [] ∧
          t.kp.cdone = (s.kp.cdone + 1) % 2 ^ 32 ∧
          t.evq = s.evq ++ [⟨0x0D, 0, 0, s.clk.ticks % 2 ^ 32, s.seqNow, ofBytes (p.payload.take 4),
            ofBytes ((p.payload.drop 4).take 4), ofBytes ((p.payload.drop 8).take 4),
            ofBytes ((p.payload.drop 12).take 4)⟩] ∧
          t.ring.ports = (s.took port p).ring.ports ∧ t.ring.loopQ = (s.took port p).ring.loopQ ∧
          t = { s.took port p with
            ring := t.ring, flt := t.flt, evq := t.evq
            kp := { s.kp with ctlRun := t.kp.ctlRun, cdone := t.kp.cdone } })) ∧
    (∀ (d : Desc) (rest : List Desc),
      (s.CtlNext d rest 8 → s.isLead = true → s.ring.mark.phase = 0 → ∃ t, exec .mark s = .next t ∧
        t.ring.mark.phase = 1 ∧ t.ring.mark.started = s.ring.mark.started + 1 ∧
        t.ring.mark.waiters = s.ring.mark.waiters ++ [s.kp.ctlNum] ∧
        s.SentTo t s.ring.nextId 4 (markPay (s.ring.mark.started + 1) s.kp.nextseq 0) ∧
        (∃ r ∈ t.kp.ctlRun, r.num = s.kp.ctlNum ∧ r.done = false) ∧ s.CtlBooks t rest ∧ s.RingBooks t ∧
        t = { s with ring := t.ring, cnt := t.cnt, kp := t.kp, evq := t.evq }) ∧
      (s.CtlNext d rest 8 → s.isLead = false → ∃ t, exec .mark s = .next t ∧
        t.ring.mark = { s.ring.mark with waiters := s.ring.mark.waiters ++ [s.kp.ctlNum] } ∧
        s.SentTo t s.ring.leadId 10 [] ∧ (∃ r ∈ t.kp.ctlRun, r.num = s.kp.ctlNum ∧ r.done = false) ∧
        s.CtlBooks t rest ∧ s.RingBooks t ∧ t = { s with ring := t.ring, cnt := t.cnt, kp := t.kp, evq := t.evq }) ∧
      (s.CtlNext d rest 9 → s.isLead = true → s.ring.holdPay.length = 16 → ∃ t, exec .release s = .next t ∧
        s.SentTo t s.ring.nextId 9 s.ring.holdPay ∧ t.ring.relWait = s.ring.relWait ++ [s.kp.ctlNum] ∧
        t.ring.hold = s.ring.hold ∧ (∃ r ∈ t.kp.ctlRun, r.num = s.kp.ctlNum ∧ r.done = false) ∧
        s.CtlBooks t rest ∧ t = { s with ring := t.ring, cnt := t.cnt, kp := t.kp, evq := t.evq }) ∧
      (s.CtlNext d rest 9 → s.isLead = false → ∃ t, exec .release s = .next t ∧
        (∃ e ∈ t.evq, e.typ = 0x02 ∧ e.ring = 3 ∧ e.index = d.slot ∧ e.p0 = 9 + 256 * 9) ∧ s.CtlBooks t rest ∧
        t = { s with kp := t.kp, evq := t.evq }))

/-- A packet for another chip goes on through its route's port with HOPS one higher, and holds its buffer space until it
has left, or waits in its arrival buffer behind an earlier packet of its class (R339); one with 255 hops, or without a route, is dropped with its reason, and its credits go back (R332, R333, R366). PACKET_SEND
sends a packet of class 0 first; it spends link credits, and a forwarded packet's buffer space and credits go back as it
leaves (R339, R340, R458): the statement takes a port with one packet, which is no token. A SEND that has waited past the limit
ends with status STALL (R354). -/
def Obligations.RingSends : Prop :=
  ∀ (s : State) (n : Fin 8), s.Inv → s.ring.ports.length = 8 →
    (∀ (hdr : List Word) (pl : List Byte) (p : Pkt), hdr.length = 8 → pl.length < 512 →
      p = Pkt.ofHdr hdr pl (some n.val) → s.portLive n = true → p.headerOk = true →
      (s.rport n).used.getD p.cls 0 + p.cost ≤ bufferUnits p.cls → p.dst ≠ s.ring.chipId →
      (s.arrivalBlocked (some n.val) p.cls = true ∨ s.behindHeld p = true → ∃ t,
        exec (.packetForward n hdr pl) s = .next t ∧
        t.rport n = { s.rport n with
          used := (s.rport n).used.modify p.cls (· + p.cost), held := (s.rport n).held ++ [{ p with came := some s.clk.cyc }] } ∧
        (∀ k, k ≠ n.val → t.rport k = s.rport k) ∧ t = { s with ring := { s.ring with ports := t.ring.ports } }) ∧
      (s.arrivalBlocked (some n.val) p.cls = false → s.behindHeld p = false →
      (p.hops ≠ 255 → ∀ m, s.ring.route p.dst = some m → ∃ t, exec (.packetForward n hdr pl) s = .next t ∧
        (t.rport m).fwd = (s.rport m).fwd ++ [{ p with hops := p.hops + 1 }] ∧
        (t.rport n).used = (s.rport n).used.modify p.cls (· + p.cost) ∧
        (∀ k, k ≠ n.val → k ≠ m → t.rport k = s.rport k) ∧
        t = { s with ring := { s.ring with ports := t.ring.ports } }) ∧
      (s.ring.errValid = false → (p.hops = 255 → exec (.packetForward n hdr pl) s = .next { s with
          ring := { s.ring with
            errReason := 2, errPort := n, errLocal := false, errSrc := p.src, errValid := true }
          out := s.out ++ creditReturns n p.cls p.cost }) ∧
        (p.hops ≠ 255 → s.ring.route p.dst = none → exec (.packetForward n hdr pl) s = .next { s with
          ring := { s.ring with
            errReason := 1, errPort := n, errLocal := false, errSrc := p.src, errValid := true }
          out := s.out ++ creditReturns n p.cls p.cost })))) ∧
    (∀ p : Pkt, s.portLive n = true → p.kind ≠ 0 → p.cls = 0 → p.ctl = none → (s.rport n).out.length = 3 →
      p.cost ≤ (s.rport n).out.getD 0 0 →
      ((s.rport n).loc = [p] → (s.rport n).fwd = [] → p.port = none → ∃ t, exec (.packetSend n) s = .next t ∧
        t.out = s.out ++ [.ringPkt n p] ∧ (t.rport n).loc = [] ∧ (t.rport n).fwd = [] ∧
        (t.rport n).out = (s.rport n).out.modify 0 (· - p.cost) ∧
        (t.rport n).bucket = (s.rport n).bucket - 17 * ((32 + p.len : Nat) : Int) ∧
        (∀ k, k ≠ n.val → t.rport k = s.rport k) ∧
        t = { s with ring := { s.ring with ports := t.ring.ports }, out := t.out }) ∧
      (∀ m : Fin 8, (s.rport n).loc = [] → (s.rport n).fwd = [p] → p.port = some m.val → (s.rport m).started = true →
        ∃ t, exec (.packetSend n) s = .next t ∧
          t.out = s.out ++ .ringPkt n p :: creditReturns m p.space p.cost ∧ (t.rport n).fwd = [] ∧
          (t.rport n).out = (s.rport n).out.modify 0 (· - p.cost) ∧
          (t.rport m).used = (s.rport m).used.modify p.space (· - p.cost) ∧
          t = { s with ring := { s.ring with ports := t.ring.ports }, out := t.out })) ∧
    ((s.rport n).loc = [] → (s.rport n).fwd = [] → exec (.packetSend n) s = .next s) ∧
    (∀ (c : Fin 128) (lim : Nat), s.stallLimit = some lim → (s.chan c).st = .busy → (s.chan c).x.kind = 5 →
      (lim < (s.chan c).waited → ∃ t, exec (.sendWatchdog c) s = .next t ∧
        (∀ k, t.chan k = if k = c.val then
          { s.chan c with st := .finished, status := 3, reads := [], writes := [], ext := [] } else s.chan k) ∧
        t = { s with td := { s.td with ch := t.td.ch } }) ∧
      ((s.chan c).waited ≤ lim → exec (.sendWatchdog c) s = .next s))

/-! ### Marks, closes and the Logbook -/

/-- A circulation that times out at the lead ends its mark: MABORT goes round, a MARK_FAIL event is queued and the
close is dropped; elsewhere, or with no mark, nothing happens (R357). That a HOLD's abort of a mark (R358) waits for room
for its record and comes by MARK_TIMEOUT is the model's choice: log entry 27. A restraint that lasts too long is
reported once (R357). The epoch timer starts a mark (R408). A close captures the open area's bitmap and the record when
its work is done, with a granule whose mirroring read has begun still pending (R404); that such a granule is read again
where it was written during that read is the model's choice: log entry 28. A close completes with HAVEMARK set when
SEALED is answered, or with LOG_CFG.EN = 0 when the work below its number is complete, and captures nothing then (R403,
R404); a SEAL that was held then goes on with its holding time (R356). Mirroring copies the next dirty granule of the
open area, if the staging buffer has room, after STATE = OPEN (R401, R405). RESTORE_COMPLETE loads the recorded
registers, buoys, moorings and counts (R410). -/
def Obligations.MarksAndCloses : Prop :=
  ∀ s : State, s.Inv → s.ring.ports.length = 8 →
    (s.isLead = true → s.ring.mark.phase ≠ 0 → s.circLate = true ∨ s.ring.mark.abortDue = true → s.evRoom = true →
      s.ring.mark.waiters = [] →
      s.ring.mark.again = false → ∃ t, exec .markTimeout s = .next t ∧
        t.ring.mark = { s.ring.mark with phase := 0, restraint := none, sealHeld := none, abortDue := false } ∧
        t.evq = s.evq ++ [⟨0x0E, 0, 0, s.clk.ticks % 2 ^ 32, s.ring.mark.s, 2, s.ring.mark.k, 0, 0⟩] ∧
        s.SentTo t s.ring.nextId 7 (markPay s.ring.mark.k s.ring.mark.s 0) ∧ s.RingBooks t ∧
        t.log.close = none ∧ t.log.pend = [] ∧ t.log.sealedIn = none ∧
        t = { s with
          ring := t.ring, evq := t.evq, log := t.log, cnt := t.cnt, mem := { s.mem with logQ := t.mem.logQ }
          osura := { s.osura with q := t.osura.q } }) ∧
    (s.isLead = false ∨ s.ring.mark.phase = 0 ∨ (s.circLate = false ∧ s.ring.mark.abortDue = false) →
      exec .markTimeout s = .next s) ∧
    (∀ seq since, s.ring.mark.restraint = some (seq, since, false) → s.evRoom = true →
      425 * max 1 s.ring.markTimeout < 8 * (s.clk.ticks - since) → exec .markWaitTimeout s = .next { s with
        ring := { s.ring with mark := { s.ring.mark with restraint := some (seq, since, true) } }
        evq := s.evq ++ [⟨0x0E, 0, 0, s.clk.ticks % 2 ^ 32, seq, 3, s.ring.mark.k, 0, 0⟩] }) ∧
    (s.ring.mark.restraint = none ∨ (∃ seq since b, s.ring.mark.restraint = some (seq, since, b) ∧
        (b = true ∨ 8 * (s.clk.ticks - since) ≤ 425 * max 1 s.ring.markTimeout)) →
      exec .markWaitTimeout s = .next s) ∧
    (s.isLead = true → s.wrun = true → s.log.epoch ≠ 0 → min 600 s.log.epoch * 5312500 ≤ s.ring.epochRun →
      s.rst.pstate = 0 → s.ring.mark.phase = 0 → ∃ t, exec .epochTimer s = .next t ∧
        t.ring.mark.phase = 1 ∧ t.ring.mark.started = s.ring.mark.started + 1 ∧ t.ring.epochRun = 0 ∧
        s.SentTo t s.ring.nextId 4 (markPay (s.ring.mark.started + 1) s.kp.nextseq 0) ∧ s.RingBooks t ∧
        t = { s with ring := t.ring, cnt := t.cnt }) ∧
    (s.isLead = false ∨ s.wrun = false ∨ s.log.epoch = 0 ∨ s.ring.epochRun < min 600 s.log.epoch * 5312500 →
      exec .epochTimer s = .next s) ∧
    (∀ c, s.log.close = some c → s.log.en = true → c.phase = 0 → s.log.err = false →
      (s.belowDone c.seq = true → s.asyncQuiet = true → s.log.reading = [] → ∃ t x, exec .closeCapture s = .next t ∧
        t.log.close = some x ∧ x.phase = 1 ∧ x.k = c.k ∧ x.seq = c.seq ∧ x.inB = s.log.openB ∧
        x.body = s.markBody c.k c.seq x.ngran ∧ x.ngran = (s.log.dirty s.log.openB).length ∧
        t.log.pend = s.log.dirty s.log.openB ∧ t.log.dirty s.log.openB = [] ∧
        t.log.dirty (!s.log.openB) = s.log.dirty (!s.log.openB) ∧
        t = { s with log := { s.log with
          pend := t.log.pend, torn := [], close := t.log.close, dirtyA := t.log.dirtyA, dirtyB := t.log.dirtyB } }) ∧
      (∀ g k, s.belowDone c.seq = true → s.asyncQuiet = true → s.log.reading = [(g, k)] → ∃ t,
        exec .closeCapture s = .next t ∧ t.log.pend = sset false (s.log.dirty s.log.openB) g true ∧
        t.log.reading = s.log.reading ∧
        t.log.torn = (s.log.dirty s.log.openB).filter (fun r => sget 0 [(g, k)] r.1 != 0)) ∧
      (s.belowDone c.seq = false ∨ s.asyncQuiet = false → exec .closeCapture s = .next s)) ∧
    (∀ c, s.log.close = some c → c.phase = 4 ∨ (s.log.en = false ∧ s.belowDone c.seq = true) → s.evRoom = true →
      (s.ring.mark.sealHeld = none → exec .closeComplete s = .next { s with log := { s.log with
        close := none, haveMark := s.log.en, sealedIn := if s.log.en then some c.inB else none } }) ∧
      (∀ held since, s.ring.mark.sealHeld = some (held, since) → s.isLead = false →
        ∃ t, exec .closeComplete s = .next t ∧
          t.log = { s.log with
            close := none, haveMark := s.log.en, sealedIn := if s.log.en then some c.inB else none } ∧
          t.ring.mark = { s.ring.mark with sealHeld := none } ∧
          s.SentTo t s.ring.nextId 5 (markPay c.k c.seq (held + (s.clk.ticks - since))) ∧ s.RingBooks t ∧
          t = { s with log := t.log, ring := t.ring, cnt := t.cnt })) ∧
    (∀ c, s.log.close = some c → s.log.en = false → exec .closeCapture s = .next s ∧
      (c.phase ≠ 4 → s.belowDone c.seq = false → exec .closeComplete s = .next s)) ∧
    (s.log.close = none → exec .closeComplete s = .next s ∧ exec .closeCapture s = .next s) ∧
    (s.log.en = true → s.log.err = false → s.log.rbusy = false → s.log.paused = false → s.rst.ready = true →
      s.rst.pstate = 0 → s.flt.fatal = false → s.log.reading = [] → s.log.close = none →
      (∀ g b, s.log.areaOpen = true → s.hasSlot g = true → (s.log.dirty s.log.openB).find? (fun x => s.log.next ≤ x.1) = some (g, b) →
        ∃ t qs, exec .logMirrorGranule s = .next t ∧ t.osura.q = s.osura.q ++ qs ∧ qs.length = 64 ∧
          (∀ i, ∀ h : i < qs.length, qs[i].addr = g * 65536 + i * 1024 ∧ qs[i].len = 1024 ∧ qs[i].wr = none) ∧
          t.log.reading = [(g, 64)] ∧ t.log.next = (g + 1) % 8192 ∧
          t.log.dirty s.log.openB = sset false (s.log.dirty s.log.openB) g false ∧
          t.log.dirty (!s.log.openB) = s.log.dirty (!s.log.openB) ∧
          t = { s with
            log := { s.log with
              reading := t.log.reading, next := t.log.next, dirtyA := t.log.dirtyA, dirtyB := t.log.dirtyB }
            osura := { s.osura with q := t.osura.q } }) ∧
      (s.log.areaOpen = false → s.logWriting = false → s.log.dirty s.log.openB ≠ [] →
        ∃ t qs, exec .logMirrorGranule s = .next t ∧ t.mem.logQ = s.mem.logQ ++ qs ∧
          (∀ q ∈ qs, q.who = .logState s.log.openB 1) ∧ qs.flatMap (fun q => q.wr.getD []) = [1#8, 0#8, 0#8, 0#8] ∧
          t = { s with mem := { s.mem with logQ := t.mem.logQ } })) ∧
    (s.log.en = false ∨ s.flt.fatal = true → exec .logMirrorGranule s = .next s) ∧
    (∀ r, s.log.restore = some r → r.phase = 2 → s.flt.fatal = false → ∃ t, exec .restoreComplete s = .next t ∧
      (∀ b, b = (if r.inB then r.recB else r.recA) →
        t.kp.nextseq = recField b 8 8 ∧ t.kp.xretired = recField b 0x20 4 ∧ t.kp.cdone = recField b 0x24 4 ∧
        t.ring.markLast = recField b 4 4 ∧
        (∀ n < 32, t.scal n = recField b (0x40 + 8 * n) 8) ∧
        (∀ n < 256, t.buoy n = Buoy.ofRecord ((b.drop (0x180 + 16 * n)).take 16)) ∧
        (∀ n < 64, t.mooring n = Moor.ofRecord ((b.drop (0x1180 + 32 * n)).take 32))) ∧
      t.log.rbusy = false ∧ t.log.rdone = true ∧ t.log.restore = none ∧ t.log.haveMark = false ∧
      t.osura = s.osura ∧ t.td = s.td ∧ t.map = s.map ∧ t.evq = s.evq) ∧
    ((∀ r, s.log.restore = some r → r.phase ≠ 2 ∨ s.flt.fatal = true) → exec .restoreComplete s = .next s)

/-! ### Faults -/

/-- The fault sequencer takes the errors in the order of R392, none before READY, during a swap that they do not
concern, or in Eclipse, its entry once power goes down, and wake (R392, R432). An error of a unit without a spare
discards what is in flight, fences the unit and
queues a FAULT event, and HOLD goes to the lead light (R390, R393, R397, R359); an error that a discard has covered makes
no second one (R392). The event queue keeps four places beyond its 64 for FAULT, HOLD and RELEASE records, so the
sequencer waits while 68 records wait (R384). A cluster is fenced, and its lanes' state is lost (R21, R395); a sector is fenced, and a spare
starts to light for it before the map and the FAULT record name it, or with none left it is unbacked (R63 to R65); one
of the Logbook only sets its error (R390); one of the Keeper is fatal (R390). That an error of a kind which no rule
names, kind 0 or above 12, is fatal too is the model's choice: log entry 31. A spare that passes its BIST
takes the index and enters service with fresh lanes; one that fails is fenced too (R395, R427). -/
def Obligations.Faults : Prop :=
  ∀ s : State, s.Inv → s.ring.ports.length = 8 → s.map.pc.length = 34 → s.map.psec.length = 68 →
    s.map.home.length = 32 →
    (∀ found, s.rst.ready = false → exec (.faultSequencerStart found) s = .next s) ∧
    (s.errs = [] → exec (.faultSequencerStart none) s = .next s) ∧
    (∀ d : Detected, s.rst.ready = true → ∃ u,
      s.Detected u d.kind.toNat d.reason.toNat d.phys.toNat d.logical.toNat d.addr.toNat ∧
      exec (.faultSequencerStart (some d)) s = exec (.faultSequencerStart none) u) ∧
    (∀ (e : ErrRec) (rest : List ErrRec), s.errs = e :: rest → s.rst.ready = true →
      (1 ≤ e.kind → e.kind ≤ 12 → s.unitsOff = true ∨ 68 ≤ s.evWaiting →
        exec (.faultSequencerStart none) s = .next s) ∧
      (1 ≤ e.kind → e.kind ≤ 12 → s.flt.seqbusy = true → (∀ x ∈ s.errs, s.aboutSpare x = false) →
        exec (.faultSequencerStart none) s = .next s) ∧
      (e.kind = 0 ∨ 12 < e.kind → ∃ t, exec (.faultSequencerStart none) s = .next t ∧
        t.flt.fatal = true ∧ t.wrun = false ∧ t.td.ch = [] ∧ t.log.close = none ∧
        t.errs = rest.map (fun x => { x with covered := true })) ∧
      (s.flt.seqbusy = false → s.unitsOff = false → s.evWaiting < 68 →
        (3 ≤ e.kind → e.kind ≤ 10 → ∃ t, exec (.faultSequencerStart none) s = .next t ∧
          (e.covered = false → t.wrun = false ∧ t.td.ch = [] ∧ t.rst.eclipse = none ∧
            t.kp.workTaken = [] ∧ t.kp.xferTaken = [] ∧ t.kp.ctlTaken = [] ∧
            t.errs = rest.map (fun x => { x with covered := true })) ∧
          (e.covered = true → t.str = s.str ∧ t.td.ch = s.td.ch ∧ t.kp.workTaken = s.kp.workTaken ∧ t.errs = rest) ∧
          (e.kind, e.phys) ∈ t.flt.fenced ∧ (e.kind ≠ 7 → e.kind ≠ 8 → t.flt.unitdown = true) ∧
          (∃ r ∈ t.evq, r.typ = 0x0B ∧ r.p0 = e.kind + e.reason * 256 + e.phys * 65536 + e.logi * 2 ^ 24) ∧
          (∀ m, s.ring.en = true → s.ring.leadId ≠ s.ring.chipId → s.ring.route s.ring.leadId = some m → m < 8 →
            ∃ p ∈ (t.rport m).loc, p.kind = 8 ∧ p.dst = s.ring.leadId)) ∧
        (e.kind = 1 → e.phys < 34 → ∃ t, exec (.faultSequencerStart none) s = .next t ∧
          t.map.pc.getD e.phys .spare = .fenced ∧ t.lane e.phys = Lanes.fresh ∧
          (e.covered = false → t.wrun = false ∧ t.td.ch = []) ∧ (s.clusterAsking = false → (e.phys, 0) ∈ t.pwr.reqs) ∧
          (s.clusterAsking = true → e.phys ∈ t.pwr.offDue) ∧
          (∃ r ∈ t.evq, r.typ = 0x0B ∧
            r.p0 = 1 + e.reason * 256 + e.phys * 65536 + (s.map.indexOf e.phys).getD 0xFF * 2 ^ 24)) ∧
        (∀ k : Fin 64, e.kind = 2 → e.phys < 68 → s.psecOf k = some e.phys →
          (∀ j < 64, s.psecOf j = some e.phys → j = k.val) → s.map.psec.getD e.phys .fenced ≠ .spare →
          ∃ t, exec (.faultSequencerStart none) s = .next t ∧ t.map.psec.getD e.phys .spare = .fenced ∧
            (e.covered = false → t.wrun = false ∧ t.td.ch = []) ∧
            (∀ q, s.pickSector e.phys = some q → t.flt.seqbusy = true ∧ t.map.sec = s.map.sec ∧
              ∃ w, t.flt.secSwap = some w ∧ w.sec = k ∧ w.spare = q ∧
                w.reports.map (fun x => (x.1.phys, x.1.logi, x.2)) = [(e.phys, k.val, q)]) ∧
            (s.pickSector e.phys = none → t.map.sec = s.map.sec.set k none ∧
              ∃ r ∈ t.evq, r.typ = 0x0B ∧ r.p0 = 2 + e.reason * 256 + e.phys * 65536 + k.val * 2 ^ 24)) ∧
        (e.kind = 12 → ∃ t, exec (.faultSequencerStart none) s = .next t ∧ t.log = { s.log with err := true } ∧
          (∃ r, t.evq = s.evq ++ [r] ∧ r.typ = 0x0B ∧
            r.p0 = 12 + e.reason * 256 + e.phys * 65536 + e.logi * 2 ^ 24) ∧
          t = { s with
            errs := rest, log := t.log, evq := t.evq, free := t.free
            flt := { s.flt with info0 := t.flt.info0, info1 := t.flt.info1, recAt := t.flt.recAt } }))) ∧
    (∀ (n failed : Nat) (p : Fin 34), n < 32 →
      (s.flt.swapFor = [⟨n, p, true, failed⟩] →
        (∃ t, exec (.spareBistDone p true) s = .next t ∧ t.map.home.getD n none = some p.val ∧
          (∀ m < 32, m ≠ n → t.map.home.getD m none ≠ some p.val) ∧
          t.map.pc.getD p .fenced = (if n < s.map.lastLc then .mapped else .idle) ∧ t.flt.swap = false ∧
          t.lane p = Lanes.fresh ∧ (∀ q, q ≠ p.val → t.lane q = s.lane q) ∧
          t = { s with
            lanes := t.lanes, osura := { s.osura with cb := t.osura.cb }, cnt := { s.cnt with cl := t.cnt.cl, was := t.cnt.was }
            map := { s.map with home := t.map.home, cl := t.map.cl, pc := t.map.pc, before := t.map.before }
            flt := { s.flt with swapFor := [], swap := false, seqbusy := false } }) ∧
        (s.evWaiting < 68 → ∃ t, exec (.spareBistDone p false) s = .next t ∧ t.map.pc.getD p .spare = .fenced ∧
          (∃ r ∈ t.evq, r.typ = 0x0B ∧ r.p0 = 1 + 0x0A * 256 + p.val * 65536 + n * 2 ^ 24)) ∧
        (∀ (q : Fin 34) (pass : Bool), q ≠ p → exec (.spareBistDone q pass) s = .next s)) ∧
      (s.flt.swapFor = [⟨n, p, false, failed⟩] →
        ∀ (q : Fin 34) (pass : Bool), exec (.spareBistDone q pass) s = .next s) ∧
      (∀ (on : Bool) (e : ErrRec), s.flt.swapFor = [⟨n, p, on, failed⟩] → s.flt.seqbusy = true → s.errs = [e] →
        e.kind = 1 → e.phys = p.val → s.rst.ready = true → s.unitsOff = false → s.evWaiting < 68 →
        ∃ t, exec (.faultSequencerStart none) s = .next t ∧ t.map.pc.getD p .spare = .fenced ∧ t.errs = [] ∧
          (∃ r ∈ t.evq, r.typ = 0x0B ∧ r.p0 = 1 + e.reason * 256 + p.val * 65536 + n * 2 ^ 24))) ∧
    (∀ (p : Fin 34) (pass : Bool), s.flt.swapFor = [] → exec (.spareBistDone p pass) s = .next s)
end

