-- ==== Sys2Proof/Laws/Sparse.lean ====
section
/-! SUPPORT. Sparse stores: every operation keeps the canonical form, and what a key reads as afterwards. -/

namespace Sys2Proof.Machine

variable {α : Type} {d : α}

/-- The canonical form over keys from `b` on. -/
def swfFrom (d : α) (b : Nat) (m : Sparse α) : Prop := risingFrom b m = true ∧ ∀ x ∈ m, x.2 ≠ d

theorem swf_iff [DecidableEq α] {m : Sparse α} : swf d m = true ↔ swfFrom d 0 m := by
  simp [swf, swfFrom]

theorem swfFrom_nil {b : Nat} : swfFrom d b [] := ⟨rfl, by simp⟩

theorem swfFrom_cons {b k : Nat} {v : α} {m : Sparse α} :
    swfFrom d b ((k, v) :: m) ↔ b ≤ k ∧ v ≠ d ∧ swfFrom d (k + 1) m := by
  simp [swfFrom, risingFrom, and_assoc, and_left_comm]

theorem swfFrom_mono {b c : Nat} (hc : c ≤ b) {m : Sparse α} (h : swfFrom d b m) : swfFrom d c m := by
  cases m with
  | nil => exact swfFrom_nil
  | cons x m =>
    obtain ⟨k, v⟩ := x
    rw [swfFrom_cons] at h ⊢
    exact ⟨Nat.le_trans hc h.1, h.2⟩

theorem swfFrom_serase {m : Sparse α} : ∀ {b : Nat} (a : Nat), swfFrom d b m → swfFrom d b (serase m a) := by
  induction m with
  | nil => intro b a h; exact h
  | cons x m ih =>
    obtain ⟨k, v⟩ := x
    intro b a h
    have h' := swfFrom_cons.1 h
    unfold serase
    split
    · exact swfFrom_mono (by omega) h'.2.2
    · split
      · exact h
      · exact swfFrom_cons.2 ⟨h'.1, h'.2.1, ih a h'.2.2⟩

theorem swfFrom_sput {m : Sparse α} {x : α} (hx : x ≠ d) :
    ∀ {b a : Nat}, b ≤ a → swfFrom d b m → swfFrom d b (sput m a x) := by
  induction m with
  | nil => intro b a hb _; exact swfFrom_cons.2 ⟨hb, hx, swfFrom_nil⟩
  | cons y m ih =>
    obtain ⟨k, v⟩ := y
    intro b a hb h
    have h' := swfFrom_cons.1 h
    unfold sput
    split
    · subst_vars; exact swfFrom_cons.2 ⟨hb, hx, h'.2.2⟩
    · split
      · exact swfFrom_cons.2 ⟨hb, hx, swfFrom_cons.2 ⟨by omega, h'.2.1, h'.2.2⟩⟩
      · exact swfFrom_cons.2 ⟨h'.1, h'.2.1, ih (by omega) h'.2.2⟩

/-- Writing a key keeps the canonical form. -/
theorem swf_sset [DecidableEq α] {m : Sparse α} (a : Nat) (x : α) (h : swf d m = true) : swf d (sset d m a x) = true := by
  rw [swf_iff] at h ⊢
  unfold sset
  split
  · exact swfFrom_serase a h
  · exact swfFrom_sput ‹_› (Nat.zero_le a) h

theorem swf_smod [DecidableEq α] {m : Sparse α} (a : Nat) (f : α → α) (h : swf d m = true) : swf d (smod d m a f) = true :=
  swf_sset a _ h

/-- Writing many keys keeps it. -/
theorem swf_ssetAll [DecidableEq α] {m : Sparse α} (xs : List (Nat × α)) (h : swf d m = true) : swf d (ssetAll d m xs) = true := by
  unfold ssetAll
  induction xs generalizing m with
  | nil => exact h
  | cons x xs ih => exact ih (swf_sset x.1 x.2 h)

theorem swfFrom_filter {m : Sparse α} (p : Nat × α → Bool) : ∀ {b : Nat}, swfFrom d b m → swfFrom d b (m.filter p) := by
  induction m with
  | nil => intro b h; exact h
  | cons x m ih =>
    obtain ⟨k, v⟩ := x
    intro b h
    have h' := swfFrom_cons.1 h
    rw [List.filter_cons]
    split
    · exact swfFrom_cons.2 ⟨h'.1, h'.2.1, ih h'.2.2⟩
    · exact swfFrom_mono (by omega) (ih h'.2.2)

/-- Dropping a range of keys keeps it. -/
theorem swf_seraseRange [DecidableEq α] {m : Sparse α} (lo hi : Nat) (h : swf d m = true) : swf d (seraseRange m lo hi) = true := by
  rw [swf_iff] at h ⊢
  exact swfFrom_filter _ h

/-- Keeping only some entries keeps it. -/
theorem swf_filter [DecidableEq α] {m : Sparse α} (p : Nat × α → Bool) (h : swf d m = true) : swf d (m.filter p) = true := by
  rw [swf_iff] at h ⊢
  exact swfFrom_filter p h

theorem swf_serase [DecidableEq α] {m : Sparse α} (a : Nat) (h : swf d m = true) : swf d (serase m a) = true := by
  rw [swf_iff] at h ⊢
  exact swfFrom_serase a h

/-- Changing values in place keeps it, if no value becomes the default. -/
theorem swf_map [DecidableEq α] {m : Sparse α} (f : Nat × α → α) (hf : ∀ x, x.2 ≠ d → f x ≠ d)
    (h : swf d m = true) : swf d (m.map (fun x => (x.1, f x))) = true := by
  rw [swf_iff] at h ⊢
  suffices ∀ b, swfFrom d b m → swfFrom d b (m.map (fun x => (x.1, f x))) from this 0 h
  clear h
  induction m with
  | nil => intro b h; exact h
  | cons x m ih =>
    obtain ⟨k, v⟩ := x
    intro b h
    have h' := swfFrom_cons.1 h
    exact swfFrom_cons.2 ⟨h'.1, hf _ h'.2.1, ih _ h'.2.2⟩

theorem swf_foldl [DecidableEq α] {β : Type} (k : β → Nat) (v : β → α) (l : List β) :
    ∀ {m : Sparse α}, swf d m = true → swf d (l.foldl (fun m x => sset d m (k x) (v x)) m) = true := by
  induction l with
  | nil => intro m h; exact h
  | cons x l ih => intro m h; exact ih (swf_sset _ _ h)

/-! ### Reading back -/

theorem sget_of_lt {m : Sparse α} {b a : Nat} (h : swfFrom d b m) (ha : a < b) : sget d m a = d := by
  cases m with
  | nil => rfl
  | cons x m =>
    obtain ⟨k, v⟩ := x
    have h' := swfFrom_cons.1 h
    have h1 : k ≠ a := by omega
    have h2 : a < k := by omega
    simp [sget, h1, h2]

theorem sget_serase {m : Sparse α} : ∀ {b : Nat} (a c : Nat), swfFrom d b m →
    sget d (serase m a) c = if c = a then d else sget d m c := by
  induction m with
  | nil => intro b a c _; simp [serase, sget]
  | cons x m ih =>
    obtain ⟨k, v⟩ := x
    intro b a c h
    have h' := swfFrom_cons.1 h
    by_cases hk : k = a
    · subst hk
      by_cases hc : c = k
      · subst hc; simp [serase, sget_of_lt h'.2.2 (Nat.lt_succ_self _)]
      · by_cases hlt : c < k
        · simp [serase, sget, hc, hlt, Ne.symm hc, sget_of_lt h'.2.2 (Nat.lt_succ_of_lt hlt)]
        · simp [serase, sget, hc, hlt, Ne.symm hc]
    · by_cases hlt : a < k
      · by_cases hc : c = a
        · subst hc; simp [serase, sget, hk, hlt]
        · simp [serase, sget, hk, hlt, hc]
      · have e : serase ((k, v) :: m) a = (k, v) :: serase m a := by simp [serase, hk, hlt]
        rw [e]
        by_cases hc : k = c
        · subst hc; simp [sget, hk]
        · by_cases hl2 : c < k
          · have : c ≠ a := by omega
            simp [sget, hc, hl2, this]
          · simp [sget, hc, hl2, ih a c h'.2.2]

theorem sget_sput {m : Sparse α} {x : α} : ∀ (a c : Nat),
    sget d (sput m a x) c = if c = a then x else sget d m c := by
  induction m with
  | nil =>
    intro a c
    by_cases hc : c = a
    · subst hc; simp [sput, sget]
    · simp [sput, sget, hc, Ne.symm hc]
  | cons y m ih =>
    obtain ⟨k, v⟩ := y
    intro a c
    by_cases hk : k = a
    · subst hk
      by_cases hc : c = k
      · subst hc; simp [sput, sget]
      · simp [sput, sget, hc, Ne.symm hc]
    · by_cases hlt : a < k
      · by_cases hc : c = a
        · subst hc; simp [sput, sget, hk, hlt]
        · by_cases hca : c < a
          · have h1 : k ≠ c := by omega
            have h2 : c < k := by omega
            simp [sput, sget, hk, hlt, hc, Ne.symm hc, hca, h1, h2]
          · simp [sput, sget, hk, hlt, hc, Ne.symm hc, hca]
      · have e : sput ((k, v) :: m) a x = (k, v) :: sput m a x := by simp [sput, hk, hlt]
        rw [e]
        by_cases hc : k = c
        · subst hc; simp [sget, hk]
        · by_cases hl2 : c < k
          · have : c ≠ a := by omega
            simp [sget, hc, hl2, this]
          · simp [sget, hc, hl2, ih a c]

/-- A key reads as it was last written; the others are unchanged. -/
theorem sget_sset [DecidableEq α] {m : Sparse α} (a c : Nat) (x : α) (h : swf d m = true) :
    sget d (sset d m a x) c = if c = a then x else sget d m c := by
  unfold sset
  split
  · subst_vars; exact sget_serase a c (swf_iff.1 h)
  · exact sget_sput a c

/-- A key that none of the writes names reads as before. -/
theorem sget_ssetAll_other [DecidableEq α] {m : Sparse α} (xs : List (Nat × α)) (c : Nat) (h : swf d m = true)
    (hc : ∀ x ∈ xs, x.1 ≠ c) : sget d (ssetAll d m xs) c = sget d m c := by
  unfold ssetAll
  induction xs generalizing m with
  | nil => rfl
  | cons x xs ih =>
    rw [List.foldl_cons, ih (swf_sset x.1 x.2 h) (fun y hy => hc y (List.mem_cons_of_mem _ hy)), sget_sset _ _ _ h]
    simp [Ne.symm (hc x (List.mem_cons_self ..))]

end Sys2Proof.Machine
end

