-- ==== Sys2Proof/Laws/Kept.lean ====
section
/-! SUPPORT. What every operation keeps: the queue of waiting commands, and the invariant `State.Inv`. -/

namespace Sys2Proof.Machine

set_option linter.unreachableTactic false
set_option linter.unusedTactic false

/-- `t` has the queue of `s`, and the invariant if `s` has. -/
def Kept (s t : State) : Prop := t.pending = s.pending ∧ (s.Inv → t.Inv)

theorem Kept.refl (s : State) : Kept s s := ⟨rfl, fun h => h⟩
theorem Kept.upd {s0 x : State} {clk lanes map osura buoys str trap ln td mem ring kp evq errs flt cnt log rst pwr trc bist
    hold out free} (h1 : osura.data = x.osura.data) (h2 : osura.check = x.osura.check)
    (h5 : rst.pstate = x.rst.pstate) (h6 : log.haveMark = x.log.haveMark) (h7 : log.en = x.log.en)
    (a : (lanes, cnt.eng, cnt.cl, td.ch, buoys.b, osura.secs, osura.cb) =
      (x.lanes, x.cnt.eng, x.cnt.cl, x.td.ch, x.buoys.b, x.osura.secs, x.osura.cb)) (h : Kept s0 x) :
    Kept s0 ⟨clk, lanes, map, osura, buoys, str, trap, ln, td, mem, ring, kp, evq, errs, flt, cnt, log, rst, pwr, x.dm,
      x.tw, trc, bist, hold, out, free, x.pending⟩ :=
  ⟨h.1, fun g => by
    simp only [Prod.mk.injEq] at a
    obtain ⟨a1, a2, a3, a4, a5, a6, a7⟩ := a
    have := h.2 g
    simpa only [State.Inv, Memory.wf, State.Canon, h1, h2, h5, h6, h7, a1, a2, a3, a4, a5, a6, a7] using this⟩
/-- An update of the power state. -/
theorem Kept.updP {s0 x : State} {clk lanes map osura buoys str trap ln td mem ring kp evq errs flt cnt log rst pwr trc bist
    hold out free} (h1 : osura.data = x.osura.data) (h2 : osura.check = x.osura.check)
    (h5 : rst.pstate ≤ 3) (h6 : log.haveMark = x.log.haveMark) (h7 : log.en = x.log.en)
    (a : (lanes, cnt.eng, cnt.cl, td.ch, buoys.b, osura.secs, osura.cb) =
      (x.lanes, x.cnt.eng, x.cnt.cl, x.td.ch, x.buoys.b, x.osura.secs, x.osura.cb)) (h : Kept s0 x) :
    Kept s0 ⟨clk, lanes, map, osura, buoys, str, trap, ln, td, mem, ring, kp, evq, errs, flt, cnt, log, rst, pwr, x.dm,
      x.tw, trc, bist, hold, out, free, x.pending⟩ :=
  ⟨h.1, fun g => by
    simp only [Prod.mk.injEq] at a
    obtain ⟨a1, a2, a3, a4, a5, a6, a7⟩ := a
    have := h.2 g
    simp only [State.Inv, Memory.wf, State.Canon] at this ⊢
    simp only [h1, h2, h6, h7, a1, a2, a3, a4, a5, a6, a7]
    exact ⟨this.1, this.2.1, this.2.2.1, h5, this.2.2.2.2⟩⟩
/-- An update of HAVEMARK. -/
theorem Kept.updL {s0 x : State} {clk lanes map osura buoys str trap ln td mem ring kp evq errs flt cnt log rst pwr trc bist
    hold out free} (h1 : osura.data = x.osura.data) (h2 : osura.check = x.osura.check)
    (h5 : rst.pstate = x.rst.pstate) (h6 : log.haveMark = true → log.en = true)
    (a : (lanes, cnt.eng, cnt.cl, td.ch, buoys.b, osura.secs, osura.cb) =
      (x.lanes, x.cnt.eng, x.cnt.cl, x.td.ch, x.buoys.b, x.osura.secs, x.osura.cb)) (h : Kept s0 x) :
    Kept s0 ⟨clk, lanes, map, osura, buoys, str, trap, ln, td, mem, ring, kp, evq, errs, flt, cnt, log, rst, pwr, x.dm,
      x.tw, trc, bist, hold, out, free, x.pending⟩ :=
  ⟨h.1, fun g => by
    simp only [Prod.mk.injEq] at a
    obtain ⟨a1, a2, a3, a4, a5, a6, a7⟩ := a
    have := h.2 g
    simp only [State.Inv, Memory.wf, State.Canon] at this ⊢
    simp only [h1, h2, h5, a1, a2, a3, a4, a5, a6, a7]
    exact ⟨this.1, this.2.1, this.2.2.1, this.2.2.2.1, h6, this.2.2.2.2.2⟩⟩
theorem Kept.of_inv {s0 x t : State} (hp : t.pending = x.pending) (hi : x.Inv → t.Inv) (h : Kept s0 x) : Kept s0 t :=
  ⟨hp.trans h.1, fun g => hi (h.2 g)⟩
/-- An update of the stores in canonical form. -/
theorem Kept.canon {s0 x t : State} (hp : t.pending = x.pending)
    (e : (t.osura.data, t.osura.check, t.dm, t.tw, t.rst.pstate, t.log.haveMark, t.log.en) =
      (x.osura.data, x.osura.check, x.dm, x.tw, x.rst.pstate, x.log.haveMark, x.log.en))
    (c : x.Canon → t.Canon) (h : Kept s0 x) : Kept s0 t := by
  refine Kept.of_inv hp (fun g => ?_) h
  simp only [Prod.mk.injEq] at e
  obtain ⟨e1, e2, e3, e4, e5, e6, e7⟩ := e
  obtain ⟨g1, g2, g3, g4, g5, g6⟩ := g
  exact ⟨by rw [Memory.wf, e1, e2]; exact g1, by rw [e3]; exact g2, by rw [e4]; exact g3, by rw [e5]; exact g4,
    by rw [e6, e7]; exact g5, c g6⟩
@[simp] theorem Log.setDirty_haveMark (l : Log) (x : Bool) (d : Sparse Bool) : (l.setDirty x d).haveMark = l.haveMark := by
  unfold Log.setDirty; split <;> rfl
@[simp] theorem Log.setDirty_en (l : Log) (x : Bool) (d : Sparse Bool) : (l.setDirty x d).en = l.en := by
  unfold Log.setDirty; split <;> rfl
@[simp] theorem Counters.open_eng (k : Nat) (c : Counters) : (c.open_ k).eng = c.eng := by
  unfold Counters.open_; split <;> rfl
@[simp] theorem Counters.open_cl (k : Nat) (c : Counters) : (c.open_ k).cl = c.cl := by
  unfold Counters.open_; split <;> rfl
@[simp] theorem Counters.open_freeze (k : Nat) (c : Counters) : (c.open_ k).freeze = c.freeze := by
  unfold Counters.open_; split <;> rfl
/-- The coalescing buffers are emptied. -/
theorem Kept.clearCb {s0 x : State} {q : List AsyncReq} (h : Kept s0 x) :
    Kept s0 { x with osura := { x.osura with q := q, cb := [] } } :=
  Kept.canon (x := x) rfl rfl (fun c => ⟨c.1, c.2.1, c.2.2.1, c.2.2.2.1, c.2.2.2.2.1, c.2.2.2.2.2.1, rfl⟩) h
theorem Kept.trans {s t u : State} (h : Kept s t) (g : Kept t u) : Kept s u :=
  ⟨g.1.trans h.1, fun k => g.2 (h.2 k)⟩
theorem Kept.ite {s0 a b : State} {c : Prop} [Decidable c] (ha : Kept s0 a) (hb : Kept s0 b) :
    Kept s0 (if c then a else b) := by split <;> assumption
theorem Kept.foldl {α : Type} {s0 : State} {g : State → α → State} (hg : ∀ s a, Kept s0 s → Kept s0 (g s a)) :
    ∀ {l : List α} {s : State}, Kept s0 s → Kept s0 (l.foldl g s)
  | [], _, h => h
  | a :: l, s, h => Kept.foldl hg (l := l) (hg s a h)

theorem Kept.foldl2 {α β : Type} {s0 : State} {g : β × State → α → β × State}
    (hg : ∀ x a, Kept s0 x.2 → Kept s0 (g x a).2) : ∀ {l : List α} {x : β × State}, Kept s0 x.2 → Kept s0 (l.foldl g x).2
  | [], _, h => h
  | a :: l, x, h => Kept.foldl2 hg (l := l) (hg x a h)
theorem Kept.foldl3 {α β γ : Type} {s0 : State} {g : β × γ × State → α → β × γ × State}
    (hg : ∀ x a, Kept s0 x.2.2 → Kept s0 (g x a).2.2) :
    ∀ {l : List α} {x : β × γ × State}, Kept s0 x.2.2 → Kept s0 (l.foldl g x).2.2
  | [], _, h => h
  | a :: l, x, h => Kept.foldl3 hg (l := l) (hg x a h)

/-- What an outcome keeps. -/
def KeptO (s0 : State) (o : Host.Outcome State Fault Refusal) : Prop := ∀ t, o = .next t → Kept s0 t
theorem KeptO.next {s0 t : State} (h : Kept s0 t) : KeptO s0 (.next t) := fun _ e => by cases e; exact h
theorem KeptO.refused {s0 : State} {r : Refusal} : KeptO s0 (.refused r) := fun _ e => by cases e
theorem KeptO.fault {s0 : State} {r : Fault} : KeptO s0 (.fault r) := fun _ e => by cases e
theorem KeptO.ite {s0 : State} {a b} {c : Prop} [Decidable c] (ha : KeptO s0 a) (hb : KeptO s0 b) :
    KeptO s0 (if c then a else b) := by split <;> assumption

/-- What an optional state keeps. -/
def KeptM (s0 : State) (o : Option State) : Prop := ∀ t, o = some t → Kept s0 t
theorem KeptM.some {s0 t : State} (h : Kept s0 t) : KeptM s0 (some t) := fun _ e => by cases e; exact h
theorem KeptM.none {s0 : State} : KeptM s0 none := fun _ e => by cases e
theorem KeptM.ite {s0 : State} {a b} {c : Prop} [Decidable c] (ha : KeptM s0 a) (hb : KeptM s0 b) :
    KeptM s0 (if c then a else b) := by split <;> assumption
theorem KeptM.orElse {s0 : State} {a : Option State} {b} (ha : KeptM s0 a) (hb : KeptM s0 (b ())) :
    KeptM s0 (a.orElse b) := by cases a with
  | none => exact hb
  | some x => exact ha
theorem KeptM.getD {s0 s : State} {a : Option State} (ha : KeptM s0 a) (h : Kept s0 s) : Kept s0 (a.getD s) := by
  cases a with
  | none => exact h
  | some x => exact ha x rfl
/-- What a Control command's outcome keeps. -/
def KeptC (s0 : State) : CtlOut → Prop
  | .wait => True
  | .refused _ s | .done _ s | .running _ s => Kept s0 s
theorem KeptC.wait {s0 : State} : KeptC s0 .wait := trivial
theorem KeptC.refused {s0 t : State} {r : Nat} (h : Kept s0 t) : KeptC s0 (.refused r t) := h
theorem KeptC.done {s0 t : State} {r : Nat} (h : Kept s0 t) : KeptC s0 (.done r t) := h
theorem KeptC.running {s0 t : State} {r : List Nat} (h : Kept s0 t) : KeptC s0 (.running r t) := h
theorem KeptC.ite {s0 : State} {a b} {c : Prop} [Decidable c] (ha : KeptC s0 a) (hb : KeptC s0 b) :
    KeptC s0 (if c then a else b) := by split <;> assumption
theorem KeptM.out {s0 t : State} {o : Option State} (h : KeptM s0 o) (e : o = Option.some t) : Kept s0 t := h t e

theorem kept_State_powerAsk {s0 s : State} {dom : Nat} {op : Nat} (h : Kept s0 s) :
    Kept s0 (State.powerAsk s dom op) :=
  Kept.upd rfl rfl rfl rfl rfl rfl h

theorem kept_State_powerOff {s0 s : State} {dom : Nat} (h : Kept s0 s) :
    Kept s0 (State.powerOff s dom) := by
  unfold State.powerOff
  try dsimp only
  repeat' first
    | with_reducible assumption | with_reducible refine kept_State_powerAsk ?_ | with_reducible refine Kept.ite ?_ ?_
    | fail_if_no_progress with_reducible refine Kept.upd rfl rfl rfl rfl rfl rfl ?_

theorem kept_clusterPump {s0 s : State} (h : Kept s0 s) :
    Kept s0 (clusterPump s) := by
  unfold clusterPump
  try dsimp only
  repeat' first
    | with_reducible assumption | with_reducible refine kept_State_powerAsk ?_
    | fail_if_no_progress with_reducible refine Kept.upd rfl rfl rfl rfl rfl rfl ?_ | split

theorem kept_State_push {s0 s : State} {e : EvRec} (h : Kept s0 s) :
    Kept s0 (State.push s e) :=
  Kept.upd rfl rfl rfl rfl rfl rfl h

theorem kept_State_descErr {s0 s : State} {n : Nat} {slot : Nat} {reason : Nat} {op : Nat} {user : Nat} (h : Kept s0 s) :
    Kept s0 (State.descErr s n slot reason op user) :=
  Kept.upd rfl rfl rfl rfl rfl rfl h

theorem kept_ctlReport {s0 s : State} {r : CtlRun} (h : Kept s0 s) :
    Kept s0 (ctlReport s r) := by
  unfold ctlReport
  try dsimp only
  repeat' first
    | with_reducible assumption | with_reducible refine kept_State_descErr ?_
    | with_reducible refine kept_State_push ?_
    | fail_if_no_progress with_reducible refine Kept.upd rfl rfl rfl rfl rfl rfl ?_ | split

theorem kept_ctlPump {s0 s : State} (h : Kept s0 s) :
    Kept s0 (ctlPump s) := by
  unfold ctlPump
  try dsimp only
  repeat' first
    | with_reducible assumption | with_reducible refine kept_ctlReport ?_
    | with_reducible refine Kept.foldl (fun _ _ _ => ?_) ?_
    | fail_if_no_progress with_reducible refine Kept.upd rfl rfl rfl rfl rfl rfl ?_

theorem kept_State_secSettled {s0 s : State} {op : Nat} {sec : Nat} {failed : Bool} (h : Kept s0 s) :
    Kept s0 (State.secSettled s op sec failed) := by
  unfold State.secSettled
  try dsimp only
  repeat' first
    | with_reducible assumption | with_reducible refine kept_ctlPump ?_
    | fail_if_no_progress with_reducible refine Kept.upd rfl rfl rfl rfl rfl rfl ?_

theorem kept_State_modSec {s0 s : State} {sec : Nat} {f : SecCtl → SecCtl} (h : Kept s0 s) : Kept s0 (s.modSec sec f) :=
  Kept.canon (x := s) rfl rfl (fun c => ⟨c.1, c.2.1, c.2.2.1, c.2.2.2.1, c.2.2.2.2.1, swf_smod _ _ c.2.2.2.2.2.1, c.2.2.2.2.2.2⟩) h

theorem kept_startLight {s0 s : State} {ps : Nat} {sec : Nat} (h : Kept s0 s) :
    Kept s0 (startLight ps sec s) := by
  unfold startLight
  try dsimp only
  repeat' first
    | with_reducible assumption | with_reducible refine kept_State_powerAsk ?_
    | with_reducible refine kept_State_modSec ?_ | with_reducible refine Kept.ite ?_ ?_
    | with_reducible refine Kept.foldl (fun _ _ _ => ?_) ?_ | with_reducible refine Kept.foldl2 (fun _ _ _ => ?_) ?_
    | with_reducible refine Kept.foldl3 (fun _ _ _ => ?_) ?_
    | fail_if_no_progress with_reducible refine Kept.upd rfl rfl rfl rfl rfl rfl ?_
    | fail_if_no_progress with_reducible refine Kept.updP rfl rfl (by dsimp only; decide) rfl rfl rfl ?_
    | fail_if_no_progress with_reducible refine Kept.updL rfl rfl rfl (fun e => e) rfl ?_
    | fail_if_no_progress with_reducible refine Kept.updL rfl rfl rfl (fun e => absurd e Bool.false_ne_true) rfl ?_
    | split | dsimp only

theorem kept_restoreFail {s0 s : State} {code : Nat} (h : Kept s0 s) :
    Kept s0 (restoreFail code s) :=
  Kept.upd rfl rfl rfl rfl rfl rfl h

theorem kept_endRestore {s0 s : State} (h : Kept s0 s) :
    Kept s0 (endRestore s) := by
  unfold endRestore
  try dsimp only
  repeat' first
    | with_reducible assumption | with_reducible refine kept_restoreFail ?_ | with_reducible refine Kept.ite ?_ ?_

theorem kept_State_detect {s0 s : State} {e : ErrRec} (h : Kept s0 s) :
    Kept s0 (State.detect s e) := by
  unfold State.detect
  try dsimp only
  repeat' first
    | with_reducible assumption | with_reducible refine kept_endRestore ?_
    | fail_if_no_progress with_reducible refine Kept.upd rfl rfl rfl rfl rfl rfl ?_

theorem kept_State_retireAgain {s0 s : State} {ps : Nat} {sec : Nat} (h : Kept s0 s) :
    Kept s0 (State.retireAgain s ps sec) := by
  unfold State.retireAgain
  try dsimp only
  repeat' first
    | with_reducible assumption | with_reducible refine kept_State_detect ?_ | with_reducible refine Kept.ite ?_ ?_

theorem kept_lightGo {s0 x1 : State} {x0 : List Nat} (h : Kept s0 x1) :
    Kept s0 (lightGo x0 x1) := by
  induction x0 generalizing x1 with
  | nil =>
    unfold lightGo
    try dsimp only
    repeat' first
      | with_reducible assumption | with_reducible refine kept_State_retireAgain ?_
      | with_reducible refine kept_startLight ?_
      | fail_if_no_progress with_reducible refine Kept.upd rfl rfl rfl rfl rfl rfl ?_ | split
  | cons y ys ih =>
    unfold lightGo
    try dsimp only
    repeat' first
      | with_reducible assumption | with_reducible refine ih ?_ | with_reducible refine kept_State_retireAgain ?_
      | with_reducible refine kept_startLight ?_
      | fail_if_no_progress with_reducible refine Kept.upd rfl rfl rfl rfl rfl rfl ?_ | split

theorem kept_lightNext {s0 s : State} (h : Kept s0 s) :
    Kept s0 (lightNext s) := by
  unfold lightNext
  try dsimp only
  repeat' first | with_reducible assumption | with_reducible refine kept_lightGo ?_

theorem kept_State_unlight {s0 s : State} {sec : Nat} (h : Kept s0 s) :
    Kept s0 (State.unlight s sec) :=
  Kept.upd rfl rfl rfl rfl rfl rfl h

theorem kept_State_cleanSector {s0 s : State} {sec : Nat} (h : Kept s0 s) :
    Kept s0 (State.cleanSector s sec) :=
  Kept.upd rfl rfl rfl rfl rfl rfl h

theorem kept_goDark {s0 s : State} {sec : Nat} (h : Kept s0 s) :
    Kept s0 (goDark sec s) := by
  unfold goDark
  try dsimp only
  repeat' first
    | with_reducible assumption | with_reducible refine kept_State_cleanSector ?_
    | with_reducible refine kept_State_modSec ?_ | with_reducible refine kept_State_powerAsk ?_
    | with_reducible refine kept_State_secSettled ?_ | split

theorem kept_State_askOsura {s0 s : State} {agent : Agent} {who : Owner} {a : Nat} {len : Nat} {wr : Option (List Host.Cell)} (h : Kept s0 s) :
    Kept s0 (State.askOsura s agent who a len wr) :=
  Kept.upd rfl rfl rfl rfl rfl rfl h

theorem kept_State_setCb {s0 s : State} {pc : Nat} {f : List CbEntry → List CbEntry} (h : Kept s0 s) :
    Kept s0 (State.setCb s pc f) :=
  Kept.canon (x := s) rfl rfl (fun c =>
    ⟨c.1, c.2.1, c.2.2.1, c.2.2.2.1, c.2.2.2.2.1, c.2.2.2.2.2.1, swf_smod pc f c.2.2.2.2.2.2⟩) h

theorem kept_State_flushEntry {s0 s : State} {pc : Nat} {e : CbEntry} (h : Kept s0 s) :
    Kept s0 (State.flushEntry s pc e) :=
  Kept.upd rfl rfl rfl rfl rfl rfl (kept_State_setCb (pc := pc) (f := (·.erase e)) h)

theorem kept_State_readGranule {s0 s : State} {agent : Agent} {g : Nat} (h : Kept s0 s) :
    Kept s0 (State.readGranule s agent g) := by
  unfold State.readGranule
  try dsimp only
  repeat' first
    | with_reducible assumption | with_reducible refine kept_State_askOsura ?_ | with_reducible refine Kept.ite ?_ ?_
    | with_reducible refine Kept.foldl (fun _ _ _ => ?_) ?_
    | fail_if_no_progress with_reducible refine Kept.upd rfl rfl rfl rfl rfl rfl ?_

theorem kept_State_forceCow {s0 s : State} {g : Nat} (h : Kept s0 s) :
    Kept s0 (State.forceCow s g) := by
  unfold State.forceCow
  try dsimp only
  repeat' first
    | with_reducible assumption | with_reducible refine kept_State_readGranule ?_
    | with_reducible refine Kept.ite ?_ ?_
    | fail_if_no_progress with_reducible refine Kept.upd rfl rfl rfl rfl rfl rfl ?_

theorem kept_startClosing {s0 s : State} {sec : Nat} (h : Kept s0 s) :
    Kept s0 (startClosing sec s) := by
  unfold startClosing
  try dsimp only
  repeat' first
    | with_reducible assumption | with_reducible refine kept_State_flushEntry ?_
    | with_reducible refine kept_State_forceCow ?_ | with_reducible refine kept_State_modSec ?_
    | with_reducible refine Kept.foldl (fun _ _ _ => ?_) ?_
    | fail_if_no_progress with_reducible refine Kept.upd rfl rfl rfl rfl rfl rfl ?_

theorem kept_State_zeroSector {s0 s : State} {ps : Nat} (h : Kept s0 s) : Kept s0 (s.zeroSector ps) :=
  Kept.of_inv (x := s) rfl (fun g => ⟨⟨swf_seraseRange _ _ g.1.1, swf_seraseRange _ _ g.1.2⟩, g.2⟩) h

theorem kept_State_markDirty {s0 s : State} {g : Nat} (h : Kept s0 s) :
    Kept s0 (State.markDirty s g) :=
  Kept.upd rfl rfl rfl rfl rfl rfl h

theorem kept_fillDone {s0 s : State} {ps : Nat} {sec : Nat} (h : Kept s0 s) :
    Kept s0 (fillDone ps sec s) := by
  unfold fillDone
  try dsimp only
  repeat' first
    | with_reducible assumption | with_reducible refine kept_State_unlight ?_
    | with_reducible refine kept_State_zeroSector ?_ | with_reducible refine kept_State_markDirty ?_
    | with_reducible refine kept_State_modSec ?_ | with_reducible refine kept_State_secSettled ?_
    | with_reducible refine kept_lightNext ?_ | with_reducible refine kept_startClosing ?_
    | with_reducible refine Kept.ite ?_ ?_ | with_reducible refine Kept.foldl (fun _ _ _ => ?_) ?_
    | fail_if_no_progress with_reducible refine Kept.upd rfl rfl rfl rfl rfl rfl ?_

theorem kept_State_order {s0 s : State} {kind : Nat} {unit : Nat} (h : Kept s0 s) :
    Kept s0 (State.order s kind unit) :=
  Kept.upd rfl rfl rfl rfl rfl rfl h

theorem kept_bistCommand {s0 s : State} {v : Nat} (h : Kept s0 s) :
    Kept s0 (bistCommand v s) := by
  unfold bistCommand
  try dsimp only
  repeat' first
    | with_reducible assumption | with_reducible refine kept_State_order ?_
    | with_reducible refine kept_State_modSec ?_ | with_reducible refine Kept.ite ?_ ?_
    | fail_if_no_progress with_reducible refine Kept.upd rfl rfl rfl rfl rfl rfl ?_

theorem kept_State_hostWrite {s0 s : State} {f : State → State} (hf : ∀ s, Kept s0 s → Kept s0 (f s)) (h : Kept s0 s) :
    Kept s0 (s.hostWrite f) := by
  have ht : Kept s0 (if s.rst.ready then f s else s) := Kept.ite (hf _ h) h
  exact Kept.upd rfl rfl rfl rfl rfl rfl ht

theorem kept_traceLine {s0 s : State} (h : Kept s0 s) :
    Kept s0 (traceLine s) := by
  unfold traceLine
  try dsimp only
  repeat' first
    | with_reducible assumption | with_reducible refine kept_State_askOsura ?_ | with_reducible refine Kept.ite ?_ ?_
    | fail_if_no_progress with_reducible refine Kept.upd rfl rfl rfl rfl rfl rfl ?_

theorem kept_traceWritten {s0 s : State} (h : Kept s0 s) :
    Kept s0 (traceWritten s) := by
  unfold traceWritten
  try dsimp only
  repeat' first
    | with_reducible assumption | with_reducible refine kept_traceLine ?_
    | fail_if_no_progress with_reducible refine Kept.upd rfl rfl rfl rfl rfl rfl ?_

theorem kept_scrubbed {s0 s : State} {sec : Nat} (h : Kept s0 s) :
    Kept s0 (scrubbed sec s) := by
  unfold scrubbed
  try dsimp only
  repeat' first
    | with_reducible assumption | with_reducible refine kept_State_modSec ?_
    | with_reducible refine kept_State_detect ?_ | with_reducible refine Kept.ite ?_ ?_

theorem kept_State_putWord {s0 s : State} {w x : Nat} (h : Kept s0 s) : Kept s0 (s.putWord w x) :=
  Kept.of_inv (x := s) rfl (fun g => ⟨⟨swf_ssetAll _ g.1.1, swf_sset _ _ g.1.2⟩, g.2⟩) h

theorem kept_writeBackWord {s0 s : State} {a : Nat} (h : Kept s0 s) :
    Kept s0 (writeBackWord a s) := by
  unfold writeBackWord
  try dsimp only
  repeat' first | with_reducible assumption | with_reducible refine kept_State_putWord ?_ | split

theorem kept_flushMusts {s0 s : State} {pc : Nat} (h : Kept s0 s) :
    Kept s0 (flushMusts pc s) := by
  unfold flushMusts
  try dsimp only
  repeat' first
    | with_reducible assumption | with_reducible refine kept_State_flushEntry ?_
    | with_reducible refine Kept.ite ?_ ?_ | with_reducible refine Kept.foldl (fun _ _ _ => ?_) ?_

theorem kept_State_modStr {s0 s : State} {f : Stream → Stream} (h : Kept s0 s) :
    Kept s0 (State.modStr s f) :=
  Kept.upd rfl rfl rfl rfl rfl rfl h

theorem kept_cbEnter {s0 s : State} {p : PartStore} (h : Kept s0 s) :
    KeptM s0 (cbEnter p s) := by
  unfold cbEnter
  try dsimp only
  repeat' first
    | with_reducible assumption | with_reducible refine KeptM.some ?_ | exact KeptM.none
    | with_reducible refine kept_flushMusts ?_ | with_reducible refine kept_State_setCb ?_
    | with_reducible refine kept_State_flushEntry ?_ | split

theorem kept_carryPump {s0 x1 : State} {x0 : List PartStore} (h : Kept s0 x1) :
    Kept s0 (carryPump x0 x1) := by
  induction x0 generalizing x1 with
  | nil =>
    unfold carryPump
    try dsimp only
    repeat' first
      | with_reducible assumption | with_reducible refine kept_State_modStr ?_
      | refine KeptM.out (kept_cbEnter ?_) (by assumption) | split
  | cons y ys ih =>
    unfold carryPump
    try dsimp only
    repeat' first
      | with_reducible assumption | with_reducible refine ih ?_ | with_reducible refine kept_State_modStr ?_
      | refine KeptM.out (kept_cbEnter ?_) (by assumption) | split

theorem kept_flushPump {s0 s : State} (h : Kept s0 s) :
    Kept s0 (flushPump s) := by
  unfold flushPump
  try dsimp only
  repeat' first
    | with_reducible assumption | with_reducible refine kept_flushMusts ?_ | with_reducible refine kept_carryPump ?_
    | with_reducible refine Kept.foldl (fun _ _ _ => ?_) ?_

theorem kept_State_setChan {s0 s : State} {c : Nat} {x : Chan} (h : Kept s0 s) : Kept s0 (s.setChan c x) :=
  Kept.canon (x := s) rfl rfl (fun k => ⟨k.1, k.2.1, k.2.2.1, swf_sset _ _ k.2.2.2.1, k.2.2.2.2⟩) h

theorem kept_tdFinish {s0 s : State} {c : Nat} {status : Nat} (h : Kept s0 s) :
    Kept s0 (tdFinish c status s) := by
  unfold tdFinish
  try dsimp only
  repeat' first
    | with_reducible assumption | with_reducible refine kept_State_setChan ?_ | with_reducible refine Kept.ite ?_ ?_
    | with_reducible refine Kept.foldl (fun _ _ _ => ?_) ?_ | with_reducible refine Kept.foldl2 (fun _ _ _ => ?_) ?_
    | with_reducible refine Kept.foldl3 (fun _ _ _ => ?_) ?_
    | fail_if_no_progress with_reducible refine Kept.upd rfl rfl rfl rfl rfl rfl ?_
    | fail_if_no_progress with_reducible refine Kept.updP rfl rfl (by dsimp only; decide) rfl rfl rfl ?_
    | fail_if_no_progress with_reducible refine Kept.updL rfl rfl rfl (fun e => e) rfl ?_
    | fail_if_no_progress with_reducible refine Kept.updL rfl rfl rfl (fun e => absurd e Bool.false_ne_true) rfl ?_
    | split | dsimp only

theorem kept_tdWrite {s0 s : State} {c : Nat} {ext : Bool} {a : Nat} {bs : List Byte} {back : Nat → Nat} (h : Kept s0 s) :
    Kept s0 (tdWrite c ext a bs back s) := by
  unfold tdWrite
  try dsimp only
  repeat' first
    | with_reducible assumption | with_reducible refine kept_State_setChan ?_
    | with_reducible refine kept_State_askOsura ?_ | with_reducible refine Kept.ite ?_ ?_
    | with_reducible refine Kept.foldl (fun _ _ _ => ?_) ?_

theorem kept_tdWriteRow {s0 s : State} {c : Nat} {p1 : Nat} (h : Kept s0 s) :
    Kept s0 (tdWriteRow c p1 s) := by
  unfold tdWriteRow
  try dsimp only
  repeat' first
    | with_reducible assumption | with_reducible refine kept_State_setChan ?_ | with_reducible refine kept_tdWrite ?_
    | with_reducible refine Kept.foldl (fun _ _ _ => ?_) ?_

theorem kept_tdScales {s0 s : State} {c : Nat} {p1 : Nat} (h : Kept s0 s) :
    Kept s0 (tdScales c p1 s) := by
  unfold tdScales
  try dsimp only
  repeat' first
    | with_reducible assumption | with_reducible refine kept_tdWrite ?_ | with_reducible refine kept_State_setChan ?_

theorem kept_refuseEclipse {s0 s : State} (h : Kept s0 s) :
    Kept s0 (refuseEclipse s) := by
  unfold refuseEclipse
  try dsimp only
  repeat' first
    | with_reducible assumption | with_reducible refine kept_ctlPump ?_ | with_reducible refine kept_State_descErr ?_
    | fail_if_no_progress with_reducible refine Kept.updP rfl rfl (by dsimp only; decide) rfl rfl rfl ?_ | split

theorem kept_tdRead {s0 s : State} {c : Nat} {kind : Nat} {ext : Bool} {a : Nat} {len : Nat} {pos : Nat} (h : Kept s0 s) :
    Kept s0 (tdRead c kind ext a len pos s) := by
  unfold tdRead
  try dsimp only
  repeat' first
    | with_reducible assumption | with_reducible refine kept_State_setChan ?_
    | with_reducible refine kept_State_askOsura ?_ | with_reducible refine Kept.ite ?_ ?_
    | with_reducible refine Kept.foldl (fun _ _ _ => ?_) ?_

theorem kept_tdStartRow {s0 s : State} {c : Nat} (h : Kept s0 s) :
    Kept s0 (tdStartRow c s) := by
  unfold tdStartRow
  try dsimp only
  repeat' first
    | with_reducible assumption | with_reducible refine kept_State_setChan ?_ | with_reducible refine kept_tdFinish ?_
    | with_reducible refine kept_tdWrite ?_ | with_reducible refine kept_tdRead ?_
    | with_reducible refine Kept.ite ?_ ?_ | with_reducible refine Kept.foldl (fun _ _ _ => ?_) ?_

theorem kept_tdAdvance {s0 s : State} {c : Nat} (h : Kept s0 s) :
    Kept s0 (tdAdvance c s) := by
  unfold tdAdvance
  try dsimp only
  repeat' first
    | with_reducible assumption | with_reducible refine kept_tdFinish ?_ | with_reducible refine kept_tdWriteRow ?_
    | with_reducible refine kept_tdScales ?_ | with_reducible refine kept_refuseEclipse ?_
    | with_reducible refine kept_State_setChan ?_ | with_reducible refine kept_tdStartRow ?_ | split

theorem kept_tdWriteDone {s0 s : State} {c : Nat} {req : Nat} (h : Kept s0 s) :
    Kept s0 (tdWriteDone c req s) := by
  unfold tdWriteDone
  try dsimp only
  repeat' first
    | with_reducible assumption | with_reducible refine kept_tdAdvance ?_
    | with_reducible refine kept_State_setChan ?_ | with_reducible refine Kept.ite ?_ ?_

theorem kept_State_addCredit {s0 s : State} {dst : Nat} {moor : Nat} {f : Nat → Nat} (h : Kept s0 s) :
    Kept s0 (State.addCredit s dst moor f) :=
  Kept.upd rfl rfl rfl rfl rfl rfl h

theorem kept_sendReads {s0 x6 : State} {c : Nat} {x : Xfer} {x2 : Nat} {x3 : Nat} {x4 : Nat} {x5 : Nat} (h : Kept s0 x6) :
    Kept s0 (sendReads c x x2 x3 x4 x5 x6) := by
  induction x2 generalizing c x x3 x4 x5 x6 with
  | zero =>
    unfold sendReads
    try dsimp only
    repeat' first
      | with_reducible assumption | with_reducible refine kept_tdRead ?_ | with_reducible refine Kept.ite ?_ ?_
  | succ m ih =>
    unfold sendReads
    try dsimp only
    repeat' first
      | with_reducible assumption | with_reducible refine ih ?_ | with_reducible refine kept_tdRead ?_
      | with_reducible refine Kept.ite ?_ ?_

theorem kept_sendPump {s0 s : State} {c : Nat} (h : Kept s0 s) :
    Kept s0 (sendPump c s) := by
  unfold sendPump
  try dsimp only
  repeat' first
    | with_reducible assumption | with_reducible refine kept_tdFinish ?_
    | with_reducible refine kept_State_addCredit ?_ | with_reducible refine kept_State_setChan ?_
    | with_reducible refine kept_sendReads ?_ | with_reducible refine Kept.ite ?_ ?_

theorem kept_bumpBy {s0 s : State} {off n : Nat} (h : Kept s0 s) : Kept s0 (bumpBy off n s) := by
  unfold bumpBy
  exact Kept.ite h (Kept.canon (x := s) rfl rfl (fun c =>
    ⟨c.1, swf_smod off (fun v => v + n) c.2.1, by rw [show _ = _ from Counters.open_cl _ s.cnt]; exact c.2.2.1, c.2.2.2⟩) h)

theorem kept_bump {s0 s : State} {off : Nat} (h : Kept s0 s) :
    Kept s0 (bump off s) := by
  unfold bump
  try dsimp only
  repeat' first | with_reducible assumption | with_reducible refine kept_bumpBy ?_

theorem kept_State_ringDrop {s0 s : State} {reason : Nat} {p : Pkt} (h : Kept s0 s) :
    Kept s0 (State.ringDrop s reason p) := by
  unfold State.ringDrop
  try dsimp only
  repeat' first
    | with_reducible assumption | with_reducible refine kept_bump ?_ | with_reducible refine Kept.ite ?_ ?_
    | fail_if_no_progress with_reducible refine Kept.upd rfl rfl rfl rfl rfl rfl ?_

theorem kept_State_setPort {s0 s : State} {n : Nat} {f : RPort → RPort} (h : Kept s0 s) :
    Kept s0 (State.setPort s n f) :=
  Kept.upd rfl rfl rfl rfl rfl rfl h

theorem kept_State_originate {s0 s : State} {p : Pkt} (h : Kept s0 s) :
    Kept s0 (State.originate s p) := by
  unfold State.originate
  try dsimp only
  repeat' first
    | with_reducible assumption | with_reducible refine kept_State_ringDrop ?_
    | with_reducible refine kept_State_setPort ?_
    | fail_if_no_progress with_reducible refine Kept.upd rfl rfl rfl rfl rfl rfl ?_ | split

theorem kept_sendPacket {s0 s : State} {c : Nat} (h : Kept s0 s) :
    Kept s0 (sendPacket c s) := by
  unfold sendPacket
  try dsimp only
  repeat' first
    | with_reducible assumption | with_reducible refine kept_State_setChan ?_ | with_reducible refine kept_sendPump ?_
    | with_reducible refine kept_State_originate ?_ | with_reducible refine Kept.ite ?_ ?_

theorem kept_tdCopyLine {s0 s : State} {c : Nat} {req : Nat} {bs : List Byte} (h : Kept s0 s) :
    Kept s0 (tdCopyLine c req bs s) := by
  unfold tdCopyLine
  try dsimp only
  repeat' first | with_reducible assumption | with_reducible refine kept_tdWrite ?_ | split

theorem kept_tdReadDone {s0 s : State} {c : Nat} {req : Nat} {bs : List Byte} (h : Kept s0 s) :
    Kept s0 (tdReadDone c req bs s) := by
  unfold tdReadDone
  try dsimp only
  repeat' first
    | with_reducible assumption | with_reducible refine kept_tdAdvance ?_ | with_reducible refine kept_tdCopyLine ?_
    | with_reducible refine kept_State_setChan ?_ | with_reducible refine Kept.ite ?_ ?_

theorem kept_State_alsoWithout {s0 s : State} {n : Nat} {f : Buoy → Buoy} (h : Kept s0 s) :
    Kept s0 (State.alsoWithout s n f) := by
  unfold State.alsoWithout
  try dsimp only
  repeat' first
    | with_reducible assumption | with_reducible refine Kept.ite ?_ ?_
    | fail_if_no_progress with_reducible refine Kept.upd rfl rfl rfl rfl rfl rfl ?_

theorem kept_State_buoyMisuse {s0 s : State} {n : Nat} {kind : Nat} {source : Nat} {uncovered : Bool} (h : Kept s0 s) :
    Kept s0 (State.buoyMisuse s n kind source uncovered) := by
  unfold State.buoyMisuse
  try dsimp only
  repeat' first
    | with_reducible assumption | with_reducible refine kept_bump ?_ | with_reducible refine Kept.ite ?_ ?_
    | fail_if_no_progress with_reducible refine Kept.upd rfl rfl rfl rfl rfl rfl ?_

theorem kept_State_putBuoy {s0 s : State} {cmd : Bool} {n : Nat} {b : Buoy} (h : Kept s0 s) :
    Kept s0 (s.putBuoy cmd n b) :=
  Kept.canon (x := s) rfl rfl (fun c => ⟨c.1, c.2.1, c.2.2.1, c.2.2.2.1, swf_sset _ _ c.2.2.2.2.1, c.2.2.2.2.2⟩) h

theorem kept_State_setBuoy {s0 s : State} {n : Nat} {b : Buoy} (h : Kept s0 s) : Kept s0 (s.setBuoy n b) :=
  kept_State_putBuoy h

theorem kept_State_countAt {s0 s : State} {n : Nat} {kind : Nat} {source : Nat} {f : Buoy → Buoy} (h : Kept s0 s) :
    Kept s0 (State.countAt s n kind source f) := by
  unfold State.countAt
  try dsimp only
  repeat' first
    | with_reducible assumption | with_reducible refine kept_State_buoyMisuse ?_
    | with_reducible refine kept_State_setBuoy ?_ | with_reducible refine Kept.ite ?_ ?_

theorem kept_State_complete {s0 s : State} {n : Nat} {source : Nat} (h : Kept s0 s) :
    Kept s0 (State.complete s n source) := by
  unfold State.complete
  try dsimp only
  repeat' first
    | with_reducible assumption | with_reducible refine kept_State_alsoWithout ?_
    | with_reducible refine kept_State_countAt ?_

theorem kept_State_modLane {s0 s : State} {pc : Nat} {f : Lanes → Lanes} (h : Kept s0 s) : Kept s0 (s.modLane pc f) :=
  Kept.canon (x := s) rfl rfl (fun c => ⟨swf_smod _ _ c.1, c.2⟩) h

theorem kept_State_putCells {s0 s : State} {cl : Nat} {cells : List (Nat × Nat)} (h : Kept s0 s) :
    Kept s0 (State.putCells s cl cells) := by
  unfold State.putCells
  try dsimp only
  repeat' first | with_reducible assumption | with_reducible refine kept_State_modLane ?_ | split

theorem kept_State_putMask {s0 s : State} {cl : Nat} {m : Nat} {v : Nat} (h : Kept s0 s) :
    Kept s0 (State.putMask s cl m v) := by
  unfold State.putMask
  try dsimp only
  repeat' first | with_reducible assumption | with_reducible refine kept_State_modLane ?_ | split

theorem kept_State_putAny {s0 s : State} {cl : Nat} {cells : List (Nat × Nat)} (h : Kept s0 s) :
    Kept s0 (State.putAny s cl cells) := by
  unfold State.putAny
  try dsimp only
  repeat' first
    | with_reducible assumption | with_reducible refine kept_State_putCells ?_
    | with_reducible refine kept_State_putMask ?_ | with_reducible refine Kept.foldl (fun _ _ _ => ?_) ?_

theorem kept_applyWb {s0 s : State} (h : Kept s0 s) :
    Kept s0 (applyWb s) := by
  unfold applyWb
  try dsimp only
  repeat' first
    | with_reducible assumption | with_reducible refine kept_State_modStr ?_
    | with_reducible refine kept_State_putAny ?_ | with_reducible refine Kept.ite ?_ ?_
    | with_reducible refine Kept.foldl (fun _ _ _ => ?_) ?_

theorem kept_endMov {s0 s : State} {m : MovInst} (h : Kept s0 s) :
    Kept s0 (endMov m s) := by
  unfold endMov
  try dsimp only
  repeat' first
    | with_reducible assumption | with_reducible refine kept_State_modStr ?_
    | with_reducible refine kept_State_complete ?_ | with_reducible refine kept_applyWb ?_
    | with_reducible refine Kept.ite ?_ ?_

theorem kept_State_setMov {s0 s : State} {id : Nat} {f : MovInst → MovInst} (h : Kept s0 s) :
    Kept s0 (State.setMov s id f) :=
  Kept.upd rfl rfl rfl rfl rfl rfl h

theorem kept_fldoSend {s0 s : State} {m : MovInst} {q : MovPlan} (h : Kept s0 s) :
    Kept s0 (fldoSend m q s) := by
  unfold fldoSend
  try dsimp only
  repeat' first
    | with_reducible assumption | with_reducible refine kept_State_askOsura ?_
    | with_reducible refine kept_State_setMov ?_ | with_reducible refine Kept.foldl (fun _ _ _ => ?_) ?_ | split

theorem kept_State_touchTile {s0 s : State} {cl : Nat} {tile : Nat} (h : Kept s0 s) :
    Kept s0 (State.touchTile s cl tile) := by
  unfold State.touchTile
  try dsimp only
  repeat' first | with_reducible assumption | with_reducible refine kept_State_modLane ?_ | split

theorem kept_State_raiseIn {s0 s : State} {cl : Nat} {fl : FlagSet} (h : Kept s0 s) :
    Kept s0 (State.raiseIn s cl fl) := by
  unfold State.raiseIn
  try dsimp only
  repeat' first | with_reducible assumption | with_reducible refine kept_State_modLane ?_ | split

theorem kept_writeRow {s0 s : State} {m : MovInst} {q : MovPlan} {r : Nat} (h : Kept s0 s) :
    Kept s0 (writeRow m q r s) := by
  unfold writeRow
  try dsimp only
  repeat' first
    | with_reducible assumption | with_reducible refine kept_State_putMask ?_
    | with_reducible refine kept_State_touchTile ?_ | with_reducible refine kept_State_raiseIn ?_
    | with_reducible refine kept_State_putCells ?_ | with_reducible refine Kept.foldl (fun _ _ _ => ?_) ?_ | split

theorem kept_movRowsGo {s0 x2 : State} {x0 : Nat} {x1 : Nat} (h : Kept s0 x2) :
    Kept s0 (movRowsGo x0 x1 x2) := by
  induction x0 generalizing x1 x2 with
  | zero =>
    unfold movRowsGo
    try dsimp only
    repeat' first
      | with_reducible assumption | with_reducible refine kept_endMov ?_ | with_reducible refine kept_State_setMov ?_
      | with_reducible refine kept_fldoSend ?_ | with_reducible refine kept_writeRow ?_ | split
  | succ m ih =>
    unfold movRowsGo
    try dsimp only
    repeat' first
      | with_reducible assumption | with_reducible refine ih ?_ | with_reducible refine kept_endMov ?_
      | with_reducible refine kept_State_setMov ?_ | with_reducible refine kept_fldoSend ?_
      | with_reducible refine kept_writeRow ?_ | split

theorem kept_movPump {s0 s : State} {id : Nat} (h : Kept s0 s) :
    Kept s0 (movPump id s) := by
  unfold movPump
  try dsimp only
  repeat' first | with_reducible assumption | with_reducible refine kept_movRowsGo ?_

theorem kept_fldoWritten {s0 s : State} {id : Nat} {cl : Nat} {row : Nat} {a : Nat} (h : Kept s0 s) :
    Kept s0 (fldoWritten id cl row a s) := by
  unfold fldoWritten
  try dsimp only
  repeat' first
    | with_reducible assumption | with_reducible refine kept_movPump ?_ | with_reducible refine kept_State_setMov ?_

theorem kept_State_modLn {s0 s : State} {n : Nat} {f : Lantern → Lantern} (h : Kept s0 s) :
    Kept s0 (State.modLn s n f) :=
  Kept.upd rfl rfl rfl rfl rfl rfl h

theorem kept_State_modProd {s0 s : State} {n : Nat} {cid : Nat} {f : LnProd → LnProd} (h : Kept s0 s) :
    Kept s0 (State.modProd s n cid f) :=
  Kept.upd rfl rfl rfl rfl rfl rfl h

theorem kept_State_lnWrite {s0 s : State} {n : Nat} {cid : Nat} {a : Nat} {bs : List Byte} (h : Kept s0 s) :
    Kept s0 (State.lnWrite s n cid a bs) := by
  unfold State.lnWrite
  try dsimp only
  repeat' first
    | with_reducible assumption | with_reducible refine kept_State_modLn ?_
    | with_reducible refine kept_State_askOsura ?_ | with_reducible refine Kept.foldl (fun _ _ _ => ?_) ?_

theorem kept_statWrites {s0 s : State} {n : Nat} {cid : Nat} (h : Kept s0 s) :
    Kept s0 (statWrites n cid s) := by
  unfold statWrites
  try dsimp only
  repeat' first
    | with_reducible assumption | with_reducible refine kept_State_modProd ?_
    | with_reducible refine kept_State_lnWrite ?_ | with_reducible refine Kept.foldl (fun _ _ _ => ?_) ?_ | split

theorem kept_epiOver {s0 s : State} {n : Nat} {j : EpiJob} (h : Kept s0 s) :
    Kept s0 (epiOver n j s) := by
  unfold epiOver
  try dsimp only
  repeat' first
    | with_reducible assumption | with_reducible refine kept_State_modLn ?_ | with_reducible refine kept_statWrites ?_
    | with_reducible refine kept_State_modProd ?_

theorem kept_State_askChecked {s0 s : State} {agent : Agent} {who : Owner} {a : Nat} {len : Nat} (h : Kept s0 s) :
    Kept s0 (State.askChecked s agent who a len) := by
  unfold State.askChecked
  try dsimp only
  repeat' first
    | with_reducible assumption | fail_if_no_progress with_reducible refine Kept.upd rfl rfl rfl rfl rfl rfl ?_

theorem kept_State_lnAsk {s0 s : State} {n : Nat} {checked : Bool} {ranges : List (Nat × Nat)} (h : Kept s0 s) :
    Kept s0 (State.lnAsk s n checked ranges).2 := by
  unfold State.lnAsk
  try dsimp only
  repeat' first
    | with_reducible assumption | with_reducible refine kept_State_modLn ?_
    | with_reducible refine kept_State_askChecked ?_ | with_reducible refine kept_State_askOsura ?_
    | with_reducible refine Kept.ite ?_ ?_ | with_reducible refine Kept.foldl2 (fun _ _ _ => ?_) ?_

theorem kept_State_lnAsk' {s0 s t : State} {n : Nat} {checked : Bool} {ranges : List (Nat × Nat)} {r1} (e : (State.lnAsk s n checked ranges) = (r1, t)) (h : Kept s0 s) : Kept s0 t := by
  have h2 : Kept s0 (State.lnAsk s n checked ranges).2 := kept_State_lnAsk h
  rw [e] at h2
  exact h2

theorem kept_State_epiNext {s0 s : State} {n : Nat} {work : List BeatWork} (h : Kept s0 s) :
    Kept s0 (State.epiNext s n work) := by
  unfold State.epiNext
  try dsimp only
  repeat' first | with_reducible assumption | with_reducible refine kept_State_modLn ?_

theorem kept_State_pushOrDrop {s0 s : State} {e : EvRec} (h : Kept s0 s) :
    Kept s0 (State.pushOrDrop s e) := by
  unfold State.pushOrDrop
  try dsimp only
  repeat' first
    | with_reducible assumption | with_reducible refine kept_State_push ?_ | with_reducible refine kept_bump ?_
    | with_reducible refine Kept.ite ?_ ?_
    | fail_if_no_progress with_reducible refine Kept.upd rfl rfl rfl rfl rfl rfl ?_

theorem kept_State_chainEv {s0 s : State} {n : Nat} {slot : Nat} {failed : Bool} {cause : Nat} {evtdata : Nat} (h : Kept s0 s) :
    Kept s0 (State.chainEv s n slot failed cause evtdata) := by
  unfold State.chainEv
  try dsimp only
  repeat' first | with_reducible assumption | with_reducible refine kept_State_pushOrDrop ?_

theorem kept_State_settle {s0 s : State} {num : Nat} {failed : Bool} (h : Kept s0 s) :
    Kept s0 (State.settle s num failed) := by
  unfold State.settle
  try dsimp only
  repeat' first
    | with_reducible assumption | with_reducible refine kept_ctlPump ?_
    | fail_if_no_progress with_reducible refine Kept.upd rfl rfl rfl rfl rfl rfl ?_

theorem kept_State_raiseLn {s0 s : State} {n : Nat} {fl : FlagSet} (h : Kept s0 s) :
    Kept s0 (State.raiseLn s n fl) := by
  unfold State.raiseLn
  try dsimp only
  repeat' first
    | with_reducible assumption | with_reducible refine kept_State_modLn ?_ | with_reducible refine Kept.ite ?_ ?_

theorem kept_rstatBeat {s0 s : State} {n : Nat} {p : LnProd} {rowt : Nat} {colt : Nat} {vals : List Nat} (h : Kept s0 s) :
    Kept s0 (rstatBeat n p rowt colt vals s) := by
  unfold rstatBeat
  try dsimp only
  repeat' first
    | with_reducible assumption | with_reducible refine kept_State_raiseLn ?_
    | with_reducible refine kept_State_modLn ?_ | with_reducible refine kept_State_modProd ?_
    | with_reducible refine Kept.ite ?_ ?_ | with_reducible refine Kept.foldl (fun _ _ _ => ?_) ?_

theorem kept_takePend {s0 s : State} {n : Nat} {cid : Nat} {i : Nat} (h : Kept s0 s) :
    Kept s0 (takePend n cid i s) := by
  unfold takePend
  try dsimp only
  repeat' first
    | with_reducible assumption | with_reducible refine kept_State_modProd ?_
    | with_reducible refine kept_rstatBeat ?_ | with_reducible refine Kept.foldl (fun _ _ _ => ?_) ?_ | split

theorem kept_takeRows {s0 s : State} {n : Nat} {cid : Nat} {i : Nat} (h : Kept s0 s) :
    Kept s0 (takeRows n cid i s) := by
  unfold takeRows
  try dsimp only
  repeat' first
    | with_reducible assumption | with_reducible refine kept_State_modLn ?_
    | with_reducible refine kept_State_modProd ?_ | split

theorem kept_rowsFreed {s0 s : State} {n : Nat} (h : Kept s0 s) :
    Kept s0 (rowsFreed n s) := by
  unfold rowsFreed
  try dsimp only
  repeat' first
    | with_reducible assumption | with_reducible refine kept_takePend ?_ | with_reducible refine kept_takeRows ?_
    | with_reducible refine Kept.foldl (fun _ _ _ => ?_) ?_

theorem kept_lnRaiseAbort {s0 s : State} {n : Nat} (h : Kept s0 s) :
    Kept s0 (lnRaiseAbort n s) := by
  unfold lnRaiseAbort
  try dsimp only
  repeat' first
    | with_reducible assumption | with_reducible refine kept_State_modLn ?_ | with_reducible refine Kept.ite ?_ ?_

theorem kept_State_askStop {s0 s : State} {cause : Nat} {slot : Option Nat} {buoy : Nat} (h : Kept s0 s) :
    Kept s0 (State.askStop s cause slot buoy) := by
  unfold State.askStop
  try dsimp only
  repeat' first
    | with_reducible assumption | with_reducible refine kept_stopStream ?_
    | with_reducible refine kept_State_modStr ?_ | with_reducible refine Kept.ite ?_ ?_

theorem kept_lnError {s0 s : State} {n : Nat} {cid : Nat} {cause : Nat} (h : Kept s0 s) :
    Kept s0 (lnError n cid cause s) := by
  unfold lnError
  try dsimp only
  repeat' first
    | with_reducible assumption | with_reducible refine kept_State_chainEv ?_
    | with_reducible refine kept_State_settle ?_ | with_reducible refine kept_rowsFreed ?_
    | with_reducible refine kept_State_modLn ?_ | with_reducible refine kept_lnRaiseAbort ?_
    | with_reducible refine kept_State_askStop ?_ | split

theorem kept_rowsOver {s0 s : State} {n : Nat} {cid : Nat} {i : Nat} (h : Kept s0 s) :
    Kept s0 (rowsOver n cid i s) := by
  unfold rowsOver
  try dsimp only
  repeat' first
    | with_reducible assumption | with_reducible refine kept_rowsFreed ?_
    | with_reducible refine kept_State_modProd ?_

theorem kept_rstatStage {s0 s : State} {n : Nat} {p : LnProd} {w : BeatWork} (h : Kept s0 s) :
    Kept s0 (rstatStage n p w s) := by
  unfold rstatStage
  try dsimp only
  repeat' first
    | with_reducible assumption | with_reducible refine kept_State_modProd ?_
    | with_reducible refine kept_rstatBeat ?_ | with_reducible refine kept_rowsOver ?_
    | with_reducible refine Kept.ite ?_ ?_

theorem kept_osmxTile {s0 s : State} {n : Nat} {p : LnProd} {rowt : Nat} (h : Kept s0 s) :
    Kept s0 (osmxTile n p rowt s).2.2 := by
  unfold osmxTile
  try dsimp only
  repeat' first
    | with_reducible assumption | with_reducible refine kept_State_raiseLn ?_
    | with_reducible refine kept_State_modLn ?_ | with_reducible refine kept_State_modProd ?_
    | with_reducible refine Kept.foldl3 (fun _ _ _ => ?_) ?_

theorem kept_osmxTile' {s0 s t : State} {n : Nat} {p : LnProd} {rowt : Nat} {r1 r2} (e : (osmxTile n p rowt s) = (r1, r2, t)) (h : Kept s0 s) : Kept s0 t := by
  have h2 : Kept s0 (osmxTile n p rowt s).2.2 := kept_osmxTile h
  rw [e] at h2
  exact h2

theorem kept_osmxWork {s0 s : State} {n : Nat} {p : LnProd} {stage : Nat} {rowt : Nat} (h : Kept s0 s) :
    Kept s0 (osmxWork n p stage rowt s).2 := by
  unfold osmxWork
  try dsimp only
  repeat' first
    | with_reducible assumption | with_reducible refine kept_osmxTile ?_ | with_reducible refine kept_rowsOver ?_
    | with_reducible refine Kept.ite ?_ ?_

theorem kept_osmxWork' {s0 s t : State} {n : Nat} {p : LnProd} {stage : Nat} {rowt : Nat} {r1} (e : (osmxWork n p stage rowt s) = (r1, t)) (h : Kept s0 s) : Kept s0 t := by
  have h2 : Kept s0 (osmxWork n p stage rowt s).2 := kept_osmxWork h
  rw [e] at h2
  exact h2

theorem kept_parkBeat {s0 s : State} {n : Nat} {p : LnProd} {st : LnStage} {f : Fmt} {rowt : Nat} {colt : Nat} {vals : List Nat} (h : Kept s0 s) :
    Kept s0 (parkBeat n p st f rowt colt vals s) := by
  unfold parkBeat
  try dsimp only
  repeat' first
    | with_reducible assumption | with_reducible refine kept_State_lnWrite ?_
    | with_reducible refine kept_State_modLn ?_ | with_reducible refine kept_State_modProd ?_
    | with_reducible refine Kept.ite ?_ ?_

theorem kept_writeBeat {s0 s : State} {n : Nat} {p : LnProd} {st : LnStage} {f : Fmt} {rowt : Nat} {colt : Nat} {vals : List Nat} (h : Kept s0 s) :
    Kept s0 (writeBeat n p st f rowt colt vals s) := by
  unfold writeBeat
  try dsimp only
  repeat' first
    | with_reducible assumption | with_reducible refine kept_State_lnWrite ?_
    | with_reducible refine Kept.foldl (fun _ _ _ => ?_) ?_

theorem kept_scatBeat {s0 s : State} {n : Nat} {p : LnProd} {st : LnStage} {f : Fmt} {rowt : Nat} {colt : Nat} {vals : List Nat} {read : LnFetch} (h : Kept s0 s) :
    Kept s0 (scatBeat n p st f rowt colt vals read s) := by
  unfold scatBeat
  try dsimp only
  repeat' first
    | with_reducible assumption | with_reducible refine kept_State_raiseLn ?_
    | with_reducible refine kept_State_lnWrite ?_ | with_reducible refine Kept.ite ?_ ?_
    | with_reducible refine Kept.foldl (fun _ _ _ => ?_) ?_

theorem kept_lnCmdError {s0 s : State} {n : Nat} {i : Nat} {cause : Nat} (h : Kept s0 s) :
    Kept s0 (lnCmdError n i cause s) := by
  unfold lnCmdError
  try dsimp only
  repeat' first
    | with_reducible assumption | with_reducible refine kept_State_modLn ?_
    | with_reducible refine kept_State_chainEv ?_ | with_reducible refine kept_State_settle ?_
    | with_reducible refine kept_State_askStop ?_ | with_reducible refine kept_lnRaiseAbort ?_ | split

theorem kept_State_release {s0 s : State} {n : Nat} {source : Nat} (h : Kept s0 s) :
    Kept s0 (State.release s n source) := by
  unfold State.release
  try dsimp only
  repeat' first
    | with_reducible assumption | with_reducible refine kept_State_alsoWithout ?_
    | with_reducible refine kept_State_countAt ?_

theorem kept_blockReleases {s0 s : State} {b : LnBlock} (h : Kept s0 s) :
    Kept s0 (blockReleases b s) := by
  unfold blockReleases
  try dsimp only
  repeat' first
    | with_reducible assumption | with_reducible refine kept_State_release ?_ | with_reducible refine Kept.ite ?_ ?_

theorem kept_lnSources {s0 s : State} {n : Nat} {cid : Nat} (h : Kept s0 s) :
    Kept s0 (lnSources n cid s) := by
  unfold lnSources
  try dsimp only
  repeat' first
    | with_reducible assumption | with_reducible refine kept_blockReleases ?_
    | with_reducible refine kept_State_modProd ?_ | split

theorem kept_lnAnswerGo {s0 x2 : State} {x0 : Nat} {x1 : Nat} (h : Kept s0 x2) :
    Kept s0 (lnAnswerGo x0 x1 x2) := by
  induction x0 generalizing x1 x2 with
  | zero =>
    unfold lnAnswerGo
    try dsimp only
    repeat' first
      | with_reducible assumption | with_reducible refine kept_State_modLn ?_
      | with_reducible refine kept_State_lnAsk ?_ | with_reducible refine kept_State_raiseLn ?_
      | with_reducible refine kept_lnSources ?_
      | fail_if_no_progress with_reducible refine Kept.upd rfl rfl rfl rfl rfl rfl ?_ | split
  | succ m ih =>
    unfold lnAnswerGo
    try dsimp only
    repeat' first
      | with_reducible assumption | with_reducible refine ih ?_ | with_reducible refine kept_State_modLn ?_
      | with_reducible refine kept_State_lnAsk ?_ | with_reducible refine kept_State_raiseLn ?_
      | with_reducible refine kept_lnSources ?_
      | fail_if_no_progress with_reducible refine Kept.upd rfl rfl rfl rfl rfl rfl ?_ | split

theorem kept_lnAnswer {s0 s : State} {n : Nat} (h : Kept s0 s) :
    Kept s0 (lnAnswer n s) := by
  unfold lnAnswer
  try dsimp only
  repeat' first | with_reducible assumption | with_reducible refine kept_lnAnswerGo ?_

theorem kept_relayPush {s0 s : State} {tgt : Nat} {b : RelayBeat} (h : Kept s0 s) :
    Kept s0 (relayPush tgt b s) := by
  unfold relayPush
  try dsimp only
  repeat' first
    | with_reducible assumption | with_reducible refine kept_lnError ?_ | with_reducible refine kept_lnCmdError ?_
    | with_reducible refine kept_lnAnswer ?_ | with_reducible refine kept_State_modLn ?_ | split

theorem kept_residRead {s0 s : State} {n : Nat} {p : LnProd} {w : BeatWork} {st : LnStage} (h : Kept s0 s) :
    Kept s0 (residRead n p w st s) := by
  unfold residRead
  try dsimp only
  repeat' first
    | with_reducible assumption | with_reducible refine kept_State_modProd ?_
    | with_reducible refine kept_State_release ?_ | with_reducible refine Kept.ite ?_ ?_

theorem kept_runStage {s0 s : State} {n : Nat} {p : LnProd} {w : BeatWork} {rest : List BeatWork} {st : LnStage} {read : LnFetch} (h : Kept s0 s) :
    Kept s0 (runStage n p w rest st read s) := by
  unfold runStage
  try dsimp only
  repeat' first
    | with_reducible assumption | with_reducible refine kept_State_epiNext ?_
    | with_reducible refine kept_rstatStage ?_ | with_reducible refine kept_State_modProd ?_
    | with_reducible refine kept_State_modLn ?_ | with_reducible refine kept_osmxWork ?_
    | with_reducible refine kept_parkBeat ?_ | with_reducible refine kept_writeBeat ?_
    | with_reducible refine kept_scatBeat ?_ | with_reducible refine kept_relayPush ?_
    | with_reducible refine kept_State_raiseLn ?_ | with_reducible refine kept_residRead ?_ | split

theorem kept_epiStep {s0 s : State} {n : Nat} {j : EpiJob} (h : Kept s0 s) :
    KeptM s0 (epiStep n j s) := by
  unfold epiStep
  try dsimp only
  repeat' first
    | with_reducible assumption | with_reducible refine KeptM.some ?_ | exact KeptM.none
    | with_reducible refine kept_State_modLn ?_ | with_reducible refine kept_epiOver ?_
    | with_reducible refine kept_State_lnAsk ?_ | with_reducible refine kept_State_epiNext ?_
    | with_reducible refine kept_lnError ?_ | with_reducible refine kept_runStage ?_ | split

theorem kept_osmxStart {s0 s : State} {n : Nat} (h : Kept s0 s) : KeptM s0 (osmxStart n s) := by
  unfold osmxStart
  cases (s.lan n).osmxReady with
  | none => exact KeptM.none
  | some x => exact KeptM.some (kept_State_modLn (kept_osmxWork h))

theorem kept_takeBeat {s0 s : State} {n : Nat} (h : Kept s0 s) :
    KeptM s0 (takeBeat n s) := by
  unfold takeBeat
  try dsimp only
  repeat' first
    | with_reducible assumption | with_reducible refine KeptM.some ?_ | exact KeptM.none
    | with_reducible refine kept_State_modLn ?_ | split

theorem kept_lnPumpGo {s0 s : State} {fuel : Nat} {n : Nat} (h : Kept s0 s) : Kept s0 (lnPumpGo fuel n s) := by
  induction fuel generalizing s with
  | zero => exact h
  | succ m ih =>
    unfold lnPumpGo
    dsimp only
    split
    · exact h
    · split
      · rename_i s' e
        split at e
        · exact ih (kept_epiStep h _ e)
        · exact ih (KeptM.orElse (kept_osmxStart h) (kept_takeBeat h) _ e)
      · exact h

theorem kept_lnPump {s0 s : State} {n : Nat} (h : Kept s0 s) :
    Kept s0 (lnPump n s) := by
  unfold lnPump
  try dsimp only
  repeat' first
    | with_reducible assumption | with_reducible refine kept_lnPumpGo ?_ | with_reducible refine kept_State_modLn ?_
    | with_reducible refine Kept.ite ?_ ?_

theorem kept_lnPumpAll {s0 s : State} (h : Kept s0 s) :
    Kept s0 (lnPumpAll s) := by
  unfold lnPumpAll
  try dsimp only
  repeat' first
    | with_reducible assumption | with_reducible refine kept_lnPump ?_
    | with_reducible refine Kept.foldl (fun _ _ _ => ?_) ?_

theorem kept_loadDone {s0 s : State} {n : Nat} (h : Kept s0 s) :
    Kept s0 (loadDone n s) := by
  unfold loadDone
  try dsimp only
  repeat' first
    | with_reducible assumption | with_reducible refine kept_State_modLn ?_
    | with_reducible refine kept_State_settle ?_ | split

theorem kept_lnServed {s0 s : State} {n : Nat} {req : Nat} {bs : List Byte} (h : Kept s0 s) :
    Kept s0 (lnServed n req bs s) := by
  unfold lnServed
  try dsimp only
  repeat' first
    | with_reducible assumption | with_reducible refine kept_State_modLn ?_ | with_reducible refine kept_lnPumpAll ?_
    | with_reducible refine kept_lnAnswer ?_ | with_reducible refine kept_loadDone ?_

theorem kept_State_freeSpace {s0 s : State} {p : Pkt} (h : Kept s0 s) :
    Kept s0 (State.freeSpace s p) := by
  unfold State.freeSpace
  try dsimp only
  repeat' first
    | with_reducible assumption | with_reducible refine kept_State_setPort ?_
    | fail_if_no_progress with_reducible refine Kept.upd rfl rfl rfl rfl rfl rfl ?_ | split

theorem kept_State_endArrival {s0 s : State} {a : Arrival} (h : Kept s0 s) :
    Kept s0 (State.endArrival s a) := by
  unfold State.endArrival
  try dsimp only
  repeat' first
    | with_reducible assumption | with_reducible refine kept_State_freeSpace ?_
    | fail_if_no_progress with_reducible refine Kept.upd rfl rfl rfl rfl rfl rfl ?_

theorem kept_State_unitWritten {s0 s : State} {a : Arrival} (h : Kept s0 s) :
    Kept s0 (State.unitWritten s a) := by
  unfold State.unitWritten
  try dsimp only
  repeat' first
    | with_reducible assumption | with_reducible refine kept_State_complete ?_ | with_reducible refine Kept.ite ?_ ?_
    | fail_if_no_progress with_reducible refine Kept.upd rfl rfl rfl rfl rfl rfl ?_

theorem kept_State_dropChunk {s0 s : State} {p : Pkt} (h : Kept s0 s) :
    Kept s0 (State.dropChunk s p) := by
  unfold State.dropChunk
  try dsimp only
  repeat' first
    | with_reducible assumption | fail_if_no_progress with_reducible refine Kept.upd rfl rfl rfl rfl rfl rfl ?_

theorem kept_State_sendCredit {s0 s : State} {dst : Nat} {moor : Nat} {units : Nat} {setIt : Bool} (h : Kept s0 s) :
    Kept s0 (State.sendCredit s dst moor units setIt) := by
  unfold State.sendCredit
  try dsimp only
  repeat' first | with_reducible assumption | with_reducible refine kept_State_originate ?_

theorem kept_State_returnCredit {s0 s : State} {c : RxChunk} (h : Kept s0 s) :
    Kept s0 (State.returnCredit s c) := by
  unfold State.returnCredit
  try dsimp only
  repeat' first
    | with_reducible assumption | with_reducible refine kept_State_sendCredit ?_
    | with_reducible refine Kept.ite ?_ ?_
    | fail_if_no_progress with_reducible refine Kept.upd rfl rfl rfl rfl rfl rfl ?_

theorem kept_State_chunkDone {s0 s : State} {p : Pkt} (h : Kept s0 s) :
    Kept s0 (State.chunkDone s p) := by
  unfold State.chunkDone
  try dsimp only
  repeat' first
    | with_reducible assumption | with_reducible refine kept_State_dropChunk ?_
    | with_reducible refine kept_State_originate ?_ | with_reducible refine kept_State_returnCredit ?_ | split

theorem kept_mooringWritten {s0 s : State} {held : Nat} {id : Nat} (h : Kept s0 s) :
    Kept s0 (mooringWritten held id s) := by
  unfold mooringWritten
  try dsimp only
  repeat' first
    | with_reducible assumption | with_reducible refine kept_bump ?_ | with_reducible refine kept_State_endArrival ?_
    | with_reducible refine kept_State_unitWritten ?_ | with_reducible refine kept_State_chunkDone ?_ | split

theorem kept_State_logWrite {s0 s : State} {who : MemOwner} {a : Nat} {bs : List Byte} (h : Kept s0 s) :
    Kept s0 (State.logWrite s who a bs) :=
  Kept.upd rfl rfl rfl rfl rfl rfl h

theorem kept_State_lineWrite {s0 s : State} {g : Nat} {line : Nat} {bs : List Byte} (h : Kept s0 s) :
    Kept s0 (State.lineWrite s g line bs) := by
  unfold State.lineWrite
  try dsimp only
  repeat' first | with_reducible assumption | with_reducible refine kept_State_logWrite ?_

theorem kept_logLineRead {s0 s : State} {g : Nat} {line : Nat} {bs : List Byte} (h : Kept s0 s) :
    Kept s0 (logLineRead g line bs s) := by
  unfold logLineRead
  try dsimp only
  repeat' first
    | with_reducible assumption | with_reducible refine kept_State_lineWrite ?_ | with_reducible refine Kept.ite ?_ ?_
    | fail_if_no_progress with_reducible refine Kept.upd rfl rfl rfl rfl rfl rfl ?_

theorem kept_State_logRead {s0 s : State} {who : Nat → MemOwner} {a : Nat} {len : Nat} (h : Kept s0 s) :
    Kept s0 (State.logRead s who a len) :=
  Kept.upd rfl rfl rfl rfl rfl rfl h

theorem kept_restoreNext {s0 s : State} (h : Kept s0 s) :
    Kept s0 (restoreNext s) := by
  unfold restoreNext
  try dsimp only
  repeat' first
    | with_reducible assumption | with_reducible refine kept_State_logRead ?_
    | with_reducible refine kept_State_askOsura ?_ | with_reducible refine Kept.foldl (fun _ _ _ => ?_) ?_
    | fail_if_no_progress with_reducible refine Kept.upd rfl rfl rfl rfl rfl rfl ?_ | split

theorem kept_ownerServed {s0 s : State} {r : AsyncReq} {bs : List Byte} (h : Kept s0 s) :
    Kept s0 (ownerServed r bs s) := by
  unfold ownerServed
  try dsimp only
  repeat' first
    | with_reducible assumption | with_reducible refine kept_flushPump ?_ | with_reducible refine kept_scrubbed ?_
    | with_reducible refine kept_writeBackWord ?_ | with_reducible refine kept_tdWriteDone ?_
    | with_reducible refine kept_sendPacket ?_ | with_reducible refine kept_tdReadDone ?_
    | with_reducible refine kept_fldoWritten ?_ | with_reducible refine kept_lnServed ?_
    | with_reducible refine kept_mooringWritten ?_ | with_reducible refine kept_logLineRead ?_
    | with_reducible refine kept_restoreNext ?_ | with_reducible refine kept_traceWritten ?_ | split

theorem kept_State_late {s0 s : State} {kind : Nat} {unit : Nat} {chip : Nat} {a : Nat} (h : Kept s0 s) :
    Kept s0 (State.late s kind unit chip a) := by
  unfold State.late
  try dsimp only
  repeat' first | with_reducible assumption | with_reducible refine kept_State_pushOrDrop ?_

theorem kept_tdDark {s0 s : State} {c : Nat} {req : Nat} (h : Kept s0 s) :
    Kept s0 (tdDark c req s) := by
  unfold tdDark
  try dsimp only
  repeat' first
    | with_reducible assumption | with_reducible refine kept_tdAdvance ?_
    | with_reducible refine kept_State_setChan ?_ | with_reducible refine Kept.ite ?_ ?_

theorem kept_lnDark {s0 s : State} {n : Nat} {req : Nat} (h : Kept s0 s) :
    Kept s0 (lnDark n req s) := by
  unfold lnDark
  try dsimp only
  repeat' first
    | with_reducible assumption | with_reducible refine kept_lnCmdError ?_ | with_reducible refine kept_lnError ?_
    | split

theorem kept_State_sendNak {s0 s : State} {p : Pkt} {reason : Nat} {cret : Bool} (h : Kept s0 s) :
    Kept s0 (State.sendNak s p reason cret) := by
  unfold State.sendNak
  try dsimp only
  repeat' first | with_reducible assumption | with_reducible refine kept_State_originate ?_

theorem kept_State_setChunk {s0 s : State} {p : Pkt} {c : RxChunk} (h : Kept s0 s) :
    Kept s0 (State.setChunk s p c) := by
  unfold State.setChunk
  try dsimp only
  repeat' first
    | with_reducible assumption | fail_if_no_progress with_reducible refine Kept.upd rfl rfl rfl rfl rfl rfl ?_

theorem kept_State_noteChunk {s0 s : State} {p : Pkt} (h : Kept s0 s) :
    Kept s0 (State.noteChunk s p) := by
  unfold State.noteChunk
  try dsimp only
  repeat' first | with_reducible assumption | with_reducible refine kept_State_setChunk ?_ | split

theorem kept_State_refuseData {s0 s : State} {p : Pkt} {reason : Nat} (h : Kept s0 s) :
    Kept s0 (State.refuseData s p reason) := by
  unfold State.refuseData
  try dsimp only
  repeat' first
    | with_reducible assumption | with_reducible refine kept_State_sendNak ?_
    | with_reducible refine kept_State_noteChunk ?_ | with_reducible refine kept_State_chunkDone ?_
    | with_reducible refine kept_State_setChunk ?_ | split

theorem kept_mooringRefused {s0 s : State} {id : Nat} (h : Kept s0 s) :
    Kept s0 (mooringRefused id s) := by
  unfold mooringRefused
  try dsimp only
  repeat' first
    | with_reducible assumption | with_reducible refine kept_State_refuseData ?_
    | with_reducible refine kept_State_endArrival ?_ | split

theorem kept_ownerRefused {s0 s : State} {r : AsyncReq} {cut : Bool} (h : Kept s0 s) :
    Kept s0 (ownerRefused r cut s) := by
  unfold ownerRefused
  try dsimp only
  repeat' first
    | with_reducible assumption | with_reducible refine kept_State_late ?_ | with_reducible refine kept_flushPump ?_
    | with_reducible refine kept_State_modSec ?_ | with_reducible refine kept_tdDark ?_
    | with_reducible refine kept_fldoWritten ?_ | with_reducible refine kept_lnDark ?_
    | with_reducible refine kept_mooringRefused ?_ | with_reducible refine kept_restoreNext ?_
    | fail_if_no_progress with_reducible refine Kept.upd rfl rfl rfl rfl rfl rfl ?_ | split

theorem kept_State_takeReq {s0 s : State} {r : AsyncReq} (h : Kept s0 s) :
    Kept s0 (State.takeReq s r) :=
  Kept.upd rfl rfl rfl rfl rfl rfl h

theorem kept_State_noteEcc {s0 s : State} {a : Nat} {scrub : Bool} {x3 : EccRead} (h : Kept s0 s) :
    Kept s0 (State.noteEcc s a scrub x3) := by
  unfold State.noteEcc
  try dsimp only
  repeat' first
    | with_reducible assumption | with_reducible refine kept_bump ?_ | with_reducible refine kept_State_modSec ?_
    | with_reducible refine kept_State_detect ?_ | with_reducible refine kept_State_markDirty ?_
    | fail_if_no_progress with_reducible refine Kept.upd rfl rfl rfl rfl rfl rfl ?_ | split

theorem kept_State_readOsura {s0 s : State} {scrub : Bool} {a : Nat} {len : Nat} (h : Kept s0 s) :
    Kept s0 (State.readOsura s scrub a len).2 := by
  unfold State.readOsura
  try dsimp only
  repeat' first
    | with_reducible assumption | with_reducible refine kept_State_noteEcc ?_
    | with_reducible refine Kept.foldl (fun _ _ _ => ?_) ?_ | split

theorem kept_State_readOsura' {s0 s t : State} {scrub : Bool} {a : Nat} {len : Nat} {r1} (e : (State.readOsura s scrub a len) = (r1, t)) (h : Kept s0 s) : Kept s0 t := by
  have h2 : Kept s0 (State.readOsura s scrub a len).2 := kept_State_readOsura h
  rw [e] at h2
  exact h2

theorem kept_State_readRun {s0 s : State} {a : Nat} {len : Nat} (h : Kept s0 s) :
    Kept s0 (State.readRun s a len).2 := by
  unfold State.readRun
  try dsimp only
  repeat' first
    | with_reducible assumption | with_reducible refine kept_State_readOsura ?_
    | with_reducible refine Kept.foldl2 (fun _ _ _ => ?_) ?_

theorem kept_State_readRun' {s0 s t : State} {a : Nat} {len : Nat} {r1} (e : (State.readRun s a len) = (r1, t)) (h : Kept s0 s) : Kept s0 t := by
  have h2 : Kept s0 (State.readRun s a len).2 := kept_State_readRun h
  rw [e] at h2
  exact h2

theorem kept_State_writeOsura {s0 s : State} {cells : List Host.Cell} (h : Kept s0 s) :
    Kept s0 (State.writeOsura s cells) := by
  unfold State.writeOsura
  try dsimp only
  repeat' first
    | with_reducible assumption | with_reducible refine kept_State_noteEcc ?_
    | with_reducible refine kept_State_putWord ?_ | with_reducible refine kept_State_markDirty ?_
    | with_reducible refine Kept.foldl (fun _ _ _ => ?_) ?_ | split

theorem kept_State_streamWrite {s0 s : State} {cells : List Host.Cell} (h : Kept s0 s) :
    Kept s0 (State.streamWrite s cells) := by
  unfold State.streamWrite
  try dsimp only
  repeat' first
    | with_reducible assumption | with_reducible refine kept_State_writeOsura ?_
    | with_reducible refine kept_State_modStr ?_

theorem kept_serveReq {s0 s : State} {r : AsyncReq} (h : Kept s0 s) :
    Kept s0 (serveReq s r) := by
  unfold serveReq
  try dsimp only
  repeat' first
    | with_reducible assumption | with_reducible refine kept_State_takeReq ?_
    | with_reducible refine kept_ownerServed ?_ | with_reducible refine kept_State_streamWrite ?_
    | with_reducible refine kept_State_writeOsura ?_ | with_reducible refine kept_State_readOsura ?_
    | fail_if_no_progress with_reducible refine Kept.upd rfl rfl rfl rfl rfl rfl ?_ | split

theorem kept_bumpCl {s0 s : State} {kind pc n : Nat} (h : Kept s0 s) : Kept s0 (bumpCl kind pc n s) := by
  unfold bumpCl
  exact Kept.ite h (Kept.canon (x := s) rfl rfl (fun c =>
    ⟨c.1, by rw [show _ = _ from Counters.open_eng _ s.cnt]; exact c.2.1, swf_smod (kind * 64 + pc) (fun v => v + n) c.2.2.1,
      c.2.2.2⟩) h)

theorem kept_closeWindow {s0 s : State} {p : Nat} (h : Kept s0 s) :
    Kept s0 (closeWindow p s) := by
  unfold closeWindow
  try dsimp only
  repeat' first
    | with_reducible assumption | with_reducible refine kept_State_modStr ?_ | with_reducible refine kept_bumpCl ?_
    | with_reducible refine kept_bumpBy ?_ | with_reducible refine Kept.foldl (fun _ _ _ => ?_) ?_ | split

theorem kept_closeWindows {s0 s : State} (h : Kept s0 s) :
    Kept s0 (closeWindows s) := by
  unfold closeWindows
  try dsimp only
  repeat' first
    | with_reducible assumption | with_reducible refine kept_closeWindow ?_
    | with_reducible refine Kept.foldl (fun _ _ _ => ?_) ?_

theorem kept_forward {s0 s : State} {p : Pkt} (h : Kept s0 s) :
    Kept s0 (forward p s) := by
  unfold forward
  try dsimp only
  repeat' first
    | with_reducible assumption | with_reducible refine kept_State_freeSpace ?_
    | with_reducible refine kept_State_ringDrop ?_ | with_reducible refine kept_State_setPort ?_ | split

theorem kept_State_ringFault {s0 s : State} {n : Nat} {reason : Nat} (h : Kept s0 s) :
    Kept s0 (State.ringFault s n reason) := by
  unfold State.ringFault
  try dsimp only
  repeat' first | with_reducible assumption | with_reducible refine kept_State_detect ?_

theorem kept_deliverPkt {s0 s : State} {act : Pkt → State → State} {p : Pkt}
    (ha : ∀ p s, Kept s0 s → Kept s0 (act p s)) (h : Kept s0 s) : Kept s0 (deliverPkt act p s) := by
  unfold deliverPkt
  repeat' first
    | with_reducible assumption | with_reducible refine Kept.ite ?_ ?_ | refine ha _ _ ?_
    | with_reducible refine kept_State_freeSpace ?_ | with_reducible refine kept_State_ringDrop ?_
    | with_reducible refine kept_State_ringFault ?_

theorem kept_takeData {s0 s : State} {p : Pkt} (h : Kept s0 s) :
    Kept s0 (takeData p s) := by
  unfold takeData
  try dsimp only
  repeat' first
    | with_reducible assumption | with_reducible refine kept_State_freeSpace ?_
    | with_reducible refine kept_State_refuseData ?_ | with_reducible refine kept_State_noteChunk ?_
    | with_reducible refine Kept.ite ?_ ?_
    | fail_if_no_progress with_reducible refine Kept.upd rfl rfl rfl rfl rfl rfl ?_

theorem kept_sendAll {s0 s : State} (h : Kept s0 s) :
    Kept s0 (sendAll s) := by
  unfold sendAll
  try dsimp only
  repeat' first
    | with_reducible assumption | with_reducible refine kept_sendPump ?_
    | with_reducible refine Kept.foldl (fun _ _ _ => ?_) ?_

theorem kept_State_takeCredit {s0 s : State} {p : Pkt} (h : Kept s0 s) :
    Kept s0 (State.takeCredit s p) := by
  unfold State.takeCredit
  try dsimp only
  repeat' first
    | with_reducible assumption | with_reducible refine kept_State_ringDrop ?_ | with_reducible refine Kept.ite ?_ ?_
    | fail_if_no_progress with_reducible refine Kept.upd rfl rfl rfl rfl rfl rfl ?_

theorem kept_takeAck {s0 s : State} {p : Pkt} (h : Kept s0 s) :
    Kept s0 (takeAck p s) := by
  unfold takeAck
  try dsimp only
  repeat' first
    | with_reducible assumption | with_reducible refine kept_State_ringDrop ?_
    | with_reducible refine kept_tdAdvance ?_ | with_reducible refine kept_sendPump ?_
    | with_reducible refine kept_State_setChan ?_ | split

theorem kept_takeNak {s0 s : State} {p : Pkt} (h : Kept s0 s) :
    Kept s0 (takeNak p s) := by
  unfold takeNak
  try dsimp only
  repeat' first
    | with_reducible assumption | with_reducible refine kept_State_addCredit ?_
    | with_reducible refine kept_State_setChan ?_ | with_reducible refine kept_tdAdvance ?_
    | with_reducible refine kept_sendAll ?_ | with_reducible refine kept_sendPump ?_
    | with_reducible refine kept_State_pushOrDrop ?_ | with_reducible refine kept_State_ringDrop ?_ | split

theorem kept_State_setMark {s0 s : State} {f : Mark → Mark} (h : Kept s0 s) :
    Kept s0 (State.setMark s f) :=
  Kept.upd rfl rfl rfl rfl rfl rfl h

theorem kept_State_toNext {s0 s : State} {kind : Nat} {pay : List Byte} (h : Kept s0 s) :
    Kept s0 (State.toNext s kind pay) := by
  unfold State.toNext
  try dsimp only
  repeat' first | with_reducible assumption | with_reducible refine kept_State_originate ?_

theorem kept_startClose {s0 s : State} {k : Nat} {seq : Nat} (h : Kept s0 s) :
    Kept s0 (startClose k seq s) := by
  unfold startClose
  try dsimp only
  repeat' first
    | with_reducible assumption | with_reducible refine kept_State_setMark ?_ | with_reducible refine Kept.ite ?_ ?_
    | fail_if_no_progress with_reducible refine Kept.upd rfl rfl rfl rfl rfl rfl ?_

theorem kept_takeMark {s0 s : State} {p : Pkt} (h : Kept s0 s) :
    Kept s0 (takeMark p s) := by
  unfold takeMark
  try dsimp only
  repeat' first
    | with_reducible assumption | with_reducible refine kept_State_setMark ?_
    | with_reducible refine kept_State_toNext ?_ | with_reducible refine kept_startClose ?_
    | with_reducible refine Kept.ite ?_ ?_

theorem kept_State_logStateWrite {s0 s : State} {inB : Bool} {value : Nat} (h : Kept s0 s) :
    Kept s0 (State.logStateWrite s inB value) :=
  Kept.upd rfl rfl rfl rfl rfl rfl h

theorem kept_logClosed {s0 s : State} (h : Kept s0 s) :
    Kept s0 (logClosed s) := by
  unfold logClosed
  try dsimp only
  repeat' first
    | with_reducible assumption | with_reducible refine kept_State_logStateWrite ?_
    | fail_if_no_progress with_reducible refine Kept.upd rfl rfl rfl rfl rfl rfl ?_ | split

theorem kept_State_markWaitersDone {s0 s : State} {failed : Bool} (h : Kept s0 s) :
    Kept s0 (State.markWaitersDone s failed) := by
  unfold State.markWaitersDone
  try dsimp only
  repeat' first
    | with_reducible assumption | with_reducible refine kept_State_setMark ?_
    | with_reducible refine kept_State_settle ?_ | with_reducible refine Kept.foldl (fun _ _ _ => ?_) ?_

theorem kept_State_markEv {s0 s : State} {what : Nat} {k : Nat} {seq : Nat} (h : Kept s0 s) :
    Kept s0 (State.markEv s what k seq) :=
  Kept.upd rfl rfl rfl rfl rfl rfl h

theorem kept_recordClosed {s0 s : State} {k : Nat} {seq : Nat} (h : Kept s0 s) :
    Kept s0 (recordClosed k seq s) := by
  unfold recordClosed
  try dsimp only
  repeat' first
    | with_reducible assumption | with_reducible refine kept_logClosed ?_
    | with_reducible refine kept_State_setMark ?_ | with_reducible refine kept_State_markWaitersDone ?_
    | with_reducible refine kept_State_markEv ?_
    | fail_if_no_progress with_reducible refine Kept.upd rfl rfl rfl rfl rfl rfl ?_

theorem kept_leadClosed {s0 s : State} (h : Kept s0 s) :
    Kept s0 (leadClosed s) := by
  unfold leadClosed
  try dsimp only
  repeat' first
    | with_reducible assumption | with_reducible refine kept_State_setMark ?_
    | with_reducible refine kept_State_toNext ?_ | with_reducible refine kept_recordClosed ?_

theorem kept_closeDone {s0 s : State} {k : Nat} {seq : Nat} (h : Kept s0 s) :
    Kept s0 (closeDone k seq s) := by
  unfold closeDone
  try dsimp only
  repeat' first
    | with_reducible assumption | with_reducible refine kept_leadClosed ?_
    | with_reducible refine kept_State_toNext ?_ | with_reducible refine kept_State_setMark ?_ | split

theorem kept_takeSeal {s0 s : State} {p : Pkt} (h : Kept s0 s) :
    Kept s0 (takeSeal p s) := by
  unfold takeSeal
  try dsimp only
  repeat' first
    | with_reducible assumption | with_reducible refine kept_State_setMark ?_
    | with_reducible refine kept_leadClosed ?_ | with_reducible refine kept_startClose ?_
    | with_reducible refine kept_closeDone ?_ | with_reducible refine Kept.ite ?_ ?_

theorem kept_startMark {s0 s : State} (h : Kept s0 s) :
    Kept s0 (startMark s) := by
  unfold startMark
  try dsimp only
  repeat' first
    | with_reducible assumption | with_reducible refine kept_State_setMark ?_
    | with_reducible refine kept_State_toNext ?_ | with_reducible refine Kept.ite ?_ ?_
    | fail_if_no_progress with_reducible refine Kept.upd rfl rfl rfl rfl rfl rfl ?_

theorem kept_markEnded {s0 s : State} (h : Kept s0 s) :
    Kept s0 (markEnded s) := by
  unfold markEnded
  try dsimp only
  repeat' first
    | with_reducible assumption | with_reducible refine kept_State_setMark ?_
    | with_reducible refine kept_startMark ?_ | with_reducible refine Kept.ite ?_ ?_

theorem kept_takeClosed {s0 s : State} {p : Pkt} (h : Kept s0 s) :
    Kept s0 (takeClosed p s) := by
  unfold takeClosed
  try dsimp only
  repeat' first
    | with_reducible assumption | with_reducible refine kept_markEnded ?_ | with_reducible refine kept_State_toNext ?_
    | with_reducible refine kept_recordClosed ?_ | with_reducible refine Kept.ite ?_ ?_

theorem kept_logAborted {s0 s : State} (h : Kept s0 s) :
    Kept s0 (logAborted s) := by
  unfold logAborted
  try dsimp only
  repeat' first
    | with_reducible assumption | with_reducible refine kept_State_logStateWrite ?_
    | with_reducible refine Kept.upd rfl rfl rfl (Log.setDirty_haveMark _ _ _) (Log.setDirty_en _ _ _) rfl ?_
    | with_reducible refine Kept.ite ?_ ?_

theorem kept_takeMabort {s0 s : State} {p : Pkt} (h : Kept s0 s) :
    Kept s0 (takeMabort p s) := by
  unfold takeMabort
  try dsimp only
  repeat' first
    | with_reducible assumption | with_reducible refine kept_State_toNext ?_
    | with_reducible refine kept_logAborted ?_ | with_reducible refine kept_State_markWaitersDone ?_
    | with_reducible refine kept_State_setMark ?_ | with_reducible refine Kept.ite ?_ ?_
    | fail_if_no_progress with_reducible refine Kept.upd rfl rfl rfl rfl rfl rfl ?_

theorem kept_State_holdEv {s0 s : State} {typ : Nat} {pay : List Byte} (h : Kept s0 s) :
    Kept s0 (State.holdEv s typ pay) :=
  Kept.upd rfl rfl rfl rfl rfl rfl h

theorem kept_leadAborts {s0 s : State} (h : Kept s0 s) :
    Kept s0 (leadAborts s) := by
  unfold leadAborts
  try dsimp only
  repeat' first
    | with_reducible assumption | with_reducible refine kept_logAborted ?_
    | with_reducible refine kept_State_setMark ?_ | with_reducible refine kept_markEnded ?_
    | with_reducible refine kept_State_toNext ?_ | with_reducible refine kept_State_markWaitersDone ?_
    | with_reducible refine kept_State_markEv ?_
    | fail_if_no_progress with_reducible refine Kept.upd rfl rfl rfl rfl rfl rfl ?_

theorem kept_holdAborts {s0 s : State} (h : Kept s0 s) :
    Kept s0 (holdAborts s) := by
  unfold holdAborts
  try dsimp only
  repeat' first
    | with_reducible assumption | with_reducible refine kept_leadAborts ?_
    | with_reducible refine kept_State_setMark ?_ | with_reducible refine Kept.ite ?_ ?_

theorem kept_takeHold {s0 s : State} {p : Pkt} (h : Kept s0 s) :
    Kept s0 (takeHold p s) := by
  unfold takeHold
  try dsimp only
  repeat' first
    | with_reducible assumption | with_reducible refine kept_State_holdEv ?_
    | with_reducible refine kept_State_toNext ?_ | with_reducible refine kept_holdAborts ?_
    | with_reducible refine Kept.ite ?_ ?_
    | fail_if_no_progress with_reducible refine Kept.upd rfl rfl rfl rfl rfl rfl ?_

theorem kept_takeRelease {s0 s : State} {p : Pkt} (h : Kept s0 s) :
    Kept s0 (takeRelease p s) := by
  unfold takeRelease
  try dsimp only
  repeat' first
    | with_reducible assumption | with_reducible refine kept_sendAll ?_ | with_reducible refine kept_State_holdEv ?_
    | with_reducible refine kept_State_settle ?_ | with_reducible refine kept_State_toNext ?_
    | with_reducible refine Kept.ite ?_ ?_ | with_reducible refine Kept.foldl (fun _ _ _ => ?_) ?_
    | fail_if_no_progress with_reducible refine Kept.upd rfl rfl rfl rfl rfl rfl ?_

theorem kept_takeMreq {s0 s : State} {_p : Pkt} (h : Kept s0 s) :
    Kept s0 (takeMreq _p s) := by
  unfold takeMreq
  try dsimp only
  repeat' first
    | with_reducible assumption | with_reducible refine kept_startMark ?_ | with_reducible refine Kept.ite ?_ ?_

theorem kept_takePkt {s0 s : State} {p : Pkt} (h : Kept s0 s) :
    Kept s0 (takePkt p s) := by
  unfold takePkt
  try dsimp only
  repeat' first
    | with_reducible assumption | with_reducible refine kept_forward ?_
    | with_reducible refine kept_deliverPkt (fun _ _ _ => ?_) ?_ | with_reducible refine kept_takeData ?_
    | with_reducible refine kept_sendAll ?_ | with_reducible refine kept_State_takeCredit ?_
    | with_reducible refine kept_takeAck ?_ | with_reducible refine kept_takeNak ?_
    | with_reducible refine kept_takeMark ?_ | with_reducible refine kept_takeSeal ?_
    | with_reducible refine kept_takeClosed ?_ | with_reducible refine kept_takeMabort ?_
    | with_reducible refine kept_takeHold ?_ | with_reducible refine kept_takeRelease ?_
    | with_reducible refine kept_takeMreq ?_ | with_reducible refine kept_State_ringDrop ?_ | split

theorem kept_heldPump {s0 x2 : State} {n : Nat} {x1 : Nat} (h : Kept s0 x2) :
    Kept s0 (heldPump n x1 x2) := by
  induction x1 generalizing n x2 with
  | zero =>
    unfold heldPump
    try dsimp only
    repeat' first
      | with_reducible assumption | with_reducible refine kept_takePkt ?_
      | with_reducible refine kept_State_setPort ?_ | split
  | succ m ih =>
    unfold heldPump
    try dsimp only
    repeat' first
      | with_reducible assumption | with_reducible refine ih ?_ | with_reducible refine kept_takePkt ?_
      | with_reducible refine kept_State_setPort ?_ | split

theorem kept_arrivalsPump {s0 s : State} (h : Kept s0 s) :
    Kept s0 (arrivalsPump s) := by
  unfold arrivalsPump
  try dsimp only
  repeat' first
    | with_reducible assumption | with_reducible refine kept_heldPump ?_ | with_reducible refine Kept.ite ?_ ?_
    | with_reducible refine Kept.foldl (fun _ _ _ => ?_) ?_

theorem kept_applyShare {s0 s : State} (h : Kept s0 s) :
    Kept s0 (applyShare s) := by
  unfold applyShare
  try dsimp only
  repeat' first
    | with_reducible assumption | fail_if_no_progress with_reducible refine Kept.upd rfl rfl rfl rfl rfl rfl ?_
    | split

theorem kept_applyFar {s0 s : State} (h : Kept s0 s) :
    Kept s0 (applyFar s) := by
  unfold applyFar
  try dsimp only
  repeat' first | with_reducible assumption | with_reducible refine kept_State_modStr ?_ | split

theorem kept_State_returnOwed {s0 s : State} {n : Nat} (h : Kept s0 s) :
    Kept s0 (State.returnOwed s n) := by
  unfold State.returnOwed
  try dsimp only
  repeat' first
    | with_reducible assumption | with_reducible refine kept_State_sendCredit ?_
    | with_reducible refine Kept.ite ?_ ?_ | with_reducible refine Kept.foldl (fun _ _ _ => ?_) ?_
    | fail_if_no_progress with_reducible refine Kept.upd rfl rfl rfl rfl rfl rfl ?_

theorem kept_lnStall {s0 s : State} {n : Nat} {ctl : Option Nat} {slot : Nat} {evtdata : Nat} {buoy : Nat} (h : Kept s0 s) :
    Kept s0 (lnStall n ctl slot evtdata buoy s) := by
  unfold lnStall
  try dsimp only
  repeat' first
    | with_reducible assumption | with_reducible refine kept_State_modLn ?_
    | with_reducible refine kept_State_chainEv ?_ | with_reducible refine kept_State_askStop ?_
    | with_reducible refine Kept.ite ?_ ?_
    | fail_if_no_progress with_reducible refine Kept.upd rfl rfl rfl rfl rfl rfl ?_

theorem kept_captureBuoy {s0 s : State} {v : Nat} (h : Kept s0 s) :
    Kept s0 (captureBuoy v s) :=
  Kept.upd rfl rfl rfl rfl rfl rfl h

theorem kept_State_countWaits {s0 s : State} (h : Kept s0 s) : Kept s0 (s.countWaits) := by
  unfold State.countWaits
  dsimp only
  refine kept_bumpBy (Kept.canon (x := s) rfl rfl (fun c => ⟨c.1, c.2.1, c.2.2.1, ?_, c.2.2.2.2.1, c.2.2.2.2.2⟩) h)
  let go (x : Chan) : Bool := x.st == .busy && x.x.kind == 5 &&
    (if x.status = 0 then x.phase == 3 && x.reads.isEmpty else x.reads.all (fun r => r.data.isSome)) &&
    !s.str.frozen && !s.ring.hold
  refine (congrArg (swf Chan.idle) ?_).trans
    (swf_map (fun x => if go x.2 then { x.2 with waited := x.2.waited + 1 } else x.2) ?_ c.2.2.2.1)
  · refine List.map_congr_left (fun x _ => ?_)
    show (if go x.2 = true then _ else _) = (x.1, if go x.2 = true then _ else _)
    cases go x.2 <;> rfl
  · intro x hx
    by_cases hb : go x.2 = true
    · rw [if_pos hb]
      intro e
      have e2 := congrArg Chan.st e
      simp only [go, Bool.and_eq_true, beq_iff_eq] at hb
      simp only [hb.1.1.1.1] at e2
      cases e2
    · rw [if_neg hb]; exact hx

theorem kept_State_holdCloses {s0 s : State} (h : Kept s0 s) :
    Kept s0 (State.holdCloses s) := by
  unfold State.holdCloses
  try dsimp only
  repeat' first
    | with_reducible assumption | with_reducible refine kept_State_modSec ?_ | with_reducible refine Kept.ite ?_ ?_
    | with_reducible refine Kept.foldl (fun _ _ _ => ?_) ?_

theorem kept_bumpWide {s0 s : State} {off n : Nat} (h : Kept s0 s) : Kept s0 (bumpWide off n s) := by
  unfold bumpWide
  exact Kept.ite h (Kept.canon (x := s) rfl rfl (fun c =>
    ⟨c.1, swf_smod off (fun v => (v + n) % 2 ^ 64) c.2.1, by rw [show _ = _ from Counters.open_cl _ s.cnt]; exact c.2.2.1,
      c.2.2.2⟩) h)

theorem kept_State_countCycle {s0 s : State} (h : Kept s0 s) :
    Kept s0 (State.countCycle s) := by
  unfold State.countCycle
  try dsimp only
  repeat' first
    | with_reducible assumption | with_reducible refine kept_bumpWide ?_ | with_reducible refine kept_bump ?_
    | with_reducible refine Kept.ite ?_ ?_ | with_reducible refine Kept.foldl (fun _ _ _ => ?_) ?_

theorem kept_State_countTicks {s0 s : State} {dt : Nat} {df : Nat} (h : Kept s0 s) :
    Kept s0 (State.countTicks s dt df) :=
  Kept.upd rfl rfl rfl rfl rfl rfl h

theorem kept_State_advance {s0 s : State} (h : Kept s0 s) :
    Kept s0 (State.advance s) := by
  unfold State.advance
  try dsimp only
  repeat' first
    | with_reducible assumption | with_reducible refine kept_State_countTicks ?_
    | with_reducible refine kept_State_countCycle ?_ | with_reducible refine kept_State_holdCloses ?_
    | with_reducible refine kept_State_countWaits ?_ | with_reducible refine Kept.ite ?_ ?_
    | fail_if_no_progress with_reducible refine Kept.upd rfl rfl rfl rfl rfl rfl ?_

theorem kept_enterCtl {s0 s : State} {d : Desc} {secs : List Nat} {status : Nat} {cevt : Bool} {done : Bool} (h : Kept s0 s) :
    Kept s0 (enterCtl d secs status cevt done s) :=
  Kept.upd rfl rfl rfl rfl rfl rfl h

theorem kept_startCtl {s0 s : State} {op : Nat} {act : Desc → Nat → State → CtlOut}
    (hact : ∀ d n s, Kept s0 s → KeptC s0 (act d n s)) (h : Kept s0 s) : KeptO s0 (startCtl op act s) := by
  unfold startCtl
  split
  · exact KeptO.next h
  · rename_i d _ _
    have ha := hact d s.kp.ctlNum _ (kept_enterCtl (d := d) (secs := []) (status := 0) (cevt := d.cevt) (done := false) h)
    dsimp only
    refine KeptO.ite (KeptO.next h) (KeptO.ite (KeptO.next ?_) (KeptO.ite (KeptO.next h) ?_))
    · exact kept_ctlPump (kept_State_descErr (kept_enterCtl h))
    · split <;> rename_i e <;> rw [e] at ha
      · exact KeptO.next h
      · exact KeptO.next (kept_ctlPump (kept_State_descErr (Kept.upd rfl rfl rfl rfl rfl rfl ha)))
      · exact KeptO.next (kept_ctlPump (Kept.upd rfl rfl rfl rfl rfl rfl ha))
      · exact KeptO.next (kept_ctlPump (Kept.upd rfl rfl rfl rfl rfl rfl ha))

theorem kept_actLight {s0 s : State} {d : Desc} {_num : Nat} (h : Kept s0 s) :
    KeptC s0 (actLight d _num s) := by
  unfold actLight
  try dsimp only
  repeat' first
    | with_reducible assumption | with_reducible refine KeptC.refused ?_ | with_reducible refine KeptC.done ?_
    | with_reducible refine KeptC.running ?_ | with_reducible refine KeptC.ite ?_ ?_
    | with_reducible refine kept_lightNext ?_
    | fail_if_no_progress with_reducible refine Kept.upd rfl rfl rfl rfl rfl rfl ?_

theorem kept_bistOverruled {s0 s : State} {sec : Nat} (h : Kept s0 s) :
    Kept s0 (bistOverruled s sec) := by
  unfold bistOverruled
  try dsimp only
  repeat' first
    | with_reducible assumption | with_reducible refine kept_State_modSec ?_
    | with_reducible refine kept_State_unlight ?_ | with_reducible refine Kept.ite ?_ ?_
    | fail_if_no_progress with_reducible refine Kept.upd rfl rfl rfl rfl rfl rfl ?_

theorem kept_actDarken {s0 s : State} {d : Desc} {_num : Nat} (h : Kept s0 s) :
    KeptC s0 (actDarken d _num s) := by
  unfold actDarken
  try dsimp only
  repeat' first
    | with_reducible assumption | with_reducible refine KeptC.refused ?_ | with_reducible refine KeptC.done ?_
    | with_reducible refine KeptC.running ?_ | with_reducible refine KeptC.ite ?_ ?_
    | with_reducible refine kept_bistOverruled ?_ | with_reducible refine kept_State_modSec ?_
    | with_reducible refine kept_startClosing ?_ | with_reducible refine Kept.ite ?_ ?_
    | with_reducible refine Kept.foldl (fun _ _ _ => ?_) ?_

theorem kept_State_grantFresh {s0 s : State} {n : Nat} (h : Kept s0 s) :
    Kept s0 (State.grantFresh s n) := by
  unfold State.grantFresh
  try dsimp only
  repeat' first
    | with_reducible assumption | with_reducible refine kept_State_sendCredit ?_
    | with_reducible refine Kept.ite ?_ ?_ | with_reducible refine Kept.foldl (fun _ _ _ => ?_) ?_

theorem kept_State_setMooring {s0 s : State} {n : Nat} {m : Moor} (h : Kept s0 s) :
    Kept s0 (State.setMooring s n m) := by
  unfold State.setMooring
  try dsimp only
  repeat' first
    | with_reducible assumption | fail_if_no_progress with_reducible refine Kept.upd rfl rfl rfl rfl rfl rfl ?_

theorem kept_actMoor {s0 s : State} {d : Desc} {_num : Nat} (h : Kept s0 s) :
    KeptC s0 (actMoor d _num s) := by
  unfold actMoor
  try dsimp only
  repeat' first
    | with_reducible assumption | with_reducible refine KeptC.refused ?_ | with_reducible refine KeptC.done ?_
    | with_reducible refine KeptC.ite ?_ ?_ | with_reducible refine kept_State_grantFresh ?_
    | with_reducible refine kept_State_setMooring ?_

theorem kept_State_noteConflict {s0 s : State} {kind : Nat} {unit : Nat} (h : Kept s0 s) :
    Kept s0 (State.noteConflict s kind unit) := by
  unfold State.noteConflict
  try dsimp only
  repeat' first
    | with_reducible assumption | with_reducible refine kept_bump ?_ | with_reducible refine Kept.ite ?_ ?_
    | fail_if_no_progress with_reducible refine Kept.upd rfl rfl rfl rfl rfl rfl ?_

theorem kept_State_overrule {s0 s : State} {n : Nat} (h : Kept s0 s) :
    Kept s0 (State.overrule s n) := by
  unfold State.overrule
  try dsimp only
  repeat' first
    | with_reducible assumption | with_reducible refine kept_State_noteConflict ?_
    | with_reducible refine kept_State_setBuoy ?_ | with_reducible refine kept_State_modStr ?_
    | with_reducible refine Kept.foldl (fun _ _ _ => ?_) ?_ | split

theorem kept_State_orderBuoy {s0 s : State} {n : Nat} (h : Kept s0 s) :
    Kept s0 (State.orderBuoy s n) := by
  unfold State.orderBuoy
  try dsimp only
  repeat' first
    | with_reducible assumption | with_reducible refine kept_State_overrule ?_
    | with_reducible refine kept_State_order ?_

theorem kept_State_armBuoy {s0 s : State} {n : Nat} {base : Nat} {nlines : Nat} {expect : Nat} {consume : Nat} {reload : Bool} (h : Kept s0 s) :
    Kept s0 (State.armBuoy s n base nlines expect consume reload) := by
  unfold State.armBuoy
  try dsimp only
  repeat' first
    | with_reducible assumption | with_reducible refine kept_State_putBuoy ?_ | with_reducible refine Kept.ite ?_ ?_

theorem kept_actArm {s0 s : State} {d : Desc} {_num : Nat} (h : Kept s0 s) :
    KeptC s0 (actArm d _num s) := by
  unfold actArm
  try dsimp only
  repeat' first
    | with_reducible assumption | with_reducible refine KeptC.refused ?_ | with_reducible refine KeptC.done ?_
    | with_reducible refine KeptC.ite ?_ ?_ | with_reducible refine kept_State_orderBuoy ?_
    | with_reducible refine kept_State_buoyMisuse ?_ | with_reducible refine kept_State_armBuoy ?_

theorem kept_State_freeBuoy {s0 s : State} {n : Nat} (h : Kept s0 s) :
    Kept s0 (State.freeBuoy s n) := by
  unfold State.freeBuoy
  try dsimp only
  repeat' first | with_reducible assumption | with_reducible refine kept_State_putBuoy ?_

theorem kept_State_freeNow {s0 s : State} {n : Nat} (h : Kept s0 s) :
    Kept s0 (State.freeNow s n) := by
  unfold State.freeNow
  try dsimp only
  repeat' first
    | with_reducible assumption | with_reducible refine kept_State_freeBuoy ?_
    | with_reducible refine kept_State_returnOwed ?_ | with_reducible refine Kept.ite ?_ ?_

theorem kept_actFree {s0 s : State} {d : Desc} {_num : Nat} (h : Kept s0 s) :
    KeptC s0 (actFree d _num s) := by
  unfold actFree
  try dsimp only
  repeat' first
    | with_reducible assumption | with_reducible refine KeptC.done ?_ | with_reducible refine kept_State_freeNow ?_
    | with_reducible refine kept_State_orderBuoy ?_ | with_reducible refine kept_State_order ?_
    | with_reducible refine Kept.ite ?_ ?_

theorem kept_State_takeBanks {s0 s : State} {a : Nat} {len : Nat} (h : Kept s0 s) :
    KeptM s0 (State.takeBanks s a len) := by
  unfold State.takeBanks
  try dsimp only
  repeat' first
    | with_reducible assumption | with_reducible refine KeptM.some ?_ | exact KeptM.none
    | with_reducible refine KeptM.ite ?_ ?_ | with_reducible refine kept_State_modStr ?_

theorem kept_State_fusAside {s0 s : State} {n : Nat} (h : Kept s0 s) :
    Kept s0 (State.fusAside s n) := by
  unfold State.fusAside
  try dsimp only
  repeat' first | with_reducible assumption | with_reducible refine kept_State_modLn ?_

theorem kept_State_lnPut {s0 s : State} {n : Nat} {c : LnCmd} (h : Kept s0 s) :
    Kept s0 (State.lnPut s n c) :=
  Kept.upd rfl rfl rfl rfl rfl rfl h

theorem kept_State_meetSent {s0 s : State} {kind : Nat} {unit : Nat} (h : Kept s0 s) :
    Kept s0 (State.meetSent s kind unit) := by
  unfold State.meetSent
  try dsimp only
  repeat' first
    | with_reducible assumption | with_reducible refine kept_State_order ?_
    | with_reducible refine kept_State_noteConflict ?_ | with_reducible refine Kept.ite ?_ ?_

theorem kept_lnPutFirst {s0 s : State} {n : Nat} {c : LnCmd} (h : Kept s0 s) :
    Kept s0 (lnPutFirst n c s) := by
  unfold lnPutFirst
  try dsimp only
  repeat' first
    | with_reducible assumption | with_reducible refine kept_State_order ?_
    | with_reducible refine kept_State_lnPut ?_ | with_reducible refine kept_State_fusAside ?_
    | with_reducible refine kept_State_meetSent ?_

theorem kept_actLantern {s0 s : State} {isLoad : Bool} {d : Desc} {num : Nat} (h : Kept s0 s) :
    KeptC s0 (actLantern isLoad d num s) := by
  unfold actLantern
  try dsimp only
  repeat' first
    | with_reducible assumption | exact KeptC.wait | with_reducible refine KeptC.refused ?_
    | with_reducible refine KeptC.running ?_ | with_reducible refine kept_State_readRun ?_
    | refine KeptM.out (kept_State_takeBanks ?_) (by assumption) | with_reducible refine kept_lnPutFirst ?_ | split

theorem kept_actMark {s0 s : State} {_d : Desc} {num : Nat} (h : Kept s0 s) :
    KeptC s0 (actMark _d num s) := by
  unfold actMark
  try dsimp only
  repeat' first
    | with_reducible assumption | with_reducible refine KeptC.running ?_ | with_reducible refine kept_State_setMark ?_
    | with_reducible refine kept_startMark ?_ | with_reducible refine kept_State_originate ?_
    | with_reducible refine Kept.ite ?_ ?_

theorem kept_actRelease {s0 s : State} {_d : Desc} {num : Nat} (h : Kept s0 s) :
    KeptC s0 (actRelease _d num s) := by
  unfold actRelease
  try dsimp only
  repeat' first
    | with_reducible assumption | with_reducible refine KeptC.refused ?_ | with_reducible refine KeptC.running ?_
    | with_reducible refine KeptC.ite ?_ ?_ | with_reducible refine kept_State_toNext ?_
    | fail_if_no_progress with_reducible refine Kept.upd rfl rfl rfl rfl rfl rfl ?_

theorem kept_askPause {s0 s : State} (h : Kept s0 s) :
    Kept s0 (askPause s) := by
  unfold askPause
  try dsimp only
  repeat' first
    | with_reducible assumption | with_reducible refine kept_State_modStr ?_ | with_reducible refine Kept.ite ?_ ?_

theorem kept_actPause {s0 s : State} {_d : Desc} {_num : Nat} (h : Kept s0 s) :
    KeptC s0 (actPause _d _num s) := by
  unfold actPause
  try dsimp only
  repeat' first
    | with_reducible assumption | with_reducible refine KeptC.done ?_ | with_reducible refine KeptC.running ?_
    | with_reducible refine KeptC.ite ?_ ?_ | with_reducible refine kept_askPause ?_

theorem kept_lnResume {s0 s : State} (h : Kept s0 s) :
    Kept s0 (lnResume s) := by
  unfold lnResume
  try dsimp only
  repeat' first
    | with_reducible assumption | with_reducible refine kept_lnPumpAll ?_ | with_reducible refine kept_lnAnswer ?_
    | with_reducible refine Kept.foldl (fun _ _ _ => ?_) ?_
    | fail_if_no_progress with_reducible refine Kept.upd rfl rfl rfl rfl rfl rfl ?_

theorem kept_reissue {s0 s : State} {m : MovInst} (h : Kept s0 s) :
    Kept s0 (reissue m s) := by
  unfold reissue
  try dsimp only
  repeat' first
    | with_reducible assumption | with_reducible refine kept_State_modStr ?_
    | with_reducible refine kept_State_setMov ?_ | split

theorem kept_State_oweSpare {s0 s : State} {d : Nat × Nat} (h : Kept s0 s) :
    Kept s0 (State.oweSpare s d) := by
  unfold State.oweSpare
  try dsimp only
  repeat' first
    | with_reducible assumption | with_reducible refine kept_State_modStr ?_ | with_reducible refine Kept.ite ?_ ?_

theorem kept_resumeStream {s0 s : State} (h : Kept s0 s) :
    Kept s0 (resumeStream s) := by
  unfold resumeStream
  try dsimp only
  repeat' first
    | with_reducible assumption | with_reducible refine kept_State_modStr ?_
    | with_reducible refine kept_State_askStop ?_ | with_reducible refine kept_reissue ?_
    | with_reducible refine kept_State_oweSpare ?_ | with_reducible refine Kept.foldl (fun _ _ _ => ?_) ?_ | split

theorem kept_askResume {s0 s : State} (h : Kept s0 s) :
    Kept s0 (askResume s) := by
  unfold askResume
  try dsimp only
  repeat' first
    | with_reducible assumption | with_reducible refine kept_lnResume ?_ | with_reducible refine kept_resumeStream ?_
    | with_reducible refine Kept.ite ?_ ?_

theorem kept_actResume {s0 s : State} {_d : Desc} {_num : Nat} (h : Kept s0 s) :
    KeptC s0 (actResume _d _num s) := by
  unfold actResume
  try dsimp only
  repeat' first
    | with_reducible assumption | with_reducible refine KeptC.done ?_ | with_reducible refine KeptC.ite ?_ ?_
    | with_reducible refine kept_askPause ?_ | with_reducible refine kept_askResume ?_
    | with_reducible refine Kept.ite ?_ ?_

theorem kept_dropFar {s0 s : State} (h : Kept s0 s) :
    Kept s0 (dropFar s) :=
  Kept.upd rfl rfl rfl rfl rfl rfl h

theorem kept_startAbort {s0 s : State} (h : Kept s0 s) :
    Kept s0 (startAbort s) := by
  unfold startAbort
  try dsimp only
  repeat' first
    | with_reducible assumption | with_reducible refine kept_State_modStr ?_ | with_reducible refine kept_dropFar ?_

theorem kept_actAbort {s0 s : State} {_d : Desc} {_num : Nat} (h : Kept s0 s) :
    KeptC s0 (actAbort _d _num s) := by
  unfold actAbort
  try dsimp only
  repeat' first
    | with_reducible assumption | with_reducible refine KeptC.done ?_ | with_reducible refine KeptC.running ?_
    | with_reducible refine KeptC.ite ?_ ?_ | with_reducible refine kept_startAbort ?_
    | with_reducible refine Kept.ite ?_ ?_

theorem kept_State_withoutRequests {s0 s : State} {c : Nat} (h : Kept s0 s) :
    Kept s0 (State.withoutRequests s c) := by
  unfold State.withoutRequests
  try dsimp only
  repeat' first
    | with_reducible assumption | fail_if_no_progress with_reducible refine Kept.upd rfl rfl rfl rfl rfl rfl ?_

theorem kept_State_tndBack {s0 s : State} {c : Nat} (h : Kept s0 s) :
    Kept s0 (State.tndBack s c) := by
  unfold State.tndBack
  try dsimp only
  repeat' first
    | with_reducible assumption | with_reducible refine kept_State_meetSent ?_
    | with_reducible refine kept_State_setChan ?_ | with_reducible refine kept_State_withoutRequests ?_
    | with_reducible refine Kept.ite ?_ ?_
    | fail_if_no_progress with_reducible refine Kept.upd rfl rfl rfl rfl rfl rfl ?_

theorem kept_tdResume {s0 s : State} {c : Nat} (h : Kept s0 s) :
    Kept s0 (tdResume c s) := by
  unfold tdResume
  try dsimp only
  repeat' first
    | with_reducible assumption | with_reducible refine kept_tdStartRow ?_
    | with_reducible refine kept_State_setChan ?_

theorem kept_tdAbort {s0 s : State} {c : Nat} (h : Kept s0 s) :
    Kept s0 (tdAbort c s) := by
  unfold tdAbort
  try dsimp only
  repeat' first
    | with_reducible assumption | with_reducible refine kept_tdFinish ?_ | with_reducible refine Kept.ite ?_ ?_
    | with_reducible refine Kept.foldl (fun _ _ _ => ?_) ?_ | with_reducible refine Kept.foldl2 (fun _ _ _ => ?_) ?_
    | with_reducible refine Kept.foldl3 (fun _ _ _ => ?_) ?_
    | fail_if_no_progress with_reducible refine Kept.upd rfl rfl rfl rfl rfl rfl ?_
    | fail_if_no_progress with_reducible refine Kept.updP rfl rfl (by dsimp only; decide) rfl rfl rfl ?_
    | fail_if_no_progress with_reducible refine Kept.updL rfl rfl rfl (fun e => e) rfl ?_
    | fail_if_no_progress with_reducible refine Kept.updL rfl rfl rfl (fun e => absurd e Bool.false_ne_true) rfl ?_
    | split | dsimp only

theorem kept_tdCommand {s0 s : State} {op : Nat} {c : Nat} (h : Kept s0 s) :
    Kept s0 (tdCommand op c s) := by
  unfold tdCommand
  try dsimp only
  repeat' first
    | with_reducible assumption | with_reducible refine kept_bump ?_ | with_reducible refine kept_tdResume ?_
    | with_reducible refine kept_tdAbort ?_ | with_reducible refine Kept.ite ?_ ?_

theorem kept_tdControl {s0 s : State} {op : Nat} {c : Nat} (h : Kept s0 s) :
    Kept s0 (tdControl op c s).2 := by
  unfold tdControl
  try dsimp only
  repeat' first
    | with_reducible assumption | with_reducible refine kept_State_order ?_
    | with_reducible refine kept_State_tndBack ?_ | with_reducible refine kept_State_setChan ?_
    | with_reducible refine kept_State_withoutRequests ?_ | with_reducible refine kept_tdCommand ?_ | split

theorem kept_tdControl' {s0 s t : State} {op : Nat} {c : Nat} {r1} (e : (tdControl op c s) = (r1, t)) (h : Kept s0 s) : Kept s0 t := by
  have h2 : Kept s0 (tdControl op c s).2 := kept_tdControl h
  rw [e] at h2
  exact h2

theorem kept_actTdcmd {s0 s : State} {d : Desc} {_num : Nat} (h : Kept s0 s) :
    KeptC s0 (actTdcmd d _num s) := by
  unfold actTdcmd
  try dsimp only
  repeat' first
    | with_reducible assumption | with_reducible refine KeptC.done ?_ | with_reducible refine KeptC.ite ?_ ?_
    | with_reducible refine kept_tdControl ?_

theorem kept_actEclipse {s0 s : State} {_d : Desc} {num : Nat} (h : Kept s0 s) :
    KeptC s0 (actEclipse _d num s) := by
  unfold actEclipse
  try dsimp only
  repeat' first
    | with_reducible assumption | with_reducible refine KeptC.refused ?_ | with_reducible refine KeptC.running ?_
    | with_reducible refine KeptC.ite ?_ ?_
    | fail_if_no_progress with_reducible refine Kept.upd rfl rfl rfl rfl rfl rfl ?_

theorem kept_State_sendToken {s0 s : State} {num : Nat} {dst : Nat} {moor : Nat} {off : Nat} {bs : List Byte} (h : Kept s0 s) :
    Kept s0 (State.sendToken s num dst moor off bs) := by
  unfold State.sendToken
  try dsimp only
  repeat' first
    | with_reducible assumption | with_reducible refine kept_State_originate ?_
    | with_reducible refine kept_State_settle ?_ | with_reducible refine Kept.ite ?_ ?_

theorem kept_actToken {s0 s : State} {d : Desc} {num : Nat} (h : Kept s0 s) :
    KeptC s0 (actToken d num s) := by
  unfold actToken
  try dsimp only
  repeat' first
    | with_reducible assumption | exact KeptC.wait | with_reducible refine KeptC.refused ?_
    | with_reducible refine KeptC.running ?_ | refine KeptM.out (kept_State_takeBanks ?_) (by assumption)
    | with_reducible refine kept_State_readRun ?_ | with_reducible refine kept_State_sendToken ?_ | split

theorem kept_State_sysRead {s0 s : State} {tag : Nat} {what : SysFor} {addr : Nat} {len : Nat} (h : Kept s0 s) :
    Kept s0 (State.sysRead s tag what addr len) :=
  Kept.upd rfl rfl rfl rfl rfl rfl h

theorem kept_State_sysWrite {s0 s : State} {tag : Nat} {what : SysFor} {addr : Nat} {data : List Byte} (h : Kept s0 s) :
    Kept s0 (State.sysWrite s tag what addr data) :=
  Kept.upd rfl rfl rfl rfl rfl rfl h

theorem kept_State_evWrite {s0 s : State} {o : EvOut} (h : Kept s0 s) :
    KeptM s0 (State.evWrite s o) := by
  unfold State.evWrite
  try dsimp only
  repeat' first
    | with_reducible assumption | with_reducible refine KeptM.some ?_ | exact KeptM.none
    | with_reducible refine kept_State_sysWrite ?_
    | fail_if_no_progress with_reducible refine Kept.upd rfl rfl rfl rfl rfl rfl ?_ | split

theorem kept_evRetry {s0 x1 : State} {x0 : Nat} (h : Kept s0 x1) :
    Kept s0 (evRetry x0 x1) := by
  induction x0 generalizing x1 with
  | zero =>
    unfold evRetry
    try dsimp only
    repeat' first
      | with_reducible assumption | with_reducible refine kept_State_evWrite ?_
      | refine KeptM.out (kept_State_evWrite ?_) (by assumption)
      | fail_if_no_progress with_reducible refine Kept.upd rfl rfl rfl rfl rfl rfl ?_ | split
  | succ m ih =>
    unfold evRetry
    try dsimp only
    repeat' first
      | with_reducible assumption | with_reducible refine ih ?_
      | refine KeptM.out (kept_State_evWrite ?_) (by assumption)
      | fail_if_no_progress with_reducible refine Kept.upd rfl rfl rfl rfl rfl rfl ?_ | split

theorem kept_evAnswer {s0 s : State} {addr : Nat} {ok : Bool} (h : Kept s0 s) :
    Kept s0 (evAnswer addr ok s) := by
  unfold evAnswer
  try dsimp only
  repeat' first
    | with_reducible assumption | fail_if_no_progress with_reducible refine Kept.upd rfl rfl rfl rfl rfl rfl ?_
    | split

theorem kept_discardRing {s0 s : State} (h : Kept s0 s) :
    Kept s0 (discardRing s) := by
  unfold discardRing
  try dsimp only
  repeat' first
    | with_reducible assumption | with_reducible refine kept_State_endArrival ?_
    | with_reducible refine kept_State_freeSpace ?_ | with_reducible refine Kept.foldl (fun _ _ _ => ?_) ?_
    | fail_if_no_progress with_reducible refine Kept.upd rfl rfl rfl rfl rfl rfl ?_

theorem kept_discardKeeper {s0 s : State} {slots : List Nat} (h : Kept s0 s) :
    Kept s0 (discardKeeper slots s) := by
  unfold discardKeeper
  try dsimp only
  repeat' first
    | with_reducible assumption | fail_if_no_progress with_reducible refine Kept.upd rfl rfl rfl rfl rfl rfl ?_

theorem kept_dropChannels {s0 s : State} {gone : Chan → Bool} (h : Kept s0 s) : Kept s0 (dropChannels gone s) := by
  unfold dropChannels
  exact Kept.canon (x := s) rfl rfl (fun c => ⟨c.1, c.2.1, c.2.2.1, swf_filter _ c.2.2.2.1, c.2.2.2.2⟩) h

theorem kept_lnAbandon {s0 s : State} {n : Nat} {all : Bool} (h : Kept s0 s) :
    Kept s0 (lnAbandon n all s) := by
  unfold lnAbandon
  try dsimp only
  repeat' first
    | with_reducible assumption | with_reducible refine kept_State_settle ?_
    | with_reducible refine kept_State_modLn ?_ | with_reducible refine Kept.ite ?_ ?_
    | with_reducible refine Kept.foldl (fun _ _ _ => ?_) ?_

theorem kept_lnDrop {s0 s : State} {n : Nat} {all : Bool} (h : Kept s0 s) :
    Kept s0 (lnDrop n all s) := by
  unfold lnDrop
  try dsimp only
  repeat' first
    | with_reducible assumption | with_reducible refine kept_lnRaiseAbort ?_ | with_reducible refine kept_lnAbandon ?_
    | with_reducible refine kept_State_modLn ?_ | with_reducible refine Kept.ite ?_ ?_

theorem kept_State_settlePauses {s0 s : State} (h : Kept s0 s) :
    Kept s0 (State.settlePauses s) := by
  unfold State.settlePauses
  try dsimp only
  repeat' first
    | with_reducible assumption | with_reducible refine kept_ctlPump ?_
    | fail_if_no_progress with_reducible refine Kept.upd rfl rfl rfl rfl rfl rfl ?_

theorem kept_endLaunch {s0 s : State} (h : Kept s0 s) :
    Kept s0 (endLaunch s) :=
  Kept.upd rfl rfl rfl rfl rfl rfl h

theorem kept_clearStream {s0 s : State} (h : Kept s0 s) :
    Kept s0 (clearStream s) :=
  Kept.upd rfl rfl rfl rfl rfl rfl h

theorem kept_discard {s0 s : State} (h : Kept s0 s) : Kept s0 (discard s) := by
  unfold discard
  dsimp only
  refine kept_State_settlePauses (kept_refuseEclipse (kept_clearStream (Kept.upd rfl rfl rfl rfl rfl rfl ?_)))
  exact Kept.foldl (fun _ _ g => kept_lnDrop g) (kept_discardKeeper (kept_discardRing (Kept.clearCb
    (kept_dropChannels (kept_dropFar h)))))

theorem kept_State_fresh {s0 s : State} (h : Kept s0 s) :
    Kept s0 (State.fresh s) :=
  Kept.upd rfl rfl rfl rfl rfl rfl h

theorem kept_faultEvent {s0 s : State} {e : ErrRec} {spare : Nat} {remain : Nat} (h : Kept s0 s) :
    Kept s0 (faultEvent e spare remain s) := by
  unfold faultEvent
  try dsimp only
  repeat' first
    | with_reducible assumption | with_reducible refine kept_State_fresh ?_ | with_reducible refine kept_State_push ?_
    | with_reducible refine Kept.ite ?_ ?_
    | fail_if_no_progress with_reducible refine Kept.upd rfl rfl rfl rfl rfl rfl ?_

theorem kept_sendHold {s0 s : State} {e : ErrRec} (h : Kept s0 s) :
    Kept s0 (sendHold e s) := by
  unfold sendHold
  try dsimp only
  repeat' first
    | with_reducible assumption | with_reducible refine kept_State_originate ?_ | with_reducible refine Kept.ite ?_ ?_

theorem kept_State_setPc {s0 s : State} {p : Nat} {st : PcState} (h : Kept s0 s) :
    Kept s0 (State.setPc s p st) :=
  Kept.upd rfl rfl rfl rfl rfl rfl h

theorem kept_startSwap {s0 s : State} {n : Nat} {failed : Nat} (h : Kept s0 s) :
    Kept s0 (startSwap n failed s).2 := by
  unfold startSwap
  try dsimp only
  repeat' first
    | with_reducible assumption | with_reducible refine kept_clusterPump ?_
    | fail_if_no_progress with_reducible refine Kept.upd rfl rfl rfl rfl rfl rfl ?_ | split

theorem kept_startSwap' {s0 s t : State} {n : Nat} {failed : Nat} {r1} (e : (startSwap n failed s) = (r1, t)) (h : Kept s0 s) : Kept s0 t := by
  have h2 : Kept s0 (startSwap n failed s).2 := kept_startSwap h
  rw [e] at h2
  exact h2

theorem kept_clusterFault {s0 s : State} {e : ErrRec} (h : Kept s0 s) : Kept s0 (clusterFault e s) := by
  unfold clusterFault
  dsimp only
  have e1 : ((s.setPc e.phys .fenced).powerOff e.phys).lanes = s.lanes := by
    unfold State.powerOff; repeat' split
    all_goals rfl
  have h2 : Kept s0 { (s.setPc e.phys .fenced).powerOff e.phys with lanes := serase s.lanes e.phys } :=
    Kept.canon (x := (s.setPc e.phys .fenced).powerOff e.phys) rfl rfl
      (fun c => ⟨swf_serase _ (e1 ▸ c.1), c.2⟩) (kept_State_powerOff (kept_State_setPc h))
  refine kept_sendHold (kept_faultEvent ?_)
  split
  · exact kept_startSwap h2
  · exact h2

theorem kept_dropSectorWork {s0 s : State} {k : Nat} (h : Kept s0 s) :
    Kept s0 (dropSectorWork k s) := by
  unfold dropSectorWork
  try dsimp only
  repeat' first
    | with_reducible assumption | with_reducible refine kept_ownerRefused ?_
    | with_reducible refine kept_State_takeReq ?_ | with_reducible refine Kept.foldl (fun _ _ _ => ?_) ?_ | split

theorem kept_reportSectors {s0 s : State} {rs : List (ErrRec × Nat)} (h : Kept s0 s) :
    Kept s0 (reportSectors rs s) := by
  unfold reportSectors
  try dsimp only
  repeat' first
    | with_reducible assumption | with_reducible refine kept_sendHold ?_ | with_reducible refine kept_faultEvent ?_
    | with_reducible refine Kept.foldl (fun _ _ _ => ?_) ?_

theorem kept_secSwapDone {s0 s : State} {w : SecSwap} (h : Kept s0 s) :
    Kept s0 (secSwapDone w s) := by
  unfold secSwapDone
  try dsimp only
  repeat' first
    | with_reducible assumption | with_reducible refine kept_reportSectors ?_
    | fail_if_no_progress with_reducible refine Kept.upd rfl rfl rfl rfl rfl rfl ?_

theorem kept_startSecSwap {s0 s : State} {k : Nat} {e : ErrRec} {rs : List (ErrRec × Nat)} (h : Kept s0 s) :
    Kept s0 (startSecSwap k e rs s) := by
  unfold startSecSwap
  try dsimp only
  repeat' first
    | with_reducible assumption | with_reducible refine kept_reportSectors ?_
    | with_reducible refine kept_State_secSettled ?_ | with_reducible refine kept_lightNext ?_
    | fail_if_no_progress with_reducible refine Kept.upd rfl rfl rfl rfl rfl rfl ?_ | split

theorem kept_fenceSector {s0 s : State} {p : Nat} (h : Kept s0 s) :
    Kept s0 (fenceSector p s) := by
  unfold fenceSector
  try dsimp only
  repeat' first
    | with_reducible assumption | with_reducible refine kept_State_powerOff ?_ | with_reducible refine Kept.ite ?_ ?_
    | fail_if_no_progress with_reducible refine Kept.upd rfl rfl rfl rfl rfl rfl ?_

theorem kept_sectorFault {s0 s : State} {e : ErrRec} (h : Kept s0 s) :
    Kept s0 (sectorFault e s) := by
  unfold sectorFault
  try dsimp only
  repeat' first
    | with_reducible assumption | with_reducible refine kept_fenceSector ?_
    | with_reducible refine kept_reportSectors ?_ | with_reducible refine kept_State_unlight ?_
    | with_reducible refine kept_dropSectorWork ?_ | with_reducible refine kept_State_modSec ?_
    | with_reducible refine kept_startSecSwap ?_ | with_reducible refine kept_State_secSettled ?_ | split

theorem kept_spareSectorFailed {s0 s : State} {reason : Nat} {w : SecSwap} (h : Kept s0 s) :
    Kept s0 (spareSectorFailed reason w s) := by
  unfold spareSectorFailed
  try dsimp only
  repeat' first
    | with_reducible assumption | with_reducible refine kept_startSecSwap ?_
    | with_reducible refine kept_State_unlight ?_ | with_reducible refine kept_fenceSector ?_

theorem kept_fenceUnit {s0 s : State} {e : ErrRec} (h : Kept s0 s) :
    Kept s0 (fenceUnit e s) := by
  unfold fenceUnit
  try dsimp only
  repeat' first
    | with_reducible assumption | with_reducible refine kept_State_powerOff ?_
    | with_reducible refine kept_State_modLn ?_ | with_reducible refine kept_State_setPort ?_
    | fail_if_no_progress with_reducible refine Kept.upd rfl rfl rfl rfl rfl rfl ?_ | split

theorem kept_handleFault {s0 s : State} {e : ErrRec} (h : Kept s0 s) :
    Kept s0 (handleFault e s) := by
  unfold handleFault
  try dsimp only
  repeat' first
    | with_reducible assumption | with_reducible refine kept_faultEvent ?_ | with_reducible refine kept_endRestore ?_
    | with_reducible refine kept_discard ?_ | with_reducible refine kept_clusterFault ?_
    | with_reducible refine kept_sectorFault ?_ | with_reducible refine kept_sendHold ?_
    | with_reducible refine kept_fenceUnit ?_ | with_reducible refine Kept.ite ?_ ?_
    | fail_if_no_progress with_reducible refine Kept.upd rfl rfl rfl rfl rfl rfl ?_

theorem kept_logQuiet {s0 s : State} (h : Kept s0 s) :
    Kept s0 (logQuiet s) :=
  Kept.upd rfl rfl rfl rfl rfl rfl h

theorem kept_fatalFault {s0 s : State} (h : Kept s0 s) :
    Kept s0 (fatalFault s) := by
  unfold fatalFault
  try dsimp only
  repeat' first
    | with_reducible assumption | with_reducible refine kept_logQuiet ?_ | with_reducible refine kept_discard ?_
    | fail_if_no_progress with_reducible refine Kept.upd rfl rfl rfl rfl rfl rfl ?_

theorem kept_swapDone {s0 s : State} {n p : Nat} (h : Kept s0 s) : Kept s0 (swapDone n p s) := by
  unfold swapDone
  dsimp only
  refine kept_State_setPc (Kept.upd rfl rfl rfl rfl rfl rfl (x := {
    s with
      lanes := serase s.lanes p
      osura := { s.osura with cb := serase s.osura.cb p }
      cnt := { s.cnt with cl := s.cnt.cl.filter (fun x => x.1 % 64 != p) }
      flt := { s.flt with swapFor := [], swap := false, seqbusy := false } }) ?_)
  exact Kept.canon (x := s) rfl rfl (fun c =>
    ⟨swf_serase _ c.1, c.2.1, swf_filter _ c.2.2.1, c.2.2.2.1, c.2.2.2.2.1, c.2.2.2.2.2.1, swf_serase _ c.2.2.2.2.2.2⟩) h

theorem kept_spareFailed {s0 s : State} {reason : Nat} {j : ClSwap} (h : Kept s0 s) :
    Kept s0 (spareFailed reason j s) := by
  unfold spareFailed
  try dsimp only
  repeat' first
    | with_reducible assumption | with_reducible refine kept_State_powerOff ?_
    | with_reducible refine kept_State_setPc ?_ | with_reducible refine kept_startSwap ?_
    | with_reducible refine kept_sendHold ?_ | with_reducible refine kept_faultEvent ?_
    | fail_if_no_progress with_reducible refine Kept.upd rfl rfl rfl rfl rfl rfl ?_

theorem kept_swapFault {s0 s : State} (h : Kept s0 s) :
    Kept s0 (swapFault s) := by
  unfold swapFault
  try dsimp only
  repeat' first
    | with_reducible assumption | with_reducible refine kept_spareFailed ?_
    | with_reducible refine kept_spareSectorFailed ?_
    | fail_if_no_progress with_reducible refine Kept.upd rfl rfl rfl rfl rfl rfl ?_ | split

theorem kept_setupIgnored {s0 s : State} (h : Kept s0 s) :
    Kept s0 (setupIgnored s) := by
  unfold setupIgnored
  try dsimp only
  repeat' first | with_reducible assumption | with_reducible refine kept_bump ?_

theorem kept_unfence {s0 s : State} {kind : Nat} {n : Nat} (h : Kept s0 s) :
    Kept s0 (unfence kind n s) := by
  unfold unfence
  try dsimp only
  repeat' first
    | with_reducible assumption | with_reducible refine kept_setupIgnored ?_
    | with_reducible refine kept_lnRaiseAbort ?_ | with_reducible refine kept_State_modLn ?_
    | with_reducible refine kept_State_setPort ?_ | with_reducible refine Kept.ite ?_ ?_
    | fail_if_no_progress with_reducible refine Kept.upd rfl rfl rfl rfl rfl rfl ?_

theorem kept_State_startPort {s0 s : State} {n : Nat} (h : Kept s0 s) :
    Kept s0 (State.startPort s n) := by
  unfold State.startPort
  try dsimp only
  repeat' first
    | with_reducible assumption | with_reducible refine kept_State_setPort ?_ | with_reducible refine Kept.ite ?_ ?_
    | fail_if_no_progress with_reducible refine Kept.upd rfl rfl rfl rfl rfl rfl ?_

theorem kept_State_noteSent {s0 s : State} {kind : Nat} {unit : Nat} (h : Kept s0 s) :
    Kept s0 (State.noteSent s kind unit) := by
  unfold State.noteSent
  try dsimp only
  repeat' first | with_reducible assumption | with_reducible refine kept_State_modStr ?_

theorem kept_State_noteDelay {s0 s : State} {kind : Nat} {unit : Nat} (h : Kept s0 s) :
    Kept s0 (State.noteDelay s kind unit) := by
  unfold State.noteDelay
  try dsimp only
  repeat' first
    | with_reducible assumption | with_reducible refine kept_State_order ?_
    | with_reducible refine kept_State_noteConflict ?_ | with_reducible refine Kept.ite ?_ ?_

theorem kept_fetchFrom {s0 s : State} {a : Nat} (h : Kept s0 s) :
    Kept s0 (fetchFrom a s) := by
  unfold fetchFrom
  try dsimp only
  repeat' first | with_reducible assumption | with_reducible refine kept_State_modStr ?_

theorem kept_refetch {s0 s : State} (h : Kept s0 s) :
    Kept s0 (refetch s) := by
  unfold refetch
  try dsimp only
  repeat' first
    | with_reducible assumption | with_reducible refine kept_fetchFrom ?_ | with_reducible refine Kept.ite ?_ ?_

theorem kept_loopLoad {s0 s : State} (h : Kept s0 s) :
    Kept s0 (loopLoad s) := by
  unfold loopLoad
  try dsimp only
  repeat' first
    | with_reducible assumption | with_reducible refine kept_State_modStr ?_
    | with_reducible refine kept_State_readStream ?_ | with_reducible refine Kept.ite ?_ ?_

theorem kept_leaveLoops {s0 s : State} {tgt : Nat} (h : Kept s0 s) :
    Kept s0 (leaveLoops tgt s) := by
  unfold leaveLoops
  try dsimp only
  repeat' first
    | with_reducible assumption | with_reducible refine kept_State_modStr ?_
    | with_reducible refine Kept.foldl (fun _ _ _ => ?_) ?_

theorem kept_goTo {s0 s : State} {tgt : Nat} {at_ : Nat} (h : Kept s0 s) :
    Kept s0 (goTo tgt at_ s) := by
  unfold goTo
  try dsimp only
  repeat' first
    | with_reducible assumption | with_reducible refine kept_State_modStr ?_ | with_reducible refine kept_fetchFrom ?_
    | with_reducible refine Kept.ite ?_ ?_

theorem kept_seeStores {s0 s : State} (h : Kept s0 s) :
    Kept s0 (seeStores s) := by
  unfold seeStores
  try dsimp only
  repeat' first
    | with_reducible assumption | with_reducible refine kept_State_modStr ?_ | with_reducible refine Kept.ite ?_ ?_

theorem kept_goBack {s0 s : State} {lo : Nat} (h : Kept s0 s) :
    Kept s0 (goBack lo s) := by
  unfold goBack
  try dsimp only
  repeat' first
    | with_reducible assumption | with_reducible refine kept_goTo ?_ | with_reducible refine kept_seeStores ?_
    | with_reducible refine Kept.ite ?_ ?_

theorem kept_State_setScal {s0 s : State} {n : Nat} {v : Nat} (h : Kept s0 s) :
    Kept s0 (State.setScal s n v) :=
  Kept.upd rfl rfl rfl rfl rfl rfl h

theorem kept_scanIndex {s0 s : State} {sd : Nat} {x : Nat} (h : Kept s0 s) :
    Kept s0 (scanIndex sd x s) :=
  Kept.upd rfl rfl rfl rfl rfl rfl h

theorem kept_loopEnd {s0 x2 : State} {end_ : Nat} {x1 : List Nat} (h : Kept s0 x2) :
    Kept s0 (loopEnd end_ x1 x2).2 := by
  induction x1 generalizing end_ x2 with
  | nil =>
    unfold loopEnd
    try dsimp only
    repeat' first
      | with_reducible assumption | with_reducible refine kept_State_modStr ?_
      | with_reducible refine kept_seeStores ?_ | with_reducible refine kept_scanIndex ?_ | split
  | cons y ys ih =>
    have ih2 := @ih
    unfold loopEnd
    try dsimp only
    repeat' first
      | with_reducible assumption | with_reducible refine ih ?_ | with_reducible refine kept_State_modStr ?_
      | with_reducible refine kept_seeStores ?_ | with_reducible refine kept_scanIndex ?_ | split

theorem kept_loopEnd' {s0 x2 t : State} {end_ : Nat} {x1 : List Nat} {r1} (e : (loopEnd end_ x1 x2) = (r1, t)) (h : Kept s0 x2) : Kept s0 t := by
  have h2 : Kept s0 (loopEnd end_ x1 x2).2 := kept_loopEnd h
  rw [e] at h2
  exact h2

theorem kept_advancePc {s0 s : State} {end_ : Nat} (h : Kept s0 s) :
    Kept s0 (advancePc end_ s) := by
  unfold advancePc
  try dsimp only
  repeat' first
    | with_reducible assumption | with_reducible refine kept_loopEnd ?_ | with_reducible refine kept_State_modStr ?_
    | with_reducible refine kept_goTo ?_ | with_reducible refine kept_seeStores ?_
    | with_reducible refine kept_leaveLoops ?_ | with_reducible refine kept_goBack ?_ | split

theorem kept_dropFetched {s0 s : State} (h : Kept s0 s) :
    Kept s0 (dropFetched s) := by
  unfold dropFetched
  try dsimp only
  repeat' first
    | with_reducible assumption | with_reducible refine kept_refetch ?_ | with_reducible refine kept_State_modStr ?_
    | with_reducible refine Kept.ite ?_ ?_

theorem kept_startLoop {s0 s : State} {f : CtlSlot} {count : Nat} {end_ : Nat} (h : Kept s0 s) :
    Kept s0 (startLoop f count end_ s) := by
  unfold startLoop
  try dsimp only
  repeat' first
    | with_reducible assumption | with_reducible refine kept_State_modStr ?_ | with_reducible refine kept_fetchFrom ?_
    | with_reducible refine kept_goTo ?_ | with_reducible refine kept_seeStores ?_
    | with_reducible refine kept_leaveLoops ?_ | with_reducible refine kept_scanIndex ?_
    | with_reducible refine Kept.ite ?_ ?_

theorem kept_State_flushBefore {s0 s : State} {t : Nat} (h : Kept s0 s) :
    Kept s0 (State.flushBefore s t) := by
  unfold State.flushBefore
  try dsimp only
  repeat' first
    | with_reducible assumption | with_reducible refine kept_flushPump ?_ | with_reducible refine kept_State_setCb ?_
    | with_reducible refine Kept.foldl (fun _ _ _ => ?_) ?_

theorem kept_ctlEffect {s0 s : State} {sB : State} {f : CtlSlot} (h : Kept s0 s) :
    Kept s0 (ctlEffect sB f s) := by
  unfold ctlEffect
  try dsimp only
  repeat' first
    | with_reducible assumption | with_reducible refine kept_State_noteConflict ?_
    | with_reducible refine kept_State_modStr ?_ | with_reducible refine kept_State_setScal ?_
    | with_reducible refine kept_State_armBuoy ?_ | with_reducible refine kept_State_countAt ?_
    | with_reducible refine kept_State_flushBefore ?_ | with_reducible refine kept_State_freeNow ?_
    | with_reducible refine kept_State_push ?_ | split

theorem kept_latchAll {s0 s : State} {unit : Nat} {q : VPlan} {n : Nat} (h : Kept s0 s) :
    Kept s0 (latchAll unit q n s) := by
  unfold latchAll
  try dsimp only
  repeat' first
    | with_reducible assumption | with_reducible refine kept_State_modLane ?_ | with_reducible refine kept_bumpCl ?_
    | with_reducible refine Kept.foldl (fun _ _ _ => ?_) ?_ | split

theorem kept_State_setTags {s0 s : State} {ts : List (Nat × Tag)} (h : Kept s0 s) :
    Kept s0 (State.setTags s ts) :=
  Kept.upd rfl rfl rfl rfl rfl rfl h

theorem kept_State_raiseLater {s0 s : State} {fls : List (Nat × FlagSet)} (h : Kept s0 s) :
    Kept s0 (State.raiseLater s fls) := by
  unfold State.raiseLater
  try dsimp only
  repeat' first | with_reducible assumption | with_reducible refine kept_State_modStr ?_

theorem kept_putResult {s0 s : State} {base : Nat} {r : SlotResult} (h : Kept s0 s) :
    Kept s0 (putResult base r s) := by
  unfold putResult
  try dsimp only
  repeat' first
    | with_reducible assumption | with_reducible refine kept_State_raiseLater ?_
    | with_reducible refine kept_State_setTags ?_ | with_reducible refine kept_State_modStr ?_
    | with_reducible refine kept_State_touchTile ?_ | with_reducible refine kept_State_putAny ?_
    | with_reducible refine Kept.ite ?_ ?_ | with_reducible refine Kept.foldl (fun _ _ _ => ?_) ?_

theorem kept_takeTraps {s0 s : State} {results : List SlotResult} (h : Kept s0 s) :
    Kept s0 (takeTraps results s) := by
  unfold takeTraps
  try dsimp only
  repeat' first
    | with_reducible assumption | with_reducible refine kept_bumpBy ?_
    | fail_if_no_progress with_reducible refine Kept.upd rfl rfl rfl rfl rfl rfl ?_ | split

theorem kept_recordTrap {s0 s : State} {x : TrapHit} (h : Kept s0 s) : Kept s0 (recordTrap x s) := by
  unfold recordTrap
  exact Kept.upd rfl rfl rfl rfl rfl rfl (kept_bumpBy h)

theorem kept_movRelease {s0 s : State} {sB : State} {q : MovPlan} (h : Kept s0 s) :
    Kept s0 (movRelease sB q s) := by
  unfold movRelease
  try dsimp only
  repeat' first
    | with_reducible assumption | with_reducible refine kept_State_release ?_
    | with_reducible refine kept_State_buoyMisuse ?_ | split

theorem kept_startMov {s0 s : State} {sB : State} {n : Nat} {id : Nat} {q : MovPlan} (h : Kept s0 s) :
    Kept s0 (startMov sB n id q s) := by
  unfold startMov
  try dsimp only
  repeat' first
    | with_reducible assumption | with_reducible refine kept_State_modStr ?_
    | with_reducible refine kept_State_raiseLater ?_ | with_reducible refine kept_State_setTags ?_
    | with_reducible refine Kept.ite ?_ ?_

theorem kept_startFus {s0 s : State} {sB : State} {f : FusSlot} (h : Kept s0 s) :
    Kept s0 (startFus sB f s) := by
  unfold startFus
  try dsimp only
  repeat' first
    | with_reducible assumption | with_reducible refine kept_State_modStr ?_
    | with_reducible refine kept_State_noteSent ?_ | with_reducible refine kept_State_lnPut ?_ | split

theorem kept_tdStart {s0 s : State} {c : Nat} {x : Xfer} {ring : Option Nat} {p : Profile} (h : Kept s0 s) :
    Kept s0 (tdStart c x ring p s) := by
  unfold tdStart
  try dsimp only
  repeat' first
    | with_reducible assumption | with_reducible refine kept_State_setChan ?_ | with_reducible refine kept_tdRead ?_
    | with_reducible refine kept_tdAdvance ?_ | with_reducible refine kept_tdStartRow ?_
    | fail_if_no_progress with_reducible refine Kept.upd rfl rfl rfl rfl rfl rfl ?_ | split

theorem kept_startTnd {s0 s : State} {sB : State} {f : TndSlot} (h : Kept s0 s) :
    Kept s0 (startTnd sB f s) := by
  unfold startTnd
  try dsimp only
  repeat' first
    | with_reducible assumption | with_reducible refine kept_State_modStr ?_
    | with_reducible refine kept_State_noteSent ?_ | with_reducible refine kept_sendPump ?_
    | with_reducible refine kept_tdStart ?_ | split

theorem kept_noteDelays {s0 s : State} {ops : List (Nat × SlotOp)} (h : Kept s0 s) :
    Kept s0 (noteDelays ops s) := by
  unfold noteDelays
  try dsimp only
  repeat' first
    | with_reducible assumption | with_reducible refine kept_State_noteDelay ?_
    | with_reducible refine Kept.foldl (fun _ _ _ => ?_) ?_ | split

theorem kept_traceIssue {s0 s : State} (h : Kept s0 s) :
    Kept s0 (traceIssue s) := by
  unfold traceIssue
  try dsimp only
  repeat' first
    | with_reducible assumption | with_reducible refine kept_bump ?_ | with_reducible refine kept_traceLine ?_
    | with_reducible refine Kept.ite ?_ ?_
    | fail_if_no_progress with_reducible refine Kept.upd rfl rfl rfl rfl rfl rfl ?_

theorem kept_countIssue {s0 s : State} (h : Kept s0 s) :
    Kept s0 (countIssue s) := by
  unfold countIssue
  try dsimp only
  repeat' first
    | with_reducible assumption | with_reducible refine kept_bumpWide ?_ | with_reducible refine kept_bumpCl ?_
    | with_reducible refine Kept.foldl (fun _ _ _ => ?_) ?_ | split

theorem kept_enterLoad {s0 s : State} {m : MovInst} {q : MovPlan} (h : Kept s0 s) :
    Kept s0 (enterLoad m q s) :=
  Kept.upd rfl rfl rfl rfl rfl rfl h

theorem kept_enterFar {s0 s : State} {m : MovInst} {q : MovPlan} (h : Kept s0 s) :
    Kept s0 (enterFar m q s) := by
  unfold enterFar
  try dsimp only
  repeat' first
    | with_reducible assumption | fail_if_no_progress with_reducible refine Kept.upd rfl rfl rfl rfl rfl rfl ?_

theorem kept_enterStore {s0 s : State} {cl : Nat} {m : MovInst} {q : MovPlan} (h : Kept s0 s) :
    Kept s0 (enterStore cl m q s) :=
  Kept.upd rfl rfl rfl rfl rfl rfl h

theorem kept_movEnter {s0 s : State} {extra : List WinAcc} (h : Kept s0 s) :
    Kept s0 (movEnter extra s) := by
  unfold movEnter
  try dsimp only
  repeat' first
    | with_reducible assumption | with_reducible refine kept_enterLoad ?_ | with_reducible refine kept_enterFar ?_
    | with_reducible refine kept_enterStore ?_ | with_reducible refine kept_State_modStr ?_
    | with_reducible refine kept_flushPump ?_ | with_reducible refine Kept.foldl (fun _ _ _ => ?_) ?_

theorem kept_landFlags {s0 s : State} (h : Kept s0 s) :
    Kept s0 (landFlags s) := by
  unfold landFlags
  try dsimp only
  repeat' first
    | with_reducible assumption | with_reducible refine kept_State_raiseIn ?_
    | with_reducible refine kept_State_modStr ?_ | with_reducible refine Kept.foldl (fun _ _ _ => ?_) ?_

theorem kept_landScals {s0 s : State} (h : Kept s0 s) :
    Kept s0 (landScals s) := by
  unfold landScals
  try dsimp only
  repeat' first
    | with_reducible assumption | with_reducible refine kept_State_setScal ?_
    | with_reducible refine kept_State_modStr ?_ | with_reducible refine Kept.foldl (fun _ _ _ => ?_) ?_

theorem kept_land {s0 s : State} (h : Kept s0 s) :
    Kept s0 (land s) := by
  unfold land
  try dsimp only
  repeat' first
    | with_reducible assumption | with_reducible refine kept_landFlags ?_ | with_reducible refine kept_landScals ?_
    | with_reducible refine kept_movPump ?_ | with_reducible refine Kept.foldl (fun _ _ _ => ?_) ?_

theorem kept_nextIssue {s0 s : State} (h : Kept s0 s) :
    Kept s0 (nextIssue s) := by
  unfold nextIssue
  try dsimp only
  repeat' first
    | with_reducible assumption | with_reducible refine kept_land ?_ | with_reducible refine kept_State_modStr ?_

theorem kept_issueBundle {s0 sB : State} {ops : List (Nat × SlotOp)} {len : Nat} (h : Kept s0 sB) :
    Kept s0 (issueBundle ops len sB) := by
  unfold issueBundle
  try dsimp only
  repeat' first
    | with_reducible assumption | with_reducible refine kept_traceIssue ?_
    | with_reducible refine kept_State_modStr ?_ | with_reducible refine kept_State_oweSpare ?_
    | with_reducible refine kept_latchAll ?_ | with_reducible refine kept_movRelease ?_
    | with_reducible refine kept_ctlEffect ?_ | with_reducible refine kept_putResult ?_
    | with_reducible refine kept_startMov ?_ | with_reducible refine kept_startFus ?_
    | with_reducible refine kept_startTnd ?_ | with_reducible refine kept_takeTraps ?_
    | with_reducible refine kept_movEnter ?_ | with_reducible refine kept_State_flushBefore ?_
    | with_reducible refine kept_countIssue ?_ | with_reducible refine kept_nextIssue ?_
    | with_reducible refine kept_startLoop ?_ | with_reducible refine kept_advancePc ?_
    | with_reducible refine kept_dropFetched ?_ | with_reducible refine Kept.ite ?_ ?_
    | with_reducible refine Kept.foldl (fun _ _ _ => ?_) ?_
    | fail_if_no_progress with_reducible refine Kept.upd rfl rfl rfl rfl rfl rfl ?_ | split

theorem kept_dropRelays {s0 s : State} (h : Kept s0 s) :
    Kept s0 (dropRelays s) := by
  unfold dropRelays
  try dsimp only
  repeat' first
    | with_reducible assumption | fail_if_no_progress with_reducible refine Kept.upd rfl rfl rfl rfl rfl rfl ?_

theorem kept_endAbort {s0 s : State} (h : Kept s0 s) :
    Kept s0 (endAbort s) := by
  unfold endAbort
  try dsimp only
  repeat' first
    | with_reducible assumption | with_reducible refine kept_dropChannels ?_
    | with_reducible refine kept_dropRelays ?_ | with_reducible refine kept_lnDrop ?_
    | with_reducible refine kept_State_push ?_ | with_reducible refine kept_State_settlePauses ?_
    | with_reducible refine kept_clearStream ?_ | with_reducible refine Kept.ite ?_ ?_
    | with_reducible refine Kept.foldl (fun _ _ _ => ?_) ?_

theorem kept_abortCycle {s0 s : State} (h : Kept s0 s) :
    Kept s0 (abortCycle s) := by
  unfold abortCycle
  try dsimp only
  repeat' first
    | with_reducible assumption | with_reducible refine kept_State_flushBefore ?_
    | with_reducible refine kept_State_advance ?_ | with_reducible refine kept_endAbort ?_
    | with_reducible refine Kept.ite ?_ ?_

theorem kept_stallAt {s0 s : State} {off : Nat} (h : Kept s0 s) :
    Kept s0 (stallAt off s) := by
  unfold stallAt
  try dsimp only
  repeat' first
    | with_reducible assumption | with_reducible refine kept_State_advance ?_ | with_reducible refine kept_bump ?_

theorem kept_cutAccess {s0 s : State} {x : WinAcc} (h : Kept s0 s) :
    Kept s0 (cutAccess s x) := by
  unfold cutAccess
  try dsimp only
  repeat' first
    | with_reducible assumption | with_reducible refine kept_State_late ?_ | with_reducible refine kept_applyWb ?_
    | with_reducible refine kept_State_askStop ?_ | with_reducible refine kept_State_modStr ?_ | split

theorem kept_takeBody {s0 s : State} {cells : List Host.Cell} (h : Kept s0 s) :
    Kept s0 (takeBody cells s) := by
  unfold takeBody
  try dsimp only
  repeat' first | with_reducible assumption | with_reducible refine kept_State_modStr ?_

theorem kept_takeRead {s0 s : State} {bs : List Byte} {x : WinAcc} (h : Kept s0 s) :
    Kept s0 (takeRead bs s x) := by
  unfold takeRead
  try dsimp only
  repeat' first
    | with_reducible assumption | with_reducible refine kept_movPump ?_ | with_reducible refine kept_State_setMov ?_
    | with_reducible refine kept_landScals ?_ | with_reducible refine kept_State_modStr ?_
    | with_reducible refine kept_takeBody ?_ | split

theorem kept_serveBank {s0 s : State} {x : BankAcc} (h : Kept s0 s) :
    Kept s0 (serveBank s x) := by
  unfold serveBank
  try dsimp only
  repeat' first
    | with_reducible assumption | with_reducible refine kept_cutAccess ?_
    | with_reducible refine kept_State_streamWrite ?_ | with_reducible refine kept_State_readOsura ?_
    | with_reducible refine kept_takeRead ?_ | with_reducible refine Kept.ite ?_ ?_
    | with_reducible refine Kept.foldl (fun _ _ _ => ?_) ?_

theorem kept_serveBanks {s0 s : State} {may : Nat → Bool} (h : Kept s0 s) :
    Kept s0 (serveBanks may s) := by
  unfold serveBanks
  try dsimp only
  repeat' first
    | with_reducible assumption | with_reducible refine kept_serveBank ?_ | with_reducible refine kept_State_modStr ?_
    | with_reducible refine Kept.ite ?_ ?_ | with_reducible refine Kept.foldl (fun _ _ _ => ?_) ?_

theorem kept_bankCycle {s0 s : State} (h : Kept s0 s) :
    Kept s0 (bankCycle s) := by
  unfold bankCycle
  try dsimp only
  repeat' first
    | with_reducible assumption | with_reducible refine kept_serveBanks ?_
    | with_reducible refine kept_State_advance ?_ | with_reducible refine kept_bumpBy ?_
    | with_reducible refine kept_State_modStr ?_

theorem kept_drainCycle {s0 s : State} (h : Kept s0 s) :
    Kept s0 (drainCycle s) := by
  unfold drainCycle
  try dsimp only
  repeat' first
    | with_reducible assumption | with_reducible refine kept_State_advance ?_
    | with_reducible refine kept_nextIssue ?_ | with_reducible refine kept_movEnter ?_

theorem kept_settleResults {s0 s : State} (h : Kept s0 s) :
    Kept s0 (settleResults s) := by
  unfold settleResults
  try dsimp only
  repeat' first
    | with_reducible assumption | with_reducible refine kept_State_setScal ?_
    | with_reducible refine kept_State_raiseIn ?_ | with_reducible refine kept_State_modStr ?_
    | with_reducible refine Kept.foldl (fun _ _ _ => ?_) ?_ | split

theorem kept_farLand {s0 s : State} {m : MovInst} (h : Kept s0 s) :
    Kept s0 (farLand m s) := by
  unfold farLand
  try dsimp only
  repeat' first
    | with_reducible assumption | with_reducible refine kept_State_setMov ?_ | with_reducible refine kept_writeRow ?_
    | with_reducible refine Kept.foldl (fun _ _ _ => ?_) ?_ | split

theorem kept_cutMov {s0 s : State} {m : MovInst} (h : Kept s0 s) :
    Kept s0 (cutMov m s) := by
  unfold cutMov
  try dsimp only
  repeat' first
    | with_reducible assumption | with_reducible refine kept_State_modStr ?_
    | with_reducible refine kept_State_setMov ?_
    | fail_if_no_progress with_reducible refine Kept.upd rfl rfl rfl rfl rfl rfl ?_ | split

theorem kept_State_emptyLatches {s0 s : State} (h : Kept s0 s) :
    Kept s0 (State.emptyLatches s) := by
  unfold State.emptyLatches
  try dsimp only
  repeat' first
    | with_reducible assumption | with_reducible refine kept_State_modLane ?_ | with_reducible refine Kept.ite ?_ ?_
    | with_reducible refine Kept.foldl (fun _ _ _ => ?_) ?_

theorem kept_recordStop {s0 s : State} {a : StopAt} (h : Kept s0 s) :
    Kept s0 (recordStop a s) := by
  unfold recordStop
  try dsimp only
  repeat' first
    | with_reducible assumption | with_reducible refine kept_settleResults ?_ | with_reducible refine kept_farLand ?_
    | with_reducible refine kept_cutMov ?_ | with_reducible refine kept_State_fresh ?_
    | with_reducible refine kept_State_modStr ?_ | with_reducible refine kept_State_emptyLatches ?_
    | with_reducible refine kept_State_push ?_ | with_reducible refine kept_refuseEclipse ?_
    | with_reducible refine kept_State_settlePauses ?_ | with_reducible refine Kept.foldl (fun _ _ _ => ?_) ?_
    | fail_if_no_progress with_reducible refine Kept.upd rfl rfl rfl rfl rfl rfl ?_ | split

theorem kept_stopCycle {s0 s : State} {a : StopAt} (h : Kept s0 s) :
    Kept s0 (stopCycle a s) := by
  unfold stopCycle
  try dsimp only
  repeat' first
    | with_reducible assumption | with_reducible refine kept_State_modStr ?_
    | with_reducible refine kept_drainCycle ?_ | with_reducible refine kept_State_advance ?_
    | with_reducible refine kept_recordStop ?_ | with_reducible refine Kept.ite ?_ ?_

theorem kept_waitedStop {s0 s : State} {a : StopAt} (h : Kept s0 s) :
    Kept s0 (waitedStop a s) := by
  unfold waitedStop
  try dsimp only
  repeat' first
    | with_reducible assumption | with_reducible refine kept_abortCycle ?_ | with_reducible refine kept_stopCycle ?_
    | with_reducible refine Kept.ite ?_ ?_

theorem kept_farStop {s0 s : State} {f : FarFault} (h : Kept s0 s) : Kept s0 (farStop f s) := by
  unfold farStop
  exact Kept.ite (kept_stopCycle h) (Kept.ite (kept_drainCycle (kept_bump h)) (kept_stallAt h))

theorem kept_backPump {s0 s : State} (h : Kept s0 s) :
    Kept s0 (backPump s) := by
  unfold backPump
  try dsimp only
  repeat' first
    | with_reducible assumption | with_reducible refine kept_State_lnPut ?_
    | with_reducible refine kept_State_modLn ?_ | with_reducible refine kept_sendPump ?_
    | with_reducible refine kept_tdStart ?_ | with_reducible refine Kept.foldl (fun _ _ _ => ?_) ?_
    | fail_if_no_progress with_reducible refine Kept.upd rfl rfl rfl rfl rfl rfl ?_ | split

theorem kept_stallLate {s0 s : State} (h : Kept s0 s) :
    Kept s0 (stallLate s) := by
  unfold stallLate
  try dsimp only
  repeat' first
    | with_reducible assumption | with_reducible refine kept_bumpBy ?_ | with_reducible refine kept_State_modStr ?_
    | with_reducible refine Kept.ite ?_ ?_

theorem kept_preCycle {s0 s : State} (h : Kept s0 s) :
    KeptM s0 (preCycle s) := by
  unfold preCycle
  try dsimp only
  repeat' first
    | with_reducible assumption | with_reducible refine KeptM.some ?_ | exact KeptM.none
    | with_reducible refine KeptM.ite ?_ ?_ | with_reducible refine kept_State_modStr ?_
    | with_reducible refine kept_bankCycle ?_ | with_reducible refine kept_stallAt ?_
    | with_reducible refine kept_waitedStop ?_ | with_reducible refine kept_farStop ?_
    | with_reducible refine kept_backPump ?_ | with_reducible refine kept_State_advance ?_
    | with_reducible refine kept_flushPump ?_ | with_reducible refine kept_stopCycle ?_
    | with_reducible refine kept_drainCycle ?_ | with_reducible refine kept_recordTrap ?_
    | with_reducible refine kept_State_flushBefore ?_ | split

theorem kept_notFetched {s0 s : State} (h : Kept s0 s) :
    Kept s0 (notFetched s) := by
  unfold notFetched
  try dsimp only
  repeat' first
    | with_reducible assumption | with_reducible refine kept_stallAt ?_ | with_reducible refine kept_stopCycle ?_
    | split

theorem kept_bundleCycle {s0 s : State} {b : Bundle} {len : Nat} (h : Kept s0 s) :
    Kept s0 (bundleCycle b len s) := by
  unfold bundleCycle
  try dsimp only
  repeat' first
    | with_reducible assumption | with_reducible refine kept_stopCycle ?_ | with_reducible refine kept_bump ?_
    | with_reducible refine kept_State_modStr ?_ | with_reducible refine kept_State_forceCow ?_
    | with_reducible refine kept_noteDelays ?_ | with_reducible refine kept_State_advance ?_
    | with_reducible refine kept_issueBundle ?_ | with_reducible refine Kept.foldl (fun _ _ _ => ?_) ?_ | split

theorem kept_streamCycle {s0 s : State} (h : Kept s0 s) :
    Kept s0 (streamCycle s) := by
  unfold streamCycle
  try dsimp only
  repeat' first
    | with_reducible assumption | refine KeptM.out (kept_preCycle ?_) (by assumption)
    | with_reducible refine kept_State_modStr ?_ | with_reducible refine kept_stallAt ?_
    | with_reducible refine kept_stopCycle ?_ | with_reducible refine kept_bundleCycle ?_
    | with_reducible refine kept_notFetched ?_ | split

theorem kept_serveWindows {s0 s : State} (h : Kept s0 s) :
    Kept s0 (serveWindows s) := by
  unfold serveWindows
  try dsimp only
  repeat' first
    | with_reducible assumption | with_reducible refine kept_closeWindows ?_
    | with_reducible refine kept_serveBanks ?_ | with_reducible refine Kept.ite ?_ ?_

theorem kept_fenceStores {s0 s : State} (h : Kept s0 s) :
    Kept s0 (fenceStores s) := by
  unfold fenceStores
  try dsimp only
  repeat' first | with_reducible assumption | with_reducible refine kept_State_modStr ?_

theorem kept_State_setRing {s0 s : State} {n : Nat} {r : HRing} (h : Kept s0 s) :
    Kept s0 (State.setRing s n r) :=
  Kept.upd rfl rfl rfl rfl rfl rfl h

theorem kept_eventRestart {s0 s : State} (h : Kept s0 s) :
    Kept s0 (eventRestart s) :=
  Kept.upd rfl rfl rfl rfl rfl rfl h

theorem kept_ringConfig {s0 s : State} {n : Nat} {v : Nat} (h : Kept s0 s) :
    Kept s0 (ringConfig n v s) := by
  unfold ringConfig
  try dsimp only
  repeat' first
    | with_reducible assumption | with_reducible refine kept_setupIgnored ?_
    | with_reducible refine kept_State_setRing ?_ | with_reducible refine kept_eventRestart ?_
    | with_reducible refine Kept.ite ?_ ?_
    | fail_if_no_progress with_reducible refine Kept.upd rfl rfl rfl rfl rfl rfl ?_

theorem kept_ringBase {s0 s : State} {n : Nat} {base : Nat} (h : Kept s0 s) :
    Kept s0 (ringBase n base s) := by
  unfold ringBase
  try dsimp only
  repeat' first
    | with_reducible assumption | with_reducible refine kept_setupIgnored ?_
    | with_reducible refine kept_State_setRing ?_ | with_reducible refine Kept.ite ?_ ?_

theorem kept_wakeEvent {s0 s : State} {sb : Bool} (h : Kept s0 s) :
    Kept s0 (wakeEvent sb s) := by
  unfold wakeEvent
  try dsimp only
  repeat' first
    | with_reducible assumption | with_reducible refine Kept.ite ?_ ?_
    | fail_if_no_progress with_reducible refine Kept.upd rfl rfl rfl rfl rfl rfl ?_

theorem kept_recPump {s0 s : State} (h : Kept s0 s) :
    Kept s0 (recPump s) := by
  unfold recPump
  try dsimp only
  repeat' first
    | with_reducible assumption | with_reducible refine kept_State_sysWrite ?_
    | with_reducible refine kept_State_pushOrDrop ?_
    | fail_if_no_progress with_reducible refine Kept.upd rfl rfl rfl rfl rfl rfl ?_ | split

theorem kept_doorbell {s0 s : State} {n : Nat} {v : Nat} (h : Kept s0 s) :
    Kept s0 (doorbell n v s) := by
  unfold doorbell
  try dsimp only
  repeat' first
    | with_reducible assumption | with_reducible refine kept_bump ?_ | with_reducible refine kept_State_setRing ?_
    | with_reducible refine kept_recPump ?_ | with_reducible refine kept_wakeEvent ?_
    | with_reducible refine Kept.ite ?_ ?_
    | fail_if_no_progress with_reducible refine Kept.upd rfl rfl rfl rfl rfl rfl ?_

theorem kept_nextseqLo {s0 s : State} {v : Nat} (h : Kept s0 s) :
    Kept s0 (nextseqLo v s) := by
  unfold nextseqLo
  try dsimp only
  repeat' first
    | with_reducible assumption | with_reducible refine kept_setupIgnored ?_ | with_reducible refine Kept.ite ?_ ?_
    | fail_if_no_progress with_reducible refine Kept.upd rfl rfl rfl rfl rfl rfl ?_

theorem kept_nextseqHi {s0 s : State} {v : Nat} (h : Kept s0 s) :
    Kept s0 (nextseqHi v s) := by
  unfold nextseqHi
  try dsimp only
  repeat' first
    | with_reducible assumption | with_reducible refine kept_setupIgnored ?_ | with_reducible refine Kept.ite ?_ ?_
    | fail_if_no_progress with_reducible refine Kept.upd rfl rfl rfl rfl rfl rfl ?_

theorem kept_advanceHead {s0 s : State} {n : Nat} (h : Kept s0 s) :
    Kept s0 (advanceHead n s) :=
  Kept.upd rfl rfl rfl rfl rfl rfl h

theorem kept_takeWork {s0 s : State} {slot : Nat} {bs : List Byte} (h : Kept s0 s) :
    Kept s0 (takeWork slot bs s) := by
  unfold takeWork
  try dsimp only
  repeat' first
    | with_reducible assumption | with_reducible refine kept_State_push ?_ | with_reducible refine kept_advanceHead ?_
    | with_reducible refine Kept.ite ?_ ?_
    | fail_if_no_progress with_reducible refine Kept.upd rfl rfl rfl rfl rfl rfl ?_

theorem kept_takeDesc {s0 s : State} {n : Nat} {slot : Nat} {bs : List Byte} (h : Kept s0 s) :
    Kept s0 (takeDesc n slot bs s) := by
  unfold takeDesc
  try dsimp only
  repeat' first
    | with_reducible assumption | with_reducible refine kept_takeWork ?_ | with_reducible refine kept_advanceHead ?_
    | with_reducible refine Kept.ite ?_ ?_
    | fail_if_no_progress with_reducible refine Kept.upd rfl rfl rfl rfl rfl rfl ?_

theorem kept_State_sysFault {s0 s : State} {reason : Nat} (h : Kept s0 s) :
    Kept s0 (State.sysFault s reason) := by
  unfold State.sysFault
  try dsimp only
  repeat' first | with_reducible assumption | with_reducible refine kept_State_detect ?_

theorem kept_descTake {s0 s : State} {x : Nat × Nat × Nat × List Byte} (h : Kept s0 s) :
    Kept s0 (descTake x s) := by
  unfold descTake
  try dsimp only
  repeat' first
    | with_reducible assumption | with_reducible refine kept_takeDesc ?_ | with_reducible refine kept_State_descErr ?_
    | with_reducible refine Kept.ite ?_ ?_
    | fail_if_no_progress with_reducible refine Kept.upd rfl rfl rfl rfl rfl rfl ?_

theorem kept_roomPump {s0 s : State} (h : Kept s0 s) :
    Kept s0 (roomPump s) := by
  unfold roomPump
  try dsimp only
  repeat' first
    | with_reducible assumption | with_reducible refine kept_descTake ?_ | with_reducible refine kept_ctlPump ?_
    | with_reducible refine Kept.foldl (fun _ _ _ => ?_) ?_

theorem kept_retireGo {s0 x1 : State} {x0 : Nat} (h : Kept s0 x1) :
    Kept s0 (retireGo x0 x1) := by
  induction x0 generalizing x1 with
  | zero =>
    unfold retireGo
    try dsimp only
    repeat' first
      | with_reducible assumption | with_reducible refine Kept.ite ?_ ?_
      | fail_if_no_progress with_reducible refine Kept.upd rfl rfl rfl rfl rfl rfl ?_
  | succ m ih =>
    unfold retireGo
    try dsimp only
    repeat' first
      | with_reducible assumption | with_reducible refine ih ?_ | with_reducible refine Kept.ite ?_ ?_
      | fail_if_no_progress with_reducible refine Kept.upd rfl rfl rfl rfl rfl rfl ?_

theorem kept_recWritten {s0 s : State} {slot : Nat} {ev : Option EvRec} (h : Kept s0 s) :
    Kept s0 (recWritten slot ev s) := by
  unfold recWritten
  refine kept_retireGo (Kept.canon (x := match ev with | some e => s.pushOrDrop e | none => s) rfl rfl
    (fun c => ⟨c.1, c.2.1, c.2.2.1, swf_filter _ c.2.2.2.1, c.2.2.2.2⟩) ?_)
  split
  · exact kept_State_pushOrDrop h
  · exact h

theorem kept_sysAnswer {s0 s : State} {q : SysReq} {status : Nat} {data : List Byte} (h : Kept s0 s) :
    Kept s0 (sysAnswer q status data s) := by
  unfold sysAnswer
  try dsimp only
  repeat' first
    | with_reducible assumption | with_reducible refine kept_descTake ?_ | with_reducible refine kept_evAnswer ?_
    | with_reducible refine kept_recWritten ?_
    | fail_if_no_progress with_reducible refine Kept.upd rfl rfl rfl rfl rfl rfl ?_ | split

theorem kept_eringHead {s0 s : State} {v : Nat} (h : Kept s0 s) :
    Kept s0 (eringHead v s) := by
  unfold eringHead
  try dsimp only
  repeat' first
    | with_reducible assumption | with_reducible refine kept_roomPump ?_ | with_reducible refine kept_evRetry ?_
    | fail_if_no_progress with_reducible refine Kept.upd rfl rfl rfl rfl rfl rfl ?_

theorem kept_launchLanes {s0 s : State} (h : Kept s0 s) :
    Kept s0 (launchLanes s) := by
  unfold launchLanes
  try dsimp only
  repeat' first
    | with_reducible assumption | with_reducible refine kept_State_modLane ?_
    | with_reducible refine Kept.foldl (fun _ _ _ => ?_) ?_

theorem kept_launch {s0 s : State} {slot : Nat} {d : WorkDesc} {p : Profile} (h : Kept s0 s) :
    Kept s0 (launch slot d p s) := by
  unfold launch
  try dsimp only
  repeat' first
    | with_reducible assumption | with_reducible refine kept_applyFar ?_ | with_reducible refine kept_applyShare ?_
    | with_reducible refine kept_launchLanes ?_ | with_reducible refine kept_fetchFrom ?_
    | with_reducible refine kept_State_modStr ?_ | with_reducible refine kept_endLaunch ?_
    | with_reducible refine kept_State_setScal ?_ | with_reducible refine Kept.ite ?_ ?_
    | with_reducible refine Kept.foldl (fun _ _ _ => ?_) ?_
    | fail_if_no_progress with_reducible refine Kept.upd rfl rfl rfl rfl rfl rfl ?_

theorem kept_queueRecord {s0 s : State} {slot : Nat} {word : Nat} {ev : Option EvRec} (h : Kept s0 s) :
    Kept s0 (queueRecord slot word ev s) := by
  unfold queueRecord
  try dsimp only
  repeat' first
    | with_reducible assumption | with_reducible refine kept_recPump ?_
    | fail_if_no_progress with_reducible refine Kept.upd rfl rfl rfl rfl rfl rfl ?_

theorem kept_refuseTransfer {s0 s : State} {slot : Nat} {reason : Nat} {x : Xfer} (h : Kept s0 s) :
    Kept s0 (refuseTransfer slot reason x s) := by
  unfold refuseTransfer
  try dsimp only
  repeat' first
    | with_reducible assumption | with_reducible refine kept_queueRecord ?_
    | with_reducible refine kept_State_descErr ?_

theorem kept_State_clearLn {s0 s : State} {n : Nat} {written : Nat} (h : Kept s0 s) :
    Kept s0 (State.clearLn s n written) := by
  unfold State.clearLn
  try dsimp only
  repeat' first | with_reducible assumption | with_reducible refine kept_State_modLn ?_

theorem kept_lnStallProd {s0 s : State} {n : Nat} {p : LnProd} {buoy : Nat} (h : Kept s0 s) :
    Kept s0 (lnStallProd n p buoy s) := by
  unfold lnStallProd
  try dsimp only
  repeat' first | with_reducible assumption | with_reducible refine kept_lnStall ?_

theorem kept_lnViolation {s0 s : State} {n : Nat} {reason : Nat} (h : Kept s0 s) :
    Kept s0 (lnViolation n reason s) := by
  unfold lnViolation
  try dsimp only
  repeat' first
    | with_reducible assumption | with_reducible refine kept_State_detect ?_
    | with_reducible refine kept_State_modLn ?_

theorem kept_lnCounts {s0 s : State} {c : LnChain} (h : Kept s0 s) :
    Kept s0 (lnCounts c s) := by
  unfold lnCounts
  try dsimp only
  repeat' first
    | with_reducible assumption | with_reducible refine kept_State_complete ?_
    | with_reducible refine Kept.foldl (fun _ _ _ => ?_) ?_ | split

theorem kept_emptyCounts {s0 s : State} {c : LnChain} {b : LnBlock} (h : Kept s0 s) :
    Kept s0 (emptyCounts c b s) := by
  unfold emptyCounts
  try dsimp only
  repeat' first
    | with_reducible assumption | with_reducible refine kept_State_release ?_
    | with_reducible refine kept_blockReleases ?_ | with_reducible refine kept_lnCounts ?_
    | with_reducible refine Kept.ite ?_ ?_ | with_reducible refine Kept.foldl (fun _ _ _ => ?_) ?_

theorem kept_lnReport {s0 s : State} {n : Nat} {slot : Nat} {ctl : Option Nat} {b : LnBlock} (h : Kept s0 s) :
    Kept s0 (lnReport n slot ctl b s) := by
  unfold lnReport
  try dsimp only
  repeat' first
    | with_reducible assumption | with_reducible refine kept_State_chainEv ?_
    | with_reducible refine kept_State_settle ?_ | split

theorem kept_logPump {s0 s : State} (h : Kept s0 s) :
    Kept s0 (logPump s) := by
  unfold logPump
  try dsimp only
  repeat' first
    | with_reducible assumption | with_reducible refine kept_State_logWrite ?_
    | with_reducible refine kept_State_logStateWrite ?_
    | fail_if_no_progress with_reducible refine Kept.upd rfl rfl rfl rfl rfl rfl ?_ | split

theorem kept_areaOpened {s0 s : State} {inB : Bool} (h : Kept s0 s) :
    Kept s0 (areaOpened inB s) := by
  unfold areaOpened
  try dsimp only
  repeat' first
    | with_reducible assumption | with_reducible refine kept_State_lineWrite ?_ | with_reducible refine Kept.ite ?_ ?_
    | with_reducible refine Kept.foldl (fun _ _ _ => ?_) ?_
    | fail_if_no_progress with_reducible refine Kept.upd rfl rfl rfl rfl rfl rfl ?_

theorem kept_logWritten {s0 s : State} {who : MemOwner} (h : Kept s0 s) :
    Kept s0 (logWritten who s) := by
  unfold logWritten
  try dsimp only
  repeat' first
    | with_reducible assumption | with_reducible refine kept_areaOpened ?_ | with_reducible refine kept_logPump ?_
    | fail_if_no_progress with_reducible refine Kept.upd rfl rfl rfl rfl rfl rfl ?_ | split

theorem kept_logEnable {s0 s : State} (h : Kept s0 s) : Kept s0 (logEnable s) := by
  unfold logEnable
  exact Kept.updL rfl rfl rfl (fun e => absurd e Bool.false_ne_true) rfl h

theorem kept_logDisable {s0 s : State} (h : Kept s0 s) :
    Kept s0 (logDisable s) := by
  unfold logDisable
  try dsimp only
  repeat' first
    | with_reducible assumption | fail_if_no_progress with_reducible refine Kept.updL rfl rfl rfl (fun e => e) rfl ?_

theorem kept_restoreStart {s0 s : State} {full : Bool} (h : Kept s0 s) :
    Kept s0 (restoreStart full s) := by
  unfold restoreStart
  try dsimp only
  repeat' first
    | with_reducible assumption | with_reducible refine kept_State_logRead ?_ | with_reducible refine Kept.ite ?_ ?_
    | fail_if_no_progress with_reducible refine Kept.upd rfl rfl rfl rfl rfl rfl ?_

theorem kept_restoreCheck {s0 s : State} (h : Kept s0 s) :
    Kept s0 (restoreCheck s) := by
  unfold restoreCheck
  try dsimp only
  repeat' first
    | with_reducible assumption | with_reducible refine kept_restoreFail ?_
    | with_reducible refine kept_restoreNext ?_
    | fail_if_no_progress with_reducible refine Kept.upd rfl rfl rfl rfl rfl rfl ?_ | split

theorem kept_restoreRead {s0 s : State} {who : MemOwner} {bs : List Byte} (h : Kept s0 s) :
    Kept s0 (restoreRead who bs s) := by
  unfold restoreRead
  try dsimp only
  repeat' first
    | with_reducible assumption | with_reducible refine kept_restoreCheck ?_
    | with_reducible refine kept_State_askOsura ?_
    | fail_if_no_progress with_reducible refine Kept.upd rfl rfl rfl rfl rfl rfl ?_ | split

theorem kept_restoreRegs {s0 s : State} {b : List Byte} (h : Kept s0 s) :
    Kept s0 (restoreRegs b s) := by
  unfold restoreRegs
  try dsimp only
  repeat' first
    | with_reducible assumption | with_reducible refine kept_State_setScal ?_
    | with_reducible refine kept_State_modLane ?_ | with_reducible refine kept_State_setBuoy ?_
    | with_reducible refine Kept.foldl (fun _ _ _ => ?_) ?_
    | fail_if_no_progress with_reducible refine Kept.upd rfl rfl rfl rfl rfl rfl ?_ | split

theorem kept_restoreMoors {s0 s : State} {b : List Byte} (h : Kept s0 s) :
    Kept s0 (restoreMoors b s) := by
  unfold restoreMoors
  try dsimp only
  repeat' first
    | with_reducible assumption | with_reducible refine kept_State_grantFresh ?_
    | with_reducible refine kept_State_setMooring ?_ | with_reducible refine Kept.foldl (fun _ _ _ => ?_) ?_

theorem kept_restoreLog {s0 s : State} {r : LogRestore} {b : List Byte} (h : Kept s0 s) : Kept s0 (restoreLog r b s) := by
  unfold restoreLog
  exact Kept.updL rfl rfl rfl (fun e => absurd e Bool.false_ne_true) rfl h

theorem kept_closePump {s0 s : State} (h : Kept s0 s) :
    Kept s0 (closePump s) := by
  unfold closePump
  try dsimp only
  repeat' first
    | with_reducible assumption | with_reducible refine kept_closeDone ?_
    | fail_if_no_progress with_reducible refine Kept.updL rfl rfl rfl (fun e => e) rfl ?_ | split

theorem kept_withRoom {s0 s : State} {k : State → Host.Outcome State Fault Refusal} (hk : ∀ s, Kept s0 s → KeptO s0 (k s))
 (h : Kept s0 s) : KeptO s0 (withRoom s k) := by
  unfold withRoom
  exact KeptO.ite (hk _ h) (KeptO.next h)

theorem kept_State_takeSpace {s0 s : State} {p : Pkt} (h : Kept s0 s) :
    Kept s0 (State.takeSpace s p) := by
  unfold State.takeSpace
  try dsimp only
  repeat' first | with_reducible assumption | with_reducible refine kept_State_setPort ?_ | split

theorem kept_takeOrHold {s0 s : State} {act : Pkt → State → State} {p : Pkt}
    (ha : ∀ p s, Kept s0 s → Kept s0 (act p s)) (h : Kept s0 s) : Kept s0 (takeOrHold act p s) := by
  unfold takeOrHold
  dsimp only
  split
  · exact ha _ _ (kept_State_takeSpace h)
  · split
    · exact kept_State_setPort (kept_State_takeSpace h)
    · exact kept_State_takeSpace h

theorem kept_arrive {s0 s : State} {port : Nat} {hdr : List Word} {payload : List Byte} {kinds : List Nat}
    {act : Pkt → State → State} (ha : ∀ p s, Kept s0 s → Kept s0 (act p s)) (h : Kept s0 s) :
    KeptO s0 (arrive port hdr payload kinds act s) := by
  unfold arrive
  repeat' first
    | exact KeptO.refused | with_reducible refine KeptO.ite ?_ ?_ | with_reducible refine KeptO.next ?_
    | with_reducible assumption | with_reducible refine kept_deliverPkt ha ?_
    | with_reducible refine kept_takeOrHold (fun _ _ g => kept_deliverPkt ha g) ?_
    | with_reducible refine kept_State_ringFault ?_
    | fail_if_no_progress with_reducible refine Kept.upd rfl rfl rfl rfl rfl rfl ?_ | split | dsimp only

theorem kept_grantMem {s0 s : State} {port : Nat} {r : MemReq} (h : Kept s0 s) :
    KeptM s0 (grantMem port r s) := by
  unfold grantMem
  try dsimp only
  repeat' first
    | with_reducible assumption | with_reducible refine KeptM.some ?_ | exact KeptM.none
    | fail_if_no_progress with_reducible refine Kept.upd rfl rfl rfl rfl rfl rfl ?_ | split

theorem kept_grantFar {s0 s : State} {port : Nat} (h : Kept s0 s) :
    KeptM s0 (grantFar port s) := by
  unfold grantFar
  try dsimp only
  repeat' first
    | with_reducible assumption | exact KeptM.none | with_reducible refine kept_grantMem ?_
    | fail_if_no_progress with_reducible refine Kept.upd rfl rfl rfl rfl rfl rfl ?_ | split

theorem kept_grantLog {s0 s : State} {port : Nat} (h : Kept s0 s) :
    KeptM s0 (grantLog port s) := by
  unfold grantLog
  try dsimp only
  repeat' first
    | with_reducible assumption | exact KeptM.none | with_reducible refine kept_grantMem ?_
    | fail_if_no_progress with_reducible refine Kept.upd rfl rfl rfl rfl rfl rfl ?_ | split

theorem kept_grantHalf {s0 s : State} {half : Nat} {port : Nat} (h : Kept s0 s) :
    KeptM s0 (grantHalf half port s) := by
  unfold grantHalf
  try dsimp only
  repeat' first
    | with_reducible assumption | exact KeptM.none | with_reducible refine kept_State_setChan ?_
    | with_reducible refine kept_grantMem ?_
    | fail_if_no_progress with_reducible refine Kept.upd rfl rfl rfl rfl rfl rfl ?_ | split

theorem kept_State_memError {s0 s : State} {iova : Nat} (h : Kept s0 s) :
    Kept s0 (State.memError s iova) := by
  unfold State.memError
  try dsimp only
  repeat' first | with_reducible assumption | with_reducible refine kept_State_detect ?_

theorem kept_State_memFault {s0 s : State} {port : Nat} {reason : Nat} (h : Kept s0 s) :
    Kept s0 (State.memFault s port reason) := by
  unfold State.memFault
  try dsimp only
  repeat' first | with_reducible assumption | with_reducible refine kept_State_detect ?_

theorem kept_logFault {s0 s : State} {t : MemTag} {reason : Nat} (h : Kept s0 s) :
    Kept s0 (logFault t reason s) := by
  unfold logFault
  try dsimp only
  repeat' first
    | with_reducible assumption | with_reducible refine kept_State_detect ?_
    | fail_if_no_progress with_reducible refine Kept.upd rfl rfl rfl rfl rfl rfl ?_

theorem kept_tdXlate {s0 s : State} {c : Nat} {req : Nat} {dir : Nat} {port : Nat} {iova : Nat} (h : Kept s0 s) :
    Kept s0 (tdXlate c req dir port iova s) := by
  unfold tdXlate
  try dsimp only
  repeat' first
    | with_reducible assumption | with_reducible refine kept_tdAdvance ?_
    | with_reducible refine kept_State_setChan ?_ | with_reducible refine Kept.ite ?_ ?_

theorem kept_tenderXlate {s0 s : State} {c : Nat} {req : Nat} {dir : Nat} {t : MemTag} (h : Kept s0 s) :
    Kept s0 (tenderXlate c req dir t s) := by
  unfold tenderXlate
  try dsimp only
  repeat' first
    | with_reducible assumption | with_reducible refine kept_tdXlate ?_
    | with_reducible refine kept_State_pushOrDrop ?_ | with_reducible refine Kept.ite ?_ ?_
    | fail_if_no_progress with_reducible refine Kept.upd rfl rfl rfl rfl rfl rfl ?_

theorem kept_State_holdTag {s0 s : State} {t : MemTag} {c : Nat} {req : Nat} (h : Kept s0 s) :
    Kept s0 (State.holdTag s t c req) := by
  unfold State.holdTag
  try dsimp only
  repeat' first
    | with_reducible assumption | fail_if_no_progress with_reducible refine Kept.upd rfl rfl rfl rfl rfl rfl ?_
    | split

theorem kept_farData {s0 s : State} {id : Nat} {cl : Nat} {row : Nat} {off : Nat} {bs : List Byte} (h : Kept s0 s) :
    Kept s0 (farData id cl row off bs s) := by
  unfold farData
  try dsimp only
  repeat' first
    | with_reducible assumption | with_reducible refine kept_State_setMov ?_ | with_reducible refine kept_movPump ?_
    | with_reducible refine kept_State_askOsura ?_ | with_reducible refine Kept.foldl (fun _ _ _ => ?_) ?_ | split

theorem kept_farFaulted {s0 s : State} {id : Nat} {cl : Nat} {row : Nat} {port : Nat} {iova : Nat} (h : Kept s0 s) :
    Kept s0 (farFaulted id cl row port iova s) := by
  unfold farFaulted
  try dsimp only
  repeat' first | with_reducible assumption | with_reducible refine kept_State_modStr ?_ | split

theorem kept_readAnswer {s0 s : State} {t : MemTag} {status : Nat} {data : List Byte} (h : Kept s0 s) :
    Kept s0 (readAnswer t status data s) := by
  unfold readAnswer
  try dsimp only
  repeat' first
    | with_reducible assumption | with_reducible refine kept_tdReadDone ?_
    | with_reducible refine kept_State_holdTag ?_ | with_reducible refine kept_tenderXlate ?_
    | with_reducible refine kept_State_memError ?_ | with_reducible refine kept_farData ?_
    | with_reducible refine kept_farFaulted ?_ | with_reducible refine kept_restoreRead ?_
    | with_reducible refine kept_restoreFail ?_ | split

theorem kept_writeAnswer {s0 s : State} {t : MemTag} {status : Nat} (h : Kept s0 s) :
    Kept s0 (writeAnswer t status s) := by
  unfold writeAnswer
  try dsimp only
  repeat' first
    | with_reducible assumption | with_reducible refine kept_tdWriteDone ?_
    | with_reducible refine kept_tenderXlate ?_ | with_reducible refine kept_State_memError ?_
    | with_reducible refine kept_logWritten ?_ | with_reducible refine kept_logFault ?_ | split

theorem kept_tdRegister {s0 s : State} {op : Nat} {c : Nat} (h : Kept s0 s) :
    Kept s0 (tdRegister op c s) := by
  unfold tdRegister
  try dsimp only
  repeat' first
    | with_reducible assumption | with_reducible refine kept_bump ?_ | with_reducible refine kept_State_order ?_
    | with_reducible refine kept_State_tndBack ?_ | with_reducible refine kept_tdCommand ?_
    | with_reducible refine Kept.ite ?_ ?_
    | fail_if_no_progress with_reducible refine Kept.upd rfl rfl rfl rfl rfl rfl ?_

theorem kept_demoteHeads {s0 x2 : State} {x0 : Nat} {x1 : Nat} (h : Kept s0 x2) :
    Kept s0 (demoteHeads x0 x1 x2) := by
  induction x0 generalizing x1 x2 with
  | zero =>
    unfold demoteHeads
    try dsimp only
    repeat' first
      | with_reducible assumption | with_reducible refine kept_State_freeSpace ?_ | with_reducible refine kept_bump ?_
      | with_reducible refine kept_State_setPort ?_ | split
  | succ m ih =>
    unfold demoteHeads
    try dsimp only
    repeat' first
      | with_reducible assumption | with_reducible refine ih ?_ | with_reducible refine kept_State_freeSpace ?_
      | with_reducible refine kept_bump ?_ | with_reducible refine kept_State_setPort ?_ | split

theorem kept_State_evalDiv {s0 s : State} (h : Kept s0 s) :
    Kept s0 (State.evalDiv s) :=
  Kept.upd rfl rfl rfl rfl rfl rfl h

theorem kept_powerReset {s0 s : State} {last : Nat} {brown : Bool} (h : Kept s0 s) :
    Kept s0 (powerReset last brown s) :=
  Kept.of_inv (x := s) rfl (fun g => ⟨⟨rfl, rfl⟩, ⟨rfl, Nat.zero_le _, fun e => by cases e⟩, ⟨g.2.2.1.1, g.2.2.1.2⟩,
    Nat.zero_le _, (fun e => by cases e), ⟨rfl, rfl, rfl, rfl, rfl, rfl, rfl⟩⟩) h

theorem kept_darkenForReset {s0 s : State} (h : Kept s0 s) :
    Kept s0 (darkenForReset s) := by
  unfold darkenForReset
  try dsimp only
  repeat' first
    | with_reducible assumption | with_reducible refine kept_State_powerAsk ?_
    | with_reducible refine Kept.foldl (fun _ _ _ => ?_) ?_ | split

theorem kept_dropSwap {s0 s : State} (h : Kept s0 s) :
    Kept s0 (dropSwap s) := by
  unfold dropSwap
  try dsimp only
  repeat' first | with_reducible assumption | with_reducible refine kept_State_powerOff ?_ | split

theorem kept_blockReset {s0 s : State} (h : Kept s0 s) : Kept s0 (blockReset s) := by
  have h1 : Kept s0 (darkenForReset (dropSwap s)) := kept_darkenForReset (kept_dropSwap h)
  have e1 : (blockReset s).osura.data = (darkenForReset (dropSwap s)).osura.data := by simp only [blockReset]
  have e2 : (blockReset s).osura.check = (darkenForReset (dropSwap s)).osura.check := by simp only [blockReset]
  have e3 : (blockReset s).dm = (darkenForReset (dropSwap s)).dm := by simp only [blockReset]
  have e4 : (blockReset s).tw = (darkenForReset (dropSwap s)).tw := by simp only [blockReset]
  have e5 : (blockReset s).rst.pstate = 0 := by simp only [blockReset]; rfl
  have e6 : (blockReset s).log.haveMark = false := by simp only [blockReset]; rfl
  have e7 : (blockReset s).pending = (darkenForReset (dropSwap s)).pending := by simp only [blockReset]
  have e8 : (blockReset s).osura.secs = (upTo 64).foldl (fun m k =>
      sset SecCtl.fresh m k ((darkenForReset (dropSwap s)).secCtl k).atReset) [] := by simp only [blockReset]
  refine Kept.of_inv e7 (fun g => ?_) h1
  simp only [State.Inv, Memory.wf] at g ⊢
  rw [e1, e2, e3, e4, e5, e6]
  exact ⟨g.1, g.2.1, g.2.2.1, Nat.zero_le _, fun e => absurd e Bool.false_ne_true,
    ⟨rfl, rfl, rfl, rfl, rfl, by rw [e8]; exact swf_foldl _ _ _ rfl, rfl⟩⟩

theorem kept_assertReset {s0 s : State} (h : Kept s0 s) :
    Kept s0 (assertReset s) := by
  unfold assertReset
  try dsimp only
  repeat' first
    | with_reducible assumption | with_reducible refine kept_blockReset ?_ | with_reducible refine Kept.ite ?_ ?_
    | fail_if_no_progress with_reducible refine Kept.upd rfl rfl rfl rfl rfl rfl ?_

theorem kept_repower {s0 s : State} (h : Kept s0 s) :
    Kept s0 (repower s) := by
  unfold repower
  try dsimp only
  repeat' first
    | with_reducible assumption | with_reducible refine kept_State_powerAsk ?_ | with_reducible refine Kept.ite ?_ ?_
    | with_reducible refine Kept.foldl (fun _ _ _ => ?_) ?_

theorem kept_bringUp {s0 s : State} (h : Kept s0 s) :
    Kept s0 (bringUp s) := by
  unfold bringUp
  try dsimp only
  repeat' first
    | with_reducible assumption | with_reducible refine kept_State_powerAsk ?_ | with_reducible refine Kept.ite ?_ ?_
    | with_reducible refine Kept.foldl (fun _ _ _ => ?_) ?_
    | fail_if_no_progress with_reducible refine Kept.upd rfl rfl rfl rfl rfl rfl ?_

theorem kept_bistStart {s0 s : State} (h : Kept s0 s) :
    Kept s0 (bistStart s) := by
  unfold bistStart
  try dsimp only
  repeat' first
    | with_reducible assumption | with_reducible refine Kept.ite ?_ ?_
    | fail_if_no_progress with_reducible refine Kept.upd rfl rfl rfl rfl rfl rfl ?_

theorem kept_bringUpFault {s0 s : State} {reason : Nat} {p : Nat} (h : Kept s0 s) :
    Kept s0 (bringUpFault reason p s) := by
  unfold bringUpFault
  try dsimp only
  repeat' first
    | with_reducible assumption | with_reducible refine kept_State_setPc ?_ | with_reducible refine kept_faultEvent ?_
    | fail_if_no_progress with_reducible refine Kept.upd rfl rfl rfl rfl rfl rfl ?_ | split

theorem kept_fenceOff {s0 s : State} {p : Nat} (h : Kept s0 s) :
    Kept s0 (fenceOff p s) := by
  unfold fenceOff
  try dsimp only
  repeat' first
    | with_reducible assumption | with_reducible refine kept_State_setPc ?_
    | with_reducible refine kept_State_powerAsk ?_ | with_reducible refine Kept.ite ?_ ?_

theorem kept_powerFail {s0 s : State} {dom : Nat} (h : Kept s0 s) :
    Kept s0 (powerFail dom s) := by
  unfold powerFail
  try dsimp only
  repeat' first
    | with_reducible assumption | with_reducible refine kept_bistStart ?_ | with_reducible refine kept_bringUpFault ?_
    | with_reducible refine kept_fenceOff ?_ | with_reducible refine kept_State_detect ?_
    | with_reducible refine Kept.ite ?_ ?_

theorem kept_powerGood {s0 s : State} {dom : Nat} {op : Nat} (h : Kept s0 s) :
    Kept s0 (powerGood dom op s) := by
  unfold powerGood
  try dsimp only
  repeat' first
    | with_reducible assumption | with_reducible refine kept_lightNext ?_
    | with_reducible refine kept_State_powerOff ?_ | with_reducible refine kept_bistStart ?_
    | with_reducible refine Kept.ite ?_ ?_
    | fail_if_no_progress with_reducible refine Kept.upd rfl rfl rfl rfl rfl rfl ?_

theorem kept_sbIgnored {s0 s : State} (h : Kept s0 s) :
    Kept s0 (sbIgnored s) := by
  unfold sbIgnored
  try dsimp only
  repeat' first | with_reducible assumption | with_reducible refine kept_bump ?_

theorem kept_wakeResume {s0 s : State} (h : Kept s0 s) :
    Kept s0 (wakeResume s) := by
  unfold wakeResume
  try dsimp only
  repeat' first
    | with_reducible assumption | with_reducible refine kept_State_powerAsk ?_
    | with_reducible refine Kept.foldl (fun _ _ _ => ?_) ?_
    | fail_if_no_progress with_reducible refine Kept.upd rfl rfl rfl rfl rfl rfl ?_ | split

theorem kept_powerNext {s0 s : State} (h : Kept s0 s) :
    Kept s0 (powerNext s) := by
  unfold powerNext
  try dsimp only
  repeat' first
    | with_reducible assumption | with_reducible refine kept_wakeResume ?_ | with_reducible refine kept_clusterPump ?_

theorem kept_enterEclipse {s0 s : State} (h : Kept s0 s) : Kept s0 (enterEclipse s) := by
  unfold enterEclipse
  dsimp only
  generalize hg : List.foldl (fun (s : State) (d : Nat) => s.powerAsk d 0) _ _ = y
  have hy : Kept s0 y := by
    rw [← hg]
    repeat' first
      | with_reducible assumption | with_reducible refine kept_State_powerAsk ?_
      | with_reducible refine kept_State_modSec ?_ | with_reducible refine Kept.foldl (fun _ _ _ => ?_) ?_
      | fail_if_no_progress with_reducible refine Kept.upd rfl rfl rfl rfl rfl rfl ?_ | split
  exact Kept.canon (x := y) rfl rfl (fun c => ⟨rfl, swf_filter _ c.2.1, rfl, c.2.2.2⟩) hy

theorem kept_startWake {s0 s : State} (h : Kept s0 s) :
    Kept s0 (startWake s) := by
  unfold startWake
  try dsimp only
  repeat' first
    | with_reducible assumption | with_reducible refine kept_wakeResume ?_
    | with_reducible refine kept_State_powerAsk ?_ | with_reducible refine Kept.foldl (fun _ _ _ => ?_) ?_
    | fail_if_no_progress with_reducible refine Kept.updP rfl rfl (by dsimp only; decide) rfl rfl rfl ?_

theorem kept_endWake {s0 s : State} (h : Kept s0 s) :
    Kept s0 (endWake s) := by
  unfold endWake
  try dsimp only
  repeat' first
    | with_reducible assumption | with_reducible refine kept_State_modSec ?_
    | with_reducible refine kept_State_modLane ?_ | with_reducible refine kept_State_startPort ?_
    | with_reducible refine kept_blockReset ?_ | with_reducible refine kept_repower ?_
    | with_reducible refine Kept.ite ?_ ?_ | with_reducible refine Kept.foldl (fun _ _ _ => ?_) ?_
    | fail_if_no_progress with_reducible refine Kept.updP rfl rfl (by dsimp only; decide) rfl rfl rfl ?_

theorem kept_windowRead {s0 s : State} {w : Nat} {off : Nat} (h : Kept s0 s) :
    Kept s0 (windowRead w off s).2.2 := by
  unfold windowRead
  try dsimp only
  repeat' first
    | with_reducible assumption | fail_if_no_progress with_reducible refine Kept.upd rfl rfl rfl rfl rfl rfl ?_
    | split

theorem kept_windowRead' {s0 s t : State} {w : Nat} {off : Nat} {r1 r2} (e : (windowRead w off s) = (r1, r2, t)) (h : Kept s0 s) : Kept s0 t := by
  have h2 : Kept s0 (windowRead w off s).2.2 := kept_windowRead h
  rw [e] at h2
  exact h2

theorem kept_clusterWrite {s0 s : State} {off : Nat} {v : Nat} {ms : List (Nat × Nat)} (h : Kept s0 s) :
    Kept s0 (clusterWrite off v ms s) := by
  unfold clusterWrite
  try dsimp only
  repeat' first
    | with_reducible assumption | with_reducible refine kept_setupIgnored ?_
    | with_reducible refine kept_State_modLane ?_ | with_reducible refine Kept.ite ?_ ?_
    | with_reducible refine Kept.foldl (fun _ _ _ => ?_) ?_ | with_reducible refine Kept.foldl2 (fun _ _ _ => ?_) ?_
    | with_reducible refine Kept.foldl3 (fun _ _ _ => ?_) ?_
    | fail_if_no_progress with_reducible refine Kept.upd rfl rfl rfl rfl rfl rfl ?_
    | fail_if_no_progress with_reducible refine Kept.updP rfl rfl (by dsimp only; decide) rfl rfl rfl ?_
    | fail_if_no_progress with_reducible refine Kept.updL rfl rfl rfl (fun e => e) rfl ?_
    | fail_if_no_progress with_reducible refine Kept.updL rfl rfl rfl (fun e => absurd e Bool.false_ne_true) rfl ?_
    | split | dsimp only

theorem kept_windowWrite {s0 s : State} {w : Nat} {off : Nat} {v : Nat} (h : Kept s0 s) :
    Kept s0 (windowWrite w off v s).2 := by
  unfold windowWrite
  try dsimp only
  repeat' first
    | with_reducible assumption | with_reducible refine kept_setupIgnored ?_
    | with_reducible refine kept_clusterWrite ?_ | split

theorem kept_windowWrite' {s0 s t : State} {w : Nat} {off : Nat} {v : Nat} {r1} (e : (windowWrite w off v s) = (r1, t)) (h : Kept s0 s) : Kept s0 t := by
  have h2 : Kept s0 (windowWrite w off v s).2 := kept_windowWrite h
  rw [e] at h2
  exact h2

theorem kept_clearOnRead {s0 s : State} {a : Nat} (h : Kept s0 s) : Kept s0 (clearOnRead a s) := by
  unfold clearOnRead
  refine Kept.ite h ?_
  split
  · split
    · exact Kept.ite (Kept.canon (x := s) rfl rfl (fun c => ⟨c.1, c.2.1, swf_sset _ _ c.2.2.1, c.2.2.2⟩) h) h
    · exact h
  · exact Kept.ite (Kept.canon (x := s) rfl rfl (fun c => ⟨c.1, swf_sset _ _ c.2.1, c.2.2⟩) h) h

theorem kept_regRead {s0 s : State} {a : Nat} (h : Kept s0 s) :
    Kept s0 (regRead a s).2.2 := by
  unfold regRead
  try dsimp only
  repeat' first
    | with_reducible assumption | with_reducible refine kept_windowRead ?_ | with_reducible refine kept_clearOnRead ?_
    | split

theorem kept_regRead' {s0 s t : State} {a : Nat} {r1 r2} (e : (regRead a s) = (r1, r2, t)) (h : Kept s0 s) : Kept s0 t := by
  have h2 : Kept s0 (regRead a s).2.2 := kept_regRead h
  rw [e] at h2
  exact h2

theorem kept_answerRead {s0 : State} {r : Nat × Bool × State} (h : Kept s0 r.2.2) : Kept s0 (answerRead r) :=
  Kept.upd rfl rfl rfl rfl rfl rfl h

theorem kept_cmdPause {s0 s : State} (h : Kept s0 s) : Kept s0 (cmdPause s) := by
  unfold cmdPause
  exact kept_State_order (kept_askPause h)

theorem kept_cmdResume {s0 s : State} (h : Kept s0 s) : Kept s0 (cmdResume s) := by
  unfold cmdResume
  exact kept_askResume (Kept.ite (kept_State_order h) h)

theorem kept_keeperCmd {s0 s : State} {v : Nat} (h : Kept s0 s) :
    Kept s0 (keeperCmd v s) := by
  unfold keeperCmd
  exact Kept.ite (kept_cmdResume (Kept.ite (kept_cmdPause h) h)) (Kept.ite (kept_cmdPause h) h)

theorem kept_keeperWrite {s0 s : State} {a : Nat} {v : Nat} (h : Kept s0 s) :
    Kept s0 (keeperWrite a v s) := by
  unfold keeperWrite
  try dsimp only
  repeat' first
    | with_reducible assumption | with_reducible refine kept_keeperCmd ?_ | with_reducible refine kept_nextseqLo ?_
    | with_reducible refine kept_nextseqHi ?_ | with_reducible refine Kept.ite ?_ ?_
    | fail_if_no_progress with_reducible refine Kept.upd rfl rfl rfl rfl rfl rfl ?_

theorem kept_hostRingWrite {s0 s : State} {a : Nat} {v : Nat} (h : Kept s0 s) :
    Kept s0 (hostRingWrite a v s) := by
  unfold hostRingWrite
  try dsimp only
  repeat' first
    | with_reducible assumption | with_reducible refine kept_doorbell ?_ | with_reducible refine kept_ringBase ?_
    | with_reducible refine kept_ringConfig ?_ | with_reducible refine kept_eringHead ?_
    | with_reducible refine Kept.ite ?_ ?_

theorem kept_fogWrite {s0 s : State} {v : Nat} (h : Kept s0 s) :
    Kept s0 (fogWrite v s) :=
  Kept.upd rfl rfl rfl rfl rfl rfl h

theorem kept_clkWrite {s0 s : State} {v : Nat} (h : Kept s0 s) :
    Kept s0 (clkWrite v s) := by
  unfold clkWrite
  try dsimp only
  repeat' first
    | with_reducible assumption | with_reducible refine kept_State_evalDiv ?_ | with_reducible refine Kept.ite ?_ ?_
    | fail_if_no_progress with_reducible refine Kept.upd rfl rfl rfl rfl rfl rfl ?_

theorem kept_faultSeen {s0 s : State} (h : Kept s0 s) :
    Kept s0 (faultSeen s) := by
  unfold faultSeen
  try dsimp only
  repeat' first
    | with_reducible assumption | fail_if_no_progress with_reducible refine Kept.upd rfl rfl rfl rfl rfl rfl ?_
    | split

theorem kept_clockWrite {s0 s : State} {a : Nat} {v : Nat} (h : Kept s0 s) :
    Kept s0 (clockWrite a v s) := by
  unfold clockWrite
  try dsimp only
  repeat' first
    | with_reducible assumption | with_reducible refine kept_clkWrite ?_ | with_reducible refine kept_fogWrite ?_
    | with_reducible refine kept_faultSeen ?_ | with_reducible refine kept_unfence ?_
    | with_reducible refine Kept.ite ?_ ?_
    | fail_if_no_progress with_reducible refine Kept.upd rfl rfl rfl rfl rfl rfl ?_

theorem kept_mapWrite {s0 s : State} {a : Nat} {v : Nat} (h : Kept s0 s) :
    Kept s0 (mapWrite a v s) := by
  unfold mapWrite
  try dsimp only
  repeat' first
    | with_reducible assumption | with_reducible refine Kept.ite ?_ ?_
    | fail_if_no_progress with_reducible refine Kept.upd rfl rfl rfl rfl rfl rfl ?_

theorem kept_osuraWrite {s0 s : State} {a : Nat} {v : Nat} (h : Kept s0 s) :
    Kept s0 (osuraWrite a v s) := by
  unfold osuraWrite
  try dsimp only
  repeat' first
    | with_reducible assumption | with_reducible refine kept_captureBuoy ?_ | with_reducible refine Kept.ite ?_ ?_
    | fail_if_no_progress with_reducible refine Kept.upd rfl rfl rfl rfl rfl rfl ?_

theorem kept_farWrite {s0 s : State} {f : FarCfg → FarCfg} (h : Kept s0 s) :
    Kept s0 (farWrite f s) :=
  Kept.upd rfl rfl rfl rfl rfl rfl h

theorem kept_engFlagsClear {s0 s : State} {v : Nat} (h : Kept s0 s) :
    Kept s0 (engFlagsClear v s) := by
  unfold engFlagsClear
  try dsimp only
  repeat' first
    | with_reducible assumption | with_reducible refine kept_setupIgnored ?_
    | with_reducible refine kept_State_clearLn ?_ | with_reducible refine kept_State_modLane ?_
    | with_reducible refine Kept.ite ?_ ?_ | with_reducible refine Kept.foldl (fun _ _ _ => ?_) ?_

theorem kept_trapCtl {s0 s : State} {v : Nat} (h : Kept s0 s) :
    Kept s0 (trapCtl v s) :=
  Kept.upd rfl rfl rfl rfl rfl rfl h

theorem kept_streamWrite {s0 s : State} {a : Nat} {v : Nat} (h : Kept s0 s) :
    Kept s0 (streamWrite a v s) := by
  unfold streamWrite
  try dsimp only
  repeat' first
    | with_reducible assumption | with_reducible refine kept_farWrite ?_ | with_reducible refine kept_trapCtl ?_
    | with_reducible refine kept_engFlagsClear ?_ | with_reducible refine Kept.ite ?_ ?_
    | with_reducible refine Kept.foldl (fun _ _ _ => ?_) ?_ | with_reducible refine Kept.foldl2 (fun _ _ _ => ?_) ?_
    | with_reducible refine Kept.foldl3 (fun _ _ _ => ?_) ?_
    | fail_if_no_progress with_reducible refine Kept.upd rfl rfl rfl rfl rfl rfl ?_
    | fail_if_no_progress with_reducible refine Kept.updP rfl rfl (by dsimp only; decide) rfl rfl rfl ?_
    | fail_if_no_progress with_reducible refine Kept.updL rfl rfl rfl (fun e => e) rfl ?_
    | fail_if_no_progress with_reducible refine Kept.updL rfl rfl rfl (fun e => absurd e Bool.false_ne_true) rfl ?_
    | split | dsimp only

theorem kept_lanternWrite {s0 s : State} {a : Nat} {v : Nat} (h : Kept s0 s) :
    Kept s0 (lanternWrite a v s) := by
  unfold lanternWrite
  try dsimp only
  repeat' first
    | with_reducible assumption | with_reducible refine kept_State_modLn ?_
    | with_reducible refine kept_setupIgnored ?_ | with_reducible refine kept_State_clearLn ?_
    | with_reducible refine Kept.ite ?_ ?_
    | fail_if_no_progress with_reducible refine Kept.upd rfl rfl rfl rfl rfl rfl ?_

theorem kept_tdCmdWrite {s0 s : State} {v : Nat} (h : Kept s0 s) :
    Kept s0 (tdCmdWrite v s) := by
  unfold tdCmdWrite
  try dsimp only
  repeat' first
    | with_reducible assumption | with_reducible refine kept_tdRegister ?_ | with_reducible refine Kept.ite ?_ ?_

theorem kept_tenderWrite {s0 s : State} {a : Nat} {v : Nat} (h : Kept s0 s) :
    Kept s0 (tenderWrite a v s) := by
  unfold tenderWrite
  try dsimp only
  repeat' first
    | with_reducible assumption | with_reducible refine kept_tdCmdWrite ?_ | with_reducible refine Kept.ite ?_ ?_
    | fail_if_no_progress with_reducible refine Kept.upd rfl rfl rfl rfl rfl rfl ?_

theorem kept_ringIdWrite {s0 s : State} {f : Ring → Ring} (h : Kept s0 s) :
    Kept s0 (ringIdWrite f s) := by
  unfold ringIdWrite
  try dsimp only
  repeat' first
    | with_reducible assumption | with_reducible refine kept_bump ?_ | with_reducible refine Kept.ite ?_ ?_
    | with_reducible refine Kept.foldl (fun _ _ _ => ?_) ?_ | with_reducible refine Kept.foldl2 (fun _ _ _ => ?_) ?_
    | with_reducible refine Kept.foldl3 (fun _ _ _ => ?_) ?_
    | fail_if_no_progress with_reducible refine Kept.upd rfl rfl rfl rfl rfl rfl ?_
    | fail_if_no_progress with_reducible refine Kept.updP rfl rfl (by dsimp only; decide) rfl rfl rfl ?_
    | fail_if_no_progress with_reducible refine Kept.updL rfl rfl rfl (fun e => e) rfl ?_
    | fail_if_no_progress with_reducible refine Kept.updL rfl rfl rfl (fun e => absurd e Bool.false_ne_true) rfl ?_
    | split | dsimp only

theorem kept_ringCfgWrite {s0 s : State} {v : Nat} (h : Kept s0 s) :
    Kept s0 (ringCfgWrite v s) := by
  unfold ringCfgWrite
  try dsimp only
  repeat' first
    | with_reducible assumption | with_reducible refine kept_sendAll ?_
    | with_reducible refine kept_State_startPort ?_ | with_reducible refine Kept.ite ?_ ?_
    | with_reducible refine Kept.foldl (fun _ _ _ => ?_) ?_ | with_reducible refine Kept.foldl2 (fun _ _ _ => ?_) ?_
    | with_reducible refine Kept.foldl3 (fun _ _ _ => ?_) ?_
    | fail_if_no_progress with_reducible refine Kept.upd rfl rfl rfl rfl rfl rfl ?_
    | fail_if_no_progress with_reducible refine Kept.updP rfl rfl (by dsimp only; decide) rfl rfl rfl ?_
    | fail_if_no_progress with_reducible refine Kept.updL rfl rfl rfl (fun e => e) rfl ?_
    | fail_if_no_progress with_reducible refine Kept.updL rfl rfl rfl (fun e => absurd e Bool.false_ne_true) rfl ?_
    | split | dsimp only

theorem kept_captureMoor {s0 s : State} {v : Nat} (h : Kept s0 s) :
    Kept s0 (captureMoor v s) :=
  Kept.upd rfl rfl rfl rfl rfl rfl h

theorem kept_ringWrite {s0 s : State} {a : Nat} {v : Nat} (h : Kept s0 s) :
    Kept s0 (ringWrite a v s) := by
  unfold ringWrite
  try dsimp only
  repeat' first
    | with_reducible assumption | with_reducible refine kept_ringIdWrite ?_
    | with_reducible refine kept_ringCfgWrite ?_ | with_reducible refine kept_captureMoor ?_
    | with_reducible refine Kept.ite ?_ ?_
    | fail_if_no_progress with_reducible refine Kept.upd rfl rfl rfl rfl rfl rfl ?_

theorem kept_logStop {s0 s : State} (h : Kept s0 s) :
    Kept s0 (logStop s) := by
  unfold logStop
  try dsimp only
  repeat' first
    | with_reducible assumption | with_reducible refine kept_closePump ?_ | with_reducible refine kept_logQuiet ?_
    | with_reducible refine kept_logDisable ?_

theorem kept_logCfg {s0 s : State} {v : Nat} (h : Kept s0 s) :
    Kept s0 (logCfg v s) := by
  unfold logCfg
  try dsimp only
  repeat' first
    | with_reducible assumption | with_reducible refine kept_logEnable ?_ | with_reducible refine kept_logStop ?_
    | with_reducible refine Kept.ite ?_ ?_ | with_reducible refine Kept.foldl (fun _ _ _ => ?_) ?_
    | with_reducible refine Kept.foldl2 (fun _ _ _ => ?_) ?_ | with_reducible refine Kept.foldl3 (fun _ _ _ => ?_) ?_
    | fail_if_no_progress with_reducible refine Kept.upd rfl rfl rfl rfl rfl rfl ?_
    | fail_if_no_progress with_reducible refine Kept.updP rfl rfl (by dsimp only; decide) rfl rfl rfl ?_
    | fail_if_no_progress with_reducible refine Kept.updL rfl rfl rfl (fun e => e) rfl ?_
    | fail_if_no_progress with_reducible refine Kept.updL rfl rfl rfl (fun e => absurd e Bool.false_ne_true) rfl ?_
    | split | dsimp only

theorem kept_logBase {s0 s : State} {inB : Bool} {f : Nat → Nat} (h : Kept s0 s) :
    Kept s0 (logBase inB f s) := by
  unfold logBase
  try dsimp only
  repeat' first
    | with_reducible assumption | with_reducible refine kept_setupIgnored ?_ | with_reducible refine Kept.ite ?_ ?_
    | with_reducible refine Kept.foldl (fun _ _ _ => ?_) ?_ | with_reducible refine Kept.foldl2 (fun _ _ _ => ?_) ?_
    | with_reducible refine Kept.foldl3 (fun _ _ _ => ?_) ?_
    | fail_if_no_progress with_reducible refine Kept.upd rfl rfl rfl rfl rfl rfl ?_
    | fail_if_no_progress with_reducible refine Kept.updP rfl rfl (by dsimp only; decide) rfl rfl rfl ?_
    | fail_if_no_progress with_reducible refine Kept.updL rfl rfl rfl (fun e => e) rfl ?_
    | fail_if_no_progress with_reducible refine Kept.updL rfl rfl rfl (fun e => absurd e Bool.false_ne_true) rfl ?_
    | split | dsimp only

theorem kept_logCmd {s0 s : State} {v : Nat} (h : Kept s0 s) :
    Kept s0 (logCmd v s) := by
  unfold logCmd
  try dsimp only
  repeat' first
    | with_reducible assumption | with_reducible refine kept_restoreStart ?_ | with_reducible refine Kept.ite ?_ ?_

theorem kept_logStatusWrite {s0 s : State} {v : Nat} (h : Kept s0 s) :
    Kept s0 (logStatusWrite v s) := by
  unfold logStatusWrite
  try dsimp only
  repeat' first
    | with_reducible assumption | with_reducible refine kept_logPump ?_ | with_reducible refine Kept.ite ?_ ?_
    | fail_if_no_progress with_reducible refine Kept.upd rfl rfl rfl rfl rfl rfl ?_

theorem kept_logWriteReg {s0 s : State} {a : Nat} {v : Nat} (h : Kept s0 s) :
    Kept s0 (logWriteReg a v s) := by
  unfold logWriteReg
  try dsimp only
  repeat' first
    | with_reducible assumption | with_reducible refine kept_logCfg ?_ | with_reducible refine kept_logStatusWrite ?_
    | with_reducible refine kept_logCmd ?_ | with_reducible refine kept_logBase ?_
    | with_reducible refine Kept.ite ?_ ?_ | with_reducible refine Kept.foldl (fun _ _ _ => ?_) ?_
    | with_reducible refine Kept.foldl2 (fun _ _ _ => ?_) ?_ | with_reducible refine Kept.foldl3 (fun _ _ _ => ?_) ?_
    | fail_if_no_progress with_reducible refine Kept.upd rfl rfl rfl rfl rfl rfl ?_
    | fail_if_no_progress with_reducible refine Kept.updP rfl rfl (by dsimp only; decide) rfl rfl rfl ?_
    | fail_if_no_progress with_reducible refine Kept.updL rfl rfl rfl (fun e => e) rfl ?_
    | fail_if_no_progress with_reducible refine Kept.updL rfl rfl rfl (fun e => absurd e Bool.false_ne_true) rfl ?_
    | split | dsimp only

theorem kept_cntCtl {s0 s : State} {v : Nat} (h : Kept s0 s) : Kept s0 (cntCtl v s) := by
  unfold cntCtl
  exact Kept.ite (Kept.canon (x := s) rfl rfl (fun c => ⟨c.1, rfl, rfl, c.2.2.2⟩) h) (Kept.upd rfl rfl rfl rfl rfl rfl h)

theorem kept_traceCfg {s0 s : State} {v : Nat} (h : Kept s0 s) :
    Kept s0 (traceCfg v s) := by
  unfold traceCfg
  try dsimp only
  repeat' first
    | with_reducible assumption | with_reducible refine kept_traceLine ?_ | with_reducible refine Kept.ite ?_ ?_
    | fail_if_no_progress with_reducible refine Kept.upd rfl rfl rfl rfl rfl rfl ?_

theorem kept_observeWrite {s0 s : State} {a v : Nat} (h : Kept s0 s) : Kept s0 (observeWrite a v s) := by
  unfold observeWrite
  have ht : Kept s0 { s with tw := { s.tw with tested := false } } := Kept.of_inv (x := s) rfl (fun g => g) h
  repeat' first
    | with_reducible assumption | with_reducible refine kept_cntCtl ?_ | with_reducible refine kept_traceCfg ?_
    | with_reducible refine kept_bistCommand ?_ | with_reducible refine Kept.ite ?_ ?_
    | fail_if_no_progress with_reducible refine Kept.upd rfl rfl rfl rfl rfl rfl ?_

theorem kept_unicastWrite {s0 s : State} {n : Nat} {off : Nat} {v : Nat} (h : Kept s0 s) :
    Kept s0 (unicastWrite n off v s) := by
  unfold unicastWrite
  try dsimp only
  repeat' first
    | with_reducible assumption | with_reducible refine kept_clusterWrite ?_
    | with_reducible refine kept_setupIgnored ?_ | with_reducible refine Kept.ite ?_ ?_
    | with_reducible refine Kept.foldl (fun _ _ _ => ?_) ?_ | with_reducible refine Kept.foldl2 (fun _ _ _ => ?_) ?_
    | with_reducible refine Kept.foldl3 (fun _ _ _ => ?_) ?_
    | fail_if_no_progress with_reducible refine Kept.upd rfl rfl rfl rfl rfl rfl ?_
    | fail_if_no_progress with_reducible refine Kept.updP rfl rfl (by dsimp only; decide) rfl rfl rfl ?_
    | fail_if_no_progress with_reducible refine Kept.updL rfl rfl rfl (fun e => e) rfl ?_
    | fail_if_no_progress with_reducible refine Kept.updL rfl rfl rfl (fun e => absurd e Bool.false_ne_true) rfl ?_
    | split | dsimp only

theorem kept_regEffect {s0 s : State} {a : Nat} {v : Nat} (h : Kept s0 s) :
    Kept s0 (regEffect a v s) := by
  unfold regEffect
  try dsimp only
  repeat' first
    | with_reducible assumption | with_reducible refine kept_unicastWrite ?_
    | with_reducible refine kept_keeperWrite ?_ | with_reducible refine kept_hostRingWrite ?_
    | with_reducible refine kept_clockWrite ?_ | with_reducible refine kept_mapWrite ?_
    | with_reducible refine kept_osuraWrite ?_ | with_reducible refine kept_streamWrite ?_
    | with_reducible refine kept_lanternWrite ?_ | with_reducible refine kept_tenderWrite ?_
    | with_reducible refine kept_ringWrite ?_ | with_reducible refine kept_logWriteReg ?_
    | with_reducible refine kept_observeWrite ?_ | with_reducible refine Kept.ite ?_ ?_
    | with_reducible refine Kept.foldl (fun _ _ _ => ?_) ?_ | with_reducible refine Kept.foldl2 (fun _ _ _ => ?_) ?_
    | with_reducible refine Kept.foldl3 (fun _ _ _ => ?_) ?_
    | fail_if_no_progress with_reducible refine Kept.upd rfl rfl rfl rfl rfl rfl ?_
    | fail_if_no_progress with_reducible refine Kept.updP rfl rfl (by dsimp only; decide) rfl rfl rfl ?_
    | fail_if_no_progress with_reducible refine Kept.updL rfl rfl rfl (fun e => e) rfl ?_
    | fail_if_no_progress with_reducible refine Kept.updL rfl rfl rfl (fun e => absurd e Bool.false_ne_true) rfl ?_
    | split | dsimp only

theorem kept_regWrite {s0 s : State} {a : Nat} {v : Nat} (h : Kept s0 s) :
    Kept s0 (regWrite a v s).2 := by
  unfold regWrite
  try dsimp only
  repeat' first
    | with_reducible assumption | with_reducible refine kept_windowWrite ?_
    | with_reducible refine kept_windowWrite' (by assumption) ?_ | with_reducible refine kept_regEffect ?_
    | with_reducible refine Kept.ite ?_ ?_ | with_reducible refine Kept.foldl (fun _ _ _ => ?_) ?_
    | with_reducible refine Kept.foldl2 (fun _ _ _ => ?_) ?_ | with_reducible refine Kept.foldl3 (fun _ _ _ => ?_) ?_
    | fail_if_no_progress with_reducible refine Kept.upd rfl rfl rfl rfl rfl rfl ?_
    | fail_if_no_progress with_reducible refine Kept.updP rfl rfl (by dsimp only; decide) rfl rfl rfl ?_
    | fail_if_no_progress with_reducible refine Kept.updL rfl rfl rfl (fun e => e) rfl ?_
    | fail_if_no_progress with_reducible refine Kept.updL rfl rfl rfl (fun e => absurd e Bool.false_ne_true) rfl ?_
    | split | dsimp only

theorem kept_regWrite' {s0 s t : State} {a : Nat} {v : Nat} {r1} (e : (regWrite a v s) = (r1, t)) (h : Kept s0 s) : Kept s0 t := by
  have h2 : Kept s0 (regWrite a v s).2 := kept_regWrite h
  rw [e] at h2
  exact h2

theorem kept_answerWrite {s0 : State} {r : Bool × State} (h : Kept s0 r.2) : Kept s0 (answerWrite r) :=
  Kept.upd rfl rfl rfl rfl rfl rfl h

theorem kept_State_tick {s0 s : State} (h : Kept s0 s) :
    Kept s0 (State.tick s) := by
  unfold State.tick
  try dsimp only
  repeat' first
    | with_reducible assumption | with_reducible refine kept_State_advance ?_
    | with_reducible refine kept_serveWindows ?_ | with_reducible refine Kept.ite ?_ ?_

theorem kept_resetNow {s0 s : State} (h : Kept s0 s) :
    Kept s0 (resetNow s) := by
  unfold resetNow
  try dsimp only
  repeat' first
    | with_reducible assumption | with_reducible refine kept_assertReset ?_ | with_reducible refine Kept.ite ?_ ?_

theorem kept_holdForTest {s0 s : State} {code : Nat} (hc : code ≤ 3) (h : Kept s0 s) : Kept s0 (holdForTest code s) :=
  Kept.of_inv (x := resetNow s) rfl (fun g => ⟨g.1, g.2.1, ⟨hc, fun _ => rfl⟩, g.2.2.2⟩) (kept_resetNow h)

theorem kept_endTest {s0 s : State} (h : Kept s0 s) : Kept s0 (endTest s) := by
  unfold endTest
  have ht : Kept s0 { s with tw := { s.tw with held := false } } :=
    Kept.of_inv (x := s) rfl (fun g => ⟨g.1, g.2.1, ⟨g.2.2.1.1, fun e => by cases e⟩, g.2.2.2⟩) h
  exact Kept.ite (Kept.ite (kept_repower (kept_resetNow ht)) (kept_resetNow ht)) h

end Sys2Proof.Machine
end

