-- ==== Sys2Proof/Laws/KeptExec.lean ====
section
/-! SUPPORT. What every command keeps: one lemma per meaning. -/

namespace Sys2Proof.Machine

set_option linter.unreachableTactic false
set_option linter.unusedTactic false

theorem kept_execBistCmd {s0 s : State} {value : Word} (h : Kept s0 s) :
    KeptO s0 (execBistCmd value s) := by
  unfold execBistCmd
  try dsimp only
  repeat' first
    | with_reducible assumption | with_reducible refine KeptO.next ?_
    | with_reducible refine kept_State_hostWrite (fun _ _ => ?_) ?_ | with_reducible refine kept_bistCommand ?_

theorem kept_execOsuraAsyncServe {s0 s : State} {sec : Fin 64} (h : Kept s0 s) :
    KeptO s0 (execOsuraAsyncServe sec s) := by
  unfold execOsuraAsyncServe
  try dsimp only
  repeat' first
    | with_reducible assumption | with_reducible refine KeptO.next ?_ | with_reducible refine KeptO.ite ?_ ?_
    | with_reducible refine kept_closeWindows ?_ | with_reducible refine kept_ownerRefused ?_
    | with_reducible refine kept_State_takeReq ?_ | with_reducible refine kept_State_forceCow ?_
    | with_reducible refine kept_State_modSec ?_ | with_reducible refine kept_arrivalsPump ?_
    | with_reducible refine kept_serveReq ?_ | with_reducible refine Kept.ite ?_ ?_
    | with_reducible refine Kept.foldl (fun _ _ _ => ?_) ?_

theorem kept_execScrubRequest {s0 s : State} {sec : Fin 64} (h : Kept s0 s) :
    KeptO s0 (execScrubRequest sec s) := by
  unfold execScrubRequest
  try dsimp only
  repeat' first
    | with_reducible assumption | with_reducible refine KeptO.next ?_ | with_reducible refine KeptO.ite ?_ ?_
    | with_reducible refine kept_State_modSec ?_ | with_reducible refine kept_State_askOsura ?_
    | fail_if_no_progress with_reducible refine Kept.upd rfl rfl rfl rfl rfl rfl ?_

theorem kept_execAsyncShareApply {s0 s : State} (h : Kept s0 s) :
    KeptO s0 (execAsyncShareApply s) := by
  unfold execAsyncShareApply
  try dsimp only
  repeat' first
    | with_reducible assumption | with_reducible refine KeptO.next ?_ | with_reducible refine KeptO.ite ?_ ?_
    | with_reducible refine kept_applyShare ?_

theorem kept_execFarSettingsApply {s0 s : State} (h : Kept s0 s) :
    KeptO s0 (execFarSettingsApply s) := by
  unfold execFarSettingsApply
  try dsimp only
  repeat' first
    | with_reducible assumption | with_reducible refine KeptO.next ?_ | with_reducible refine KeptO.ite ?_ ?_
    | with_reducible refine kept_applyFar ?_

theorem kept_execSectorCloseDrained {s0 s : State} {sec : Fin 64} (h : Kept s0 s) :
    KeptO s0 (execSectorCloseDrained sec s) := by
  unfold execSectorCloseDrained
  try dsimp only
  repeat' first
    | with_reducible assumption | with_reducible refine KeptO.next ?_ | with_reducible refine KeptO.ite ?_ ?_
    | with_reducible refine kept_goDark ?_

theorem kept_execDarkenTimeout {s0 s : State} {sec : Fin 64} (h : Kept s0 s) :
    KeptO s0 (execDarkenTimeout sec s) := by
  unfold execDarkenTimeout
  try dsimp only
  repeat' first
    | with_reducible assumption | with_reducible refine KeptO.next ?_ | with_reducible refine KeptO.ite ?_ ?_
    | with_reducible refine kept_serveDue ?_ | with_reducible refine kept_closeWindow ?_
    | with_reducible refine kept_closeWindows ?_ | with_reducible refine kept_goDark ?_
    | with_reducible refine kept_ownerRefused ?_ | with_reducible refine kept_State_takeReq ?_
    | with_reducible refine Kept.foldl (fun _ _ _ => ?_) ?_

theorem kept_execBuoyDrainEnd {s0 s : State} {buoy : Fin 256} (h : Kept s0 s) :
    KeptO s0 (execBuoyDrainEnd buoy s) := by
  unfold execBuoyDrainEnd
  try dsimp only
  repeat' first
    | with_reducible assumption | with_reducible refine KeptO.next ?_ | with_reducible refine KeptO.ite ?_ ?_
    | with_reducible refine kept_State_returnOwed ?_ | with_reducible refine kept_State_setBuoy ?_

theorem kept_execBuoyWatchdog {s0 s : State} {who : Waiter} (h : Kept s0 s) :
    KeptO s0 (execBuoyWatchdog who s) := by
  unfold execBuoyWatchdog
  try dsimp only
  repeat' first
    | with_reducible assumption | with_reducible refine KeptO.next ?_ | with_reducible refine kept_State_askStop ?_
    | with_reducible refine kept_lnStall ?_ | with_reducible refine kept_tdAdvance ?_
    | with_reducible refine kept_State_setChan ?_ | with_reducible refine kept_State_pushOrDrop ?_
    | fail_if_no_progress with_reducible refine Kept.upd rfl rfl rfl rfl rfl rfl ?_ | split

theorem kept_execBuoySel {s0 s : State} {value : Word} (h : Kept s0 s) :
    KeptO s0 (execBuoySel value s) := by
  unfold execBuoySel
  try dsimp only
  repeat' first
    | with_reducible assumption | with_reducible refine KeptO.next ?_
    | with_reducible refine kept_State_hostWrite (fun _ _ => ?_) ?_ | with_reducible refine kept_captureBuoy ?_

theorem kept_execLight {s0 s : State} (h : Kept s0 s) :
    KeptO s0 (execLight s) := by
  unfold execLight
  try dsimp only
  repeat' first
    | with_reducible assumption | with_reducible refine kept_startCtl (fun _ _ _ _ => ?_) ?_
    | with_reducible refine kept_actLight ?_

theorem kept_execDarken {s0 s : State} (h : Kept s0 s) :
    KeptO s0 (execDarken s) := by
  unfold execDarken
  try dsimp only
  repeat' first
    | with_reducible assumption | with_reducible refine kept_startCtl (fun _ _ _ _ => ?_) ?_
    | with_reducible refine kept_actDarken ?_

theorem kept_execMoor {s0 s : State} (h : Kept s0 s) :
    KeptO s0 (execMoor s) := by
  unfold execMoor
  try dsimp only
  repeat' first
    | with_reducible assumption | with_reducible refine kept_startCtl (fun _ _ _ _ => ?_) ?_
    | with_reducible refine kept_actMoor ?_

theorem kept_execArm {s0 s : State} (h : Kept s0 s) :
    KeptO s0 (execArm s) := by
  unfold execArm
  try dsimp only
  repeat' first
    | with_reducible assumption | with_reducible refine kept_startCtl (fun _ _ _ _ => ?_) ?_
    | with_reducible refine kept_actArm ?_

theorem kept_execFree {s0 s : State} (h : Kept s0 s) :
    KeptO s0 (execFree s) := by
  unfold execFree
  try dsimp only
  repeat' first
    | with_reducible assumption | with_reducible refine kept_startCtl (fun _ _ _ _ => ?_) ?_
    | with_reducible refine kept_actFree ?_

theorem kept_execLoad {s0 s : State} (h : Kept s0 s) :
    KeptO s0 (execLoad s) := by
  unfold execLoad
  try dsimp only
  repeat' first
    | with_reducible assumption | with_reducible refine kept_startCtl (fun _ _ _ _ => ?_) ?_
    | with_reducible refine kept_actLantern ?_

theorem kept_execStart {s0 s : State} (h : Kept s0 s) :
    KeptO s0 (execStart s) := by
  unfold execStart
  try dsimp only
  repeat' first
    | with_reducible assumption | with_reducible refine kept_startCtl (fun _ _ _ _ => ?_) ?_
    | with_reducible refine kept_actLantern ?_

theorem kept_execMark {s0 s : State} (h : Kept s0 s) :
    KeptO s0 (execMark s) := by
  unfold execMark
  try dsimp only
  repeat' first
    | with_reducible assumption | with_reducible refine kept_startCtl (fun _ _ _ _ => ?_) ?_
    | with_reducible refine kept_actMark ?_

theorem kept_execRelease {s0 s : State} (h : Kept s0 s) :
    KeptO s0 (execRelease s) := by
  unfold execRelease
  try dsimp only
  repeat' first
    | with_reducible assumption | with_reducible refine kept_startCtl (fun _ _ _ _ => ?_) ?_
    | with_reducible refine kept_actRelease ?_

theorem kept_execPause {s0 s : State} (h : Kept s0 s) :
    KeptO s0 (execPause s) := by
  unfold execPause
  try dsimp only
  repeat' first
    | with_reducible assumption | with_reducible refine kept_startCtl (fun _ _ _ _ => ?_) ?_
    | with_reducible refine kept_actPause ?_

theorem kept_execResume {s0 s : State} (h : Kept s0 s) :
    KeptO s0 (execResume s) := by
  unfold execResume
  try dsimp only
  repeat' first
    | with_reducible assumption | with_reducible refine kept_startCtl (fun _ _ _ _ => ?_) ?_
    | with_reducible refine kept_actResume ?_

theorem kept_execAbort {s0 s : State} (h : Kept s0 s) :
    KeptO s0 (execAbort s) := by
  unfold execAbort
  try dsimp only
  repeat' first
    | with_reducible assumption | with_reducible refine kept_startCtl (fun _ _ _ _ => ?_) ?_
    | with_reducible refine kept_actAbort ?_

theorem kept_execTdcmd {s0 s : State} (h : Kept s0 s) :
    KeptO s0 (execTdcmd s) := by
  unfold execTdcmd
  try dsimp only
  repeat' first
    | with_reducible assumption | with_reducible refine kept_startCtl (fun _ _ _ _ => ?_) ?_
    | with_reducible refine kept_actTdcmd ?_

theorem kept_execEclipse {s0 s : State} (h : Kept s0 s) :
    KeptO s0 (execEclipse s) := by
  unfold execEclipse
  try dsimp only
  repeat' first
    | with_reducible assumption | with_reducible refine kept_startCtl (fun _ _ _ _ => ?_) ?_
    | with_reducible refine kept_actEclipse ?_

theorem kept_execToken {s0 s : State} (h : Kept s0 s) :
    KeptO s0 (execToken s) := by
  unfold execToken
  try dsimp only
  repeat' first
    | with_reducible assumption | with_reducible refine kept_startCtl (fun _ _ _ _ => ?_) ?_
    | with_reducible refine kept_actToken ?_

theorem kept_execNote {s0 s : State} (h : Kept s0 s) : KeptO s0 (execNote s) :=
  kept_startCtl (fun _ _ _ h => KeptC.done h) h

theorem kept_execSectorFillDone {s0 s : State} {sec : Fin 64} (h : Kept s0 s) :
    KeptO s0 (execSectorFillDone sec s) := by
  unfold execSectorFillDone
  try dsimp only
  repeat' first
    | with_reducible assumption | with_reducible refine KeptO.next ?_ | with_reducible refine kept_fillDone ?_
    | with_reducible refine kept_secSwapDone ?_ | split

theorem kept_execSectorBistDone {s0 s : State} {psec : Fin 68} {pass : Bool} (h : Kept s0 s) :
    KeptO s0 (execSectorBistDone psec pass s) := by
  unfold execSectorBistDone
  try dsimp only
  repeat' first
    | with_reducible assumption | with_reducible refine KeptO.next ?_
    | with_reducible refine kept_spareSectorFailed ?_ | with_reducible refine kept_State_detect ?_
    | with_reducible refine kept_State_unlight ?_
    | fail_if_no_progress with_reducible refine Kept.upd rfl rfl rfl rfl rfl rfl ?_ | split

theorem kept_execFaultSequencerStart {s0 s : State} {found : Option Detected} (h : Kept s0 s) :
    KeptO s0 (execFaultSequencerStart found s) := by
  unfold execFaultSequencerStart
  try dsimp only
  repeat' first
    | with_reducible assumption | with_reducible refine KeptO.next ?_ | with_reducible refine kept_State_detect ?_
    | with_reducible refine kept_fatalFault ?_ | with_reducible refine kept_swapFault ?_
    | with_reducible refine kept_handleFault ?_
    | fail_if_no_progress with_reducible refine Kept.upd rfl rfl rfl rfl rfl rfl ?_ | split

theorem kept_execSpareBistDone {s0 s : State} {pc : Fin 34} {pass : Bool} (h : Kept s0 s) :
    KeptO s0 (execSpareBistDone pc pass s) := by
  unfold execSpareBistDone
  try dsimp only
  repeat' first
    | with_reducible assumption | with_reducible refine KeptO.next ?_ | with_reducible refine kept_swapDone ?_
    | with_reducible refine kept_spareFailed ?_ | split

theorem kept_execFltUnfence {s0 s : State} {value : Word} (h : Kept s0 s) :
    KeptO s0 (execFltUnfence value s) := by
  unfold execFltUnfence
  try dsimp only
  repeat' first
    | with_reducible assumption | with_reducible refine KeptO.next ?_
    | with_reducible refine kept_State_hostWrite (fun _ _ => ?_) ?_ | with_reducible refine kept_unfence ?_

theorem kept_execAbortAckFall {s0 s : State} {port : PortId} (h : Kept s0 s) :
    KeptO s0 (execAbortAckFall port s) := by
  unfold execAbortAckFall
  try dsimp only
  repeat' first
    | with_reducible assumption | with_reducible refine KeptO.next ?_ | with_reducible refine kept_lnPump ?_
    | with_reducible refine kept_State_modLn ?_ | with_reducible refine kept_State_startPort ?_
    | with_reducible refine kept_State_setPort ?_ | split

theorem kept_execBundleFetch {s0 s : State} (h : Kept s0 s) :
    KeptO s0 (execBundleFetch s) := by
  unfold execBundleFetch
  try dsimp only
  repeat' first
    | with_reducible assumption | with_reducible refine KeptO.next ?_ | with_reducible refine KeptO.ite ?_ ?_
    | with_reducible refine kept_refetch ?_ | with_reducible refine kept_State_readStream ?_
    | with_reducible refine kept_State_modStr ?_ | with_reducible refine kept_loopLoad ?_

theorem kept_execBundleIssue {s0 s : State} (h : Kept s0 s) :
    KeptO s0 (execBundleIssue s) := by
  unfold execBundleIssue
  try dsimp only
  repeat' first
    | with_reducible assumption | with_reducible refine KeptO.next ?_ | with_reducible refine KeptO.ite ?_ ?_
    | with_reducible refine kept_streamCycle ?_ | with_reducible refine kept_stallLate ?_
    | with_reducible refine kept_serveWindows ?_

theorem kept_execProdCount {s0 s : State} {buoy : Fin 256} (h : Kept s0 s) :
    KeptO s0 (execProdCount buoy s) := by
  unfold execProdCount
  try dsimp only
  repeat' first
    | with_reducible assumption | with_reducible refine KeptO.next ?_ | with_reducible refine kept_State_modStr ?_
    | with_reducible refine kept_State_countAt ?_ | with_reducible refine kept_State_complete ?_ | split

theorem kept_execFenceComplete {s0 s : State} (h : Kept s0 s) :
    KeptO s0 (execFenceComplete s) := by
  unfold execFenceComplete
  try dsimp only
  repeat' first
    | with_reducible assumption | with_reducible refine KeptO.next ?_ | with_reducible refine KeptO.ite ?_ ?_
    | with_reducible refine kept_fenceStores ?_ | with_reducible refine kept_State_modStr ?_

theorem kept_execEndComplete {s0 s : State} (h : Kept s0 s) :
    KeptO s0 (execEndComplete s) := by
  unfold execEndComplete
  try dsimp only
  repeat' first
    | with_reducible assumption | with_reducible refine KeptO.next ?_ | with_reducible refine kept_serveAll ?_
    | with_reducible refine kept_flushPump ?_ | with_reducible refine kept_stopStream ?_
    | with_reducible refine kept_State_modStr ?_ | with_reducible refine kept_State_push ?_
    | with_reducible refine kept_endLaunch ?_ | split

theorem kept_execCbEntryTimeout {s0 s : State} {pc : Fin 34} {word : BitVec 24} (h : Kept s0 s) :
    KeptO s0 (execCbEntryTimeout pc word s) := by
  unfold execCbEntryTimeout
  try dsimp only
  repeat' first
    | with_reducible assumption | with_reducible refine KeptO.next ?_ | with_reducible refine kept_flushMusts ?_
    | with_reducible refine kept_State_setCb ?_ | split

theorem kept_execKeeperPause {s0 s : State} (h : Kept s0 s) :
    KeptO s0 (execKeeperPause s) := by
  unfold execKeeperPause
  try dsimp only
  repeat' first
    | with_reducible assumption | with_reducible refine KeptO.next ?_
    | with_reducible refine kept_State_hostWrite (fun _ _ => ?_) ?_ | with_reducible refine kept_cmdPause ?_

theorem kept_execKeeperResume {s0 s : State} (h : Kept s0 s) :
    KeptO s0 (execKeeperResume s) := by
  unfold execKeeperResume
  try dsimp only
  repeat' first
    | with_reducible assumption | with_reducible refine KeptO.next ?_
    | with_reducible refine kept_State_hostWrite (fun _ _ => ?_) ?_ | with_reducible refine kept_cmdResume ?_

theorem kept_execRingEnable {s0 s : State} {ring : Fin 4} {value : Word} (h : Kept s0 s) :
    KeptO s0 (execRingEnable ring value s) := by
  unfold execRingEnable
  try dsimp only
  repeat' first
    | with_reducible assumption | with_reducible refine KeptO.next ?_
    | with_reducible refine kept_State_hostWrite (fun _ _ => ?_) ?_ | with_reducible refine kept_ringConfig ?_

theorem kept_execDoorbellWrite {s0 s : State} {ring : Fin 3} {value : Word} (h : Kept s0 s) :
    KeptO s0 (execDoorbellWrite ring value s) := by
  unfold execDoorbellWrite
  try dsimp only
  repeat' first
    | with_reducible assumption | with_reducible refine KeptO.next ?_
    | with_reducible refine kept_State_hostWrite (fun _ _ => ?_) ?_ | with_reducible refine kept_doorbell ?_

theorem kept_execWorkNextseqLo {s0 s : State} {value : Word} (h : Kept s0 s) :
    KeptO s0 (execWorkNextseqLo value s) := by
  unfold execWorkNextseqLo
  try dsimp only
  repeat' first
    | with_reducible assumption | with_reducible refine KeptO.next ?_
    | with_reducible refine kept_State_hostWrite (fun _ _ => ?_) ?_ | with_reducible refine kept_nextseqLo ?_

theorem kept_execDescriptorFetch {s0 s : State} {ring : Fin 3} (h : Kept s0 s) :
    KeptO s0 (execDescriptorFetch ring s) := by
  unfold execDescriptorFetch
  try dsimp only
  repeat' first
    | with_reducible assumption | with_reducible refine KeptO.next ?_ | with_reducible refine kept_State_sysRead ?_
    | split

theorem kept_execSysResponse {s0 s : State} {tag : BitVec 5} {status : BitVec 2} {data : List Byte} (h : Kept s0 s) :
    KeptO s0 (execSysResponse tag status data s) := by
  unfold execSysResponse
  try dsimp only
  repeat' first
    | with_reducible assumption | with_reducible refine KeptO.next ?_ | exact KeptO.refused
    | with_reducible refine kept_State_sysFault ?_ | with_reducible refine kept_evRetry ?_
    | with_reducible refine kept_recPump ?_ | with_reducible refine kept_sysAnswer ?_
    | fail_if_no_progress with_reducible refine Kept.upd rfl rfl rfl rfl rfl rfl ?_ | split

theorem kept_execSysTimeout {s0 s : State} {tag : BitVec 5} (h : Kept s0 s) :
    KeptO s0 (execSysTimeout tag s) := by
  unfold execSysTimeout
  try dsimp only
  repeat' first
    | with_reducible assumption | with_reducible refine KeptO.next ?_ | with_reducible refine KeptO.ite ?_ ?_
    | with_reducible refine kept_State_sysFault ?_
    | fail_if_no_progress with_reducible refine Kept.upd rfl rfl rfl rfl rfl rfl ?_

theorem kept_execEventRecordWrite {s0 s : State} (h : Kept s0 s) :
    KeptO s0 (execEventRecordWrite s) := by
  unfold execEventRecordWrite
  try dsimp only
  repeat' first
    | with_reducible assumption | with_reducible refine KeptO.next ?_
    | refine KeptM.out (kept_State_evWrite ?_) (by assumption) | with_reducible refine kept_roomPump ?_
    | fail_if_no_progress with_reducible refine Kept.upd rfl rfl rfl rfl rfl rfl ?_ | split

theorem kept_execEringHeadWrite {s0 s : State} {value : Word} (h : Kept s0 s) :
    KeptO s0 (execEringHeadWrite value s) := by
  unfold execEringHeadWrite
  try dsimp only
  repeat' first
    | with_reducible assumption | with_reducible refine KeptO.next ?_
    | with_reducible refine kept_State_hostWrite (fun _ _ => ?_) ?_ | with_reducible refine kept_eringHead ?_

theorem kept_execLaunch {s0 s : State} (h : Kept s0 s) :
    KeptO s0 (execLaunch s) := by
  unfold execLaunch
  try dsimp only
  repeat' first
    | with_reducible assumption | with_reducible refine KeptO.next ?_ | with_reducible refine kept_launch ?_ | split

theorem kept_execTransferStart {s0 s : State} (h : Kept s0 s) :
    KeptO s0 (execTransferStart s) := by
  unfold execTransferStart
  try dsimp only
  repeat' first
    | with_reducible assumption | with_reducible refine KeptO.next ?_ | with_reducible refine kept_refuseTransfer ?_
    | with_reducible refine kept_State_tndBack ?_ | with_reducible refine kept_State_order ?_
    | with_reducible refine kept_sendPump ?_ | with_reducible refine kept_tdStart ?_
    | fail_if_no_progress with_reducible refine Kept.upd rfl rfl rfl rfl rfl rfl ?_ | split

theorem kept_execLoadTakeEffect {s0 s : State} {ln : Fin 4} (h : Kept s0 s) :
    KeptO s0 (execLoadTakeEffect ln s) := by
  unfold execLoadTakeEffect
  try dsimp only
  repeat' first
    | with_reducible assumption | with_reducible refine KeptO.next ?_ | with_reducible refine kept_State_lnAsk ?_
    | with_reducible refine kept_loadDone ?_ | with_reducible refine kept_State_modLn ?_ | split

theorem kept_execResultBeat {s0 s : State} {ln : Fin 4} {hdr0 : Word} {hdr1 : Word} {data : List Word} (h : Kept s0 s) :
    KeptO s0 (execResultBeat ln hdr0 hdr1 data s) := by
  unfold execResultBeat
  try dsimp only
  repeat' first
    | with_reducible assumption | with_reducible refine KeptO.next ?_ | exact KeptO.refused
    | with_reducible refine kept_lnViolation ?_ | with_reducible refine kept_State_modLn ?_
    | with_reducible refine kept_lnPump ?_ | with_reducible refine kept_lnSources ?_
    | with_reducible refine kept_State_modProd ?_ | split

theorem kept_execTailPassStart {s0 s : State} {ln : Fin 4} (h : Kept s0 s) :
    KeptO s0 (execTailPassStart ln s) := by
  unfold execTailPassStart
  try dsimp only
  repeat' first
    | with_reducible assumption | with_reducible refine KeptO.next ?_ | with_reducible refine kept_State_modProd ?_
    | with_reducible refine kept_lnPump ?_ | with_reducible refine kept_State_modLn ?_ | split

theorem kept_execProductAnnounce {s0 s : State} {ln : Fin 4} (h : Kept s0 s) :
    KeptO s0 (execProductAnnounce ln s) := by
  unfold execProductAnnounce
  try dsimp only
  repeat' first
    | with_reducible assumption | with_reducible refine KeptO.next ?_ | with_reducible refine kept_State_modLn ?_
    | with_reducible refine kept_lnReport ?_ | with_reducible refine kept_emptyCounts ?_
    | with_reducible refine kept_rowsFreed ?_ | with_reducible refine kept_lnError ?_
    | fail_if_no_progress with_reducible refine Kept.upd rfl rfl rfl rfl rfl rfl ?_ | split

theorem kept_execOperandRequest {s0 s : State} {ln : Fin 4} {hdr : Word} (h : Kept s0 s) :
    KeptO s0 (execOperandRequest ln hdr s) := by
  unfold execOperandRequest
  try dsimp only
  repeat' first
    | with_reducible assumption | with_reducible refine KeptO.next ?_ | with_reducible refine kept_lnViolation ?_
    | with_reducible refine kept_State_modProd ?_ | with_reducible refine kept_lnAnswer ?_
    | with_reducible refine kept_State_modLn ?_ | with_reducible refine kept_lnPumpAll ?_ | split

theorem kept_execProductComplete {s0 s : State} {ln : Fin 4} (h : Kept s0 s) :
    KeptO s0 (execProductComplete ln s) := by
  unfold execProductComplete
  try dsimp only
  repeat' first
    | with_reducible assumption | with_reducible refine KeptO.next ?_ | with_reducible refine kept_State_modLn ?_
    | with_reducible refine kept_lnPumpAll ?_ | with_reducible refine kept_lnReport ?_
    | with_reducible refine kept_lnCounts ?_ | split

theorem kept_execRelayStallTimeout {s0 s : State} {ln : Fin 4} (h : Kept s0 s) :
    KeptO s0 (execRelayStallTimeout ln s) := by
  unfold execRelayStallTimeout
  try dsimp only
  repeat' first
    | with_reducible assumption | with_reducible refine KeptO.next ?_ | with_reducible refine kept_lnStallProd ?_
    | split

theorem kept_execFpAbortAck {s0 s : State} {ln : Fin 4} (h : Kept s0 s) :
    KeptO s0 (execFpAbortAck ln s) := by
  unfold execFpAbortAck
  try dsimp only
  repeat' first
    | with_reducible assumption | with_reducible refine KeptO.next ?_ | with_reducible refine KeptO.ite ?_ ?_
    | with_reducible refine kept_State_modLn ?_ | with_reducible refine kept_lnViolation ?_

theorem kept_execFpAbortTimeout {s0 s : State} {ln : Fin 4} (h : Kept s0 s) :
    KeptO s0 (execFpAbortTimeout ln s) := by
  unfold execFpAbortTimeout
  try dsimp only
  repeat' first
    | with_reducible assumption | with_reducible refine KeptO.next ?_ | with_reducible refine KeptO.ite ?_ ?_
    | with_reducible refine kept_lnViolation ?_ | with_reducible refine kept_State_modLn ?_

theorem kept_execCloseCapture {s0 s : State} (h : Kept s0 s) :
    KeptO s0 (execCloseCapture s) := by
  unfold execCloseCapture
  try dsimp only
  repeat' first
    | with_reducible assumption | with_reducible refine KeptO.next ?_
    | with_reducible refine Kept.upd rfl rfl rfl (Log.setDirty_haveMark _ _ _) (Log.setDirty_en _ _ _) rfl ?_ | split

theorem kept_execLogMirrorGranule {s0 s : State} (h : Kept s0 s) :
    KeptO s0 (execLogMirrorGranule s) := by
  unfold execLogMirrorGranule
  try dsimp only
  repeat' first
    | with_reducible assumption | with_reducible refine KeptO.next ?_
    | with_reducible refine kept_State_logStateWrite ?_ | with_reducible refine kept_State_readGranule ?_
    | with_reducible refine kept_logPump ?_
    | with_reducible refine Kept.upd rfl rfl rfl (Log.setDirty_haveMark _ _ _) (Log.setDirty_en _ _ _) rfl ?_ | split

theorem kept_execRestoreComplete {s0 s : State} (h : Kept s0 s) :
    KeptO s0 (execRestoreComplete s) := by
  unfold execRestoreComplete
  try dsimp only
  repeat' first
    | with_reducible assumption | with_reducible refine KeptO.next ?_ | with_reducible refine kept_restoreLog ?_
    | with_reducible refine kept_restoreMoors ?_ | with_reducible refine kept_restoreRegs ?_ | split

theorem kept_execCloseComplete {s0 s : State} (h : Kept s0 s) :
    KeptO s0 (execCloseComplete s) := by
  unfold execCloseComplete
  try dsimp only
  repeat' first
    | with_reducible assumption | with_reducible refine KeptO.next ?_ | with_reducible refine kept_closePump ?_

theorem kept_execPktMark {s0 s : State} {port : Fin 9} {hdr : List Word} {payload : List Byte} (h : Kept s0 s) :
    KeptO s0 (execPktMark port hdr payload s) := by
  unfold execPktMark
  try dsimp only
  repeat' first
    | with_reducible assumption | with_reducible refine kept_arrive (fun _ _ _ => ?_) ?_
    | with_reducible refine kept_takeMark ?_

theorem kept_execSeal {s0 s : State} {port : Fin 9} {hdr : List Word} {payload : List Byte} (h : Kept s0 s) :
    KeptO s0 (execSeal port hdr payload s) := by
  unfold execSeal
  try dsimp only
  repeat' first
    | with_reducible assumption | with_reducible refine kept_arrive (fun _ _ _ => ?_) ?_
    | with_reducible refine kept_takeSeal ?_

theorem kept_execClosed {s0 s : State} {port : Fin 9} {hdr : List Word} {payload : List Byte} (h : Kept s0 s) :
    KeptO s0 (execClosed port hdr payload s) := by
  unfold execClosed
  try dsimp only
  repeat' first
    | with_reducible assumption | with_reducible refine kept_arrive (fun _ _ _ => ?_) ?_
    | with_reducible refine kept_takeClosed ?_

theorem kept_execMabort {s0 s : State} {port : Fin 9} {hdr : List Word} {payload : List Byte} (h : Kept s0 s) :
    KeptO s0 (execMabort port hdr payload s) := by
  unfold execMabort
  try dsimp only
  repeat' first
    | with_reducible assumption | with_reducible refine kept_arrive (fun _ _ _ => ?_) ?_
    | with_reducible refine kept_takeMabort ?_

theorem kept_execPktHold {s0 s : State} {port : Fin 9} {hdr : List Word} {payload : List Byte} (h : Kept s0 s) :
    KeptO s0 (execPktHold port hdr payload s) := by
  unfold execPktHold
  try dsimp only
  repeat' first
    | with_reducible assumption | with_reducible refine kept_arrive (fun _ _ _ => ?_) ?_
    | with_reducible refine kept_takeHold ?_

theorem kept_execPktRelease {s0 s : State} {port : Fin 9} {hdr : List Word} {payload : List Byte} (h : Kept s0 s) :
    KeptO s0 (execPktRelease port hdr payload s) := by
  unfold execPktRelease
  try dsimp only
  repeat' first
    | with_reducible assumption | with_reducible refine kept_arrive (fun _ _ _ => ?_) ?_
    | with_reducible refine kept_takeRelease ?_

theorem kept_execMreq {s0 s : State} {port : Fin 9} {hdr : List Word} {payload : List Byte} (h : Kept s0 s) :
    KeptO s0 (execMreq port hdr payload s) := by
  unfold execMreq
  try dsimp only
  repeat' first
    | with_reducible assumption | with_reducible refine kept_arrive (fun _ _ _ => ?_) ?_
    | with_reducible refine kept_takeMreq ?_

theorem kept_execMarkTimeout {s0 s : State} (h : Kept s0 s) :
    KeptO s0 (execMarkTimeout s) := by
  unfold execMarkTimeout
  try dsimp only
  repeat' first
    | with_reducible assumption | with_reducible refine KeptO.next ?_ | with_reducible refine KeptO.ite ?_ ?_
    | with_reducible refine kept_withRoom (fun _ _ => ?_) ?_ | with_reducible refine kept_leadAborts ?_

theorem kept_execMarkWaitTimeout {s0 s : State} (h : Kept s0 s) :
    KeptO s0 (execMarkWaitTimeout s) := by
  unfold execMarkWaitTimeout
  try dsimp only
  repeat' first
    | with_reducible assumption | with_reducible refine KeptO.next ?_
    | with_reducible refine kept_withRoom (fun _ _ => ?_) ?_ | with_reducible refine kept_State_setMark ?_
    | with_reducible refine kept_State_markEv ?_ | split

theorem kept_execEpochTimer {s0 s : State} (h : Kept s0 s) :
    KeptO s0 (execEpochTimer s) := by
  unfold execEpochTimer
  try dsimp only
  repeat' first
    | with_reducible assumption | with_reducible refine KeptO.next ?_ | with_reducible refine KeptO.ite ?_ ?_
    | with_reducible refine kept_startMark ?_

theorem kept_execMemRequestIssue {s0 s : State} {port : Fin 24} (h : Kept s0 s) :
    KeptO s0 (execMemRequestIssue port s) := by
  unfold execMemRequestIssue
  dsimp only
  exact KeptO.ite (KeptO.next h) (KeptO.next (KeptM.getD (KeptM.orElse (KeptM.orElse (KeptM.orElse
    (kept_grantFar h) (kept_grantLog h)) (kept_grantHalf h)) (kept_grantHalf h)) h))

theorem kept_execMemReadResponse {s0 s : State} {port : Fin 24} {tag : BitVec 11} {status : BitVec 2} {data : List Byte} (h : Kept s0 s) :
    KeptO s0 (execMemReadResponse port tag status data s) := by
  unfold execMemReadResponse
  try dsimp only
  repeat' first
    | with_reducible assumption | with_reducible refine KeptO.next ?_ | exact KeptO.refused
    | with_reducible refine kept_State_memFault ?_ | with_reducible refine kept_readAnswer ?_
    | fail_if_no_progress with_reducible refine Kept.upd rfl rfl rfl rfl rfl rfl ?_ | split

theorem kept_execMemWriteAck {s0 s : State} {port : Fin 24} {tag : BitVec 9} {status : BitVec 2} (h : Kept s0 s) :
    KeptO s0 (execMemWriteAck port tag status s) := by
  unfold execMemWriteAck
  try dsimp only
  repeat' first
    | with_reducible assumption | with_reducible refine KeptO.next ?_ | with_reducible refine kept_State_memFault ?_
    | with_reducible refine kept_writeAnswer ?_
    | fail_if_no_progress with_reducible refine Kept.upd rfl rfl rfl rfl rfl rfl ?_ | split

theorem kept_execMemTimeout {s0 s : State} {port : Fin 24} {isWrite : Bool} {tag : BitVec 11} (h : Kept s0 s) :
    KeptO s0 (execMemTimeout port isWrite tag s) := by
  unfold execMemTimeout
  try dsimp only
  repeat' first
    | with_reducible assumption | with_reducible refine KeptO.next ?_ | with_reducible refine KeptO.ite ?_ ?_
    | with_reducible refine kept_State_memFault ?_
    | fail_if_no_progress with_reducible refine Kept.upd rfl rfl rfl rfl rfl rfl ?_

theorem kept_execTransferComplete {s0 s : State} {ch : Fin 128} (h : Kept s0 s) :
    KeptO s0 (execTransferComplete ch s) := by
  unfold execTransferComplete
  try dsimp only
  repeat' first
    | with_reducible assumption | with_reducible refine KeptO.next ?_ | with_reducible refine kept_State_complete ?_
    | with_reducible refine kept_queueRecord ?_ | with_reducible refine kept_State_pushOrDrop ?_
    | with_reducible refine kept_State_setChan ?_ | split

theorem kept_execTdResume {s0 s : State} {ch : Fin 128} (h : Kept s0 s) :
    KeptO s0 (execTdResume ch s) := by
  unfold execTdResume
  try dsimp only
  repeat' first
    | with_reducible assumption | with_reducible refine KeptO.next ?_
    | with_reducible refine kept_State_hostWrite (fun _ _ => ?_) ?_ | with_reducible refine kept_tdRegister ?_

theorem kept_execTdAbort {s0 s : State} {ch : Fin 128} (h : Kept s0 s) :
    KeptO s0 (execTdAbort ch s) := by
  unfold execTdAbort
  try dsimp only
  repeat' first
    | with_reducible assumption | with_reducible refine KeptO.next ?_
    | with_reducible refine kept_State_hostWrite (fun _ _ => ?_) ?_ | with_reducible refine kept_tdRegister ?_

theorem kept_execData {s0 s : State} {port : Fin 9} {hdr : List Word} {payload : List Byte} (h : Kept s0 s) :
    KeptO s0 (execData port hdr payload s) := by
  unfold execData
  try dsimp only
  repeat' first
    | with_reducible assumption | with_reducible refine kept_arrive (fun _ _ _ => ?_) ?_
    | with_reducible refine kept_takeData ?_

theorem kept_execCredit {s0 s : State} {port : Fin 9} {hdr : List Word} {payload : List Byte} (h : Kept s0 s) :
    KeptO s0 (execCredit port hdr payload s) := by
  unfold execCredit
  try dsimp only
  repeat' first
    | with_reducible assumption | with_reducible refine kept_arrive (fun _ _ _ => ?_) ?_
    | with_reducible refine kept_sendAll ?_ | with_reducible refine kept_State_takeCredit ?_

theorem kept_execAck {s0 s : State} {port : Fin 9} {hdr : List Word} {payload : List Byte} (h : Kept s0 s) :
    KeptO s0 (execAck port hdr payload s) := by
  unfold execAck
  try dsimp only
  repeat' first
    | with_reducible assumption | with_reducible refine kept_arrive (fun _ _ _ => ?_) ?_
    | with_reducible refine kept_takeAck ?_

theorem kept_execNak {s0 s : State} {port : Fin 9} {hdr : List Word} {payload : List Byte} (h : Kept s0 s) :
    KeptO s0 (execNak port hdr payload s) := by
  unfold execNak
  try dsimp only
  repeat' first
    | with_reducible assumption | with_reducible refine kept_arrive (fun _ _ _ => ?_) ?_
    | with_reducible refine kept_takeNak ?_

theorem kept_execReservedKindArrival {s0 s : State} {port : Fin 9} {hdr : List Word} {payload : List Byte} (h : Kept s0 s) :
    KeptO s0 (execReservedKindArrival port hdr payload s) := by
  unfold execReservedKindArrival
  try dsimp only
  repeat' first
    | with_reducible assumption | with_reducible refine kept_arrive (fun _ _ _ => ?_) ?_
    | with_reducible refine kept_State_ringDrop ?_

theorem kept_execPacketForward {s0 s : State} {port : Fin 8} {hdr : List Word} {payload : List Byte} (h : Kept s0 s) :
    KeptO s0 (execPacketForward port hdr payload s) := by
  unfold execPacketForward
  try dsimp only
  repeat' first
    | with_reducible assumption | with_reducible refine KeptO.next ?_ | exact KeptO.refused
    | with_reducible refine KeptO.ite ?_ ?_ | with_reducible refine kept_State_ringFault ?_
    | with_reducible refine kept_takeOrHold (fun _ _ _ => ?_) ?_ | with_reducible refine kept_forward ?_

theorem kept_execPacketSend {s0 s : State} {port : Fin 8} (h : Kept s0 s) :
    KeptO s0 (execPacketSend port s) := by
  unfold execPacketSend
  try dsimp only
  repeat' first
    | with_reducible assumption | with_reducible refine KeptO.next ?_ | with_reducible refine kept_demoteHeads ?_
    | with_reducible refine kept_State_setPort ?_ | with_reducible refine kept_State_freeSpace ?_
    | with_reducible refine kept_State_settle ?_
    | fail_if_no_progress with_reducible refine Kept.upd rfl rfl rfl rfl rfl rfl ?_ | split

theorem kept_execRingCreditReturn {s0 s : State} {port : Fin 8} {cls : BitVec 2} {count : BitVec 4} (h : Kept s0 s) :
    KeptO s0 (execRingCreditReturn port cls count s) := by
  unfold execRingCreditReturn
  try dsimp only
  repeat' first
    | with_reducible assumption | with_reducible refine KeptO.next ?_ | with_reducible refine KeptO.ite ?_ ?_
    | with_reducible refine kept_State_ringFault ?_ | with_reducible refine kept_State_setPort ?_

theorem kept_execLinkUpRise {s0 s : State} {port : Fin 8} (h : Kept s0 s) :
    KeptO s0 (execLinkUpRise port s) := by
  unfold execLinkUpRise
  try dsimp only
  repeat' first
    | with_reducible assumption | with_reducible refine KeptO.next ?_ | with_reducible refine kept_State_startPort ?_
    | with_reducible refine kept_State_setPort ?_

theorem kept_execLinkDown {s0 s : State} {port : Fin 8} (h : Kept s0 s) :
    KeptO s0 (execLinkDown port s) := by
  unfold execLinkDown
  try dsimp only
  repeat' first
    | with_reducible assumption | with_reducible refine KeptO.next ?_ | with_reducible refine KeptO.ite ?_ ?_
    | with_reducible refine kept_State_setPort ?_ | with_reducible refine kept_State_ringFault ?_

theorem kept_execInboundFramingViolation {s0 s : State} {port : Fin 8} (h : Kept s0 s) :
    KeptO s0 (execInboundFramingViolation port s) := by
  unfold execInboundFramingViolation
  try dsimp only
  repeat' first
    | with_reducible assumption | with_reducible refine KeptO.next ?_ | with_reducible refine KeptO.ite ?_ ?_
    | with_reducible refine kept_State_ringFault ?_

theorem kept_execRingAbortAck {s0 s : State} {port : Fin 8} (h : Kept s0 s) :
    KeptO s0 (execRingAbortAck port s) := by
  unfold execRingAbortAck
  try dsimp only
  repeat' first
    | with_reducible assumption | with_reducible refine KeptO.next ?_ | with_reducible refine KeptO.ite ?_ ?_
    | with_reducible refine kept_State_ringFault ?_ | with_reducible refine kept_State_setPort ?_
    | fail_if_no_progress with_reducible refine Kept.upd rfl rfl rfl rfl rfl rfl ?_

theorem kept_execRingAbortTimeout {s0 s : State} {port : Fin 8} (h : Kept s0 s) :
    KeptO s0 (execRingAbortTimeout port s) := by
  unfold execRingAbortTimeout
  try dsimp only
  repeat' first
    | with_reducible assumption | with_reducible refine KeptO.next ?_ | with_reducible refine KeptO.ite ?_ ?_
    | with_reducible refine kept_State_ringFault ?_ | with_reducible refine kept_State_setPort ?_

theorem kept_execSendWatchdog {s0 s : State} {ch : Fin 128} (h : Kept s0 s) :
    KeptO s0 (execSendWatchdog ch s) := by
  unfold execSendWatchdog
  try dsimp only
  repeat' first
    | with_reducible assumption | with_reducible refine KeptO.next ?_ | with_reducible refine kept_tdFinish ?_ | split

theorem kept_execFoghornStart {s0 s : State} (h : Kept s0 s) :
    KeptO s0 (execFoghornStart s) := by
  unfold execFoghornStart
  try dsimp only
  repeat' first
    | with_reducible assumption | with_reducible refine KeptO.next ?_ | with_reducible refine KeptO.ite ?_ ?_
    | with_reducible refine kept_State_evalDiv ?_
    | fail_if_no_progress with_reducible refine Kept.upd rfl rfl rfl rfl rfl rfl ?_

theorem kept_execFoghornEnd {s0 s : State} (h : Kept s0 s) :
    KeptO s0 (execFoghornEnd s) := by
  unfold execFoghornEnd
  try dsimp only
  repeat' first
    | with_reducible assumption | with_reducible refine KeptO.next ?_ | with_reducible refine KeptO.ite ?_ ?_
    | fail_if_no_progress with_reducible refine Kept.upd rfl rfl rfl rfl rfl rfl ?_

theorem kept_execThrottleRelease {s0 s : State} (h : Kept s0 s) :
    KeptO s0 (execThrottleRelease s) := by
  unfold execThrottleRelease
  try dsimp only
  repeat' first
    | with_reducible assumption | with_reducible refine KeptO.next ?_ | with_reducible refine KeptO.ite ?_ ?_
    | with_reducible refine kept_State_evalDiv ?_
    | fail_if_no_progress with_reducible refine Kept.upd rfl rfl rfl rfl rfl rfl ?_

theorem kept_execCoreDivSwitch {s0 s : State} (h : Kept s0 s) :
    KeptO s0 (execCoreDivSwitch s) := by
  unfold execCoreDivSwitch
  try dsimp only
  repeat' first
    | with_reducible assumption | with_reducible refine KeptO.next ?_
    | fail_if_no_progress with_reducible refine Kept.upd rfl rfl rfl rfl rfl rfl ?_ | split

theorem kept_execPowerOnReset {s0 s : State} (h : Kept s0 s) :
    KeptO s0 (execPowerOnReset s) := by
  unfold execPowerOnReset
  try dsimp only
  repeat' first
    | with_reducible assumption | with_reducible refine KeptO.next ?_ | with_reducible refine kept_powerReset ?_

theorem kept_execBrownOut {s0 s : State} (h : Kept s0 s) :
    KeptO s0 (execBrownOut s) := by
  unfold execBrownOut
  try dsimp only
  repeat' first
    | with_reducible assumption | with_reducible refine KeptO.next ?_ | with_reducible refine kept_powerReset ?_

theorem kept_execBrownOutRelease {s0 s : State} (h : Kept s0 s) :
    KeptO s0 (execBrownOutRelease s) := by
  unfold execBrownOutRelease
  try dsimp only
  repeat' first
    | with_reducible assumption | with_reducible refine KeptO.next ?_
    | fail_if_no_progress with_reducible refine Kept.upd rfl rfl rfl rfl rfl rfl ?_

theorem kept_execPorRelease {s0 s : State} (h : Kept s0 s) :
    KeptO s0 (execPorRelease s) := by
  unfold execPorRelease
  try dsimp only
  repeat' first
    | with_reducible assumption | with_reducible refine KeptO.next ?_ | with_reducible refine KeptO.ite ?_ ?_
    | fail_if_no_progress with_reducible refine Kept.upd rfl rfl rfl rfl rfl rfl ?_

theorem kept_execBlockReset {s0 s : State} (h : Kept s0 s) :
    KeptO s0 (execBlockReset s) := by
  unfold execBlockReset
  try dsimp only
  repeat' first
    | with_reducible assumption | with_reducible refine KeptO.next ?_ | with_reducible refine kept_assertReset ?_
    | with_reducible refine Kept.ite ?_ ?_
    | fail_if_no_progress with_reducible refine Kept.upd rfl rfl rfl rfl rfl rfl ?_

theorem kept_execBlockResetRelease {s0 s : State} (h : Kept s0 s) :
    KeptO s0 (execBlockResetRelease s) := by
  unfold execBlockResetRelease
  try dsimp only
  repeat' first
    | with_reducible assumption | with_reducible refine KeptO.next ?_ | exact KeptO.refused | exact KeptO.fault
    | with_reducible refine KeptO.ite ?_ ?_ | with_reducible refine kept_repower ?_
    | with_reducible refine Kept.ite ?_ ?_ | with_reducible refine Kept.foldl (fun _ _ _ => ?_) ?_
    | with_reducible refine Kept.foldl2 (fun _ _ _ => ?_) ?_ | with_reducible refine Kept.foldl3 (fun _ _ _ => ?_) ?_
    | fail_if_no_progress with_reducible refine Kept.upd rfl rfl rfl rfl rfl rfl ?_
    | fail_if_no_progress with_reducible refine Kept.updP rfl rfl (by dsimp only; decide) rfl rfl rfl ?_
    | fail_if_no_progress with_reducible refine Kept.updL rfl rfl rfl (fun e => e) rfl ?_
    | fail_if_no_progress with_reducible refine Kept.updL rfl rfl rfl (fun e => absurd e Bool.false_ne_true) rfl ?_
    | split | dsimp only

theorem kept_execDaymarkWord {s0 s : State} {word : Word} {last : Bool} (h : Kept s0 s) :
    KeptO s0 (execDaymarkWord word last s) := by
  unfold execDaymarkWord
  dsimp only
  have hw : ∀ n, (if n < 32 then s.dm.words.set n word else s.dm.words).length = s.dm.words.length := by
    intro n; split <;> simp
  split
  · exact KeptO.next h
  · rename_i hl
    have hl : s.dm.locked = false := by
      cases e : s.dm.locked
      · rfl
      · exact absurd (by simp [e]) hl
    refine KeptO.ite (KeptO.next (Kept.of_inv (x := s) rfl ?_ h)) (KeptO.next (kept_bringUp (Kept.of_inv (x := s) rfl ?_ h)))
    · intro g
      exact ⟨g.1, ⟨(hw _).trans g.2.1.1, Nat.min_le_left _ _, fun e => by simp [hl] at e⟩, g.2.2⟩
    · intro g
      exact ⟨g.1, ⟨(hw _).trans g.2.1.1, Nat.min_le_left _ _, fun _ => rfl⟩, g.2.2⟩

theorem kept_execClusterBistDone {s0 s : State} {failed : BitVec 34} (h : Kept s0 s) :
    KeptO s0 (execClusterBistDone failed s) := by
  unfold execClusterBistDone
  try dsimp only
  repeat' first
    | with_reducible assumption | with_reducible refine KeptO.next ?_ | with_reducible refine KeptO.ite ?_ ?_
    | with_reducible refine kept_fenceOff ?_ | with_reducible refine kept_bringUpFault ?_
    | with_reducible refine kept_State_powerAsk ?_ | with_reducible refine kept_State_detect ?_
    | with_reducible refine Kept.foldl (fun _ _ _ => ?_) ?_
    | fail_if_no_progress with_reducible refine Kept.upd rfl rfl rfl rfl rfl rfl ?_

theorem kept_execSbPowerAnswer {s0 s : State} {dom : BitVec 7} {fail : Bool} (h : Kept s0 s) :
    KeptO s0 (execSbPowerAnswer dom fail s) := by
  unfold execSbPowerAnswer
  try dsimp only
  repeat' first
    | with_reducible assumption | with_reducible refine KeptO.next ?_ | with_reducible refine kept_sbIgnored ?_
    | with_reducible refine kept_powerNext ?_ | with_reducible refine kept_powerFail ?_
    | with_reducible refine kept_powerGood ?_
    | fail_if_no_progress with_reducible refine Kept.upd rfl rfl rfl rfl rfl rfl ?_ | split

theorem kept_execSbPowerTimeout {s0 s : State} {dom : BitVec 7} (h : Kept s0 s) :
    KeptO s0 (execSbPowerTimeout dom s) := by
  unfold execSbPowerTimeout
  try dsimp only
  repeat' first
    | with_reducible assumption | with_reducible refine KeptO.next ?_ | with_reducible refine kept_powerNext ?_
    | with_reducible refine kept_powerFail ?_
    | fail_if_no_progress with_reducible refine Kept.upd rfl rfl rfl rfl rfl rfl ?_ | split

theorem kept_execSbWake {s0 s : State} (h : Kept s0 s) :
    KeptO s0 (execSbWake s) := by
  unfold execSbWake
  try dsimp only
  repeat' first
    | with_reducible assumption | with_reducible refine KeptO.next ?_ | with_reducible refine kept_wakeEvent ?_

theorem kept_execEclipseEntry {s0 s : State} (h : Kept s0 s) :
    KeptO s0 (execEclipseEntry s) := by
  unfold execEclipseEntry
  try dsimp only
  repeat' first
    | with_reducible assumption | with_reducible refine KeptO.next ?_ | with_reducible refine kept_startWake ?_
    | with_reducible refine kept_enterEclipse ?_ | with_reducible refine kept_State_settle ?_
    | fail_if_no_progress with_reducible refine Kept.updP rfl rfl (by dsimp only; decide) rfl rfl rfl ?_ | split

theorem kept_execEclipseWake {s0 s : State} (h : Kept s0 s) :
    KeptO s0 (execEclipseWake s) := by
  unfold execEclipseWake
  try dsimp only
  repeat' first
    | with_reducible assumption | with_reducible refine KeptO.next ?_ | with_reducible refine KeptO.ite ?_ ?_
    | with_reducible refine kept_startWake ?_ | with_reducible refine kept_endWake ?_

theorem kept_execRegisterWrite {s0 s : State} {addr : BitVec 20} {value : Word} (h : Kept s0 s) :
    KeptO s0 (execRegisterWrite addr value s) := by
  unfold execRegisterWrite
  try dsimp only
  repeat' first
    | with_reducible assumption | with_reducible refine KeptO.next ?_ | with_reducible refine kept_answerWrite ?_
    | with_reducible refine kept_regWrite ?_

theorem kept_execCounterRead {s0 s : State} {addr : BitVec 20} (h : Kept s0 s) :
    KeptO s0 (execCounterRead addr s) := by
  unfold execCounterRead
  try dsimp only
  repeat' first
    | with_reducible assumption | with_reducible refine KeptO.next ?_ | with_reducible refine kept_answerRead ?_
    | with_reducible refine kept_regRead ?_

theorem kept_execCounterClear {s0 s : State} {value : Word} (h : Kept s0 s) :
    KeptO s0 (execCounterClear value s) := by
  unfold execCounterClear
  try dsimp only
  repeat' first
    | with_reducible assumption | with_reducible refine KeptO.next ?_ | exact KeptO.refused | exact KeptO.fault
    | with_reducible refine KeptO.ite ?_ ?_ | with_reducible refine kept_State_hostWrite (fun _ _ => ?_) ?_
    | with_reducible refine kept_cntCtl ?_ | with_reducible refine Kept.ite ?_ ?_
    | with_reducible refine Kept.foldl (fun _ _ _ => ?_) ?_ | with_reducible refine Kept.foldl2 (fun _ _ _ => ?_) ?_
    | with_reducible refine Kept.foldl3 (fun _ _ _ => ?_) ?_
    | fail_if_no_progress with_reducible refine Kept.upd rfl rfl rfl rfl rfl rfl ?_
    | fail_if_no_progress with_reducible refine Kept.updP rfl rfl (by dsimp only; decide) rfl rfl rfl ?_
    | fail_if_no_progress with_reducible refine Kept.updL rfl rfl rfl (fun e => e) rfl ?_
    | fail_if_no_progress with_reducible refine Kept.updL rfl rfl rfl (fun e => absurd e Bool.false_ne_true) rfl ?_
    | split | dsimp only

theorem kept_execTraceRestart {s0 s : State} {value : Word} (h : Kept s0 s) :
    KeptO s0 (execTraceRestart value s) := by
  unfold execTraceRestart
  try dsimp only
  repeat' first
    | with_reducible assumption | with_reducible refine KeptO.next ?_ | exact KeptO.refused | exact KeptO.fault
    | with_reducible refine KeptO.ite ?_ ?_ | with_reducible refine kept_State_hostWrite (fun _ _ => ?_) ?_
    | with_reducible refine kept_traceCfg ?_ | with_reducible refine Kept.ite ?_ ?_
    | with_reducible refine Kept.foldl (fun _ _ _ => ?_) ?_ | with_reducible refine Kept.foldl2 (fun _ _ _ => ?_) ?_
    | with_reducible refine Kept.foldl3 (fun _ _ _ => ?_) ?_
    | fail_if_no_progress with_reducible refine Kept.upd rfl rfl rfl rfl rfl rfl ?_
    | fail_if_no_progress with_reducible refine Kept.updP rfl rfl (by dsimp only; decide) rfl rfl rfl ?_
    | fail_if_no_progress with_reducible refine Kept.updL rfl rfl rfl (fun e => e) rfl ?_
    | fail_if_no_progress with_reducible refine Kept.updL rfl rfl rfl (fun e => absurd e Bool.false_ne_true) rfl ?_
    | split | dsimp only

theorem kept_execMoSel {s0 s : State} {value : Word} (h : Kept s0 s) :
    KeptO s0 (execMoSel value s) := by
  unfold execMoSel
  try dsimp only
  repeat' first
    | with_reducible assumption | with_reducible refine KeptO.next ?_
    | with_reducible refine kept_State_hostWrite (fun _ _ => ?_) ?_ | with_reducible refine kept_captureMoor ?_

theorem kept_execEngFlagsWrite {s0 s : State} {value : Word} (h : Kept s0 s) :
    KeptO s0 (execEngFlagsWrite value s) := by
  unfold execEngFlagsWrite
  try dsimp only
  repeat' first
    | with_reducible assumption | with_reducible refine KeptO.next ?_ | exact KeptO.refused | exact KeptO.fault
    | with_reducible refine KeptO.ite ?_ ?_ | with_reducible refine kept_State_hostWrite (fun _ _ => ?_) ?_
    | with_reducible refine kept_engFlagsClear ?_ | with_reducible refine Kept.ite ?_ ?_
    | with_reducible refine Kept.foldl (fun _ _ _ => ?_) ?_ | with_reducible refine Kept.foldl2 (fun _ _ _ => ?_) ?_
    | with_reducible refine Kept.foldl3 (fun _ _ _ => ?_) ?_
    | fail_if_no_progress with_reducible refine Kept.upd rfl rfl rfl rfl rfl rfl ?_
    | fail_if_no_progress with_reducible refine Kept.updP rfl rfl (by dsimp only; decide) rfl rfl rfl ?_
    | fail_if_no_progress with_reducible refine Kept.updL rfl rfl rfl (fun e => e) rfl ?_
    | fail_if_no_progress with_reducible refine Kept.updL rfl rfl rfl (fun e => absurd e Bool.false_ne_true) rfl ?_
    | split | dsimp only

theorem kept_execBcastWrite {s0 s : State} {window : Fin 9} {offset : BitVec 12} {value : Word} (h : Kept s0 s) :
    KeptO s0 (execBcastWrite window offset value s) := by
  unfold execBcastWrite
  try dsimp only
  repeat' first
    | with_reducible assumption | with_reducible refine KeptO.next ?_ | with_reducible refine kept_answerWrite ?_
    | with_reducible refine kept_windowWrite ?_ | split

theorem kept_execBcastRead {s0 s : State} {window : Fin 9} {offset : BitVec 12} (h : Kept s0 s) :
    KeptO s0 (execBcastRead window offset s) := by
  unfold execBcastRead
  try dsimp only
  repeat' first
    | with_reducible assumption | with_reducible refine KeptO.next ?_ | with_reducible refine kept_answerRead ?_
    | with_reducible refine kept_windowRead ?_ | split

theorem kept_execLogEnable {s0 s : State} {value : Word} (h : Kept s0 s) :
    KeptO s0 (execLogEnable value s) := by
  unfold execLogEnable
  try dsimp only
  repeat' first
    | with_reducible assumption | with_reducible refine KeptO.next ?_ | exact KeptO.refused | exact KeptO.fault
    | with_reducible refine KeptO.ite ?_ ?_ | with_reducible refine kept_State_hostWrite (fun _ _ => ?_) ?_
    | with_reducible refine kept_logCfg ?_ | with_reducible refine Kept.ite ?_ ?_
    | with_reducible refine Kept.foldl (fun _ _ _ => ?_) ?_ | with_reducible refine Kept.foldl2 (fun _ _ _ => ?_) ?_
    | with_reducible refine Kept.foldl3 (fun _ _ _ => ?_) ?_
    | fail_if_no_progress with_reducible refine Kept.upd rfl rfl rfl rfl rfl rfl ?_
    | fail_if_no_progress with_reducible refine Kept.updP rfl rfl (by dsimp only; decide) rfl rfl rfl ?_
    | fail_if_no_progress with_reducible refine Kept.updL rfl rfl rfl (fun e => e) rfl ?_
    | fail_if_no_progress with_reducible refine Kept.updL rfl rfl rfl (fun e => absurd e Bool.false_ne_true) rfl ?_
    | split | dsimp only

theorem kept_execLogDisable {s0 s : State} {value : Word} (h : Kept s0 s) :
    KeptO s0 (execLogDisable value s) := by
  unfold execLogDisable
  try dsimp only
  repeat' first
    | with_reducible assumption | with_reducible refine KeptO.next ?_ | exact KeptO.refused | exact KeptO.fault
    | with_reducible refine KeptO.ite ?_ ?_ | with_reducible refine kept_State_hostWrite (fun _ _ => ?_) ?_
    | with_reducible refine kept_logCfg ?_ | with_reducible refine Kept.ite ?_ ?_
    | with_reducible refine Kept.foldl (fun _ _ _ => ?_) ?_ | with_reducible refine Kept.foldl2 (fun _ _ _ => ?_) ?_
    | with_reducible refine Kept.foldl3 (fun _ _ _ => ?_) ?_
    | fail_if_no_progress with_reducible refine Kept.upd rfl rfl rfl rfl rfl rfl ?_
    | fail_if_no_progress with_reducible refine Kept.updP rfl rfl (by dsimp only; decide) rfl rfl rfl ?_
    | fail_if_no_progress with_reducible refine Kept.updL rfl rfl rfl (fun e => e) rfl ?_
    | fail_if_no_progress with_reducible refine Kept.updL rfl rfl rfl (fun e => absurd e Bool.false_ne_true) rfl ?_
    | split | dsimp only

theorem kept_execRestoreDirty {s0 s : State} (h : Kept s0 s) :
    KeptO s0 (execRestoreDirty s) := by
  unfold execRestoreDirty
  try dsimp only
  repeat' first
    | with_reducible assumption | with_reducible refine KeptO.next ?_ | exact KeptO.refused | exact KeptO.fault
    | with_reducible refine KeptO.ite ?_ ?_ | with_reducible refine kept_State_hostWrite (fun _ _ => ?_) ?_
    | with_reducible refine kept_restoreStart ?_ | with_reducible refine Kept.ite ?_ ?_
    | with_reducible refine Kept.foldl (fun _ _ _ => ?_) ?_ | with_reducible refine Kept.foldl2 (fun _ _ _ => ?_) ?_
    | with_reducible refine Kept.foldl3 (fun _ _ _ => ?_) ?_
    | fail_if_no_progress with_reducible refine Kept.upd rfl rfl rfl rfl rfl rfl ?_
    | fail_if_no_progress with_reducible refine Kept.updP rfl rfl (by dsimp only; decide) rfl rfl rfl ?_
    | fail_if_no_progress with_reducible refine Kept.updL rfl rfl rfl (fun e => e) rfl ?_
    | fail_if_no_progress with_reducible refine Kept.updL rfl rfl rfl (fun e => absurd e Bool.false_ne_true) rfl ?_
    | split | dsimp only

theorem kept_execRestoreFull {s0 s : State} (h : Kept s0 s) :
    KeptO s0 (execRestoreFull s) := by
  unfold execRestoreFull
  try dsimp only
  repeat' first
    | with_reducible assumption | with_reducible refine KeptO.next ?_ | exact KeptO.refused | exact KeptO.fault
    | with_reducible refine KeptO.ite ?_ ?_ | with_reducible refine kept_State_hostWrite (fun _ _ => ?_) ?_
    | with_reducible refine kept_restoreStart ?_ | with_reducible refine Kept.ite ?_ ?_
    | with_reducible refine Kept.foldl (fun _ _ _ => ?_) ?_ | with_reducible refine Kept.foldl2 (fun _ _ _ => ?_) ?_
    | with_reducible refine Kept.foldl3 (fun _ _ _ => ?_) ?_
    | fail_if_no_progress with_reducible refine Kept.upd rfl rfl rfl rfl rfl rfl ?_
    | fail_if_no_progress with_reducible refine Kept.updP rfl rfl (by dsimp only; decide) rfl rfl rfl ?_
    | fail_if_no_progress with_reducible refine Kept.updL rfl rfl rfl (fun e => e) rfl ?_
    | fail_if_no_progress with_reducible refine Kept.updL rfl rfl rfl (fun e => absurd e Bool.false_ne_true) rfl ?_
    | split | dsimp only

theorem kept_execStreamWindowService {s0 s : State} (h : Kept s0 s) :
    KeptO s0 (execStreamWindowService s) := by
  unfold execStreamWindowService
  try dsimp only
  repeat' first
    | with_reducible assumption | with_reducible refine KeptO.next ?_ | with_reducible refine KeptO.ite ?_ ?_
    | with_reducible refine kept_serveBanks ?_ | with_reducible refine kept_closeWindows ?_

theorem kept_execWsBypass {s0 s : State} (h : Kept s0 s) : KeptO s0 (execWsBypass s) :=
  KeptO.next (kept_endTest (Kept.of_inv (x := s) rfl
    (fun g => ⟨g.1, g.2.1, ⟨Nat.zero_le _, fun _ => rfl⟩, g.2.2.2⟩) h))

theorem kept_execWsExtest {s0 s : State} (h : Kept s0 s) : KeptO s0 (execWsExtest s) :=
  KeptO.next (kept_holdForTest (by decide) h)

theorem kept_execWsIntest {s0 s : State} (h : Kept s0 s) : KeptO s0 (execWsIntest s) :=
  KeptO.next (kept_holdForTest (by decide) h)

theorem kept_execDmRead {s0 s : State} (h : Kept s0 s) : KeptO s0 (execDmRead s) :=
  KeptO.next (Kept.of_inv (x := s) rfl (fun g => ⟨g.1, g.2.1, ⟨Nat.le_refl _, fun _ => rfl⟩, g.2.2.2⟩) h)

theorem kept_execWrstnFall {s0 s : State} (h : Kept s0 s) : KeptO s0 (execWrstnFall s) := by
  unfold execWrstnFall endTest
  cases hh : s.tw.held
  · simp only [hh]
    exact KeptO.next (Kept.of_inv (x := s) rfl
      (fun g => ⟨g.1, g.2.1, ⟨Nat.zero_le _, fun e => absurd e Bool.false_ne_true⟩, g.2.2.2⟩) h)
  · have ht : Kept s0 { s with tw := { s.tw with wrstn := false, wir := 0, held := false } } :=
      Kept.of_inv (x := s) rfl (fun g => ⟨g.1, g.2.1, ⟨Nat.zero_le _, fun e => absurd e Bool.false_ne_true⟩, g.2.2.2⟩) h
    simp only [hh, if_true]
    exact KeptO.next (Kept.ite (kept_repower (kept_resetNow ht)) (kept_resetNow ht))

theorem kept_execValidLowered {s0 s : State} {port : PortId} (h : Kept s0 s) :
    KeptO s0 (execValidLowered port s) := by
  unfold execValidLowered
  try dsimp only
  repeat' first
    | with_reducible assumption | with_reducible refine KeptO.next ?_ | exact KeptO.refused | exact KeptO.fault
    | with_reducible refine KeptO.ite ?_ ?_ | with_reducible refine kept_sbIgnored ?_
    | with_reducible refine kept_State_sysFault ?_ | with_reducible refine kept_State_memFault ?_
    | with_reducible refine kept_lnViolation ?_ | with_reducible refine kept_State_ringFault ?_
    | with_reducible refine Kept.ite ?_ ?_ | with_reducible refine Kept.foldl (fun _ _ _ => ?_) ?_
    | with_reducible refine Kept.foldl2 (fun _ _ _ => ?_) ?_ | with_reducible refine Kept.foldl3 (fun _ _ _ => ?_) ?_
    | fail_if_no_progress with_reducible refine Kept.upd rfl rfl rfl rfl rfl rfl ?_
    | fail_if_no_progress with_reducible refine Kept.updP rfl rfl (by dsimp only; decide) rfl rfl rfl ?_
    | fail_if_no_progress with_reducible refine Kept.updL rfl rfl rfl (fun e => e) rfl ?_
    | fail_if_no_progress with_reducible refine Kept.updL rfl rfl rfl (fun e => absurd e Bool.false_ne_true) rfl ?_
    | split | dsimp only

end Sys2Proof.Machine
end

