-- ==== Sys2Proof/Laws/State.lean ====
section
/-! SUPPORT. What each named update leaves alone: one lemma per field of State and update, true by computation, so
that no later proof unfolds a record update. -/

namespace Sys2Proof.Machine

@[simp] theorem State.putWord_clk (s : State) (w x : Nat) : (s.putWord w x).clk = s.clk := rfl
@[simp] theorem State.putWord_lanes (s : State) (w x : Nat) : (s.putWord w x).lanes = s.lanes := rfl
@[simp] theorem State.putWord_map (s : State) (w x : Nat) : (s.putWord w x).map = s.map := rfl
@[simp] theorem State.putWord_buoys (s : State) (w x : Nat) : (s.putWord w x).buoys = s.buoys := rfl
@[simp] theorem State.putWord_str (s : State) (w x : Nat) : (s.putWord w x).str = s.str := rfl
@[simp] theorem State.putWord_trap (s : State) (w x : Nat) : (s.putWord w x).trap = s.trap := rfl
@[simp] theorem State.putWord_ln (s : State) (w x : Nat) : (s.putWord w x).ln = s.ln := rfl
@[simp] theorem State.putWord_td (s : State) (w x : Nat) : (s.putWord w x).td = s.td := rfl
@[simp] theorem State.putWord_mem (s : State) (w x : Nat) : (s.putWord w x).mem = s.mem := rfl
@[simp] theorem State.putWord_ring (s : State) (w x : Nat) : (s.putWord w x).ring = s.ring := rfl
@[simp] theorem State.putWord_kp (s : State) (w x : Nat) : (s.putWord w x).kp = s.kp := rfl
@[simp] theorem State.putWord_evq (s : State) (w x : Nat) : (s.putWord w x).evq = s.evq := rfl
@[simp] theorem State.putWord_errs (s : State) (w x : Nat) : (s.putWord w x).errs = s.errs := rfl
@[simp] theorem State.putWord_flt (s : State) (w x : Nat) : (s.putWord w x).flt = s.flt := rfl
@[simp] theorem State.putWord_cnt (s : State) (w x : Nat) : (s.putWord w x).cnt = s.cnt := rfl
@[simp] theorem State.putWord_log (s : State) (w x : Nat) : (s.putWord w x).log = s.log := rfl
@[simp] theorem State.putWord_rst (s : State) (w x : Nat) : (s.putWord w x).rst = s.rst := rfl
@[simp] theorem State.putWord_pwr (s : State) (w x : Nat) : (s.putWord w x).pwr = s.pwr := rfl
@[simp] theorem State.putWord_dm (s : State) (w x : Nat) : (s.putWord w x).dm = s.dm := rfl
@[simp] theorem State.putWord_tw (s : State) (w x : Nat) : (s.putWord w x).tw = s.tw := rfl
@[simp] theorem State.putWord_trc (s : State) (w x : Nat) : (s.putWord w x).trc = s.trc := rfl
@[simp] theorem State.putWord_bist (s : State) (w x : Nat) : (s.putWord w x).bist = s.bist := rfl
@[simp] theorem State.putWord_lnCfg (s : State) (w x : Nat) : (s.putWord w x).lnCfg = s.lnCfg := rfl
@[simp] theorem State.putWord_out (s : State) (w x : Nat) : (s.putWord w x).out = s.out := rfl
@[simp] theorem State.putWord_free (s : State) (w x : Nat) : (s.putWord w x).free = s.free := rfl
@[simp] theorem State.putWord_pending (s : State) (w x : Nat) : (s.putWord w x).pending = s.pending := rfl

@[simp] theorem State.modSec_clk (s : State) (sec : Nat) (f : SecCtl → SecCtl) : (s.modSec sec f).clk = s.clk := rfl
@[simp] theorem State.modSec_lanes (s : State) (sec : Nat) (f : SecCtl → SecCtl) :
    (s.modSec sec f).lanes = s.lanes := rfl
@[simp] theorem State.modSec_map (s : State) (sec : Nat) (f : SecCtl → SecCtl) : (s.modSec sec f).map = s.map := rfl
@[simp] theorem State.modSec_buoys (s : State) (sec : Nat) (f : SecCtl → SecCtl) :
    (s.modSec sec f).buoys = s.buoys := rfl
@[simp] theorem State.modSec_str (s : State) (sec : Nat) (f : SecCtl → SecCtl) : (s.modSec sec f).str = s.str := rfl
@[simp] theorem State.modSec_trap (s : State) (sec : Nat) (f : SecCtl → SecCtl) :
    (s.modSec sec f).trap = s.trap := rfl
@[simp] theorem State.modSec_ln (s : State) (sec : Nat) (f : SecCtl → SecCtl) : (s.modSec sec f).ln = s.ln := rfl
@[simp] theorem State.modSec_td (s : State) (sec : Nat) (f : SecCtl → SecCtl) : (s.modSec sec f).td = s.td := rfl
@[simp] theorem State.modSec_mem (s : State) (sec : Nat) (f : SecCtl → SecCtl) : (s.modSec sec f).mem = s.mem := rfl
@[simp] theorem State.modSec_ring (s : State) (sec : Nat) (f : SecCtl → SecCtl) :
    (s.modSec sec f).ring = s.ring := rfl
@[simp] theorem State.modSec_kp (s : State) (sec : Nat) (f : SecCtl → SecCtl) : (s.modSec sec f).kp = s.kp := rfl
@[simp] theorem State.modSec_evq (s : State) (sec : Nat) (f : SecCtl → SecCtl) : (s.modSec sec f).evq = s.evq := rfl
@[simp] theorem State.modSec_errs (s : State) (sec : Nat) (f : SecCtl → SecCtl) :
    (s.modSec sec f).errs = s.errs := rfl
@[simp] theorem State.modSec_flt (s : State) (sec : Nat) (f : SecCtl → SecCtl) : (s.modSec sec f).flt = s.flt := rfl
@[simp] theorem State.modSec_cnt (s : State) (sec : Nat) (f : SecCtl → SecCtl) : (s.modSec sec f).cnt = s.cnt := rfl
@[simp] theorem State.modSec_log (s : State) (sec : Nat) (f : SecCtl → SecCtl) : (s.modSec sec f).log = s.log := rfl
@[simp] theorem State.modSec_rst (s : State) (sec : Nat) (f : SecCtl → SecCtl) : (s.modSec sec f).rst = s.rst := rfl
@[simp] theorem State.modSec_pwr (s : State) (sec : Nat) (f : SecCtl → SecCtl) : (s.modSec sec f).pwr = s.pwr := rfl
@[simp] theorem State.modSec_dm (s : State) (sec : Nat) (f : SecCtl → SecCtl) : (s.modSec sec f).dm = s.dm := rfl
@[simp] theorem State.modSec_tw (s : State) (sec : Nat) (f : SecCtl → SecCtl) : (s.modSec sec f).tw = s.tw := rfl
@[simp] theorem State.modSec_trc (s : State) (sec : Nat) (f : SecCtl → SecCtl) : (s.modSec sec f).trc = s.trc := rfl
@[simp] theorem State.modSec_bist (s : State) (sec : Nat) (f : SecCtl → SecCtl) :
    (s.modSec sec f).bist = s.bist := rfl
@[simp] theorem State.modSec_lnCfg (s : State) (sec : Nat) (f : SecCtl → SecCtl) :
    (s.modSec sec f).lnCfg = s.lnCfg := rfl
@[simp] theorem State.modSec_out (s : State) (sec : Nat) (f : SecCtl → SecCtl) : (s.modSec sec f).out = s.out := rfl
@[simp] theorem State.modSec_free (s : State) (sec : Nat) (f : SecCtl → SecCtl) :
    (s.modSec sec f).free = s.free := rfl
@[simp] theorem State.modSec_pending (s : State) (sec : Nat) (f : SecCtl → SecCtl) :
    (s.modSec sec f).pending = s.pending := rfl

@[simp] theorem State.modLane_clk (s : State) (pc : Nat) (f : Lanes → Lanes) : (s.modLane pc f).clk = s.clk := rfl
@[simp] theorem State.modLane_map (s : State) (pc : Nat) (f : Lanes → Lanes) : (s.modLane pc f).map = s.map := rfl
@[simp] theorem State.modLane_osura (s : State) (pc : Nat) (f : Lanes → Lanes) :
    (s.modLane pc f).osura = s.osura := rfl
@[simp] theorem State.modLane_buoys (s : State) (pc : Nat) (f : Lanes → Lanes) :
    (s.modLane pc f).buoys = s.buoys := rfl
@[simp] theorem State.modLane_str (s : State) (pc : Nat) (f : Lanes → Lanes) : (s.modLane pc f).str = s.str := rfl
@[simp] theorem State.modLane_trap (s : State) (pc : Nat) (f : Lanes → Lanes) : (s.modLane pc f).trap = s.trap := rfl
@[simp] theorem State.modLane_ln (s : State) (pc : Nat) (f : Lanes → Lanes) : (s.modLane pc f).ln = s.ln := rfl
@[simp] theorem State.modLane_td (s : State) (pc : Nat) (f : Lanes → Lanes) : (s.modLane pc f).td = s.td := rfl
@[simp] theorem State.modLane_mem (s : State) (pc : Nat) (f : Lanes → Lanes) : (s.modLane pc f).mem = s.mem := rfl
@[simp] theorem State.modLane_ring (s : State) (pc : Nat) (f : Lanes → Lanes) : (s.modLane pc f).ring = s.ring := rfl
@[simp] theorem State.modLane_kp (s : State) (pc : Nat) (f : Lanes → Lanes) : (s.modLane pc f).kp = s.kp := rfl
@[simp] theorem State.modLane_evq (s : State) (pc : Nat) (f : Lanes → Lanes) : (s.modLane pc f).evq = s.evq := rfl
@[simp] theorem State.modLane_errs (s : State) (pc : Nat) (f : Lanes → Lanes) : (s.modLane pc f).errs = s.errs := rfl
@[simp] theorem State.modLane_flt (s : State) (pc : Nat) (f : Lanes → Lanes) : (s.modLane pc f).flt = s.flt := rfl
@[simp] theorem State.modLane_cnt (s : State) (pc : Nat) (f : Lanes → Lanes) : (s.modLane pc f).cnt = s.cnt := rfl
@[simp] theorem State.modLane_log (s : State) (pc : Nat) (f : Lanes → Lanes) : (s.modLane pc f).log = s.log := rfl
@[simp] theorem State.modLane_rst (s : State) (pc : Nat) (f : Lanes → Lanes) : (s.modLane pc f).rst = s.rst := rfl
@[simp] theorem State.modLane_pwr (s : State) (pc : Nat) (f : Lanes → Lanes) : (s.modLane pc f).pwr = s.pwr := rfl
@[simp] theorem State.modLane_dm (s : State) (pc : Nat) (f : Lanes → Lanes) : (s.modLane pc f).dm = s.dm := rfl
@[simp] theorem State.modLane_tw (s : State) (pc : Nat) (f : Lanes → Lanes) : (s.modLane pc f).tw = s.tw := rfl
@[simp] theorem State.modLane_trc (s : State) (pc : Nat) (f : Lanes → Lanes) : (s.modLane pc f).trc = s.trc := rfl
@[simp] theorem State.modLane_bist (s : State) (pc : Nat) (f : Lanes → Lanes) : (s.modLane pc f).bist = s.bist := rfl
@[simp] theorem State.modLane_lnCfg (s : State) (pc : Nat) (f : Lanes → Lanes) :
    (s.modLane pc f).lnCfg = s.lnCfg := rfl
@[simp] theorem State.modLane_out (s : State) (pc : Nat) (f : Lanes → Lanes) : (s.modLane pc f).out = s.out := rfl
@[simp] theorem State.modLane_free (s : State) (pc : Nat) (f : Lanes → Lanes) : (s.modLane pc f).free = s.free := rfl
@[simp] theorem State.modLane_pending (s : State) (pc : Nat) (f : Lanes → Lanes) :
    (s.modLane pc f).pending = s.pending := rfl

@[simp] theorem State.setScal_clk (s : State) (n v : Nat) : (s.setScal n v).clk = s.clk := rfl
@[simp] theorem State.setScal_lanes (s : State) (n v : Nat) : (s.setScal n v).lanes = s.lanes := rfl
@[simp] theorem State.setScal_map (s : State) (n v : Nat) : (s.setScal n v).map = s.map := rfl
@[simp] theorem State.setScal_osura (s : State) (n v : Nat) : (s.setScal n v).osura = s.osura := rfl
@[simp] theorem State.setScal_buoys (s : State) (n v : Nat) : (s.setScal n v).buoys = s.buoys := rfl
@[simp] theorem State.setScal_trap (s : State) (n v : Nat) : (s.setScal n v).trap = s.trap := rfl
@[simp] theorem State.setScal_ln (s : State) (n v : Nat) : (s.setScal n v).ln = s.ln := rfl
@[simp] theorem State.setScal_td (s : State) (n v : Nat) : (s.setScal n v).td = s.td := rfl
@[simp] theorem State.setScal_mem (s : State) (n v : Nat) : (s.setScal n v).mem = s.mem := rfl
@[simp] theorem State.setScal_ring (s : State) (n v : Nat) : (s.setScal n v).ring = s.ring := rfl
@[simp] theorem State.setScal_kp (s : State) (n v : Nat) : (s.setScal n v).kp = s.kp := rfl
@[simp] theorem State.setScal_evq (s : State) (n v : Nat) : (s.setScal n v).evq = s.evq := rfl
@[simp] theorem State.setScal_errs (s : State) (n v : Nat) : (s.setScal n v).errs = s.errs := rfl
@[simp] theorem State.setScal_flt (s : State) (n v : Nat) : (s.setScal n v).flt = s.flt := rfl
@[simp] theorem State.setScal_cnt (s : State) (n v : Nat) : (s.setScal n v).cnt = s.cnt := rfl
@[simp] theorem State.setScal_log (s : State) (n v : Nat) : (s.setScal n v).log = s.log := rfl
@[simp] theorem State.setScal_rst (s : State) (n v : Nat) : (s.setScal n v).rst = s.rst := rfl
@[simp] theorem State.setScal_pwr (s : State) (n v : Nat) : (s.setScal n v).pwr = s.pwr := rfl
@[simp] theorem State.setScal_dm (s : State) (n v : Nat) : (s.setScal n v).dm = s.dm := rfl
@[simp] theorem State.setScal_tw (s : State) (n v : Nat) : (s.setScal n v).tw = s.tw := rfl
@[simp] theorem State.setScal_trc (s : State) (n v : Nat) : (s.setScal n v).trc = s.trc := rfl
@[simp] theorem State.setScal_bist (s : State) (n v : Nat) : (s.setScal n v).bist = s.bist := rfl
@[simp] theorem State.setScal_lnCfg (s : State) (n v : Nat) : (s.setScal n v).lnCfg = s.lnCfg := rfl
@[simp] theorem State.setScal_out (s : State) (n v : Nat) : (s.setScal n v).out = s.out := rfl
@[simp] theorem State.setScal_free (s : State) (n v : Nat) : (s.setScal n v).free = s.free := rfl
@[simp] theorem State.setScal_pending (s : State) (n v : Nat) : (s.setScal n v).pending = s.pending := rfl

@[simp] theorem State.setBuoy_clk (s : State) (n : Nat) (b : Buoy) : (s.setBuoy n b).clk = s.clk := rfl
@[simp] theorem State.setBuoy_lanes (s : State) (n : Nat) (b : Buoy) : (s.setBuoy n b).lanes = s.lanes := rfl
@[simp] theorem State.setBuoy_map (s : State) (n : Nat) (b : Buoy) : (s.setBuoy n b).map = s.map := rfl
@[simp] theorem State.setBuoy_osura (s : State) (n : Nat) (b : Buoy) : (s.setBuoy n b).osura = s.osura := rfl
@[simp] theorem State.setBuoy_str (s : State) (n : Nat) (b : Buoy) : (s.setBuoy n b).str = s.str := rfl
@[simp] theorem State.setBuoy_trap (s : State) (n : Nat) (b : Buoy) : (s.setBuoy n b).trap = s.trap := rfl
@[simp] theorem State.setBuoy_ln (s : State) (n : Nat) (b : Buoy) : (s.setBuoy n b).ln = s.ln := rfl
@[simp] theorem State.setBuoy_td (s : State) (n : Nat) (b : Buoy) : (s.setBuoy n b).td = s.td := rfl
@[simp] theorem State.setBuoy_mem (s : State) (n : Nat) (b : Buoy) : (s.setBuoy n b).mem = s.mem := rfl
@[simp] theorem State.setBuoy_ring (s : State) (n : Nat) (b : Buoy) : (s.setBuoy n b).ring = s.ring := rfl
@[simp] theorem State.setBuoy_kp (s : State) (n : Nat) (b : Buoy) : (s.setBuoy n b).kp = s.kp := rfl
@[simp] theorem State.setBuoy_evq (s : State) (n : Nat) (b : Buoy) : (s.setBuoy n b).evq = s.evq := rfl
@[simp] theorem State.setBuoy_errs (s : State) (n : Nat) (b : Buoy) : (s.setBuoy n b).errs = s.errs := rfl
@[simp] theorem State.setBuoy_flt (s : State) (n : Nat) (b : Buoy) : (s.setBuoy n b).flt = s.flt := rfl
@[simp] theorem State.setBuoy_cnt (s : State) (n : Nat) (b : Buoy) : (s.setBuoy n b).cnt = s.cnt := rfl
@[simp] theorem State.setBuoy_log (s : State) (n : Nat) (b : Buoy) : (s.setBuoy n b).log = s.log := rfl
@[simp] theorem State.setBuoy_rst (s : State) (n : Nat) (b : Buoy) : (s.setBuoy n b).rst = s.rst := rfl
@[simp] theorem State.setBuoy_pwr (s : State) (n : Nat) (b : Buoy) : (s.setBuoy n b).pwr = s.pwr := rfl
@[simp] theorem State.setBuoy_dm (s : State) (n : Nat) (b : Buoy) : (s.setBuoy n b).dm = s.dm := rfl
@[simp] theorem State.setBuoy_tw (s : State) (n : Nat) (b : Buoy) : (s.setBuoy n b).tw = s.tw := rfl
@[simp] theorem State.setBuoy_trc (s : State) (n : Nat) (b : Buoy) : (s.setBuoy n b).trc = s.trc := rfl
@[simp] theorem State.setBuoy_bist (s : State) (n : Nat) (b : Buoy) : (s.setBuoy n b).bist = s.bist := rfl
@[simp] theorem State.setBuoy_lnCfg (s : State) (n : Nat) (b : Buoy) : (s.setBuoy n b).lnCfg = s.lnCfg := rfl
@[simp] theorem State.setBuoy_out (s : State) (n : Nat) (b : Buoy) : (s.setBuoy n b).out = s.out := rfl
@[simp] theorem State.setBuoy_free (s : State) (n : Nat) (b : Buoy) : (s.setBuoy n b).free = s.free := rfl
@[simp] theorem State.setBuoy_pending (s : State) (n : Nat) (b : Buoy) : (s.setBuoy n b).pending = s.pending := rfl

@[simp] theorem State.freeBuoy_clk (s : State) (n : Nat) : (s.freeBuoy n).clk = s.clk := rfl
@[simp] theorem State.freeBuoy_lanes (s : State) (n : Nat) : (s.freeBuoy n).lanes = s.lanes := rfl
@[simp] theorem State.freeBuoy_map (s : State) (n : Nat) : (s.freeBuoy n).map = s.map := rfl
@[simp] theorem State.freeBuoy_osura (s : State) (n : Nat) : (s.freeBuoy n).osura = s.osura := rfl
@[simp] theorem State.freeBuoy_str (s : State) (n : Nat) : (s.freeBuoy n).str = s.str := rfl
@[simp] theorem State.freeBuoy_trap (s : State) (n : Nat) : (s.freeBuoy n).trap = s.trap := rfl
@[simp] theorem State.freeBuoy_ln (s : State) (n : Nat) : (s.freeBuoy n).ln = s.ln := rfl
@[simp] theorem State.freeBuoy_td (s : State) (n : Nat) : (s.freeBuoy n).td = s.td := rfl
@[simp] theorem State.freeBuoy_mem (s : State) (n : Nat) : (s.freeBuoy n).mem = s.mem := rfl
@[simp] theorem State.freeBuoy_ring (s : State) (n : Nat) : (s.freeBuoy n).ring = s.ring := rfl
@[simp] theorem State.freeBuoy_kp (s : State) (n : Nat) : (s.freeBuoy n).kp = s.kp := rfl
@[simp] theorem State.freeBuoy_evq (s : State) (n : Nat) : (s.freeBuoy n).evq = s.evq := rfl
@[simp] theorem State.freeBuoy_errs (s : State) (n : Nat) : (s.freeBuoy n).errs = s.errs := rfl
@[simp] theorem State.freeBuoy_flt (s : State) (n : Nat) : (s.freeBuoy n).flt = s.flt := rfl
@[simp] theorem State.freeBuoy_cnt (s : State) (n : Nat) : (s.freeBuoy n).cnt = s.cnt := rfl
@[simp] theorem State.freeBuoy_log (s : State) (n : Nat) : (s.freeBuoy n).log = s.log := rfl
@[simp] theorem State.freeBuoy_rst (s : State) (n : Nat) : (s.freeBuoy n).rst = s.rst := rfl
@[simp] theorem State.freeBuoy_pwr (s : State) (n : Nat) : (s.freeBuoy n).pwr = s.pwr := rfl
@[simp] theorem State.freeBuoy_dm (s : State) (n : Nat) : (s.freeBuoy n).dm = s.dm := rfl
@[simp] theorem State.freeBuoy_tw (s : State) (n : Nat) : (s.freeBuoy n).tw = s.tw := rfl
@[simp] theorem State.freeBuoy_trc (s : State) (n : Nat) : (s.freeBuoy n).trc = s.trc := rfl
@[simp] theorem State.freeBuoy_bist (s : State) (n : Nat) : (s.freeBuoy n).bist = s.bist := rfl
@[simp] theorem State.freeBuoy_lnCfg (s : State) (n : Nat) : (s.freeBuoy n).lnCfg = s.lnCfg := rfl
@[simp] theorem State.freeBuoy_out (s : State) (n : Nat) : (s.freeBuoy n).out = s.out := rfl
@[simp] theorem State.freeBuoy_free (s : State) (n : Nat) : (s.freeBuoy n).free = s.free := rfl
@[simp] theorem State.freeBuoy_pending (s : State) (n : Nat) : (s.freeBuoy n).pending = s.pending := rfl

@[simp] theorem restoreFail_clk (code : Nat) (s : State) : (restoreFail code s).clk = s.clk := rfl
@[simp] theorem restoreFail_lanes (code : Nat) (s : State) : (restoreFail code s).lanes = s.lanes := rfl
@[simp] theorem restoreFail_map (code : Nat) (s : State) : (restoreFail code s).map = s.map := rfl
@[simp] theorem restoreFail_osura (code : Nat) (s : State) : (restoreFail code s).osura = s.osura := rfl
@[simp] theorem restoreFail_buoys (code : Nat) (s : State) : (restoreFail code s).buoys = s.buoys := rfl
@[simp] theorem restoreFail_str (code : Nat) (s : State) : (restoreFail code s).str = s.str := rfl
@[simp] theorem restoreFail_trap (code : Nat) (s : State) : (restoreFail code s).trap = s.trap := rfl
@[simp] theorem restoreFail_ln (code : Nat) (s : State) : (restoreFail code s).ln = s.ln := rfl
@[simp] theorem restoreFail_td (code : Nat) (s : State) : (restoreFail code s).td = s.td := rfl
@[simp] theorem restoreFail_ring (code : Nat) (s : State) : (restoreFail code s).ring = s.ring := rfl
@[simp] theorem restoreFail_kp (code : Nat) (s : State) : (restoreFail code s).kp = s.kp := rfl
@[simp] theorem restoreFail_evq (code : Nat) (s : State) : (restoreFail code s).evq = s.evq := rfl
@[simp] theorem restoreFail_errs (code : Nat) (s : State) : (restoreFail code s).errs = s.errs := rfl
@[simp] theorem restoreFail_flt (code : Nat) (s : State) : (restoreFail code s).flt = s.flt := rfl
@[simp] theorem restoreFail_cnt (code : Nat) (s : State) : (restoreFail code s).cnt = s.cnt := rfl
@[simp] theorem restoreFail_rst (code : Nat) (s : State) : (restoreFail code s).rst = s.rst := rfl
@[simp] theorem restoreFail_pwr (code : Nat) (s : State) : (restoreFail code s).pwr = s.pwr := rfl
@[simp] theorem restoreFail_dm (code : Nat) (s : State) : (restoreFail code s).dm = s.dm := rfl
@[simp] theorem restoreFail_tw (code : Nat) (s : State) : (restoreFail code s).tw = s.tw := rfl
@[simp] theorem restoreFail_trc (code : Nat) (s : State) : (restoreFail code s).trc = s.trc := rfl
@[simp] theorem restoreFail_bist (code : Nat) (s : State) : (restoreFail code s).bist = s.bist := rfl
@[simp] theorem restoreFail_lnCfg (code : Nat) (s : State) : (restoreFail code s).lnCfg = s.lnCfg := rfl
@[simp] theorem restoreFail_out (code : Nat) (s : State) : (restoreFail code s).out = s.out := rfl
@[simp] theorem restoreFail_free (code : Nat) (s : State) : (restoreFail code s).free = s.free := rfl
@[simp] theorem restoreFail_pending (code : Nat) (s : State) : (restoreFail code s).pending = s.pending := rfl

@[simp] theorem endRestore_clk (s : State) : (endRestore s).clk = s.clk := by unfold endRestore; split <;> rfl
@[simp] theorem endRestore_lanes (s : State) : (endRestore s).lanes = s.lanes := by unfold endRestore; split <;> rfl
@[simp] theorem endRestore_map (s : State) : (endRestore s).map = s.map := by unfold endRestore; split <;> rfl
@[simp] theorem endRestore_osura (s : State) : (endRestore s).osura = s.osura := by unfold endRestore; split <;> rfl
@[simp] theorem endRestore_buoys (s : State) : (endRestore s).buoys = s.buoys := by unfold endRestore; split <;> rfl
@[simp] theorem endRestore_str (s : State) : (endRestore s).str = s.str := by unfold endRestore; split <;> rfl
@[simp] theorem endRestore_trap (s : State) : (endRestore s).trap = s.trap := by unfold endRestore; split <;> rfl
@[simp] theorem endRestore_ln (s : State) : (endRestore s).ln = s.ln := by unfold endRestore; split <;> rfl
@[simp] theorem endRestore_td (s : State) : (endRestore s).td = s.td := by unfold endRestore; split <;> rfl
@[simp] theorem endRestore_ring (s : State) : (endRestore s).ring = s.ring := by unfold endRestore; split <;> rfl
@[simp] theorem endRestore_kp (s : State) : (endRestore s).kp = s.kp := by unfold endRestore; split <;> rfl
@[simp] theorem endRestore_evq (s : State) : (endRestore s).evq = s.evq := by unfold endRestore; split <;> rfl
@[simp] theorem endRestore_errs (s : State) : (endRestore s).errs = s.errs := by unfold endRestore; split <;> rfl
@[simp] theorem endRestore_flt (s : State) : (endRestore s).flt = s.flt := by unfold endRestore; split <;> rfl
@[simp] theorem endRestore_cnt (s : State) : (endRestore s).cnt = s.cnt := by unfold endRestore; split <;> rfl
@[simp] theorem endRestore_rst (s : State) : (endRestore s).rst = s.rst := by unfold endRestore; split <;> rfl
@[simp] theorem endRestore_pwr (s : State) : (endRestore s).pwr = s.pwr := by unfold endRestore; split <;> rfl
@[simp] theorem endRestore_dm (s : State) : (endRestore s).dm = s.dm := by unfold endRestore; split <;> rfl
@[simp] theorem endRestore_tw (s : State) : (endRestore s).tw = s.tw := by unfold endRestore; split <;> rfl
@[simp] theorem endRestore_trc (s : State) : (endRestore s).trc = s.trc := by unfold endRestore; split <;> rfl
@[simp] theorem endRestore_bist (s : State) : (endRestore s).bist = s.bist := by unfold endRestore; split <;> rfl
@[simp] theorem endRestore_lnCfg (s : State) : (endRestore s).lnCfg = s.lnCfg := by unfold endRestore; split <;> rfl
@[simp] theorem endRestore_out (s : State) : (endRestore s).out = s.out := by unfold endRestore; split <;> rfl
@[simp] theorem endRestore_free (s : State) : (endRestore s).free = s.free := by unfold endRestore; split <;> rfl
@[simp] theorem endRestore_pending (s : State) :
    (endRestore s).pending = s.pending := by unfold endRestore; split <;> rfl

@[simp] theorem State.detect_clk (s : State) (e : ErrRec) : (s.detect e).clk = s.clk := by simp [State.detect]
@[simp] theorem State.detect_lanes (s : State) (e : ErrRec) : (s.detect e).lanes = s.lanes := by simp [State.detect]
@[simp] theorem State.detect_map (s : State) (e : ErrRec) : (s.detect e).map = s.map := by simp [State.detect]
@[simp] theorem State.detect_osura (s : State) (e : ErrRec) : (s.detect e).osura = s.osura := by simp [State.detect]
@[simp] theorem State.detect_buoys (s : State) (e : ErrRec) : (s.detect e).buoys = s.buoys := by simp [State.detect]
@[simp] theorem State.detect_str (s : State) (e : ErrRec) : (s.detect e).str = s.str := by simp [State.detect]
@[simp] theorem State.detect_trap (s : State) (e : ErrRec) : (s.detect e).trap = s.trap := by simp [State.detect]
@[simp] theorem State.detect_ln (s : State) (e : ErrRec) : (s.detect e).ln = s.ln := by simp [State.detect]
@[simp] theorem State.detect_td (s : State) (e : ErrRec) : (s.detect e).td = s.td := by simp [State.detect]
@[simp] theorem State.detect_ring (s : State) (e : ErrRec) : (s.detect e).ring = s.ring := by simp [State.detect]
@[simp] theorem State.detect_kp (s : State) (e : ErrRec) : (s.detect e).kp = s.kp := by simp [State.detect]
@[simp] theorem State.detect_evq (s : State) (e : ErrRec) : (s.detect e).evq = s.evq := by simp [State.detect]
@[simp] theorem State.detect_flt (s : State) (e : ErrRec) : (s.detect e).flt = s.flt := by simp [State.detect]
@[simp] theorem State.detect_cnt (s : State) (e : ErrRec) : (s.detect e).cnt = s.cnt := by simp [State.detect]
@[simp] theorem State.detect_rst (s : State) (e : ErrRec) : (s.detect e).rst = s.rst := by simp [State.detect]
@[simp] theorem State.detect_pwr (s : State) (e : ErrRec) : (s.detect e).pwr = s.pwr := by simp [State.detect]
@[simp] theorem State.detect_dm (s : State) (e : ErrRec) : (s.detect e).dm = s.dm := by simp [State.detect]
@[simp] theorem State.detect_tw (s : State) (e : ErrRec) : (s.detect e).tw = s.tw := by simp [State.detect]
@[simp] theorem State.detect_trc (s : State) (e : ErrRec) : (s.detect e).trc = s.trc := by simp [State.detect]
@[simp] theorem State.detect_bist (s : State) (e : ErrRec) : (s.detect e).bist = s.bist := by simp [State.detect]
@[simp] theorem State.detect_lnCfg (s : State) (e : ErrRec) : (s.detect e).lnCfg = s.lnCfg := by simp [State.detect]
@[simp] theorem State.detect_out (s : State) (e : ErrRec) : (s.detect e).out = s.out := by simp [State.detect]
@[simp] theorem State.detect_free (s : State) (e : ErrRec) : (s.detect e).free = s.free := by simp [State.detect]
@[simp] theorem State.detect_pending (s : State) (e : ErrRec) :
    (s.detect e).pending = s.pending := by simp [State.detect]

@[simp] theorem State.askOsura_clk (s : State) (agent : Agent) (who : Owner) (a len : Nat) (wr : Option (List Host.Cell)) :
    (s.askOsura agent who a len wr).clk = s.clk := rfl
@[simp] theorem State.askOsura_lanes (s : State) (agent : Agent) (who : Owner) (a len : Nat) (wr : Option (List Host.Cell)) :
    (s.askOsura agent who a len wr).lanes = s.lanes := rfl
@[simp] theorem State.askOsura_map (s : State) (agent : Agent) (who : Owner) (a len : Nat) (wr : Option (List Host.Cell)) :
    (s.askOsura agent who a len wr).map = s.map := rfl
@[simp] theorem State.askOsura_buoys (s : State) (agent : Agent) (who : Owner) (a len : Nat) (wr : Option (List Host.Cell)) :
    (s.askOsura agent who a len wr).buoys = s.buoys := rfl
@[simp] theorem State.askOsura_str (s : State) (agent : Agent) (who : Owner) (a len : Nat) (wr : Option (List Host.Cell)) :
    (s.askOsura agent who a len wr).str = s.str := rfl
@[simp] theorem State.askOsura_trap (s : State) (agent : Agent) (who : Owner) (a len : Nat) (wr : Option (List Host.Cell)) :
    (s.askOsura agent who a len wr).trap = s.trap := rfl
@[simp] theorem State.askOsura_ln (s : State) (agent : Agent) (who : Owner) (a len : Nat) (wr : Option (List Host.Cell)) :
    (s.askOsura agent who a len wr).ln = s.ln := rfl
@[simp] theorem State.askOsura_td (s : State) (agent : Agent) (who : Owner) (a len : Nat) (wr : Option (List Host.Cell)) :
    (s.askOsura agent who a len wr).td = s.td := rfl
@[simp] theorem State.askOsura_mem (s : State) (agent : Agent) (who : Owner) (a len : Nat) (wr : Option (List Host.Cell)) :
    (s.askOsura agent who a len wr).mem = s.mem := rfl
@[simp] theorem State.askOsura_ring (s : State) (agent : Agent) (who : Owner) (a len : Nat) (wr : Option (List Host.Cell)) :
    (s.askOsura agent who a len wr).ring = s.ring := rfl
@[simp] theorem State.askOsura_kp (s : State) (agent : Agent) (who : Owner) (a len : Nat) (wr : Option (List Host.Cell)) :
    (s.askOsura agent who a len wr).kp = s.kp := rfl
@[simp] theorem State.askOsura_evq (s : State) (agent : Agent) (who : Owner) (a len : Nat) (wr : Option (List Host.Cell)) :
    (s.askOsura agent who a len wr).evq = s.evq := rfl
@[simp] theorem State.askOsura_errs (s : State) (agent : Agent) (who : Owner) (a len : Nat) (wr : Option (List Host.Cell)) :
    (s.askOsura agent who a len wr).errs = s.errs := rfl
@[simp] theorem State.askOsura_flt (s : State) (agent : Agent) (who : Owner) (a len : Nat) (wr : Option (List Host.Cell)) :
    (s.askOsura agent who a len wr).flt = s.flt := rfl
@[simp] theorem State.askOsura_cnt (s : State) (agent : Agent) (who : Owner) (a len : Nat) (wr : Option (List Host.Cell)) :
    (s.askOsura agent who a len wr).cnt = s.cnt := rfl
@[simp] theorem State.askOsura_log (s : State) (agent : Agent) (who : Owner) (a len : Nat) (wr : Option (List Host.Cell)) :
    (s.askOsura agent who a len wr).log = s.log := rfl
@[simp] theorem State.askOsura_rst (s : State) (agent : Agent) (who : Owner) (a len : Nat) (wr : Option (List Host.Cell)) :
    (s.askOsura agent who a len wr).rst = s.rst := rfl
@[simp] theorem State.askOsura_pwr (s : State) (agent : Agent) (who : Owner) (a len : Nat) (wr : Option (List Host.Cell)) :
    (s.askOsura agent who a len wr).pwr = s.pwr := rfl
@[simp] theorem State.askOsura_dm (s : State) (agent : Agent) (who : Owner) (a len : Nat) (wr : Option (List Host.Cell)) :
    (s.askOsura agent who a len wr).dm = s.dm := rfl
@[simp] theorem State.askOsura_tw (s : State) (agent : Agent) (who : Owner) (a len : Nat) (wr : Option (List Host.Cell)) :
    (s.askOsura agent who a len wr).tw = s.tw := rfl
@[simp] theorem State.askOsura_trc (s : State) (agent : Agent) (who : Owner) (a len : Nat) (wr : Option (List Host.Cell)) :
    (s.askOsura agent who a len wr).trc = s.trc := rfl
@[simp] theorem State.askOsura_bist (s : State) (agent : Agent) (who : Owner) (a len : Nat) (wr : Option (List Host.Cell)) :
    (s.askOsura agent who a len wr).bist = s.bist := rfl
@[simp] theorem State.askOsura_lnCfg (s : State) (agent : Agent) (who : Owner) (a len : Nat) (wr : Option (List Host.Cell)) :
    (s.askOsura agent who a len wr).lnCfg = s.lnCfg := rfl
@[simp] theorem State.askOsura_out (s : State) (agent : Agent) (who : Owner) (a len : Nat) (wr : Option (List Host.Cell)) :
    (s.askOsura agent who a len wr).out = s.out := rfl
@[simp] theorem State.askOsura_free (s : State) (agent : Agent) (who : Owner) (a len : Nat) (wr : Option (List Host.Cell)) :
    (s.askOsura agent who a len wr).free = s.free := rfl
@[simp] theorem State.askOsura_pending (s : State) (agent : Agent) (who : Owner) (a len : Nat) (wr : Option (List Host.Cell)) :
    (s.askOsura agent who a len wr).pending = s.pending := rfl

@[simp] theorem State.fresh_clk (s : State) : (s.fresh).clk = s.clk := rfl
@[simp] theorem State.fresh_lanes (s : State) : (s.fresh).lanes = s.lanes := rfl
@[simp] theorem State.fresh_map (s : State) : (s.fresh).map = s.map := rfl
@[simp] theorem State.fresh_osura (s : State) : (s.fresh).osura = s.osura := rfl
@[simp] theorem State.fresh_buoys (s : State) : (s.fresh).buoys = s.buoys := rfl
@[simp] theorem State.fresh_str (s : State) : (s.fresh).str = s.str := rfl
@[simp] theorem State.fresh_trap (s : State) : (s.fresh).trap = s.trap := rfl
@[simp] theorem State.fresh_ln (s : State) : (s.fresh).ln = s.ln := rfl
@[simp] theorem State.fresh_td (s : State) : (s.fresh).td = s.td := rfl
@[simp] theorem State.fresh_mem (s : State) : (s.fresh).mem = s.mem := rfl
@[simp] theorem State.fresh_ring (s : State) : (s.fresh).ring = s.ring := rfl
@[simp] theorem State.fresh_kp (s : State) : (s.fresh).kp = s.kp := rfl
@[simp] theorem State.fresh_evq (s : State) : (s.fresh).evq = s.evq := rfl
@[simp] theorem State.fresh_errs (s : State) : (s.fresh).errs = s.errs := rfl
@[simp] theorem State.fresh_flt (s : State) : (s.fresh).flt = s.flt := rfl
@[simp] theorem State.fresh_cnt (s : State) : (s.fresh).cnt = s.cnt := rfl
@[simp] theorem State.fresh_log (s : State) : (s.fresh).log = s.log := rfl
@[simp] theorem State.fresh_rst (s : State) : (s.fresh).rst = s.rst := rfl
@[simp] theorem State.fresh_pwr (s : State) : (s.fresh).pwr = s.pwr := rfl
@[simp] theorem State.fresh_dm (s : State) : (s.fresh).dm = s.dm := rfl
@[simp] theorem State.fresh_tw (s : State) : (s.fresh).tw = s.tw := rfl
@[simp] theorem State.fresh_trc (s : State) : (s.fresh).trc = s.trc := rfl
@[simp] theorem State.fresh_bist (s : State) : (s.fresh).bist = s.bist := rfl
@[simp] theorem State.fresh_lnCfg (s : State) : (s.fresh).lnCfg = s.lnCfg := rfl
@[simp] theorem State.fresh_out (s : State) : (s.fresh).out = s.out := rfl
@[simp] theorem State.fresh_pending (s : State) : (s.fresh).pending = s.pending := rfl

@[simp] theorem State.sysRead_clk (s : State) (tag : Nat) (what : SysFor) (addr len : Nat) :
    (s.sysRead tag what addr len).clk = s.clk := rfl
@[simp] theorem State.sysRead_lanes (s : State) (tag : Nat) (what : SysFor) (addr len : Nat) :
    (s.sysRead tag what addr len).lanes = s.lanes := rfl
@[simp] theorem State.sysRead_map (s : State) (tag : Nat) (what : SysFor) (addr len : Nat) :
    (s.sysRead tag what addr len).map = s.map := rfl
@[simp] theorem State.sysRead_osura (s : State) (tag : Nat) (what : SysFor) (addr len : Nat) :
    (s.sysRead tag what addr len).osura = s.osura := rfl
@[simp] theorem State.sysRead_buoys (s : State) (tag : Nat) (what : SysFor) (addr len : Nat) :
    (s.sysRead tag what addr len).buoys = s.buoys := rfl
@[simp] theorem State.sysRead_str (s : State) (tag : Nat) (what : SysFor) (addr len : Nat) :
    (s.sysRead tag what addr len).str = s.str := rfl
@[simp] theorem State.sysRead_trap (s : State) (tag : Nat) (what : SysFor) (addr len : Nat) :
    (s.sysRead tag what addr len).trap = s.trap := rfl
@[simp] theorem State.sysRead_ln (s : State) (tag : Nat) (what : SysFor) (addr len : Nat) :
    (s.sysRead tag what addr len).ln = s.ln := rfl
@[simp] theorem State.sysRead_td (s : State) (tag : Nat) (what : SysFor) (addr len : Nat) :
    (s.sysRead tag what addr len).td = s.td := rfl
@[simp] theorem State.sysRead_mem (s : State) (tag : Nat) (what : SysFor) (addr len : Nat) :
    (s.sysRead tag what addr len).mem = s.mem := rfl
@[simp] theorem State.sysRead_ring (s : State) (tag : Nat) (what : SysFor) (addr len : Nat) :
    (s.sysRead tag what addr len).ring = s.ring := rfl
@[simp] theorem State.sysRead_evq (s : State) (tag : Nat) (what : SysFor) (addr len : Nat) :
    (s.sysRead tag what addr len).evq = s.evq := rfl
@[simp] theorem State.sysRead_errs (s : State) (tag : Nat) (what : SysFor) (addr len : Nat) :
    (s.sysRead tag what addr len).errs = s.errs := rfl
@[simp] theorem State.sysRead_flt (s : State) (tag : Nat) (what : SysFor) (addr len : Nat) :
    (s.sysRead tag what addr len).flt = s.flt := rfl
@[simp] theorem State.sysRead_cnt (s : State) (tag : Nat) (what : SysFor) (addr len : Nat) :
    (s.sysRead tag what addr len).cnt = s.cnt := rfl
@[simp] theorem State.sysRead_log (s : State) (tag : Nat) (what : SysFor) (addr len : Nat) :
    (s.sysRead tag what addr len).log = s.log := rfl
@[simp] theorem State.sysRead_rst (s : State) (tag : Nat) (what : SysFor) (addr len : Nat) :
    (s.sysRead tag what addr len).rst = s.rst := rfl
@[simp] theorem State.sysRead_pwr (s : State) (tag : Nat) (what : SysFor) (addr len : Nat) :
    (s.sysRead tag what addr len).pwr = s.pwr := rfl
@[simp] theorem State.sysRead_dm (s : State) (tag : Nat) (what : SysFor) (addr len : Nat) :
    (s.sysRead tag what addr len).dm = s.dm := rfl
@[simp] theorem State.sysRead_tw (s : State) (tag : Nat) (what : SysFor) (addr len : Nat) :
    (s.sysRead tag what addr len).tw = s.tw := rfl
@[simp] theorem State.sysRead_trc (s : State) (tag : Nat) (what : SysFor) (addr len : Nat) :
    (s.sysRead tag what addr len).trc = s.trc := rfl
@[simp] theorem State.sysRead_bist (s : State) (tag : Nat) (what : SysFor) (addr len : Nat) :
    (s.sysRead tag what addr len).bist = s.bist := rfl
@[simp] theorem State.sysRead_lnCfg (s : State) (tag : Nat) (what : SysFor) (addr len : Nat) :
    (s.sysRead tag what addr len).lnCfg = s.lnCfg := rfl
@[simp] theorem State.sysRead_free (s : State) (tag : Nat) (what : SysFor) (addr len : Nat) :
    (s.sysRead tag what addr len).free = s.free := rfl
@[simp] theorem State.sysRead_pending (s : State) (tag : Nat) (what : SysFor) (addr len : Nat) :
    (s.sysRead tag what addr len).pending = s.pending := rfl

@[simp] theorem State.sysWrite_clk (s : State) (tag : Nat) (what : SysFor) (addr : Nat) (data : List Byte) :
    (s.sysWrite tag what addr data).clk = s.clk := rfl
@[simp] theorem State.sysWrite_lanes (s : State) (tag : Nat) (what : SysFor) (addr : Nat) (data : List Byte) :
    (s.sysWrite tag what addr data).lanes = s.lanes := rfl
@[simp] theorem State.sysWrite_map (s : State) (tag : Nat) (what : SysFor) (addr : Nat) (data : List Byte) :
    (s.sysWrite tag what addr data).map = s.map := rfl
@[simp] theorem State.sysWrite_osura (s : State) (tag : Nat) (what : SysFor) (addr : Nat) (data : List Byte) :
    (s.sysWrite tag what addr data).osura = s.osura := rfl
@[simp] theorem State.sysWrite_buoys (s : State) (tag : Nat) (what : SysFor) (addr : Nat) (data : List Byte) :
    (s.sysWrite tag what addr data).buoys = s.buoys := rfl
@[simp] theorem State.sysWrite_str (s : State) (tag : Nat) (what : SysFor) (addr : Nat) (data : List Byte) :
    (s.sysWrite tag what addr data).str = s.str := rfl
@[simp] theorem State.sysWrite_trap (s : State) (tag : Nat) (what : SysFor) (addr : Nat) (data : List Byte) :
    (s.sysWrite tag what addr data).trap = s.trap := rfl
@[simp] theorem State.sysWrite_ln (s : State) (tag : Nat) (what : SysFor) (addr : Nat) (data : List Byte) :
    (s.sysWrite tag what addr data).ln = s.ln := rfl
@[simp] theorem State.sysWrite_td (s : State) (tag : Nat) (what : SysFor) (addr : Nat) (data : List Byte) :
    (s.sysWrite tag what addr data).td = s.td := rfl
@[simp] theorem State.sysWrite_mem (s : State) (tag : Nat) (what : SysFor) (addr : Nat) (data : List Byte) :
    (s.sysWrite tag what addr data).mem = s.mem := rfl
@[simp] theorem State.sysWrite_ring (s : State) (tag : Nat) (what : SysFor) (addr : Nat) (data : List Byte) :
    (s.sysWrite tag what addr data).ring = s.ring := rfl
@[simp] theorem State.sysWrite_evq (s : State) (tag : Nat) (what : SysFor) (addr : Nat) (data : List Byte) :
    (s.sysWrite tag what addr data).evq = s.evq := rfl
@[simp] theorem State.sysWrite_errs (s : State) (tag : Nat) (what : SysFor) (addr : Nat) (data : List Byte) :
    (s.sysWrite tag what addr data).errs = s.errs := rfl
@[simp] theorem State.sysWrite_flt (s : State) (tag : Nat) (what : SysFor) (addr : Nat) (data : List Byte) :
    (s.sysWrite tag what addr data).flt = s.flt := rfl
@[simp] theorem State.sysWrite_cnt (s : State) (tag : Nat) (what : SysFor) (addr : Nat) (data : List Byte) :
    (s.sysWrite tag what addr data).cnt = s.cnt := rfl
@[simp] theorem State.sysWrite_log (s : State) (tag : Nat) (what : SysFor) (addr : Nat) (data : List Byte) :
    (s.sysWrite tag what addr data).log = s.log := rfl
@[simp] theorem State.sysWrite_rst (s : State) (tag : Nat) (what : SysFor) (addr : Nat) (data : List Byte) :
    (s.sysWrite tag what addr data).rst = s.rst := rfl
@[simp] theorem State.sysWrite_pwr (s : State) (tag : Nat) (what : SysFor) (addr : Nat) (data : List Byte) :
    (s.sysWrite tag what addr data).pwr = s.pwr := rfl
@[simp] theorem State.sysWrite_dm (s : State) (tag : Nat) (what : SysFor) (addr : Nat) (data : List Byte) :
    (s.sysWrite tag what addr data).dm = s.dm := rfl
@[simp] theorem State.sysWrite_tw (s : State) (tag : Nat) (what : SysFor) (addr : Nat) (data : List Byte) :
    (s.sysWrite tag what addr data).tw = s.tw := rfl
@[simp] theorem State.sysWrite_trc (s : State) (tag : Nat) (what : SysFor) (addr : Nat) (data : List Byte) :
    (s.sysWrite tag what addr data).trc = s.trc := rfl
@[simp] theorem State.sysWrite_bist (s : State) (tag : Nat) (what : SysFor) (addr : Nat) (data : List Byte) :
    (s.sysWrite tag what addr data).bist = s.bist := rfl
@[simp] theorem State.sysWrite_lnCfg (s : State) (tag : Nat) (what : SysFor) (addr : Nat) (data : List Byte) :
    (s.sysWrite tag what addr data).lnCfg = s.lnCfg := rfl
@[simp] theorem State.sysWrite_free (s : State) (tag : Nat) (what : SysFor) (addr : Nat) (data : List Byte) :
    (s.sysWrite tag what addr data).free = s.free := rfl
@[simp] theorem State.sysWrite_pending (s : State) (tag : Nat) (what : SysFor) (addr : Nat) (data : List Byte) :
    (s.sysWrite tag what addr data).pending = s.pending := rfl

@[simp] theorem State.push_clk (s : State) (e : EvRec) : (s.push e).clk = s.clk := rfl
@[simp] theorem State.push_lanes (s : State) (e : EvRec) : (s.push e).lanes = s.lanes := rfl
@[simp] theorem State.push_map (s : State) (e : EvRec) : (s.push e).map = s.map := rfl
@[simp] theorem State.push_osura (s : State) (e : EvRec) : (s.push e).osura = s.osura := rfl
@[simp] theorem State.push_buoys (s : State) (e : EvRec) : (s.push e).buoys = s.buoys := rfl
@[simp] theorem State.push_str (s : State) (e : EvRec) : (s.push e).str = s.str := rfl
@[simp] theorem State.push_trap (s : State) (e : EvRec) : (s.push e).trap = s.trap := rfl
@[simp] theorem State.push_ln (s : State) (e : EvRec) : (s.push e).ln = s.ln := rfl
@[simp] theorem State.push_td (s : State) (e : EvRec) : (s.push e).td = s.td := rfl
@[simp] theorem State.push_mem (s : State) (e : EvRec) : (s.push e).mem = s.mem := rfl
@[simp] theorem State.push_ring (s : State) (e : EvRec) : (s.push e).ring = s.ring := rfl
@[simp] theorem State.push_kp (s : State) (e : EvRec) : (s.push e).kp = s.kp := rfl
@[simp] theorem State.push_errs (s : State) (e : EvRec) : (s.push e).errs = s.errs := rfl
@[simp] theorem State.push_flt (s : State) (e : EvRec) : (s.push e).flt = s.flt := rfl
@[simp] theorem State.push_cnt (s : State) (e : EvRec) : (s.push e).cnt = s.cnt := rfl
@[simp] theorem State.push_log (s : State) (e : EvRec) : (s.push e).log = s.log := rfl
@[simp] theorem State.push_rst (s : State) (e : EvRec) : (s.push e).rst = s.rst := rfl
@[simp] theorem State.push_pwr (s : State) (e : EvRec) : (s.push e).pwr = s.pwr := rfl
@[simp] theorem State.push_dm (s : State) (e : EvRec) : (s.push e).dm = s.dm := rfl
@[simp] theorem State.push_tw (s : State) (e : EvRec) : (s.push e).tw = s.tw := rfl
@[simp] theorem State.push_trc (s : State) (e : EvRec) : (s.push e).trc = s.trc := rfl
@[simp] theorem State.push_bist (s : State) (e : EvRec) : (s.push e).bist = s.bist := rfl
@[simp] theorem State.push_lnCfg (s : State) (e : EvRec) : (s.push e).lnCfg = s.lnCfg := rfl
@[simp] theorem State.push_out (s : State) (e : EvRec) : (s.push e).out = s.out := rfl
@[simp] theorem State.push_free (s : State) (e : EvRec) : (s.push e).free = s.free := rfl
@[simp] theorem State.push_pending (s : State) (e : EvRec) : (s.push e).pending = s.pending := rfl

@[simp] theorem State.setPort_clk (s : State) (n : Nat) (f : RPort → RPort) : (s.setPort n f).clk = s.clk := rfl
@[simp] theorem State.setPort_lanes (s : State) (n : Nat) (f : RPort → RPort) : (s.setPort n f).lanes = s.lanes := rfl
@[simp] theorem State.setPort_map (s : State) (n : Nat) (f : RPort → RPort) : (s.setPort n f).map = s.map := rfl
@[simp] theorem State.setPort_osura (s : State) (n : Nat) (f : RPort → RPort) : (s.setPort n f).osura = s.osura := rfl
@[simp] theorem State.setPort_buoys (s : State) (n : Nat) (f : RPort → RPort) : (s.setPort n f).buoys = s.buoys := rfl
@[simp] theorem State.setPort_str (s : State) (n : Nat) (f : RPort → RPort) : (s.setPort n f).str = s.str := rfl
@[simp] theorem State.setPort_trap (s : State) (n : Nat) (f : RPort → RPort) : (s.setPort n f).trap = s.trap := rfl
@[simp] theorem State.setPort_ln (s : State) (n : Nat) (f : RPort → RPort) : (s.setPort n f).ln = s.ln := rfl
@[simp] theorem State.setPort_td (s : State) (n : Nat) (f : RPort → RPort) : (s.setPort n f).td = s.td := rfl
@[simp] theorem State.setPort_mem (s : State) (n : Nat) (f : RPort → RPort) : (s.setPort n f).mem = s.mem := rfl
@[simp] theorem State.setPort_kp (s : State) (n : Nat) (f : RPort → RPort) : (s.setPort n f).kp = s.kp := rfl
@[simp] theorem State.setPort_evq (s : State) (n : Nat) (f : RPort → RPort) : (s.setPort n f).evq = s.evq := rfl
@[simp] theorem State.setPort_errs (s : State) (n : Nat) (f : RPort → RPort) : (s.setPort n f).errs = s.errs := rfl
@[simp] theorem State.setPort_flt (s : State) (n : Nat) (f : RPort → RPort) : (s.setPort n f).flt = s.flt := rfl
@[simp] theorem State.setPort_cnt (s : State) (n : Nat) (f : RPort → RPort) : (s.setPort n f).cnt = s.cnt := rfl
@[simp] theorem State.setPort_log (s : State) (n : Nat) (f : RPort → RPort) : (s.setPort n f).log = s.log := rfl
@[simp] theorem State.setPort_rst (s : State) (n : Nat) (f : RPort → RPort) : (s.setPort n f).rst = s.rst := rfl
@[simp] theorem State.setPort_pwr (s : State) (n : Nat) (f : RPort → RPort) : (s.setPort n f).pwr = s.pwr := rfl
@[simp] theorem State.setPort_dm (s : State) (n : Nat) (f : RPort → RPort) : (s.setPort n f).dm = s.dm := rfl
@[simp] theorem State.setPort_tw (s : State) (n : Nat) (f : RPort → RPort) : (s.setPort n f).tw = s.tw := rfl
@[simp] theorem State.setPort_trc (s : State) (n : Nat) (f : RPort → RPort) : (s.setPort n f).trc = s.trc := rfl
@[simp] theorem State.setPort_bist (s : State) (n : Nat) (f : RPort → RPort) : (s.setPort n f).bist = s.bist := rfl
@[simp] theorem State.setPort_lnCfg (s : State) (n : Nat) (f : RPort → RPort) : (s.setPort n f).lnCfg = s.lnCfg := rfl
@[simp] theorem State.setPort_out (s : State) (n : Nat) (f : RPort → RPort) : (s.setPort n f).out = s.out := rfl
@[simp] theorem State.setPort_free (s : State) (n : Nat) (f : RPort → RPort) : (s.setPort n f).free = s.free := rfl
@[simp] theorem State.setPort_pending (s : State) (n : Nat) (f : RPort → RPort) :
    (s.setPort n f).pending = s.pending := rfl

@[simp] theorem State.setMark_clk (s : State) (f : Mark → Mark) : (s.setMark f).clk = s.clk := rfl
@[simp] theorem State.setMark_lanes (s : State) (f : Mark → Mark) : (s.setMark f).lanes = s.lanes := rfl
@[simp] theorem State.setMark_map (s : State) (f : Mark → Mark) : (s.setMark f).map = s.map := rfl
@[simp] theorem State.setMark_osura (s : State) (f : Mark → Mark) : (s.setMark f).osura = s.osura := rfl
@[simp] theorem State.setMark_buoys (s : State) (f : Mark → Mark) : (s.setMark f).buoys = s.buoys := rfl
@[simp] theorem State.setMark_str (s : State) (f : Mark → Mark) : (s.setMark f).str = s.str := rfl
@[simp] theorem State.setMark_trap (s : State) (f : Mark → Mark) : (s.setMark f).trap = s.trap := rfl
@[simp] theorem State.setMark_ln (s : State) (f : Mark → Mark) : (s.setMark f).ln = s.ln := rfl
@[simp] theorem State.setMark_td (s : State) (f : Mark → Mark) : (s.setMark f).td = s.td := rfl
@[simp] theorem State.setMark_mem (s : State) (f : Mark → Mark) : (s.setMark f).mem = s.mem := rfl
@[simp] theorem State.setMark_kp (s : State) (f : Mark → Mark) : (s.setMark f).kp = s.kp := rfl
@[simp] theorem State.setMark_evq (s : State) (f : Mark → Mark) : (s.setMark f).evq = s.evq := rfl
@[simp] theorem State.setMark_errs (s : State) (f : Mark → Mark) : (s.setMark f).errs = s.errs := rfl
@[simp] theorem State.setMark_flt (s : State) (f : Mark → Mark) : (s.setMark f).flt = s.flt := rfl
@[simp] theorem State.setMark_cnt (s : State) (f : Mark → Mark) : (s.setMark f).cnt = s.cnt := rfl
@[simp] theorem State.setMark_log (s : State) (f : Mark → Mark) : (s.setMark f).log = s.log := rfl
@[simp] theorem State.setMark_rst (s : State) (f : Mark → Mark) : (s.setMark f).rst = s.rst := rfl
@[simp] theorem State.setMark_pwr (s : State) (f : Mark → Mark) : (s.setMark f).pwr = s.pwr := rfl
@[simp] theorem State.setMark_dm (s : State) (f : Mark → Mark) : (s.setMark f).dm = s.dm := rfl
@[simp] theorem State.setMark_tw (s : State) (f : Mark → Mark) : (s.setMark f).tw = s.tw := rfl
@[simp] theorem State.setMark_trc (s : State) (f : Mark → Mark) : (s.setMark f).trc = s.trc := rfl
@[simp] theorem State.setMark_bist (s : State) (f : Mark → Mark) : (s.setMark f).bist = s.bist := rfl
@[simp] theorem State.setMark_lnCfg (s : State) (f : Mark → Mark) : (s.setMark f).lnCfg = s.lnCfg := rfl
@[simp] theorem State.setMark_out (s : State) (f : Mark → Mark) : (s.setMark f).out = s.out := rfl
@[simp] theorem State.setMark_free (s : State) (f : Mark → Mark) : (s.setMark f).free = s.free := rfl
@[simp] theorem State.setMark_pending (s : State) (f : Mark → Mark) : (s.setMark f).pending = s.pending := rfl

@[simp] theorem State.setChan_clk (s : State) (c : Nat) (x : Chan) : (s.setChan c x).clk = s.clk := rfl
@[simp] theorem State.setChan_lanes (s : State) (c : Nat) (x : Chan) : (s.setChan c x).lanes = s.lanes := rfl
@[simp] theorem State.setChan_map (s : State) (c : Nat) (x : Chan) : (s.setChan c x).map = s.map := rfl
@[simp] theorem State.setChan_osura (s : State) (c : Nat) (x : Chan) : (s.setChan c x).osura = s.osura := rfl
@[simp] theorem State.setChan_buoys (s : State) (c : Nat) (x : Chan) : (s.setChan c x).buoys = s.buoys := rfl
@[simp] theorem State.setChan_str (s : State) (c : Nat) (x : Chan) : (s.setChan c x).str = s.str := rfl
@[simp] theorem State.setChan_trap (s : State) (c : Nat) (x : Chan) : (s.setChan c x).trap = s.trap := rfl
@[simp] theorem State.setChan_ln (s : State) (c : Nat) (x : Chan) : (s.setChan c x).ln = s.ln := rfl
@[simp] theorem State.setChan_mem (s : State) (c : Nat) (x : Chan) : (s.setChan c x).mem = s.mem := rfl
@[simp] theorem State.setChan_ring (s : State) (c : Nat) (x : Chan) : (s.setChan c x).ring = s.ring := rfl
@[simp] theorem State.setChan_kp (s : State) (c : Nat) (x : Chan) : (s.setChan c x).kp = s.kp := rfl
@[simp] theorem State.setChan_evq (s : State) (c : Nat) (x : Chan) : (s.setChan c x).evq = s.evq := rfl
@[simp] theorem State.setChan_errs (s : State) (c : Nat) (x : Chan) : (s.setChan c x).errs = s.errs := rfl
@[simp] theorem State.setChan_flt (s : State) (c : Nat) (x : Chan) : (s.setChan c x).flt = s.flt := rfl
@[simp] theorem State.setChan_cnt (s : State) (c : Nat) (x : Chan) : (s.setChan c x).cnt = s.cnt := rfl
@[simp] theorem State.setChan_log (s : State) (c : Nat) (x : Chan) : (s.setChan c x).log = s.log := rfl
@[simp] theorem State.setChan_rst (s : State) (c : Nat) (x : Chan) : (s.setChan c x).rst = s.rst := rfl
@[simp] theorem State.setChan_pwr (s : State) (c : Nat) (x : Chan) : (s.setChan c x).pwr = s.pwr := rfl
@[simp] theorem State.setChan_dm (s : State) (c : Nat) (x : Chan) : (s.setChan c x).dm = s.dm := rfl
@[simp] theorem State.setChan_tw (s : State) (c : Nat) (x : Chan) : (s.setChan c x).tw = s.tw := rfl
@[simp] theorem State.setChan_trc (s : State) (c : Nat) (x : Chan) : (s.setChan c x).trc = s.trc := rfl
@[simp] theorem State.setChan_bist (s : State) (c : Nat) (x : Chan) : (s.setChan c x).bist = s.bist := rfl
@[simp] theorem State.setChan_lnCfg (s : State) (c : Nat) (x : Chan) : (s.setChan c x).lnCfg = s.lnCfg := rfl
@[simp] theorem State.setChan_out (s : State) (c : Nat) (x : Chan) : (s.setChan c x).out = s.out := rfl
@[simp] theorem State.setChan_free (s : State) (c : Nat) (x : Chan) : (s.setChan c x).free = s.free := rfl
@[simp] theorem State.setChan_pending (s : State) (c : Nat) (x : Chan) : (s.setChan c x).pending = s.pending := rfl

@[simp] theorem State.modLn_clk (s : State) (n : Nat) (f : Lantern → Lantern) : (s.modLn n f).clk = s.clk := rfl
@[simp] theorem State.modLn_lanes (s : State) (n : Nat) (f : Lantern → Lantern) : (s.modLn n f).lanes = s.lanes := rfl
@[simp] theorem State.modLn_map (s : State) (n : Nat) (f : Lantern → Lantern) : (s.modLn n f).map = s.map := rfl
@[simp] theorem State.modLn_osura (s : State) (n : Nat) (f : Lantern → Lantern) : (s.modLn n f).osura = s.osura := rfl
@[simp] theorem State.modLn_buoys (s : State) (n : Nat) (f : Lantern → Lantern) : (s.modLn n f).buoys = s.buoys := rfl
@[simp] theorem State.modLn_str (s : State) (n : Nat) (f : Lantern → Lantern) : (s.modLn n f).str = s.str := rfl
@[simp] theorem State.modLn_trap (s : State) (n : Nat) (f : Lantern → Lantern) : (s.modLn n f).trap = s.trap := rfl
@[simp] theorem State.modLn_td (s : State) (n : Nat) (f : Lantern → Lantern) : (s.modLn n f).td = s.td := rfl
@[simp] theorem State.modLn_mem (s : State) (n : Nat) (f : Lantern → Lantern) : (s.modLn n f).mem = s.mem := rfl
@[simp] theorem State.modLn_ring (s : State) (n : Nat) (f : Lantern → Lantern) : (s.modLn n f).ring = s.ring := rfl
@[simp] theorem State.modLn_kp (s : State) (n : Nat) (f : Lantern → Lantern) : (s.modLn n f).kp = s.kp := rfl
@[simp] theorem State.modLn_evq (s : State) (n : Nat) (f : Lantern → Lantern) : (s.modLn n f).evq = s.evq := rfl
@[simp] theorem State.modLn_errs (s : State) (n : Nat) (f : Lantern → Lantern) : (s.modLn n f).errs = s.errs := rfl
@[simp] theorem State.modLn_flt (s : State) (n : Nat) (f : Lantern → Lantern) : (s.modLn n f).flt = s.flt := rfl
@[simp] theorem State.modLn_cnt (s : State) (n : Nat) (f : Lantern → Lantern) : (s.modLn n f).cnt = s.cnt := rfl
@[simp] theorem State.modLn_log (s : State) (n : Nat) (f : Lantern → Lantern) : (s.modLn n f).log = s.log := rfl
@[simp] theorem State.modLn_rst (s : State) (n : Nat) (f : Lantern → Lantern) : (s.modLn n f).rst = s.rst := rfl
@[simp] theorem State.modLn_pwr (s : State) (n : Nat) (f : Lantern → Lantern) : (s.modLn n f).pwr = s.pwr := rfl
@[simp] theorem State.modLn_dm (s : State) (n : Nat) (f : Lantern → Lantern) : (s.modLn n f).dm = s.dm := rfl
@[simp] theorem State.modLn_tw (s : State) (n : Nat) (f : Lantern → Lantern) : (s.modLn n f).tw = s.tw := rfl
@[simp] theorem State.modLn_trc (s : State) (n : Nat) (f : Lantern → Lantern) : (s.modLn n f).trc = s.trc := rfl
@[simp] theorem State.modLn_bist (s : State) (n : Nat) (f : Lantern → Lantern) : (s.modLn n f).bist = s.bist := rfl
@[simp] theorem State.modLn_lnCfg (s : State) (n : Nat) (f : Lantern → Lantern) : (s.modLn n f).lnCfg = s.lnCfg := rfl
@[simp] theorem State.modLn_out (s : State) (n : Nat) (f : Lantern → Lantern) : (s.modLn n f).out = s.out := rfl
@[simp] theorem State.modLn_free (s : State) (n : Nat) (f : Lantern → Lantern) : (s.modLn n f).free = s.free := rfl
@[simp] theorem State.modLn_pending (s : State) (n : Nat) (f : Lantern → Lantern) :
    (s.modLn n f).pending = s.pending := rfl

@[simp] theorem State.modProd_clk (s : State) (n cid : Nat) (f : LnProd → LnProd) :
    (s.modProd n cid f).clk = s.clk := rfl
@[simp] theorem State.modProd_lanes (s : State) (n cid : Nat) (f : LnProd → LnProd) :
    (s.modProd n cid f).lanes = s.lanes := rfl
@[simp] theorem State.modProd_map (s : State) (n cid : Nat) (f : LnProd → LnProd) :
    (s.modProd n cid f).map = s.map := rfl
@[simp] theorem State.modProd_osura (s : State) (n cid : Nat) (f : LnProd → LnProd) :
    (s.modProd n cid f).osura = s.osura := rfl
@[simp] theorem State.modProd_buoys (s : State) (n cid : Nat) (f : LnProd → LnProd) :
    (s.modProd n cid f).buoys = s.buoys := rfl
@[simp] theorem State.modProd_str (s : State) (n cid : Nat) (f : LnProd → LnProd) :
    (s.modProd n cid f).str = s.str := rfl
@[simp] theorem State.modProd_trap (s : State) (n cid : Nat) (f : LnProd → LnProd) :
    (s.modProd n cid f).trap = s.trap := rfl
@[simp] theorem State.modProd_td (s : State) (n cid : Nat) (f : LnProd → LnProd) :
    (s.modProd n cid f).td = s.td := rfl
@[simp] theorem State.modProd_mem (s : State) (n cid : Nat) (f : LnProd → LnProd) :
    (s.modProd n cid f).mem = s.mem := rfl
@[simp] theorem State.modProd_ring (s : State) (n cid : Nat) (f : LnProd → LnProd) :
    (s.modProd n cid f).ring = s.ring := rfl
@[simp] theorem State.modProd_kp (s : State) (n cid : Nat) (f : LnProd → LnProd) :
    (s.modProd n cid f).kp = s.kp := rfl
@[simp] theorem State.modProd_evq (s : State) (n cid : Nat) (f : LnProd → LnProd) :
    (s.modProd n cid f).evq = s.evq := rfl
@[simp] theorem State.modProd_errs (s : State) (n cid : Nat) (f : LnProd → LnProd) :
    (s.modProd n cid f).errs = s.errs := rfl
@[simp] theorem State.modProd_flt (s : State) (n cid : Nat) (f : LnProd → LnProd) :
    (s.modProd n cid f).flt = s.flt := rfl
@[simp] theorem State.modProd_cnt (s : State) (n cid : Nat) (f : LnProd → LnProd) :
    (s.modProd n cid f).cnt = s.cnt := rfl
@[simp] theorem State.modProd_log (s : State) (n cid : Nat) (f : LnProd → LnProd) :
    (s.modProd n cid f).log = s.log := rfl
@[simp] theorem State.modProd_rst (s : State) (n cid : Nat) (f : LnProd → LnProd) :
    (s.modProd n cid f).rst = s.rst := rfl
@[simp] theorem State.modProd_pwr (s : State) (n cid : Nat) (f : LnProd → LnProd) :
    (s.modProd n cid f).pwr = s.pwr := rfl
@[simp] theorem State.modProd_dm (s : State) (n cid : Nat) (f : LnProd → LnProd) :
    (s.modProd n cid f).dm = s.dm := rfl
@[simp] theorem State.modProd_tw (s : State) (n cid : Nat) (f : LnProd → LnProd) :
    (s.modProd n cid f).tw = s.tw := rfl
@[simp] theorem State.modProd_trc (s : State) (n cid : Nat) (f : LnProd → LnProd) :
    (s.modProd n cid f).trc = s.trc := rfl
@[simp] theorem State.modProd_bist (s : State) (n cid : Nat) (f : LnProd → LnProd) :
    (s.modProd n cid f).bist = s.bist := rfl
@[simp] theorem State.modProd_lnCfg (s : State) (n cid : Nat) (f : LnProd → LnProd) :
    (s.modProd n cid f).lnCfg = s.lnCfg := rfl
@[simp] theorem State.modProd_out (s : State) (n cid : Nat) (f : LnProd → LnProd) :
    (s.modProd n cid f).out = s.out := rfl
@[simp] theorem State.modProd_free (s : State) (n cid : Nat) (f : LnProd → LnProd) :
    (s.modProd n cid f).free = s.free := rfl
@[simp] theorem State.modProd_pending (s : State) (n cid : Nat) (f : LnProd → LnProd) :
    (s.modProd n cid f).pending = s.pending := rfl

@[simp] theorem State.modStr_clk (s : State) (f : Stream → Stream) : (s.modStr f).clk = s.clk := rfl
@[simp] theorem State.modStr_lanes (s : State) (f : Stream → Stream) : (s.modStr f).lanes = s.lanes := rfl
@[simp] theorem State.modStr_map (s : State) (f : Stream → Stream) : (s.modStr f).map = s.map := rfl
@[simp] theorem State.modStr_osura (s : State) (f : Stream → Stream) : (s.modStr f).osura = s.osura := rfl
@[simp] theorem State.modStr_buoys (s : State) (f : Stream → Stream) : (s.modStr f).buoys = s.buoys := rfl
@[simp] theorem State.modStr_trap (s : State) (f : Stream → Stream) : (s.modStr f).trap = s.trap := rfl
@[simp] theorem State.modStr_ln (s : State) (f : Stream → Stream) : (s.modStr f).ln = s.ln := rfl
@[simp] theorem State.modStr_td (s : State) (f : Stream → Stream) : (s.modStr f).td = s.td := rfl
@[simp] theorem State.modStr_mem (s : State) (f : Stream → Stream) : (s.modStr f).mem = s.mem := rfl
@[simp] theorem State.modStr_ring (s : State) (f : Stream → Stream) : (s.modStr f).ring = s.ring := rfl
@[simp] theorem State.modStr_kp (s : State) (f : Stream → Stream) : (s.modStr f).kp = s.kp := rfl
@[simp] theorem State.modStr_evq (s : State) (f : Stream → Stream) : (s.modStr f).evq = s.evq := rfl
@[simp] theorem State.modStr_errs (s : State) (f : Stream → Stream) : (s.modStr f).errs = s.errs := rfl
@[simp] theorem State.modStr_flt (s : State) (f : Stream → Stream) : (s.modStr f).flt = s.flt := rfl
@[simp] theorem State.modStr_cnt (s : State) (f : Stream → Stream) : (s.modStr f).cnt = s.cnt := rfl
@[simp] theorem State.modStr_log (s : State) (f : Stream → Stream) : (s.modStr f).log = s.log := rfl
@[simp] theorem State.modStr_rst (s : State) (f : Stream → Stream) : (s.modStr f).rst = s.rst := rfl
@[simp] theorem State.modStr_pwr (s : State) (f : Stream → Stream) : (s.modStr f).pwr = s.pwr := rfl
@[simp] theorem State.modStr_dm (s : State) (f : Stream → Stream) : (s.modStr f).dm = s.dm := rfl
@[simp] theorem State.modStr_tw (s : State) (f : Stream → Stream) : (s.modStr f).tw = s.tw := rfl
@[simp] theorem State.modStr_trc (s : State) (f : Stream → Stream) : (s.modStr f).trc = s.trc := rfl
@[simp] theorem State.modStr_bist (s : State) (f : Stream → Stream) : (s.modStr f).bist = s.bist := rfl
@[simp] theorem State.modStr_lnCfg (s : State) (f : Stream → Stream) : (s.modStr f).lnCfg = s.lnCfg := rfl
@[simp] theorem State.modStr_out (s : State) (f : Stream → Stream) : (s.modStr f).out = s.out := rfl
@[simp] theorem State.modStr_free (s : State) (f : Stream → Stream) : (s.modStr f).free = s.free := rfl
@[simp] theorem State.modStr_pending (s : State) (f : Stream → Stream) : (s.modStr f).pending = s.pending := rfl

@[simp] theorem State.powerAsk_clk (s : State) (dom op : Nat) : (s.powerAsk dom op).clk = s.clk := rfl
@[simp] theorem State.powerAsk_lanes (s : State) (dom op : Nat) : (s.powerAsk dom op).lanes = s.lanes := rfl
@[simp] theorem State.powerAsk_map (s : State) (dom op : Nat) : (s.powerAsk dom op).map = s.map := rfl
@[simp] theorem State.powerAsk_osura (s : State) (dom op : Nat) : (s.powerAsk dom op).osura = s.osura := rfl
@[simp] theorem State.powerAsk_buoys (s : State) (dom op : Nat) : (s.powerAsk dom op).buoys = s.buoys := rfl
@[simp] theorem State.powerAsk_str (s : State) (dom op : Nat) : (s.powerAsk dom op).str = s.str := rfl
@[simp] theorem State.powerAsk_trap (s : State) (dom op : Nat) : (s.powerAsk dom op).trap = s.trap := rfl
@[simp] theorem State.powerAsk_ln (s : State) (dom op : Nat) : (s.powerAsk dom op).ln = s.ln := rfl
@[simp] theorem State.powerAsk_td (s : State) (dom op : Nat) : (s.powerAsk dom op).td = s.td := rfl
@[simp] theorem State.powerAsk_mem (s : State) (dom op : Nat) : (s.powerAsk dom op).mem = s.mem := rfl
@[simp] theorem State.powerAsk_ring (s : State) (dom op : Nat) : (s.powerAsk dom op).ring = s.ring := rfl
@[simp] theorem State.powerAsk_kp (s : State) (dom op : Nat) : (s.powerAsk dom op).kp = s.kp := rfl
@[simp] theorem State.powerAsk_evq (s : State) (dom op : Nat) : (s.powerAsk dom op).evq = s.evq := rfl
@[simp] theorem State.powerAsk_errs (s : State) (dom op : Nat) : (s.powerAsk dom op).errs = s.errs := rfl
@[simp] theorem State.powerAsk_flt (s : State) (dom op : Nat) : (s.powerAsk dom op).flt = s.flt := rfl
@[simp] theorem State.powerAsk_cnt (s : State) (dom op : Nat) : (s.powerAsk dom op).cnt = s.cnt := rfl
@[simp] theorem State.powerAsk_log (s : State) (dom op : Nat) : (s.powerAsk dom op).log = s.log := rfl
@[simp] theorem State.powerAsk_rst (s : State) (dom op : Nat) : (s.powerAsk dom op).rst = s.rst := rfl
@[simp] theorem State.powerAsk_dm (s : State) (dom op : Nat) : (s.powerAsk dom op).dm = s.dm := rfl
@[simp] theorem State.powerAsk_tw (s : State) (dom op : Nat) : (s.powerAsk dom op).tw = s.tw := rfl
@[simp] theorem State.powerAsk_trc (s : State) (dom op : Nat) : (s.powerAsk dom op).trc = s.trc := rfl
@[simp] theorem State.powerAsk_bist (s : State) (dom op : Nat) : (s.powerAsk dom op).bist = s.bist := rfl
@[simp] theorem State.powerAsk_lnCfg (s : State) (dom op : Nat) : (s.powerAsk dom op).lnCfg = s.lnCfg := rfl
@[simp] theorem State.powerAsk_free (s : State) (dom op : Nat) : (s.powerAsk dom op).free = s.free := rfl
@[simp] theorem State.powerAsk_pending (s : State) (dom op : Nat) : (s.powerAsk dom op).pending = s.pending := rfl

@[simp] theorem State.unlight_clk (s : State) (sec : Nat) : (s.unlight sec).clk = s.clk := rfl
@[simp] theorem State.unlight_lanes (s : State) (sec : Nat) : (s.unlight sec).lanes = s.lanes := rfl
@[simp] theorem State.unlight_map (s : State) (sec : Nat) : (s.unlight sec).map = s.map := rfl
@[simp] theorem State.unlight_osura (s : State) (sec : Nat) : (s.unlight sec).osura = s.osura := rfl
@[simp] theorem State.unlight_buoys (s : State) (sec : Nat) : (s.unlight sec).buoys = s.buoys := rfl
@[simp] theorem State.unlight_str (s : State) (sec : Nat) : (s.unlight sec).str = s.str := rfl
@[simp] theorem State.unlight_trap (s : State) (sec : Nat) : (s.unlight sec).trap = s.trap := rfl
@[simp] theorem State.unlight_ln (s : State) (sec : Nat) : (s.unlight sec).ln = s.ln := rfl
@[simp] theorem State.unlight_td (s : State) (sec : Nat) : (s.unlight sec).td = s.td := rfl
@[simp] theorem State.unlight_mem (s : State) (sec : Nat) : (s.unlight sec).mem = s.mem := rfl
@[simp] theorem State.unlight_ring (s : State) (sec : Nat) : (s.unlight sec).ring = s.ring := rfl
@[simp] theorem State.unlight_kp (s : State) (sec : Nat) : (s.unlight sec).kp = s.kp := rfl
@[simp] theorem State.unlight_evq (s : State) (sec : Nat) : (s.unlight sec).evq = s.evq := rfl
@[simp] theorem State.unlight_errs (s : State) (sec : Nat) : (s.unlight sec).errs = s.errs := rfl
@[simp] theorem State.unlight_flt (s : State) (sec : Nat) : (s.unlight sec).flt = s.flt := rfl
@[simp] theorem State.unlight_cnt (s : State) (sec : Nat) : (s.unlight sec).cnt = s.cnt := rfl
@[simp] theorem State.unlight_log (s : State) (sec : Nat) : (s.unlight sec).log = s.log := rfl
@[simp] theorem State.unlight_rst (s : State) (sec : Nat) : (s.unlight sec).rst = s.rst := rfl
@[simp] theorem State.unlight_dm (s : State) (sec : Nat) : (s.unlight sec).dm = s.dm := rfl
@[simp] theorem State.unlight_tw (s : State) (sec : Nat) : (s.unlight sec).tw = s.tw := rfl
@[simp] theorem State.unlight_trc (s : State) (sec : Nat) : (s.unlight sec).trc = s.trc := rfl
@[simp] theorem State.unlight_bist (s : State) (sec : Nat) : (s.unlight sec).bist = s.bist := rfl
@[simp] theorem State.unlight_lnCfg (s : State) (sec : Nat) : (s.unlight sec).lnCfg = s.lnCfg := rfl
@[simp] theorem State.unlight_out (s : State) (sec : Nat) : (s.unlight sec).out = s.out := rfl
@[simp] theorem State.unlight_free (s : State) (sec : Nat) : (s.unlight sec).free = s.free := rfl
@[simp] theorem State.unlight_pending (s : State) (sec : Nat) : (s.unlight sec).pending = s.pending := rfl

@[simp] theorem State.order_clk (s : State) (kind unit : Nat) : (s.order kind unit).clk = s.clk := rfl
@[simp] theorem State.order_lanes (s : State) (kind unit : Nat) : (s.order kind unit).lanes = s.lanes := rfl
@[simp] theorem State.order_map (s : State) (kind unit : Nat) : (s.order kind unit).map = s.map := rfl
@[simp] theorem State.order_osura (s : State) (kind unit : Nat) : (s.order kind unit).osura = s.osura := rfl
@[simp] theorem State.order_buoys (s : State) (kind unit : Nat) : (s.order kind unit).buoys = s.buoys := rfl
@[simp] theorem State.order_str (s : State) (kind unit : Nat) : (s.order kind unit).str = s.str := rfl
@[simp] theorem State.order_trap (s : State) (kind unit : Nat) : (s.order kind unit).trap = s.trap := rfl
@[simp] theorem State.order_ln (s : State) (kind unit : Nat) : (s.order kind unit).ln = s.ln := rfl
@[simp] theorem State.order_td (s : State) (kind unit : Nat) : (s.order kind unit).td = s.td := rfl
@[simp] theorem State.order_mem (s : State) (kind unit : Nat) : (s.order kind unit).mem = s.mem := rfl
@[simp] theorem State.order_ring (s : State) (kind unit : Nat) : (s.order kind unit).ring = s.ring := rfl
@[simp] theorem State.order_evq (s : State) (kind unit : Nat) : (s.order kind unit).evq = s.evq := rfl
@[simp] theorem State.order_errs (s : State) (kind unit : Nat) : (s.order kind unit).errs = s.errs := rfl
@[simp] theorem State.order_flt (s : State) (kind unit : Nat) : (s.order kind unit).flt = s.flt := rfl
@[simp] theorem State.order_cnt (s : State) (kind unit : Nat) : (s.order kind unit).cnt = s.cnt := rfl
@[simp] theorem State.order_log (s : State) (kind unit : Nat) : (s.order kind unit).log = s.log := rfl
@[simp] theorem State.order_rst (s : State) (kind unit : Nat) : (s.order kind unit).rst = s.rst := rfl
@[simp] theorem State.order_pwr (s : State) (kind unit : Nat) : (s.order kind unit).pwr = s.pwr := rfl
@[simp] theorem State.order_dm (s : State) (kind unit : Nat) : (s.order kind unit).dm = s.dm := rfl
@[simp] theorem State.order_tw (s : State) (kind unit : Nat) : (s.order kind unit).tw = s.tw := rfl
@[simp] theorem State.order_trc (s : State) (kind unit : Nat) : (s.order kind unit).trc = s.trc := rfl
@[simp] theorem State.order_bist (s : State) (kind unit : Nat) : (s.order kind unit).bist = s.bist := rfl
@[simp] theorem State.order_lnCfg (s : State) (kind unit : Nat) : (s.order kind unit).lnCfg = s.lnCfg := rfl
@[simp] theorem State.order_out (s : State) (kind unit : Nat) : (s.order kind unit).out = s.out := rfl
@[simp] theorem State.order_free (s : State) (kind unit : Nat) : (s.order kind unit).free = s.free := rfl
@[simp] theorem State.order_pending (s : State) (kind unit : Nat) : (s.order kind unit).pending = s.pending := rfl

@[simp] theorem State.logWrite_clk (s : State) (who : MemOwner) (a : Nat) (bs : List Byte) :
    (s.logWrite who a bs).clk = s.clk := rfl
@[simp] theorem State.logWrite_lanes (s : State) (who : MemOwner) (a : Nat) (bs : List Byte) :
    (s.logWrite who a bs).lanes = s.lanes := rfl
@[simp] theorem State.logWrite_map (s : State) (who : MemOwner) (a : Nat) (bs : List Byte) :
    (s.logWrite who a bs).map = s.map := rfl
@[simp] theorem State.logWrite_osura (s : State) (who : MemOwner) (a : Nat) (bs : List Byte) :
    (s.logWrite who a bs).osura = s.osura := rfl
@[simp] theorem State.logWrite_buoys (s : State) (who : MemOwner) (a : Nat) (bs : List Byte) :
    (s.logWrite who a bs).buoys = s.buoys := rfl
@[simp] theorem State.logWrite_str (s : State) (who : MemOwner) (a : Nat) (bs : List Byte) :
    (s.logWrite who a bs).str = s.str := rfl
@[simp] theorem State.logWrite_trap (s : State) (who : MemOwner) (a : Nat) (bs : List Byte) :
    (s.logWrite who a bs).trap = s.trap := rfl
@[simp] theorem State.logWrite_ln (s : State) (who : MemOwner) (a : Nat) (bs : List Byte) :
    (s.logWrite who a bs).ln = s.ln := rfl
@[simp] theorem State.logWrite_td (s : State) (who : MemOwner) (a : Nat) (bs : List Byte) :
    (s.logWrite who a bs).td = s.td := rfl
@[simp] theorem State.logWrite_ring (s : State) (who : MemOwner) (a : Nat) (bs : List Byte) :
    (s.logWrite who a bs).ring = s.ring := rfl
@[simp] theorem State.logWrite_kp (s : State) (who : MemOwner) (a : Nat) (bs : List Byte) :
    (s.logWrite who a bs).kp = s.kp := rfl
@[simp] theorem State.logWrite_evq (s : State) (who : MemOwner) (a : Nat) (bs : List Byte) :
    (s.logWrite who a bs).evq = s.evq := rfl
@[simp] theorem State.logWrite_errs (s : State) (who : MemOwner) (a : Nat) (bs : List Byte) :
    (s.logWrite who a bs).errs = s.errs := rfl
@[simp] theorem State.logWrite_flt (s : State) (who : MemOwner) (a : Nat) (bs : List Byte) :
    (s.logWrite who a bs).flt = s.flt := rfl
@[simp] theorem State.logWrite_cnt (s : State) (who : MemOwner) (a : Nat) (bs : List Byte) :
    (s.logWrite who a bs).cnt = s.cnt := rfl
@[simp] theorem State.logWrite_log (s : State) (who : MemOwner) (a : Nat) (bs : List Byte) :
    (s.logWrite who a bs).log = s.log := rfl
@[simp] theorem State.logWrite_rst (s : State) (who : MemOwner) (a : Nat) (bs : List Byte) :
    (s.logWrite who a bs).rst = s.rst := rfl
@[simp] theorem State.logWrite_pwr (s : State) (who : MemOwner) (a : Nat) (bs : List Byte) :
    (s.logWrite who a bs).pwr = s.pwr := rfl
@[simp] theorem State.logWrite_dm (s : State) (who : MemOwner) (a : Nat) (bs : List Byte) :
    (s.logWrite who a bs).dm = s.dm := rfl
@[simp] theorem State.logWrite_tw (s : State) (who : MemOwner) (a : Nat) (bs : List Byte) :
    (s.logWrite who a bs).tw = s.tw := rfl
@[simp] theorem State.logWrite_trc (s : State) (who : MemOwner) (a : Nat) (bs : List Byte) :
    (s.logWrite who a bs).trc = s.trc := rfl
@[simp] theorem State.logWrite_bist (s : State) (who : MemOwner) (a : Nat) (bs : List Byte) :
    (s.logWrite who a bs).bist = s.bist := rfl
@[simp] theorem State.logWrite_lnCfg (s : State) (who : MemOwner) (a : Nat) (bs : List Byte) :
    (s.logWrite who a bs).lnCfg = s.lnCfg := rfl
@[simp] theorem State.logWrite_out (s : State) (who : MemOwner) (a : Nat) (bs : List Byte) :
    (s.logWrite who a bs).out = s.out := rfl
@[simp] theorem State.logWrite_free (s : State) (who : MemOwner) (a : Nat) (bs : List Byte) :
    (s.logWrite who a bs).free = s.free := rfl
@[simp] theorem State.logWrite_pending (s : State) (who : MemOwner) (a : Nat) (bs : List Byte) :
    (s.logWrite who a bs).pending = s.pending := rfl

@[simp] theorem State.logRead_clk (s : State) (who : Nat → MemOwner) (a len : Nat) :
    (s.logRead who a len).clk = s.clk := rfl
@[simp] theorem State.logRead_lanes (s : State) (who : Nat → MemOwner) (a len : Nat) :
    (s.logRead who a len).lanes = s.lanes := rfl
@[simp] theorem State.logRead_map (s : State) (who : Nat → MemOwner) (a len : Nat) :
    (s.logRead who a len).map = s.map := rfl
@[simp] theorem State.logRead_osura (s : State) (who : Nat → MemOwner) (a len : Nat) :
    (s.logRead who a len).osura = s.osura := rfl
@[simp] theorem State.logRead_buoys (s : State) (who : Nat → MemOwner) (a len : Nat) :
    (s.logRead who a len).buoys = s.buoys := rfl
@[simp] theorem State.logRead_str (s : State) (who : Nat → MemOwner) (a len : Nat) :
    (s.logRead who a len).str = s.str := rfl
@[simp] theorem State.logRead_trap (s : State) (who : Nat → MemOwner) (a len : Nat) :
    (s.logRead who a len).trap = s.trap := rfl
@[simp] theorem State.logRead_ln (s : State) (who : Nat → MemOwner) (a len : Nat) :
    (s.logRead who a len).ln = s.ln := rfl
@[simp] theorem State.logRead_td (s : State) (who : Nat → MemOwner) (a len : Nat) :
    (s.logRead who a len).td = s.td := rfl
@[simp] theorem State.logRead_ring (s : State) (who : Nat → MemOwner) (a len : Nat) :
    (s.logRead who a len).ring = s.ring := rfl
@[simp] theorem State.logRead_kp (s : State) (who : Nat → MemOwner) (a len : Nat) :
    (s.logRead who a len).kp = s.kp := rfl
@[simp] theorem State.logRead_evq (s : State) (who : Nat → MemOwner) (a len : Nat) :
    (s.logRead who a len).evq = s.evq := rfl
@[simp] theorem State.logRead_errs (s : State) (who : Nat → MemOwner) (a len : Nat) :
    (s.logRead who a len).errs = s.errs := rfl
@[simp] theorem State.logRead_flt (s : State) (who : Nat → MemOwner) (a len : Nat) :
    (s.logRead who a len).flt = s.flt := rfl
@[simp] theorem State.logRead_cnt (s : State) (who : Nat → MemOwner) (a len : Nat) :
    (s.logRead who a len).cnt = s.cnt := rfl
@[simp] theorem State.logRead_log (s : State) (who : Nat → MemOwner) (a len : Nat) :
    (s.logRead who a len).log = s.log := rfl
@[simp] theorem State.logRead_rst (s : State) (who : Nat → MemOwner) (a len : Nat) :
    (s.logRead who a len).rst = s.rst := rfl
@[simp] theorem State.logRead_pwr (s : State) (who : Nat → MemOwner) (a len : Nat) :
    (s.logRead who a len).pwr = s.pwr := rfl
@[simp] theorem State.logRead_dm (s : State) (who : Nat → MemOwner) (a len : Nat) :
    (s.logRead who a len).dm = s.dm := rfl
@[simp] theorem State.logRead_tw (s : State) (who : Nat → MemOwner) (a len : Nat) :
    (s.logRead who a len).tw = s.tw := rfl
@[simp] theorem State.logRead_trc (s : State) (who : Nat → MemOwner) (a len : Nat) :
    (s.logRead who a len).trc = s.trc := rfl
@[simp] theorem State.logRead_bist (s : State) (who : Nat → MemOwner) (a len : Nat) :
    (s.logRead who a len).bist = s.bist := rfl
@[simp] theorem State.logRead_lnCfg (s : State) (who : Nat → MemOwner) (a len : Nat) :
    (s.logRead who a len).lnCfg = s.lnCfg := rfl
@[simp] theorem State.logRead_out (s : State) (who : Nat → MemOwner) (a len : Nat) :
    (s.logRead who a len).out = s.out := rfl
@[simp] theorem State.logRead_free (s : State) (who : Nat → MemOwner) (a len : Nat) :
    (s.logRead who a len).free = s.free := rfl
@[simp] theorem State.logRead_pending (s : State) (who : Nat → MemOwner) (a len : Nat) :
    (s.logRead who a len).pending = s.pending := rfl

@[simp] theorem State.logStateWrite_clk (s : State) (inB : Bool) (value : Nat) :
    (s.logStateWrite inB value).clk = s.clk := rfl
@[simp] theorem State.logStateWrite_lanes (s : State) (inB : Bool) (value : Nat) :
    (s.logStateWrite inB value).lanes = s.lanes := rfl
@[simp] theorem State.logStateWrite_map (s : State) (inB : Bool) (value : Nat) :
    (s.logStateWrite inB value).map = s.map := rfl
@[simp] theorem State.logStateWrite_osura (s : State) (inB : Bool) (value : Nat) :
    (s.logStateWrite inB value).osura = s.osura := rfl
@[simp] theorem State.logStateWrite_buoys (s : State) (inB : Bool) (value : Nat) :
    (s.logStateWrite inB value).buoys = s.buoys := rfl
@[simp] theorem State.logStateWrite_str (s : State) (inB : Bool) (value : Nat) :
    (s.logStateWrite inB value).str = s.str := rfl
@[simp] theorem State.logStateWrite_trap (s : State) (inB : Bool) (value : Nat) :
    (s.logStateWrite inB value).trap = s.trap := rfl
@[simp] theorem State.logStateWrite_ln (s : State) (inB : Bool) (value : Nat) :
    (s.logStateWrite inB value).ln = s.ln := rfl
@[simp] theorem State.logStateWrite_td (s : State) (inB : Bool) (value : Nat) :
    (s.logStateWrite inB value).td = s.td := rfl
@[simp] theorem State.logStateWrite_ring (s : State) (inB : Bool) (value : Nat) :
    (s.logStateWrite inB value).ring = s.ring := rfl
@[simp] theorem State.logStateWrite_kp (s : State) (inB : Bool) (value : Nat) :
    (s.logStateWrite inB value).kp = s.kp := rfl
@[simp] theorem State.logStateWrite_evq (s : State) (inB : Bool) (value : Nat) :
    (s.logStateWrite inB value).evq = s.evq := rfl
@[simp] theorem State.logStateWrite_errs (s : State) (inB : Bool) (value : Nat) :
    (s.logStateWrite inB value).errs = s.errs := rfl
@[simp] theorem State.logStateWrite_flt (s : State) (inB : Bool) (value : Nat) :
    (s.logStateWrite inB value).flt = s.flt := rfl
@[simp] theorem State.logStateWrite_cnt (s : State) (inB : Bool) (value : Nat) :
    (s.logStateWrite inB value).cnt = s.cnt := rfl
@[simp] theorem State.logStateWrite_log (s : State) (inB : Bool) (value : Nat) :
    (s.logStateWrite inB value).log = s.log := rfl
@[simp] theorem State.logStateWrite_rst (s : State) (inB : Bool) (value : Nat) :
    (s.logStateWrite inB value).rst = s.rst := rfl
@[simp] theorem State.logStateWrite_pwr (s : State) (inB : Bool) (value : Nat) :
    (s.logStateWrite inB value).pwr = s.pwr := rfl
@[simp] theorem State.logStateWrite_dm (s : State) (inB : Bool) (value : Nat) :
    (s.logStateWrite inB value).dm = s.dm := rfl
@[simp] theorem State.logStateWrite_tw (s : State) (inB : Bool) (value : Nat) :
    (s.logStateWrite inB value).tw = s.tw := rfl
@[simp] theorem State.logStateWrite_trc (s : State) (inB : Bool) (value : Nat) :
    (s.logStateWrite inB value).trc = s.trc := rfl
@[simp] theorem State.logStateWrite_bist (s : State) (inB : Bool) (value : Nat) :
    (s.logStateWrite inB value).bist = s.bist := rfl
@[simp] theorem State.logStateWrite_lnCfg (s : State) (inB : Bool) (value : Nat) :
    (s.logStateWrite inB value).lnCfg = s.lnCfg := rfl
@[simp] theorem State.logStateWrite_out (s : State) (inB : Bool) (value : Nat) :
    (s.logStateWrite inB value).out = s.out := rfl
@[simp] theorem State.logStateWrite_free (s : State) (inB : Bool) (value : Nat) :
    (s.logStateWrite inB value).free = s.free := rfl
@[simp] theorem State.logStateWrite_pending (s : State) (inB : Bool) (value : Nat) :
    (s.logStateWrite inB value).pending = s.pending := rfl

@[simp] theorem State.addCredit_clk (s : State) (dst moor : Nat) (f : Nat → Nat) :
    (s.addCredit dst moor f).clk = s.clk := rfl
@[simp] theorem State.addCredit_lanes (s : State) (dst moor : Nat) (f : Nat → Nat) :
    (s.addCredit dst moor f).lanes = s.lanes := rfl
@[simp] theorem State.addCredit_map (s : State) (dst moor : Nat) (f : Nat → Nat) :
    (s.addCredit dst moor f).map = s.map := rfl
@[simp] theorem State.addCredit_osura (s : State) (dst moor : Nat) (f : Nat → Nat) :
    (s.addCredit dst moor f).osura = s.osura := rfl
@[simp] theorem State.addCredit_buoys (s : State) (dst moor : Nat) (f : Nat → Nat) :
    (s.addCredit dst moor f).buoys = s.buoys := rfl
@[simp] theorem State.addCredit_str (s : State) (dst moor : Nat) (f : Nat → Nat) :
    (s.addCredit dst moor f).str = s.str := rfl
@[simp] theorem State.addCredit_trap (s : State) (dst moor : Nat) (f : Nat → Nat) :
    (s.addCredit dst moor f).trap = s.trap := rfl
@[simp] theorem State.addCredit_ln (s : State) (dst moor : Nat) (f : Nat → Nat) :
    (s.addCredit dst moor f).ln = s.ln := rfl
@[simp] theorem State.addCredit_td (s : State) (dst moor : Nat) (f : Nat → Nat) :
    (s.addCredit dst moor f).td = s.td := rfl
@[simp] theorem State.addCredit_mem (s : State) (dst moor : Nat) (f : Nat → Nat) :
    (s.addCredit dst moor f).mem = s.mem := rfl
@[simp] theorem State.addCredit_kp (s : State) (dst moor : Nat) (f : Nat → Nat) :
    (s.addCredit dst moor f).kp = s.kp := rfl
@[simp] theorem State.addCredit_evq (s : State) (dst moor : Nat) (f : Nat → Nat) :
    (s.addCredit dst moor f).evq = s.evq := rfl
@[simp] theorem State.addCredit_errs (s : State) (dst moor : Nat) (f : Nat → Nat) :
    (s.addCredit dst moor f).errs = s.errs := rfl
@[simp] theorem State.addCredit_flt (s : State) (dst moor : Nat) (f : Nat → Nat) :
    (s.addCredit dst moor f).flt = s.flt := rfl
@[simp] theorem State.addCredit_cnt (s : State) (dst moor : Nat) (f : Nat → Nat) :
    (s.addCredit dst moor f).cnt = s.cnt := rfl
@[simp] theorem State.addCredit_log (s : State) (dst moor : Nat) (f : Nat → Nat) :
    (s.addCredit dst moor f).log = s.log := rfl
@[simp] theorem State.addCredit_rst (s : State) (dst moor : Nat) (f : Nat → Nat) :
    (s.addCredit dst moor f).rst = s.rst := rfl
@[simp] theorem State.addCredit_pwr (s : State) (dst moor : Nat) (f : Nat → Nat) :
    (s.addCredit dst moor f).pwr = s.pwr := rfl
@[simp] theorem State.addCredit_dm (s : State) (dst moor : Nat) (f : Nat → Nat) :
    (s.addCredit dst moor f).dm = s.dm := rfl
@[simp] theorem State.addCredit_tw (s : State) (dst moor : Nat) (f : Nat → Nat) :
    (s.addCredit dst moor f).tw = s.tw := rfl
@[simp] theorem State.addCredit_trc (s : State) (dst moor : Nat) (f : Nat → Nat) :
    (s.addCredit dst moor f).trc = s.trc := rfl
@[simp] theorem State.addCredit_bist (s : State) (dst moor : Nat) (f : Nat → Nat) :
    (s.addCredit dst moor f).bist = s.bist := rfl
@[simp] theorem State.addCredit_lnCfg (s : State) (dst moor : Nat) (f : Nat → Nat) :
    (s.addCredit dst moor f).lnCfg = s.lnCfg := rfl
@[simp] theorem State.addCredit_out (s : State) (dst moor : Nat) (f : Nat → Nat) :
    (s.addCredit dst moor f).out = s.out := rfl
@[simp] theorem State.addCredit_free (s : State) (dst moor : Nat) (f : Nat → Nat) :
    (s.addCredit dst moor f).free = s.free := rfl
@[simp] theorem State.addCredit_pending (s : State) (dst moor : Nat) (f : Nat → Nat) :
    (s.addCredit dst moor f).pending = s.pending := rfl

@[simp] theorem State.setCb_clk (s : State) (pc : Nat) (f : List CbEntry → List CbEntry) :
    (s.setCb pc f).clk = s.clk := rfl
@[simp] theorem State.setCb_lanes (s : State) (pc : Nat) (f : List CbEntry → List CbEntry) :
    (s.setCb pc f).lanes = s.lanes := rfl
@[simp] theorem State.setCb_map (s : State) (pc : Nat) (f : List CbEntry → List CbEntry) :
    (s.setCb pc f).map = s.map := rfl
@[simp] theorem State.setCb_buoys (s : State) (pc : Nat) (f : List CbEntry → List CbEntry) :
    (s.setCb pc f).buoys = s.buoys := rfl
@[simp] theorem State.setCb_str (s : State) (pc : Nat) (f : List CbEntry → List CbEntry) :
    (s.setCb pc f).str = s.str := rfl
@[simp] theorem State.setCb_trap (s : State) (pc : Nat) (f : List CbEntry → List CbEntry) :
    (s.setCb pc f).trap = s.trap := rfl
@[simp] theorem State.setCb_ln (s : State) (pc : Nat) (f : List CbEntry → List CbEntry) :
    (s.setCb pc f).ln = s.ln := rfl
@[simp] theorem State.setCb_td (s : State) (pc : Nat) (f : List CbEntry → List CbEntry) :
    (s.setCb pc f).td = s.td := rfl
@[simp] theorem State.setCb_mem (s : State) (pc : Nat) (f : List CbEntry → List CbEntry) :
    (s.setCb pc f).mem = s.mem := rfl
@[simp] theorem State.setCb_ring (s : State) (pc : Nat) (f : List CbEntry → List CbEntry) :
    (s.setCb pc f).ring = s.ring := rfl
@[simp] theorem State.setCb_kp (s : State) (pc : Nat) (f : List CbEntry → List CbEntry) :
    (s.setCb pc f).kp = s.kp := rfl
@[simp] theorem State.setCb_evq (s : State) (pc : Nat) (f : List CbEntry → List CbEntry) :
    (s.setCb pc f).evq = s.evq := rfl
@[simp] theorem State.setCb_errs (s : State) (pc : Nat) (f : List CbEntry → List CbEntry) :
    (s.setCb pc f).errs = s.errs := rfl
@[simp] theorem State.setCb_flt (s : State) (pc : Nat) (f : List CbEntry → List CbEntry) :
    (s.setCb pc f).flt = s.flt := rfl
@[simp] theorem State.setCb_cnt (s : State) (pc : Nat) (f : List CbEntry → List CbEntry) :
    (s.setCb pc f).cnt = s.cnt := rfl
@[simp] theorem State.setCb_log (s : State) (pc : Nat) (f : List CbEntry → List CbEntry) :
    (s.setCb pc f).log = s.log := rfl
@[simp] theorem State.setCb_rst (s : State) (pc : Nat) (f : List CbEntry → List CbEntry) :
    (s.setCb pc f).rst = s.rst := rfl
@[simp] theorem State.setCb_pwr (s : State) (pc : Nat) (f : List CbEntry → List CbEntry) :
    (s.setCb pc f).pwr = s.pwr := rfl
@[simp] theorem State.setCb_dm (s : State) (pc : Nat) (f : List CbEntry → List CbEntry) :
    (s.setCb pc f).dm = s.dm := rfl
@[simp] theorem State.setCb_tw (s : State) (pc : Nat) (f : List CbEntry → List CbEntry) :
    (s.setCb pc f).tw = s.tw := rfl
@[simp] theorem State.setCb_trc (s : State) (pc : Nat) (f : List CbEntry → List CbEntry) :
    (s.setCb pc f).trc = s.trc := rfl
@[simp] theorem State.setCb_bist (s : State) (pc : Nat) (f : List CbEntry → List CbEntry) :
    (s.setCb pc f).bist = s.bist := rfl
@[simp] theorem State.setCb_lnCfg (s : State) (pc : Nat) (f : List CbEntry → List CbEntry) :
    (s.setCb pc f).lnCfg = s.lnCfg := rfl
@[simp] theorem State.setCb_out (s : State) (pc : Nat) (f : List CbEntry → List CbEntry) :
    (s.setCb pc f).out = s.out := rfl
@[simp] theorem State.setCb_free (s : State) (pc : Nat) (f : List CbEntry → List CbEntry) :
    (s.setCb pc f).free = s.free := rfl
@[simp] theorem State.setCb_pending (s : State) (pc : Nat) (f : List CbEntry → List CbEntry) :
    (s.setCb pc f).pending = s.pending := rfl

@[simp] theorem State.setMov_clk (s : State) (id : Nat) (f : MovInst → MovInst) : (s.setMov id f).clk = s.clk := rfl
@[simp] theorem State.setMov_lanes (s : State) (id : Nat) (f : MovInst → MovInst) :
    (s.setMov id f).lanes = s.lanes := rfl
@[simp] theorem State.setMov_map (s : State) (id : Nat) (f : MovInst → MovInst) : (s.setMov id f).map = s.map := rfl
@[simp] theorem State.setMov_osura (s : State) (id : Nat) (f : MovInst → MovInst) :
    (s.setMov id f).osura = s.osura := rfl
@[simp] theorem State.setMov_buoys (s : State) (id : Nat) (f : MovInst → MovInst) :
    (s.setMov id f).buoys = s.buoys := rfl
@[simp] theorem State.setMov_trap (s : State) (id : Nat) (f : MovInst → MovInst) :
    (s.setMov id f).trap = s.trap := rfl
@[simp] theorem State.setMov_ln (s : State) (id : Nat) (f : MovInst → MovInst) : (s.setMov id f).ln = s.ln := rfl
@[simp] theorem State.setMov_td (s : State) (id : Nat) (f : MovInst → MovInst) : (s.setMov id f).td = s.td := rfl
@[simp] theorem State.setMov_mem (s : State) (id : Nat) (f : MovInst → MovInst) : (s.setMov id f).mem = s.mem := rfl
@[simp] theorem State.setMov_ring (s : State) (id : Nat) (f : MovInst → MovInst) :
    (s.setMov id f).ring = s.ring := rfl
@[simp] theorem State.setMov_kp (s : State) (id : Nat) (f : MovInst → MovInst) : (s.setMov id f).kp = s.kp := rfl
@[simp] theorem State.setMov_evq (s : State) (id : Nat) (f : MovInst → MovInst) : (s.setMov id f).evq = s.evq := rfl
@[simp] theorem State.setMov_errs (s : State) (id : Nat) (f : MovInst → MovInst) :
    (s.setMov id f).errs = s.errs := rfl
@[simp] theorem State.setMov_flt (s : State) (id : Nat) (f : MovInst → MovInst) : (s.setMov id f).flt = s.flt := rfl
@[simp] theorem State.setMov_cnt (s : State) (id : Nat) (f : MovInst → MovInst) : (s.setMov id f).cnt = s.cnt := rfl
@[simp] theorem State.setMov_log (s : State) (id : Nat) (f : MovInst → MovInst) : (s.setMov id f).log = s.log := rfl
@[simp] theorem State.setMov_rst (s : State) (id : Nat) (f : MovInst → MovInst) : (s.setMov id f).rst = s.rst := rfl
@[simp] theorem State.setMov_pwr (s : State) (id : Nat) (f : MovInst → MovInst) : (s.setMov id f).pwr = s.pwr := rfl
@[simp] theorem State.setMov_dm (s : State) (id : Nat) (f : MovInst → MovInst) : (s.setMov id f).dm = s.dm := rfl
@[simp] theorem State.setMov_tw (s : State) (id : Nat) (f : MovInst → MovInst) : (s.setMov id f).tw = s.tw := rfl
@[simp] theorem State.setMov_trc (s : State) (id : Nat) (f : MovInst → MovInst) : (s.setMov id f).trc = s.trc := rfl
@[simp] theorem State.setMov_bist (s : State) (id : Nat) (f : MovInst → MovInst) :
    (s.setMov id f).bist = s.bist := rfl
@[simp] theorem State.setMov_lnCfg (s : State) (id : Nat) (f : MovInst → MovInst) :
    (s.setMov id f).lnCfg = s.lnCfg := rfl
@[simp] theorem State.setMov_out (s : State) (id : Nat) (f : MovInst → MovInst) : (s.setMov id f).out = s.out := rfl
@[simp] theorem State.setMov_free (s : State) (id : Nat) (f : MovInst → MovInst) :
    (s.setMov id f).free = s.free := rfl
@[simp] theorem State.setMov_pending (s : State) (id : Nat) (f : MovInst → MovInst) :
    (s.setMov id f).pending = s.pending := rfl

@[simp] theorem State.setTags_clk (s : State) (ts : List (Nat × Tag)) : (s.setTags ts).clk = s.clk := rfl
@[simp] theorem State.setTags_lanes (s : State) (ts : List (Nat × Tag)) : (s.setTags ts).lanes = s.lanes := rfl
@[simp] theorem State.setTags_map (s : State) (ts : List (Nat × Tag)) : (s.setTags ts).map = s.map := rfl
@[simp] theorem State.setTags_osura (s : State) (ts : List (Nat × Tag)) : (s.setTags ts).osura = s.osura := rfl
@[simp] theorem State.setTags_buoys (s : State) (ts : List (Nat × Tag)) : (s.setTags ts).buoys = s.buoys := rfl
@[simp] theorem State.setTags_trap (s : State) (ts : List (Nat × Tag)) : (s.setTags ts).trap = s.trap := rfl
@[simp] theorem State.setTags_ln (s : State) (ts : List (Nat × Tag)) : (s.setTags ts).ln = s.ln := rfl
@[simp] theorem State.setTags_td (s : State) (ts : List (Nat × Tag)) : (s.setTags ts).td = s.td := rfl
@[simp] theorem State.setTags_mem (s : State) (ts : List (Nat × Tag)) : (s.setTags ts).mem = s.mem := rfl
@[simp] theorem State.setTags_ring (s : State) (ts : List (Nat × Tag)) : (s.setTags ts).ring = s.ring := rfl
@[simp] theorem State.setTags_kp (s : State) (ts : List (Nat × Tag)) : (s.setTags ts).kp = s.kp := rfl
@[simp] theorem State.setTags_evq (s : State) (ts : List (Nat × Tag)) : (s.setTags ts).evq = s.evq := rfl
@[simp] theorem State.setTags_errs (s : State) (ts : List (Nat × Tag)) : (s.setTags ts).errs = s.errs := rfl
@[simp] theorem State.setTags_flt (s : State) (ts : List (Nat × Tag)) : (s.setTags ts).flt = s.flt := rfl
@[simp] theorem State.setTags_cnt (s : State) (ts : List (Nat × Tag)) : (s.setTags ts).cnt = s.cnt := rfl
@[simp] theorem State.setTags_log (s : State) (ts : List (Nat × Tag)) : (s.setTags ts).log = s.log := rfl
@[simp] theorem State.setTags_rst (s : State) (ts : List (Nat × Tag)) : (s.setTags ts).rst = s.rst := rfl
@[simp] theorem State.setTags_pwr (s : State) (ts : List (Nat × Tag)) : (s.setTags ts).pwr = s.pwr := rfl
@[simp] theorem State.setTags_dm (s : State) (ts : List (Nat × Tag)) : (s.setTags ts).dm = s.dm := rfl
@[simp] theorem State.setTags_tw (s : State) (ts : List (Nat × Tag)) : (s.setTags ts).tw = s.tw := rfl
@[simp] theorem State.setTags_trc (s : State) (ts : List (Nat × Tag)) : (s.setTags ts).trc = s.trc := rfl
@[simp] theorem State.setTags_bist (s : State) (ts : List (Nat × Tag)) : (s.setTags ts).bist = s.bist := rfl
@[simp] theorem State.setTags_lnCfg (s : State) (ts : List (Nat × Tag)) : (s.setTags ts).lnCfg = s.lnCfg := rfl
@[simp] theorem State.setTags_out (s : State) (ts : List (Nat × Tag)) : (s.setTags ts).out = s.out := rfl
@[simp] theorem State.setTags_free (s : State) (ts : List (Nat × Tag)) : (s.setTags ts).free = s.free := rfl
@[simp] theorem State.setTags_pending (s : State) (ts : List (Nat × Tag)) : (s.setTags ts).pending = s.pending := rfl

@[simp] theorem State.takeReq_clk (s : State) (r : AsyncReq) : (s.takeReq r).clk = s.clk := rfl
@[simp] theorem State.takeReq_lanes (s : State) (r : AsyncReq) : (s.takeReq r).lanes = s.lanes := rfl
@[simp] theorem State.takeReq_map (s : State) (r : AsyncReq) : (s.takeReq r).map = s.map := rfl
@[simp] theorem State.takeReq_buoys (s : State) (r : AsyncReq) : (s.takeReq r).buoys = s.buoys := rfl
@[simp] theorem State.takeReq_str (s : State) (r : AsyncReq) : (s.takeReq r).str = s.str := rfl
@[simp] theorem State.takeReq_trap (s : State) (r : AsyncReq) : (s.takeReq r).trap = s.trap := rfl
@[simp] theorem State.takeReq_ln (s : State) (r : AsyncReq) : (s.takeReq r).ln = s.ln := rfl
@[simp] theorem State.takeReq_td (s : State) (r : AsyncReq) : (s.takeReq r).td = s.td := rfl
@[simp] theorem State.takeReq_mem (s : State) (r : AsyncReq) : (s.takeReq r).mem = s.mem := rfl
@[simp] theorem State.takeReq_ring (s : State) (r : AsyncReq) : (s.takeReq r).ring = s.ring := rfl
@[simp] theorem State.takeReq_kp (s : State) (r : AsyncReq) : (s.takeReq r).kp = s.kp := rfl
@[simp] theorem State.takeReq_evq (s : State) (r : AsyncReq) : (s.takeReq r).evq = s.evq := rfl
@[simp] theorem State.takeReq_errs (s : State) (r : AsyncReq) : (s.takeReq r).errs = s.errs := rfl
@[simp] theorem State.takeReq_flt (s : State) (r : AsyncReq) : (s.takeReq r).flt = s.flt := rfl
@[simp] theorem State.takeReq_cnt (s : State) (r : AsyncReq) : (s.takeReq r).cnt = s.cnt := rfl
@[simp] theorem State.takeReq_log (s : State) (r : AsyncReq) : (s.takeReq r).log = s.log := rfl
@[simp] theorem State.takeReq_rst (s : State) (r : AsyncReq) : (s.takeReq r).rst = s.rst := rfl
@[simp] theorem State.takeReq_pwr (s : State) (r : AsyncReq) : (s.takeReq r).pwr = s.pwr := rfl
@[simp] theorem State.takeReq_dm (s : State) (r : AsyncReq) : (s.takeReq r).dm = s.dm := rfl
@[simp] theorem State.takeReq_tw (s : State) (r : AsyncReq) : (s.takeReq r).tw = s.tw := rfl
@[simp] theorem State.takeReq_trc (s : State) (r : AsyncReq) : (s.takeReq r).trc = s.trc := rfl
@[simp] theorem State.takeReq_bist (s : State) (r : AsyncReq) : (s.takeReq r).bist = s.bist := rfl
@[simp] theorem State.takeReq_lnCfg (s : State) (r : AsyncReq) : (s.takeReq r).lnCfg = s.lnCfg := rfl
@[simp] theorem State.takeReq_out (s : State) (r : AsyncReq) : (s.takeReq r).out = s.out := rfl
@[simp] theorem State.takeReq_free (s : State) (r : AsyncReq) : (s.takeReq r).free = s.free := rfl
@[simp] theorem State.takeReq_pending (s : State) (r : AsyncReq) : (s.takeReq r).pending = s.pending := rfl

@[simp] theorem State.lnPut_clk (s : State) (n : Nat) (c : LnCmd) : (s.lnPut n c).clk = s.clk := rfl
@[simp] theorem State.lnPut_lanes (s : State) (n : Nat) (c : LnCmd) : (s.lnPut n c).lanes = s.lanes := rfl
@[simp] theorem State.lnPut_map (s : State) (n : Nat) (c : LnCmd) : (s.lnPut n c).map = s.map := rfl
@[simp] theorem State.lnPut_osura (s : State) (n : Nat) (c : LnCmd) : (s.lnPut n c).osura = s.osura := rfl
@[simp] theorem State.lnPut_buoys (s : State) (n : Nat) (c : LnCmd) : (s.lnPut n c).buoys = s.buoys := rfl
@[simp] theorem State.lnPut_str (s : State) (n : Nat) (c : LnCmd) : (s.lnPut n c).str = s.str := rfl
@[simp] theorem State.lnPut_trap (s : State) (n : Nat) (c : LnCmd) : (s.lnPut n c).trap = s.trap := rfl
@[simp] theorem State.lnPut_td (s : State) (n : Nat) (c : LnCmd) : (s.lnPut n c).td = s.td := rfl
@[simp] theorem State.lnPut_mem (s : State) (n : Nat) (c : LnCmd) : (s.lnPut n c).mem = s.mem := rfl
@[simp] theorem State.lnPut_ring (s : State) (n : Nat) (c : LnCmd) : (s.lnPut n c).ring = s.ring := rfl
@[simp] theorem State.lnPut_kp (s : State) (n : Nat) (c : LnCmd) : (s.lnPut n c).kp = s.kp := rfl
@[simp] theorem State.lnPut_evq (s : State) (n : Nat) (c : LnCmd) : (s.lnPut n c).evq = s.evq := rfl
@[simp] theorem State.lnPut_errs (s : State) (n : Nat) (c : LnCmd) : (s.lnPut n c).errs = s.errs := rfl
@[simp] theorem State.lnPut_flt (s : State) (n : Nat) (c : LnCmd) : (s.lnPut n c).flt = s.flt := rfl
@[simp] theorem State.lnPut_cnt (s : State) (n : Nat) (c : LnCmd) : (s.lnPut n c).cnt = s.cnt := rfl
@[simp] theorem State.lnPut_log (s : State) (n : Nat) (c : LnCmd) : (s.lnPut n c).log = s.log := rfl
@[simp] theorem State.lnPut_rst (s : State) (n : Nat) (c : LnCmd) : (s.lnPut n c).rst = s.rst := rfl
@[simp] theorem State.lnPut_pwr (s : State) (n : Nat) (c : LnCmd) : (s.lnPut n c).pwr = s.pwr := rfl
@[simp] theorem State.lnPut_dm (s : State) (n : Nat) (c : LnCmd) : (s.lnPut n c).dm = s.dm := rfl
@[simp] theorem State.lnPut_tw (s : State) (n : Nat) (c : LnCmd) : (s.lnPut n c).tw = s.tw := rfl
@[simp] theorem State.lnPut_trc (s : State) (n : Nat) (c : LnCmd) : (s.lnPut n c).trc = s.trc := rfl
@[simp] theorem State.lnPut_bist (s : State) (n : Nat) (c : LnCmd) : (s.lnPut n c).bist = s.bist := rfl
@[simp] theorem State.lnPut_lnCfg (s : State) (n : Nat) (c : LnCmd) : (s.lnPut n c).lnCfg = s.lnCfg := rfl
@[simp] theorem State.lnPut_out (s : State) (n : Nat) (c : LnCmd) : (s.lnPut n c).out = s.out := rfl
@[simp] theorem State.lnPut_free (s : State) (n : Nat) (c : LnCmd) : (s.lnPut n c).free = s.free := rfl
@[simp] theorem State.lnPut_pending (s : State) (n : Nat) (c : LnCmd) : (s.lnPut n c).pending = s.pending := rfl

@[simp] theorem State.setPc_clk (s : State) (p : Nat) (st : PcState) : (s.setPc p st).clk = s.clk := rfl
@[simp] theorem State.setPc_lanes (s : State) (p : Nat) (st : PcState) : (s.setPc p st).lanes = s.lanes := rfl
@[simp] theorem State.setPc_osura (s : State) (p : Nat) (st : PcState) : (s.setPc p st).osura = s.osura := rfl
@[simp] theorem State.setPc_buoys (s : State) (p : Nat) (st : PcState) : (s.setPc p st).buoys = s.buoys := rfl
@[simp] theorem State.setPc_str (s : State) (p : Nat) (st : PcState) : (s.setPc p st).str = s.str := rfl
@[simp] theorem State.setPc_trap (s : State) (p : Nat) (st : PcState) : (s.setPc p st).trap = s.trap := rfl
@[simp] theorem State.setPc_ln (s : State) (p : Nat) (st : PcState) : (s.setPc p st).ln = s.ln := rfl
@[simp] theorem State.setPc_td (s : State) (p : Nat) (st : PcState) : (s.setPc p st).td = s.td := rfl
@[simp] theorem State.setPc_mem (s : State) (p : Nat) (st : PcState) : (s.setPc p st).mem = s.mem := rfl
@[simp] theorem State.setPc_ring (s : State) (p : Nat) (st : PcState) : (s.setPc p st).ring = s.ring := rfl
@[simp] theorem State.setPc_kp (s : State) (p : Nat) (st : PcState) : (s.setPc p st).kp = s.kp := rfl
@[simp] theorem State.setPc_evq (s : State) (p : Nat) (st : PcState) : (s.setPc p st).evq = s.evq := rfl
@[simp] theorem State.setPc_errs (s : State) (p : Nat) (st : PcState) : (s.setPc p st).errs = s.errs := rfl
@[simp] theorem State.setPc_flt (s : State) (p : Nat) (st : PcState) : (s.setPc p st).flt = s.flt := rfl
@[simp] theorem State.setPc_cnt (s : State) (p : Nat) (st : PcState) : (s.setPc p st).cnt = s.cnt := rfl
@[simp] theorem State.setPc_log (s : State) (p : Nat) (st : PcState) : (s.setPc p st).log = s.log := rfl
@[simp] theorem State.setPc_rst (s : State) (p : Nat) (st : PcState) : (s.setPc p st).rst = s.rst := rfl
@[simp] theorem State.setPc_pwr (s : State) (p : Nat) (st : PcState) : (s.setPc p st).pwr = s.pwr := rfl
@[simp] theorem State.setPc_dm (s : State) (p : Nat) (st : PcState) : (s.setPc p st).dm = s.dm := rfl
@[simp] theorem State.setPc_tw (s : State) (p : Nat) (st : PcState) : (s.setPc p st).tw = s.tw := rfl
@[simp] theorem State.setPc_trc (s : State) (p : Nat) (st : PcState) : (s.setPc p st).trc = s.trc := rfl
@[simp] theorem State.setPc_bist (s : State) (p : Nat) (st : PcState) : (s.setPc p st).bist = s.bist := rfl
@[simp] theorem State.setPc_lnCfg (s : State) (p : Nat) (st : PcState) : (s.setPc p st).lnCfg = s.lnCfg := rfl
@[simp] theorem State.setPc_out (s : State) (p : Nat) (st : PcState) : (s.setPc p st).out = s.out := rfl
@[simp] theorem State.setPc_free (s : State) (p : Nat) (st : PcState) : (s.setPc p st).free = s.free := rfl
@[simp] theorem State.setPc_pending (s : State) (p : Nat) (st : PcState) : (s.setPc p st).pending = s.pending := rfl




@[simp] theorem State.markEv_clk (s : State) (what k seq : Nat) : (s.markEv what k seq).clk = s.clk := rfl
@[simp] theorem State.markEv_lanes (s : State) (what k seq : Nat) : (s.markEv what k seq).lanes = s.lanes := rfl
@[simp] theorem State.markEv_map (s : State) (what k seq : Nat) : (s.markEv what k seq).map = s.map := rfl
@[simp] theorem State.markEv_osura (s : State) (what k seq : Nat) : (s.markEv what k seq).osura = s.osura := rfl
@[simp] theorem State.markEv_buoys (s : State) (what k seq : Nat) : (s.markEv what k seq).buoys = s.buoys := rfl
@[simp] theorem State.markEv_str (s : State) (what k seq : Nat) : (s.markEv what k seq).str = s.str := rfl
@[simp] theorem State.markEv_trap (s : State) (what k seq : Nat) : (s.markEv what k seq).trap = s.trap := rfl
@[simp] theorem State.markEv_ln (s : State) (what k seq : Nat) : (s.markEv what k seq).ln = s.ln := rfl
@[simp] theorem State.markEv_td (s : State) (what k seq : Nat) : (s.markEv what k seq).td = s.td := rfl
@[simp] theorem State.markEv_mem (s : State) (what k seq : Nat) : (s.markEv what k seq).mem = s.mem := rfl
@[simp] theorem State.markEv_ring (s : State) (what k seq : Nat) : (s.markEv what k seq).ring = s.ring := rfl
@[simp] theorem State.markEv_kp (s : State) (what k seq : Nat) : (s.markEv what k seq).kp = s.kp := rfl
@[simp] theorem State.markEv_errs (s : State) (what k seq : Nat) : (s.markEv what k seq).errs = s.errs := rfl
@[simp] theorem State.markEv_flt (s : State) (what k seq : Nat) : (s.markEv what k seq).flt = s.flt := rfl
@[simp] theorem State.markEv_cnt (s : State) (what k seq : Nat) : (s.markEv what k seq).cnt = s.cnt := rfl
@[simp] theorem State.markEv_log (s : State) (what k seq : Nat) : (s.markEv what k seq).log = s.log := rfl
@[simp] theorem State.markEv_rst (s : State) (what k seq : Nat) : (s.markEv what k seq).rst = s.rst := rfl
@[simp] theorem State.markEv_pwr (s : State) (what k seq : Nat) : (s.markEv what k seq).pwr = s.pwr := rfl
@[simp] theorem State.markEv_dm (s : State) (what k seq : Nat) : (s.markEv what k seq).dm = s.dm := rfl
@[simp] theorem State.markEv_tw (s : State) (what k seq : Nat) : (s.markEv what k seq).tw = s.tw := rfl
@[simp] theorem State.markEv_trc (s : State) (what k seq : Nat) : (s.markEv what k seq).trc = s.trc := rfl
@[simp] theorem State.markEv_bist (s : State) (what k seq : Nat) : (s.markEv what k seq).bist = s.bist := rfl
@[simp] theorem State.markEv_lnCfg (s : State) (what k seq : Nat) : (s.markEv what k seq).lnCfg = s.lnCfg := rfl
@[simp] theorem State.markEv_out (s : State) (what k seq : Nat) : (s.markEv what k seq).out = s.out := rfl
@[simp] theorem State.markEv_free (s : State) (what k seq : Nat) : (s.markEv what k seq).free = s.free := rfl
@[simp] theorem State.markEv_pending (s : State) (what k seq : Nat) : (s.markEv what k seq).pending = s.pending := rfl

@[simp] theorem State.holdEv_clk (s : State) (typ : Nat) (pay : List Byte) : (s.holdEv typ pay).clk = s.clk := rfl
@[simp] theorem State.holdEv_lanes (s : State) (typ : Nat) (pay : List Byte) :
    (s.holdEv typ pay).lanes = s.lanes := rfl
@[simp] theorem State.holdEv_map (s : State) (typ : Nat) (pay : List Byte) : (s.holdEv typ pay).map = s.map := rfl
@[simp] theorem State.holdEv_osura (s : State) (typ : Nat) (pay : List Byte) :
    (s.holdEv typ pay).osura = s.osura := rfl
@[simp] theorem State.holdEv_buoys (s : State) (typ : Nat) (pay : List Byte) :
    (s.holdEv typ pay).buoys = s.buoys := rfl
@[simp] theorem State.holdEv_str (s : State) (typ : Nat) (pay : List Byte) : (s.holdEv typ pay).str = s.str := rfl
@[simp] theorem State.holdEv_trap (s : State) (typ : Nat) (pay : List Byte) : (s.holdEv typ pay).trap = s.trap := rfl
@[simp] theorem State.holdEv_ln (s : State) (typ : Nat) (pay : List Byte) : (s.holdEv typ pay).ln = s.ln := rfl
@[simp] theorem State.holdEv_td (s : State) (typ : Nat) (pay : List Byte) : (s.holdEv typ pay).td = s.td := rfl
@[simp] theorem State.holdEv_mem (s : State) (typ : Nat) (pay : List Byte) : (s.holdEv typ pay).mem = s.mem := rfl
@[simp] theorem State.holdEv_ring (s : State) (typ : Nat) (pay : List Byte) : (s.holdEv typ pay).ring = s.ring := rfl
@[simp] theorem State.holdEv_kp (s : State) (typ : Nat) (pay : List Byte) : (s.holdEv typ pay).kp = s.kp := rfl
@[simp] theorem State.holdEv_errs (s : State) (typ : Nat) (pay : List Byte) : (s.holdEv typ pay).errs = s.errs := rfl
@[simp] theorem State.holdEv_flt (s : State) (typ : Nat) (pay : List Byte) : (s.holdEv typ pay).flt = s.flt := rfl
@[simp] theorem State.holdEv_cnt (s : State) (typ : Nat) (pay : List Byte) : (s.holdEv typ pay).cnt = s.cnt := rfl
@[simp] theorem State.holdEv_log (s : State) (typ : Nat) (pay : List Byte) : (s.holdEv typ pay).log = s.log := rfl
@[simp] theorem State.holdEv_rst (s : State) (typ : Nat) (pay : List Byte) : (s.holdEv typ pay).rst = s.rst := rfl
@[simp] theorem State.holdEv_pwr (s : State) (typ : Nat) (pay : List Byte) : (s.holdEv typ pay).pwr = s.pwr := rfl
@[simp] theorem State.holdEv_dm (s : State) (typ : Nat) (pay : List Byte) : (s.holdEv typ pay).dm = s.dm := rfl
@[simp] theorem State.holdEv_tw (s : State) (typ : Nat) (pay : List Byte) : (s.holdEv typ pay).tw = s.tw := rfl
@[simp] theorem State.holdEv_trc (s : State) (typ : Nat) (pay : List Byte) : (s.holdEv typ pay).trc = s.trc := rfl
@[simp] theorem State.holdEv_bist (s : State) (typ : Nat) (pay : List Byte) : (s.holdEv typ pay).bist = s.bist := rfl
@[simp] theorem State.holdEv_lnCfg (s : State) (typ : Nat) (pay : List Byte) :
    (s.holdEv typ pay).lnCfg = s.lnCfg := rfl
@[simp] theorem State.holdEv_out (s : State) (typ : Nat) (pay : List Byte) : (s.holdEv typ pay).out = s.out := rfl
@[simp] theorem State.holdEv_free (s : State) (typ : Nat) (pay : List Byte) : (s.holdEv typ pay).free = s.free := rfl
@[simp] theorem State.holdEv_pending (s : State) (typ : Nat) (pay : List Byte) :
    (s.holdEv typ pay).pending = s.pending := rfl

@[simp] theorem State.descErr_clk (s : State) (n slot reason op user : Nat) :
    (s.descErr n slot reason op user).clk = s.clk := rfl
@[simp] theorem State.descErr_lanes (s : State) (n slot reason op user : Nat) :
    (s.descErr n slot reason op user).lanes = s.lanes := rfl
@[simp] theorem State.descErr_map (s : State) (n slot reason op user : Nat) :
    (s.descErr n slot reason op user).map = s.map := rfl
@[simp] theorem State.descErr_osura (s : State) (n slot reason op user : Nat) :
    (s.descErr n slot reason op user).osura = s.osura := rfl
@[simp] theorem State.descErr_buoys (s : State) (n slot reason op user : Nat) :
    (s.descErr n slot reason op user).buoys = s.buoys := rfl
@[simp] theorem State.descErr_str (s : State) (n slot reason op user : Nat) :
    (s.descErr n slot reason op user).str = s.str := rfl
@[simp] theorem State.descErr_trap (s : State) (n slot reason op user : Nat) :
    (s.descErr n slot reason op user).trap = s.trap := rfl
@[simp] theorem State.descErr_ln (s : State) (n slot reason op user : Nat) :
    (s.descErr n slot reason op user).ln = s.ln := rfl
@[simp] theorem State.descErr_td (s : State) (n slot reason op user : Nat) :
    (s.descErr n slot reason op user).td = s.td := rfl
@[simp] theorem State.descErr_mem (s : State) (n slot reason op user : Nat) :
    (s.descErr n slot reason op user).mem = s.mem := rfl
@[simp] theorem State.descErr_ring (s : State) (n slot reason op user : Nat) :
    (s.descErr n slot reason op user).ring = s.ring := rfl
@[simp] theorem State.descErr_kp (s : State) (n slot reason op user : Nat) :
    (s.descErr n slot reason op user).kp = s.kp := rfl
@[simp] theorem State.descErr_errs (s : State) (n slot reason op user : Nat) :
    (s.descErr n slot reason op user).errs = s.errs := rfl
@[simp] theorem State.descErr_flt (s : State) (n slot reason op user : Nat) :
    (s.descErr n slot reason op user).flt = s.flt := rfl
@[simp] theorem State.descErr_cnt (s : State) (n slot reason op user : Nat) :
    (s.descErr n slot reason op user).cnt = s.cnt := rfl
@[simp] theorem State.descErr_log (s : State) (n slot reason op user : Nat) :
    (s.descErr n slot reason op user).log = s.log := rfl
@[simp] theorem State.descErr_rst (s : State) (n slot reason op user : Nat) :
    (s.descErr n slot reason op user).rst = s.rst := rfl
@[simp] theorem State.descErr_pwr (s : State) (n slot reason op user : Nat) :
    (s.descErr n slot reason op user).pwr = s.pwr := rfl
@[simp] theorem State.descErr_dm (s : State) (n slot reason op user : Nat) :
    (s.descErr n slot reason op user).dm = s.dm := rfl
@[simp] theorem State.descErr_tw (s : State) (n slot reason op user : Nat) :
    (s.descErr n slot reason op user).tw = s.tw := rfl
@[simp] theorem State.descErr_trc (s : State) (n slot reason op user : Nat) :
    (s.descErr n slot reason op user).trc = s.trc := rfl
@[simp] theorem State.descErr_bist (s : State) (n slot reason op user : Nat) :
    (s.descErr n slot reason op user).bist = s.bist := rfl
@[simp] theorem State.descErr_lnCfg (s : State) (n slot reason op user : Nat) :
    (s.descErr n slot reason op user).lnCfg = s.lnCfg := rfl
@[simp] theorem State.descErr_out (s : State) (n slot reason op user : Nat) :
    (s.descErr n slot reason op user).out = s.out := rfl
@[simp] theorem State.descErr_free (s : State) (n slot reason op user : Nat) :
    (s.descErr n slot reason op user).free = s.free := rfl
@[simp] theorem State.descErr_pending (s : State) (n slot reason op user : Nat) :
    (s.descErr n slot reason op user).pending = s.pending := rfl

@[simp] theorem enterCtl_clk (d : Desc) (secs : List Nat) (status : Nat) (cevt done : Bool) (s : State) :
    (enterCtl d secs status cevt done s).clk = s.clk := rfl
@[simp] theorem enterCtl_lanes (d : Desc) (secs : List Nat) (status : Nat) (cevt done : Bool) (s : State) :
    (enterCtl d secs status cevt done s).lanes = s.lanes := rfl
@[simp] theorem enterCtl_map (d : Desc) (secs : List Nat) (status : Nat) (cevt done : Bool) (s : State) :
    (enterCtl d secs status cevt done s).map = s.map := rfl
@[simp] theorem enterCtl_osura (d : Desc) (secs : List Nat) (status : Nat) (cevt done : Bool) (s : State) :
    (enterCtl d secs status cevt done s).osura = s.osura := rfl
@[simp] theorem enterCtl_buoys (d : Desc) (secs : List Nat) (status : Nat) (cevt done : Bool) (s : State) :
    (enterCtl d secs status cevt done s).buoys = s.buoys := rfl
@[simp] theorem enterCtl_str (d : Desc) (secs : List Nat) (status : Nat) (cevt done : Bool) (s : State) :
    (enterCtl d secs status cevt done s).str = s.str := rfl
@[simp] theorem enterCtl_trap (d : Desc) (secs : List Nat) (status : Nat) (cevt done : Bool) (s : State) :
    (enterCtl d secs status cevt done s).trap = s.trap := rfl
@[simp] theorem enterCtl_ln (d : Desc) (secs : List Nat) (status : Nat) (cevt done : Bool) (s : State) :
    (enterCtl d secs status cevt done s).ln = s.ln := rfl
@[simp] theorem enterCtl_td (d : Desc) (secs : List Nat) (status : Nat) (cevt done : Bool) (s : State) :
    (enterCtl d secs status cevt done s).td = s.td := rfl
@[simp] theorem enterCtl_mem (d : Desc) (secs : List Nat) (status : Nat) (cevt done : Bool) (s : State) :
    (enterCtl d secs status cevt done s).mem = s.mem := rfl
@[simp] theorem enterCtl_ring (d : Desc) (secs : List Nat) (status : Nat) (cevt done : Bool) (s : State) :
    (enterCtl d secs status cevt done s).ring = s.ring := rfl
@[simp] theorem enterCtl_evq (d : Desc) (secs : List Nat) (status : Nat) (cevt done : Bool) (s : State) :
    (enterCtl d secs status cevt done s).evq = s.evq := rfl
@[simp] theorem enterCtl_errs (d : Desc) (secs : List Nat) (status : Nat) (cevt done : Bool) (s : State) :
    (enterCtl d secs status cevt done s).errs = s.errs := rfl
@[simp] theorem enterCtl_flt (d : Desc) (secs : List Nat) (status : Nat) (cevt done : Bool) (s : State) :
    (enterCtl d secs status cevt done s).flt = s.flt := rfl
@[simp] theorem enterCtl_cnt (d : Desc) (secs : List Nat) (status : Nat) (cevt done : Bool) (s : State) :
    (enterCtl d secs status cevt done s).cnt = s.cnt := rfl
@[simp] theorem enterCtl_log (d : Desc) (secs : List Nat) (status : Nat) (cevt done : Bool) (s : State) :
    (enterCtl d secs status cevt done s).log = s.log := rfl
@[simp] theorem enterCtl_rst (d : Desc) (secs : List Nat) (status : Nat) (cevt done : Bool) (s : State) :
    (enterCtl d secs status cevt done s).rst = s.rst := rfl
@[simp] theorem enterCtl_pwr (d : Desc) (secs : List Nat) (status : Nat) (cevt done : Bool) (s : State) :
    (enterCtl d secs status cevt done s).pwr = s.pwr := rfl
@[simp] theorem enterCtl_dm (d : Desc) (secs : List Nat) (status : Nat) (cevt done : Bool) (s : State) :
    (enterCtl d secs status cevt done s).dm = s.dm := rfl
@[simp] theorem enterCtl_tw (d : Desc) (secs : List Nat) (status : Nat) (cevt done : Bool) (s : State) :
    (enterCtl d secs status cevt done s).tw = s.tw := rfl
@[simp] theorem enterCtl_trc (d : Desc) (secs : List Nat) (status : Nat) (cevt done : Bool) (s : State) :
    (enterCtl d secs status cevt done s).trc = s.trc := rfl
@[simp] theorem enterCtl_bist (d : Desc) (secs : List Nat) (status : Nat) (cevt done : Bool) (s : State) :
    (enterCtl d secs status cevt done s).bist = s.bist := rfl
@[simp] theorem enterCtl_lnCfg (d : Desc) (secs : List Nat) (status : Nat) (cevt done : Bool) (s : State) :
    (enterCtl d secs status cevt done s).lnCfg = s.lnCfg := rfl
@[simp] theorem enterCtl_out (d : Desc) (secs : List Nat) (status : Nat) (cevt done : Bool) (s : State) :
    (enterCtl d secs status cevt done s).out = s.out := rfl
@[simp] theorem enterCtl_free (d : Desc) (secs : List Nat) (status : Nat) (cevt done : Bool) (s : State) :
    (enterCtl d secs status cevt done s).free = s.free := rfl
@[simp] theorem enterCtl_pending (d : Desc) (secs : List Nat) (status : Nat) (cevt done : Bool) (s : State) :
    (enterCtl d secs status cevt done s).pending = s.pending := rfl

@[simp] theorem tdFinish_clk (c status : Nat) (s : State) : (tdFinish c status s).clk = s.clk := rfl
@[simp] theorem tdFinish_lanes (c status : Nat) (s : State) : (tdFinish c status s).lanes = s.lanes := rfl
@[simp] theorem tdFinish_map (c status : Nat) (s : State) : (tdFinish c status s).map = s.map := rfl
@[simp] theorem tdFinish_osura (c status : Nat) (s : State) : (tdFinish c status s).osura = s.osura := rfl
@[simp] theorem tdFinish_buoys (c status : Nat) (s : State) : (tdFinish c status s).buoys = s.buoys := rfl
@[simp] theorem tdFinish_str (c status : Nat) (s : State) : (tdFinish c status s).str = s.str := rfl
@[simp] theorem tdFinish_trap (c status : Nat) (s : State) : (tdFinish c status s).trap = s.trap := rfl
@[simp] theorem tdFinish_ln (c status : Nat) (s : State) : (tdFinish c status s).ln = s.ln := rfl
@[simp] theorem tdFinish_mem (c status : Nat) (s : State) : (tdFinish c status s).mem = s.mem := rfl
@[simp] theorem tdFinish_ring (c status : Nat) (s : State) : (tdFinish c status s).ring = s.ring := rfl
@[simp] theorem tdFinish_kp (c status : Nat) (s : State) : (tdFinish c status s).kp = s.kp := rfl
@[simp] theorem tdFinish_evq (c status : Nat) (s : State) : (tdFinish c status s).evq = s.evq := rfl
@[simp] theorem tdFinish_errs (c status : Nat) (s : State) : (tdFinish c status s).errs = s.errs := rfl
@[simp] theorem tdFinish_flt (c status : Nat) (s : State) : (tdFinish c status s).flt = s.flt := rfl
@[simp] theorem tdFinish_cnt (c status : Nat) (s : State) : (tdFinish c status s).cnt = s.cnt := rfl
@[simp] theorem tdFinish_log (c status : Nat) (s : State) : (tdFinish c status s).log = s.log := rfl
@[simp] theorem tdFinish_rst (c status : Nat) (s : State) : (tdFinish c status s).rst = s.rst := rfl
@[simp] theorem tdFinish_pwr (c status : Nat) (s : State) : (tdFinish c status s).pwr = s.pwr := rfl
@[simp] theorem tdFinish_dm (c status : Nat) (s : State) : (tdFinish c status s).dm = s.dm := rfl
@[simp] theorem tdFinish_tw (c status : Nat) (s : State) : (tdFinish c status s).tw = s.tw := rfl
@[simp] theorem tdFinish_trc (c status : Nat) (s : State) : (tdFinish c status s).trc = s.trc := rfl
@[simp] theorem tdFinish_bist (c status : Nat) (s : State) : (tdFinish c status s).bist = s.bist := rfl
@[simp] theorem tdFinish_lnCfg (c status : Nat) (s : State) : (tdFinish c status s).lnCfg = s.lnCfg := rfl
@[simp] theorem tdFinish_out (c status : Nat) (s : State) : (tdFinish c status s).out = s.out := rfl
@[simp] theorem tdFinish_free (c status : Nat) (s : State) : (tdFinish c status s).free = s.free := rfl
@[simp] theorem tdFinish_pending (c status : Nat) (s : State) : (tdFinish c status s).pending = s.pending := rfl


@[simp] theorem State.evalDiv_lanes (s : State) : (s.evalDiv).lanes = s.lanes := rfl
@[simp] theorem State.evalDiv_map (s : State) : (s.evalDiv).map = s.map := rfl
@[simp] theorem State.evalDiv_osura (s : State) : (s.evalDiv).osura = s.osura := rfl
@[simp] theorem State.evalDiv_buoys (s : State) : (s.evalDiv).buoys = s.buoys := rfl
@[simp] theorem State.evalDiv_str (s : State) : (s.evalDiv).str = s.str := rfl
@[simp] theorem State.evalDiv_trap (s : State) : (s.evalDiv).trap = s.trap := rfl
@[simp] theorem State.evalDiv_ln (s : State) : (s.evalDiv).ln = s.ln := rfl
@[simp] theorem State.evalDiv_td (s : State) : (s.evalDiv).td = s.td := rfl
@[simp] theorem State.evalDiv_mem (s : State) : (s.evalDiv).mem = s.mem := rfl
@[simp] theorem State.evalDiv_ring (s : State) : (s.evalDiv).ring = s.ring := rfl
@[simp] theorem State.evalDiv_kp (s : State) : (s.evalDiv).kp = s.kp := rfl
@[simp] theorem State.evalDiv_evq (s : State) : (s.evalDiv).evq = s.evq := rfl
@[simp] theorem State.evalDiv_errs (s : State) : (s.evalDiv).errs = s.errs := rfl
@[simp] theorem State.evalDiv_flt (s : State) : (s.evalDiv).flt = s.flt := rfl
@[simp] theorem State.evalDiv_cnt (s : State) : (s.evalDiv).cnt = s.cnt := rfl
@[simp] theorem State.evalDiv_log (s : State) : (s.evalDiv).log = s.log := rfl
@[simp] theorem State.evalDiv_rst (s : State) : (s.evalDiv).rst = s.rst := rfl
@[simp] theorem State.evalDiv_pwr (s : State) : (s.evalDiv).pwr = s.pwr := rfl
@[simp] theorem State.evalDiv_dm (s : State) : (s.evalDiv).dm = s.dm := rfl
@[simp] theorem State.evalDiv_tw (s : State) : (s.evalDiv).tw = s.tw := rfl
@[simp] theorem State.evalDiv_trc (s : State) : (s.evalDiv).trc = s.trc := rfl
@[simp] theorem State.evalDiv_bist (s : State) : (s.evalDiv).bist = s.bist := rfl
@[simp] theorem State.evalDiv_lnCfg (s : State) : (s.evalDiv).lnCfg = s.lnCfg := rfl
@[simp] theorem State.evalDiv_out (s : State) : (s.evalDiv).out = s.out := rfl
@[simp] theorem State.evalDiv_free (s : State) : (s.evalDiv).free = s.free := rfl
@[simp] theorem State.evalDiv_pending (s : State) : (s.evalDiv).pending = s.pending := rfl

@[simp] theorem State.putBuoy_clk (s : State) (cmd : Bool) (n : Nat) (b : Buoy) :
    (s.putBuoy cmd n b).clk = s.clk := rfl
@[simp] theorem State.putBuoy_lanes (s : State) (cmd : Bool) (n : Nat) (b : Buoy) :
    (s.putBuoy cmd n b).lanes = s.lanes := rfl
@[simp] theorem State.putBuoy_map (s : State) (cmd : Bool) (n : Nat) (b : Buoy) :
    (s.putBuoy cmd n b).map = s.map := rfl
@[simp] theorem State.putBuoy_osura (s : State) (cmd : Bool) (n : Nat) (b : Buoy) :
    (s.putBuoy cmd n b).osura = s.osura := rfl
@[simp] theorem State.putBuoy_str (s : State) (cmd : Bool) (n : Nat) (b : Buoy) :
    (s.putBuoy cmd n b).str = s.str := rfl
@[simp] theorem State.putBuoy_trap (s : State) (cmd : Bool) (n : Nat) (b : Buoy) :
    (s.putBuoy cmd n b).trap = s.trap := rfl
@[simp] theorem State.putBuoy_ln (s : State) (cmd : Bool) (n : Nat) (b : Buoy) : (s.putBuoy cmd n b).ln = s.ln := rfl
@[simp] theorem State.putBuoy_td (s : State) (cmd : Bool) (n : Nat) (b : Buoy) : (s.putBuoy cmd n b).td = s.td := rfl
@[simp] theorem State.putBuoy_mem (s : State) (cmd : Bool) (n : Nat) (b : Buoy) :
    (s.putBuoy cmd n b).mem = s.mem := rfl
@[simp] theorem State.putBuoy_ring (s : State) (cmd : Bool) (n : Nat) (b : Buoy) :
    (s.putBuoy cmd n b).ring = s.ring := rfl
@[simp] theorem State.putBuoy_kp (s : State) (cmd : Bool) (n : Nat) (b : Buoy) : (s.putBuoy cmd n b).kp = s.kp := rfl
@[simp] theorem State.putBuoy_evq (s : State) (cmd : Bool) (n : Nat) (b : Buoy) :
    (s.putBuoy cmd n b).evq = s.evq := rfl
@[simp] theorem State.putBuoy_errs (s : State) (cmd : Bool) (n : Nat) (b : Buoy) :
    (s.putBuoy cmd n b).errs = s.errs := rfl
@[simp] theorem State.putBuoy_flt (s : State) (cmd : Bool) (n : Nat) (b : Buoy) :
    (s.putBuoy cmd n b).flt = s.flt := rfl
@[simp] theorem State.putBuoy_cnt (s : State) (cmd : Bool) (n : Nat) (b : Buoy) :
    (s.putBuoy cmd n b).cnt = s.cnt := rfl
@[simp] theorem State.putBuoy_log (s : State) (cmd : Bool) (n : Nat) (b : Buoy) :
    (s.putBuoy cmd n b).log = s.log := rfl
@[simp] theorem State.putBuoy_rst (s : State) (cmd : Bool) (n : Nat) (b : Buoy) :
    (s.putBuoy cmd n b).rst = s.rst := rfl
@[simp] theorem State.putBuoy_pwr (s : State) (cmd : Bool) (n : Nat) (b : Buoy) :
    (s.putBuoy cmd n b).pwr = s.pwr := rfl
@[simp] theorem State.putBuoy_dm (s : State) (cmd : Bool) (n : Nat) (b : Buoy) : (s.putBuoy cmd n b).dm = s.dm := rfl
@[simp] theorem State.putBuoy_tw (s : State) (cmd : Bool) (n : Nat) (b : Buoy) : (s.putBuoy cmd n b).tw = s.tw := rfl
@[simp] theorem State.putBuoy_trc (s : State) (cmd : Bool) (n : Nat) (b : Buoy) :
    (s.putBuoy cmd n b).trc = s.trc := rfl
@[simp] theorem State.putBuoy_bist (s : State) (cmd : Bool) (n : Nat) (b : Buoy) :
    (s.putBuoy cmd n b).bist = s.bist := rfl
@[simp] theorem State.putBuoy_lnCfg (s : State) (cmd : Bool) (n : Nat) (b : Buoy) :
    (s.putBuoy cmd n b).lnCfg = s.lnCfg := rfl
@[simp] theorem State.putBuoy_out (s : State) (cmd : Bool) (n : Nat) (b : Buoy) :
    (s.putBuoy cmd n b).out = s.out := rfl
@[simp] theorem State.putBuoy_free (s : State) (cmd : Bool) (n : Nat) (b : Buoy) :
    (s.putBuoy cmd n b).free = s.free := rfl
@[simp] theorem State.putBuoy_pending (s : State) (cmd : Bool) (n : Nat) (b : Buoy) :
    (s.putBuoy cmd n b).pending = s.pending := rfl

@[simp] theorem State.askChecked_clk (s : State) (agent : Agent) (who : Owner) (a len : Nat) :
    (s.askChecked agent who a len).clk = s.clk := rfl
@[simp] theorem State.askChecked_lanes (s : State) (agent : Agent) (who : Owner) (a len : Nat) :
    (s.askChecked agent who a len).lanes = s.lanes := rfl
@[simp] theorem State.askChecked_map (s : State) (agent : Agent) (who : Owner) (a len : Nat) :
    (s.askChecked agent who a len).map = s.map := rfl
@[simp] theorem State.askChecked_buoys (s : State) (agent : Agent) (who : Owner) (a len : Nat) :
    (s.askChecked agent who a len).buoys = s.buoys := rfl
@[simp] theorem State.askChecked_str (s : State) (agent : Agent) (who : Owner) (a len : Nat) :
    (s.askChecked agent who a len).str = s.str := rfl
@[simp] theorem State.askChecked_trap (s : State) (agent : Agent) (who : Owner) (a len : Nat) :
    (s.askChecked agent who a len).trap = s.trap := rfl
@[simp] theorem State.askChecked_ln (s : State) (agent : Agent) (who : Owner) (a len : Nat) :
    (s.askChecked agent who a len).ln = s.ln := rfl
@[simp] theorem State.askChecked_td (s : State) (agent : Agent) (who : Owner) (a len : Nat) :
    (s.askChecked agent who a len).td = s.td := rfl
@[simp] theorem State.askChecked_mem (s : State) (agent : Agent) (who : Owner) (a len : Nat) :
    (s.askChecked agent who a len).mem = s.mem := rfl
@[simp] theorem State.askChecked_ring (s : State) (agent : Agent) (who : Owner) (a len : Nat) :
    (s.askChecked agent who a len).ring = s.ring := rfl
@[simp] theorem State.askChecked_kp (s : State) (agent : Agent) (who : Owner) (a len : Nat) :
    (s.askChecked agent who a len).kp = s.kp := rfl
@[simp] theorem State.askChecked_evq (s : State) (agent : Agent) (who : Owner) (a len : Nat) :
    (s.askChecked agent who a len).evq = s.evq := rfl
@[simp] theorem State.askChecked_errs (s : State) (agent : Agent) (who : Owner) (a len : Nat) :
    (s.askChecked agent who a len).errs = s.errs := rfl
@[simp] theorem State.askChecked_flt (s : State) (agent : Agent) (who : Owner) (a len : Nat) :
    (s.askChecked agent who a len).flt = s.flt := rfl
@[simp] theorem State.askChecked_cnt (s : State) (agent : Agent) (who : Owner) (a len : Nat) :
    (s.askChecked agent who a len).cnt = s.cnt := rfl
@[simp] theorem State.askChecked_log (s : State) (agent : Agent) (who : Owner) (a len : Nat) :
    (s.askChecked agent who a len).log = s.log := rfl
@[simp] theorem State.askChecked_rst (s : State) (agent : Agent) (who : Owner) (a len : Nat) :
    (s.askChecked agent who a len).rst = s.rst := rfl
@[simp] theorem State.askChecked_pwr (s : State) (agent : Agent) (who : Owner) (a len : Nat) :
    (s.askChecked agent who a len).pwr = s.pwr := rfl
@[simp] theorem State.askChecked_dm (s : State) (agent : Agent) (who : Owner) (a len : Nat) :
    (s.askChecked agent who a len).dm = s.dm := rfl
@[simp] theorem State.askChecked_tw (s : State) (agent : Agent) (who : Owner) (a len : Nat) :
    (s.askChecked agent who a len).tw = s.tw := rfl
@[simp] theorem State.askChecked_trc (s : State) (agent : Agent) (who : Owner) (a len : Nat) :
    (s.askChecked agent who a len).trc = s.trc := rfl
@[simp] theorem State.askChecked_bist (s : State) (agent : Agent) (who : Owner) (a len : Nat) :
    (s.askChecked agent who a len).bist = s.bist := rfl
@[simp] theorem State.askChecked_lnCfg (s : State) (agent : Agent) (who : Owner) (a len : Nat) :
    (s.askChecked agent who a len).lnCfg = s.lnCfg := rfl
@[simp] theorem State.askChecked_out (s : State) (agent : Agent) (who : Owner) (a len : Nat) :
    (s.askChecked agent who a len).out = s.out := rfl
@[simp] theorem State.askChecked_free (s : State) (agent : Agent) (who : Owner) (a len : Nat) :
    (s.askChecked agent who a len).free = s.free := rfl
@[simp] theorem State.askChecked_pending (s : State) (agent : Agent) (who : Owner) (a len : Nat) :
    (s.askChecked agent who a len).pending = s.pending := rfl

@[simp] theorem State.setMooring_clk (s : State) (n : Nat) (m : Moor) : (s.setMooring n m).clk = s.clk := rfl
@[simp] theorem State.setMooring_lanes (s : State) (n : Nat) (m : Moor) : (s.setMooring n m).lanes = s.lanes := rfl
@[simp] theorem State.setMooring_map (s : State) (n : Nat) (m : Moor) : (s.setMooring n m).map = s.map := rfl
@[simp] theorem State.setMooring_osura (s : State) (n : Nat) (m : Moor) : (s.setMooring n m).osura = s.osura := rfl
@[simp] theorem State.setMooring_buoys (s : State) (n : Nat) (m : Moor) : (s.setMooring n m).buoys = s.buoys := rfl
@[simp] theorem State.setMooring_str (s : State) (n : Nat) (m : Moor) : (s.setMooring n m).str = s.str := rfl
@[simp] theorem State.setMooring_trap (s : State) (n : Nat) (m : Moor) : (s.setMooring n m).trap = s.trap := rfl
@[simp] theorem State.setMooring_ln (s : State) (n : Nat) (m : Moor) : (s.setMooring n m).ln = s.ln := rfl
@[simp] theorem State.setMooring_td (s : State) (n : Nat) (m : Moor) : (s.setMooring n m).td = s.td := rfl
@[simp] theorem State.setMooring_mem (s : State) (n : Nat) (m : Moor) : (s.setMooring n m).mem = s.mem := rfl
@[simp] theorem State.setMooring_kp (s : State) (n : Nat) (m : Moor) : (s.setMooring n m).kp = s.kp := rfl
@[simp] theorem State.setMooring_evq (s : State) (n : Nat) (m : Moor) : (s.setMooring n m).evq = s.evq := rfl
@[simp] theorem State.setMooring_errs (s : State) (n : Nat) (m : Moor) : (s.setMooring n m).errs = s.errs := rfl
@[simp] theorem State.setMooring_flt (s : State) (n : Nat) (m : Moor) : (s.setMooring n m).flt = s.flt := rfl
@[simp] theorem State.setMooring_cnt (s : State) (n : Nat) (m : Moor) : (s.setMooring n m).cnt = s.cnt := rfl
@[simp] theorem State.setMooring_log (s : State) (n : Nat) (m : Moor) : (s.setMooring n m).log = s.log := rfl
@[simp] theorem State.setMooring_rst (s : State) (n : Nat) (m : Moor) : (s.setMooring n m).rst = s.rst := rfl
@[simp] theorem State.setMooring_pwr (s : State) (n : Nat) (m : Moor) : (s.setMooring n m).pwr = s.pwr := rfl
@[simp] theorem State.setMooring_dm (s : State) (n : Nat) (m : Moor) : (s.setMooring n m).dm = s.dm := rfl
@[simp] theorem State.setMooring_tw (s : State) (n : Nat) (m : Moor) : (s.setMooring n m).tw = s.tw := rfl
@[simp] theorem State.setMooring_trc (s : State) (n : Nat) (m : Moor) : (s.setMooring n m).trc = s.trc := rfl
@[simp] theorem State.setMooring_bist (s : State) (n : Nat) (m : Moor) : (s.setMooring n m).bist = s.bist := rfl
@[simp] theorem State.setMooring_lnCfg (s : State) (n : Nat) (m : Moor) : (s.setMooring n m).lnCfg = s.lnCfg := rfl
@[simp] theorem State.setMooring_out (s : State) (n : Nat) (m : Moor) : (s.setMooring n m).out = s.out := rfl
@[simp] theorem State.setMooring_free (s : State) (n : Nat) (m : Moor) : (s.setMooring n m).free = s.free := rfl
@[simp] theorem State.setMooring_pending (s : State) (n : Nat) (m : Moor) :
    (s.setMooring n m).pending = s.pending := rfl

@[simp] theorem State.clearLn_clk (s : State) (n written : Nat) : (s.clearLn n written).clk = s.clk := rfl
@[simp] theorem State.clearLn_lanes (s : State) (n written : Nat) : (s.clearLn n written).lanes = s.lanes := rfl
@[simp] theorem State.clearLn_map (s : State) (n written : Nat) : (s.clearLn n written).map = s.map := rfl
@[simp] theorem State.clearLn_osura (s : State) (n written : Nat) : (s.clearLn n written).osura = s.osura := rfl
@[simp] theorem State.clearLn_buoys (s : State) (n written : Nat) : (s.clearLn n written).buoys = s.buoys := rfl
@[simp] theorem State.clearLn_str (s : State) (n written : Nat) : (s.clearLn n written).str = s.str := rfl
@[simp] theorem State.clearLn_trap (s : State) (n written : Nat) : (s.clearLn n written).trap = s.trap := rfl
@[simp] theorem State.clearLn_td (s : State) (n written : Nat) : (s.clearLn n written).td = s.td := rfl
@[simp] theorem State.clearLn_mem (s : State) (n written : Nat) : (s.clearLn n written).mem = s.mem := rfl
@[simp] theorem State.clearLn_ring (s : State) (n written : Nat) : (s.clearLn n written).ring = s.ring := rfl
@[simp] theorem State.clearLn_kp (s : State) (n written : Nat) : (s.clearLn n written).kp = s.kp := rfl
@[simp] theorem State.clearLn_evq (s : State) (n written : Nat) : (s.clearLn n written).evq = s.evq := rfl
@[simp] theorem State.clearLn_errs (s : State) (n written : Nat) : (s.clearLn n written).errs = s.errs := rfl
@[simp] theorem State.clearLn_flt (s : State) (n written : Nat) : (s.clearLn n written).flt = s.flt := rfl
@[simp] theorem State.clearLn_cnt (s : State) (n written : Nat) : (s.clearLn n written).cnt = s.cnt := rfl
@[simp] theorem State.clearLn_log (s : State) (n written : Nat) : (s.clearLn n written).log = s.log := rfl
@[simp] theorem State.clearLn_rst (s : State) (n written : Nat) : (s.clearLn n written).rst = s.rst := rfl
@[simp] theorem State.clearLn_pwr (s : State) (n written : Nat) : (s.clearLn n written).pwr = s.pwr := rfl
@[simp] theorem State.clearLn_dm (s : State) (n written : Nat) : (s.clearLn n written).dm = s.dm := rfl
@[simp] theorem State.clearLn_tw (s : State) (n written : Nat) : (s.clearLn n written).tw = s.tw := rfl
@[simp] theorem State.clearLn_trc (s : State) (n written : Nat) : (s.clearLn n written).trc = s.trc := rfl
@[simp] theorem State.clearLn_bist (s : State) (n written : Nat) : (s.clearLn n written).bist = s.bist := rfl
@[simp] theorem State.clearLn_lnCfg (s : State) (n written : Nat) : (s.clearLn n written).lnCfg = s.lnCfg := rfl
@[simp] theorem State.clearLn_out (s : State) (n written : Nat) : (s.clearLn n written).out = s.out := rfl
@[simp] theorem State.clearLn_free (s : State) (n written : Nat) : (s.clearLn n written).free = s.free := rfl
@[simp] theorem State.clearLn_pending (s : State) (n written : Nat) : (s.clearLn n written).pending = s.pending := rfl

@[simp] theorem State.setRing_clk (s : State) (n : Nat) (r : HRing) : (s.setRing n r).clk = s.clk := rfl
@[simp] theorem State.setRing_lanes (s : State) (n : Nat) (r : HRing) : (s.setRing n r).lanes = s.lanes := rfl
@[simp] theorem State.setRing_map (s : State) (n : Nat) (r : HRing) : (s.setRing n r).map = s.map := rfl
@[simp] theorem State.setRing_osura (s : State) (n : Nat) (r : HRing) : (s.setRing n r).osura = s.osura := rfl
@[simp] theorem State.setRing_buoys (s : State) (n : Nat) (r : HRing) : (s.setRing n r).buoys = s.buoys := rfl
@[simp] theorem State.setRing_str (s : State) (n : Nat) (r : HRing) : (s.setRing n r).str = s.str := rfl
@[simp] theorem State.setRing_trap (s : State) (n : Nat) (r : HRing) : (s.setRing n r).trap = s.trap := rfl
@[simp] theorem State.setRing_ln (s : State) (n : Nat) (r : HRing) : (s.setRing n r).ln = s.ln := rfl
@[simp] theorem State.setRing_td (s : State) (n : Nat) (r : HRing) : (s.setRing n r).td = s.td := rfl
@[simp] theorem State.setRing_mem (s : State) (n : Nat) (r : HRing) : (s.setRing n r).mem = s.mem := rfl
@[simp] theorem State.setRing_ring (s : State) (n : Nat) (r : HRing) : (s.setRing n r).ring = s.ring := rfl
@[simp] theorem State.setRing_evq (s : State) (n : Nat) (r : HRing) : (s.setRing n r).evq = s.evq := rfl
@[simp] theorem State.setRing_errs (s : State) (n : Nat) (r : HRing) : (s.setRing n r).errs = s.errs := rfl
@[simp] theorem State.setRing_flt (s : State) (n : Nat) (r : HRing) : (s.setRing n r).flt = s.flt := rfl
@[simp] theorem State.setRing_cnt (s : State) (n : Nat) (r : HRing) : (s.setRing n r).cnt = s.cnt := rfl
@[simp] theorem State.setRing_log (s : State) (n : Nat) (r : HRing) : (s.setRing n r).log = s.log := rfl
@[simp] theorem State.setRing_rst (s : State) (n : Nat) (r : HRing) : (s.setRing n r).rst = s.rst := rfl
@[simp] theorem State.setRing_pwr (s : State) (n : Nat) (r : HRing) : (s.setRing n r).pwr = s.pwr := rfl
@[simp] theorem State.setRing_dm (s : State) (n : Nat) (r : HRing) : (s.setRing n r).dm = s.dm := rfl
@[simp] theorem State.setRing_tw (s : State) (n : Nat) (r : HRing) : (s.setRing n r).tw = s.tw := rfl
@[simp] theorem State.setRing_trc (s : State) (n : Nat) (r : HRing) : (s.setRing n r).trc = s.trc := rfl
@[simp] theorem State.setRing_bist (s : State) (n : Nat) (r : HRing) : (s.setRing n r).bist = s.bist := rfl
@[simp] theorem State.setRing_lnCfg (s : State) (n : Nat) (r : HRing) : (s.setRing n r).lnCfg = s.lnCfg := rfl
@[simp] theorem State.setRing_out (s : State) (n : Nat) (r : HRing) : (s.setRing n r).out = s.out := rfl
@[simp] theorem State.setRing_free (s : State) (n : Nat) (r : HRing) : (s.setRing n r).free = s.free := rfl
@[simp] theorem State.setRing_pending (s : State) (n : Nat) (r : HRing) : (s.setRing n r).pending = s.pending := rfl

@[simp] theorem State.takeSpace_clk (s : State) (p : Pkt) :
    (s.takeSpace p).clk = s.clk := by unfold State.takeSpace; split <;> rfl
@[simp] theorem State.takeSpace_lanes (s : State) (p : Pkt) :
    (s.takeSpace p).lanes = s.lanes := by unfold State.takeSpace; split <;> rfl
@[simp] theorem State.takeSpace_map (s : State) (p : Pkt) :
    (s.takeSpace p).map = s.map := by unfold State.takeSpace; split <;> rfl
@[simp] theorem State.takeSpace_osura (s : State) (p : Pkt) :
    (s.takeSpace p).osura = s.osura := by unfold State.takeSpace; split <;> rfl
@[simp] theorem State.takeSpace_buoys (s : State) (p : Pkt) :
    (s.takeSpace p).buoys = s.buoys := by unfold State.takeSpace; split <;> rfl
@[simp] theorem State.takeSpace_str (s : State) (p : Pkt) :
    (s.takeSpace p).str = s.str := by unfold State.takeSpace; split <;> rfl
@[simp] theorem State.takeSpace_trap (s : State) (p : Pkt) :
    (s.takeSpace p).trap = s.trap := by unfold State.takeSpace; split <;> rfl
@[simp] theorem State.takeSpace_ln (s : State) (p : Pkt) :
    (s.takeSpace p).ln = s.ln := by unfold State.takeSpace; split <;> rfl
@[simp] theorem State.takeSpace_td (s : State) (p : Pkt) :
    (s.takeSpace p).td = s.td := by unfold State.takeSpace; split <;> rfl
@[simp] theorem State.takeSpace_mem (s : State) (p : Pkt) :
    (s.takeSpace p).mem = s.mem := by unfold State.takeSpace; split <;> rfl
@[simp] theorem State.takeSpace_kp (s : State) (p : Pkt) :
    (s.takeSpace p).kp = s.kp := by unfold State.takeSpace; split <;> rfl
@[simp] theorem State.takeSpace_evq (s : State) (p : Pkt) :
    (s.takeSpace p).evq = s.evq := by unfold State.takeSpace; split <;> rfl
@[simp] theorem State.takeSpace_errs (s : State) (p : Pkt) :
    (s.takeSpace p).errs = s.errs := by unfold State.takeSpace; split <;> rfl
@[simp] theorem State.takeSpace_flt (s : State) (p : Pkt) :
    (s.takeSpace p).flt = s.flt := by unfold State.takeSpace; split <;> rfl
@[simp] theorem State.takeSpace_cnt (s : State) (p : Pkt) :
    (s.takeSpace p).cnt = s.cnt := by unfold State.takeSpace; split <;> rfl
@[simp] theorem State.takeSpace_log (s : State) (p : Pkt) :
    (s.takeSpace p).log = s.log := by unfold State.takeSpace; split <;> rfl
@[simp] theorem State.takeSpace_rst (s : State) (p : Pkt) :
    (s.takeSpace p).rst = s.rst := by unfold State.takeSpace; split <;> rfl
@[simp] theorem State.takeSpace_pwr (s : State) (p : Pkt) :
    (s.takeSpace p).pwr = s.pwr := by unfold State.takeSpace; split <;> rfl
@[simp] theorem State.takeSpace_dm (s : State) (p : Pkt) :
    (s.takeSpace p).dm = s.dm := by unfold State.takeSpace; split <;> rfl
@[simp] theorem State.takeSpace_tw (s : State) (p : Pkt) :
    (s.takeSpace p).tw = s.tw := by unfold State.takeSpace; split <;> rfl
@[simp] theorem State.takeSpace_trc (s : State) (p : Pkt) :
    (s.takeSpace p).trc = s.trc := by unfold State.takeSpace; split <;> rfl
@[simp] theorem State.takeSpace_bist (s : State) (p : Pkt) :
    (s.takeSpace p).bist = s.bist := by unfold State.takeSpace; split <;> rfl
@[simp] theorem State.takeSpace_lnCfg (s : State) (p : Pkt) :
    (s.takeSpace p).lnCfg = s.lnCfg := by unfold State.takeSpace; split <;> rfl
@[simp] theorem State.takeSpace_out (s : State) (p : Pkt) :
    (s.takeSpace p).out = s.out := by unfold State.takeSpace; split <;> rfl
@[simp] theorem State.takeSpace_free (s : State) (p : Pkt) :
    (s.takeSpace p).free = s.free := by unfold State.takeSpace; split <;> rfl
@[simp] theorem State.takeSpace_pending (s : State) (p : Pkt) :
    (s.takeSpace p).pending = s.pending := by unfold State.takeSpace; split <;> rfl




@[simp] theorem State.noteSent_clk (s : State) (kind unit : Nat) : (s.noteSent kind unit).clk = s.clk := rfl
@[simp] theorem State.noteSent_lanes (s : State) (kind unit : Nat) : (s.noteSent kind unit).lanes = s.lanes := rfl
@[simp] theorem State.noteSent_map (s : State) (kind unit : Nat) : (s.noteSent kind unit).map = s.map := rfl
@[simp] theorem State.noteSent_osura (s : State) (kind unit : Nat) : (s.noteSent kind unit).osura = s.osura := rfl
@[simp] theorem State.noteSent_buoys (s : State) (kind unit : Nat) : (s.noteSent kind unit).buoys = s.buoys := rfl
@[simp] theorem State.noteSent_trap (s : State) (kind unit : Nat) : (s.noteSent kind unit).trap = s.trap := rfl
@[simp] theorem State.noteSent_ln (s : State) (kind unit : Nat) : (s.noteSent kind unit).ln = s.ln := rfl
@[simp] theorem State.noteSent_td (s : State) (kind unit : Nat) : (s.noteSent kind unit).td = s.td := rfl
@[simp] theorem State.noteSent_mem (s : State) (kind unit : Nat) : (s.noteSent kind unit).mem = s.mem := rfl
@[simp] theorem State.noteSent_ring (s : State) (kind unit : Nat) : (s.noteSent kind unit).ring = s.ring := rfl
@[simp] theorem State.noteSent_kp (s : State) (kind unit : Nat) : (s.noteSent kind unit).kp = s.kp := rfl
@[simp] theorem State.noteSent_evq (s : State) (kind unit : Nat) : (s.noteSent kind unit).evq = s.evq := rfl
@[simp] theorem State.noteSent_errs (s : State) (kind unit : Nat) : (s.noteSent kind unit).errs = s.errs := rfl
@[simp] theorem State.noteSent_flt (s : State) (kind unit : Nat) : (s.noteSent kind unit).flt = s.flt := rfl
@[simp] theorem State.noteSent_cnt (s : State) (kind unit : Nat) : (s.noteSent kind unit).cnt = s.cnt := rfl
@[simp] theorem State.noteSent_log (s : State) (kind unit : Nat) : (s.noteSent kind unit).log = s.log := rfl
@[simp] theorem State.noteSent_rst (s : State) (kind unit : Nat) : (s.noteSent kind unit).rst = s.rst := rfl
@[simp] theorem State.noteSent_pwr (s : State) (kind unit : Nat) : (s.noteSent kind unit).pwr = s.pwr := rfl
@[simp] theorem State.noteSent_dm (s : State) (kind unit : Nat) : (s.noteSent kind unit).dm = s.dm := rfl
@[simp] theorem State.noteSent_tw (s : State) (kind unit : Nat) : (s.noteSent kind unit).tw = s.tw := rfl
@[simp] theorem State.noteSent_trc (s : State) (kind unit : Nat) : (s.noteSent kind unit).trc = s.trc := rfl
@[simp] theorem State.noteSent_bist (s : State) (kind unit : Nat) : (s.noteSent kind unit).bist = s.bist := rfl
@[simp] theorem State.noteSent_lnCfg (s : State) (kind unit : Nat) : (s.noteSent kind unit).lnCfg = s.lnCfg := rfl
@[simp] theorem State.noteSent_out (s : State) (kind unit : Nat) : (s.noteSent kind unit).out = s.out := rfl
@[simp] theorem State.noteSent_free (s : State) (kind unit : Nat) : (s.noteSent kind unit).free = s.free := rfl
@[simp] theorem State.noteSent_pending (s : State) (kind unit : Nat) :
    (s.noteSent kind unit).pending = s.pending := rfl

@[simp] theorem State.withoutRequests_clk (s : State) (c : Nat) : (s.withoutRequests c).clk = s.clk := rfl
@[simp] theorem State.withoutRequests_lanes (s : State) (c : Nat) : (s.withoutRequests c).lanes = s.lanes := rfl
@[simp] theorem State.withoutRequests_map (s : State) (c : Nat) : (s.withoutRequests c).map = s.map := rfl
@[simp] theorem State.withoutRequests_buoys (s : State) (c : Nat) : (s.withoutRequests c).buoys = s.buoys := rfl
@[simp] theorem State.withoutRequests_str (s : State) (c : Nat) : (s.withoutRequests c).str = s.str := rfl
@[simp] theorem State.withoutRequests_trap (s : State) (c : Nat) : (s.withoutRequests c).trap = s.trap := rfl
@[simp] theorem State.withoutRequests_ln (s : State) (c : Nat) : (s.withoutRequests c).ln = s.ln := rfl
@[simp] theorem State.withoutRequests_td (s : State) (c : Nat) : (s.withoutRequests c).td = s.td := rfl
@[simp] theorem State.withoutRequests_ring (s : State) (c : Nat) : (s.withoutRequests c).ring = s.ring := rfl
@[simp] theorem State.withoutRequests_kp (s : State) (c : Nat) : (s.withoutRequests c).kp = s.kp := rfl
@[simp] theorem State.withoutRequests_evq (s : State) (c : Nat) : (s.withoutRequests c).evq = s.evq := rfl
@[simp] theorem State.withoutRequests_errs (s : State) (c : Nat) : (s.withoutRequests c).errs = s.errs := rfl
@[simp] theorem State.withoutRequests_flt (s : State) (c : Nat) : (s.withoutRequests c).flt = s.flt := rfl
@[simp] theorem State.withoutRequests_cnt (s : State) (c : Nat) : (s.withoutRequests c).cnt = s.cnt := rfl
@[simp] theorem State.withoutRequests_log (s : State) (c : Nat) : (s.withoutRequests c).log = s.log := rfl
@[simp] theorem State.withoutRequests_rst (s : State) (c : Nat) : (s.withoutRequests c).rst = s.rst := rfl
@[simp] theorem State.withoutRequests_pwr (s : State) (c : Nat) : (s.withoutRequests c).pwr = s.pwr := rfl
@[simp] theorem State.withoutRequests_dm (s : State) (c : Nat) : (s.withoutRequests c).dm = s.dm := rfl
@[simp] theorem State.withoutRequests_tw (s : State) (c : Nat) : (s.withoutRequests c).tw = s.tw := rfl
@[simp] theorem State.withoutRequests_trc (s : State) (c : Nat) : (s.withoutRequests c).trc = s.trc := rfl
@[simp] theorem State.withoutRequests_bist (s : State) (c : Nat) : (s.withoutRequests c).bist = s.bist := rfl
@[simp] theorem State.withoutRequests_lnCfg (s : State) (c : Nat) : (s.withoutRequests c).lnCfg = s.lnCfg := rfl
@[simp] theorem State.withoutRequests_out (s : State) (c : Nat) : (s.withoutRequests c).out = s.out := rfl
@[simp] theorem State.withoutRequests_free (s : State) (c : Nat) : (s.withoutRequests c).free = s.free := rfl
@[simp] theorem State.withoutRequests_pending (s : State) (c : Nat) : (s.withoutRequests c).pending = s.pending := rfl

@[simp] theorem State.fusAside_clk (s : State) (n : Nat) : (s.fusAside n).clk = s.clk := rfl
@[simp] theorem State.fusAside_lanes (s : State) (n : Nat) : (s.fusAside n).lanes = s.lanes := rfl
@[simp] theorem State.fusAside_map (s : State) (n : Nat) : (s.fusAside n).map = s.map := rfl
@[simp] theorem State.fusAside_osura (s : State) (n : Nat) : (s.fusAside n).osura = s.osura := rfl
@[simp] theorem State.fusAside_buoys (s : State) (n : Nat) : (s.fusAside n).buoys = s.buoys := rfl
@[simp] theorem State.fusAside_str (s : State) (n : Nat) : (s.fusAside n).str = s.str := rfl
@[simp] theorem State.fusAside_trap (s : State) (n : Nat) : (s.fusAside n).trap = s.trap := rfl
@[simp] theorem State.fusAside_td (s : State) (n : Nat) : (s.fusAside n).td = s.td := rfl
@[simp] theorem State.fusAside_mem (s : State) (n : Nat) : (s.fusAside n).mem = s.mem := rfl
@[simp] theorem State.fusAside_ring (s : State) (n : Nat) : (s.fusAside n).ring = s.ring := rfl
@[simp] theorem State.fusAside_kp (s : State) (n : Nat) : (s.fusAside n).kp = s.kp := rfl
@[simp] theorem State.fusAside_evq (s : State) (n : Nat) : (s.fusAside n).evq = s.evq := rfl
@[simp] theorem State.fusAside_errs (s : State) (n : Nat) : (s.fusAside n).errs = s.errs := rfl
@[simp] theorem State.fusAside_flt (s : State) (n : Nat) : (s.fusAside n).flt = s.flt := rfl
@[simp] theorem State.fusAside_cnt (s : State) (n : Nat) : (s.fusAside n).cnt = s.cnt := rfl
@[simp] theorem State.fusAside_log (s : State) (n : Nat) : (s.fusAside n).log = s.log := rfl
@[simp] theorem State.fusAside_rst (s : State) (n : Nat) : (s.fusAside n).rst = s.rst := rfl
@[simp] theorem State.fusAside_pwr (s : State) (n : Nat) : (s.fusAside n).pwr = s.pwr := rfl
@[simp] theorem State.fusAside_dm (s : State) (n : Nat) : (s.fusAside n).dm = s.dm := rfl
@[simp] theorem State.fusAside_tw (s : State) (n : Nat) : (s.fusAside n).tw = s.tw := rfl
@[simp] theorem State.fusAside_trc (s : State) (n : Nat) : (s.fusAside n).trc = s.trc := rfl
@[simp] theorem State.fusAside_bist (s : State) (n : Nat) : (s.fusAside n).bist = s.bist := rfl
@[simp] theorem State.fusAside_lnCfg (s : State) (n : Nat) : (s.fusAside n).lnCfg = s.lnCfg := rfl
@[simp] theorem State.fusAside_out (s : State) (n : Nat) : (s.fusAside n).out = s.out := rfl
@[simp] theorem State.fusAside_free (s : State) (n : Nat) : (s.fusAside n).free = s.free := rfl
@[simp] theorem State.fusAside_pending (s : State) (n : Nat) : (s.fusAside n).pending = s.pending := rfl


end Sys2Proof.Machine
end

