-- ==== Sys2Proof/Laws/Ops.lean ====
section
/-! SUPPORT. One lemma for each shared operation: what it can change, and what a reader sees after a write. -/

namespace Sys2Proof.Machine

/-! ### Bits -/

theorem bitOf_toNat {w : Nat} (v : BitVec w) (i : Nat) : bitOf v.toNat i = v.getLsbD i := by
  simp [bitOf, BitVec.getLsbD, Nat.testBit]

theorem bitOf_eq_testBit (x i : Nat) : bitOf x i = x.testBit i := by
  simp [bitOf, Nat.testBit]

theorem bitsOf_eq (x lo len : Nat) : bitsOf x lo len = x / 2 ^ lo % 2 ^ len := by
  simp [bitsOf, Nat.shiftRight_eq_div_pow]

/-! ### Reading after writing -/

theorem modifyAt_getD {α : Type} (l : List α) (i j : Nat) (f : α → α) (d : α) :
    (modifyAt l i f).getD j d = if j = i ∧ j < l.length then f (l.getD j d) else l.getD j d := by
  unfold modifyAt
  rw [List.getD_eq_getElem?_getD, List.getD_eq_getElem?_getD, List.getElem?_modify]
  by_cases h : i = j
  · subst h
    by_cases hl : i < l.length
    · simp [hl]
    · simp [hl]
  · have h' : ¬ j = i := fun e => h e.symm
    simp [h, h']

theorem modifyAt_length {α : Type} (l : List α) (i : Nat) (f : α → α) : (modifyAt l i f).length = l.length := by
  unfold modifyAt; exact List.length_modify ..

theorem State.rport_setPort (s : State) (n m : Nat) (f : RPort → RPort) :
    (s.setPort n f).rport m = if m = n ∧ m < s.ring.ports.length then f (s.rport m) else s.rport m :=
  modifyAt_getD ..

theorem State.lan_modLn (s : State) (n m : Nat) (f : Lantern → Lantern) :
    (s.modLn n f).lan m = if m = n ∧ m < s.ln.length then f (s.lan m) else s.lan m :=
  modifyAt_getD ..

theorem State.chan_setChan (s : State) (c k : Nat) (x : Chan) (h : swf Chan.idle s.td.ch = true) :
    (s.setChan c x).chan k = if k = c then x else s.chan k := sget_sset c k x h

theorem State.buoy_setBuoy (s : State) (n m : Nat) (b : Buoy) (h : swf Buoy.idle s.buoys.b = true) :
    (s.setBuoy n b).buoy m = if m = n then b else s.buoy m := sget_sset n m b h

theorem State.secCtl_modSec (s : State) (k m : Nat) (f : SecCtl → SecCtl) (h : swf SecCtl.fresh s.osura.secs = true) :
    (s.modSec k f).secCtl m = if m = k then f (s.secCtl k) else s.secCtl m := sget_sset k m _ h

theorem State.lane_modLane (s : State) (p q : Nat) (f : Lanes → Lanes) (h : swf Lanes.fresh s.lanes = true) :
    (s.modLane p f).lane q = if q = p then f (s.lane p) else s.lane q := sget_sset p q _ h

/-! ### What an operation can change -/

theorem bumpBy_frame (o n : Nat) (s : State) : bumpBy o n s = { s with cnt := (bumpBy o n s).cnt } := by
  unfold bumpBy; split <;> rfl

theorem bump_frame (o : Nat) (s : State) : bump o s = { s with cnt := (bump o s).cnt } := bumpBy_frame o 1 s

/-- A counter is bumped alike in states with the same counters and the same time. -/
theorem bump_cnt (o : Nat) (s t : State) (h : s.cnt = t.cnt) (g : s.clk.ckr = t.clk.ckr) :
    (bump o s).cnt = (bump o t).cnt := by
  unfold bump bumpBy State.ctlCycle; rw [h, g]; split <;> simp_all

theorem State.pushOrDrop_frame (s : State) (e : EvRec) :
    s.pushOrDrop e = { s with
      evq := (s.pushOrDrop e).evq, cnt := (s.pushOrDrop e).cnt
      kp := { s.kp with evlost := (s.pushOrDrop e).kp.evlost } } := by
  unfold State.pushOrDrop
  split
  · rfl
  · rw [bump_frame]

/-- A dropped packet changes the record of dropped packets, or the count of those that it cannot hold. -/
theorem State.ringDrop_frame (s : State) (r : Nat) (p : Pkt) :
    s.ringDrop r p = { s with
      cnt := (s.ringDrop r p).cnt
      ring := { s.ring with
        errReason := (s.ringDrop r p).ring.errReason, errPort := (s.ringDrop r p).ring.errPort
        errLocal := (s.ringDrop r p).ring.errLocal, errSrc := (s.ringDrop r p).ring.errSrc
        errValid := (s.ringDrop r p).ring.errValid } } := by
  unfold State.ringDrop
  split
  · rw [bump_frame]
  · rfl

theorem Ring.route_lt {r : Ring} {d m : Nat} (h : r.route d = some m) : m < 8 := by
  unfold Ring.route at h
  dsimp only at h
  split at h
  · cases h
  · split at h
    · injection h with h
      rw [← h, bitsOf]
      exact Nat.mod_lt _ (by decide)
    · cases h

/-- What sending a packet can change (R332). -/
theorem State.originate_frame (s : State) (p : Pkt) :
    s.originate p = { s with
      cnt := (s.originate p).cnt
      ring := { s.ring with
        ports := (s.originate p).ring.ports, loopQ := (s.originate p).ring.loopQ
        errReason := (s.originate p).ring.errReason, errPort := (s.originate p).ring.errPort
        errLocal := (s.originate p).ring.errLocal, errSrc := (s.originate p).ring.errSrc
        errValid := (s.originate p).ring.errValid } } := by
  unfold State.originate
  split
  · rfl
  · split
    · rw [State.ringDrop_frame]
    · rfl

/-- Where a packet that this chip sends comes to stand (R332). -/
theorem State.originate_spec (s : State) (p : Pkt) :
    (p.dst = s.ring.chipId → (s.originate p).ring.loopQ = s.ring.loopQ ++ [p] ∧
      (s.originate p).ring.ports = s.ring.ports) ∧
    (p.dst ≠ s.ring.chipId → (s.originate p).ring.loopQ = s.ring.loopQ ∧
      ∀ m < s.ring.ports.length, s.ring.route p.dst = some m →
        (s.originate p).rport m = { s.rport m with loc := (s.rport m).loc ++ [p] } ∧
        ∀ n, n ≠ m → (s.originate p).rport n = s.rport n) := by
  constructor
  · intro h; unfold State.originate; rw [if_pos h]; exact ⟨rfl, rfl⟩
  · intro h
    unfold State.originate; rw [if_neg h]
    constructor
    · split
      · rw [State.ringDrop_frame]
      · rfl
    · intro m hm hr
      rw [hr]
      dsimp only
      refine ⟨?_, fun n hn => ?_⟩
      · rw [State.rport_setPort, if_pos ⟨rfl, hm⟩]
      · rw [State.rport_setPort, if_neg (fun e => hn e.1)]

/-- A message that this chip makes has been sent. -/
theorem State.originate_sentTo (s : State) (dst kind moor seq xtag : Nat) (pay : List Byte) :
    s.SentTo (s.originate (s.newPkt dst 0 kind moor seq xtag pay)) dst kind pay :=
  ⟨s.newPkt dst 0 kind moor seq xtag pay, rfl, rfl, rfl, rfl, rfl, rfl, (s.originate_spec (s.newPkt dst 0 kind moor seq xtag pay)).1,
    (s.originate_spec (s.newPkt dst 0 kind moor seq xtag pay)).2⟩

theorem State.toNext_sentTo (s : State) (kind : Nat) (pay : List Byte) : s.SentTo (s.toNext kind pay) s.ring.nextId kind pay :=
  s.originate_sentTo _ _ _ _ _ _

/-- `SentTo` asks only for the identity, routes and queues of the ring. -/
theorem State.SentTo.of_eq {s s' t t' : State} {dst kind : Nat} {pay : List Byte} (h : s.SentTo t dst kind pay)
    (h1 : s'.ring.chipId = s.ring.chipId) (h2 : s'.ring.jobKey = s.ring.jobKey) (h3 : s'.ring.loopQ = s.ring.loopQ)
    (h4 : s'.ring.ports = s.ring.ports) (h5 : s'.ring.route = s.ring.route) (h6 : t'.ring.loopQ = t.ring.loopQ)
    (h7 : t'.ring.ports = t.ring.ports) : s'.SentTo t' dst kind pay := by
  obtain ⟨p, a1, a2, a3, a4, a5, a6, a7, a8⟩ := h
  refine ⟨p, a1, by rw [h1]; exact a2, a3, a4, by rw [h2]; exact a5, a6, ?_, ?_⟩
  · rw [h1, h3, h4, h6, h7]; exact a7
  · rw [h1, h3, h4, h5, h6]
    simp only [State.rport, h4, h7]
    exact a8

/-- The space of a packet's arrival buffer goes back (R339, R458). -/
theorem State.freeSpace_frame (s : State) (p : Pkt) :
    s.freeSpace p = { s with
      out := (s.freeSpace p).out, ring := { s.ring with ports := (s.freeSpace p).ring.ports } } := by
  unfold State.freeSpace
  split
  · rfl
  · dsimp only
    split <;> rfl

theorem ctlReport_frame (s : State) (r : CtlRun) :
    ctlReport s r = { s with evq := (ctlReport s r).evq, kp := { s.kp with ctlRun := (ctlReport s r).kp.ctlRun } } := by
  unfold ctlReport
  split
  · dsimp only
    split <;> rfl
  · rfl

/-- Events are only added. -/
theorem ctlReport_evq (s : State) (r : CtlRun) : s.evq <+: (ctlReport s r).evq := by
  unfold ctlReport
  split
  · dsimp only
    split <;> exact List.prefix_append ..
  · exact List.prefix_rfl

theorem ctlReports_frame (l : List CtlRun) : ∀ s : State,
    l.foldl ctlReport s = { s with
      evq := (l.foldl ctlReport s).evq, kp := { s.kp with ctlRun := (l.foldl ctlReport s).kp.ctlRun } } ∧
    s.evq <+: (l.foldl ctlReport s).evq := by
  induction l with
  | nil => exact fun s => ⟨rfl, List.prefix_rfl⟩
  | cons r l ih =>
    intro s
    obtain ⟨h1, h2⟩ := ih (ctlReport s r)
    refine ⟨?_, (ctlReport_evq s r).trans h2⟩
    rw [List.foldl_cons, h1, ctlReport_frame]

/-- Reporting Control descriptors changes their books and adds events (R379). -/
theorem ctlPump_frame (s : State) :
    ctlPump s = { s with
      evq := (ctlPump s).evq
      kp := { s.kp with ctlRun := (ctlPump s).kp.ctlRun, cdone := (ctlPump s).kp.cdone } } := by
  unfold ctlPump
  dsimp only
  rw [(ctlReports_frame s.kp.ctlRun s).1]

theorem ctlPump_evq (s : State) : s.evq <+: (ctlPump s).evq := (ctlReports_frame s.kp.ctlRun s).2

/-- With nothing started, there is nothing to report. -/
theorem ctlPump_nil (s : State) (h : s.kp.ctlRun = []) :
    ctlPump s = { s with kp := { s.kp with cdone := s.kp.cdone % 2 ^ 32 } } := by
  unfold ctlPump; simp [h]

theorem State.settle_frame (s : State) (n : Nat) (b : Bool) :
    s.settle n b = { s with
      evq := (s.settle n b).evq
      kp := { s.kp with ctlRun := (s.settle n b).kp.ctlRun, cdone := (s.settle n b).kp.cdone } } := by
  unfold State.settle; rw [ctlPump_frame]

theorem State.settle_evq (s : State) (n : Nat) (b : Bool) : s.evq <+: (s.settle n b).evq := by
  unfold State.settle
  exact ctlPump_evq { s with kp := { s.kp with ctlRun := s.kp.ctlRun.map _ } }

/-- A producer completion changes one buoy, or records a misuse (R75, R87). -/
theorem State.buoyMisuse_frame (s : State) (n k c : Nat) (u : Bool) :
    s.buoyMisuse n k c u = { s with
      cnt := (s.buoyMisuse n k c u).cnt
      buoys := { s.buoys with
        errBuoy := (s.buoyMisuse n k c u).buoys.errBuoy, errKind := (s.buoyMisuse n k c u).buoys.errKind
        errSource := (s.buoyMisuse n k c u).buoys.errSource, errUncov := (s.buoyMisuse n k c u).buoys.errUncov
        errValid := (s.buoyMisuse n k c u).buoys.errValid } } := by
  unfold State.buoyMisuse
  split
  · rw [bump_frame]
  · rfl

theorem State.countAt_frame (s : State) (n k c : Nat) (f : Buoy → Buoy) :
    s.countAt n k c f = { s with cnt := (s.countAt n k c f).cnt, buoys := (s.countAt n k c f).buoys } := by
  unfold State.countAt
  dsimp only
  split
  · split
    · rw [State.buoyMisuse_frame]
    · rfl
  · split
    · rw [State.buoyMisuse_frame]
    · split <;> rfl

theorem State.alsoWithout_frame (s : State) (n : Nat) (f : Buoy → Buoy) :
    s.alsoWithout n f = { s with str := { s.str with cmds := (s.alsoWithout n f).str.cmds } } := by
  unfold State.alsoWithout
  split <;> rfl

theorem State.complete_frame (s : State) (n c : Nat) :
    s.complete n c = { s with
      cnt := (s.complete n c).cnt, buoys := (s.complete n c).buoys
      str := { s.str with cmds := (s.complete n c).str.cmds } } := by
  unfold State.complete
  rw [State.alsoWithout_frame, State.countAt_frame]

theorem State.release_frame (s : State) (n c : Nat) :
    s.release n c = { s with
      cnt := (s.release n c).cnt, buoys := (s.release n c).buoys
      str := { s.str with cmds := (s.release n c).str.cmds } } := by
  unfold State.release
  rw [State.alsoWithout_frame, State.countAt_frame]

/-- Completion records (R316) change the queue of records, SYS requests and what leaves the block. -/
theorem recPump_frame (s : State) :
    recPump s = { s with
      kp := { s.kp with recQ := (recPump s).kp.recQ, sys := (recPump s).kp.sys }, out := (recPump s).out } := by
  unfold recPump
  split <;> rfl

/-- A power request asks for one domain (R462, R479). -/
theorem powerAsks_frame (op : Nat) (l : List Nat) : ∀ s : State,
    l.foldl (fun s d => s.powerAsk d op) s = { s with
      out := (l.foldl (fun s d => s.powerAsk d op) s).out
      pwr := { s.pwr with
        reqs := s.pwr.reqs ++ l.map (fun d => (d, op)), on := (l.foldl (fun s d => s.powerAsk d op) s).pwr.on
        asked := (l.foldl (fun s d => s.powerAsk d op) s).pwr.asked } } := by
  induction l with
  | nil => intro s; simp
  | cons d l ih =>
    intro s
    rw [List.foldl_cons, ih]
    simp [State.powerAsk]

/-- Steps that each change only power requests do so together. -/
theorem foldl_pwr {α : Type} (f : State → α → State)
    (h : ∀ s x, f s x = { s with pwr := (f s x).pwr, out := (f s x).out }) (l : List α) : ∀ s : State,
    l.foldl f s = { s with pwr := (l.foldl f s).pwr, out := (l.foldl f s).out } := by
  induction l with
  | nil => exact fun _ => rfl
  | cons x l ih =>
    intro s
    rw [List.foldl_cons, ih, h]

theorem repower_frame (s : State) : repower s = { s with pwr := (repower s).pwr, out := (repower s).out } := by
  unfold repower
  exact foldl_pwr _ (fun s d => by split <;> rfl) _ s

theorem bringUp_frame (s : State) :
    bringUp s = { s with rst := { s.rst with phase := 1 }, pwr := (bringUp s).pwr, out := (bringUp s).out } := by
  unfold bringUp
  dsimp only
  rw [foldl_pwr _ (fun s d => by split <;> rfl)]

theorem darkenForReset_frame (s : State) :
    darkenForReset s = { s with pwr := (darkenForReset s).pwr, out := (darkenForReset s).out } := by
  unfold darkenForReset
  refine foldl_pwr _ (fun s d => ?_) _ s
  dsimp only
  split
  · split
    · split <;> rfl
    · rfl
  · rfl

/-! ### Arrivals -/

theorem State.behindHeld_takeSpace (s : State) (p : Pkt) : (s.takeSpace p).behindHeld p = s.behindHeld p := by
  unfold State.takeSpace State.behindHeld
  cases p.port with
  | none => rfl
  | some n =>
    dsimp only
    rw [State.rport_setPort]
    split <;> rfl

theorem State.canTake_takeSpace (s : State) (p q : Pkt) : (s.takeSpace p).canTake q = s.canTake q := by
  unfold State.takeSpace
  cases p.port <;> rfl

/-- A packet of the loopback path holds no arrival buffer's space. -/
theorem State.freeSpace_none {p : Pkt} (h : p.port = none) (s : State) : s.freeSpace p = s := by
  unfold State.freeSpace; rw [h]

/-- A packet that is this chip's to take is taken (R332 to R339). -/
theorem State.Comes.arrive {s : State} {port : Fin 9} {hdr : List Word} {pl : List Byte} {p : Pkt}
    (h : s.Comes port hdr pl p) (kinds : List Nat) (act : Pkt → State → State) (hk : kinds.contains p.kind = true) :
    arrive port hdr pl kinds act s = .next (
      if p.kind = 0 then act p (s.took port p) else (act p (s.took port p)).freeSpace p) := by
  obtain ⟨h1, h2, h3, h4, h5, h6, h7⟩ := h
  have deliver : ∀ t : State, t.ring.jobKey = s.ring.jobKey →
      deliverPkt act p t = if p.kind = 0 then act p t else (act p t).freeSpace p := by
    intro t ht
    unfold deliverPkt
    rw [ht, if_neg (by simp [h3])]
    split
    · rfl
    · rename_i hz
      rw [if_neg (by simpa using h4 hz)]
  unfold Machine.arrive
  rw [if_neg (by simp [h1, h2])]
  by_cases h8 : port.val = 8
  · obtain ⟨⟨rest, a⟩, b, c, d⟩ := h6 h8
    have hn : s.loopNext kinds = some p := by
      have ht : s.turnOf (p :: rest) p = true := by
        unfold State.turnOf
        rw [List.find?_cons_of_pos (by cases hz : s.holdKind p <;> simp [State.before, hz])]
        simp [h5]
      unfold State.loopNext
      rw [a, List.find?_cons_of_pos]
      have hk' : p.kind ∈ kinds := by simpa using hk
      simpa [hk', ht] using d
    rw [if_pos h8, b, if_pos rfl, hn]
    show Host.Outcome.next (deliverPkt act p { s with ring := { s.ring with loopQ := s.ring.loopQ.erase p } }) = _
    rw [State.took, if_pos h8, deliver { s with ring := { s.ring with loopQ := s.ring.loopQ.erase p } } rfl, a,
      List.erase_cons_head]
    rfl
  · obtain ⟨a1, a2, a3, a4, a5, a6⟩ := h7 h8
    rw [if_neg h8]
    dsimp only
    have hk' : p.kind ∈ kinds := by simpa using hk
    rw [← a1, if_neg (by simp [a2]),
      if_neg (by simp only [a3, Bool.not_true, Bool.false_or, decide_eq_true_eq]; omega), if_neg (by simp [a5, hk'])]
    unfold takeOrHold
    dsimp only
    rw [State.canTake_takeSpace, State.behindHeld_takeSpace, h5, a6, State.took, if_neg h8]
    refine congrArg Host.Outcome.next (deliver _ ?_)
    unfold State.takeSpace
    split <;> rfl

/-- What detecting an error does, and all it does (R391, R392). -/
theorem State.detect_detected (s : State) (kind reason phys logi addr : Nat) :
    s.Detected (s.detect (s.err kind reason phys logi addr)) kind reason phys logi addr := by
  let e := s.err kind reason phys logi addr
  refine ⟨⟨e, s.errs.takeWhile (fun x => !e.before x), s.errs.dropWhile (fun x => !e.before x),
    List.takeWhile_append_dropWhile.symm, ?_, rfl, rfl, rfl, rfl, rfl, rfl, rfl, rfl, ?_, ?_⟩, ?_, ?_⟩
  · unfold State.detect endRestore restoreFail
    split <;> rfl
  · intro x hx
    simpa using List.mem_takeWhile_imp hx
  · intro x hx
    have := List.head?_dropWhile_not (fun x => !e.before x) s.errs
    rw [hx] at this
    simpa using this
  · unfold State.detect endRestore restoreFail
    split <;> simp_all
  · intro h
    simp [State.detect, endRestore, h]

end Sys2Proof.Machine
end

