-- ==== Sys2Proof/Tests/Slice0.lean ====
section
/-! SUPPORT. The model's own tests: ill-formed commands, a witness for the hypotheses of every clause of every
statement, and small tests of single commands against values worked out from the spec. -/

namespace Sys2Proof.Tests

open Sys2Proof.Machine

-- One test after the other: tests that wait for one another in the kernel would each hold a thread.
set_option Elab.async false

/-! ### Ill-formed commands are refused -/

/-- The command was refused as ill-formed. -/
def illFormed : Host.Outcome State Fault Refusal → Bool
  | .refused .illFormed => true
  | _ => false

/-- The next state, or the state itself. -/
def after (c : Instr) (s : State) : State :=
  match exec c s with
  | .next t => t
  | _ => s

theorem test_wf_memReadResponse : (Instr.memReadResponse 0 0#11 0#2 [0#8]).wf = false ∧
    illFormed (exec (.memReadResponse 0 0#11 0#2 [0#8]) State.reset) = true := by decide
theorem test_wf_sysResponse : (Instr.sysResponse 0#5 0#2 []).wf = false ∧
    illFormed (exec (.sysResponse 0#5 0#2 []) State.reset) = true := by decide
theorem test_wf_resultBeat : (Instr.resultBeat 0 (some 0#32) 0#32 [1#32]).wf = false ∧
    illFormed (exec (.resultBeat 0 (some 0#32) 0#32 [1#32]) State.reset) = true ∧
    (Instr.resultBeat 0 none 0#32 []).wf = true := by decide
theorem test_wf_packet : ∀ c ∈ [Instr.data 0 [] [], .credit 0 [] [], .ack 0 [] [], .nak 0 [] [], .pktMark 0 [] [],
    .pktSeal 0 [] [], .closed 0 [] [], .mabort 0 [] [], .pktHold 0 [] [], .pktRelease 0 [] [], .mreq 0 [] [],
    .reservedKindArrival 0 [] [], .packetForward 0 [] []],
    c.wf = false ∧ illFormed (exec c State.reset) = true := by decide
theorem test_wf_payload : (Instr.data 8 (List.replicate 8 0#32) (List.replicate 512 0#8)).wf = false ∧
    illFormed (exec (.data 8 (List.replicate 8 0#32) (List.replicate 512 0#8)) State.reset) = true := by
  decide +kernel
theorem test_wf_good : (Instr.data 0 (List.replicate 8 0#32) []).wf = true ∧ (Instr.launch).wf = true ∧
    (Instr.sysResponse 0#5 0#2 (List.replicate 64 0#8)).wf = true := by decide

/-! ### States -/

/-- A READY block with sectors 0 and 1 Lit. -/
def up : State := { State.reset with
  rst := { Rst.reset with ready := true, phase := 3, bistDone := true }
  osura := { Osura.reset with secs := [(0, { SecCtl.fresh with st := .lit }), (1, { SecCtl.fresh with st := .lit })] } }

/-- The same with a launch at address 0. -/
def running : State := { up with
  str := { Stream.reset with launch := some ⟨1, .h1, 1, 0, 0⟩ }
  kp := { Keeper.reset with nextseq := 2 } }

theorem up_inv : up.Inv :=
  ⟨⟨rfl, rfl⟩, ⟨rfl, by decide, by decide⟩, ⟨by decide, by decide⟩, by decide, by decide, rfl, rfl, rfl, rfl, rfl, rfl, rfl⟩

/-- States that agree where the invariant looks have it alike. -/
theorem inv_of {s t : State} (h : s.Inv)
    (e : (t.osura.data, t.osura.check, t.dm, t.tw, t.rst.pstate, t.log.haveMark, t.log.en, t.lanes, t.cnt.eng, t.cnt.cl,
      t.td.ch, t.buoys.b, t.osura.secs, t.osura.cb) =
      (s.osura.data, s.osura.check, s.dm, s.tw, s.rst.pstate, s.log.haveMark, s.log.en, s.lanes, s.cnt.eng, s.cnt.cl,
      s.td.ch, s.buoys.b, s.osura.secs, s.osura.cb)) : t.Inv := by
  simp only [Prod.mk.injEq] at e
  obtain ⟨h1, h2, h3, h4, h5, h6, h7, h8, h9, h10, h11, h12, h13, h14⟩ := e
  simpa only [State.Inv, Memory.wf, State.Canon, h1, h2, h3, h4, h5, h6, h7, h8, h9, h10, h11, h12, h13, h14] using h


/-- The stores of a state are in canonical form. -/
def canonical (t : State) : Bool :=
  swf 0#8 t.osura.data && swf 0#8 t.osura.check && swf Lanes.fresh t.lanes && swf 0 t.cnt.eng && swf 0 t.cnt.cl &&
    swf Chan.idle t.td.ch && swf Buoy.idle t.buoys.b && swf SecCtl.fresh t.osura.secs && swf [] t.osura.cb

/-- The invariant of a state with the Daymark, the wrapper and the power state of `up` and without a mark. -/
theorem inv_mk {t : State} (e : (t.dm, t.tw, t.rst.pstate, t.log.haveMark) = (up.dm, up.tw, 0, false))
    (h : canonical t = true) : t.Inv := by
  simp only [Prod.mk.injEq] at e
  obtain ⟨e1, e2, e3, e4⟩ := e
  simp only [canonical, Bool.and_eq_true] at h
  obtain ⟨⟨⟨⟨⟨⟨⟨⟨h1, h2⟩, h3⟩, h4⟩, h5⟩, h6⟩, h7⟩, h8⟩, h9⟩ := h
  exact ⟨⟨h1, h2⟩, e1 ▸ up_inv.2.1, e2 ▸ up_inv.2.2.1, by rw [e3]; decide, (fun g => by rw [e4] at g; cases g),
    h3, h4, h5, h6, h7, h8, h9⟩
/-! ### Witnesses: the block as a whole -/

theorem witness_StepRunsFront : up.pending = [] := rfl
theorem witness_EveryCommandAnswers : (Instr.launch).wf = true ∧ (Instr.sysResponse 0#5 0#2 []).wf = false := by decide
/-- A step with a doorbell write in front, and one with no command, from a state with the invariant. -/
theorem witness_QueueShrinks : (∃ t, step { up with pending := [.doorbellWrite 0 1#32, .launch] } = .next t) ∧
    ∃ t, step up = .next t := ⟨⟨_, rfl⟩, ⟨_, rfl⟩⟩
theorem witness_EveryStepKeepsInv : ({ up with pending := [.doorbellWrite 0 1#32] } : State).Inv ∧
    ∃ t, step { up with pending := [.doorbellWrite 0 1#32] } = .next t := ⟨inv_of up_inv rfl, ⟨_, rfl⟩⟩

/-! ### Witnesses: SYS writes and reads -/

theorem witness_BeforeReadyOnlyAnswers : State.reset.rst.ready = false := rfl
theorem witness_SelectsAndCounterClear : up.rst.ready = true ∧ (3#32).getLsbD 1 = true ∧ (1#32).getLsbD 1 = false := by decide
theorem witness_CounterReadClears : ({ up with cnt := ⟨[(0x200, 7)], [], false, some (0, [(0x200, 5)], []), none⟩ } : State).Inv ∧ up.rst.ready = true ∧
    0x200 ∈ counterOffsets ∧ 0x29C ∈ counterOffsets :=
  ⟨inv_mk rfl (by decide), by decide, by decide, by decide⟩
/-- A read returns what the counter held before its control cycle; the two events of that cycle remain (R505). -/
theorem test_counter_keeps_its_cycle : ((({ up with cnt := ⟨[(0x200, 7)], [], false, some (0, [(0x200, 5)], []), none⟩ } : State).cnt.takeEng
    0 0x200).eng, ({ up with cnt := ⟨[(0x200, 7)], [], false, some (0, [(0x200, 5)], []), none⟩ } : State).regValue 0x10200) =
    ([(0x200, 2)], some 5) := by decide +kernel
/-- A spare swap of this control cycle does not change a window's members (R494). -/
theorem test_window_keeps_old_map : ({ up with map := Maps.reset.setCl 0 (Maps.reset.cl.set 0 (some 32)) } : State).windowPc 0 = some 0 ∧
    ({ up with map := Maps.reset.setCl 0 (Maps.reset.cl.set 0 (some 32)) } : State).pcOf 0 = some 32 := by decide +kernel

/-- Group 1 holds clusters 0 and 31. -/
def grouped : State := { up with map := { Maps.reset with grp := 0x80000001#32 :: List.replicate 7 0#32 } }

theorem witness_FlagWritesReachMembers : grouped.Inv ∧ grouped.rst.ready = true ∧ grouped.unitsOff = false ∧
    grouped.members 0 ≠ [] ∧ grouped.members 1 = [(0, 0), (31, 31)] ∧ grouped.members 8 = [] :=
  ⟨inv_of up_inv rfl, by decide⟩

/-- Every host ring is enabled, with 16 slots. -/
def ringsOn : State := { up with kp := { Keeper.reset with
  work := ⟨0x1000, 4, true, 0, 0⟩, xfer := ⟨0x2000, 4, true, 0, 0⟩, ctl := ⟨0x3000, 4, true, 0, 0⟩
  event := ⟨0x4000, 4, true, 0, 0⟩ } }

theorem witness_DoorbellRings : ringsOn.rst.ready = true ∧
    (∀ n : Fin 3, (ringsOn.kp.ring n).en = true ∧ (15#32).toNat % 2 ^ 16 < (ringsOn.kp.ring n).size ∧
      ¬ ((ringsOn.kp.ring n).en = true ∧ (16#32).toNat % 2 ^ 16 < (ringsOn.kp.ring n).size)) := by decide
theorem witness_RingEnableConfigures : ringsOn.rst.ready = true ∧
    ((ringsOn.kp.ring 0).en = true ∧ (0x105#32).toNat % 32 ≠ (ringsOn.kp.ring 0).log2) ∧
    ((0x111#32).getLsbD 8 = true ∧ ¬ (4 ≤ (0x111#32).toNat % 32 ∧ (0x111#32).toNat % 32 ≤ 16)) ∧
    (∀ n : Fin 4, ¬ (((up.kp.ring n).en = true ∧ (0x110#32).toNat % 32 ≠ (up.kp.ring n).log2) ∨
      ((0x110#32).getLsbD 8 = true ∧ ¬ (4 ≤ (0x110#32).toNat % 32 ∧ (0x110#32).toNat % 32 ≤ 16)))) := by decide
theorem witness_HeadAndSequenceWrites : up.rst.ready = true ∧ up.kp.evBad = [] ∧ up.kp.ctlRun = [] ∧
    up.kp.descHeld = [] ∧
    (up.wrun = false ∧ (up.kp.work.en = false ∨ up.kp.seqstop = true)) ∧
    ¬ (running.wrun = false ∧ (running.kp.work.en = false ∨ running.kp.seqstop = true)) ∧ running.rst.ready = true := by
  decide

/-- Channel 3 of half 0 is Paused in a MOVE. -/
def paused : State := { up with td := { Tender.reset with
  ch := [(3, { Chan.idle with st := .paused, x := { Chan.idle.x with kind := 1, len := 64, n1 := 1, n2 := 1 } })] } }

/-- A TND has issued to channel 3 in this control cycle. -/
def tndIssued : State := { paused with
  td := { Tender.reset with ch := [(3, { Chan.idle with st := .busy, x := { Chan.idle.x with kind := 1, len := 64, n1 := 1, n2 := 1 } })] }
  str := { Stream.reset with sentTo := [(0, 3, 3)] } }

theorem witness_TenderCommands : (tndIssued.Inv ∧ tndIssued.rst.ready = true ∧ tndIssued.unitsOff = false ∧
      tndIssued.sentNow 3 3 ≠ 0 ∧ (tndIssued.chan 3).ring = none ∧ (tndIssued.chan 3).st = .busy) ∧
    paused.sentNow 3 3 = 0 ∧ paused.sentNow 3 127 = 0 ∧ paused.Inv ∧ paused.rst.ready = true ∧ paused.unitsOff = false ∧
    (paused.chan 3).st = .paused ∧ (paused.chan 3).row ≤ (paused.chan 3).x.rows ∧ (paused.chan 127).st ≠ .paused :=
  ⟨⟨inv_mk rfl (by decide), by decide⟩, rfl, rfl, inv_mk rfl (by decide), by decide⟩
/-- The command sends the TND back to wait (R386). -/
theorem test_sent_back : (after (.tdAbort 3) tndIssued).chan 3 = Chan.idle ∧
    (after (.tdAbort 3) tndIssued).td.sentBack.map (·.1) = [3] := by decide

/-- The Logbook is on. -/
def logging : State := { up with log := { Log.reset with en := true, areaOpen := true, bitmapV := true } }
/-- A close whose work is over waits for its SEALED write. -/
def closing (phase : Nat) : State := { logging with log := { logging.log with
  close := some ⟨5, 0, phase, false, [], 0⟩ } }
/-- Work below the close's number still runs. -/
def closingAhead : State := { closing 0 with log := { (closing 0).log with close := some ⟨5, 3, 0, false, [], 0⟩ } }

theorem witness_LogbookSwitches : up.rst.ready = true ∧ (1#32).getLsbD 0 = true ∧ up.log.en = false ∧
    logging.rst.ready = true ∧ (0#32).getLsbD 0 = false ∧ logging.log.en = true ∧ logging.log.close = none ∧
    (closing 1).log.en = true ∧ (closing 1).evRoom = true ∧ (closing 1).log.close = some ⟨5, 0, 1, false, [], 0⟩ ∧
    (closing 1).belowDone 0 = true ∧ closingAhead.log.close = some ⟨5, 3, 0, false, [], 0⟩ ∧ closingAhead.log.en = true ∧
    closingAhead.evRoom = true ∧ closingAhead.belowDone 3 = false ∧ (1#32).getLsbD 0 = logging.log.en := by decide
/-- Without the Logbook a close still waits for the work below its number (R403, R404). -/
theorem test_log_off : (after (.logDisable 0#32) (closing 1)).log.close = none ∧
    (after (.logDisable 0#32) closingAhead).log.close = closingAhead.log.close := by decide
theorem witness_RestoreStarts : up.rst.ready = true ∧ running.wrun = true ∧ running.rst.ready = true ∧
    ¬ (up.wrun = true ∨ up.asyncQuiet = false ∨ up.ln.any (fun l => !l.q.isEmpty) = true ∨ up.flt.swap = true ∨
      up.log.rbusy = true) := by decide
theorem witness_BistStartsOrRefuses : up.rst.ready = true ∧ (0x3F#32).getLsbD 6 = false ∧ (0x41#32).getLsbD 6 = true ∧
    (0x42#32).getLsbD 6 = true ∧
    up.secOpen ((0x42#32).toNat % 64) = false ∧
    ¬ (up.wrun = true ∨ (∃ x ∈ up.td.ch, x.2.st ≠ .idle) ∨ (∃ l ∈ up.ln, l.prods ≠ [] ∨ l.q ≠ []) ∨
      up.secOpen ((0x41#32).toNat % 64) = false ∨ up.bist.busy = true) := by decide

/-- Fusion port 3 and ring port 7 are fenced, in an earlier control cycle. -/
def fencedPorts : State := { up with flt := { Flt.reset with fenced := [(7, 3), (8, 7)] } }

/-- The sequencer has fenced Fusion port 3 in this control cycle (R385). -/
def fencedNow : State := { fencedPorts with flt := { fencedPorts.flt with fencedAt := [((7, 3), 0)] } }

theorem witness_TraceAndUnfence : fencedPorts.rst.ready = true ∧ fencedPorts.unitsOff = false ∧
    ({ fencedPorts with rst := { fencedPorts.rst with pstate := 2 } } : State).unitsOff = true ∧
    ((0x0B#32).toNat / 8 % 4 = 1 ∧ fencedPorts.mayUnfence 7 ((0x0B#32).toNat % 8) = true ∧
      fencedNow.mayUnfence 7 ((0x0B#32).toNat % 8) = false ∧ (0x0B#32).toNat % 8 < 4 ∧
      fencedPorts.ln.length = 4 ∧ (fencedPorts.lan ((0x0B#32).toNat % 8)).present = true) ∧
    ((0x17#32).toNat / 8 % 4 = 2 ∧ fencedPorts.mayUnfence 8 ((0x17#32).toNat % 8) = true ∧
      fencedPorts.ring.ports.length = 8) ∧
    ((0x0A#32).toNat / 8 % 4 = 1 ∧ fencedPorts.mayUnfence 7 ((0x0A#32).toNat % 8) = false) ∧
    ((0x0C#32).toNat / 8 % 4 = 1 ∧ 4 ≤ (0x0C#32).toNat % 8) ∧
    ((0x16#32).toNat / 8 % 4 = 2 ∧ fencedPorts.mayUnfence 8 ((0x16#32).toNat % 8) = false) ∧
    (0x00#32).toNat / 8 % 4 = 0 ∧ (0x1F#32).toNat / 8 % 4 = 3 := by decide
theorem witness_RegisterWrites : up.rst.ready = true ∧
    (up.regValue (4 * (0x03FFF#20).toNat) = none ∧ aliasOf (4 * (0x03FFF#20).toNat) = none) ∧
    (2#32).toNat % 4 ≠ 3 ∧ up.map.grp.length = 8 := by decide


/-! ### Witnesses: the stream -/

/-- A launch at address 0 whose next bundle has been fetched: one slot `n` holding `v` (R88, R90). -/
def atBundle (n v : Nat) : State := { running with
  str := { running.str with fetched := cellsAt 0 (toBytes 4 (2 ^ n) ++ toBytes 12 v), fetchPc := 16 } }

/-- LI S5, 7 (R96, R97). -/
def liSlot : Nat := 0x01 + 5 * 2 ^ 8 + 7 * 2 ^ 32
/-- SUB S31, S0, immediate 1. -/
def subSlot : Nat := 0x03 + 31 * 2 ^ 8 + 2 ^ 23 + 2 ^ 32

/-- MUL S4, S0, S1. -/
def mulSlot : Nat := 0x04 + 4 * 2 ^ 8 + 2 ^ 18
/-- A scalar, or a flag of cluster 2, is on its way (R98, R197). -/
def scalDue : State := { atBundle 0 liSlot with
  str := { (atBundle 0 liSlot).str with scalQ := [(0, 9, some 3)] } }
def flagDue : State := { atBundle 0 liSlot with
  str := { (atBundle 0 liSlot).str with flagQ := [(2, flagNV)] } }

def liBundle : Bundle := ⟨1, false, false, false, 0, 0, some liSlot :: List.replicate 9 none⟩
theorem witness_ScalarBundleIssues :
    (atBundle 0 liSlot).IssueReady liBundle 16 [(0, .ctl ⟨1, 5, 0, 0, false, 0, 7⟩)] ∧
    (∃ b, (atBundle 0 subSlot).IssueReady b 16 [(0, .ctl ⟨3, 31, 0, 0, true, 0, 1⟩)]) ∧
    (∃ b, (atBundle 0 mulSlot).IssueReady b 16 [(0, .ctl ⟨4, 4, 0, 1, false, 0, 0⟩)]) ∧
    scalDue.IssueReady liBundle 16 [(0, .ctl ⟨1, 5, 0, 0, false, 0, 7⟩)] ∧
    flagDue.IssueReady liBundle 16 [(0, .ctl ⟨1, 5, 0, 0, false, 0, 7⟩)] :=
  ⟨⟨by unfold State.StreamClear; decide, rfl, rfl, by decide, by decide, by decide, rfl, rfl⟩,
    ⟨⟨1, false, false, false, 0, 0, some subSlot :: List.replicate 9 none⟩,
      by unfold State.StreamClear; decide, rfl, rfl, by decide, by decide, by decide, rfl, rfl⟩,
    ⟨⟨1, false, false, false, 0, 0, some mulSlot :: List.replicate 9 none⟩,
      by unfold State.StreamClear; decide, rfl, rfl, by decide, by decide, by decide, rfl, rfl⟩,
    ⟨by unfold State.StreamClear; decide, rfl, rfl, by decide, by decide, by decide, rfl, rfl⟩,
    ⟨by unfold State.StreamClear; decide, rfl, rfl, by decide, by decide, by decide, rfl, rfl⟩⟩
theorem witness_ScalarBundleIssues_rest : (atBundle 0 liSlot).Inv ∧ scalDue.Inv ∧ flagDue.Inv ∧
    (atBundle 0 liSlot).loopsOver (atBundle 0 liSlot).str.pc = [] ∧ (atBundle 0 liSlot).str.scalQ = [] ∧
    (atBundle 0 liSlot).str.flagQ = [] ∧
    scalDue.str.scalQ = [(0, 9, some 3)] ∧ 0 ≤ scalDue.str.icyc ∧
    flagDue.str.flagQ = [(0 * 64 + 2, flagNV)] ∧ flagDue.pcOf 2 = some 2 :=
  ⟨inv_of up_inv rfl, inv_of up_inv rfl, inv_of up_inv rfl, by decide⟩
/-- LI writes its immediate to S5 and SUB wraps (R97), and the pc moves behind the bundle's 16 bytes (R88). -/
theorem test_scalar : (after .bundleIssue (atBundle 0 liSlot)).scal 5 = 7 ∧
    (after .bundleIssue (atBundle 0 subSlot)).scal 31 = 2 ^ 64 - 1 ∧
    (after .bundleIssue (atBundle 0 liSlot)).str.pc = 16 := by decide
/-- A product is written in the third issue cycle (R98). -/
theorem test_mul : (after .bundleIssue (atBundle 0 mulSlot)).str.scalQ = [(2, 4, some 0)] ∧
    (after .bundleIssue scalDue).scal 9 = 3 ∧ ((after .bundleIssue flagDue).lane 2).flags = flagNV := by decide

/-- IOTA of element indices into T15, 2 rows of 3 columns of INT32 (R92, R188, R191). -/
def iotaSlot : Nat := 0x28 + 15 * 2 ^ 8 + 2 ^ 24 + 2 * 2 ^ 30 + 8 * 2 ^ 39 + 2 ^ 58
def iotaPlan : VPlan := ⟨VSlot.ofBits iotaSlot, .int32, .iota 1, none, [], [], .tile 15 2 3 .int32, 2⟩

theorem witness_VectorBundleIssues :
    (∃ b, (atBundle 4 iotaSlot).IssueReady b 16 [(4, .vec iotaPlan)]) ∧
    iotaPlan.dest = .tile 15 2 3 .int32 ∧ (atBundle 4 iotaSlot).str.wb = [] ∧ (atBundle 4 iotaSlot).trapNow.1 = 0 ∧
    (atBundle 4 iotaSlot).str.scalQ = [] ∧ (atBundle 4 iotaSlot).str.flagQ = [] ∧ 2 ≤ iotaPlan.lat ∧ (atBundle 4 iotaSlot).lc ≤ 32 ∧
    (atBundle 4 iotaSlot).loopsOver (atBundle 4 iotaSlot).str.pc = [] ∧
    (∀ cl < (atBundle 4 iotaSlot).lc, ∀ x ∈ (iotaPlan.run (atBundle 4 iotaSlot).vctx cl).1.cells, x.1 < 2 ^ 20) ∧
    (∀ c < (atBundle 4 iotaSlot).lc, ∀ c' < (atBundle 4 iotaSlot).lc,
      (atBundle 4 iotaSlot).pcOf c = (atBundle 4 iotaSlot).pcOf c' → (atBundle 4 iotaSlot).pcOf c = none ∨ c = c') :=
  ⟨⟨⟨16, false, false, false, 0, 0, [none, none, none, none, some iotaSlot, none, none, none, none, none]⟩,
      by unfold State.StreamClear; decide, rfl, rfl, by decide, by decide, by decide, rfl, rfl⟩,
    rfl, rfl, rfl, rfl, rfl, by decide, by decide, by decide, by decide, by decide⟩
/-- With MOD = 1 every element is its row (R191); the tag is (2, 3, INT32). -/
theorem test_iota : (after .bundleIssue (atBundle 4 iotaSlot)).tileCell 0 (tileKey 15 1 2) = 1 ∧
    (after .bundleIssue (atBundle 4 iotaSlot)).tagOf 15 = some ⟨2, 3, .int32⟩ := by decide

/-- The bundle of `atBundle n v`, and what every clause about it asks of a state. -/
def oneSlot (n v : Nat) : Bundle := ⟨2 ^ n, false, false, false, 0, 0, (List.replicate 10 none).set n (some v)⟩
def CheckReady (s : State) (b : Bundle) : Prop :=
  s.Inv ∧ s.StreamClear ∧ (s.str.branch = none → s.str.earliest ≤ s.clk.cyc) ∧ s.str.pc % 4 = 0 ∧ s.str.pc < 2 ^ 29 ∧
    s.bundleHere = some (b, 16) ∧ s.str.scalQ = [] ∧ s.str.flagQ = [] ∧ s.evRoom = true
/-- A slot that its unit's last operation still keeps busy (R112), an ARM that waited past its first check, and the first
bundle of them with a pause asked for and with a branch that is due. -/
def unitBusy : State := { atBundle 4 iotaSlot with str := { (atBundle 4 iotaSlot).str with unitFree := [(4, 9)] } }
def armSlot : Nat := 0x40 + 9 * 2 ^ 8 + 0x10002 * 2 ^ 32
def armWaited : State := { atBundle 0 armSlot with str := { (atBundle 0 armSlot).str with looked := true } }
def branchDue : State := { atBundle 8 3 with str := { (atBundle 8 3).str with branch := some (0x40, 1) } }
def pauseAsked : State := { atBundle 8 3 with str := { (atBundle 8 3).str with pauseReq := true } }

theorem witness_FailedChecksStop :
    (CheckReady (atBundle 8 3) (oneSlot 8 3) ∧ decodeAll (atBundle 8 3).prof (oneSlot 8 3) = .error (some 8) ∧
      checkBundle (atBundle 8 3) (oneSlot 8 3) 16 = .error ⟨0x06, some 8, 0, 0, 0, 0⟩) ∧
    (CheckReady (atBundle 0 (0x10 + 2 ^ 34)) (oneSlot 0 (0x10 + 2 ^ 34)) ∧
      checkBundle (atBundle 0 (0x10 + 2 ^ 34)) (oneSlot 0 (0x10 + 2 ^ 34)) 16 = .error ⟨0x07, some 0, 0, 0, 0, 0⟩) ∧
    (CheckReady (atBundle 1 0x1000F01) (oneSlot 1 0x1000F01) ∧
      checkBundle (atBundle 1 0x1000F01) (oneSlot 1 0x1000F01) 16 = .error ⟨0x08, some 1, 0, 0, 0, 0⟩) ∧
    (CheckReady unitBusy (oneSlot 4 iotaSlot) ∧
      checkBundle unitBusy (oneSlot 4 iotaSlot) 16 = .error ⟨0x09, some 4, 0, 0, 3, 0⟩) ∧
    (CheckReady (atBundle 8 0xF02) (oneSlot 8 0xF02) ∧
      checkBundle (atBundle 8 0xF02) (oneSlot 8 0xF02) 16 = .error ⟨0x0B, some 8, 0, 0, 0, 0⟩) ∧
    (CheckReady branchDue (oneSlot 8 3) ∧ branchDue.str.branch = some (0x40, 1)) ∧
    (CheckReady pauseAsked (oneSlot 8 3) ∧ pauseAsked.str.pauseReq = true) :=
  ⟨⟨⟨inv_of up_inv rfl, by unfold State.StreamClear; decide, by decide⟩, rfl, rfl⟩,
    ⟨⟨inv_of up_inv rfl, by unfold State.StreamClear; decide, by decide⟩, rfl⟩,
    ⟨⟨inv_of up_inv rfl, by unfold State.StreamClear; decide, by decide⟩, rfl⟩,
    ⟨⟨inv_of up_inv rfl, by unfold State.StreamClear; decide, by decide⟩, rfl⟩,
    ⟨⟨inv_of up_inv rfl, by unfold State.StreamClear; decide, by decide⟩, rfl⟩,
    ⟨⟨inv_of up_inv rfl, by unfold State.StreamClear; decide, by decide⟩, rfl⟩,
    ⟨inv_of up_inv rfl, by unfold State.StreamClear; decide, by decide⟩, rfl⟩
theorem witness_FailedChecksStop_issue :
    (CheckReady armWaited (oneSlot 0 armSlot) ∧
      ∃ x, checkBundle armWaited (oneSlot 0 armSlot) 16 = .ok [x] ∧ buoysBlocking armWaited x.2 = [] ∧
        cowBlocking armWaited x.2 = [] ∧ unitBlocking armWaited x.2 = false ∧
        [x].find? (fun y => armBad armWaited y.2) = some x) ∧
    (let s := atBundle 0 (0x10 + 5 * 2 ^ 55);
      CheckReady s (oneSlot 0 (0x10 + 5 * 2 ^ 55)) ∧
      ∃ x, checkBundle s (oneSlot 0 (0x10 + 5 * 2 ^ 55)) 16 = .ok [x] ∧ buoysBlocking s x.2 = [] ∧
        cowBlocking s x.2 = [] ∧ unitBlocking s x.2 = false ∧ [x].find? (fun y => armBad s y.2) = none ∧
        [x].find? (fun y => darkBad s y.2) = some x) :=
  ⟨⟨⟨inv_of up_inv rfl, by unfold State.StreamClear; decide, by decide⟩, _, rfl, by decide, by decide, by decide, rfl⟩,
    ⟨inv_of up_inv rfl, by unfold State.StreamClear; decide, by decide⟩, _, rfl, by decide, by decide, by decide, rfl, rfl⟩
/-- Code 6 is E_ENCODING, and it is recorded before a pause (R115, R116). -/
theorem test_stop : (after .bundleIssue pauseAsked).str.stop.cause = 6 ∧ (after .bundleIssue pauseAsked).str.stop.slot = 8 ∧
    (after .bundleIssue pauseAsked).str.stop.resumable = false ∧
    (after .bundleIssue branchDue).str.stop.brtgt = 0x40 ∧ (after .bundleIssue branchDue).str.stop.brpend = 1 ∧
    (after .bundleIssue (atBundle 0 (0x10 + 5 * 2 ^ 55))).str.stop.cause = 0x0A := by decide

/-- Fetch has reached the end of the 1 KiB that it may run ahead. -/
def fetchedAhead : State := { running with str := { running.str with fetchPc := 1024, fetched := [(0, 0#8)] } }

theorem witness_FetchReadsAhead : running.wrun = true ∧ running.streamStopped = false ∧ running.str.ended = false ∧
    running.rst.ready = true ∧ running.clk.stopped = false ∧ running.str.stopWait = none ∧ running.str.pc % 4 = 0 ∧
    running.str.loopBuf = LoopBuf.empty ∧ running.fetchComing running.str.pc = true ∧
    running.str.fetchAt ≠ running.clk.cyc + 1 ∧
    running.fetchLen running.str.fetchPc (running.str.pc + 1024) = 128 ∧
    fetchedAhead.wrun = true ∧ fetchedAhead.str.loopBuf = LoopBuf.empty ∧
    fetchedAhead.fetchComing fetchedAhead.str.pc = true ∧ fetchedAhead.str.fetchAt ≠ fetchedAhead.clk.cyc + 1 ∧
    fetchedAhead.fetchLen fetchedAhead.str.fetchPc (fetchedAhead.str.pc + 1024) = 0 ∧
    ({ running.str with fetchAt := 1 } : Stream).fetchAt = running.clk.cyc + 1 := by decide

/-- One access of the last period waits in the window. -/
def withWindow (k : WinKind) (q : List (Nat × Nat × Option Nat) := []) : State := { running with
  clk := { Clk.reset with cyc := 10 }
  str := { running.str with window := [⟨0, 0x7FFFF8 / 32, none, k, 0⟩], scalQ := q, icyc := 9 } }

theorem witness_WindowServed :
    (withWindow (.sld 3 0x7FFFF8 6) [(6, 3, none)]).BanksOpen ∧ (withWindow (.fetch 0)).BanksOpen ∧
    (∀ d ∈ [6, 12], (withWindow (.sld 3 0x7FFFF8 d) [(d, 3, none)]).str.window =
        [⟨0, 0x7FFFF8 / 32, none, .sld 3 0x7FFFF8 d, 0⟩] ∧
      (withWindow (.sld 3 0x7FFFF8 d) [(d, 3, none)]).str.scalQ = [(d, 3, none)]) ∧
    (withWindow (.fetch 0)).servesStream (0x7FFFF8 / 32) = true ∧ 0x7FFFF8 < 2 ^ 29 ∧
    6 < (withWindow (.fetch 0)).str.icyc ∧ ¬ 12 < (withWindow (.fetch 0)).str.icyc ∧
    (withWindow (.fetch 0)).str.due = [] ∧ (withWindow (.fetch 0)).str.fetchGen = 0 ∧ 0 < (withWindow (.fetch 0)).period ∧
    ({ withWindow (.fetch 0) with clk := Clk.reset } : State).period ≤ 0 ∧
    asyncOwns 1 17 = true ∧ (withWindow (.fetch 0)).osura.share = 1 ∧
    0x7FFFF8 % 8 = 0 ∧ (withWindow (.fetch 0)).psecOf (secOf 0x7FFFF8) = some 0 ∧
    (∀ i < 4, (withWindow (.fetch 0)).eccWord (physAddr 0 (0x7FFFF8 / 32 * 32) / 8 + i) = .clean 0) ∧
    (withWindow (.fetch 0)).eccWord (physAddr 0 0x7FFFF8 / 8) = .clean 0 := by
  unfold State.BanksOpen; decide
/-- A scalar whose write cycle is past lands at once, a later one waits with its value (R98). -/
theorem test_sld : (after .streamWindowService (withWindow (.sld 3 0x7FFFF8 6) [(6, 3, none)])).str.scalQ = [] ∧
    (after .streamWindowService (withWindow (.sld 3 0x7FFFF8 12) [(12, 3, none)])).str.scalQ = [(12, 3, some 0)] := by
  decide +kernel
/-- A state whose SST has been asked for. -/
def storing : State := withWindow (.sst (cellsAt 0x7FFFF8 (toBytes 8 0x1122334455667788)))

theorem witness_StoreServed : storing.Inv ∧ storing.BanksOpen ∧ storing.str.due = [] ∧
    storing.str.window = [⟨0, 0x7FFFF8 / 32, none, .sst (cellsAt 0x7FFFF8 (toBytes 8 0x1122334455667788)), 0⟩] ∧
    0 < storing.period ∧ 0x7FFFF8 % 8 = 0 ∧ storing.servesStream (0x7FFFF8 / 32) = true ∧ storing.psecOf (secOf 0x7FFFF8) = some 0 :=
  ⟨inv_of up_inv rfl, by unfold State.BanksOpen; decide⟩
/-- The least significant byte of a stored word stands at the lowest address (R34), and its granule is dirty. -/
theorem test_store : sget 0#8 (after .streamWindowService storing).osura.data 0x7FFFF8 = 0x88#8 ∧
    sget false (after .streamWindowService storing).log.dirtyA 127 = true := by decide +kernel

/-- PROD of buoy 7 waits behind an SST that stands in the window, or behind none; a fence waits. -/
def producing (window : List WinAcc) (b : Sparse Buoy) : State := { running with
  str := { running.str with prods := [(7, 1)], window := window, fence := true, shadow := [(5, 1#8)] }
  buoys := { Buoys.reset with b := b } }
/-- Buoy 7 waits for one producer, and its consumer has released it already or has not. -/
def filling (c : Nat) : State := producing [] [(7, ⟨0x1000, 1, 1, 1, false, 1, c, .filling⟩)]

theorem witness_ProdAndFence : (filling 0).Inv ∧ (filling 1).Inv ∧ (producing [] []).Inv ∧
    (filling 1).str.prods.find? (fun q => q.1 == (7 : Fin 256).val) = some (7, 1) ∧
    (∀ c ∈ [0, 1], (filling c).storesDone 1 = true ∧ (filling c).commanded 7 = false ∧
      ((filling c).buoy (7 : Fin 256)).st = .filling ∧ ((filling c).buoy (7 : Fin 256)).p ≤ 1 ∧
      ((filling c).buoy (7 : Fin 256)).c = c) ∧
    (producing [] []).storesDone 1 = true ∧ (producing [] []).commanded 7 = false ∧
    ((producing [] []).buoy (7 : Fin 256)).st = .free ∧ (producing [] []).buoys.errValid = false ∧
    (producing [⟨0, 0, none, .sst [(0, 1#8)], 0⟩] []).storesDone 1 = false ∧
    (filling 0).str.prods.find? (fun q => q.1 == (255 : Fin 256).val) = none ∧
    (filling 0).str.fence = true ∧ (filling 0).str.ended = false ∧ (filling 0).fenceDone = true ∧
    ¬ (running.str.fence = true ∧ running.str.ended = false ∧ running.fenceDone = true) :=
  ⟨inv_mk rfl (by decide), inv_mk rfl (by decide), inv_mk rfl (by decide), by decide⟩
/-- The last producer makes the buoy Ready, or Draining where its consumer has released it (R75, R80). -/
theorem test_prod : ((after (.prodCount 7) (filling 1)).buoy 7).st = .ready ∧
    ((after (.prodCount 7) (filling 0)).buoy 7).st = .draining ∧
    (after (.prodCount 7) (producing [] [])).buoys.errKind = 2 := by decide

/-- END has issued. -/
def ending : State := { running with str := { running.str with ended := true, fence := true, pc := 64 } }

theorem witness_EndCompletes : ending.str.launch = some ⟨1, .h1, 1, 0, 0⟩ ∧ ending.str.ended = true ∧
    ending.streamStopped = false ∧ ending.evRoom = true ∧ ending.str.window = [] ∧ ending.str.due = [] ∧
    ending.osura.cb = [] ∧ ending.str.carry = [] ∧ ending.str.movs = [] ∧ ending.str.scalQ = [] ∧
    ending.str.flagQ = [] ∧ ending.str.prods = [] ∧ ending.str.farHits = [] ∧ ending.str.stopWait = none ∧
    ending.trap.found = none ∧ ending.str.trapWait = 0 ∧ ending.str.bankStall = 0 ∧ ending.str.spareStall = 0 ∧
    ending.programQuiet = true ∧ ending.osura.q = [] := by decide
/-- WORK_DONE is type 1 with status DONE, and the stop registers name DONE (R119, R381). -/
theorem test_end : (after .endComplete ending).evq.map (fun e => (e.typ, e.ring, e.p0)) = [(1, 1, 1)] ∧
    (after .endComplete ending).str.stop.cause = 1 := by decide

/-- An entry of cluster 33's buffer, allocated at cycle 0. -/
def buffered (cyc : Nat) : State := { running with
  clk := { Clk.reset with cyc := cyc }
  osura := { up.osura with cb := [(33, [⟨0xFFFFFF, [(0xFFFFFF * 32 + 4, 9#8)], 0, 0, false, 0⟩])] } }

theorem witness_EntryFlushes : (buffered 64).Inv ∧
    sget [] (buffered 64).osura.cb (33 : Fin 34).val = [⟨0xFFFFFF, [(0xFFFFFF * 32 + 4, 9#8)], 0, 0, false, 0⟩] ∧
    (0xFFFFFF : Nat) < 2 ^ 24 ∧ (buffered 64).flushSpace (33 : Fin 34) = true ∧ 0 + 64 ≤ (buffered 64).clk.cyc ∧
    (buffered 63).clk.cyc < 0 + 64 := ⟨inv_mk rfl (by decide), by decide⟩

/-- A stream that a PAUSE has stopped, resumably (R115). -/
def pausedStream : State := { running with
  str := { running.str with stop := { StopRec.blank with cause := 2, resumable := true }, frozen := true } }

/-- A PAUSE waits for the bundle at the pc, and an ECLIPSE for the stream. -/
def pausing : State := { atBundle 0 liSlot with
  str := { (atBundle 0 liSlot).str with pauseReq := true }
  rst := { up.rst with eclipse := some 9 } }

theorem witness_PauseAndResume : running.rst.ready = true ∧
    (running.wrun = true ∧ running.streamStopped = false ∧ running.str.ended = false) ∧
    (State.IssueReady { pausing with str := { pausing.str with pauseReq := false } } liBundle 16
        [(0, .ctl ⟨1, 5, 0, 0, false, 0, 7⟩)]) ∧
    (pausing.str.pauseReq = true ∧ pausing.evRoom = true ∧
      armBad pausing (.ctl ⟨1, 5, 0, 0, false, 0, 7⟩) = false ∧ darkBad pausing (.ctl ⟨1, 5, 0, 0, false, 0, 7⟩) = false) ∧
    ¬ (up.wrun = true ∧ up.streamStopped = false ∧ up.str.ended = false) ∧
    (pausedStream.wrun = true ∧ pausedStream.str.stop.resumable = true ∧ pausedStream.str.movs = [] ∧
      (∀ l ∈ pausedStream.ln, l.reqs = [] ∧ l.AtRest)) ∧
    ¬ (running.wrun = true ∧ running.str.stop.resumable = true) :=
  ⟨by decide, by decide, ⟨by unfold State.StreamClear; decide, rfl, rfl, by decide, by decide, by decide, rfl, rfl⟩,
    by unfold Lantern.AtRest; decide⟩
/-- The stop's cause is PAUSE, and the waiting ECLIPSE is refused (R115, R428). -/
theorem test_pause : (after .bundleIssue pausing).str.stop.cause = 2 ∧ (after .bundleIssue pausing).rst.eclipse = none := by
  decide

/-! ### Witnesses: Osura and its sectors -/

theorem witness_CodeCorrectsOneBit : (2 ^ 64 - 1 < 2 ^ 64) ∧ 63 < 64 ∧ 7 < 8 ∧ (0 : Nat) ≠ 63 := by decide
/-- Columns of R54: data bit 0 has 0x07, bit 55 has 0xE0, bit 56 has 0x1F. -/
theorem test_ecc : eccCheck 1 = 0x07 ∧ eccCheck (2 ^ 55) = 0xE0 ∧ eccCheck (2 ^ 56) = 0x1F ∧
    eccDecode 0 3 = .bad 0 ∧ eccDecode 0 0x80 = .corrected 0 := by decide

/-- One flush stands in sector 1's queue, in an async-owned cycle. -/
def flushing (passes : Nat) : State := { running with
  clk := { Clk.reset with cyc := 3 }
  osura := { up.osura with q := [⟨.flush, .flush 0 0 0x40000 0, 0x800000, 32,
    some (cellsAt 0x800008 (toBytes 8 5)), passes, 0, false, 0, false, 0, false⟩] } }
/-- Its sector is Dark. -/
def flushingDark : State := { flushing 2 with osura := { (flushing 2).osura with secs := [] } }

theorem witness_AsyncServes : ∀ p ∈ [1, 2], (flushing p).Inv ∧ ((flushing p).rst.ready = true ∧
    (flushing p).clk.stopped = false ∧ asyncOwns (flushing p).osura.share (flushing p).clk.cyc = true ∧
    ((flushing p).secCtl 1).served ≤ (flushing p).clk.cyc ∧
    (flushing p).osura.q = [⟨.flush, .flush 0 0 0x40000 0, 0x800000, 32, some (cellsAt 0x800008 (toBytes 8 5)), p, 0,
      false, 0, false, 0, false⟩] ∧
    secOf 0x800000 = 1 ∧ (flushing p).secOpen 1 = true ∧ 32 ≤ 32 ∧ 0x800008 % 8 = 0 ∧ secOf 0x800008 = 1 ∧
    (flushing p).psecOf 1 = some 1 ∧ (flushing p).log.pend = [] ∧ (flushing p).osura.cb = [] ∧
    (flushing p).str.carry = [] ∧ (flushing p).str.window = [] ∧ (flushing p).str.bankStall = 0 ∧
    (flushing p).streamBanks = [] ∧
    (∀ r ∈ (flushing p).ring.ports, r.held = [])) := by
  intro p hp
  refine ⟨inv_of up_inv rfl, ?_⟩
  simp only [List.mem_cons, List.not_mem_nil, or_false] at hp
  rcases hp with rfl | rfl <;> decide
theorem witness_DarkSectorRefusesFlush : flushingDark.rst.ready = true ∧ flushingDark.clk.stopped = false ∧
    asyncOwns flushingDark.osura.share flushingDark.clk.cyc = true ∧
    (flushingDark.secCtl (1 : Fin 64)).served ≤ flushingDark.clk.cyc ∧
    flushingDark.osura.q = [⟨.flush, .flush 0 0 0x40000 0, 0x800000, 32, some (cellsAt 0x800008 (toBytes 8 5)), 2, 0,
      false, 0, false, 0, false⟩] ∧
    secOf 0x800000 = (1 : Fin 64) ∧ flushingDark.secOpen (1 : Fin 64) = false ∧ flushingDark.osura.cb = [] ∧
    flushingDark.log.pend = [] ∧ flushingDark.str.carry = [] ∧ flushingDark.str.window = [] ∧ (∀ x ∈ flushingDark.ring.ports, x.held = []) ∧
    flushingDark.evRoom = true := by decide

/-- SCRUB_PACE ticks have passed, or not; sector 1's last request still waits. -/
def scrubbing (ticks : Nat) : State := { up with
  clk := { Clk.reset with ticks := ticks }
  osura := { up.osura with
    secs := [(0, { SecCtl.fresh with st := .lit }), (1, { SecCtl.fresh with st := .lit, scrubWait := true })]
    q := [⟨.scrub, .scrub 0, 0x800000, 1024, none, 1, 0, false, 0, false, 0, false⟩] } }

theorem witness_ScrubberAsks : (scrubbing 64).Inv ∧ (scrubbing 64).rst.ready = true ∧ (scrubbing 64).rst.pstate ≤ 1 ∧
    ((scrubbing 64).secCtl (2 : Fin 64)).st ≠ .lit ∧
    (scrubbing 63).clk.ticks < ((scrubbing 63).secCtl (0 : Fin 64)).scrubTick + (scrubbing 63).osura.scrubPace ∧
    (∀ k : Fin 2, ((scrubbing 64).secCtl k).st = .lit ∧ ((scrubbing 64).secCtl k).scrubWait = (k == 1)) ∧
    (scrubbing 64).osura.scrubPace ≠ 0 ∧
    ((scrubbing 64).secCtl (0 : Fin 64)).scrubTick + (scrubbing 64).osura.scrubPace ≤ (scrubbing 64).clk.ticks :=
  ⟨inv_mk rfl (by decide), by decide⟩

/-- An async share and far-load settings wait. -/
def settingsWait (s : State) : State := { s with
  osura := { s.osura with sharePend := some 2 }, str := { s.str with farPend := some ⟨0x1000, 9⟩ } }

theorem witness_SettingsApply : ((settingsWait up).wrun = false ∧ (settingsWait up).clk.cyc % 4 = 0 ∧
      (settingsWait up).osura.sharePend = some 2 ∧ (settingsWait up).str.farPend = some ⟨0x1000, 9⟩) ∧
    (settingsWait running).wrun = true ∧ ({ settingsWait up with clk := { Clk.reset with cyc := 3 } } : State).clk.cyc % 4 ≠ 0 ∧
    up.osura.sharePend = none ∧ up.str.farPend = none := by decide

/-- Sector 63, backed by physical sector 66, is lighting: under test, or at its zero-fill. -/
def lighting (test : Bool) : State := { up with
  osura := { up.osura with
    secs := up.osura.secs ++ [(63, { SecCtl.fresh with st := .lighting })], data := [(66 * 2 ^ 23, 1#8), (66 * 2 ^ 23 + 2 ^ 23, 2#8)] }
  pwr := { up.pwr with lightOn := [(63, test)], on := [(secDom 66, true), (secDom 67, true)] }
  bist := ⟨true, false, false, 63, false, 0⟩ }
/-- The spare 67 is being lit for it (R64). -/
def spareLighting : State := { lighting false with flt := { Flt.reset with secSwap := some ⟨63, 67, []⟩, seqbusy := true } }

theorem witness_FillClearsSector : (lighting false).Inv ∧ spareLighting.Inv ∧ (lighting false).psecOf (63 : Fin 64) = some 66 ∧
    (lighting false).flt.secSwap = none ∧
    ((63 : Fin 64).val, false) ∈ (lighting false).pwr.lightOn ∧ (lighting false).powerBusy (secDom 66) = false ∧
    sget false (lighting false).pwr.on (secDom 66) = true ∧
    ((lighting false).secCtl (63 : Fin 64)).closeAfter = false ∧ (lighting false).pwr.lightQ = [] ∧
    ((63 : Fin 64).val, false) ∉ (lighting true).pwr.lightOn ∧ (lighting true).psecOf (63 : Fin 64) = some 66 ∧
    sget false ({ (lighting false).pwr with on := [] } : Pwr).on (secDom 66) = false ∧
    spareLighting.flt.secSwap = some ⟨63, 67, []⟩ ∧ ((63 : Fin 64).val, false) ∈ spareLighting.pwr.lightOn ∧
    spareLighting.powerBusy (secDom 67) = false ∧ sget false spareLighting.pwr.on (secDom 67) = true ∧
    spareLighting.evKept = true ∧ spareLighting.map.sec.length = 64 :=
  ⟨inv_mk rfl (by decide), inv_mk rfl (by decide), by decide⟩
/-- Once the spare is filled the map names it (R64). -/
theorem test_spare : (after (.sectorFillDone 63) spareLighting).psecOf 63 = some 67 ∧
    (after (.sectorFillDone 63) spareLighting).flt.secSwap = none := by decide +kernel
theorem witness_SectorBistEnds :
    (lighting true).pwr.lightOn.find? (fun x => x.2 && (lighting true).lightHome x.1 == some (66 : Fin 68).val) = some (63, true) ∧
    (lighting true).bist.busy = true ∧ (lighting true).bist.sec = 63 ∧ (lighting true).flt.secSwap = none ∧
    (lighting true).pwr.lightOn.find? (fun x => x.2 && (lighting true).lightHome x.1 == some (67 : Fin 68).val) = none := by
  decide

/-- Sector 1 is Closing since cycle 0. -/
def sectorCloses (cyc : Nat) : State := { up with
  clk := { Clk.reset with cyc := cyc }
  osura := { up.osura with secs := [(1, { SecCtl.fresh with st := .closing })] }
  log := { Log.reset with dirtyA := [(127, true), (128, true), (255, true), (256, true)] } }

theorem witness_ClosingSectorGoesDark : (sectorCloses 4096).Inv ∧ (sectorCloses 4096).psecOf (1 : Fin 64) = some 1 ∧
    (sectorCloses 4096).str.window = [] ∧ (sectorCloses 4096).str.due = [] ∧ (sectorCloses 4096).streamIn (1 : Fin 64) = false ∧
    (sectorCloses 4096).acceptedIn (1 : Fin 64) = [] ∧ (sectorCloses 4096).markReads (1 : Fin 64) = [] ∧
    ((sectorCloses 4096).secCtl (1 : Fin 64)).st = .closing ∧
    ((sectorCloses 4096).secCtl (1 : Fin 64)).closeAt + 4096 ≤ (sectorCloses 4096).clk.cyc ∧
    ((sectorCloses 4096).secCtl (0 : Fin 64)).st ≠ .closing ∧
    (sectorCloses 4095).clk.cyc < ((sectorCloses 4095).secCtl (1 : Fin 64)).closeAt + 4096 :=
  ⟨inv_mk rfl (by decide), by decide⟩
/-- Granules 128 to 255 are sector 1's (R398). -/
theorem test_close : (after (.sectorCloseDrained 1) (sectorCloses 0)).log.dirtyA = [(127, true), (256, true)] := by decide

/-! ### Witnesses: buoys -/

/-- Buoys 0 and 255 drain, the second with RELOAD. -/
def draining : State := { up with buoys := { Buoys.reset with
  b := [(0, ⟨0, 1, 1, 1, false, 0, 0, .draining⟩), (255, ⟨0x800000, 2, 3, 4, true, 0, 0, .draining⟩)] } }

theorem witness_DrainEnds : draining.Inv ∧ (∀ o ∈ draining.ring.owed, o.1 ≠ (255 : Fin 256).val) ∧
    ((draining.buoy (0 : Fin 256)).st = .draining ∧ draining.readsInFlight (draining.buoy (0 : Fin 256)) = false) ∧
    ((draining.buoy (255 : Fin 256)).st = .draining ∧ draining.readsInFlight (draining.buoy (255 : Fin 256)) = false) ∧
    (draining.buoy (7 : Fin 256)).st ≠ .draining ∧
    ({ draining with str := { draining.str with window := [⟨0, 0, none, .sld 1 0 6, 0⟩] } } : State).readsInFlight
      (draining.buoy (0 : Fin 256)) = true :=
  ⟨inv_mk rfl (by decide), by decide⟩
/-- RELOAD arms the buoy again with its counts; without it the buoy is Free (R81). -/
theorem test_drain : (after (.buoyDrainEnd 255) draining).buoy 255 = ⟨0x800000, 2, 3, 4, true, 3, 4, .filling⟩ ∧
    (after (.buoyDrainEnd 0) draining).buoy 0 = Buoy.idle := by decide

/-- A write into a Ready buoy's line has waited past the limit of 2^10 cycles (R77, R84). -/
def stalled (who : Owner) (g : Agent) (waited : Nat) : State := { up with
  buoys := { Buoys.reset with stallLog2 := 10, b := [(9, ⟨0, 1, 1, 1, false, 0, 1, .ready⟩)] }
  osura := { up.osura with q := [⟨g, who, 0, 32, some (cellsAt 0 (toBytes 32 1)), 1, 0, false, waited, false, 0, false⟩] }
  td := { Tender.reset with ch := [(127, { Chan.idle with st := .busy, phase := 2, writes := [(0, 0)] })] } }
/-- A bundle has waited past the limit. -/
def stalledStream (wait : Nat) : State := { running with
  buoys := { Buoys.reset with stallLog2 := 10 }, str := { running.str with buoyWait := wait } }

/-- Its stop has been asked for, by buoy 9. -/
def stallStops : State := { running with str := { running.str with stopWait := some ⟨5, none, 0, 0, 0, 9⟩ } }

/-- An announce of Lantern 3 waits so, of a chain of the stream or of the Control ring. -/
def stalledLantern (run : Bool) (ctl : Option Nat) : State := { (if run then running else up) with
  buoys := { Buoys.reset with stallLog2 := 10 }
  ln := [.fresh, .fresh, .fresh, { Lantern.fresh with
    q := [⟨63, ctl, none, none⟩], waited := 1025, annWait := true }] }

theorem witness_WatchdogStalls : ({ up with buoys := { Buoys.reset with stallLog2 := 0 } } : State).stallLimit = none ∧
    pausedStream.str.frozen = true ∧
    ((stalledStream 1025).stallLimit = some 1024 ∧ (stalledStream 1025).str.frozen = false ∧
      (stalledStream 1025).wrun = true ∧ (stalledStream 1025).streamStopped = false ∧
      1024 < (stalledStream 1025).str.buoyWait ∧ (stalledStream 1025).str.stopWait = none ∧
      (stalledStream 1024).str.buoyWait ≤ 1024) ∧
    ((stalled (.mooring 63 0) .ring1 1025).stallLimit = some 1024 ∧
      (stalled (.mooring 63 0) .ring1 1025).osura.q.all (fun r => (stalled (.mooring 63 0) .ring1 1025).buoyBlocked r) = true ∧
      (∀ r ∈ (stalled (.mooring 63 0) .ring1 1025).osura.q, 1024 < r.waited) ∧ (stalled (.mooring 63 0) .ring1 1025).evRoom = true) ∧
    ((stalled (.tender 127 0) .tender 1025).osura.q.all (fun r => (stalled (.tender 127 0) .tender 1025).buoyBlocked r) = true ∧
      ((stalled (.tender 127 0) .tender 1025).chan (127 : Fin 128)).st = .busy ∧
      ((stalled (.tender 127 0) .tender 1025).chan (127 : Fin 128)).status = 0 ∧
      ((stalled (.tender 127 0) .tender 1025).chan (127 : Fin 128)).reads = [] ∧
      (∀ w ∈ ((stalled (.tender 127 0) .tender 1025).chan (127 : Fin 128)).writes, w.1 = 0) ∧
      ((stalled (.tender 127 0) .tender 1025).chan (127 : Fin 128)).chunks = []) ∧
    (∀ x ∈ [(true, none), (false, none), (true, some 4)], let s := stalledLantern x.1 x.2;
      s.osura.q = [] ∧ (s.lan (3 : Fin 4)).annWait = true ∧ 1024 < (s.lan (3 : Fin 4)).waited ∧
      (s.lan (3 : Fin 4)).q = [⟨63, x.2, none, none⟩] ∧ (s.lan (3 : Fin 4)).suspended = false ∧
      (s.lan (3 : Fin 4)).halted = false ∧ s.wrun = x.1 ∧ s.str.stopWait = none ∧ s.evRoom = true ∧
      (3 : Fin 4).val < s.ln.length ∧ s.stallLimit = some 1024 ∧ s.str.frozen = false) ∧
    (stallStops.str.stopWait = some ⟨5, none, 0, 0, 0, 9⟩ ∧ stallStops.evRoom = true ∧
      State.StreamClear { stallStops with str := { stallStops.str with stopWait := none } }) := by
  unfold State.StreamClear; decide
/-- The stream's next core cycle records the stall; the other waiters take theirs at once (R83). -/
theorem test_stall : (after .bundleIssue stallStops).str.stop.cause = 5 ∧ (after .bundleIssue stallStops).str.stop.resumable = true ∧
    (after .bundleIssue stallStops).wrun = true ∧
    ((after (.buoyWatchdog (.tender 127)) (stalled (.tender 127 0) .tender 1025)).chan 127).status = 3 ∧
    ((after (.buoyWatchdog (.lantern 3)) (stalledLantern true none)).lan 3).suspended = true ∧
    (after (.buoyWatchdog (.lantern 3)) (stalledLantern true none)).str.stopWait = some ⟨5, some 8, 0, 0, 0, 255⟩ ∧
    (after (.buoyWatchdog (.lantern 3)) (stalledLantern true (some 4))).evq.length = 1 ∧
    (after (.buoyWatchdog (.mooring 63)) (stalled (.mooring 63 0) .ring1 1025)).evq.length = 1 := by decide

/-! ### Witnesses: arithmetic and the Keeper -/

/-- ABS or NEG of tile 2's first element, and what it reads. -/
def signPlan (f : Fmt) (neg : Bool) : VPlan :=
  ⟨VSlot.ofBits 0, f, .sign neg, some ⟨2, some 1, some 1, .is f, false, false⟩, [], [], .tile 0 1 1 f, 4⟩
def holding (f : Fmt) (code : Nat) : VCtx :=
  ⟨.h3, 1, fun _ => 0, fun _ _ => code, fun _ _ => 0, fun _ => some ⟨1, 1, f⟩⟩

theorem witness_SignBitOperations : (signPlan .f4 false).kind = .sign false ∧ (signPlan .f8a true).fmt = .f8a ∧
    (signPlan .f4 false).a = some ⟨2, some 1, some 1, .is .f4, false, false⟩ ∧
    ((holding .f4 8).src 0 ⟨2, some 1, some 1, .is .f4, false, false⟩ 0 0).code = 0x8 ∧ 0x8 < 2 ^ Fmt.width .f4 ∧
    ((holding .f8a 0x80).src 0 ⟨2, some 1, some 1, .is .f8a, false, false⟩ 0 0).code = 0x80 ∧
    0x80 < 2 ^ Fmt.width .f8a ∧
    ((holding .fp16 0x7C01).src 0 ⟨2, some 1, some 1, .is .fp16, false, false⟩ 0 0).code = 0x7C01 := by decide
/-- The codes of R174: ABS of 0x8 in F4, NEG of 0x80 in F8a, and NEG of a signalling NaN in FP16. -/
theorem test_sign : ((signPlan .f4 false).elem (holding .f4 8) 0 0 0).code = 0 ∧
    ((signPlan .f8a true).elem (holding .f8a 0x80) 0 0 0).code = 0x80 ∧
    ((signPlan .fp16 true).elem (holding .fp16 0x7C01) 0 0 0).code = 0xFC01 := by decide

/-- A descriptor of 16 words in a ring's slot 5. -/
def descOf (ws : List Nat) : Desc := ⟨5, (ws ++ List.replicate (16 - ws.length) 0).flatMap (toBytes 4)⟩

/-- Each ring holds one descriptor. -/
def ringsFull : State := { ringsOn with kp := { ringsOn.kp with
  work := ⟨0x1000, 4, true, 15, 0⟩, xfer := ⟨0x2000, 4, true, 15, 0⟩, ctl := ⟨0x3000, 4, true, 15, 0⟩ } }
/-- A SYS read is outstanding. -/
def sysOut (what : SysFor) (ckr : Nat) : State := { ringsFull with
  clk := { Clk.reset with ckr := ckr }, kp := { ringsFull.kp with sys := [⟨31, what, 0, 0⟩] } }

def eclipseWaits (s : State) : State := { s with rst := { s.rst with eclipse := some 1 } }

theorem witness_KeeperFetches : (ringsFull.sysTag = some 0 ∧ ∀ n : Fin 3, ringsFull.mayFetch n = true) ∧
    ringsOn.mayFetch (0 : Fin 3) = false ∧
    (∀ n : Fin 3, let s := sysOut (.desc n 15) 0
      s.rst.por = false ∧ s.kp.sys = [⟨31, .desc n 15, 0, 0⟩] ∧ (31 : Nat) = (31#5).toNat ∧ s.kp.recQ = [] ∧
        s.kp.evAgain = false ∧ s.kp.descHeld = [] ∧ s.evRoom = true ∧ s.rst.eclipse = none) ∧
    (∀ n : Fin 2, (eclipseWaits (sysOut (.desc n 15) 0)).rst.eclipse = some 1 ∧
      (eclipseWaits (sysOut (.desc n 15) 0)).kp.sys = [⟨31, .desc n 15, 0, 0⟩]) ∧
    (∀ x ∈ [(1 + 1 * 2 ^ 4 + 2 * 2 ^ 6, 0, 0x400, 0), (1 + 1 * 2 ^ 4 + 2 * 2 ^ 6, 1, 0x400, 0),
        (2 + 1 * 2 ^ 4 + 2 * 2 ^ 6, 0, 0x400, 1), (1 + 2 * 2 ^ 6, 0, 0x400, 3), (1 + 1 * 2 ^ 4 + 2 * 2 ^ 6, 0, 0x402, 2)],
      let d := WorkDesc.parse (descOf [x.1, 7, x.2.1, 0, x.2.2.1]).bytes;
      d.seq = x.2.1 ∧ (d.seq = (sysOut (.desc 0 15) 0).kp.nextseq ↔ x.2.1 = 0) ∧
      x.2.2.2 = (if d.op ≠ 1 ∨ d.rsvd = true ∨ d.lc = 0 ∨ 32 < d.lc then 1 else if d.profile = 0 then 3
        else if d.pc % 4 ≠ 0 ∨ 2 ^ 29 ≤ d.pc then 2
        else if (sysOut (.desc 0 15) 0).map.working.length < d.lc then 4 else 0)) ∧
    (List.replicate 64 0#8).length = 64 ∧
    (ringsOn.rst.por = false ∧ ringsOn.rst.ready = true ∧ ringsOn.kp.sysFenced = false ∧
      ∀ q ∈ ringsOn.kp.sys, q.tag ≠ (0#5).toNat) ∧
    (0 + 2 ^ 18 ≤ (sysOut (.desc 0 15) (2 ^ 21)).clk.ckr / 8 ∧ (SysFor.desc 0 15) ≠ .expired ∧
      (sysOut (.desc 0 15) (2 ^ 21 - 1)).clk.ckr / 8 < 0 + 2 ^ 18) := by decide
/-- A descriptor is the 64 bytes at BASE + HEAD × 64 (R367). -/
theorem test_fetch : (after (.descriptorFetch 2) ringsFull).out = [.sysRead 0 (0x3000 + 15 * 64) 64] ∧
    (after (.sysResponse 31#5 0#2 (List.replicate 64 1#8)) (sysOut (.desc 2 15) 0)).kp.ctl.head = 0 := by decide

/-- A record waits, and TAIL is at the ring's last slot or in front of HEAD. -/
def eventWaits (head : Nat) : State := { ringsOn with
  evq := [⟨0x05, 0, 0, 0, 0, 1, 2, 0, 0⟩], kp := { ringsOn.kp with event := ⟨0x4000, 4, true, head, 15⟩ } }

theorem witness_EventWritten : (eventWaits 3).evq = [⟨0x05, 0, 0, 0, 0, 1, 2, 0, 0⟩] ∧
    (eventWaits 3).kp.event.en = true ∧ (eventWaits 3).eventFull = false ∧ (eventWaits 3).kp.evBad = [] ∧
    (eventWaits 3).rst.ready = true ∧ (eventWaits 3).kp.sys = [] ∧ (eventWaits 3).kp.sysFenced = false ∧
    (eventWaits 3).kp.ctlRun = [] ∧ (eventWaits 3).kp.descHeld = [] ∧ up.evq = [] ∧ (eventWaits 0).eventFull = true ∧ up.kp.event.en = false := by decide
/-- The record's first word has TYPE and PHASE 1; PHASE inverts as TAIL wraps (R380). -/
theorem test_event : (after .eventRecordWrite (eventWaits 3)).out.getLast? =
      some (.sysWrite 1 (0x4000 + 15 * 32) [0x05#8, 0x01#8, 0#8, 0#8]) ∧
    (after .eventRecordWrite (eventWaits 3)).kp.event.tail = 0 ∧
    (after .eventRecordWrite (eventWaits 3)).kp.evPhase = false := by decide

/-- A work descriptor of profile 1 on 2 clusters with sequence number 0 and PC 0x400 has been taken (R371). -/
def workTaken (s : State) : State := { s with
  kp := { s.kp with workTaken := [descOf [1 + 1 * 2 ^ 4 + 2 * 2 ^ 6, 7, 0, 0, 0x400]] } }

theorem witness_LaunchStarts : (workTaken up).Inv ∧
    (workTaken up).kp.workTaken = [descOf [1 + 1 * 2 ^ 4 + 2 * 2 ^ 6, 7, 0, 0, 0x400]] ∧
    Profile.ofCode (WorkDesc.parse (descOf [1 + 1 * 2 ^ 4 + 2 * 2 ^ 6, 7, 0, 0, 0x400]).bytes).profile = some .h1 ∧
    (workTaken up).mayLaunch (WorkDesc.parse (descOf [1 + 1 * 2 ^ 4 + 2 * 2 ^ 6, 7, 0, 0, 0x400]).bytes) = true ∧
    (workTaken running).mayLaunch (WorkDesc.parse (descOf [1 + 1 * 2 ^ 4 + 2 * 2 ^ 6, 7, 0, 0, 0x400]).bytes) = false ∧
    (WorkDesc.parse (descOf [1 + 1 * 2 ^ 4 + 2 * 2 ^ 6, 7, 0, 0, 0x400]).bytes).lds = false :=
  ⟨inv_of up_inv rfl, by decide⟩
/-- LCCOUNT 2 and USER 7 stand at bits 11:6 of word 0 and in word 1 (R371). -/
theorem test_launch : (after .launch (workTaken up)).str.launch = some ⟨0, .h1, 2, 7, 5⟩ ∧
    (after .launch (workTaken up)).str.pc = 0x400 := by decide

/-- A MOVE of profile 1 on channel 63 of half 1 with LEN 0 has been taken (R309). -/
def emptyXfer : Desc := descOf [1 + 1 * 2 ^ 4 + 1 * 2 ^ 6 + 63 * 2 ^ 7, 0, 0, 0, 0, 0, 0, 1 + 1 * 2 ^ 16]
def xferTaken (d : Desc) : State := { up with kp := { Keeper.reset with xferTaken := [d] } }
def emptyTaken : State := xferTaken emptyXfer
/-- The same with two rows of 2,048 bytes from 0x1000 to 0x3000, and one refused for a reserved bit, for its profile and for
its address. -/
def rowsXfer (rsvd profile src : Nat) : Desc :=
  descOf [1 + profile * 2 ^ 4 + 1 * 2 ^ 6 + 63 * 2 ^ 7 + rsvd * 2 ^ 27, 0, src, 0, 0x3000, 0, 2048, 2 + 1 * 2 ^ 16,
    2048, 0, 2048]
/-- Channel 127 has finished, from a TND or from the Transfer ring's slot 5. -/
def finished (ring : Option Nat) (ben evt : Bool) : State := { up with
  td := { Tender.reset with ch := [(127, { Chan.idle with
    st := .finished, ring := ring, x := { Xfer.blank with ben := ben, buoy := 9, evt := evt, evtdata := 77 } })] }
  buoys := { Buoys.reset with b := [(9, ⟨0, 1, 2, 0, false, 2, 0, .filling⟩)] } }

/-- Its slot's completion record has been sent. -/
def recorded (ev : Option EvRec) : State := { finished (some 5) false false with
  td := { Tender.reset with ch := [(127, { Chan.idle with st := .recording, ring := some 5 })] }
  kp := { Keeper.reset with sys := [⟨31, .xrec 5 0 ev, 0, 0⟩] } }

theorem witness_TransfersRun : (emptyTaken.Inv ∧ (finished none true true).Inv ∧ (finished (some 5) false false).Inv) ∧
    emptyTaken.kp.xferTaken = [emptyXfer] ∧ emptyTaken.mayStart = true ∧ emptyTaken.ring.hold = false ∧
    emptyTaken.flt.stopped = false ∧ emptyTaken.flt.unitdown = false ∧ (Xfer.ofBytes emptyXfer.bytes).empty = true ∧
    Profile.ofCode (Xfer.ofBytes emptyXfer.bytes).profile = some .h1 ∧
    (Xfer.ofBytes emptyXfer.bytes).check (some .h1) = .ok ∧
    emptyTaken.sentNow 3 127 = 0 ∧ (emptyTaken.chan ((Xfer.ofBytes emptyXfer.bytes).half * 64 + (Xfer.ofBytes emptyXfer.bytes).ch)).st = .idle ∧
    (((finished none true true).chan (127 : Fin 128)).st = .finished ∧
      ((finished none true true).chan (127 : Fin 128)).status ≤ 1 ∧
      ((finished none true true).chan (127 : Fin 128)).ring = none ∧ (finished none true true).evRoom = true ∧
      ((finished none true true).chan (127 : Fin 128)).x.ben = true ∧ ((finished none true true).buoy 9).st ≠ .free ∧
      (finished none true true).commanded 9 = false) ∧
    (((finished (some 5) false false).chan (127 : Fin 128)).st = .finished ∧
      ((finished (some 5) false false).chan (127 : Fin 128)).ring = some 5 ∧
      ((finished (some 5) false false).chan (127 : Fin 128)).x.ben = false ∧
      ((finished (some 5) false false).chan (127 : Fin 128)).x.evt = false ∧
      (finished (some 5) false false).kp.recQ = [] ∧ (finished (some 5) false false).sysTag = some 0) ∧
    (∀ ev ∈ [none, some ⟨5, 0, 0, 0, 0, 127, 77, 0, 0⟩], let s := recorded ev
      s.rst.por = false ∧ s.kp.sys = [⟨31, .xrec 5 0 ev, 0, 0⟩] ∧ (31 : Nat) = (31#5).toNat ∧ s.kp.recQ = [] ∧
        s.kp.evAgain = false ∧ (s.chan (127 : Fin 128)).st = .recording ∧ (s.chan (127 : Fin 128)).ring = some 5 ∧
        s.evRoom = true) ∧ (List.replicate 64 0#8).length = 64 :=
  ⟨⟨inv_of up_inv rfl, inv_mk rfl (by decide), inv_mk rfl (by decide)⟩, by decide⟩
theorem witness_TransfersRun_starts :
    (∀ x ∈ [(1, 1, 0x1000, 1), (0, 0, 0x1000, 3), (0, 1, 2 ^ 29, 2)], let d := rowsXfer x.1 x.2.1 x.2.2.1;
      let s := xferTaken d; let y := Xfer.ofBytes d.bytes;
      s.kp.xferTaken = [d] ∧ s.mayStart = true ∧ s.kp.recQ = [] ∧ s.sysTag = some 0 ∧ s.sentNow 3 127 = 0 ∧
      y.half * 64 + y.ch = 127 ∧
      x.2.2.2 = (if y.fieldsOk = false then 1 else match Profile.ofCode y.profile with
        | none => 3
        | some p => if y.conv ≠ 0 ∧ ¬ (p.accepts (convFmts y.conv).1 = true ∧ p.accepts (convFmts y.conv).2 = true) then 3
          else if y.addrOk = false then 2 else 0)) ∧
    (let d := rowsXfer 0 1 0x1000; let x := Xfer.ofBytes d.bytes;
      Profile.ofCode x.profile = some .h1 ∧ x.check (some .h1) = .ok ∧ ((xferTaken d).chan 127).st = .idle ∧
      x.empty = false ∧ x.kind = 1 ∧ x.ssp = false ∧ x.dsp = false ∧ x.conv = 0) := by decide
/-- The first row is asked for in lines of 1,024 bytes (R311, R318); a refused descriptor's record says DONE and REFUSED. -/
theorem test_rows : (after .transferStart (xferTaken (rowsXfer 0 1 0x1000))).osura.q.map (fun r => (r.addr, r.len)) =
      [(0x1000, 1024), (0x1400, 1024)] ∧
    (after .transferStart (xferTaken (rowsXfer 0 0 0x1000))).out = [.sysWrite 0 (5 * 64 + 56) [0#8, 0#8, 0#8, 0xC0#8]] := by
  decide
theorem witness_TransfersRun_inv : (xferTaken (rowsXfer 0 1 0x1000)).Inv := inv_of up_inv rfl
theorem witness_TransfersRun_recorded : (recorded none).Inv ∧ (recorded (some ⟨5, 0, 0, 0, 0, 127, 77, 0, 0⟩)).Inv :=
  ⟨inv_mk rfl (by decide), inv_mk rfl (by decide)⟩
/-- XFER names half 1 and channel 63 (R381), and its buoy's P falls (R75). -/
theorem test_finish : (after (.transferComplete 127) (finished none true true)).evq.map (fun e => (e.typ, e.p0, e.p1)) =
      [(5, 127, 77)] ∧ ((after (.transferComplete 127) (finished none true true)).buoy 9).p = 1 ∧
    ((after (.sysResponse 31#5 0#2 (List.replicate 64 0#8)) (recorded none)).chan 127).st = .idle := by decide

/-! ### Witnesses: Control descriptors -/

/-- A Control descriptor has been taken. -/
def ctlAsked (s : State) (ws : List Nat) : State := { s with kp := { s.kp with ctlTaken := [descOf ws] } }

theorem ctlNext_of {s : State} {ws : List Nat} {op : Nat}
    (h : ((ctlAsked s ws).ctlMayStart (descOf ws) && (descOf ws).ctlFields && (descOf ws).op == op) = true) :
    (ctlAsked s ws).CtlNext (descOf ws) [] op := by
  simp only [Bool.and_eq_true, beq_iff_eq] at h
  exact ⟨rfl, h.1.1, h.1.2, h.2⟩

theorem ctlAsked_inv {s : State} (ws : List Nat) (h : s.Inv) : (ctlAsked s ws).Inv := inv_of h rfl

/-- ARM of buoy 255 over 65,536 lines from address 0, and a Ready buoy without a consumer count. -/
def armWords : List Nat := [4, 0, 255, 0, 65536 + 2 ^ 17, 3 + 4 * 2 ^ 16]
def steady : State := { up with buoys := { Buoys.reset with b := [(9, ⟨0, 1, 0, 0, true, 0, 0, .ready⟩)] } }

theorem witness_ArmingLoads : (ctlAsked up armWords).Inv ∧ (ctlAsked up armWords).CtlNext (descOf armWords) [] 4 ∧
    (((ctlAsked up armWords).buoy ((descOf armWords).w 2 % 256)).st = .free ∧
    (ctlAsked up armWords).armOk ((descOf armWords).w 2 % 256) ((descOf armWords).w 3) ((descOf armWords).w 4 % 2 ^ 17) = true ∧
    (descOf armWords).w 4 % 2 ^ 17 ≠ 0 ∧ (ctlAsked up armWords).str.cmds = []) ∧
    (steady.buoy (9 : Fin 256)).st = .ready ∧ (steady.buoy (9 : Fin 256)).consume = 0 :=
  ⟨ctlAsked_inv _ up_inv, ctlNext_of (by decide), by decide, by decide⟩
/-- EXPECT, CONSUME, NLINES and RELOAD are read from their places (R378). -/
theorem test_arm : (after .arm (ctlAsked up armWords)).buoy 255 = ⟨0, 65536, 3, 4, true, 3, 4, .filling⟩ := by decide

/-- FREE of a draining buoy 0; NOTE with CEVT; TDCMD 1 or 2 on channel 3 of half 0. -/
def tdWords (op : Nat) : List Nat := [0x0D, 0, 3 * 2 + op * 2 ^ 8]

/-- The stream has freed buoy 0 in this control cycle. -/
def bothFree : State := { draining with str := { Stream.reset with cmds := [(0, 0, .idle, 4)] } }

theorem witness_ControlCompletes : ((ctlAsked draining [5]).Inv ∧ (ctlAsked paused (tdWords 2)).Inv) ∧
    ((ctlAsked draining [5]).CtlNext (descOf [5]) [] 5 ∧
      (∀ o ∈ (ctlAsked draining [5]).ring.owed, o.1 ≠ (descOf [5]).w 2 % 256) ∧ (ctlAsked draining [5]).str.cmds = []) ∧
    ((ctlAsked bothFree [5]).CtlNext (descOf [5]) [] 5 ∧ (ctlAsked bothFree [5]).Inv ∧
      (∀ o ∈ (ctlAsked bothFree [5]).ring.owed, o.1 ≠ (descOf [5]).w 2 % 256) ∧
      (ctlAsked bothFree [5]).str.cmds = [((ctlAsked bothFree [5]).clk.ckr / 8, (descOf [5]).w 2 % 256, .idle, 4)]) ∧
    ((ctlAsked up [0x210, 9]).CtlNext (descOf [0x210, 9]) [] 0x10 ∧ (ctlAsked up [0x210, 9]).kp.ctlRun = [] ∧
      (descOf [0x210, 9]).cevt = true ∧ (ctlAsked up [0x210, 9]).evRoom = true) ∧
    ((ctlAsked up (tdWords 1)).CtlNext (descOf (tdWords 1)) [] 0x0D ∧
      (3 : Fin 128).val = (descOf (tdWords 1)).w 2 % 2 * 64 + (descOf (tdWords 1)).w 2 / 2 % 64 ∧
      (descOf (tdWords 1)).w 2 / 2 ^ 8 % 4 = 1 ∧ (ctlAsked up (tdWords 1)).sentNow 3 3 = 0 ∧
      (ctlAsked up (tdWords 1)).td.cmdWas = none ∧ ((ctlAsked up (tdWords 1)).chan (3 : Fin 128)).st ≠ .paused) ∧
    ((ctlAsked paused (tdWords 2)).CtlNext (descOf (tdWords 2)) [] 0x0D ∧
      (3 : Fin 128).val = (descOf (tdWords 2)).w 2 % 2 * 64 + (descOf (tdWords 2)).w 2 / 2 % 64 ∧
      (descOf (tdWords 2)).w 2 / 2 ^ 8 % 4 = 2 ∧ (ctlAsked paused (tdWords 2)).sentNow 3 3 = 0 ∧
      (ctlAsked paused (tdWords 2)).td.cmdWas = none ∧ ((ctlAsked paused (tdWords 2)).chan (3 : Fin 128)).st = .paused) :=
  ⟨⟨ctlAsked_inv _ (inv_mk rfl (by decide)), ctlAsked_inv _ (inv_mk rfl (by decide))⟩,
    ⟨ctlNext_of (by decide), by decide⟩,
    ⟨ctlNext_of (by decide), ctlAsked_inv _ (inv_mk rfl (by decide)), by decide⟩, ⟨ctlNext_of (by decide), by decide⟩,
    ⟨ctlNext_of (by decide), by decide⟩, ⟨ctlNext_of (by decide), by decide⟩⟩
/-- The Control ring wins, and the stream's command is dropped and counted (R386). -/
theorem test_conflict : ((after .free (ctlAsked bothFree [5])).buoy 0).st = .free ∧
    sget 0 (after .free (ctlAsked bothFree [5])).cnt.eng 0x24C = 1 := by decide

/-- LIGHT (1) or DARKEN (2) of sector `k`. -/
def secWords (op k : Nat) : List Nat := [op, 0, 2 ^ k % 2 ^ 32, 2 ^ k / 2 ^ 32]

theorem witness_ControlSectors :
    ((ctlAsked up (secWords 1 63)).Inv ∧
      (descOf (secWords 1 63)).w 2 + 2 ^ 32 * (descOf (secWords 1 63)).w 3 = 2 ^ (63 : Fin 64).val ∧
      (ctlAsked up (secWords 1 63)).psecOf (63 : Fin 64) = some 66 ∧ (ctlAsked up (secWords 1 63)).flt.secSwap = none ∧
      (ctlAsked up (secWords 1 63)).CtlNext (descOf (secWords 1 63)) [] 1 ∧
      ((ctlAsked up (secWords 1 63)).secCtl (63 : Fin 64)).st = .dark ∧ (ctlAsked up (secWords 1 63)).pwr.lightQ = [] ∧
      (ctlAsked up (secWords 1 63)).pwr.lightOn.length < 4 ∧ (ctlAsked up (secWords 1 63)).powerBusy (secDom 66) = false) ∧
    ((ctlAsked up (secWords 2 0)).CtlNext (descOf (secWords 2 0)) [] 2 ∧
      (ctlAsked up (secWords 2 0)).ordered 7 0 = false ∧ (ctlAsked up (secWords 2 63)).ordered 7 63 = false ∧
      (descOf (secWords 2 0)).w 2 + 2 ^ 32 * (descOf (secWords 2 0)).w 3 = 2 ^ (0 : Fin 64).val ∧
      (ctlAsked up (secWords 2 0)).psecOf (0 : Fin 64) = some 0 ∧
      ((ctlAsked up (secWords 2 0)).secCtl (0 : Fin 64)).st = .lit ∧ (ctlAsked up (secWords 2 0)).osura.cb = [] ∧
      (ctlAsked up (secWords 2 0)).osura.q = [] ∧ (ctlAsked up (secWords 2 0)).log.pend = []) ∧
    (ctlAsked up (secWords 1 0)).CtlNext (descOf (secWords 1 0)) [] 1 ∧
    ((ctlAsked up (secWords 2 63)).CtlNext (descOf (secWords 2 63)) [] 2 ∧
      ((ctlAsked up (secWords 2 63)).secCtl (63 : Fin 64)).st = .dark) :=
  ⟨⟨ctlAsked_inv _ up_inv, by decide, by decide, by decide, ctlNext_of (by decide), by decide⟩,
    ⟨ctlNext_of (by decide), by decide⟩, ctlNext_of (by decide), ctlNext_of (by decide), by decide⟩
/-- Sector 63 is backed by physical sector 66, whose domain is 34 + 66 (R461, R499). -/
theorem test_light : (after .light (ctlAsked up (secWords 1 63))).out = [.power 100 1] := by decide

/-- ABORT has stopped issue, while a SEND of the Transfer ring waits. -/
def abortingStream : State := { running with
  str := { running.str with stopWait := some (.plain 0x0C) }
  td := { Tender.reset with ch := [(3, { Chan.idle with st := .busy, ring := some 5, phase := 3, x := { Xfer.blank with kind := 5 } })] } }
theorem witness_ControlStream_abort : abortingStream.Inv := inv_mk rfl (by decide)
/-- The abort ends the launch with STATUS 0x0C (R374, R426) and leaves the ring's transfer. -/
theorem test_abort : (after .bundleIssue abortingStream).evq.map (fun e => (e.typ, e.p0)) = [(1, 0x0C)] ∧
    (after .bundleIssue abortingStream).wrun = false ∧ ((after .bundleIssue abortingStream).chan 3).st = .busy := by decide

theorem witness_ControlStream :
    ((ctlAsked running [0x0A]).Inv ∧ (ctlAsked running [0x0A]).CtlNext (descOf [0x0A]) [] 0x0A ∧
      (ctlAsked running [0x0A]).wrun = true ∧ (ctlAsked running [0x0A]).streamStopped = false ∧
      (ctlAsked running [0x0A]).str.ended = false) ∧
    ((ctlAsked pausedStream [0x0B]).CtlNext (descOf [0x0B]) [] 0x0B ∧ (ctlAsked pausedStream [0x0B]).wrun = true ∧
      (ctlAsked pausedStream [0x0B]).str.stop.resumable = true ∧ (ctlAsked pausedStream [0x0B]).str.movs = [] ∧
      (∀ l ∈ (ctlAsked pausedStream [0x0B]).ln, l.reqs = [] ∧ l.AtRest)) ∧
    ((ctlAsked running [0x0C]).CtlNext (descOf [0x0C]) [] 0x0C ∧ (ctlAsked running [0x0C]).str.ended = false ∧
      (ctlAsked running [0x0C]).aborting = false ∧ (ctlAsked running [0x0C]).str.stop.resumable = false ∧
      (ctlAsked running [0x0A]).ordered 6 0 = false ∧ (ctlAsked pausedStream [0x0B]).ordered 5 0 = false) ∧
    (let s := abortingStream;
      s.aborting = true ∧ s.wrun = true ∧ s.streamStopped = false ∧ s.rst.ready = true ∧ s.clk.stopped = false ∧
      s.rst.pstate = 0 ∧ s.errs = [] ∧ s.str.window = [] ∧ s.str.due = [] ∧ s.str.bankStall = 0 ∧ s.str.spareStall = 0 ∧
      s.str.spareDue = [] ∧ s.str.farHits = [] ∧ s.osura.cb = [] ∧ s.str.carry = [] ∧ s.osura.q = [] ∧ s.evRoom = true ∧
      s.td.ch ≠ [] ∧ (∀ x ∈ s.td.ch, x.2.ring.isSome = true) ∧ s.td.sentBack = [] ∧
      (∀ l ∈ s.ln, l.prods = [] ∧ l.q = [] ∧ l.sentBack = [] ∧ l.halted = false ∧ l.suspended = false)) ∧
    ((ctlAsked up [0x0A]).CtlNext (descOf [0x0A]) [] 0x0A ∧ (ctlAsked up [0x0B]).CtlNext (descOf [0x0B]) [] 0x0B ∧
      (ctlAsked up [0x0C]).CtlNext (descOf [0x0C]) [] 0x0C ∧ (ctlAsked up [0x0A]).wrun = false) ∧
    ((ctlAsked up [0x0E]).CtlNext (descOf [0x0E]) [] 0x0E ∧ (ctlAsked up [0x0E]).eclipseBarred = false) ∧
    ((ctlAsked pausedStream [0x0E]).CtlNext (descOf [0x0E]) [] 0x0E ∧ (ctlAsked pausedStream [0x0E]).eclipseBarred = true) :=
  ⟨⟨ctlAsked_inv _ (inv_of up_inv rfl), ctlNext_of (by decide), by decide⟩,
    ⟨ctlNext_of (by decide), by unfold Lantern.AtRest; decide⟩,
    ⟨ctlNext_of (by decide), by decide⟩, by decide,
    ⟨ctlNext_of (by decide), ctlNext_of (by decide), ctlNext_of (by decide), by decide⟩,
    ⟨ctlNext_of (by decide), by decide⟩, ctlNext_of (by decide), by decide⟩

/-- MOOR of mooring 63: 4 KiB at the top of Osura for sources 3 to 18 with a depth of 16 units; or with an unaligned
base. TOKEN of 64 bytes to this chip. -/
def moorWords (base : Nat) : List Nat := [3, 0, 63, base, 4096, 3 + 18 * 2 ^ 16, 16]
def tokenWords : List Nat := [0x0F, 0, 0 + 63 * 2 ^ 16, 192, 64, 0x1000]

/-- A chain of profile 1 on FP16 operands with one WRITE stage, and a product of 32 by 32 by 64, as Osura
holds them at addresses 0 and 0x1000 (R276 to R279). -/
def chainWords : List Nat := [1 + 1 * 2 ^ 6 + 1 * 2 ^ 16 + 1 * 2 ^ 21, 0, 0, 0, 0x1D + 2 * 2 ^ 9, 128, 0, 0]
def blockWords : List Nat := [32, 32, 64, 0, 128, 128, 0x10000, 0x20000, 0x30000]
def oneChain : LnChain := ⟨.h1, 1, 1, 0, 0, [], [⟨0x1D, 0, 2, 0, 0, 128, 0, 0⟩], []⟩
def oneBlock : LnBlock :=
  ⟨32, 32, 64, 0, false, 0, false, 128, 128, [0x10000, 0x20000, 0x30000, 0, 0, 0, 0, 0], 0, 0, false, false, false, 0,
    List.replicate 12 0⟩
def withBlocks (s : State) : State := { s.writeOsura (cellsAt 0 (chainWords.flatMap (toBytes 4)) ++
    cellsAt 0x1000 (blockWords.flatMap (toBytes 4))) with
  ln := [.fresh, .fresh, .fresh, { Lantern.fresh with slots := [(63, some oneChain)] }] }
def lnWords (op a : Nat) : List Nat := [op, 0, 3 + 63 * 4, a]
def fullQueue : State := { up with ln := [{ Lantern.fresh with q := List.replicate 4 ⟨0, none, none, none⟩ }] }

/-- The stream has taken every bank of sector 0 in this cycle. -/
def banksBusy : State := { up with str := { Stream.reset with servedAt := 1, servedBanks := List.range 32 } }

theorem witness_ControlUnits :
    ((ctlAsked up (moorWords 0x1FFFF000)).Inv ∧ (ctlAsked up (moorWords 0x1FFFF000)).CtlNext (descOf (moorWords 0x1FFFF000)) [] 3 ∧
      (moorOf (descOf (moorWords 0x1FFFF000))).ok = true) ∧
    ((ctlAsked up (moorWords 0x1FFFF800)).CtlNext (descOf (moorWords 0x1FFFF800)) [] 3 ∧
      (moorOf (descOf (moorWords 0x1FFFF800))).ok = false) ∧
    ((ctlAsked up tokenWords).CtlNext (descOf tokenWords) [] 0x0F ∧ 0 < (descOf tokenWords).w 4 ∧ (descOf tokenWords).w 4 ≤ 64 ∧
      (descOf tokenWords).w 3 % 256 + (descOf tokenWords).w 4 ≤ 256 ∧
      inOsura ((descOf tokenWords).w 5) ((descOf tokenWords).w 4) = true ∧
      (ctlAsked up tokenWords).runOpen ((descOf tokenWords).w 5) ((descOf tokenWords).w 4) = true ∧
      (descOf tokenWords).w 2 % 2 ^ 16 = (ctlAsked up tokenWords).ring.chipId ∧
      (ctlAsked up tokenWords).takeBanks ((descOf tokenWords).w 5) ((descOf tokenWords).w 4) ≠ none ∧
      (∀ x ∈ [(0x1000, 64), (0, chainBytes 0), (0x1000, 128)], banksBusy.takeBanks x.1 x.2 = none)) :=
  ⟨⟨ctlAsked_inv _ up_inv, ctlNext_of (by decide), by decide⟩, ⟨ctlNext_of (by decide), by decide⟩,
    ctlNext_of (by decide), by decide⟩
theorem witness_ControlUnits_lantern :
    ((ctlAsked (withBlocks up) (lnWords 6 0)).Inv ∧
      (3 : Fin 4).val = (descOf (lnWords 6 0)).w 2 % 4 ∧ (3 : Fin 4).val < (ctlAsked (withBlocks up) (lnWords 6 0)).ln.length ∧
      ((ctlAsked (withBlocks up) (lnWords 6 0)).lan (3 : Fin 4)).q.length < 4 ∧
      (ctlAsked (withBlocks up) (lnWords 6 0)).sentNow 2 3 = 0 ∧ (ctlAsked fullQueue [6]).sentNow 2 0 = 0 ∧
      (ctlAsked (withBlocks up) (lnWords 6 0)).CtlNext (descOf (lnWords 6 0)) [] 6 ∧
      (ctlAsked (withBlocks up) (lnWords 6 0)).takeBanks 0 (chainBytes (ofBytes
        ((ctlAsked (withBlocks up) (lnWords 6 0)).readRun 0 4).1)) ≠ none ∧
      (ctlAsked (withBlocks up) (lnWords 6 0)).runOpen 0 16 = true ∧
      (ctlAsked (withBlocks up) (lnWords 6 0)).runOpen 0
        (chainBytes (ofBytes ((ctlAsked (withBlocks up) (lnWords 6 0)).readRun 0 4).1)) = true ∧
      fusLoad (ctlAsked (withBlocks up) (lnWords 6 0)) (3 : Fin 4) 63 0 (some 0) = .ok ⟨63, some 0, some oneChain, none⟩) ∧
    ((ctlAsked (withBlocks up) (lnWords 7 0x1000)).CtlNext (descOf (lnWords 7 0x1000)) [] 7 ∧
      (ctlAsked (withBlocks up) (lnWords 7 0x1000)).takeBanks 0x1000 128 ≠ none ∧
      (ctlAsked (withBlocks up) (lnWords 7 0x1000)).runOpen 0x1000 128 = true ∧
      fusStart (ctlAsked (withBlocks up) (lnWords 7 0x1000)) (3 : Fin 4) 63 0x1000 (some 0) none =
        .ok ⟨63, some 0, none, some oneBlock⟩) ∧
    (4 ≤ ((ctlAsked fullQueue [6]).lan ((descOf [6]).w 2 % 4)).q.length ∧ (ctlAsked fullQueue [6]).CtlNext (descOf [6]) [] 6 ∧
      (ctlAsked fullQueue [7]).CtlNext (descOf [7]) [] 7) :=
  ⟨⟨ctlAsked_inv _ (inv_mk (by decide +kernel) (by decide +kernel)), by decide, by decide, by decide +kernel, by decide +kernel, by decide, ctlNext_of (by decide +kernel),
      by decide +kernel, by decide +kernel, by decide +kernel, by decide +kernel⟩,
    ⟨ctlNext_of (by decide +kernel), by decide +kernel, by decide +kernel, by decide +kernel⟩, by decide, ctlNext_of (by decide), ctlNext_of (by decide)⟩

/-! ### Witnesses: memory ports and Lanterns -/

/-- Port 23's traffic of a Tender channel (R318 to R321). -/
def memState (rd wr : List MemTag) (ch : Sparse Chan) : State := { up with
  mem := { MemPorts.reset with rd := rd, wr := wr }, td := { Tender.reset with ch := ch } }
def reading : Chan := { Chan.idle with
  st := .busy, phase := 1, reads := [⟨4, 0, 0, 256, none⟩, ⟨5, 0, 256, 64, none⟩], nreq := 6 }
def writing : Chan := { Chan.idle with st := .busy, phase := 2, writes := [(4, 0), (5, 256)], nreq := 6 }
def tagOf (who : MemOwner) : MemTag := ⟨23, 8, who, 23 * 256 + 64, 64, none, 0⟩
def farRead : MemReq := ⟨.far 1 2 0 0, 23 * 256, 128, none⟩

/-- The same channel with one row of 320 bytes for 0x10000, where a Ready buoy may stand (R78). -/
def landing : Chan := { reading with x := { Xfer.blank with kind := 1, ssp := true, n1 := 1, n2 := 1, len := 320, dst := 0x10000 } }
def readyBuoy (s : State) : State := { s with
  buoys := { Buoys.reset with b := [(9, ⟨0x10000, 1, 0, 1, false, 0, 1, .ready⟩)] } }

theorem witness_MemoryPorts_held :
    let s := memState [tagOf (.tender 127 4)] [] [(127, landing)]
    let t := readyBuoy s
    (s.chan 127).reads.find? (fun r => r.req == 4) = some ⟨4, 0, 0, 256, none⟩ ∧
    s.linesHeld ((s.chan 127).dstLines ⟨4, 0, 0, 256, none⟩) = false ∧
    t.linesHeld ((t.chan 127).dstLines ⟨4, 0, 0, 256, none⟩) = true ∧ (t.chan 127).streams = false := by decide +kernel
/-- The waiting write keeps its tag (R78). -/
theorem test_held : (after (.memReadResponse 23 8#11 0#2 (List.replicate 256 0#8))
    (readyBuoy (memState [tagOf (.tender 127 4)] [] [(127, landing)]))).mem.held = [⟨23, 8, 127, [(64, 65)]⟩] := by
  decide +kernel

theorem witness_MemoryPorts : (up.Inv ∧ (memState [tagOf (.tender 127 4)] [] [(127, reading)]).Inv ∧
      (memState [] [tagOf (.tender 127 4)] [(127, writing)]).Inv) ∧
    (let s := { up with mem := { MemPorts.reset with farQ := [farRead] } };
      s.clk.stopped = false ∧ s.mem.farQ.find? (fun r => portOf r.iova == (23 : Fin 24).val) = some farRead ∧
      farRead.wr = none ∧ s.mem.freeTag (23 : Fin 24) false = some 0) ∧
    (up.mem.farQ = [] ∧ up.mem.logQ = [] ∧ up.td.ch = []) ∧
    (let s := memState [tagOf (.tender 127 4)] [] [(127, reading)];
      s.rst.ready = true ∧ s.rst.por = false ∧ sget false s.mem.fenced (23 : Fin 24).val = false ∧
      s.mem.rd = [tagOf (.tender 127 4)] ∧ (8 : Nat) = (8#11).toNat ∧ (s.chan 127).st = .busy ∧
      (s.chan 127).status = 0 ∧ (s.chan 127).fault = none ∧ (s.chan 127).phase = 1 ∧ (s.chan 127).streams = false ∧
      ∃ r ∈ (s.chan 127).reads, r.req ≠ 4 ∧ r.data = none) ∧
    (let s := memState [] [tagOf (.tender 127 4)] [(127, writing)];
      s.mem.wr = [tagOf (.tender 127 4)] ∧ (8 : Nat) = (8#9).toNat ∧ (s.chan 127).st = .busy ∧
      (s.chan 127).status = 0 ∧ (s.chan 127).fault = none ∧ (s.chan 127).phase = 2 ∧
      ∃ w ∈ (s.chan 127).writes, w.1 ≠ 4) ∧
    (up.mem.rd = [] ∧ up.mem.wr = []) ∧
    (tagOf (.tender 127 4)).who ≠ .expired ∧ 0 + 2 ^ 20 ≤ ({ Clk.reset with fab := 2 ^ 20 } : Clk).fab ∧
    Clk.reset.fab < 0 + 2 ^ 20 :=
  ⟨⟨up_inv, inv_mk rfl (by decide), inv_mk rfl (by decide)⟩, by decide +kernel⟩
/-- A read of part of an IOVA block takes its bytes from their place in the 256 (R320, R321). -/
theorem test_response : ((after (.memReadResponse 23 8#11 0#2 (List.replicate 64 0#8 ++ List.replicate 192 7#8))
      (memState [tagOf (.tender 127 4)] [] [(127, reading)])).chan 127).reads.map (fun r => r.data) =
    [some (List.replicate 64 7#8), none] := by decide +kernel

/-- Lantern 3 with a queue and unfinished products; slot 63 holds `oneChain`. -/
def lantern (q : List LnCmd) (prods : List LnProd) : State := { up with
  ln := [.fresh, .fresh, .fresh, { Lantern.fresh with slots := [(63, some oneChain)], q := q, prods := prods }] }
def loadCmd : LnCmd := ⟨63, none, some oneChain, none⟩
def startCmd : LnCmd := ⟨63, none, none, some oneBlock⟩
/-- The product of slot 63 with parity 1, `oneBlock` with an event. -/
def oneProd (done : Nat) : LnProd :=
  ⟨63, 127, none, oneChain, { oneBlock with evt := true, evtdata := 9 }, [(0, done)], [], [], [], [], done, [], [], [],
    false, [], [], false, 0, 0, 0⟩
/-- Buoy 9 covers the first line of A and is still filling (R77). -/
def busyBuoy (s : State) : State := { s with
  buoys := { Buoys.reset with b := [(9, ⟨0x10000, 1, 1, 0, false, 1, 0, .filling⟩)] } }

/-- A chain whose first path stage looks codes up in a table at 0x2000 (R277, R285). -/
def tableChain : LnChain := { oneChain with pro := [⟨0x03, 0, 0, 0, 0, 0x2000, 0, 0⟩] }
def tableCmd : LnCmd := ⟨63, none, some tableChain, none⟩

/-- Three waits of Lantern 3: at the announce, on a silent port, and of a read on a buoy (R83, R281, R470). -/
def annWaits (ctl : Option Nat) (base : State) : State := busyBuoy { base with
  ln := [.fresh, .fresh, .fresh, { Lantern.fresh with
    slots := [(63, some oneChain)], q := [{ startCmd with ctl := ctl }], annWait := true, waited := 2 ^ 24 + 1 }] }
def portSilent (ctl : Option Nat) (base : State) : State := { base with
  ln := [.fresh, .fresh, .fresh, { Lantern.fresh with prods := [{ oneProd 0 with ctl := ctl }], quiet := 2 ^ 24 + 1 }] }
def buoyRead : AsyncReq := ⟨.lantern, .lantern 3 5, 0x10000, 128, none, 1, 0, false, 2 ^ 24 + 1, true, 0, false⟩
def readWaits (ctl : Option Nat) (base : State) : State := busyBuoy { base with
  osura := { base.osura with q := [buoyRead] }
  ln := [.fresh, .fresh, .fresh, { Lantern.fresh with
    prods := [{ oneProd 0 with ctl := ctl }], epi := some ⟨127, none, [], some ⟨[(5, 0x10000)], []⟩⟩ }] }

theorem witness_WatchdogStalls_product : ∀ ctl ∈ [none, some 7], ∀ base ∈ [up, running],
    (let s := annWaits ctl base;
      (3 : Fin 4).val < s.ln.length ∧ (s.lan (3 : Fin 4)).suspended = false ∧ (s.lan (3 : Fin 4)).halted = false ∧
      s.stallLimit = some (2 ^ 24) ∧ s.str.frozen = false ∧ s.evRoom = true ∧ s.str.stopWait = none ∧
      s.streamStopped = false ∧ s.osura.q = [] ∧ (s.lan (3 : Fin 4)).annWait = true ∧
      2 ^ 24 < (s.lan (3 : Fin 4)).waited ∧ (s.lan (3 : Fin 4)).q = [{ startCmd with ctl := ctl }] ∧
      (s.annBlockers (s.lan (3 : Fin 4))).foldl (fun m x => min m x) 255 = 9) ∧
    (let s := portSilent ctl base;
      s.stallLimit = some (2 ^ 24) ∧ s.osura.q = [] ∧ (s.lan (3 : Fin 4)).annWait = false ∧
      2 ^ 24 < (s.lan (3 : Fin 4)).quiet ∧ (s.lan (3 : Fin 4)).prods = [{ oneProd 0 with ctl := ctl }]) ∧
    (let s := readWaits ctl base;
      s.stallLimit = some (2 ^ 24) ∧ s.osura.q = [buoyRead] ∧ buoyRead.who = .lantern 3 5 ∧
      s.buoyBlocked buoyRead = true ∧ 2 ^ 24 < buoyRead.waited ∧
      (s.lan (3 : Fin 4)).productOf 5 = some { oneProd 0 with ctl := ctl } ∧ s.blockerOf buoyRead = 9) := by
  decide +kernel
/-- The waiter's own origin decides between the stop and the event (R298). -/
theorem test_watchdog_product :
    (after (.buoyWatchdog (.lantern 3)) (portSilent none running)).str.stopWait = some ⟨5, some 8, 0, 0, 0, 0⟩ ∧
    (after (.buoyWatchdog (.lantern 3)) (annWaits none running)).str.stopWait = some ⟨5, some 8, 0, 0, 0, 9⟩ ∧
    (after (.buoyWatchdog (.lantern 3)) (readWaits (some 7) running)).str.stopWait = none ∧
    (after (.buoyWatchdog (.lantern 3)) (readWaits (some 7) running)).evq.map (·.p0) = [3 + 4 * 63 + 1024] := by
  decide +kernel

theorem witness_LanternCommands : (3 : Fin 4).val < (lantern [loadCmd] []).ln.length ∧
    (let s := lantern [loadCmd] [];
      s.rst.ready = true ∧ (s.lan (3 : Fin 4)).stuck = false ∧ (s.lan (3 : Fin 4)).q = [loadCmd] ∧
      loadCmd.load = some oneChain ∧ oneChain.tables = [] ∧ (s.lan (3 : Fin 4)).prods = [] ∧ loadCmd.ctl = none ∧
      (s.lan (3 : Fin 4)).tab = none) ∧
    (let s := lantern [tableCmd] [];
      (s.lan (3 : Fin 4)).stuck = false ∧ (s.lan (3 : Fin 4)).q = [tableCmd] ∧ tableCmd.load = some tableChain ∧
      (∃ x ∈ tableChain.tables, x.2.2 ≠ 0) ∧ (s.lan (3 : Fin 4)).prods = [] ∧ (s.lan (3 : Fin 4)).tab = none) ∧
    (((lantern [loadCmd] [oneProd 0]).lan (3 : Fin 4)).q = [loadCmd] ∧
      ((lantern [loadCmd] [oneProd 0]).lan (3 : Fin 4)).prods ≠ []) ∧
    (let s := lantern [startCmd] [];
      (s.lan (3 : Fin 4)).q = [startCmd] ∧ startCmd.start = some oneBlock ∧
      sget none (s.lan (3 : Fin 4)).slots startCmd.slot = some oneChain ∧ (s.lan (3 : Fin 4)).prods.length < 2 ∧
      oneBlock.empty = false ∧ (s.lan (3 : Fin 4)).relay = [] ∧
      (pathRuns oneChain oneBlock 0 ++ pathRuns oneChain oneBlock 1).all (fun r => (s.runsNotReady r).isEmpty) = true ∧
      (pathRuns oneChain oneBlock 0 ++ pathRuns oneChain oneBlock 1).all
        (fun r => ((busyBuoy s).runsNotReady r).isEmpty) = false) ∧
    (let s := lantern [] [oneProd 1];
      (s.lan (3 : Fin 4)).prods = [oneProd 1] ∧ (oneProd 1).worked = true ∧ (s.lan (3 : Fin 4)).writes = [] ∧
      (s.lan (3 : Fin 4)).relay = [] ∧ (∀ l ∈ s.ln, l.AtRest) ∧
      (∀ st ∈ (oneProd 1).chain.epi, st.code = 0x1D ∧ bitOf st.p16 8 = false) ∧ (oneProd 1).blk.arel = false ∧
      (oneProd 1).blk.brel = false ∧ (oneProd 1).ctl = none ∧ (oneProd 1).blk.evt = true ∧ s.evRoom = true) ∧
    (up.lan (3 : Fin 4)).prods = [] := by decide +kernel

/-- The epilogue of its product holds one beat, which waits for the relay buffer of FP0 (R295). -/
def relayProd (ctl : Option Nat) : LnProd :=
  { oneProd 1 with chain := { oneChain with epi := [⟨0x1E, 0, 0, 0, 0, 0, 0, 0⟩] }, ctl := ctl }
def relayFull (base : State) (ctl : Option Nat) (relayed : Nat) : State := { base with
  ln := [{ Lantern.fresh with relay := List.replicate 64 ⟨3, 0, 32, 32, 0, 0, 0, [], none⟩ }, .fresh, .fresh,
    { Lantern.fresh with
      prods := [relayProd ctl], epi := some ⟨127, none, [⟨0, 0, 0, [], none, false⟩], none⟩, relayed := relayed }] }
/-- One product whose row tile 0 waits for its tail. -/
def tailing : LnProd :=
  { oneProd 1 with chain := { oneChain with epi := [⟨0x1C, 0, 2, 0, 0, 0, 0, 0⟩] } }
def tailingIn : State := { lantern [] [tailing] with
  ln := [.fresh, .fresh, .fresh, { Lantern.fresh with prods := [tailing], lastOrder := [(127, 0)] }] }
/-- A result beat comes while a write waits; its product releases buoy 9 when its sources are read. -/
def resultProd (arel : Bool) : LnProd :=
  { oneProd 0 with blk := { oneBlock with arel := arel, abuoy := 9 } }
def writingLantern (arel : Bool) : State := { up with
  ln := [.fresh, .fresh, .fresh, { Lantern.fresh with prods := [resultProd arel], writes := [(0, 127)] }]
  buoys := { Buoys.reset with b := [(9, ⟨0x10000, 1, 0, 2, false, 0, 2, .ready⟩)] } }
/-- The last read of an operand beat waits in sector 0's queue. -/
def operandRead : AsyncReq := ⟨.lantern, .lantern 3 5, 0x10000, 128, none, 1, 0, false, 0, false, 0, false⟩
def operandWaits : State := { up with
  clk := { Clk.reset with cyc := 3 }, osura := { up.osura with q := [operandRead] }
  ln := [.fresh, .fresh, .fresh, { Lantern.fresh with
    prods := [{ oneProd 0 with released := true, blk := { oneBlock with m := 1, n := 1 } }], reqs := [0xFE000000], pro := some (true, ⟨[(5, 0x10000)], []⟩) }] }
/-- A product of one row and one column. -/
def oneRow : LnProd := { oneProd 0 with blk := { oneBlock with m := 1, n := 1 } }
def operandCtx : ProCtx := ⟨oneChain, oneRow.blk, 0, LnFetch.blank.num,
  fun r c => ((lantern [] [oneRow]).lan 3).relayElem 0 oneRow.relA r c⟩

theorem witness_LanternData : (3 : Fin 4).val < up.ln.length ∧
    (let s := lantern [] [oneRow];
      (s.lan (3 : Fin 4)).stuck = false ∧ (0xFE000000#32).toNat / 2 ^ 24 % 2 = 0 ∧
      (s.lan (3 : Fin 4)).prod ((0xFE000000#32).toNat / 2 ^ 25 % 2 ^ 7) = some oneRow ∧
      (s.lan (3 : Fin 4)).reqs = [] ∧ (s.lan (3 : Fin 4)).pro = none ∧ oneRow.chain.relaySrc 0 = none ∧
      operandCtx.indexReads 0 = [] ∧
      (0xFE000000#32).toNat % 2 ^ 12 < ceilDiv oneRow.blk.m 32 ∧
      (0xFE000000#32).toNat / 2 ^ 12 % 2 ^ 12 < oneRow.chunksOf 0) ∧
    ((up.lan (3 : Fin 4)).prod ((0#32).toNat / 2 ^ 25 % 2 ^ 7) = none ∧ (up.lan (3 : Fin 4)).reqs.length < 32) ∧
    (List.replicate 1024 0#32).length = 1024 ∧ some (0#32 : Word) ≠ some 1#32 ∧ (none : Option Word) ≠ some 1#32 ∧
    (let s := tailingIn;
      (s.lan (3 : Fin 4)).prods = [tailing] ∧ (s.lan (3 : Fin 4)).lastOrder = [(tailing.cid, 0)] ∧
      tailing.parkReqs = [] ∧ tailing.pend = [] ∧
      (s.lan (3 : Fin 4)).epi = none ∧ (s.lan (3 : Fin 4)).writes = [] ∧ (s.lan (3 : Fin 4)).relayWait = false ∧
      0 < tailing.blk.colTiles) ∧
    (up.lan (3 : Fin 4)).lastOrder = [] := by decide +kernel
theorem witness_LanternData_reads : operandCtx.beatReads 0 0 ≠ [] ∧ (∀ r ∈ operandCtx.beatReads 0 0, r.2 ≠ 0) := by
  decide +kernel
theorem witness_LanternData_result :
    ∀ a ∈ [false, true], let s := writingLantern a;
      0 < (s.lan (3 : Fin 4)).engCredits ∧
      (s.lan (3 : Fin 4)).prod ((0xFF000000#32).toNat / 2 ^ 25 % 2 ^ 7) = some (resultProd a) ∧
      (s.lan (3 : Fin 4)).writes ≠ [] ∧ (s.lan (3 : Fin 4)).epi = none ∧ (s.lan (3 : Fin 4)).relayWait = false ∧
      (s.lan (3 : Fin 4)).osmxReady = none ∧ (resultProd a).chain.count 0x19 ≠ 1 ∧
      (0xFF000000#32).toNat % 2 ^ 12 < (resultProd a).blk.rowTiles ∧
      (0xFF000000#32).toNat / 2 ^ 12 % 2 ^ 12 = sget 0 (resultProd a).next ((0xFF000000#32).toNat % 2 ^ 12) ∧
      (0xFF000000#32).toNat / 2 ^ 12 % 2 ^ 12 < (resultProd a).blk.colTiles ∧
      (0xFF000000#32).getLsbD 24 = ((0xFF000000#32).toNat / 2 ^ 12 % 2 ^ 12 + 1 == (resultProd a).blk.colTiles) ∧
      (resultProd a).released = false ∧ (resultProd a).blk.arel = a ∧ (resultProd a).blk.brel = false ∧
      s.commanded 9 = false ∧ ((sset 0 (resultProd a).next 0 1).map (·.2)).foldl (· + ·) 0 =
        (resultProd a).blk.rowTiles * (resultProd a).blk.colTiles ∧ (s.lan (3 : Fin 4)).reqs = [] ∧
      (s.buoy (resultProd a).blk.abuoy).st = .ready ∧ (s.buoy (resultProd a).blk.abuoy).consume ≠ 0 ∧
      1 < (s.buoy (resultProd a).blk.abuoy).c := by decide +kernel
theorem witness_LanternData_inv : (writingLantern true).Inv := inv_mk rfl (by decide)
theorem witness_LanternData_answer :
    (let s := operandWaits;
      s.rst.ready = true ∧ (s.lan (3 : Fin 4)).stuck = false ∧ 0xFE000000 / 2 ^ 24 % 2 = 0 ∧
      (s.lan (3 : Fin 4)).prod (0xFE000000 / 2 ^ 25 % 2 ^ 7) = some { oneProd 0 with released := true, blk := { oneBlock with m := 1, n := 1 } } ∧
      (∀ q ∈ (s.lan (3 : Fin 4)).prods, q.parkReqs = []) ∧ (s.lan (3 : Fin 4)).reqs = [0xFE000000] ∧
      (s.lan (3 : Fin 4)).pro = some (true, ⟨[(5, operandRead.addr)], []⟩) ∧ (oneProd 0).chain.relaySrc 0 = none ∧
      (s.lan (3 : Fin 4)).tab = none ∧ (∀ l ∈ s.ln, l.AtRest) ∧
      (s.lan (3 : Fin 4)).writes = [] ∧ operandRead.stalled = false ∧ s.streamBanks = [] ∧ s.osura.q = [operandRead] ∧ operandRead.who = .lantern 3 5 ∧
      operandRead.checked = false ∧ operandRead.passes = 1 ∧ s.clk.stopped = false ∧
      asyncOwns s.osura.share s.clk.cyc = true ∧ secOf operandRead.addr < 64 ∧
      (s.secCtl (secOf operandRead.addr)).served ≤ s.clk.cyc ∧ s.secOpen (secOf operandRead.addr) = true ∧
      s.str.window = [] ∧ s.str.bankStall = 0 ∧ (∀ x ∈ s.ring.ports, x.held = [])) := by decide +kernel
theorem witness_LanternData_relay :
    (∀ x ∈ [(up, none), (running, none), (up, some 4)], let s := relayFull x.1 x.2 (2 ^ 24 + 1);
      s.rst.ready = true ∧ (s.lan (3 : Fin 4)).stuck = false ∧ s.stallLimit = some (2 ^ 24) ∧
      s.relayStalled (3 : Fin 4).val = true ∧ 2 ^ 24 < (s.lan (3 : Fin 4)).relayed ∧
      (s.lan (3 : Fin 4)).prods = [relayProd x.2] ∧ (relayProd x.2).ctl = x.2 ∧ s.evRoom = true) ∧
    running.wrun = true ∧ running.streamStopped = false ∧ up.wrun = false ∧
    ((relayFull up none (2 ^ 24)).lan (3 : Fin 4)).relayed ≤ 2 ^ 24 := by decide +kernel
/-- A result takes one of the 16 credits (R271), and after the last one ABUOY's C falls (R76, R279). -/
theorem test_result : ((after (.resultBeat 3 (some 0xFF000000#32) 0xFF000000#32 (List.replicate 1024 1#32)) (writingLantern true)).lan
      3).engCredits = 15 ∧
    ((after (.resultBeat 3 (some 0xFF000000#32) 0xFF000000#32 (List.replicate 1024 1#32)) (writingLantern true)).buoy 9).c = 1 := by
  decide +kernel
/-- The first chunk of the row is asked for, and goes out when it has been read (R268). -/
theorem test_operand : ((after (.operandRequest 3 0xFE000000#32) (lantern [] [oneRow])).lan 3).reqs = [0xFE000000] ∧
    (after (.operandRequest 3 0xFE000000#32) (lantern [] [oneRow])).osura.q.all (fun r => r.agent == .lantern) = true ∧
    ((after (.osuraAsyncServe 0) operandWaits).lan 3).reqs = [] ∧ (after (.osuraAsyncServe 0) operandWaits).out.length = 1 := by
  decide +kernel
/-- A tail pass reads its first beat back (R293); a relay wait past the limit stalls the chain (R295). -/
theorem test_tail : (((after (.tailPassStart 3) tailingIn).lan 3).epi.map (·.tail)) = some (some 0) ∧
    (after (.tailPassStart 3) tailingIn).osura.q.length = 4 ∧
    ((after (.relayStallTimeout 3) (relayFull running none (2 ^ 24 + 1))).lan 3).cause = 2 ∧
    (after (.relayStallTimeout 3) (relayFull running none (2 ^ 24 + 1))).str.stopWait = some ⟨5, some 8, 0, 0, 0, 0⟩ ∧
    (after (.relayStallTimeout 3) (relayFull up (some 4) (2 ^ 24 + 1))).evq.length = 1 := by decide +kernel

/-! ### Witnesses: ports, links and packets -/

/-- Lantern 3's port and ring port 7 in the states that each clause starts from. -/
def ports (l : Lantern) (r : RPort) (en : Bool) : State := { up with
  ln := [.fresh, .fresh, .fresh, l]
  ring := { Ring.reset with en := en, porten := 0x80, ports := List.replicate 7 .fresh ++ [r] } }
def aborting : State := ports { Lantern.fresh with abort := true } { RPort.fresh with abort := true } true
def idlePorts (en : Bool) : State := ports .fresh { RPort.fresh with linkUp := true } en
def livePort : RPort := { RPort.fresh with linkUp := true, started := true, out := [65534, 0, 0] }
def livePorts : State := ports .fresh livePort true

theorem witness_PortsAndLinks :
    ((3 : Fin 4).val < aborting.ln.length ∧ aborting.ring.ports.length = 8 ∧ aborting.rst.ready = true ∧
      (aborting.lan (3 : Fin 4)).abort = true ∧ (aborting.rport (7 : Fin 8)).abort = true) ∧
    (let s : State := { aborting with clk := { Clk.reset with cyc := 65536 } };
      (s.lan (3 : Fin 4)).abort = true ∧ (s.lan (3 : Fin 4)).abortAt + 65536 ≤ s.clk.cyc ∧
      (s.rport (7 : Fin 8)).abort = true ∧ (s.rport (7 : Fin 8)).abortAt + 65536 ≤ s.clk.cyc) ∧
    (let s : State := { aborting with clk := { Clk.reset with cyc := 65535 } };
      s.clk.cyc < (s.lan (3 : Fin 4)).abortAt + 65536 ∧ s.clk.cyc < (s.rport (7 : Fin 8)).abortAt + 65536) ∧
    (let s := idlePorts true;
      (3 : Fin 4).val < s.ln.length ∧ s.ring.ports.length = 8 ∧ s.rst.ready = true ∧
      (s.lan (3 : Fin 4)).abort = false ∧ (s.lan (3 : Fin 4)).fenced = false ∧ (s.lan (3 : Fin 4)).AtRest ∧
      (s.lan (3 : Fin 4)).present = true ∧ (s.rport (7 : Fin 8)).abort = false ∧ (s.rport (7 : Fin 8)).fenced = false ∧
      (s.rport (7 : Fin 8)).started = false ∧ s.packetsOn = true ∧ s.ring.porten.testBit (7 : Fin 8) = true ∧
      (s.rport (7 : Fin 8)).linkUp = true ∧ (s.rport (7 : Fin 8)).used = [0, 0, 0] ∧ (s.rport (7 : Fin 8)).ack = false ∧
      s.portLive (7 : Fin 8) = false ∧ s.kp.sysFenced = false ∧ sget false s.mem.fenced (23 : Fin 24).val = false ∧
      s.rst.por = false) ∧
    (let s := idlePorts false;
      (s.rport (7 : Fin 8)).started = false ∧ (s.rport (7 : Fin 8)).fenced = false ∧
      (s.rport (7 : Fin 8)).abort = false ∧ (s.rport (7 : Fin 8)).ack = false ∧
      (s.rport (7 : Fin 8)).used = [0, 0, 0] ∧ ¬ (s.packetsOn = true ∧ s.ring.porten.testBit (7 : Fin 8) = true)) ∧
    (let s := livePorts;
      (s.rport (7 : Fin 8)).abort = false ∧ (s.rport (7 : Fin 8)).fenced = false ∧
      (s.rport (7 : Fin 8)).out.length = 3 ∧ s.portLive (7 : Fin 8) = true ∧ (0#2 : BitVec 2) ≠ 3#2 ∧
      (s.rport (7 : Fin 8)).out.getD (0#2).toNat 0 + (1#4).toNat ≤ 65535 ∧
      65535 < (s.rport (7 : Fin 8)).out.getD (0#2).toNat 0 + (2#4).toNat) := by decide
/-- A count may reach 65,535 and not pass it (R458). -/
theorem test_credits : ((after (.ringCreditReturn 7 0#2 1#4) livePorts).rport 7).out = [65535, 0, 0] ∧
    (after (.ringCreditReturn 7 0#2 2#4) livePorts).errs.length = 1 := by decide

/-- CRC-32C's check value: that of the digits 1 to 9 (R337). -/
theorem test_crc : crc32c [0x31#8, 0x32#8, 0x33#8, 0x34#8, 0x35#8, 0x36#8, 0x37#8, 0x38#8, 0x39#8] = 0xE3069283 := by
  decide +kernel

/-- Chip 5 of a job whose lead light is `lead`; all its ports are live. -/
def chip (lead : Nat) : State := { up with
  ring := { Ring.reset with
    chipId := 5, leadId := lead, nextId := 6, jobKey := 9, en := true, porten := 0xFF, ports := List.replicate 8 livePort } }

/-- A packet to chip 5 with right CRCs, from port 7. -/
def packet (p : Pkt) (pl : List Byte) : Pkt :=
  let p := { p with len := pl.length, payload := pl, pcrc := crc32c pl, port := some 7, dst := 5, jobkey := 9 }
  { p with hcrc := p.headCrc }
/-- Class 0 from chip 3. -/
def small (kind : Nat) (pl : List Byte) : Pkt :=
  packet ⟨5, 3, 0, kind, 0, false, false, false, 0, 0, 0, 0, 9, 0, false, 0, 0, 0, [], none, 0, none, none⟩ pl
/-- DATA of a class for offset `o` of mooring 63. -/
def dataPkt (cls src o : Nat) : Pkt :=
  packet ⟨5, src, cls, 0, 63, true, false, false, 0, 0, o, 0, 9, 0, false, 0, 0, 0, [], none, cls, none, none⟩ [1#8, 2#8]
/-- A message about the SEND of channel 127. -/
def reply (kind : Nat) (pl : List Byte) (xtag : Nat) : Pkt :=
  packet ⟨5, 3, 0, kind, 0, false, false, false, 0, 0, 0, 4, 9, xtag, false, 0, 0, 0, [], none, 0, none, none⟩ pl
/-- The header as it stands on the link (R334). -/
def hdrOf (p : Pkt) : List Word := (p.words ++ [p.hcrc, p.pcrc]).map (BitVec.ofNat 32)

def arrives (s : State) (p : Pkt) : Bool :=
  Pkt.ofHdr (hdrOf p) p.payload (some 7) == p && s.portLive 7 && p.headerOk &&
    decide ((s.rport 7).used.getD p.cls 0 + p.cost ≤ bufferUnits p.cls) && p.dst == s.ring.chipId &&
    p.jobkey == s.ring.jobKey && (p.kind == 0 || p.pcrc == crc32c p.payload) && s.canTake p && !s.behindHeld p &&
    decide (p.payload.length < 512)

theorem comes_of {s : State} {p : Pkt} (h : arrives s p = true) : s.Comes 7 (hdrOf p) p.payload p := by
  simp only [arrives, Bool.and_eq_true, beq_iff_eq, Bool.or_eq_true, decide_eq_true_eq, Bool.not_eq_true'] at h
  obtain ⟨⟨⟨⟨⟨⟨⟨⟨⟨h1, h2⟩, h3⟩, h4⟩, h5⟩, h6⟩, h7⟩, h8⟩, h9⟩, h10⟩ := h
  exact ⟨rfl, h10, h6, fun hk => h7.resolve_left hk, h8, fun e => absurd e (by decide),
    fun _ => ⟨h1.symm, h2, h3, h4, h5, h9⟩⟩

/-- A packet waits on the loopback path. -/
def looped (p : Pkt) : State := { chip 5 with ring := { (chip 5).ring with loopQ := [{ p with port := none }] } }
theorem comes_loop : (looped (small 10 [])).Comes 8 (List.replicate 8 0#32) [] { small 10 [] with port := none } :=
  ⟨rfl, by decide, rfl, fun _ => by decide +kernel, by decide +kernel, fun _ => ⟨⟨[], rfl⟩, rfl, rfl, .inl rfl⟩,
    fun h => absurd rfl h⟩

/-- Mooring 63 covers the first 4 KiB of sector 1 for sources 3 and 4. -/
def moored : State := { chip 5 with ring := { (chip 5).ring with moors := [(63, ⟨0x800000, 4096, 3, 4, 16, false, 0⟩)] } }
/-- Chip 3's mooring 0 is in the outbound credit table (R350). -/
def credited : State := { chip 5 with ring := { (chip 5).ring with ctab := [(3, 0, 65535)] } }
/-- Channel 127 runs a SEND. -/
def sending : State := { chip 5 with td := { Tender.reset with
  ch := [(127, { Chan.idle with
    st := .busy, x := { Xfer.blank with kind := 5 }, reads := [⟨0, 0, 0, 1, none⟩], chunks := [(0, 4)] })] } }
/-- The lead light runs its mark 1. -/
def leadMark (phase : Nat) (now : Nat) (log : Bool) : State := { chip 5 with
  clk := { Clk.reset with ticks := now }
  ring := { (chip 5).ring with mark := { Mark.fresh with started := 1, phase := phase, k := 1 } }
  log := if log then (closing 1).log else Log.reset }

theorem chip_inv (lead : Nat) : (chip lead).Inv := inv_of up_inv rfl

theorem witness_RingDataPackets :
    (moored.Inv ∧ moored.ring.ports.length = 8 ∧
      moored.Comes 7 (hdrOf (dataPkt 0 3 4094)) (dataPkt 0 3 4094).payload (dataPkt 0 3 4094) ∧
      moored.Comes 7 (hdrOf (dataPkt 2 4 0)) (dataPkt 2 4 0).payload (dataPkt 2 4 0)) ∧
    (moored.mooringMet (dataPkt 0 3 4094).moor = (moored.mooring 63, moored.moorGen 63) ∧
      (moored.mooring 63).isOpen = true ∧
      (moored.mooring 63).lo ≤ (dataPkt 0 3 4094).src ∧ (dataPkt 0 3 4094).src ≤ (moored.mooring 63).hi ∧
      (dataPkt 0 3 4094).offset + (dataPkt 0 3 4094).len ≤ (moored.mooring 63).size ∧
      (dataPkt 0 3 4094).pcrc = crc32c (dataPkt 0 3 4094).payload ∧
      moored.secOpen (secOf (0x800000 + (dataPkt 0 3 4094).offset)) = true ∧ (dataPkt 0 3 4094).cls = 0 ∧
      moored.chunkOf (dataPkt 2 4 0) = none) ∧
    (((chip 5).Comes 7 (hdrOf (dataPkt 0 3 0)) (dataPkt 0 3 0).payload (dataPkt 0 3 0) ∧
        (chip 5).mooringMet 63 = ((chip 5).mooring 63, (chip 5).moorGen 63) ∧ ((chip 5).mooring 63).isOpen = false) ∧
      (moored.Comes 7 (hdrOf (dataPkt 0 5 0)) (dataPkt 0 5 0).payload (dataPkt 0 5 0) ∧
        ¬ ((moored.mooring 63).lo ≤ (dataPkt 0 5 0).src ∧ (dataPkt 0 5 0).src ≤ (moored.mooring 63).hi)) ∧
      (moored.Comes 7 (hdrOf (dataPkt 0 3 4096)) (dataPkt 0 3 4096).payload (dataPkt 0 3 4096) ∧
        (moored.mooring 63).size < (dataPkt 0 3 4096).offset + (dataPkt 0 3 4096).len) ∧
      (moored.Comes 7 (hdrOf { dataPkt 0 3 0 with pcrc := 0 }) [1#8, 2#8] { dataPkt 0 3 0 with pcrc := 0 } ∧
        ({ dataPkt 0 3 0 with pcrc := 0 } : Pkt).pcrc ≠ crc32c [1#8, 2#8])) ∧
    ((credited.Comes 7 (hdrOf (small 1 [2#8, 0#8, 0#8, 0#8])) [2#8, 0#8, 0#8, 0#8] (small 1 [2#8, 0#8, 0#8, 0#8]) ∧
        credited.td.ch = [] ∧ credited.ring.ctab.any (fun e => e.1 == 3 && e.2.1 == 0) = true) ∧
      ((chip 5).Comes 7 (hdrOf (small 1 [2#8, 0#8, 0#8, 0#8])) [2#8, 0#8, 0#8, 0#8] (small 1 [2#8, 0#8, 0#8, 0#8]) ∧
        (chip 5).ring.ctab.any (fun e => e.1 == 3 && e.2.1 == 0) = false ∧ (chip 5).ring.ctab.length < 256)) ∧
    (sending.sendOf 127 = some 127 ∧ (sending.chan 127).reads ≠ [] ∧ (sending.chan 127).status = 0 ∧
      (sending.chan 127).fault = none ∧
      sending.Comes 7 (hdrOf (reply 2 [] 127)) [] (reply 2 [] 127) ∧
      sending.Comes 7 (hdrOf (reply 3 [5#8, 0#8, 0#8, 0#8] 127)) [5#8, 0#8, 0#8, 0#8] (reply 3 [5#8, 0#8, 0#8, 0#8] 127) ∧
      ((reply 3 [5#8, 0#8, 0#8, 0#8] 127).payload.getD 1 0#8).toNat % 2 = 0) ∧
    ((chip 5).sendOf 127 = none ∧ (chip 5).sendOf 0 = none ∧ (chip 5).ring.errValid = false ∧ (chip 5).evRoom = true ∧
      (chip 5).Comes 7 (hdrOf (reply 2 [] 127)) [] (reply 2 [] 127) ∧
      (chip 5).Comes 7 (hdrOf (reply 3 [5#8, 0#8, 0#8, 0#8] 127)) [5#8, 0#8, 0#8, 0#8] (reply 3 [5#8, 0#8, 0#8, 0#8] 127) ∧
      (chip 5).Comes 7 (hdrOf (reply 3 [5#8, 0#8, 0#8, 0#8] 0)) [5#8, 0#8, 0#8, 0#8] (reply 3 [5#8, 0#8, 0#8, 0#8] 0)) ∧
    ((chip 5).Comes 7 (hdrOf (small 11 [])) [] (small 11 []) ∧ (chip 5).Comes 7 (hdrOf (small 15 [])) [] (small 15 [])) ∧
    ((chip 4).Comes 7 (hdrOf (small 10 [])) [] (small 10 []) ∧ (chip 4).isLead = false) ∧
    ((leadMark 1 0 false).Comes 7 (hdrOf (small 10 [])) [] (small 10 []) ∧ (leadMark 1 0 false).isLead = true ∧
      (leadMark 1 0 false).ring.mark.phase ≠ 0) ∧
    ((chip 5).Comes 7 (hdrOf (small 10 [])) [] (small 10 []) ∧ (chip 5).ring.mark.phase = 0 ∧
      (looped (small 10 [])).Comes 8 (List.replicate 8 0#32) [] { small 10 [] with port := none }) :=
  ⟨⟨inv_of up_inv rfl, rfl, comes_of (by decide +kernel), comes_of (by decide +kernel)⟩, by decide +kernel,
    ⟨⟨comes_of (by decide +kernel), by decide⟩, ⟨comes_of (by decide +kernel), by decide +kernel⟩,
      ⟨comes_of (by decide +kernel), by decide +kernel⟩, ⟨comes_of (by decide +kernel), by decide +kernel⟩⟩,
    ⟨⟨comes_of (by decide +kernel), by decide⟩, ⟨comes_of (by decide +kernel), by decide⟩⟩,
    ⟨by decide, by decide, by decide, by decide, comes_of (by decide +kernel), comes_of (by decide +kernel), by decide +kernel⟩,
    ⟨by decide, by decide, by decide, by decide, comes_of (by decide +kernel), comes_of (by decide +kernel),
      comes_of (by decide +kernel)⟩,
    ⟨comes_of (by decide +kernel), comes_of (by decide +kernel)⟩, ⟨comes_of (by decide +kernel), by decide⟩,
    ⟨comes_of (by decide +kernel), by decide⟩, comes_of (by decide +kernel), by decide, comes_loop⟩
/-- CREDIT with RESET clear adds, held at 65,535; with RESET set it loads (R350). -/
theorem test_credit : (after (.credit 7 (hdrOf (small 1 [2#8, 0#8, 0#8, 0#8])) [2#8, 0#8, 0#8, 0#8]) credited).ring.ctab =
      [(3, 0, 65535)] ∧
    (after (.credit 7 (hdrOf (small 1 [2#8, 0#8, 1#8, 0#8])) [2#8, 0#8, 1#8, 0#8]) credited).ring.ctab = [(3, 0, 2)] := by
  decide +kernel

/-- A message of a mark's circulation. -/
def circ (kind k : Nat) : Pkt := small kind (markPay k 7 3)
def held : State := { chip 5 with ring := { (chip 5).ring with hold := true, holdPay := List.replicate 16 1#8 } }
/-- All work below 7 is complete. -/
def doneChip : State := { chip 4 with kp := { Keeper.reset with nextseq := 7 } }
def loggingChip : State := { chip 4 with log := logging.log }

theorem witness_RingCirculations :
    ((chip 4).Inv ∧ loggingChip.Inv ∧ (leadMark 1 0 false).Inv ∧ held.Inv ∧ (chip 4).ring.ports.length = 8) ∧
    ((chip 4).isLead = false ∧ (chip 4).evRoom = true ∧ (chip 4).log.en = false ∧ (chip 4).log.close = none ∧
      (chip 4).log.sealedIn = none ∧ (chip 4).belowDone (payS (circ 5 1)) = false ∧ (chip 4).ring.mark.waiters = [] ∧ (chip 4).td.ch = [] ∧
      (chip 4).ring.markLast = payK (circ 7 0) ∧ (chip 4).ring.markLast ≠ payK (circ 7 1) ∧
      (chip 4).Comes 7 (hdrOf (circ 4 1)) (markPay 1 7 3) (circ 4 1) ∧
      (chip 4).Comes 7 (hdrOf (circ 5 1)) (markPay 1 7 3) (circ 5 1) ∧
      (chip 4).Comes 7 (hdrOf (circ 6 1)) (markPay 1 7 3) (circ 6 1) ∧
      (chip 4).Comes 7 (hdrOf (circ 7 0)) (markPay 0 7 3) (circ 7 0) ∧
      (chip 4).Comes 7 (hdrOf (circ 7 1)) (markPay 1 7 3) (circ 7 1) ∧
      (chip 4).Comes 7 (hdrOf (small 8 (List.replicate 16 1#8))) (List.replicate 16 1#8) (small 8 (List.replicate 16 1#8)) ∧
      (chip 4).Comes 7 (hdrOf (small 9 (List.replicate 16 1#8))) (List.replicate 16 1#8) (small 9 (List.replicate 16 1#8))) ∧
    ((doneChip).Comes 7 (hdrOf (circ 5 1)) (markPay 1 7 3) (circ 5 1) ∧ doneChip.Inv ∧ doneChip.isLead = false ∧
      doneChip.log.en = false ∧ doneChip.belowDone (payS (circ 5 1)) = true ∧ doneChip.log.close = none) ∧
    (loggingChip.Comes 7 (hdrOf (circ 5 1)) (markPay 1 7 3) (circ 5 1) ∧ loggingChip.log.en = true ∧
      loggingChip.evRoom = true ∧ loggingChip.isLead = false) :=
  ⟨⟨chip_inv 4, inv_mk rfl (by decide), inv_of up_inv rfl, inv_of up_inv rfl, rfl⟩,
    ⟨by decide, by decide, by decide, by decide, by decide, by decide +kernel, by decide, by decide, by decide, by decide +kernel,
      comes_of (by decide +kernel), comes_of (by decide +kernel), comes_of (by decide +kernel),
      comes_of (by decide +kernel), comes_of (by decide +kernel), comes_of (by decide +kernel),
      comes_of (by decide +kernel)⟩, ⟨comes_of (by decide +kernel), inv_of up_inv rfl, by decide +kernel⟩,
    comes_of (by decide +kernel), by decide⟩

/-- A HOLD's or RELEASE's packet; the lead with that packet under way, and with a RELEASE descriptor that waits. -/
def holdPkt (kind : Nat) : Pkt := small kind (List.replicate 16 1#8)
def circling (kind : Nat) : State := { chip 5 with
  ring := { (chip 5).ring with hold := true, circ := [(kind, List.replicate 16 1#8)] } }
def releasing : State := { circling 9 with
  ring := { (circling 9).ring with relWait := [4] }
  kp := { up.kp with ctlRun := [⟨4, 0, 9, false, 0, [], 0, 0, false, none⟩] } }
theorem witness_RingCirculations_holds :
    (∀ phase ∈ [1, 2], (leadMark phase 0 false).isLead = true ∧
      (8, (holdPkt 8).payload) ∉ (leadMark phase 0 false).ring.circ ∧
      (leadMark phase 0 false).ring.mark.phase = phase ∧ (leadMark phase 0 false).ring.mark.waiters = [] ∧
      (leadMark phase 0 false).ring.mark.again = false) ∧
    (∀ phase ∈ [0, 1, 2], (leadMark phase 0 false).Comes 7 (hdrOf (holdPkt 8)) (List.replicate 16 1#8) (holdPkt 8)) ∧
    (∀ phase ∈ [1, 2], ∀ e, (((leadMark phase 0 false).took 7 (holdPkt 8)).push e).evRoom = true) ∧
    ((leadMark 0 0 false).isLead = true ∧ (leadMark 0 0 false).ring.mark.phase = 0 ∧ (leadMark 0 0 false).ring.circ = []) ∧
    ((circling 8).Comes 7 (hdrOf (holdPkt 8)) (List.replicate 16 1#8) (holdPkt 8) ∧ (circling 8).Inv ∧
      (8, (holdPkt 8).payload) ∈ (circling 8).ring.circ) ∧
    ((circling 9).Comes 7 (hdrOf (holdPkt 9)) (List.replicate 16 1#8) (holdPkt 9) ∧ (circling 9).Inv ∧
      (circling 9).ring.relWait = [] ∧ (circling 9).td.ch = []) ∧
    (releasing.Comes 7 (hdrOf (holdPkt 9)) (List.replicate 16 1#8) (holdPkt 9) ∧ releasing.Inv ∧
      releasing.ring.relWait = [4] ∧ releasing.kp.ctlRun = [⟨4, 0, 9, false, 0, [], 0, 0, false, none⟩] ∧
      releasing.td.ch = []) :=
  ⟨by decide +kernel,
    fun phase h => by
      simp only [List.mem_cons, List.not_mem_nil, or_false] at h
      rcases h with rfl | rfl | rfl <;> exact comes_of (by decide +kernel),
    fun phase h e => by
      simp only [List.mem_cons, List.not_mem_nil, or_false] at h
      rcases h with rfl | rfl <;> rfl,
    by decide, ⟨comes_of (by decide +kernel), inv_of up_inv rfl, by decide +kernel⟩,
    ⟨comes_of (by decide +kernel), inv_of up_inv rfl, by decide, by decide⟩,
    ⟨comes_of (by decide +kernel), inv_of up_inv rfl, by decide +kernel⟩⟩
/-- A HOLD of a chip goes round from the lead (R359), and stops there when it is back. -/
theorem test_hold_lead : (after (.pktHold 7 (hdrOf (holdPkt 8)) (List.replicate 16 1#8)) (chip 5)).ring.circ.length = 1 ∧
    (after (.pktHold 7 (hdrOf (holdPkt 8)) (List.replicate 16 1#8)) (circling 8)).ring.circ = [] ∧
    (after (.pktRelease 7 (hdrOf (holdPkt 9)) (List.replicate 16 1#8)) releasing).kp.ctlRun = [] := by decide +kernel

theorem witness_RingCirculations_lead :
    ((leadMark 1 0 true).isLead = true ∧ (leadMark 1 0 true).evRoom = true ∧
      (leadMark 1 0 true).ring.mark.phase = 1 ∧ (leadMark 1 0 true).ring.mark.k = payK (circ 4 1) ∧ (leadMark 1 0 true).circLate = false ∧
      (leadMark 1 0 true).Comes 7 (hdrOf (circ 4 1)) (markPay 1 7 3) (circ 4 1)) ∧
    ((leadMark 2 0 true).ring.mark.phase = 2 ∧ (leadMark 2 0 true).ring.mark.k = payK (circ 5 1) ∧ (leadMark 2 0 true).log.close ≠ none ∧
      (leadMark 2 0 true).Comes 7 (hdrOf (circ 5 1)) (markPay 1 7 3) (circ 5 1)) ∧
    ((leadMark 2 3 false).ring.mark.phase = 2 ∧ (leadMark 2 3 false).log.close = none ∧
      (leadMark 2 3 false).log.sealedIn = none ∧ (leadMark 2 3 false).ring.mark.waiters = [] ∧
      (leadMark 2 3 false).ring.mark.k = payK (circ 5 1) ∧
      (let s := leadMark 2 3 false
      s.clk.ticks - s.ring.mark.sentAt ≤ 53125 * max 1 s.ring.sealLimit ∧
        8 * (s.clk.ticks - s.ring.mark.sentAt - payHeld (circ 5 1)) ≤ 425 * max 1 s.ring.markTimeout) ∧
      (leadMark 2 3 false).Comes 7 (hdrOf (circ 5 1)) (markPay 1 7 3) (circ 5 1)) ∧
    (((leadMark 3 0 true).ring.mark.phase = 3 ∧ (leadMark 3 0 true).ring.mark.k = payK (circ 6 1)) ∧
      (leadMark 3 0 true).circLate = false ∧ (leadMark 3 0 true).ring.mark.again = false ∧
      (leadMark 3 0 true).Comes 7 (hdrOf (circ 6 1)) (markPay 1 7 3) (circ 6 1)) ∧
    ((leadMark 1 53126 true).circLate = true ∧ (leadMark 1 53125 true).circLate = false ∧
      (leadMark 1 53126 true).Comes 7 (hdrOf (circ 4 1)) (markPay 1 7 3) (circ 4 1) ∧
      (leadMark 3 53126 true).circLate = true ∧ (leadMark 3 53126 true).evRoom = true ∧
      (leadMark 3 53126 true).Comes 7 (hdrOf (circ 6 1)) (markPay 1 7 3) (circ 6 1)) ∧
    (leadMark 3 0 true).Comes 7 (hdrOf (circ 7 1)) (markPay 1 7 3) (circ 7 1) ∧
    ((ctlAsked (chip 5) [8]).CtlNext (descOf [8]) [] 8 ∧ (ctlAsked (chip 5) [8]).isLead = true ∧
      (ctlAsked (chip 5) [8]).ring.mark.phase = 0) ∧
    ((ctlAsked (chip 4) [8]).CtlNext (descOf [8]) [] 8 ∧ (ctlAsked (chip 4) [9]).CtlNext (descOf [9]) [] 9 ∧
      (ctlAsked (chip 4) [9]).isLead = false) ∧
    ((ctlAsked held [9]).CtlNext (descOf [9]) [] 9 ∧ (ctlAsked held [9]).isLead = true ∧
      (ctlAsked held [9]).ring.holdPay.length = 16) :=
  ⟨⟨by decide, by decide, by decide, by decide, by decide, comes_of (by decide +kernel)⟩,
    ⟨by decide, by decide, by decide, comes_of (by decide +kernel)⟩,
    ⟨by decide, by decide, by decide, by decide, by decide +kernel, by decide +kernel, comes_of (by decide +kernel)⟩,
    ⟨by decide, by decide, by decide, comes_of (by decide +kernel)⟩,
    ⟨by decide, by decide, comes_of (by decide +kernel), by decide, by decide, comes_of (by decide +kernel)⟩,
    comes_of (by decide +kernel), ⟨ctlNext_of (by decide), by decide⟩,
    ⟨ctlNext_of (by decide), ctlNext_of (by decide), by decide⟩, ctlNext_of (by decide), by decide⟩
/-- MARK_TIMEOUT resets to 1,000 microseconds, 53,125 maintenance ticks (R364, R472): a MARK that comes round later
starts no SEAL (R357). -/
theorem test_mark_late : (after (.pktMark 7 (hdrOf (circ 4 1)) (markPay 1 7 3)) (leadMark 1 53125 true)).ring.mark.phase = 2 ∧
    (after (.pktMark 7 (hdrOf (circ 4 1)) (markPay 1 7 3)) (leadMark 1 53126 true)).ring.mark.phase = 1 := by decide +kernel

/-! ### Witnesses: sends, marks and faults -/

/-- Chip 5 sends chips 0 to 65535 through port 6. -/
def routed : State := { chip 5 with ring := { (chip 5).ring with
  rt := 0xFFFF0000#32 :: List.replicate 31 0#32, rtport := [0xE#32, 0#32, 0#32, 0#32] } }
/-- A packet for chip 77 that has come `hops` hops. -/
def passing (hops : Nat) : Pkt :=
  let p : Pkt := { dataPkt 0 3 0 with dst := 77, hops := hops }
  { p with hcrc := p.headCrc }
/-- Port 7 holds an own and a forwarded packet. -/
def queued (loc fwd : List Pkt) : State := { chip 5 with ring := { (chip 5).ring with
  ports := List.replicate 7 livePort ++ [{ livePort with loc := loc, fwd := fwd }] } }
/-- An earlier packet of class 0 waits in port 7's arrival buffer. -/
def backlog : State := { routed with ring := { routed.ring with
  ports := List.replicate 7 livePort ++ [{ livePort with held := [dataPkt 0 3 0] }] } }
def ownPkt : Pkt := { circ 4 1 with port := none, dst := 6 }
def waitingSend (w : Nat) : State := { chip 5 with td := { Tender.reset with
  ch := [(127, { Chan.idle with st := .busy, x := { Xfer.blank with kind := 5 }, waited := w })] } }

theorem witness_RingSends :
    ((chip 5).Inv ∧ routed.Inv ∧ (queued [ownPkt] []).Inv ∧ (waitingSend 0).Inv ∧ routed.ring.ports.length = 8) ∧
    (passing 254 = Pkt.ofHdr (hdrOf (passing 254)) (passing 254).payload (some (7 : Fin 8).val) ∧
      passing 255 = Pkt.ofHdr (hdrOf (passing 255)) (passing 255).payload (some (7 : Fin 8).val) ∧
      (hdrOf (passing 254)).length = 8 ∧ (passing 254).payload.length < 512 ∧ routed.portLive (7 : Fin 8) = true ∧
      (passing 254).headerOk = true ∧ (passing 255).headerOk = true ∧
      (routed.rport (7 : Fin 8)).used.getD (passing 254).cls 0 + (passing 254).cost ≤ bufferUnits (passing 254).cls ∧
      (passing 254).dst ≠ routed.ring.chipId ∧ routed.arrivalBlocked (some (7 : Fin 8).val) (passing 254).cls = false ∧
      routed.behindHeld (passing 254) = false ∧ routed.behindHeld (passing 255) = false ∧
      backlog.behindHeld (passing 254) = true ∧ backlog.portLive (7 : Fin 8) = true ∧
      (backlog.rport (7 : Fin 8)).used.getD (passing 254).cls 0 + (passing 254).cost ≤ bufferUnits (passing 254).cls ∧
      (chip 5).behindHeld (passing 254) = false ∧
      (passing 254).hops ≠ 255 ∧ (passing 255).hops = 255 ∧ routed.ring.route (passing 254).dst = some 6 ∧
      routed.ring.errValid = false ∧ (chip 5).ring.route (passing 254).dst = none ∧
      (chip 5).portLive (7 : Fin 8) = true) ∧
    (let s := queued [ownPkt] [];
      s.portLive (7 : Fin 8) = true ∧ ownPkt.kind ≠ 0 ∧ ownPkt.cls = 0 ∧ ownPkt.ctl = none ∧
      (s.rport (7 : Fin 8)).out.length = 3 ∧ ownPkt.cost ≤ (s.rport (7 : Fin 8)).out.getD 0 0 ∧
      (s.rport (7 : Fin 8)).loc = [ownPkt] ∧ (s.rport (7 : Fin 8)).fwd = [] ∧ ownPkt.port = none) ∧
    (let s := queued [] [circ 4 1];
      s.portLive (7 : Fin 8) = true ∧ (circ 4 1).kind ≠ 0 ∧ (circ 4 1).cls = 0 ∧ (circ 4 1).ctl = none ∧
      (s.rport (7 : Fin 8)).out.length = 3 ∧ (circ 4 1).cost ≤ (s.rport (7 : Fin 8)).out.getD 0 0 ∧
      (s.rport (7 : Fin 8)).loc = [] ∧ (s.rport (7 : Fin 8)).fwd = [circ 4 1] ∧ (circ 4 1).port = some (7 : Fin 8).val ∧
      (s.rport (7 : Fin 8)).started = true) ∧
    (((chip 5).rport (7 : Fin 8)).loc = [] ∧ ((chip 5).rport (7 : Fin 8)).fwd = []) ∧
    (let s := waitingSend (2 ^ 24 + 1);
      s.stallLimit = some (2 ^ 24) ∧ (s.chan (127 : Fin 128)).st = .busy ∧ (s.chan (127 : Fin 128)).x.kind = 5 ∧
      2 ^ 24 < (s.chan (127 : Fin 128)).waited ∧ ((waitingSend (2 ^ 24)).chan (127 : Fin 128)).waited ≤ 2 ^ 24) :=
  ⟨⟨chip_inv 5, inv_of up_inv rfl, inv_of up_inv rfl, inv_mk rfl (by decide), rfl⟩, by decide +kernel⟩

/-- A restraint runs since tick 0. -/
def restrained (now : Nat) : State := { chip 4 with
  clk := { Clk.reset with ticks := now }
  ring := { (chip 4).ring with mark := { Mark.fresh with restraint := some (3, 0, false) } } }
/-- A launch at the lead light, with an epoch of a tenth of a second. -/
def epochRuns (n : Nat) : State := { running with
  ring := { (chip 5).ring with epochRun := n }, log := { Log.reset with epoch := 1 } }
/-- The Logbook has dirty granule 8191 in area A. -/
def mirroring (isOpen : Bool) : State := { up with
  log := { logging.log with areaOpen := isOpen, dirtyA := [(8191, true)] } }
def sealHere (phase : Nat) (held : Bool) : State := { chip 4 with
  log := { (closing phase).log with pend := [], dirtyA := [(8191, true)] }
  ring := { (chip 4).ring with mark := { Mark.fresh with sealHeld := if held then some (9, 0) else none } } }
def restoring (phase : Nat) : State := { up with
  log := { Log.reset with rbusy := true, restore := some ⟨false, false, phase, List.replicate 8192 1#8, [], []⟩ } }

/-- A HOLD has ended the lead light's mark (R358). -/
def markHeld : State := { leadMark 2 0 false with
  ring := { (leadMark 2 0 false).ring with mark := { (leadMark 2 0 false).ring.mark with abortDue := true } } }
/-- A close with LOG_CFG.EN = 0, its work below `seq` over or not (R403). -/
def closeOff (seq : Nat) (held : Bool) : State := { sealHere 0 held with
  log := { (sealHere 0 held).log with en := false, close := some ⟨5, seq, 0, false, [], 0⟩ } }
/-- A granule's mirroring read is under way at the capture. -/
def capturing : State := { sealHere 0 true with log := { (sealHere 0 true).log with reading := [(8191, 3)] } }

theorem witness_MarksAndCloses :
    ((leadMark 3 53126 false).Inv ∧ (restrained 0).Inv ∧ (epochRuns 0).Inv ∧ (mirroring true).Inv ∧
      (sealHere 0 true).Inv ∧ (restoring 2).Inv ∧ (restoring 2).ring.ports.length = 8) ∧
    (let s := leadMark 3 53126 false;
      s.isLead = true ∧ s.ring.mark.phase ≠ 0 ∧ s.circLate = true ∧ s.evRoom = true ∧ s.ring.mark.waiters = [] ∧
      s.ring.mark.again = false) ∧
    ((leadMark 3 53125 false).circLate = false ∧ (leadMark 3 53125 false).ring.mark.abortDue = false ∧
      markHeld.circLate = false ∧ markHeld.ring.mark.abortDue = true ∧ markHeld.isLead = true ∧
      markHeld.ring.mark.phase ≠ 0 ∧ markHeld.evRoom = true ∧ markHeld.ring.mark.waiters = [] ∧
      markHeld.ring.mark.again = false) ∧
    ((restrained 53126).ring.mark.restraint = some (3, 0, false) ∧ (restrained 53126).evRoom = true ∧
      425 * max 1 (restrained 53126).ring.markTimeout < 8 * ((restrained 53126).clk.ticks - 0) ∧
      8 * ((restrained 53125).clk.ticks - 0) ≤ 425 * max 1 (restrained 53125).ring.markTimeout ∧
      up.ring.mark.restraint = none) ∧
    (let s := epochRuns 5312500;
      s.isLead = true ∧ s.wrun = true ∧ s.log.epoch ≠ 0 ∧ min 600 s.log.epoch * 5312500 ≤ s.ring.epochRun ∧
      s.rst.pstate = 0 ∧ s.ring.mark.phase = 0 ∧ (epochRuns 5312499).ring.epochRun < min 600 s.log.epoch * 5312500) ∧
    (let s := sealHere 0 true;
      s.log.close = some ⟨5, 0, 0, false, [], 0⟩ ∧ s.log.en = true ∧ s.log.err = false ∧ s.belowDone 0 = true ∧
      closingAhead.log.en = true ∧ closingAhead.log.err = false ∧ closingAhead.belowDone 3 = false ∧ s.asyncQuiet = true ∧
      s.log.reading = [] ∧ paused.asyncQuiet = false ∧ capturing.log.close = some ⟨5, 0, 0, false, [], 0⟩ ∧
      capturing.log.err = false ∧ capturing.belowDone 0 = true ∧ capturing.asyncQuiet = true ∧
      capturing.log.reading = [(8191, 3)]) ∧
    (let s := sealHere 4 true;
      s.log.close = some ⟨5, 0, 4, false, [], 0⟩ ∧ s.evRoom = true ∧ s.ring.mark.sealHeld = some (9, 0) ∧
      s.isLead = false ∧ (sealHere 4 false).ring.mark.sealHeld = none) ∧
    (∀ held ∈ [true, false], ∀ seq ∈ [0, 3], let s := closeOff seq held;
      s.log.close = some ⟨5, seq, 0, false, [], 0⟩ ∧ s.log.en = false ∧ s.belowDone seq = (seq == 0) ∧ s.evRoom = true ∧
      s.ring.mark.sealHeld = (if held then some (9, 0) else none) ∧ s.isLead = false) ∧
    up.log.close = none ∧
    (let s := mirroring true;
      s.log.en = true ∧ s.log.err = false ∧ s.log.rbusy = false ∧ s.log.paused = false ∧ s.rst.ready = true ∧
      s.hasSlot 8191 = true ∧
      s.rst.pstate = 0 ∧ s.flt.fatal = false ∧ s.log.reading = [] ∧ s.log.close = none ∧ s.log.areaOpen = true ∧
      (s.log.dirty s.log.openB).find? (fun x => s.log.next ≤ x.1) = some (8191, true)) ∧
    ((mirroring false).log.areaOpen = false ∧ (mirroring false).logWriting = false ∧
      (mirroring false).log.dirty (mirroring false).log.openB ≠ [] ∧ (mirroring false).flt.fatal = false ∧ up.log.en = false) ∧
    (restoring 2).flt.fatal = false ∧ (restoring 2).log.restore = some ⟨false, false, 2, List.replicate 8192 1#8, [], []⟩ ∧
    (∀ r, up.log.restore = some r → r.phase ≠ 2) :=
  ⟨⟨inv_of up_inv rfl, inv_of up_inv rfl, inv_of up_inv rfl, inv_mk rfl (by decide), inv_mk rfl (by decide),
      inv_mk rfl (by decide), rfl⟩, by decide, by decide, by decide, by decide, by decide, by decide, by decide, rfl, by decide,
    by decide, rfl, rfl, fun _ h => nomatch h⟩
/-- Without the Logbook a held SEAL goes on, and no mark is kept (R403). -/
theorem test_close_off : (after .closeComplete (closeOff 0 true)).log.close = none ∧
    (after .closeComplete (closeOff 0 true)).log.haveMark = false ∧
    (after .closeComplete (closeOff 0 true)).ring.mark.sealHeld = none ∧
    (after .closeComplete (closeOff 3 true)).log.close = some ⟨5, 3, 0, false, [], 0⟩ := by decide +kernel
/-- The capture keeps the torn granule pending, and it is read again (R404). -/
theorem test_capture : (after .closeCapture capturing).log.pend = [(8191, true)] ∧
    (after .closeCapture capturing).log.torn = [(8191, true)] ∧
    (after .markTimeout markHeld).ring.mark.phase = 0 := by decide
/-- LOG_EPOCH counts tenths of a second (R417): 5,312,500 maintenance ticks (R472). -/
theorem test_epoch : (after .epochTimer (epochRuns 5312500)).ring.mark.phase = 1 ∧
    (after .epochTimer (epochRuns 5312499)).ring.mark.phase = 0 := by decide

/-- An error waits at a chip whose lead light is chip 4 behind port 6. -/
def errOf (k phys : Nat) (covered : Bool) : ErrRec := ⟨k, 4, phys, 0xFF, 0, 0, 0, false, covered⟩
def broken (k phys : Nat) (covered : Bool := false) : State := { routed with
  errs := [errOf k phys covered], ring := { routed.ring with leadId := 4 } }
/-- Cluster 32 is to take index 31 from cluster 3 (R395), with its power on or still asked for. -/
def swapping (on : Bool) (errs : List ErrRec) : State := { up with
  flt := { Flt.reset with swapFor := [⟨31, 32, on, 3⟩], swap := true, seqbusy := true }, errs := errs }
def notReady : State := { up with rst := { up.rst with ready := false } }
/-- No sector spare is left. -/
def spareless : State := { broken 2 66 with map := { Maps.reset with psec := List.replicate 68 .mapped } }

theorem witness_Faults :
    (notReady.Inv ∧ up.Inv ∧ (broken 7 3).Inv ∧ (swapping true []).Inv ∧ (swapping false [errOf 1 32 false]).Inv) ∧
    (notReady.rst.ready = false ∧ up.errs = [] ∧ up.ring.ports.length = 8 ∧ up.map.pc.length = 34 ∧
      up.map.psec.length = 68 ∧ up.map.home.length = 32) ∧
    (({ broken 7 3 with rst := { up.rst with pstate := 2 } } : State).unitsOff = true ∧
      (let s := swapping true [errOf 7 3 false];
        s.flt.seqbusy = true ∧ (∀ x ∈ s.errs, s.aboutSpare x = false) ∧ s.errs = [errOf 7 3 false]) ∧
      (broken 0 0).errs = [errOf 0 0 false] ∧ (broken 13 0).errs = [errOf 13 0 false] ∧ (broken 0 0).rst.ready = true) ∧
    (let s := broken 7 3;
      s.flt.seqbusy = false ∧ s.unitsOff = false ∧ s.evWaiting < 68 ∧ s.ring.en = true ∧ s.ring.leadId ≠ s.ring.chipId ∧
      s.ring.route s.ring.leadId = some 6 ∧ (errOf 7 3 false).covered = false ∧ (errOf 7 3 true).covered = true ∧
      (broken 7 3 true).errs = [errOf 7 3 true] ∧ (broken 7 3 true).flt.seqbusy = false) ∧
    ((broken 1 33).errs = [errOf 1 33 false] ∧ (broken 1 33).clusterAsking = false ∧
      ({ broken 1 33 with pwr := { up.pwr with reqs := [(2, 1)] } } : State).clusterAsking = true ∧
      (broken 12 0).errs = [errOf 12 0 false] ∧ (broken 10 0).errs = [errOf 10 0 false] ∧
      (broken 3 0).errs = [errOf 3 0 false]) ∧
    (∀ s ∈ [broken 2 66, spareless], s.errs = [errOf 2 66 false] ∧ s.psecOf (63 : Fin 64) = some 66 ∧
      (∀ j < 64, s.psecOf j = some 66 → j = (63 : Fin 64).val) ∧ s.map.psec.getD 66 .fenced ≠ .spare) ∧
    (((broken 2 66).pickSector 66).isSome = true ∧ spareless.pickSector 66 = none) ∧
    ((∀ on ∈ [true, false], (swapping on []).flt.swapFor = [⟨31, (32 : Fin 34).val, on, 3⟩]) ∧
      (swapping true []).evWaiting < 68 ∧ up.flt.swapFor = [] ∧
      (let s := swapping false [errOf 1 32 false];
        s.flt.seqbusy = true ∧ s.errs = [errOf 1 32 false] ∧ (errOf 1 32 false).phys = (32 : Fin 34).val ∧
        s.rst.ready = true ∧ s.unitsOff = false ∧ s.evWaiting < 68)) :=
  ⟨⟨inv_of up_inv rfl, up_inv, inv_of up_inv rfl, inv_of up_inv rfl, inv_of up_inv rfl⟩, by decide +kernel⟩
/-- FAULT's P0 is unit kind, reason, physical and logical number (R397); index 31 is then served by cluster 32. -/
theorem test_fault : (after (.faultSequencerStart none) (broken 7 3)).evq.map (fun e => (e.typ, e.p0)) =
      [(0x0B, 0xFF030407)] ∧
    (after (.spareBistDone 32 true) (swapping true [])).map.cl.getD 31 none = some 32 := by decide +kernel
/-- A sector's spare is lit before the map names it; with none left the index is unbacked (R64, R65). -/
theorem test_sector_fault : (after (.faultSequencerStart none) (broken 2 66)).psecOf 63 = some 66 ∧
    (after (.faultSequencerStart none) (broken 2 66)).flt.seqbusy = true ∧
    (after (.faultSequencerStart none) spareless).psecOf 63 = none := by decide +kernel
/-- A spare that fails is fenced and reported (R395). -/
theorem test_spare_fault :
    (after (.faultSequencerStart none) (swapping false [errOf 1 32 false])).map.pc.getD 32 .spare = .fenced ∧
    (after (.faultSequencerStart none) (swapping false [errOf 1 32 false])).evq.map (fun e => e.p0) =
      [1 + 4 * 256 + 32 * 65536 + 31 * 2 ^ 24] := by decide +kernel


/-! ### Witnesses: clocks, resets and Eclipse -/

/-- A Foghorn throttle in force since tick 0, the condition gone or not. -/
def throttled (fognow : Bool) (now : Nat) : State := { up with
  clk := { Clk.reset with fogThr := true, ticks := now }, flt := { Flt.reset with lastFog := some 0, fognow := fognow } }
def dividing (ckr : Nat) : State := { up with clk := { Clk.reset with ckr := ckr, divTarget := some 4 } }

theorem witness_Clocks : (up.rst.por = false ∧ up.flt.fognow = false ∧ up.clk.fogThr = false ∧ up.clk.divTarget = none) ∧
    (throttled true 0).flt.fognow = true ∧
    ((throttled false 512).flt.lastFog = some 0 ∧ (throttled false 512).clk.fogThr = true ∧
      (throttled false 512).flt.fognow = false ∧
      0 + max 1 (throttled false 512).clk.fogHold * 64 ≤ (throttled false 512).clk.ticks ∧
      (throttled false 511).clk.ticks < 0 + max 1 (throttled false 511).clk.fogHold * 64) ∧
    ((dividing 8).clk.divTarget = some 4 ∧ (dividing 8).clk.ckr % 8 = 0 ∧ (dividing 9).clk.ckr % 8 ≠ 0 ∧
      (dividing 8).clk.askedAt ≠ some ((dividing 8).clk.ckr / 8) ∧ (dividing 8).divHeld = false ∧
      (dividing 8).clk.stopped = false) := by decide

/-- Bring-up states; power-on reset; Eclipse and the ways into it and out of it. -/
def bringUp (por brown brst : Bool) (phase pstate : Nat) : State := { up with
  rst := { Rst.reset with por := por, brown := brown, brst := brst, phase := phase, pstate := pstate } }
def loading (n : Nat) (locked : Bool) : State := { bringUp false false false 0 0 with
  dm := ⟨List.replicate 32 0#32, locked, false, n⟩ }
def asking (d : Nat) : State := { bringUp false false false 1 0 with pwr := ⟨[], [(d, 1)], [(d, 3)], [], [], []⟩ }
/-- The 1 ms of its request have passed, or have one cycle of the 425 MHz clock to go (R462, R472). -/
def askedLong (ckr : Nat) : State := { asking 107 with clk := { Clk.reset with ckr := ckr } }
/-- Sector 63 is being lit. -/
def lightAsks : State := { asking 100 with pwr := { (asking 100).pwr with lightOn := [(63, true)] } }

/-- Cluster 33 has been fenced while its power was asked for. -/
def fencedAsking : State := { asking 33 with map := { Maps.reset with pc := Maps.reset.pc.set 33 .fenced } }

theorem witness_ResetsAndBringUp :
    (up.Inv ∧ (bringUp true false false 0 0).Inv ∧ (bringUp false false false 0 2).Inv ∧ (loading 31 false).Inv ∧
      (asking 107).Inv ∧ up.ring.ports.length = 8 ∧ up.map.pc.length = 34) ∧
    ((bringUp true false false 0 0).rst.por = true ∧ (bringUp true false false 0 0).rst.brown = false ∧
      (bringUp true false false 0 0).rst.brst = false ∧ (bringUp true true false 0 0).rst.brown = true ∧
      (bringUp true false true 0 0).rst.brst = true) ∧
    (up.rst.por = false ∧ up.unitsOff = false ∧ (bringUp false false false 0 2).unitsOff = true ∧
      (bringUp false false false 0 2).rst.por = false ∧ up.rst.phase ≠ 4 ∧ up.flt.swapFor = [] ∧ up.flt.secSwap = none ∧
      (31 : Nat) < (swapping true []).map.home.length ∧ (swapping true []).flt.swapFor = [⟨31, 32, true, 3⟩] ∧
      (swapping true []).unitsOff = false) ∧
    ((loading 32 true).dm.locked = true ∧ (loading 31 false).rst.por = false ∧ (loading 31 false).dm.locked = false ∧
      (loading 31 false).dm.nwords < 32 ∧ (loading 31 false).powerBusy 33 = false ∧
      sget false (loading 31 false).pwr.on 107 = false ∧ (loading 31 false).map.pc.getD 33 .spare ≠ .fenced) ∧
    ((bringUp false false false 2 0).rst.por = false ∧ (bringUp false false false 2 0).rst.brst = false ∧
      (bringUp false false false 2 0).tw.held = false ∧ (bringUp false false false 2 0).clusterPowerWait = false ∧
      (bringUp false false false 4 0).clusterPowerWait = false ∧ (bringUp false false false 2 0).rst.phase = 2 ∧
      (2 ^ 33 : BitVec 34).getLsbD (33 : Fin 34).val = true ∧
      (bringUp false false false 2 0).map.pc.getD (33 : Fin 34).val .fenced ≠ .fenced ∧
      (bringUp false false false 2 0).powerBusy (33 : Fin 34).val = false ∧
      (bringUp false false false 4 0).rst.phase = 4 ∧ up.rst.phase ≠ 2) :=
  ⟨⟨up_inv, inv_of up_inv rfl, ⟨up_inv.1, up_inv.2.1, up_inv.2.2.1, by decide, up_inv.2.2.2.2⟩,
    ⟨up_inv.1, ⟨rfl, by decide, by decide⟩, up_inv.2.2.1, by decide, up_inv.2.2.2.2⟩, inv_of up_inv rfl, rfl, rfl⟩,
    by decide⟩
theorem witness_ResetsAndBringUp_power :
    (108 ≤ (108#7).toNat ∧ (107#7).toNat < 108 ∧ up.powerBusy (107#7).toNat = false ∧
      (102 ≤ (107#7).toNat ∧ (asking 107).pwr.reqs = [((107#7).toNat, 1)] ∧ (asking 107).pwr.offDue = [] ∧
        (asking 107).rst.pstate ≠ 3 ∧ (asking 107).flt.swapFor = [] ∧ (asking 107).domUnwanted (107#7).toNat = false ∧
        sget 0 (askedLong (3 + oneMs)).pwr.asked (107#7).toNat + oneMs ≤ (askedLong (3 + oneMs)).clk.ckr ∧
        (askedLong (2 + oneMs)).clk.ckr < sget 0 (askedLong (2 + oneMs)).pwr.asked (107#7).toNat + oneMs) ∧
      ((33#7).toNat < 34 ∧ (asking 33).pwr.reqs = [((33#7).toNat, 1)] ∧ (asking 33).rst.phase = 1 ∧
        (asking 33).map.pc.getD (33#7).toNat .spare ≠ .fenced ∧ fencedAsking.map.pc.getD (33#7).toNat .spare = .fenced ∧
        fencedAsking.pwr.reqs = [((33#7).toNat, 1)]) ∧
      (34 ≤ (100#7).toNat ∧ (100#7).toNat < 102 ∧ lightAsks.pwr.reqs = [((100#7).toNat, 1)] ∧ lightAsks.pwr.offDue = [] ∧
        lightAsks.rst.pstate ≠ 3 ∧ lightAsks.flt.swapFor = [] ∧ lightAsks.domUnwanted (100#7).toNat = false)) := by decide
/-- A Lit sector stays Lit over a block reset and the rest of the sectors stay Dark (R435). -/
theorem test_block_reset : ((after .blockReset running).secCtl 1).st = .lit ∧ (after .blockReset running).wrun = false ∧
    (after .blockReset running).kp.nextseq = 0 := by decide +kernel

/-- An ECLIPSE descriptor waits. -/
def eclipsing (s : State) (pstate : Nat) (wake : Option Bool) : State := { s with
  rst := { s.rst with eclipse := some 1, pstate := pstate, wakeHeld := wake, retained := [0] } }
def heldTest : State := { up with tw := ⟨true, 1, true, true⟩ }
def lockedMark : State := { up with dm := ⟨List.replicate 32 5#32, true, true, 32⟩ }

/-- A cluster's power is on as entry goes down. -/
def withPower (d : Nat) : State := { eclipsing up 1 none with pwr := { up.pwr with on := [(d, true)] } }
/-- Entry waits for the answers of its last power requests. -/
def entering (reqs : List (Nat × Nat)) : State := { up with
  rst := { up.rst with pstate := 1, entered := true }, pwr := { up.pwr with reqs := reqs } }

/-- The last power-up of a wake is unanswered; and every request of one is answered. -/
def waking : State := { eclipsing up 3 none with pwr := { up.pwr with reqs := [(107, 1)] } }
def awake : State := { eclipsing up 3 none with rst := { (eclipsing up 3 none).rst with resumed := true } }

theorem eclipsing_inv {s : State} (p : Nat) (w : Option Bool) (h : s.Inv) (hp : p ≤ 3) : (eclipsing s p w).Inv :=
  ⟨h.1, h.2.1, h.2.2.1, hp, h.2.2.2.2⟩

theorem witness_EclipseAndWrapper :
    (up.Inv ∧ (eclipsing up 0 none).Inv ∧ (eclipsing (withWindow (.fetch 0)) 0 none).Inv ∧ (eclipsing pausedStream 0 none).Inv ∧
      (eclipsing up 1 none).Inv ∧ (eclipsing up 2 (some true)).Inv ∧ (eclipsing up 3 none).Inv ∧ heldTest.Inv ∧
      lockedMark.Inv ∧ up.rst.eclipse = none ∧ up.rst.entered = false ∧ up.ring.ports.length = 8) ∧
    (let s := eclipsing up 0 none;
      s.rst.eclipse = some 1 ∧ s.rst.pstate = 0 ∧ s.rst.entered = false ∧ s.errs = [] ∧ s.evRoom = true ∧
      s.quiescent = true) ∧
    ((eclipsing (withWindow (.fetch 0)) 0 none).quiescent = false ∧ (eclipsing pausedStream 0 none).wrun = true ∧
      (eclipsing pausedStream 0 none).rst.eclipse = some 1 ∧ (eclipsing pausedStream 0 none).rst.pstate = 0) ∧
    (let s := eclipsing (broken 6 1) 0 none;
      s.rst.eclipse = some 1 ∧ s.errs = [errOf 6 1 false] ∧ s.rst.ready = true ∧ s.unitsOff = false ∧
      s.flt.seqbusy = false ∧ s.evWaiting < 68) ∧
    ((eclipsing up 1 none).rst.pstate = 1 ∧ (eclipsing up 1 none).rst.entered = false ∧ (eclipsing up 1 none).entryReady = true ∧
      (eclipsing up 1 none).secCtl 1 = { SecCtl.fresh with st := .lit } ∧ (eclipsing up 1 none).psecOf 1 = some 1 ∧
      sget false (withPower 33).pwr.on 33 = true ∧ (withPower 33).entryReady = true ∧
      (eclipsing (eventWaits 3) 1 none).entryReady = false ∧ (eclipsing up 1 none).errs = [] ∧
      (eclipsing (broken 6 1) 1 none).errs ≠ [] ∧ (∀ k < 64, ((eclipsing up 1 none).psecOf k).getD 0 < 68)) ∧
    ((entering []).rst.entered = true ∧ (entering [(3, 0)]).pwr.reqs ≠ [] ∧ (entering []).pwr.reqs = [] ∧
      (entering []).rst.resetHeld = false) ∧
    (up.rst.por = false ∧ up.unitsOff = false ∧ up.flt.swapFor = [] ∧ up.flt.secSwap = none ∧ up.tw.held = false ∧
      up.dm.locked = false) ∧
    (heldTest.tw.held = true ∧ heldTest.rst.por = false ∧ heldTest.unitsOff = false ∧ heldTest.flt.swapFor = [] ∧
      heldTest.flt.secSwap = none) ∧ lockedMark.dm.locked = true := by
  refine ⟨⟨up_inv, eclipsing_inv _ _ up_inv (by decide), eclipsing_inv _ _ (inv_of up_inv rfl) (by decide),
    eclipsing_inv _ _ (inv_of up_inv rfl) (by decide), eclipsing_inv _ _ up_inv (by decide),
    eclipsing_inv _ _ up_inv (by decide), eclipsing_inv _ _ up_inv (by decide),
    ⟨up_inv.1, up_inv.2.1, ⟨by decide, by decide⟩, up_inv.2.2.2⟩,
    ⟨up_inv.1, ⟨rfl, by decide, by decide +kernel⟩, up_inv.2.2⟩, rfl, rfl, rfl⟩, ?_⟩
  decide +kernel
theorem witness_EclipseAndWrapper_wake :
    (let s := eclipsing up 2 (some true);
      s.rst.pstate = 2 ∧ s.rst.wakeHeld = some true ∧ s.pwr.reqs = [] ∧ s.rst.wasOn = [] ∧
      ({ s with rst := { s.rst with wasOn := [3] } } : State).rst.wasOn ≠ [] ∧
      ({ s with clk := { s.clk with stopped := true } } : State).clk.stopped = true ∧ s.flt.fenced = []) ∧
    (let s := waking;
      s.rst.pstate = 3 ∧ s.rst.resumed = false ∧ s.rst.por = false ∧ 102 ≤ (107#7).toNat ∧
      s.pwr.reqs = [((107#7).toNat, 1)] ∧ s.pwr.offDue = [] ∧ s.flt.swapFor = [] ∧
      s.domUnwanted (107#7).toNat = false ∧ s.rst.retained = [0] ∧ s.psecOf 0 = some 0) ∧
    (let s := awake;
      s.rst.pstate = 3 ∧ s.rst.resumed = true ∧ s.pwr.reqs = [] ∧ s.rst.resetHeld = false) := by decide
/-- PSTATE goes on reading Entering until the last answers have come (R429), and a discard refuses ECLIPSE. -/
theorem test_entry : (after .eclipseEntry (withPower 33)).rst.pstate = 1 ∧ (after .eclipseEntry (entering [])).rst.pstate = 2 ∧
    (after .eclipseEntry (entering [])).clk.stopped = true ∧
    (after (.faultSequencerStart none) (eclipsing (broken 6 1) 0 none)).rst.eclipse = none := by decide +kernel
/-- The wake makes retained sectors Lit (R431). -/
theorem test_wake : ((after .eclipseWake { awake with
      osura := { up.osura with secs := [(0, { SecCtl.fresh with st := .retention })] } }).secCtl 0).st = .lit ∧
    (after (.sbPowerAnswer 107#7 false) waking).pwr.reqs = [(34, 3)] := by decide
end Sys2Proof.Tests
end

namespace Sys2Proof.Machine

/-! ### Starting a Control descriptor (R377 to R379) -/

/-- The started Control descriptors are `runs`. -/
def State.withRuns (s : State) (runs : List CtlRun) : State := { s with kp := { s.kp with ctlRun := runs } }

/-- An action that waits leaves the state as it was. -/
theorem State.CtlNext.startCtl_wait {s : State} {d : Desc} {rest : List Desc} {op : Nat} (h : s.CtlNext d rest op)
    {act : Desc → Nat → State → CtlOut} (ha : act d s.kp.ctlNum (enterCtl d [] 0 d.cevt false s) = .wait) :
    startCtl op act s = .next s := by
  obtain ⟨htaken, hstart, hfields, hop⟩ := h
  simp [startCtl, htaken, hstart, hfields, hop, ha]

theorem State.CtlNext.startCtl_refused {s t : State} {d : Desc} {rest : List Desc} {op reason : Nat}
    (h : s.CtlNext d rest op) {act : Desc → Nat → State → CtlOut}
    (ha : act d s.kp.ctlNum (enterCtl d [] 0 d.cevt false s) = .refused reason t) :
    ∃ runs, startCtl op act s = .next (ctlPump ((t.withRuns runs).descErr 2 d.slot reason op d.user)) := by
  obtain ⟨htaken, hstart, hfields, hop⟩ := h
  simp only [startCtl, htaken, hstart, hfields, hop, ha, Bool.not_true, Bool.false_eq_true, if_false, bne_self_eq_false]
  exact ⟨_, rfl⟩

theorem State.CtlNext.startCtl_done {s t : State} {d : Desc} {rest : List Desc} {op status : Nat}
    (h : s.CtlNext d rest op) {act : Desc → Nat → State → CtlOut}
    (ha : act d s.kp.ctlNum (enterCtl d [] 0 d.cevt false s) = .done status t) :
    ∃ runs, startCtl op act s = .next (ctlPump (t.withRuns runs)) := by
  obtain ⟨htaken, hstart, hfields, hop⟩ := h
  simp only [startCtl, htaken, hstart, hfields, hop, ha, Bool.not_true, Bool.false_eq_true, if_false, bne_self_eq_false]
  exact ⟨_, rfl⟩

theorem State.CtlNext.startCtl_running {s t : State} {d : Desc} {rest : List Desc} {op : Nat} {secs : List Nat}
    (h : s.CtlNext d rest op) {act : Desc → Nat → State → CtlOut}
    (ha : act d s.kp.ctlNum (enterCtl d [] 0 d.cevt false s) = .running secs t) :
    ∃ runs, startCtl op act s = .next (ctlPump (t.withRuns runs)) := by
  obtain ⟨htaken, hstart, hfields, hop⟩ := h
  simp only [startCtl, htaken, hstart, hfields, hop, ha, Bool.not_true, Bool.false_eq_true, if_false, bne_self_eq_false]
  exact ⟨_, rfl⟩

/-- An entered descriptor is in the books. -/
theorem State.CtlNext.ctlBooks_enterCtl {s : State} {d : Desc} {rest : List Desc} {op : Nat} (h : s.CtlNext d rest op) :
    s.CtlBooks (enterCtl d [] 0 d.cevt false s) rest := by
  refine ⟨List.prefix_rfl, ?_⟩
  simp [enterCtl, h.1]

theorem State.CtlBooks.withRuns {s t : State} {rest : List Desc} (h : s.CtlBooks t rest) (runs : List CtlRun) :
    s.CtlBooks (t.withRuns runs) rest :=
  ⟨h.1, by rw [State.withRuns, h.2]⟩

theorem State.CtlBooks.descErr {s t : State} {rest : List Desc} (h : s.CtlBooks t rest) (n slot reason op user : Nat) :
    s.CtlBooks (t.descErr n slot reason op user) rest :=
  ⟨h.1.trans (List.prefix_append ..), h.2⟩

theorem State.CtlBooks.ctlPump {s t : State} {rest : List Desc} (h : s.CtlBooks t rest) :
    s.CtlBooks (ctlPump t) rest := by
  refine ⟨h.1.trans (ctlPump_evq t), ?_⟩
  rw [ctlPump_frame, h.2]

theorem State.CtlBooks.settle {s t : State} {rest : List Desc} (h : s.CtlBooks t rest) (num : Nat) (failed : Bool) :
    s.CtlBooks (t.settle num failed) rest :=
  (h.withRuns _).ctlPump

theorem State.CtlBooks.of_eq {s t u : State} {rest : List Desc} (h : s.CtlBooks t rest) (hevq : u.evq = t.evq)
    (hkp : u.kp = { t.kp with orders := u.kp.orders }) : s.CtlBooks u rest := by
  obtain ⟨gevq, gkp⟩ := h
  refine ⟨hevq ▸ gevq, ?_⟩
  rw [hkp, gkp]

/-! ### MOOR (R344) -/

/-- `t` is `s` but for what sending packets of this chip can change (R332). -/
def State.Sends (s t : State) : Prop :=
  t = { s with
    cnt := t.cnt
    ring := { s.ring with
      ports := t.ring.ports, loopQ := t.ring.loopQ, errReason := t.ring.errReason, errPort := t.ring.errPort
      errLocal := t.ring.errLocal, errSrc := t.ring.errSrc, errValid := t.ring.errValid } }

theorem State.Sends.refl (s : State) : s.Sends s := rfl

theorem State.Sends.trans {s t u : State} (h : s.Sends t) (g : t.Sends u) : s.Sends u := by
  unfold State.Sends at *
  rw [g, h]

theorem State.originate_sends (s : State) (p : Pkt) : s.Sends (s.originate p) := by
  unfold State.Sends
  rw [State.originate_frame]

/-- Fresh credit leaves as messages (R350). -/
theorem State.grantFresh_sends (s : State) (n : Nat) : s.Sends (s.grantFresh n) := by
  unfold State.grantFresh
  dsimp only
  split
  · exact List.foldlRecOn _ _ (.refl s) (fun t ht c _ => ht.trans (t.originate_sends _))
  · exact .refl s

/-- A MOOR that keeps the rules of R344 sets its mooring. -/
theorem actMoor_of_ok {d : Desc} (h : (moorOf d).ok = true) (num : Nat) (s : State) :
    actMoor d num s = .done 0 ((s.setMooring (d.w 2 % 64)
      (if (moorOf d).isOpen then moorOf d else Moor.shut)).grantFresh (d.w 2 % 64)) := by
  simp [actMoor, h, bitsOf_eq]

theorem actMoor_of_not_ok {d : Desc} (h : (moorOf d).ok = false) (num : Nat) (s : State) :
    actMoor d num s = .refused 0x0B s := by
  simp [actMoor, h]

theorem State.CtlNext.exec_moor {s : State} {d : Desc} {rest : List Desc} (h : s.CtlNext d rest 3)
    (hok : (moorOf d).ok = true) : ∃ t, exec .moor s = .next t ∧
      t.ring.moors = sset Moor.shut s.ring.moors (d.w 2 % 64) (if (moorOf d).isOpen then moorOf d else Moor.shut) ∧
      (∀ o, o ∈ t.ring.owed → o.2.1 ≠ d.w 2 % 64) ∧ s.CtlBooks t rest ∧
      t.osura = s.osura ∧ t.lanes = s.lanes ∧ t.td = s.td ∧ t.buoys = s.buoys ∧ t.str = s.str := by
  obtain ⟨runs, ht⟩ := h.startCtl_done (actMoor_of_ok hok _ _)
  refine ⟨_, ht, ?_⟩
  generalize (if (moorOf d).isOpen then moorOf d else Moor.shut) = m
  have hbooks := (h.ctlBooks_enterCtl.of_eq (u := ((enterCtl d [] 0 d.cevt false s).setMooring (d.w 2 % 64) m).grantFresh
    (d.w 2 % 64)) (by rw [State.grantFresh_sends]; rfl) (by rw [State.grantFresh_sends]; rfl)).withRuns runs |>.ctlPump
  refine ⟨?_, ?_, hbooks, ?_⟩
  · rw [ctlPump_frame, State.withRuns, State.grantFresh_sends]; rfl
  · rw [ctlPump_frame, State.withRuns, State.grantFresh_sends]
    intro o ho
    simpa using (List.mem_filter.1 ho).2
  · rw [ctlPump_frame, State.withRuns, State.grantFresh_sends]
    exact ⟨rfl, rfl, rfl, rfl, rfl⟩

/-- A MOOR that breaks a rule of R344 is refused with reason SETTING. -/
theorem State.CtlNext.exec_moor_refused {s : State} {d : Desc} {rest : List Desc} (h : s.CtlNext d rest 3)
    (hok : (moorOf d).ok = false) : ∃ t, exec .moor s = .next t ∧
      (∃ e ∈ t.evq, e.typ = 0x02 ∧ e.ring = 3 ∧ e.index = d.slot ∧ e.p0 = 0x0B + 256 * 3) ∧ s.CtlBooks t rest ∧
      t = { s with kp := t.kp, evq := t.evq } := by
  obtain ⟨runs, ht⟩ := h.startCtl_refused (actMoor_of_not_ok hok _ _)
  refine ⟨_, ht, ⟨_, (ctlPump_evq _).subset (List.mem_append_right _ (List.mem_singleton_self _)), rfl, rfl, rfl, rfl⟩,
    ((h.ctlBooks_enterCtl.withRuns runs).descErr ..).ctlPump, ?_⟩
  rw [ctlPump_frame]
  rfl

/-! ### Reading Osura (R30, R55) -/

theorem State.ReadsOnly.refl (s : State) : s.ReadsOnly s := rfl

theorem State.ReadsOnly.trans {s t u : State} (h : s.ReadsOnly t) (g : t.ReadsOnly u) : s.ReadsOnly u := by
  unfold State.ReadsOnly at *
  rw [g, h]

/-- What comes of a word read through the code is within `State.ReadsOnly` (R55, R63, R70). -/
theorem State.noteEcc_readsOnly (s : State) (a : Nat) (scrub : Bool) (r : EccRead) : s.ReadsOnly (s.noteEcc a scrub r) := by
  cases r with
  | clean x => exact .refl s
  | corrected x =>
    unfold State.noteEcc State.ReadsOnly
    dsimp only
    rw [bump_frame]
    split <;> rfl
  | bad x =>
    unfold State.noteEcc State.ReadsOnly State.detect endRestore restoreFail
    dsimp only
    split <;> split <;> rfl

theorem State.readOsura_readsOnly (s : State) (scrub : Bool) (a len : Nat) : s.ReadsOnly (s.readOsura scrub a len).2 := by
  unfold State.readOsura
  split
  · exact .refl s
  · exact List.foldlRecOn _ _ (.refl s) (fun t ht r _ => ht.trans (t.noteEcc_readsOnly r.1 scrub r.2))

/-- States in which Osura reads alike: the same stored bytes, check bytes and sector map. -/
def State.SameStore (s t : State) : Prop := t.osura.data = s.osura.data ∧ t.osura.check = s.osura.check ∧ t.map = s.map

theorem State.ReadsOnly.sameStore {s t : State} (h : s.ReadsOnly t) : s.SameStore t := by
  rw [h]; exact ⟨rfl, rfl, rfl⟩

theorem State.SameStore.readOsura_fst {s t : State} (h : s.SameStore t) (scrub : Bool) (a len : Nat) :
    (t.readOsura scrub a len).1 = (s.readOsura scrub a len).1 := by
  obtain ⟨hdata, hcheck, hmap⟩ := h
  unfold State.readOsura State.psecOf State.eccWord State.rawWord
  rw [hdata, hcheck, hmap]
  split <;> rfl

/-- The bytes read do not depend on what the reads before them have changed. -/
theorem State.readRun_fold (l : List (Nat × Nat × Nat)) : ∀ (acc : List Byte) (s : State),
    (l.foldl (fun (acc, s) (sa, sl, _) => let (b, s) := State.readOsura s false sa sl; (acc ++ b, s)) (acc, s)) =
      (acc ++ l.flatMap (fun x => (s.readOsura false x.1 x.2.1).1),
        l.foldl (fun s x => (s.readOsura false x.1 x.2.1).2) s) := by
  induction l with
  | nil => simp
  | cons x l ih =>
    intro acc s
    rw [List.foldl_cons]
    dsimp only
    rw [ih, List.flatMap_cons, List.foldl_cons, List.append_assoc]
    simp only [(s.readOsura_readsOnly false x.1 x.2.1).sameStore.readOsura_fst]

theorem State.readRun_eq (s : State) (a len : Nat) :
    s.readRun a len = ((splitRun (2 ^ 23) 3 a len 0).flatMap (fun x => (s.readOsura false x.1 x.2.1).1),
      (splitRun (2 ^ 23) 3 a len 0).foldl (fun s x => (s.readOsura false x.1 x.2.1).2) s) :=
  State.readRun_fold _ [] s

theorem State.SameStore.readRun_fst {s t : State} (h : s.SameStore t) (a len : Nat) :
    (t.readRun a len).1 = (s.readRun a len).1 := by
  simp only [State.readRun_eq, h.readOsura_fst]

theorem State.readRun_readsOnly (s : State) (a len : Nat) : s.ReadsOnly (s.readRun a len).2 := by
  rw [State.readRun_eq]
  exact List.foldlRecOn _ _ (.refl s) (fun t ht x _ => ht.trans (t.readOsura_readsOnly false x.1 x.2.1))

/-- A block read takes banks of the stream, or waits (R31). -/
theorem State.takeBanks_eq_some {s v : State} {a len : Nat} (h : s.takeBanks a len = some v) :
    v = { s with str := { s.str with servedAt := v.str.servedAt, servedBanks := v.str.servedBanks } } := by
  unfold State.takeBanks at h
  dsimp only at h
  split at h
  · cases h
  · injection h with h
    rw [← h]
    rfl

/-- The books of the Control ring have no part in who gets a bank. -/
theorem State.takeBanks_enterCtl (s : State) (d : Desc) (secs : List Nat) (status : Nat) (cevt done : Bool) (a len : Nat) :
    (enterCtl d secs status cevt done s).takeBanks a len =
      (s.takeBanks a len).map (fun v => { v with kp := (enterCtl d secs status cevt done s).kp }) := by
  rw [State.takeBanks, State.takeBanks, apply_ite (Option.map _)]
  rfl

/-- The banks that a descriptor's start takes: those of the stream, with the descriptor in the books. -/
theorem takeBanks_enterCtl_some {s v : State} (d : Desc) {a len : Nat} (h : s.takeBanks a len = some v) :
    (enterCtl d [] 0 d.cevt false s).takeBanks a len = some { v with kp := (enterCtl d [] 0 d.cevt false s).kp } := by
  rw [State.takeBanks_enterCtl, h]
  rfl

/-! ### TOKEN (R378) -/

/-- The packet of a TOKEN (R334, R378). -/
def State.tokenPkt (s : State) (num dst moor off : Nat) (bs : List Byte) : Pkt :=
  let p := { s.newPkt dst 0 0 moor 0 0 bs with offset := off, ctl := some num }
  { p with hcrc := p.headCrc }

/-- A packet to this chip itself goes to the end of the loopback path (R332). -/
theorem State.originate_self {s : State} {p : Pkt} (h : p.dst = s.ring.chipId) :
    s.originate p = { s with ring := { s.ring with loopQ := s.ring.loopQ ++ [p] } } := by
  rw [State.originate, if_pos h]

/-- A token to this chip takes the loopback path, and its descriptor has completed. -/
theorem State.sendToken_self {s : State} {dst : Nat} (h : dst = s.ring.chipId) (num moor off : Nat) (bs : List Byte) :
    s.sendToken num dst moor off bs =
      State.settle { s with ring := { s.ring with
        loopQ := s.ring.loopQ ++ [s.tokenPkt num dst moor off bs] } } num false := by
  have hsent := State.originate_self (s := s) (p := s.tokenPkt num dst moor off bs) h
  rw [← hsent]
  refine (if_pos ?_ : ite (dst = (s.originate (s.tokenPkt num dst moor off bs)).ring.chipId) _ _ = _)
  rw [hsent]
  exact h

section
variable {d : Desc} {s : State} (hpos : 0 < d.w 4) (hlen : d.w 4 ≤ 64) (hunit : d.w 3 % 256 + d.w 4 ≤ 256)
  (hin : inOsura (d.w 5) (d.w 4) = true) (hopen : s.runOpen (d.w 5) (d.w 4) = true)
include hpos hlen hunit hin hopen

/-- A TOKEN whose banks are not free waits. -/
theorem actToken_of_none (hbanks : s.takeBanks (d.w 5) (d.w 4) = none) (num : Nat) : actToken d num s = .wait := by
  have hlate : ¬ 256 < d.w 3 % 256 + d.w 4 := by omega
  simp [actToken, hpos.ne', hlen, hlate, hin, hopen, hbanks]

/-- A TOKEN with its banks reads its block and sends it. -/
theorem actToken_of_some {v : State} (hbanks : s.takeBanks (d.w 5) (d.w 4) = some v) (num : Nat) :
    actToken d num s = .running [] ((v.readRun (d.w 5) (d.w 4)).2.sendToken num (d.w 2 % 2 ^ 16)
      (d.w 2 / 2 ^ 16 % 64) (d.w 3) (v.readRun (d.w 5) (d.w 4)).1) := by
  have hlate : ¬ 256 < d.w 3 % 256 + d.w 4 := by omega
  simp [actToken, hpos.ne', hlen, hlate, hin, hopen, hbanks, bitsOf_eq]

end

theorem State.CtlNext.exec_token_waits {s : State} {d : Desc} {rest : List Desc} (h : s.CtlNext d rest 0x0F)
    (hpos : 0 < d.w 4) (hlen : d.w 4 ≤ 64) (hunit : d.w 3 % 256 + d.w 4 ≤ 256)
    (hin : inOsura (d.w 5) (d.w 4) = true) (hopen : s.runOpen (d.w 5) (d.w 4) = true)
    (hbanks : s.takeBanks (d.w 5) (d.w 4) = none) : exec .token s = .next s :=
  h.startCtl_wait (actToken_of_none (s := enterCtl d [] 0 d.cevt false s) hpos hlen hunit hin hopen
    (by rw [State.takeBanks_enterCtl, hbanks]; rfl) _)

theorem State.CtlNext.exec_token_self {s : State} {d : Desc} {rest : List Desc} (h : s.CtlNext d rest 0x0F)
    (hpos : 0 < d.w 4) (hlen : d.w 4 ≤ 64) (hunit : d.w 3 % 256 + d.w 4 ≤ 256)
    (hin : inOsura (d.w 5) (d.w 4) = true) (hopen : s.runOpen (d.w 5) (d.w 4) = true)
    (hdst : d.w 2 % 2 ^ 16 = s.ring.chipId) {v : State} (hbanks : s.takeBanks (d.w 5) (d.w 4) = some v) :
    ∃ t p, exec .token s = .next t ∧
      t.ring = { s.ring with loopQ := s.ring.loopQ ++ [p] } ∧ p.kind = 0 ∧ p.cls = 0 ∧ p.dst = s.ring.chipId ∧
      p.moor = d.w 2 / 2 ^ 16 % 64 ∧ p.offset = d.w 3 ∧ p.payload = (s.readRun (d.w 5) (d.w 4)).1 ∧
      s.CtlBooks t rest ∧ t.lanes = s.lanes ∧ t.buoys = s.buoys ∧ t.td = s.td ∧ t.osura.data = s.osura.data := by
  obtain ⟨runs, ht⟩ := h.startCtl_running (actToken_of_some (s := enterCtl d [] 0 d.cevt false s) hpos hlen hunit hin
    hopen (takeBanks_enterCtl_some d hbanks) _)
  have hv := State.takeBanks_eq_some hbanks
  obtain ⟨w, hw⟩ : ∃ w : State, w = { v with kp := (enterCtl d [] 0 d.cevt false s).kp } := ⟨_, rfl⟩
  have hread := hw
  rw [hv] at hread
  rw [← hw] at ht
  have hbytes : (w.readRun (d.w 5) (d.w 4)).1 = (s.readRun (d.w 5) (d.w 4)).1 :=
    State.SameStore.readRun_fst (by rw [hread]; exact ⟨rfl, rfl, rfl⟩) _ _
  have hrun := w.readRun_readsOnly (d.w 5) (d.w 4)
  generalize (w.readRun (d.w 5) (d.w 4)).2 = r at ht hrun
  rw [hread] at hrun
  have hring : r.ring = s.ring := by rw [hrun]
  rw [hbytes, State.sendToken_self (by rw [hring]; exact hdst)] at ht
  refine ⟨_, r.tokenPkt s.kp.ctlNum (d.w 2 % 2 ^ 16) (d.w 2 / 2 ^ 16 % 64) (d.w 3) (s.readRun (d.w 5) (d.w 4)).1, ht, ?_,
    rfl, rfl, hdst, rfl, rfl, rfl, ?_, ?_⟩
  · rw [ctlPump_frame, State.withRuns, State.settle_frame, ← hring]
  · refine (State.CtlBooks.settle ?_ _ _).withRuns runs |>.ctlPump
    exact h.ctlBooks_enterCtl.of_eq (by rw [hrun]; rfl) (by rw [hrun])
  · rw [ctlPump_frame, State.withRuns, State.settle_frame, hrun]
    exact ⟨rfl, rfl, rfl, rfl⟩

/-! ### LOAD and START (R274) -/

/-- With no FUS issued to a Lantern in this control cycle, an order finds nothing there to send back (R386). -/
theorem State.fusBack_nil {s : State} {n : Nat} (h : s.sentNow 2 n = 0) : s.fusBack n = [] := by
  simp [State.fusBack, h]

theorem State.fusAside_self {s : State} {n : Nat} (h : s.sentNow 2 n = 0) : s.fusAside n = s := by
  have hid : (fun l : Lantern => { l with
      q := l.q.take (l.q.length - (s.fusBack n).length), sentBack := s.fusBack n ++ l.sentBack }) = id := by
    funext l
    simp [State.fusBack_nil h]
  show s.modLn n _ = s
  rw [hid, State.modLn, modifyAt, List.modify_id]

theorem State.meetSent_self {s : State} {kind n : Nat} (h : s.sentNow kind n = 0) : s.meetSent kind n = s := by
  simp [State.meetSent, h]

theorem lnPutFirst_eq {s : State} {n : Nat} (h : s.sentNow 2 n = 0) (c : LnCmd) :
    lnPutFirst n c s = (s.lnPut n c).order 2 n := by
  rw [lnPutFirst, State.meetSent_self h, State.fusAside_self h]

/-- What the checks of a LOAD or START of the Control ring look at: Osura and the Lanterns. -/
theorem State.SameStore.fusLoad {s t : State} (h : s.SameStore t) (hln : t.ln = s.ln) (n slot a num : Nat) :
    fusLoad t n slot a (some num) = fusLoad s n slot a (some num) := by
  have hpresent : t.fpPresent = s.fpPresent := by unfold State.fpPresent State.lan; rw [hln]
  simp only [Machine.fusLoad, State.blockBytes, Option.isNone_some, Bool.false_eq_true, if_false,
    h.readRun_fst, hpresent]

theorem State.SameStore.fusStart {s t : State} (h : s.SameStore t) (hln : t.ln = s.ln) (n slot a num : Nat)
    (prof : Option Profile) : fusStart t n slot a (some num) prof = fusStart s n slot a (some num) prof := by
  have hpresent : t.fpPresent = s.fpPresent := by unfold State.fpPresent State.lan; rw [hln]
  have hlan : t.lan = s.lan := by unfold State.lan; rw [hln]
  simp only [Machine.fusStart, State.blockBytes, Option.isNone_some, Bool.false_eq_true, if_false,
    h.readRun_fst, hpresent, hlan]

/-- A LOAD that passes its checks lies in Osura as its header and as a whole (R274, R276). -/
theorem fusAddrOk_of_fusLoad {s : State} {n slot a num : Nat} {x : LnCmd} (h : fusLoad s n slot a (some num) = .ok x) :
    fusAddrOk a 16 = true ∧ fusAddrOk a (chainBytes (ofBytes (s.readRun a 4).1)) = true := by
  unfold fusLoad at h
  split at h
  · cases h
  · dsimp only at h
    split at h
    · cases h
    · simp_all [State.blockBytes]

theorem fusAddrOk_of_fusStart {s : State} {n slot a num : Nat} {x : LnCmd}
    (h : fusStart s n slot a (some num) none = .ok x) : fusAddrOk a 128 = true := by
  unfold fusStart at h
  split at h
  · cases h
  · simp_all

/-- A full queue makes a LOAD or START wait (R274). -/
theorem actLantern_of_full {isLoad : Bool} {d : Desc} {s : State} (hfull : 4 ≤ (s.lan (d.w 2 % 4)).q.length)
    (hsent : s.sentNow 2 (d.w 2 % 4) = 0) (num : Nat) : actLantern isLoad d num s = .wait := by
  have hroom : s.ctlRoom (d.w 2 % 4) = false := by simpa [State.ctlRoom, State.fusBack_nil hsent] using hfull
  simp [actLantern, bitsOf_eq, hroom]

/-! What LOAD and START share. -/

/-- Bytes of a block that must lie in open sectors before its length is known (R274, R276). -/
def lanternHead (isLoad : Bool) : Nat := if isLoad then 16 else 128

/-- Bytes of the block of a LOAD or START at `a`. -/
def State.lanternLen (s : State) (isLoad : Bool) (a : Nat) : Nat :=
  if isLoad then chainBytes (ofBytes (s.readRun a 4).1) else 128

/-- The checks of R278 and R280 on the block at `a`. -/
def State.lanternCheck (s : State) (isLoad : Bool) (n slot a num : Nat) : FusOut :=
  if isLoad then fusLoad s n slot a (some num) else fusStart s n slot a (some num) none

theorem State.SameStore.lanternLen {s t : State} (h : s.SameStore t) (isLoad : Bool) (a : Nat) :
    t.lanternLen isLoad a = s.lanternLen isLoad a := by
  simp only [State.lanternLen, h.readRun_fst]

theorem State.SameStore.lanternCheck {s t : State} (h : s.SameStore t) (hln : t.ln = s.ln) (isLoad : Bool)
    (n slot a num : Nat) : t.lanternCheck isLoad n slot a num = s.lanternCheck isLoad n slot a num := by
  simp only [State.lanternCheck, h.fusLoad hln, h.fusStart hln]

theorem fusAddrOk_of_lanternCheck {s : State} {isLoad : Bool} {n slot a num : Nat} {x : LnCmd}
    (h : s.lanternCheck isLoad n slot a num = .ok x) :
    fusAddrOk a (lanternHead isLoad) = true ∧ fusAddrOk a (s.lanternLen isLoad a) = true := by
  cases isLoad with
  | true => exact fusAddrOk_of_fusLoad h
  | false => exact ⟨fusAddrOk_of_fusStart h, fusAddrOk_of_fusStart h⟩

section
variable {isLoad : Bool} {d : Desc} {s : State} {num : Nat} {x : LnCmd} (hroom : (s.lan (d.w 2 % 4)).q.length < 4)
  (hcheck : s.lanternCheck isLoad (d.w 2 % 4) (d.w 2 / 4 % 64) (d.w 3) num = .ok x)
  (hhead : s.runOpen (d.w 3) (lanternHead isLoad) = true) (hopen : s.runOpen (d.w 3) (s.lanternLen isLoad (d.w 3)) = true)
include hroom hcheck hhead hopen

/-- A LOAD or START whose banks are not free waits. -/
theorem actLantern_of_none (hbanks : s.takeBanks (d.w 3) (s.lanternLen isLoad (d.w 3)) = none) :
    actLantern isLoad d num s = .wait := by
  obtain ⟨haddr, haddrLen⟩ := fusAddrOk_of_lanternCheck hcheck
  have hctl : s.ctlRoom (d.w 2 % 4) = true := by simp only [State.ctlRoom, decide_eq_true_eq]; omega
  unfold lanternHead at *
  unfold State.lanternLen at *
  simp [actLantern, bitsOf_eq, hctl, haddr, hhead, haddrLen, hopen, hbanks]

/-- A LOAD or START with its banks reads its block and enters the queue. -/
theorem actLantern_of_some {v : State} (hbanks : s.takeBanks (d.w 3) (s.lanternLen isLoad (d.w 3)) = some v)
    (hsent : s.sentNow 2 (d.w 2 % 4) = 0) :
    actLantern isLoad d num s = .running []
      (((v.readRun (d.w 3) (s.lanternLen isLoad (d.w 3))).2.lnPut (d.w 2 % 4) x).order 2 (d.w 2 % 4)) := by
  obtain ⟨haddr, haddrLen⟩ := fusAddrOk_of_lanternCheck hcheck
  have hctl : s.ctlRoom (d.w 2 % 4) = true := by simp only [State.ctlRoom, decide_eq_true_eq]; omega
  have hv := State.takeBanks_eq_some hbanks
  have hsentv : v.sentNow 2 (d.w 2 % 4) = 0 := by rw [hv]; exact hsent
  have hcheckv : v.lanternCheck isLoad (d.w 2 % 4) (d.w 2 / 4 % 64) (d.w 3) num = .ok x := by
    rw [← hcheck]
    exact State.SameStore.lanternCheck (by rw [hv]; exact ⟨rfl, rfl, rfl⟩) (by rw [hv]) _ _ _ _ _
  have hrun := v.readRun_readsOnly (d.w 3) (s.lanternLen isLoad (d.w 3))
  have hsentr : (v.readRun (d.w 3) (s.lanternLen isLoad (d.w 3))).2.sentNow 2 (d.w 2 % 4) = 0 := by
    rw [hrun]; exact hsentv
  rw [← lnPutFirst_eq hsentr]
  unfold State.lanternCheck lanternHead at *
  unfold State.lanternLen at *
  simp [actLantern, bitsOf_eq, hctl, haddr, hhead, haddrLen, hopen, hbanks, State.fusAside_self hsentv, hcheckv]

end

section
variable {isLoad : Bool} {d : Desc} {s : State} {rest : List Desc} {op : Nat} {x : LnCmd}

/-- A LOAD or START that has its Lantern's room and passes its checks waits for its banks. -/
theorem State.CtlNext.startCtl_lantern_waits (h : s.CtlNext d rest op) (hroom : (s.lan (d.w 2 % 4)).q.length < 4)
    (hcheck : s.lanternCheck isLoad (d.w 2 % 4) (d.w 2 / 4 % 64) (d.w 3) s.kp.ctlNum = .ok x)
    (hhead : s.runOpen (d.w 3) (lanternHead isLoad) = true) (hopen : s.runOpen (d.w 3) (s.lanternLen isLoad (d.w 3)) = true)
    (hbanks : s.takeBanks (d.w 3) (s.lanternLen isLoad (d.w 3)) = none) :
    startCtl op (actLantern isLoad) s = .next s := by
  let s0 := enterCtl d [] 0 d.cevt false s
  have hsame : s.SameStore s0 := ⟨rfl, rfl, rfl⟩
  have hcheck0 := (hsame.lanternCheck rfl isLoad (d.w 2 % 4) (d.w 2 / 4 % 64) (d.w 3) s.kp.ctlNum).trans hcheck
  have hlen := hsame.lanternLen isLoad (d.w 3)
  refine h.startCtl_wait (actLantern_of_none (s := s0) hroom hcheck0 hhead (by rw [hlen]; exact hopen) ?_)
  rw [hlen, State.takeBanks_enterCtl, hbanks]
  rfl

/-- A LOAD or START with its banks enters its Lantern's queue; it changes no more than reading its block does, the queue
and the descriptors' books. -/
theorem State.CtlNext.startCtl_lantern_enters (h : s.CtlNext d rest op) (hlt : d.w 2 % 4 < s.ln.length)
    (hroom : (s.lan (d.w 2 % 4)).q.length < 4) (hsent : s.sentNow 2 (d.w 2 % 4) = 0)
    (hcheck : s.lanternCheck isLoad (d.w 2 % 4) (d.w 2 / 4 % 64) (d.w 3) s.kp.ctlNum = .ok x)
    (hhead : s.runOpen (d.w 3) (lanternHead isLoad) = true) (hopen : s.runOpen (d.w 3) (s.lanternLen isLoad (d.w 3)) = true)
    {v : State} (hbanks : s.takeBanks (d.w 3) (s.lanternLen isLoad (d.w 3)) = some v) :
    ∃ t u, startCtl op (actLantern isLoad) s = .next t ∧ (t.lan (d.w 2 % 4)).q = (s.lan (d.w 2 % 4)).q ++ [x] ∧
      (∀ m, m ≠ d.w 2 % 4 → t.lan m = s.lan m) ∧ t.kp.ctlTaken = rest ∧ v.ReadsOnly u ∧
      t = { u with ln := t.ln, kp := t.kp, evq := t.evq } := by
  let s0 := enterCtl d [] 0 d.cevt false s
  have hsame : s.SameStore s0 := ⟨rfl, rfl, rfl⟩
  have hcheck0 := (hsame.lanternCheck rfl isLoad (d.w 2 % 4) (d.w 2 / 4 % 64) (d.w 3) s.kp.ctlNum).trans hcheck
  have hlen := hsame.lanternLen isLoad (d.w 3)
  have hopen0 : s0.runOpen (d.w 3) (s0.lanternLen isLoad (d.w 3)) = true := by rw [hlen]; exact hopen
  have hbanks0 : s0.takeBanks (d.w 3) (s0.lanternLen isLoad (d.w 3)) = some { v with kp := s0.kp } := by
    rw [hlen]; exact takeBanks_enterCtl_some d hbanks
  obtain ⟨runs, ht⟩ := h.startCtl_running (actLantern_of_some (s := s0) hroom hcheck0 hhead hopen0 hbanks0 hsent)
  have hrun := State.readRun_readsOnly { v with kp := s0.kp } (d.w 3) (s0.lanternLen isLoad (d.w 3))
  generalize (State.readRun { v with kp := s0.kp } (d.w 3) (s0.lanternLen isLoad (d.w 3))).2 = r at ht hrun
  have hln : r.ln = s.ln := by rw [hrun, State.takeBanks_eq_some hbanks]
  have hkp : r.kp = s0.kp := by rw [hrun]
  have hlan : ∀ m, (ctlPump ((State.order (r.lnPut (d.w 2 % 4) x) 2 (d.w 2 % 4)).withRuns runs)).lan m =
      if m = d.w 2 % 4 ∧ m < s.ln.length then { s.lan m with q := (s.lan m).q ++ [x] } else s.lan m := by
    intro m
    rw [ctlPump_frame]
    show (r.lnPut (d.w 2 % 4) x).lan m = _
    rw [State.lnPut, State.lan_modLn]
    simp only [State.lan, hln]
  refine ⟨_, { r with kp := v.kp }, ht, ?_, ?_, ?_, ?_, ?_⟩
  · rw [hlan, if_pos ⟨rfl, hlt⟩]
  · intro m hm
    rw [hlan, if_neg (fun hmn => hm hmn.1)]
  · rw [ctlPump_frame]
    show r.kp.ctlTaken = rest
    rw [hkp]
    show s.kp.ctlTaken.drop 1 = rest
    rw [h.1, List.drop_one, List.tail_cons]
  · unfold State.ReadsOnly at *
    rw [hrun]
  · rw [ctlPump_frame]
    rfl

end

/-- Settles O51: what a Control descriptor's start leaves, one lemma for each command's action. -/
theorem controlUnits : Obligations.ControlUnits := by
  unfold Obligations.ControlUnits
  intro s d rest _
  refine ⟨State.CtlNext.exec_moor, State.CtlNext.exec_moor_refused, ?_, ?_, ?_⟩
  · intro h hpos hlen hunit hin hopen hdst
    refine ⟨h.exec_token_waits hpos hlen hunit hin hopen, fun hbanks => ?_⟩
    obtain ⟨v, hv⟩ := Option.ne_none_iff_exists'.1 hbanks
    exact h.exec_token_self hpos hlen hunit hin hopen hdst hv
  · intro n x hn hlt hroom hsent
    rw [hn] at hlt hroom hsent ⊢
    constructor
    · rintro len rfl h hhead hopen hcheck
      exact ⟨h.startCtl_lantern_waits (isLoad := true) hroom hcheck hhead hopen,
        fun v hv => h.startCtl_lantern_enters (isLoad := true) hlt hroom hsent hcheck hhead hopen hv⟩
    · intro h hhead hcheck
      have hlen : s.lanternLen false (d.w 3) = 128 := rfl
      have hopen : s.runOpen (d.w 3) (s.lanternLen false (d.w 3)) = true := by rw [hlen]; exact hhead
      rw [← hlen]
      exact ⟨h.startCtl_lantern_waits (isLoad := false) hroom hcheck hhead hopen,
        fun v hv => h.startCtl_lantern_enters (isLoad := false) hlt hroom hsent hcheck hhead hopen hv⟩
  · intro hfull hsent
    have hwait (isLoad : Bool) := actLantern_of_full (isLoad := isLoad) (s := enterCtl d [] 0 d.cevt false s) hfull
      hsent s.kp.ctlNum
    exact ⟨fun h => h.startCtl_wait (hwait true), fun h => h.startCtl_wait (hwait false)⟩

end Sys2Proof.Machine

namespace Sys2Proof.Machine

/-! ### Discards (R393, R394) -/

/-- `t` is `s` but for the arrivals, packets and space of the ring that a discard drops; no port comes or goes. -/
def State.DropsArrivals (s t : State) : Prop :=
  t = { s with
    out := t.out
    ring := { s.ring with
      ports := t.ring.ports, arrivals := t.ring.arrivals, chunks := t.ring.chunks, loopQ := t.ring.loopQ } } ∧
    t.ring.ports.length = s.ring.ports.length

theorem State.DropsArrivals.refl (s : State) : s.DropsArrivals s := ⟨rfl, rfl⟩

theorem State.DropsArrivals.trans {s t u : State} (h : s.DropsArrivals t) (g : t.DropsArrivals u) : s.DropsArrivals u :=
  ⟨by rw [g.1, h.1], g.2.trans h.2⟩

theorem State.freeSpace_dropsArrivals (s : State) (p : Pkt) : s.DropsArrivals (s.freeSpace p) := by
  refine ⟨by rw [State.freeSpace_frame], ?_⟩
  unfold State.freeSpace
  split
  · rfl
  · dsimp only
    split <;> exact modifyAt_length ..

theorem State.endArrival_dropsArrivals (s : State) (a : Arrival) : s.DropsArrivals (s.endArrival a) := by
  refine State.DropsArrivals.trans ?_ (State.freeSpace_dropsArrivals _ a.pkt)
  exact ⟨rfl, rfl⟩

theorem discardRing_dropsArrivals (s : State) : s.DropsArrivals (discardRing s) := by
  unfold discardRing
  extract_lets here sent a b
  have ha : s.DropsArrivals a :=
    List.foldlRecOn _ _ (.refl s) (fun t ht x _ => ht.trans (t.endArrival_dropsArrivals x))
  have hb : a.DropsArrivals b :=
    List.foldlRecOn _ _ (.refl a) (fun t ht x _ => ht.trans (t.freeSpace_dropsArrivals x))
  clear_value a b
  exact (ha.trans hb).trans ⟨rfl, List.length_map _⟩

/-- `t` is `s` but for the stream, the Lanterns, and the Control descriptors that this completes or refuses. -/
def State.Quiets (s t : State) : Prop :=
  t = { s with
    str := t.str, trap := t.trap, ln := t.ln, evq := t.evq, rst := t.rst
    kp := { s.kp with ctlRun := t.kp.ctlRun, cdone := t.kp.cdone } }

theorem State.Quiets.refl (s : State) : s.Quiets s := rfl

theorem State.Quiets.trans {s t u : State} (h : s.Quiets t) (g : t.Quiets u) : s.Quiets u := by
  unfold State.Quiets at *
  rw [g, h]

theorem State.modLn_quiets (s : State) (n : Nat) (f : Lantern → Lantern) : s.Quiets (s.modLn n f) := rfl

theorem lnRaiseAbort_quiets (n : Nat) (s : State) : s.Quiets (lnRaiseAbort n s) := by
  unfold lnRaiseAbort
  split
  · exact s.modLn_quiets n _
  · exact .refl s

theorem State.settle_quiets (s : State) (num : Nat) (failed : Bool) : s.Quiets (s.settle num failed) := by
  unfold State.Quiets
  rw [State.settle_frame]

theorem lnAbandon_quiets (n : Nat) (all : Bool) (s : State) : s.Quiets (lnAbandon n all s) := by
  unfold lnAbandon
  dsimp only
  refine State.Quiets.trans ?_ (State.modLn_quiets _ n _)
  split
  · exact List.foldlRecOn _ _ (.refl s) (fun t ht c _ => ht.trans (t.settle_quiets c true))
  · exact .refl s

theorem lnDrop_quiets (n : Nat) (all : Bool) (s : State) : s.Quiets (lnDrop n all s) := by
  unfold lnDrop
  dsimp only
  split
  · exact ((lnAbandon_quiets n all s).trans (lnRaiseAbort_quiets n _)).trans (State.modLn_quiets _ n _)
  · exact .refl s

/-- A waiting ECLIPSE is over, refused, and the books and the event queue know of it (R428, R432). -/
theorem refuseEclipse_frame (s : State) :
    refuseEclipse s = { s with
      evq := (refuseEclipse s).evq
      rst := { s.rst with
        eclipse := none, pstate := (refuseEclipse s).rst.pstate, wakeHeld := (refuseEclipse s).rst.wakeHeld }
      kp := { s.kp with ctlRun := (refuseEclipse s).kp.ctlRun, cdone := (refuseEclipse s).kp.cdone } } := by
  unfold refuseEclipse
  split
  · rename_i h
    rw [← h]
  · dsimp only
    rw [ctlPump_frame]

theorem State.settlePauses_frame (s : State) :
    s.settlePauses = { s with
      evq := s.settlePauses.evq
      kp := { s.kp with ctlRun := s.settlePauses.kp.ctlRun, cdone := s.settlePauses.kp.cdone } } := by
  unfold State.settlePauses
  rw [ctlPump_frame]

/-- `t` is `s` but for what dropping work can change: the work in flight, the books of descriptors and what is reported. -/
def State.Drops (s t : State) : Prop :=
  t = { s with
    osura := { s.osura with q := t.osura.q, cb := t.osura.cb }, str := t.str, trap := t.trap, ln := t.ln, td := t.td
    mem := t.mem
    ring := { s.ring with
      ports := t.ring.ports, arrivals := t.ring.arrivals, chunks := t.ring.chunks, loopQ := t.ring.loopQ }
    kp := t.kp, evq := t.evq, errs := t.errs, flt := { s.flt with stopped := t.flt.stopped }, rst := t.rst, out := t.out }

theorem State.Drops.refl (s : State) : s.Drops s := rfl

theorem State.Drops.trans {s t u : State} (h : s.Drops t) (g : t.Drops u) : s.Drops u := by
  unfold State.Drops at *
  rw [g, h]

/-- From `s` to `t` everything in flight has been discarded (R393, R394): no launch, transfer, taken descriptor or waiting
ECLIPSE is left, and every error found before is covered (R392). -/
structure State.Discarded (s t : State) : Prop where
  drops : s.Drops t
  wrun : t.wrun = false
  ch : t.td.ch = []
  eclipse : t.rst.eclipse = none
  workTaken : t.kp.workTaken = []
  xferTaken : t.kp.xferTaken = []
  ctlTaken : t.kp.ctlTaken = []
  errs : t.errs = s.errs.map (fun e => { e with covered := true })
  ports : t.ring.ports.length = s.ring.ports.length

/-- A discard up to the Lanterns: the work of Tender, the ring and the Keeper. -/
theorem discardKeeper_drops (slots : List Nat) (s : State) :
    s.Drops (discardKeeper slots (discardRing s)) ∧
      (discardKeeper slots (discardRing s)).ring.ports.length = s.ring.ports.length ∧
      (discardKeeper slots (discardRing s)).td = s.td ∧ (discardKeeper slots (discardRing s)).errs = s.errs := by
  obtain ⟨hring, hports⟩ := discardRing_dropsArrivals s
  refine ⟨?_, hports, ?_⟩
  · unfold State.Drops discardKeeper
    rw [hring]
  · rw [discardKeeper, hring]
    exact ⟨rfl, rfl⟩

theorem State.Quiets.drops {s t : State} (h : s.Quiets t) : s.Drops t := by
  unfold State.Drops
  rw [h]

/-- The stream is idle at the end of a discard, and no ECLIPSE waits. -/
theorem clearStream_quiets (s : State) :
    s.Quiets (refuseEclipse (clearStream s)).settlePauses ∧ (refuseEclipse (clearStream s)).settlePauses.wrun = false ∧
      (refuseEclipse (clearStream s)).settlePauses.rst.eclipse = none := by
  unfold State.Quiets
  rw [State.settlePauses_frame, refuseEclipse_frame]
  exact ⟨rfl, rfl, rfl⟩

theorem discard_discarded (s : State) : s.Discarded (discard s) := by
  unfold discard
  extract_lets slots a q oa b c d lns e
  have hb : s.Drops b ∧ b.td.ch = [] ∧ b.errs = s.errs ∧ b.ring = s.ring :=
    ⟨rfl, by simp [b, a, dropChannels], rfl, rfl⟩
  clear_value b
  have hc : b.Drops c ∧ c.ring.ports.length = b.ring.ports.length ∧ c.td = b.td ∧ c.errs = b.errs :=
    discardKeeper_drops slots b
  have hqueues : c.kp.workTaken = [] ∧ c.kp.xferTaken = [] ∧ c.kp.ctlTaken = [] := ⟨rfl, rfl, rfl⟩
  clear_value c
  have hd : c.Quiets d :=
    List.foldlRecOn _ _ (.refl c) (fun t ht n _ => ht.trans (lnDrop_quiets n true t))
  clear_value d
  have he : d.Drops e := rfl
  have hkeep : e.td = d.td ∧ e.ring = d.ring ∧ e.kp = d.kp ∧
      e.errs = d.errs.map (fun e => { e with covered := true }) := ⟨rfl, rfl, rfl, rfl⟩
  clear_value e
  obtain ⟨ht, hwrun, heclipse⟩ := clearStream_quiets e
  obtain ⟨hbdrops, hbch, hberrs, hbring⟩ := hb
  obtain ⟨hcdrops, hcports, hctd, hcerrs⟩ := hc
  obtain ⟨hetd, hering, hekp, heerrs⟩ := hkeep
  obtain ⟨hwork, hxfer, hctl⟩ := hqueues
  have hdrops := (((hbdrops.trans hcdrops).trans hd.drops).trans he).trans ht.drops
  refine ⟨hdrops, hwrun, ?_, heclipse, ?_, ?_, ?_, ?_, ?_⟩ <;> rw [ht]
  · rw [hetd, hd, hctd, hbch]
  · rw [hekp, hd, hwork]
  · rw [hekp, hd, hxfer]
  · rw [hekp, hd, hctl]
  · rw [heerrs, hd, hcerrs, hberrs]
  · rw [hering, hd, hcports, hbring]

/-! ### What the sequencer does with one error (R392) -/

/-- The state in which an error is handled: everything in flight is discarded unless an earlier discard has covered it. -/
def ErrRec.clear (e : ErrRec) (s : State) : State := if e.covered then s else discard s

theorem ErrRec.clear_drops (e : ErrRec) (s : State) : s.Drops (e.clear s) := by
  unfold ErrRec.clear
  split
  · exact .refl s
  · exact (discard_discarded s).drops

theorem ErrRec.clear_ports_length (e : ErrRec) (s : State) : (e.clear s).ring.ports.length = s.ring.ports.length := by
  unfold ErrRec.clear
  split
  · rfl
  · exact (discard_discarded s).ports

theorem ErrRec.clear_covered {e : ErrRec} (h : e.covered = true) (s : State) : e.clear s = s := if_pos h

theorem ErrRec.clear_discarded {e : ErrRec} (h : e.covered = false) (s : State) : s.Discarded (e.clear s) := by
  rw [ErrRec.clear, h]
  exact discard_discarded s

/-- The record of a fault (R397). -/
theorem faultRecord_fields (e : ErrRec) (spare remain : Nat) (s : State) :
    (faultRecord e spare remain s).typ = 0x0B ∧
      (faultRecord e spare remain s).p0 = e.kind + e.reason * 256 + e.phys * 65536 + e.logi * 2 ^ 24 := ⟨rfl, rfl⟩

/-- A FAULT record is queued, and FLT_INFO may keep it (R397, R420). -/
theorem faultEvent_frame (e : ErrRec) (spare remain : Nat) (s : State) :
    faultEvent e spare remain s = { s with
      evq := s.evq ++ [faultRecord e spare remain s], free := s.free + 1
      flt := { s.flt with
        info0 := (faultEvent e spare remain s).flt.info0, info1 := (faultEvent e spare remain s).flt.info1
        recAt := (faultEvent e spare remain s).flt.recAt } } := by
  unfold faultEvent
  dsimp only
  split <;> rfl

/-- HOLD leaves as a message (R359). -/
theorem sendHold_sends (e : ErrRec) (s : State) : s.Sends (sendHold e s) := by
  unfold sendHold
  split
  · exact s.originate_sends _
  · exact .refl s

/-- HOLD waits among the own packets of the port to the lead light. -/
theorem sendHold_loc {e : ErrRec} {s : State} {m : Nat} (hen : s.ring.en = true) (hlead : s.ring.leadId ≠ s.ring.chipId)
    (hroute : s.ring.route s.ring.leadId = some m) (hm : m < s.ring.ports.length) :
    ∃ p ∈ ((sendHold e s).rport m).loc, p.kind = 8 ∧ p.dst = s.ring.leadId := by
  rw [sendHold, if_pos hen]
  obtain ⟨p, hdst, -, hkind, -, -, -, -, hsent⟩ := s.originate_sentTo s.ring.leadId 8 0 0 0
    (toBytes 2 s.ring.chipId ++ toBytes 2 e.reason ++ toBytes 4 s.ring.markLast ++ toBytes 8 0)
  obtain ⟨-, hport⟩ := hsent hlead
  refine ⟨p, ?_, hkind, hdst⟩
  rw [(hport m hm hroute).1]
  exact List.mem_append_right _ (List.mem_singleton_self p)

/-- A fault is reported by a record and by HOLD. -/
def reportFault (e : ErrRec) (spare remain : Nat) (s : State) : State := sendHold e (faultEvent e spare remain s)

/-- What reporting a fault by the record `r` and by HOLD changes. -/
def State.Reports (r : EvRec) (s t : State) : Prop :=
  t = { s with
    evq := s.evq ++ [r], free := s.free + 1
    flt := { s.flt with info0 := t.flt.info0, info1 := t.flt.info1, recAt := t.flt.recAt }
    cnt := t.cnt
    ring := { s.ring with
      ports := t.ring.ports, loopQ := t.ring.loopQ, errReason := t.ring.errReason, errPort := t.ring.errPort
      errLocal := t.ring.errLocal, errSrc := t.ring.errSrc, errValid := t.ring.errValid } }

theorem reportFault_reports (e : ErrRec) (spare remain : Nat) (s : State) :
    State.Reports (faultRecord e spare remain s) s (reportFault e spare remain s) := by
  unfold State.Reports reportFault
  rw [sendHold_sends, faultEvent_frame]

/-- The record of a fault that is reported. -/
theorem mem_reportFault_evq (e : ErrRec) (spare remain : Nat) (s : State) :
    ∃ r ∈ (reportFault e spare remain s).evq,
      r.typ = 0x0B ∧ r.p0 = e.kind + e.reason * 256 + e.phys * 65536 + e.logi * 2 ^ 24 := by
  refine ⟨faultRecord e spare remain s, ?_, rfl, rfl⟩
  rw [reportFault_reports]
  exact List.mem_append_right _ (List.mem_singleton_self _)

theorem State.powerOff_frame (s : State) (dom : Nat) :
    s.powerOff dom = { s with pwr := (s.powerOff dom).pwr, out := (s.powerOff dom).out } := by
  unfold State.powerOff
  split
  · split <;> rfl
  · split <;> rfl

/-! ### A unit without a spare (R390, R397) -/

/-- What fencing a unit changes. -/
theorem fenceUnit_frame (e : ErrRec) (s : State) :
    fenceUnit e s = { s with
      flt := { s.flt with
        fenced := (e.kind, e.phys) :: s.flt.fenced.filter (· != (e.kind, e.phys))
        fencedAt := (fenceUnit e s).flt.fencedAt
        unitdown := s.flt.unitdown || (e.kind != 7 && e.kind != 8) }
      ln := (fenceUnit e s).ln, pwr := (fenceUnit e s).pwr, out := (fenceUnit e s).out
      ring := { s.ring with ports := (fenceUnit e s).ring.ports }
      mem := (fenceUnit e s).mem
      kp := { s.kp with sysFenced := (fenceUnit e s).kp.sysFenced, sys := (fenceUnit e s).kp.sys } } := by
  unfold fenceUnit
  dsimp only
  split
  · rw [State.powerOff_frame]; rfl
  · rw [State.powerOff_frame]
  all_goals rfl

theorem fenceUnit_ports_length (e : ErrRec) (s : State) : (fenceUnit e s).ring.ports.length = s.ring.ports.length := by
  unfold fenceUnit
  dsimp only
  split
  · rw [State.powerOff_frame]; rfl
  · rw [State.powerOff_frame]
  · rfl
  · exact modifyAt_length ..
  all_goals rfl

/-- The fault of a unit without a spare. -/
theorem handleFault_unit {e : ErrRec} (hlo : 3 ≤ e.kind) (hhi : e.kind ≤ 10) (s : State) :
    handleFault e s = reportFault e 0xFF 0 (fenceUnit e (e.clear s)) := by
  unfold handleFault
  rw [if_neg (by omega)]
  dsimp only
  rw [if_neg (by omega), if_neg (by omega), if_neg (by omega)]
  rfl

/-! ### Which error the sequencer takes, and when (R392, R432) -/

/-- The sequencer may take an error of a known kind now: units are on, and a place is kept for the record (R384, R432). -/
theorem State.sequencer_may {s : State} (hunits : s.unitsOff = false) (hev : s.evWaiting < 68) :
    (2 ≤ s.rst.pstate || s.rst.entered || !s.evKept) = false := by
  simp only [State.unitsOff, Bool.or_eq_false_iff] at hunits
  simp [State.evKept, hunits.1, hunits.2, hev]

theorem exec_faultSequencerStart_before_ready {s : State} (h : s.rst.ready = false) (found : Option Detected) :
    exec (.faultSequencerStart found) s = .next s := by
  show execFaultSequencerStart found s = _
  simp [execFaultSequencerStart, h]

theorem exec_faultSequencerStart_idle {s : State} (h : s.errs = []) : exec (.faultSequencerStart none) s = .next s := by
  show execFaultSequencerStart none s = _
  simp [execFaultSequencerStart, h]

/-- An error found with the command is detected first. -/
theorem exec_faultSequencerStart_found {s : State} (h : s.rst.ready = true) (d : Detected) :
    exec (.faultSequencerStart (some d)) s = exec (.faultSequencerStart none)
      (s.detect (s.err d.kind.toNat d.reason.toNat d.phys.toNat d.logical.toNat d.addr.toNat)) := by
  show execFaultSequencerStart (some d) s = execFaultSequencerStart none _
  simp [execFaultSequencerStart, h]

section
variable {s : State} {e : ErrRec} {rest : List ErrRec} (herrs : s.errs = e :: rest) (hready : s.rst.ready = true)
include herrs hready

theorem exec_faultSequencerStart_fatal (hkind : e.kind = 0 ∨ 12 < e.kind) :
    exec (.faultSequencerStart none) s = .next (fatalFault { s with errs := rest }) := by
  show execFaultSequencerStart none s = _
  simp [execFaultSequencerStart, herrs, hready, hkind]

theorem exec_faultSequencerStart_off (hlo : 1 ≤ e.kind) (hhi : e.kind ≤ 12)
    (hoff : s.unitsOff = true ∨ 68 ≤ s.evWaiting) :
    exec (.faultSequencerStart none) s = .next s := by
  have hkind : ¬ (e.kind = 0 ∨ 12 < e.kind) := by omega
  have hwait : ((2 ≤ s.rst.pstate || s.rst.entered || !s.evKept) = true) := by
    simp only [State.unitsOff, State.evKept, Bool.or_eq_true, decide_eq_true_eq, Bool.not_eq_true', decide_eq_false_iff_not,
      Nat.not_lt] at hoff ⊢
    tauto
  show execFaultSequencerStart none s = _
  simp only [execFaultSequencerStart, herrs, hready]
  simp [hkind, hwait]

/-- During a swap the sequencer looks for an error of the spare only. -/
theorem exec_faultSequencerStart_swap (hlo : 1 ≤ e.kind) (hhi : e.kind ≤ 12) (hunits : s.unitsOff = false)
    (hev : s.evWaiting < 68) (hbusy : s.flt.seqbusy = true) :
    exec (.faultSequencerStart none) s = .next (swapFault s) := by
  have hkind : ¬ (e.kind = 0 ∨ 12 < e.kind) := by omega
  show execFaultSequencerStart none s = _
  simp only [execFaultSequencerStart, herrs, hready]
  simp [hkind, State.sequencer_may hunits hev, hbusy]

theorem exec_faultSequencerStart_handles (hlo : 1 ≤ e.kind) (hhi : e.kind ≤ 12) (hunits : s.unitsOff = false)
    (hev : s.evWaiting < 68) (hidle : s.flt.seqbusy = false) :
    exec (.faultSequencerStart none) s = .next (handleFault e { s with errs := rest }) := by
  have hkind : ¬ (e.kind = 0 ∨ 12 < e.kind) := by omega
  show execFaultSequencerStart none s = _
  simp only [execFaultSequencerStart, herrs, hready]
  simp [hkind, State.sequencer_may hunits hev, hidle]

/-- An error that does not concern the swap waits for its end. -/
theorem exec_faultSequencerStart_waits (hlo : 1 ≤ e.kind) (hhi : e.kind ≤ 12) (hbusy : s.flt.seqbusy = true)
    (hspare : ∀ x ∈ s.errs, s.aboutSpare x = false) : exec (.faultSequencerStart none) s = .next s := by
  by_cases hoff : s.unitsOff = true ∨ 68 ≤ s.evWaiting
  · exact exec_faultSequencerStart_off herrs hready hlo hhi hoff
  · rw [not_or, Bool.not_eq_true, Nat.not_le] at hoff
    rw [exec_faultSequencerStart_swap herrs hready hlo hhi hoff.1 hoff.2 hbusy, swapFault,
      List.find?_eq_none.2 (fun x hx => by simp [hspare x hx])]

end

/-! ### A fatal fault (R390) -/

/-- A fatal fault discards everything and ends a close; no event says so. -/
theorem fatalFault_spec (s : State) :
    (fatalFault s).flt.fatal = true ∧ (fatalFault s).wrun = false ∧ (fatalFault s).td.ch = [] ∧
      (fatalFault s).log.close = none ∧ (fatalFault s).errs = s.errs.map (fun x => { x with covered := true }) := by
  obtain ⟨-, hwrun, hch, -, -, -, -, herrs, -⟩ := discard_discarded s
  unfold fatalFault logQuiet
  generalize discard s = t at hwrun hch herrs
  exact ⟨rfl, hwrun, hch, rfl, herrs⟩

/-- The fault of a unit without a spare fences it, and is reported with the unit's own numbers. -/
theorem handleFault_unit_spec {e : ErrRec} (hlo : 3 ≤ e.kind) (hhi : e.kind ≤ 10) (s : State) :
    (e.covered = false → (handleFault e s).wrun = false ∧ (handleFault e s).td.ch = [] ∧
      (handleFault e s).rst.eclipse = none ∧ (handleFault e s).kp.workTaken = [] ∧
      (handleFault e s).kp.xferTaken = [] ∧ (handleFault e s).kp.ctlTaken = [] ∧
        (handleFault e s).errs = s.errs.map (fun x => { x with covered := true })) ∧
    (e.covered = true → (handleFault e s).str = s.str ∧ (handleFault e s).td.ch = s.td.ch ∧
      (handleFault e s).kp.workTaken = s.kp.workTaken ∧ (handleFault e s).errs = s.errs) ∧
    (e.kind, e.phys) ∈ (handleFault e s).flt.fenced ∧
    (e.kind ≠ 7 → e.kind ≠ 8 → (handleFault e s).flt.unitdown = true) ∧
    (∃ r ∈ (handleFault e s).evq, r.typ = 0x0B ∧
      r.p0 = e.kind + e.reason * 256 + e.phys * 65536 + e.logi * 2 ^ 24) := by
  rw [handleFault_unit hlo hhi]
  refine ⟨fun h => ?_, fun h => ?_, ?_, fun h7 h8 => ?_, mem_reportFault_evq ..⟩
  · obtain ⟨-, hwrun, hch, heclipse, hwork, hxfer, hctl, herrs, -⟩ := ErrRec.clear_discarded h s
    rw [reportFault_reports, fenceUnit_frame]
    exact ⟨hwrun, hch, heclipse, hwork, hxfer, hctl, herrs⟩
  · rw [ErrRec.clear_covered h, reportFault_reports, fenceUnit_frame]
    exact ⟨rfl, rfl, rfl, rfl⟩
  · rw [reportFault_reports, fenceUnit_frame]
    exact List.mem_cons_self
  · rw [reportFault_reports, fenceUnit_frame]
    simp [h7, h8]

/-- HOLD goes to the lead light with the fault of a unit without a spare. -/
theorem handleFault_unit_hold {e : ErrRec} (hlo : 3 ≤ e.kind) (hhi : e.kind ≤ 10) {s : State} {m : Nat}
    (hen : s.ring.en = true) (hlead : s.ring.leadId ≠ s.ring.chipId) (hroute : s.ring.route s.ring.leadId = some m)
    (hm : m < s.ring.ports.length) :
    ∃ p ∈ ((handleFault e s).rport m).loc, p.kind = 8 ∧ p.dst = s.ring.leadId := by
  have hring : (faultEvent e 0xFF 0 (fenceUnit e (e.clear s))).ring = { s.ring with
      ports := (fenceUnit e (e.clear s)).ring.ports, arrivals := (e.clear s).ring.arrivals
      chunks := (e.clear s).ring.chunks, loopQ := (e.clear s).ring.loopQ } := by
    rw [faultEvent_frame, fenceUnit_frame, e.clear_drops s]
  have hports : (fenceUnit e (e.clear s)).ring.ports.length = s.ring.ports.length := by
    rw [fenceUnit_ports_length, e.clear_ports_length]
  rw [handleFault_unit hlo hhi, reportFault]
  generalize faultEvent e 0xFF 0 (fenceUnit e (e.clear s)) = u at hring
  have hloc := sendHold_loc (e := e) (s := u) (m := m)
  rw [hring] at hloc
  exact hloc hen hlead hroute (by rw [hports]; exact hm)

/-! ### The Logbook (R390) -/

/-- An error of the Logbook sets its error bit and is reported by an event; nothing is discarded. -/
theorem handleFault_log {e : ErrRec} (h : e.kind = 12) (s : State) :
    handleFault e s = { s with
      log := { s.log with err := true }
      evq := s.evq ++ [faultRecord e 0xFF 0 { s with log := { s.log with err := true } }], free := s.free + 1
      flt := { s.flt with
        info0 := (handleFault e s).flt.info0, info1 := (handleFault e s).flt.info1
        recAt := (handleFault e s).flt.recAt } } := by
  rw [handleFault, if_pos h, faultEvent_frame]

/-! ### Clusters and their spares (R24, R395) -/

theorem clusterPump_frame (s : State) :
    clusterPump s = { s with pwr := (clusterPump s).pwr, out := (clusterPump s).out } := by
  unfold clusterPump
  split
  · rfl
  · split
    · rfl
    · split <;> rfl
    · rfl

/-- Each request for a cluster is made alone (R478). -/
theorem clusterPump_asking {s : State} (h : s.clusterAsking = true) : clusterPump s = s := by
  rw [clusterPump, if_pos h]

/-- What moving an index to a spare changes. -/
theorem startSwap_frame (n failed : Nat) (s : State) :
    (startSwap n failed s).2 = { s with
      map := { s.map with
        cl := (startSwap n failed s).2.map.cl, home := (startSwap n failed s).2.map.home
        before := (startSwap n failed s).2.map.before }
      flt := { s.flt with
        swapFor := (startSwap n failed s).2.flt.swapFor, swap := (startSwap n failed s).2.flt.swap
        seqbusy := (startSwap n failed s).2.flt.seqbusy }
      pwr := (startSwap n failed s).2.pwr, out := (startSwap n failed s).2.out } := by
  unfold startSwap
  split
  · rfl
  · dsimp only
    rw [clusterPump_frame]

/-- A swap that starts while a cluster's request is outstanding asks for nothing yet (R478). -/
theorem startSwap_pwr {s : State} (h : s.clusterAsking = true) (n failed : Nat) :
    (startSwap n failed s).2.pwr = s.pwr := by
  unfold startSwap
  split
  · rfl
  · dsimp only
    rw [clusterPump_asking (by exact h)]

/-- A cluster's OFF is asked for at once, or is due when no other cluster request is outstanding (R478); either way one is
outstanding then. -/
theorem State.powerOff_cluster {s : State} {p : Nat} (hp : p < 34) :
    (s.clusterAsking = false → (p, 0) ∈ (s.powerOff p).pwr.reqs) ∧
      (s.clusterAsking = true → p ∈ (s.powerOff p).pwr.offDue) ∧ (s.powerOff p).clusterAsking = true := by
  cases hask : s.clusterAsking with
  | false =>
    have hbusy : s.powerBusy p = false := by
      simp only [State.clusterAsking, State.powerBusy, List.any_eq_false] at hask ⊢
      intro r hr
      have := hask r hr
      simp only [decide_eq_true_eq] at this
      simp only [beq_iff_eq]
      omega
    have hoff : s.powerOff p = s.powerAsk p 0 := by simp [State.powerOff, hask, hbusy]
    have hmem : (p, 0) ∈ (s.powerAsk p 0).pwr.reqs := List.mem_append_right _ (List.mem_singleton_self _)
    rw [hoff]
    exact ⟨fun _ => hmem, nofun, List.any_eq_true.2 ⟨_, hmem, by simpa using hp⟩⟩
  | true =>
    refine ⟨nofun, fun _ => ?_, ?_⟩
    · simp only [State.powerOff, hask, hp, decide_true, Bool.and_self, if_true]
      split
      · rename_i hdue
        simpa using hdue
      · exact List.mem_append_right _ (List.mem_singleton_self _)
    · simp only [State.powerOff, hask, hp, decide_true, Bool.and_self, if_true]
      split <;> exact hask

/-- A cluster that is fenced, off, and without its lane state (R21, R395). -/
def fenceCluster (p : Nat) (s : State) : State := { (s.setPc p .fenced).powerOff p with lanes := serase s.lanes p }

theorem fenceCluster_frame (p : Nat) (s : State) :
    fenceCluster p s = { s with
      map := { s.map with pc := s.map.pc.set p .fenced }, lanes := serase s.lanes p
      pwr := (fenceCluster p s).pwr, out := (fenceCluster p s).out } := by
  unfold fenceCluster
  rw [State.powerOff_frame]
  rfl

/-- What the fault of a cluster leaves: of its numbers the index is the one that it backed or was the home of. -/
theorem clusterFault_stages (e : ErrRec) (s : State) : ∃ u spare remain,
    clusterFault e s = reportFault { e with logi := (s.map.indexOf e.phys).getD 0xFF } spare remain u ∧
    (u = fenceCluster e.phys s ∨ ∃ n, u = (startSwap n e.phys (fenceCluster e.phys s)).2) := by
  unfold clusterFault
  extract_lets p idx off fenced e'
  have hfenced : fenced = fenceCluster e.phys s := rfl
  rw [← hfenced]
  clear_value fenced
  have hidx : s.map.indexOf e.phys = idx := rfl
  rw [hidx]
  clear_value idx
  cases idx with
  | none => exact ⟨_, _, _, rfl, .inl rfl⟩
  | some n => exact ⟨_, _, _, rfl, .inr ⟨n, rfl⟩⟩

theorem clusterFault_spec {e : ErrRec} (hp : e.phys < 34) (s : State) : ∃ u spare remain,
    clusterFault e s = reportFault { e with logi := (s.map.indexOf e.phys).getD 0xFF } spare remain u ∧
      u.map.pc = s.map.pc.set e.phys .fenced ∧ u.lanes = serase s.lanes e.phys ∧ u.str = s.str ∧ u.td = s.td ∧
      u.pwr = ((s.setPc e.phys .fenced).powerOff e.phys).pwr := by
  obtain ⟨u, spare, remain, hreport, rfl | ⟨n, rfl⟩⟩ := clusterFault_stages e s
  · refine ⟨_, spare, remain, hreport, ?_⟩
    rw [fenceCluster_frame]
    exact ⟨rfl, rfl, rfl, rfl, rfl⟩
  · refine ⟨_, spare, remain, hreport, ?_⟩
    have hask : (fenceCluster e.phys s).clusterAsking = true := (State.powerOff_cluster (s := s.setPc e.phys .fenced) hp).2.2
    rw [startSwap_frame, startSwap_pwr hask, fenceCluster_frame]
    exact ⟨rfl, rfl, rfl, rfl, rfl⟩

theorem handleFault_cluster {e : ErrRec} (h : e.kind = 1) (s : State) : handleFault e s = clusterFault e (e.clear s) := by
  unfold handleFault
  rw [if_neg (by omega)]
  exact if_pos h

/-- A cluster is fenced, its lanes' state is lost, its power goes off, and the FAULT record names its index. -/
theorem handleFault_cluster_spec {e : ErrRec} (h : e.kind = 1) (hp : e.phys < 34) {s : State}
    (hpc : s.map.pc.length = 34) (hlanes : swf Lanes.fresh s.lanes = true) :
    (handleFault e s).map.pc.getD e.phys .spare = .fenced ∧ (handleFault e s).lane e.phys = Lanes.fresh ∧
      (e.covered = false → (handleFault e s).wrun = false ∧ (handleFault e s).td.ch = []) ∧
      (s.clusterAsking = false → (e.phys, 0) ∈ (handleFault e s).pwr.reqs) ∧
      (s.clusterAsking = true → e.phys ∈ (handleFault e s).pwr.offDue) ∧
      ∃ r ∈ (handleFault e s).evq, r.typ = 0x0B ∧
        r.p0 = 1 + e.reason * 256 + e.phys * 65536 + (s.map.indexOf e.phys).getD 0xFF * 2 ^ 24 := by
  have hdrops := e.clear_drops s
  have hmap : (e.clear s).map = s.map := by rw [hdrops]
  have hlane : (e.clear s).lanes = s.lanes := by rw [hdrops]
  have hpwr : (e.clear s).pwr = s.pwr := by rw [hdrops]
  have hask : ((e.clear s).setPc e.phys .fenced).clusterAsking = s.clusterAsking := by
    simp only [State.clusterAsking, State.setPc_pwr, hpwr]
  obtain ⟨u, spare, remain, hreport, hupc, hulanes, hustr, hutd, hupwr⟩ := clusterFault_spec hp (e.clear s)
  obtain ⟨hnow, hdue, -⟩ := State.powerOff_cluster (s := (e.clear s).setPc e.phys .fenced) hp
  rw [hask, ← hupwr] at hnow hdue
  rw [handleFault_cluster h, hreport, hmap]
  obtain ⟨r, hr, htyp, hp0⟩ := mem_reportFault_evq { e with logi := (s.map.indexOf e.phys).getD 0xFF } spare remain u
  refine ⟨?_, ?_, fun hc => ?_, ?_, ?_, r, hr, htyp, ?_⟩
  · rw [reportFault_reports, hupc, hmap]
    simp [hpc, hp]
  · rw [State.lane, reportFault_reports, hulanes, hlane, sget_serase _ _ (swf_iff.1 hlanes), if_pos rfl]
  · obtain ⟨-, hwrun, hch, -⟩ := ErrRec.clear_discarded hc s
    rw [State.wrun, reportFault_reports, hustr, hutd]
    exact ⟨hwrun, hch⟩
  · rw [reportFault_reports]
    exact hnow
  · rw [reportFault_reports]
    exact hdue
  · rw [hp0, h]

/-- A spare that fails is fenced as well, and reported under the index it was to take (R395, R462). -/
theorem spareFailed_stages (reason : Nat) (j : ClSwap) (s : State) : ∃ u spare remain,
    spareFailed reason j s = reportFault (u.err 0x01 reason j.spare j.idx 0) spare remain u ∧
      u.map.pc = s.map.pc.set j.spare .fenced ∧ u.errs = s.errs := by
  let fenced := (State.setPc { s with flt := { s.flt with swapFor := [] } } j.spare .fenced).powerOff j.spare
  refine ⟨(startSwap j.idx j.failed fenced).2, _, _, rfl, ?_⟩
  rw [startSwap_frame, show fenced = _ from State.powerOff_frame _ _]
  exact ⟨rfl, rfl⟩

theorem spareFailed_spec (reason : Nat) {j : ClSwap} {s : State} (hp : j.spare < s.map.pc.length) :
    (spareFailed reason j s).map.pc.getD j.spare .spare = .fenced ∧ (spareFailed reason j s).errs = s.errs ∧
      ∃ r ∈ (spareFailed reason j s).evq, r.typ = 0x0B ∧
        r.p0 = 1 + reason * 256 + j.spare * 65536 + j.idx * 2 ^ 24 := by
  obtain ⟨u, spare, remain, hreport, hpc, herrs⟩ := spareFailed_stages reason j s
  rw [hreport]
  refine ⟨?_, ?_, mem_reportFault_evq ..⟩
  · rw [reportFault_reports, hpc]
    simp [hp]
  · rw [reportFault_reports, herrs]

/-- What a spare's entry into service changes (R26, R395, R427). -/
theorem swapDone_frame (n p : Nat) (s : State) :
    swapDone n p s = { s with
      lanes := serase s.lanes p, osura := { s.osura with cb := serase s.osura.cb p }
      cnt := { s.cnt with cl := (swapDone n p s).cnt.cl, was := (swapDone n p s).cnt.was }
      map := { s.map with
        home := (s.map.home.map (fun h => if h = some p then none else h)).set n (some p)
        cl := (swapDone n p s).map.cl
        pc := s.map.pc.set p (if n < s.map.lastLc then .mapped else .idle)
        before := (swapDone n p s).map.before }
      flt := { s.flt with swapFor := [], swap := false, seqbusy := false } } := by
  unfold swapDone
  dsimp only
  rfl

/-- Once `p` is the home of `n`, it is the home of no other index. -/
theorem home_swapped {home : List (Option Nat)} {n p : Nat} (hn : n < home.length) :
    ((home.map (fun h => if h = some p then none else h)).set n (some p)).getD n none = some p ∧
      ∀ m, m ≠ n → ((home.map (fun h => if h = some p then none else h)).set n (some p)).getD m none ≠ some p := by
  constructor
  · simp [hn]
  · intro m hm
    rw [List.getD_eq_getElem?_getD, List.getElem?_set_ne (Ne.symm hm), List.getElem?_map]
    cases home[m]? with
    | none => simp
    | some h =>
      show (if h = some p then none else h) ≠ some p
      split
      · simp
      · assumption

/-- A spare that passes its BIST takes the index, with fresh lanes; the other clusters' lanes are as they were. -/
theorem swapDone_spec {n p : Nat} {s : State} (hn : n < s.map.home.length) (hp : p < s.map.pc.length)
    (hlanes : swf Lanes.fresh s.lanes = true) :
    (swapDone n p s).map.home.getD n none = some p ∧
      (∀ m, m ≠ n → (swapDone n p s).map.home.getD m none ≠ some p) ∧
      (swapDone n p s).map.pc.getD p .fenced = (if n < s.map.lastLc then .mapped else .idle) ∧
      (swapDone n p s).lane p = Lanes.fresh ∧ (∀ q, q ≠ p → (swapDone n p s).lane q = s.lane q) := by
  obtain ⟨hhome, hother⟩ := home_swapped (p := p) hn
  have hlane : ∀ q, (swapDone n p s).lane q = if q = p then Lanes.fresh else s.lane q := by
    intro q
    rw [State.lane, swapDone_frame]
    exact sget_serase p q (swf_iff.1 hlanes)
  rw [swapDone_frame]
  rw [swapDone_frame] at hlane
  refine ⟨hhome, hother, ?_, ?_, fun q hq => ?_⟩
  · simp [hp]
  · rw [hlane, if_pos rfl]
  · rw [hlane, if_neg hq]

section
variable {s : State} {n failed : Nat} {p : Fin 34} {on : Bool} (hswap : s.flt.swapFor = [⟨n, p, on, failed⟩])
include hswap

theorem exec_spareBistDone_pass (hon : on = true) : exec (.spareBistDone p true) s = .next (swapDone n p s) := by
  show execSpareBistDone p true s = _
  simp [execSpareBistDone, hswap, hon]

theorem exec_spareBistDone_fail (hon : on = true) (hev : s.evWaiting < 68) :
    exec (.spareBistDone p false) s = .next (spareFailed 0x0A ⟨n, p, on, failed⟩ s) := by
  show execSpareBistDone p false s = _
  simp [execSpareBistDone, hswap, hon, State.evKept, hev]

/-- The answer of another cluster's BIST, or of a spare still without power, changes nothing. -/
theorem exec_spareBistDone_other {q : Fin 34} (pass : Bool) (h : on = false ∨ q ≠ p) :
    exec (.spareBistDone q pass) s = .next s := by
  have hother : (!on || (p : Nat) != (q : Nat)) = true := by
    rcases h with rfl | hq
    · rfl
    · have : (p : Nat) ≠ q := fun e => hq (Fin.ext e.symm)
      simp [this]
  show execSpareBistDone q pass s = _
  simp only [execSpareBistDone, hswap, hother, if_true]

/-- An error of the very spare that is swapped in fails it at once. -/
theorem swapFault_spare {e : ErrRec} (herrs : s.errs = [e]) (hkind : e.kind = 1) (hphys : e.phys = p) :
    swapFault s = spareFailed e.reason ⟨n, p, on, failed⟩ { s with errs := [] } := by
  have habout : s.aboutSpare e = true := by simp [State.aboutSpare, hkind, hphys, hswap]
  simp [swapFault, herrs, habout, hkind, hswap]

end

theorem exec_spareBistDone_none {s : State} (h : s.flt.swapFor = []) (p : Fin 34) (pass : Bool) :
    exec (.spareBistDone p pass) s = .next s := by
  show execSpareBistDone p pass s = _
  simp [execSpareBistDone, h]

/-! ### Sectors and their spares (R63 to R65) -/

/-- `t` is `s` but for what dropping a sector's work and lighting sectors can change. -/
def State.SectorWork (s t : State) : Prop :=
  t = { s with
    osura := { s.osura with q := t.osura.q, secs := t.osura.secs }, log := t.log, trc := t.trc, mem := t.mem
    kp := { s.kp with ctlRun := t.kp.ctlRun, cdone := t.kp.cdone }, evq := t.evq, errs := t.errs, pwr := t.pwr
    out := t.out }

theorem State.SectorWork.refl (s : State) : s.SectorWork s := rfl

theorem State.SectorWork.trans {s t u : State} (h : s.SectorWork t) (g : t.SectorWork u) : s.SectorWork u := by
  unfold State.SectorWork at *
  rw [g, h]

theorem State.SectorWork.ite {s t u : State} {c : Prop} [Decidable c] (ht : s.SectorWork t) (hu : s.SectorWork u) :
    s.SectorWork (if c then t else u) := by
  split <;> assumption

theorem State.askOsura_sectorWork (s : State) (agent : Agent) (who : Owner) (a len : Nat) (wr : Option (List Host.Cell)) :
    s.SectorWork (s.askOsura agent who a len wr) := rfl

theorem startLight_sectorWork (ps sec : Nat) (s : State) : s.SectorWork (startLight ps sec s) := rfl

theorem restoreNext_sectorWork (s : State) : s.SectorWork (restoreNext s) := by
  unfold restoreNext
  split
  · split
    · exact .refl s
    · split
      · rfl
      · refine State.SectorWork.ite rfl (State.SectorWork.trans ?_
          (List.foldlRecOn _ _ (.refl _) (fun t ht i _ => ht.trans (t.askOsura_sectorWork _ _ _ _ _))))
        rfl
  · exact .refl s

theorem dropSectorWork_sectorWork (k : Nat) (s : State) : s.SectorWork (dropSectorWork k s) := by
  refine List.foldlRecOn _ _ (.refl s) (fun t ht r _ => ht.trans ?_)
  have htake : t.SectorWork (t.takeReq r) := rfl
  cases hwho : r.who with
  | log g line | scrub line | trace =>
    refine htake.trans ?_
    simp only [ownerRefused, hwho]
    rfl
  | restore g line =>
    refine htake.trans ?_
    simp only [ownerRefused, hwho]
    exact restoreNext_sectorWork _
  | _ => exact htake

theorem State.secSettled_sectorWork (s : State) (op sec : Nat) (failed : Bool) :
    s.SectorWork (s.secSettled op sec failed) := by
  unfold State.SectorWork State.secSettled
  rw [ctlPump_frame]

theorem State.detect_sectorWork (s : State) (e : ErrRec) : s.SectorWork (s.detect e) := by
  unfold State.SectorWork State.detect endRestore restoreFail
  split <;> rfl

theorem State.retireAgain_sectorWork (s : State) (ps sec : Nat) : s.SectorWork (s.retireAgain ps sec) := by
  unfold State.retireAgain
  split
  · exact .refl s
  · exact s.detect_sectorWork _

theorem lightGo_sectorWork (l : List Nat) : ∀ s : State, s.SectorWork (lightGo l s) := by
  induction l with
  | nil => exact .refl
  | cons sec l ih =>
    intro s
    unfold lightGo
    split
    · refine State.SectorWork.trans ?_ (ih _)
      rfl
    · split
      · exact (s.retireAgain_sectorWork _ _).trans (ih _)
      · split
        · exact .refl s
        · exact (startLight_sectorWork _ _ s).trans (ih _)

theorem fenceSector_frame (p : Nat) (s : State) :
    fenceSector p s = { s with
      map := { s.map with psec := s.map.psec.set p .fenced }, pwr := (fenceSector p s).pwr
      out := (fenceSector p s).out } := by
  unfold fenceSector
  dsimp only
  split
  · rw [State.powerOff_frame]
  · rfl

/-- A sector that is no spare leaves the spares as they were when it is fenced. -/
theorem State.pickSector_fenced {s t : State} {p : Nat} (hmap : t.map.psec = s.map.psec.set p .fenced)
    (hlen : s.map.psec.length = 68) (hp : p < 68) (hspare : s.map.psec.getD p .fenced ≠ .spare) :
    t.pickSector p = s.pickSector p := by
  have hpsec : ∀ q, (t.map.psec.getD q .fenced == .spare) = (s.map.psec.getD q .fenced == .spare) := by
    intro q
    rw [hmap]
    by_cases hq : q = p
    · subst hq
      simp only [List.getD_eq_getElem?_getD] at hspare ⊢
      rw [List.getElem?_set_self (by omega), beq_eq_false_iff_ne.2 hspare]
      rfl
    · rw [List.getD_eq_getElem?_getD, List.getElem?_set_ne (Ne.symm hq), ← List.getD_eq_getElem?_getD]
  simp only [State.pickSector, hpsec]

/-- The logical sector that a failed physical sector backs. -/
theorem State.find_psecOf {s : State} {k : Fin 64} {p : Nat} (hk : s.psecOf k = some p)
    (huniq : ∀ j < 64, s.psecOf j = some p → j = k.val) :
    (upTo 64).find? (fun j => s.psecOf j == some p) = some k.val := by
  cases hfind : (upTo 64).find? (fun j => s.psecOf j == some p) with
  | none =>
    have := List.find?_eq_none.1 hfind k.val (List.mem_range.2 k.isLt)
    simp [hk] at this
  | some j =>
    have hj := List.find?_some hfind
    rw [huniq j (List.mem_range.1 (List.mem_of_find?_eq_some hfind)) (by simpa using hj)]

theorem handleFault_sector {e : ErrRec} (h : e.kind = 2) (s : State) : handleFault e s = sectorFault e (e.clear s) := by
  unfold handleFault
  rw [if_neg (by omega)]
  dsimp only
  rw [if_neg (by omega)]
  exact if_pos h

/-- With a spare left, it starts to light, and the map is as it was (R64 steps 3 and 4). -/
theorem startSecSwap_some {k : Nat} {e : ErrRec} {q : Nat} {s : State} (h : s.pickSector e.phys = some q) :
    (startSecSwap k e [] s).flt = { s.flt with secSwap := some ⟨k, q, [(e, q)]⟩, swap := true, seqbusy := true } ∧
      (startSecSwap k e [] s).map = s.map ∧ (startSecSwap k e [] s).str = s.str ∧ (startSecSwap k e [] s).td = s.td := by
  unfold startSecSwap
  rw [h]
  dsimp only
  rw [lightNext, lightGo_sectorWork]
  exact ⟨rfl, rfl, rfl, rfl⟩

/-- With no spare left, the logical sector is unbacked, and the fault is reported (R65). -/
theorem startSecSwap_none {k : Nat} {e : ErrRec} {s : State} (h : s.pickSector e.phys = none) : ∃ u remain,
    startSecSwap k e [] s = reportFault e 0xFF remain u ∧ u.map = { s.map with sec := s.map.sec.set k none } ∧
      u.str = s.str ∧ u.td = s.td := by
  unfold startSecSwap
  rw [h]
  refine ⟨_, _, rfl, ?_⟩
  rw [State.secSettled_sectorWork]
  exact ⟨rfl, rfl, rfl⟩

/-- The work of a retired sector is dropped before its spare is chosen. -/
theorem sectorFault_stages {e : ErrRec} {s : State} {k : Nat}
    (hfind : (upTo 64).find? (fun j => s.psecOf j == some e.phys) = some k) : ∃ u,
    (fenceSector e.phys s).SectorWork u ∧ sectorFault e s = startSecSwap k { e with logi := k } [] u := by
  have hpsec : (fenceSector e.phys s).psecOf = s.psecOf := by
    funext j
    rw [fenceSector_frame]
    rfl
  unfold sectorFault
  dsimp only
  rw [hpsec, hfind]
  refine ⟨_, ?_, rfl⟩
  refine ((dropSectorWork_sectorWork k _).trans ?_).trans (State.secSettled_sectorWork _ _ _ _)
  rfl

/-- A sector is fenced, and a spare lights for it before the map and the FAULT record name it; with none left it is
unbacked. -/
theorem handleFault_sector_spec {e : ErrRec} (h : e.kind = 2) (hp : e.phys < 68) {s : State} {k : Fin 64}
    (hlen : s.map.psec.length = 68) (hk : s.psecOf k = some e.phys)
    (huniq : ∀ j < 64, s.psecOf j = some e.phys → j = k.val) (hspare : s.map.psec.getD e.phys .fenced ≠ .spare) :
    (handleFault e s).map.psec.getD e.phys .spare = .fenced ∧
      (e.covered = false → (handleFault e s).wrun = false ∧ (handleFault e s).td.ch = []) ∧
      (∀ q, s.pickSector e.phys = some q → (handleFault e s).flt.seqbusy = true ∧
        (handleFault e s).map.sec = s.map.sec ∧ ∃ w, (handleFault e s).flt.secSwap = some w ∧ w.sec = k ∧ w.spare = q ∧
          w.reports.map (fun x => (x.1.phys, x.1.logi, x.2)) = [(e.phys, k.val, q)]) ∧
      (s.pickSector e.phys = none → (handleFault e s).map.sec = s.map.sec.set k none ∧
        ∃ r ∈ (handleFault e s).evq, r.typ = 0x0B ∧
          r.p0 = 2 + e.reason * 256 + e.phys * 65536 + k.val * 2 ^ 24) := by
  have hmap : (e.clear s).map = s.map := by rw [e.clear_drops s]
  have hfind : (upTo 64).find? (fun j => (e.clear s).psecOf j == some e.phys) = some k.val := by
    simp only [State.psecOf, hmap]
    exact State.find_psecOf hk huniq
  obtain ⟨u, hwork, hswap⟩ := sectorFault_stages hfind
  rw [fenceSector_frame] at hwork
  have humap : u.map = { s.map with psec := s.map.psec.set e.phys .fenced } := by rw [hwork, hmap]
  have hustr : u.str = (e.clear s).str := by rw [hwork]
  have hutd : u.td = (e.clear s).td := by rw [hwork]
  have hpick : u.pickSector e.phys = s.pickSector e.phys := State.pickSector_fenced (by rw [humap]) hlen hp hspare
  have hfenced : (s.map.psec.set e.phys .fenced).getD e.phys .spare = .fenced := by simp [hlen, hp]
  have hidle : e.covered = false → (e.clear s).wrun = false ∧ (e.clear s).td.ch = [] := fun hc =>
    ⟨(ErrRec.clear_discarded hc s).wrun, (ErrRec.clear_discarded hc s).ch⟩
  rw [handleFault_sector h, hswap]
  simp only [State.wrun] at hidle ⊢
  cases hq : s.pickSector e.phys with
  | some q =>
    obtain ⟨hflt, hmap', hstr, htd⟩ := startSecSwap_some (k := k) (e := { e with logi := k }) (hpick.trans hq)
    rw [hflt, hmap', hstr, htd, humap, hustr, hutd]
    refine ⟨hfenced, hidle, ?_, nofun⟩
    rintro q' hq'
    obtain rfl := Option.some.inj hq'
    exact ⟨rfl, rfl, _, rfl, rfl, rfl, rfl⟩
  | none =>
    obtain ⟨v, remain, hreport, hvmap, hvstr, hvtd⟩ :=
      startSecSwap_none (k := k) (e := { e with logi := k }) (hpick.trans hq)
    rw [hreport]
    obtain ⟨r, hr, htyp, hp0⟩ := mem_reportFault_evq { e with logi := k } 0xFF remain v
    refine ⟨?_, fun hc => ?_, nofun, fun _ => ⟨?_, r, hr, htyp, by rw [hp0, h]⟩⟩
    · rw [reportFault_reports, hvmap, humap]
      exact hfenced
    · rw [reportFault_reports, hvstr, hvtd, hustr, hutd]
      exact hidle hc
    · rw [reportFault_reports, hvmap, humap]

/-- Settles O60: each kind of error by what the sequencer does with it, and the answers of a spare's BIST. -/
theorem faults : Obligations.Faults := by
  unfold Obligations.Faults
  intro s hinv hports hpc hpsec hhome
  obtain ⟨-, -, -, -, -, hlanes, -⟩ := hinv
  refine ⟨fun found h => exec_faultSequencerStart_before_ready h found, exec_faultSequencerStart_idle, ?_, ?_, ?_, ?_⟩
  · intro d hready
    exact ⟨_, s.detect_detected _ _ _ _ _, exec_faultSequencerStart_found hready d⟩
  · intro e rest herrs hready
    refine ⟨exec_faultSequencerStart_off herrs hready, exec_faultSequencerStart_waits herrs hready, fun hkind => ?_, ?_⟩
    · exact ⟨_, exec_faultSequencerStart_fatal herrs hready hkind, fatalFault_spec _⟩
    · intro hidle hunits hev
      have handles (hlo : 1 ≤ e.kind) (hhi : e.kind ≤ 12) :=
        exec_faultSequencerStart_handles herrs hready hlo hhi hunits hev hidle
      refine ⟨fun hlo hhi => ?_, fun hkind hp => ?_, fun k hkind hp hk huniq hspare => ?_, fun hkind => ?_⟩
      · obtain ⟨hdiscard, hcovered, hfenced, hdown, hrecord⟩ := handleFault_unit_spec hlo hhi { s with errs := rest }
        exact ⟨_, handles (by omega) (by omega), hdiscard, hcovered, hfenced, hdown, hrecord,
          fun m hen hlead hroute hm => handleFault_unit_hold hlo hhi hen hlead hroute (by rw [hports]; exact hm)⟩
      · exact ⟨_, handles (by omega) (by omega), handleFault_cluster_spec hkind hp hpc hlanes⟩
      · exact ⟨_, handles (by omega) (by omega), handleFault_sector_spec hkind hp hpsec hk huniq hspare⟩
      · refine ⟨_, handles (by omega) (by omega), ?_⟩
        rw [handleFault_log hkind]
        exact ⟨rfl, ⟨_, rfl, rfl, by rw [(faultRecord_fields ..).2, hkind]⟩, rfl⟩
  · intro n failed p hn
    have hp : p.val < s.map.pc.length := by rw [hpc]; exact p.isLt
    refine ⟨fun hswap => ⟨?_, fun hev => ?_, fun q pass hq => exec_spareBistDone_other hswap pass (.inr hq)⟩,
      fun hswap q pass => exec_spareBistDone_other hswap pass (.inl rfl), ?_⟩
    · obtain ⟨hmine, hother, hstate, hfresh, hlane⟩ :=
        swapDone_spec (n := n) (p := p) (by rw [hhome]; exact hn) hp hlanes
      refine ⟨_, exec_spareBistDone_pass hswap rfl, hmine, fun m _ hm => hother m hm, hstate, ?_, hfresh, hlane, ?_⟩
      · rw [swapDone_frame]
      · rw [swapDone_frame]
    · obtain ⟨hfenced, -, hrecord⟩ := spareFailed_spec 0x0A (j := ⟨n, p, true, failed⟩) (s := s) hp
      exact ⟨_, exec_spareBistDone_fail hswap rfl hev, hfenced, hrecord⟩
    · intro on e hswap hbusy herrs hkind hphys hready hunits hev
      refine ⟨_, exec_faultSequencerStart_swap herrs hready (by omega) (by omega) hunits hev hbusy, ?_⟩
      rw [swapFault_spare hswap herrs hkind hphys]
      exact spareFailed_spec e.reason (j := ⟨n, p, on, failed⟩) (s := { s with errs := [] }) hp
  · exact fun p pass h => exec_spareBistDone_none h p pass

end Sys2Proof.Machine

namespace Sys2Proof.Machine

/-! ### Settings that wait for an idle stream (R39, R142) -/

/-- Settles O36, by the two guards and the two pending settings. -/
theorem settingsApply : Obligations.SettingsApply := by
  unfold Obligations.SettingsApply
  intro s
  refine ⟨fun hidle hedge v hv => ?_, fun h => ?_, fun hidle c hc => ?_, fun h => ?_⟩
  · simp [exec, execAsyncShareApply, hidle, hedge, applyShare, hv]
  · obtain hrun | hedge | hnone := h
    · simp [exec, execAsyncShareApply, hrun]
    · simp [exec, execAsyncShareApply, hedge]
    · simp [exec, execAsyncShareApply, applyShare, hnone]
  · simp [exec, execFarSettingsApply, hidle, applyFar, hc, State.modStr]
  · obtain hrun | hnone := h
    · simp [exec, execFarSettingsApply, hrun]
    · simp [exec, execFarSettingsApply, applyFar, hnone]

/-! ### The reset state (R423) -/

/-- The state right after a power-on reset has the invariant: every sparse store is empty, and the Daymark is not
locked. -/
theorem State.reset_inv : State.reset.Inv := by
  refine ⟨⟨rfl, rfl⟩, ⟨rfl, by decide, nofun⟩, ⟨by decide, nofun⟩, by decide, nofun, ?_⟩
  exact ⟨rfl, rfl, rfl, rfl, rfl, rfl, rfl⟩

/-- Settles O4: the invariant of the reset state, and its fields one by one. -/
theorem resetState : Obligations.ResetState :=
  ⟨State.reset_inv, rfl, rfl, rfl, rfl, rfl, rfl, rfl, rfl, rfl, rfl, rfl, rfl, rfl, rfl, rfl, rfl⟩

/-! ### What the invariant says of each sparse store -/

theorem State.Inv.data {s : State} (h : s.Inv) : swf 0#8 s.osura.data = true := h.1.1

theorem State.Inv.check {s : State} (h : s.Inv) : swf 0#8 s.osura.check = true := h.1.2

theorem State.Inv.buoys {s : State} (h : s.Inv) : swf Buoy.idle s.buoys.b = true := by
  obtain ⟨-, -, -, -, -, -, -, -, -, hbuoys, -⟩ := h
  exact hbuoys

theorem State.Inv.secs {s : State} (h : s.Inv) : swf SecCtl.fresh s.osura.secs = true := by
  obtain ⟨-, -, -, -, -, -, -, -, -, -, hsecs, -⟩ := h
  exact hsecs

theorem State.Inv.cb {s : State} (h : s.Inv) : swf [] s.osura.cb = true := by
  obtain ⟨-, -, -, -, -, -, -, -, -, -, -, hcb⟩ := h
  exact hcb

/-! ### Clearing and marking ranges of a sparse store -/

theorem sget_eq_default {α : Type} {d : α} {m : Sparse α} {a : Nat} (h : ∀ x ∈ m, x.1 ≠ a) : sget d m a = d := by
  induction m with
  | nil => rfl
  | cons x m ih =>
    rw [sget, if_neg (h x List.mem_cons_self), ih (fun y hy => h y (List.mem_cons_of_mem _ hy)), ite_self]

/-- A filter that keeps the entry of a key leaves what the key reads as. -/
theorem sget_filter {α : Type} {d : α} {m : Sparse α} (p : Nat × α → Bool) {a : Nat} (hp : ∀ v, p (a, v) = true) :
    ∀ {b : Nat}, swfFrom d b m → sget d (m.filter p) a = sget d m a := by
  induction m with
  | nil => intro b _; rfl
  | cons x m ih =>
    obtain ⟨k, v⟩ := x
    intro b h
    obtain ⟨hk, hv, hm⟩ := swfFrom_cons.1 h
    have hrest := ih hm
    by_cases hka : k = a
    · subst hka
      simp [hp, sget]
    · by_cases hpk : p (k, v) = true
      · rw [List.filter_cons_of_pos hpk, sget, sget, hrest]
      · rw [List.filter_cons_of_neg hpk, hrest, sget, if_neg hka]
        split
        · exact sget_of_lt hm (by omega)
        · rfl

/-- A cleared range reads as unlisted; the rest is as it was. -/
theorem sget_seraseRange {α : Type} [DecidableEq α] {d : α} {m : Sparse α} (lo hi a : Nat) (h : swf d m = true) :
    sget d (seraseRange m lo hi) a = if lo ≤ a ∧ a < hi then d else sget d m a := by
  split
  · refine sget_eq_default (fun x hx => ?_)
    have hout := (List.mem_filter.1 hx).2
    simp only [Bool.or_eq_true, decide_eq_true_eq] at hout
    omega
  · refine sget_filter _ (fun v => ?_) (swf_iff.1 h)
    simp only [Bool.or_eq_true, decide_eq_true_eq]
    omega

/-- Marking granules dirty in turn marks those and no others. -/
theorem markDirty_foldl (l : List Nat) : ∀ s : State,
    l.foldl State.markDirty s = { s with log := { s.log with
      dirtyA := l.foldl (fun m g => sset false m g true) s.log.dirtyA
      dirtyB := l.foldl (fun m g => sset false m g true) s.log.dirtyB } } := by
  induction l with
  | nil => intro s; rfl
  | cons g l ih => intro s; rw [List.foldl_cons, ih]; rfl

theorem sget_mark_foldl (l : List Nat) (a : Nat) : ∀ m : Sparse Bool,
    sget false (l.foldl (fun m g => sset false m g true) m) a = if a ∈ l then true else sget false m a := by
  induction l with
  | nil => intro m; rfl
  | cons g l ih =>
    intro m
    have hput : sget false (sset false m g true) a = if a = g then true else sget false m a := sget_sput g a
    rw [List.foldl_cons, ih, hput]
    by_cases hg : a = g <;> simp [hg]

theorem mem_fromTo {a n x : Nat} : x ∈ fromTo a n ↔ a ≤ x ∧ x < a + n := by
  simp only [fromTo, List.mem_map, List.mem_range]
  constructor
  · rintro ⟨i, hi, rfl⟩
    omega
  · rintro ⟨h, h'⟩
    exact ⟨x - a, by omega, by omega⟩

end Sys2Proof.Machine

namespace Sys2Proof.Machine

/-! ### The scrubber (R56, R57, R429) -/

/-- Its pace off, a sector that is not Lit, too early a tick, or Eclipse: the scrubber asks for nothing. -/
theorem exec_scrubRequest_idle {s : State} {sec : Fin 64}
    (h : (s.secCtl sec).st ≠ .lit ∨ s.osura.scrubPace = 0 ∨ 1 < s.rst.pstate ∨
      s.clk.ticks < (s.secCtl sec).scrubTick + s.osura.scrubPace) : exec (.scrubRequest sec) s = .next s := by
  refine if_pos ?_
  obtain hst | hpace | hpower | htick := h
  · simp [hst]
  · simp [hpace]
  · simp [hpower]
  · simp [htick]

/-- The scrubber's books of a request, whether or not the one before still waits. -/
def SecCtl.scrubAsked (now : Nat) (c : SecCtl) : SecCtl :=
  { c with scrubTick := now, scrubOver := c.scrubWait, scrubWait := true }

/-- A request of the scrubber: a new one, or the one that still waits becomes overdue. -/
theorem exec_scrubRequest {s : State} {sec : Fin 64} (hready : s.rst.ready = true) (hlit : (s.secCtl sec).st = .lit)
    (hpace : s.osura.scrubPace ≠ 0) (hpower : s.rst.pstate ≤ 1)
    (htick : (s.secCtl sec).scrubTick + s.osura.scrubPace ≤ s.clk.ticks) :
    exec (.scrubRequest sec) s = .next (if (s.secCtl sec).scrubWait then
      { s.modSec sec (SecCtl.scrubAsked s.clk.ticks) with osura := { s.osura with
        secs := (s.modSec sec (SecCtl.scrubAsked s.clk.ticks)).osura.secs
        q := s.osura.q.map (fun r =>
          if secOf r.addr == sec.val && r.agent == .scrub then { r with agent := .scrubOver } else r) } }
      else (s.modSec sec (SecCtl.scrubAsked s.clk.ticks)).askOsura .scrub (.scrub (s.secCtl sec).scrubLine)
        (sec.val * 2 ^ 23 + (s.secCtl sec).scrubLine * 1024) 1024 none) := by
  rw [apply_ite Host.Outcome.next]
  refine if_neg ?_
  simp [hready, hlit, hpace, hpower, htick]

/-- Settles O35, by the waiting request and the new one. -/
theorem scrubberAsks : Obligations.ScrubberAsks := by
  unfold Obligations.ScrubberAsks
  intro s sec hinv hready
  refine ⟨exec_scrubRequest_idle, fun hlit hpace hpower htick => ⟨_, exec_scrubRequest hready hlit hpace hpower htick, ?_⟩⟩
  have hsec (n : Nat) := s.secCtl_modSec sec n (SecCtl.scrubAsked s.clk.ticks) hinv.secs
  by_cases hwait : (s.secCtl sec).scrubWait = true
  · rw [if_pos hwait]
    refine ⟨(hsec sec).trans (if_pos rfl), fun n hn => (hsec n).trans (if_neg hn), fun h => ?_, fun _ => ?_, rfl⟩
    · rw [hwait] at h
      cases h
    · exact List.length_map _
  · rw [if_neg hwait]
    exact ⟨(hsec sec).trans (if_pos rfl), fun n hn => (hsec n).trans (if_neg hn),
      fun _ => ⟨_, rfl, rfl, rfl, rfl, rfl⟩, fun h => absurd h hwait, rfl⟩

/-! ### The end of a sector BIST (R64, R433, R511) -/

/-- What the answer of a BIST of physical sector `p`, run for logical sector `sec`, leaves of it. -/
def State.bistAnswered (s : State) (p : Fin 68) (sec : Nat) (pass : Bool) : State :=
  { s with
    map := { s.map with tested := s.map.tested.set p true }
    bist := { s.bist with pass := if s.bist.busy = true ∧ s.bist.sec = sec then pass else s.bist.pass } }

/-- The model's choice of the test's own record is a choice of its PASS alone. -/
theorem State.bistAnswered_eq (s : State) (p : Fin 68) (sec : Nat) (pass : Bool) :
    ({ s with
      map := { s.map with tested := s.map.tested.set p true }
      bist := if (s.bist.busy && s.bist.sec == sec) = true then { s.bist with pass := pass } else s.bist } : State) =
      s.bistAnswered p sec pass := by
  unfold State.bistAnswered
  simp only [Bool.and_eq_true, beq_iff_eq]
  split <;> rfl

section
variable {s : State} {p : Fin 68} {sec : Nat}
  (hfind : s.pwr.lightOn.find? (fun x => x.2 && s.lightHome x.1 == some p.val) = some (sec, true))
include hfind

theorem exec_sectorBistDone_pass : exec (.sectorBistDone p true) s = .next { s.bistAnswered p sec true with
    pwr := { s.pwr with lightOn := s.pwr.lightOn.map (fun x => if x.1 = sec then (sec, false) else x) } } := by
  rw [← State.bistAnswered_eq]
  simp [exec, execSectorBistDone, hfind]

theorem exec_sectorBistDone_fail (hswap : ∀ w, s.flt.secSwap = some w → w.sec ≠ sec) :
    exec (.sectorBistDone p false) s =
      .next (((s.bistAnswered p sec false).unlight sec).detect (s.err 0x02 0x0A p sec 0)) := by
  rw [← State.bistAnswered_eq]
  simp only [exec, execSectorBistDone, hfind]
  cases hw : s.flt.secSwap with
  | none => rfl
  | some w => simp [hswap w hw]; rfl

end

/-- Settles O39, by the sector under test that the answer names, if there is one. -/
theorem sectorBistEnds : Obligations.SectorBistEnds := by
  unfold Obligations.SectorBistEnds
  intro s p sec
  refine ⟨fun hfind => ⟨⟨_, exec_sectorBistDone_pass hfind, rfl, rfl, rfl, rfl⟩,
    fun hswap => ⟨_, exec_sectorBistDone_fail hfind hswap, State.detect_detected ..⟩⟩, fun hnone b => ?_⟩
  simp [exec, execSectorBistDone, hnone]
end Sys2Proof.Machine

namespace Sys2Proof.Machine

/-! ### The error-correcting code (R54, R55) -/

/-- The columns that the bits of a word select add up by exclusive or. -/
theorem eccFold_acc (cs : List Nat) : ∀ x acc, eccFold cs x acc = acc ^^^ eccFold cs x 0 := by
  induction cs with
  | nil => intro x acc; simp [eccFold]
  | cons c cs ih =>
    intro x acc
    rw [eccFold, ih, eccFold, ih _ (if x % 2 == 1 then 0 ^^^ c else 0)]
    split <;> simp [Nat.xor_assoc]

theorem eccFold_cons (c : Nat) (cs : List Nat) (x : Nat) :
    eccFold (c :: cs) x 0 = (if x % 2 = 1 then c else 0) ^^^ eccFold cs (x / 2) 0 := by
  rw [eccFold, eccFold_acc]
  simp

theorem eccFold_zero (cs : List Nat) : eccFold cs 0 0 = 0 := by
  induction cs with
  | nil => rfl
  | cons c cs ih => simpa [eccFold] using ih

theorem eccFold_xor (cs : List Nat) : ∀ x y, eccFold cs (x ^^^ y) 0 = eccFold cs x 0 ^^^ eccFold cs y 0 := by
  induction cs with
  | nil => simp [eccFold]
  | cons c cs ih =>
    intro x y
    have hlow : (x ^^^ y) % 2 = (x % 2 + y % 2) % 2 := by
      rw [Nat.xor_mod_two_eq]; omega
    have hhigh : (x ^^^ y) / 2 = x / 2 ^^^ y / 2 := Nat.xor_div_two
    have hc : (if (x ^^^ y) % 2 = 1 then c else 0) = (if x % 2 = 1 then c else 0) ^^^ (if y % 2 = 1 then c else 0) := by
      rw [hlow]
      obtain hx | hx := Nat.mod_two_eq_zero_or_one x <;> obtain hy | hy := Nat.mod_two_eq_zero_or_one y <;> simp [hx, hy]
    simp only [eccFold_cons, hc, hhigh, ih, Nat.xor_assoc, Nat.xor_left_comm]

/-- A single bit selects its column. -/
theorem eccFold_two_pow (cs : List Nat) : ∀ i, eccFold cs (2 ^ i) 0 = cs.getD i 0 := by
  induction cs with
  | nil => intro i; rfl
  | cons c cs ih =>
    intro i
    cases i with
    | zero => simp [eccFold_cons, eccFold_zero]
    | succ i =>
      have hhalf : 2 ^ (i + 1) / 2 = 2 ^ i := by omega
      have hlow : 2 ^ (i + 1) % 2 = 0 := by omega
      simp [eccFold_cons, hhalf, hlow, ih]

theorem eccCheck_eq_eccFold (x : Nat) : eccCheck x = eccFold eccColumns x 0 := by
  unfold eccCheck
  split
  · rename_i h
    rw [h, eccFold_zero]
  · rfl

/-- Inverting a data bit changes the check byte by that bit's column. -/
theorem eccCheck_flip (x i : Nat) : eccCheck (x ^^^ 2 ^ i) = eccCheck x ^^^ eccColumns.getD i 0 := by
  rw [eccCheck_eq_eccFold, eccFold_xor, eccFold_two_pow, ← eccCheck_eq_eccFold]

/-- An exclusive or has an odd number of ones where one of its sides has. -/
theorem popcount_xor_mod_two (n : Nat) : ∀ x y, popcount n (x ^^^ y) % 2 = (popcount n x + popcount n y) % 2 := by
  induction n with
  | zero => intro x y; rfl
  | succ n ih =>
    intro x y
    have hlow : (x ^^^ y) % 2 = (x % 2 + y % 2) % 2 := by
      rw [Nat.xor_mod_two_eq]; omega
    have hhigh : (x ^^^ y) / 2 = x / 2 ^^^ y / 2 := Nat.xor_div_two
    have hrest := ih (x / 2) (y / 2)
    simp only [popcount, hlow, hhigh]
    omega

/-- The columns of R54: 64 different bytes, each with three or five ones. -/
theorem eccColumns_findIdx : ∀ i < 64, eccColumns.findIdx? (· == eccColumns.getD i 0) = some i := by
  decide +kernel

theorem eccColumns_popcount {c : Nat} (h : c ∈ eccColumns) : popcount 8 c = 3 ∨ popcount 8 c = 5 := by
  obtain h | h := List.mem_append.1 h
  · exact .inl (by simpa using (List.mem_filter.1 h).2)
  · exact .inr (by simpa using (List.mem_filter.1 (List.mem_of_mem_take h)).2)

theorem eccColumns_length : eccColumns.length = 64 := by decide +kernel

theorem eccColumns_getD_mem {i : Nat} (h : i < 64) : eccColumns.getD i 0 ∈ eccColumns := by
  rw [← eccColumns_length] at h
  rw [List.getD_eq_getElem _ _ h]
  exact List.getElem_mem h

theorem popcount_zero (n : Nat) : popcount n 0 = 0 := by
  induction n with
  | zero => rfl
  | succ n ih => simpa [popcount] using ih

/-- The syndrome table of R55, by the syndrome. -/
theorem eccDecode_clean (x : Nat) : eccDecode x (eccCheck x) = .clean x := by
  simp [eccDecode]

theorem eccDecode_checkBit (x : Nat) {j : Nat} (h : j < 8) : eccDecode x (eccCheck x ^^^ 2 ^ j) = .corrected x := by
  have hone : ∀ j < 8, popcount 8 (2 ^ j) = 1 := by decide
  have hsyn : eccCheck x ^^^ 2 ^ j ^^^ eccCheck x = 2 ^ j := by
    rw [Nat.xor_comm, ← Nat.xor_assoc, Nat.xor_self, Nat.zero_xor]
  simp [eccDecode, hsyn, hone j h]

theorem eccDecode_dataBit (x : Nat) {i : Nat} (h : i < 64) :
    eccDecode (x ^^^ 2 ^ i) (eccCheck x) = .corrected x := by
  have hsyn : eccCheck x ^^^ eccCheck (x ^^^ 2 ^ i) = eccColumns.getD i 0 := by
    rw [eccCheck_flip, ← Nat.xor_assoc, Nat.xor_self, Nat.zero_xor]
  have hones := eccColumns_popcount (eccColumns_getD_mem h)
  have hzero : eccColumns.getD i 0 ≠ 0 := by
    intro h0
    rw [h0, popcount_zero] at hones
    omega
  have hone : popcount 8 (eccColumns.getD i 0) ≠ 1 := by omega
  rw [eccDecode]
  rw [hsyn, if_neg hzero, if_neg (by simpa using hone), eccColumns_findIdx i h]
  simp

/-- Two columns differ, and their exclusive or, with an even number of ones, is no column. -/
theorem eccDecode_twoDataBits (x : Nat) {i j : Nat} (hi : i < 64) (hj : j < 64) (hne : i ≠ j) :
    eccDecode (x ^^^ 2 ^ i ^^^ 2 ^ j) (eccCheck x) = .bad (x ^^^ 2 ^ i ^^^ 2 ^ j) := by
  obtain ⟨a, ha⟩ : ∃ a, a = eccColumns.getD i 0 := ⟨_, rfl⟩
  obtain ⟨b, hb⟩ : ∃ b, b = eccColumns.getD j 0 := ⟨_, rfl⟩
  have hsyn : eccCheck x ^^^ eccCheck (x ^^^ 2 ^ i ^^^ 2 ^ j) = a ^^^ b := by
    rw [eccCheck_flip, eccCheck_flip, ← ha, ← hb, ← Nat.xor_assoc, ← Nat.xor_assoc, Nat.xor_self, Nat.zero_xor]
  have heven : popcount 8 (a ^^^ b) % 2 = 0 := by
    have hones := eccColumns_popcount (eccColumns_getD_mem hi)
    have hones' := eccColumns_popcount (eccColumns_getD_mem hj)
    rw [popcount_xor_mod_two, ha, hb]
    omega
  have hzero : a ^^^ b ≠ 0 := by
    intro h0
    have hab : eccColumns.getD i 0 = eccColumns.getD j 0 := by rw [← ha, ← hb]; exact Nat.xor_eq_zero_iff.1 h0
    have hidx := eccColumns_findIdx i hi
    rw [hab, eccColumns_findIdx j hj] at hidx
    injection hidx with hidx
    exact hne hidx.symm
  have hone : popcount 8 (a ^^^ b) ≠ 1 := by omega
  have hnone : eccColumns.findIdx? (· == a ^^^ b) = none := by
    rw [List.findIdx?_eq_none_iff]
    intro c hc
    have hones := eccColumns_popcount hc
    simp only [beq_eq_false_iff_ne]
    rintro rfl
    omega
  rw [eccDecode]
  rw [hsyn, if_neg hzero, if_neg (by simpa using hone), hnone]

/-- Settles O32, by the syndrome of each error. -/
theorem codeCorrectsOneBit : Obligations.CodeCorrectsOneBit :=
  fun x _ => ⟨eccDecode_clean x, fun _ hi => eccDecode_dataBit x hi, fun _ hj => eccDecode_checkBit x hj,
    fun _ hi _ hj hne => eccDecode_twoDataBits x hi hj hne⟩
end Sys2Proof.Machine

namespace Sys2Proof.Machine

/-! ### A sector goes Dark (R59, R62) -/

/-- A LIGHT or DARKEN that hears of its sector changes the books of Control descriptors and adds events (R378). -/
theorem State.secSettled_frame (s : State) (op sec : Nat) (failed : Bool) :
    s.secSettled op sec failed = { s with
      evq := (s.secSettled op sec failed).evq
      kp := { s.kp with
        ctlRun := (s.secSettled op sec failed).kp.ctlRun, cdone := (s.secSettled op sec failed).kp.cdone } } := by
  unfold State.secSettled
  rw [ctlPump_frame]

/-- The controller of a sector that goes Dark. -/
def SecCtl.darkened (c : SecCtl) : SecCtl :=
  { c with st := .dark, closeAfter := false, scrubWait := false, scrubOver := false }

/-- A backed sector goes Dark: its granules are clean, and its power is asked off. -/
theorem goDark_eq {s : State} {sec ps : Nat} (hps : s.psecOf sec = some ps) :
    goDark sec s = (((s.modSec sec SecCtl.darkened).cleanSector sec).powerAsk (34 + ps) 0).secSettled 2 sec false := by
  have hmap : ((s.modSec sec SecCtl.darkened).cleanSector sec).psecOf sec = some ps := hps
  unfold goDark
  dsimp only
  unfold SecCtl.darkened at hmap
  rw [hmap]
  rfl

theorem goDark_spec {s : State} {sec ps : Nat} (hinv : s.Inv) (hps : s.psecOf sec = some ps) :
    ((goDark sec s).secCtl sec).st = .dark ∧ (∀ n, n ≠ sec → (goDark sec s).secCtl n = s.secCtl n) ∧
      (∀ x ∈ (goDark sec s).log.dirtyA, x.1 / 128 ≠ sec) ∧ (∀ x ∈ (goDark sec s).log.dirtyB, x.1 / 128 ≠ sec) ∧
      (goDark sec s).out = s.out ++ [.power (34 + ps) 0] ∧ (34 + ps, 0) ∈ (goDark sec s).pwr.reqs ∧
      goDark sec s = { s with
        osura := { s.osura with secs := (goDark sec s).osura.secs }
        log := { s.log with dirtyA := (goDark sec s).log.dirtyA, dirtyB := (goDark sec s).log.dirtyB }
        pwr := { s.pwr with
          reqs := s.pwr.reqs ++ [(34 + ps, 0)], on := sset false s.pwr.on (34 + ps) false
          asked := (goDark sec s).pwr.asked }
        out := (goDark sec s).out
        kp := { s.kp with ctlRun := (goDark sec s).kp.ctlRun, cdone := (goDark sec s).kp.cdone }
        evq := (goDark sec s).evq, cnt := (goDark sec s).cnt } := by
  have hsec (n : Nat) := s.secCtl_modSec sec n SecCtl.darkened hinv.secs
  have hclean {m : Sparse Bool} : ∀ x ∈ seraseRange m (sec * 128) (sec * 128 + 128), x.1 / 128 ≠ sec := by
    intro x hx
    have hout := (List.mem_filter.1 hx).2
    simp only [Bool.or_eq_true, decide_eq_true_eq] at hout
    omega
  rw [goDark_eq hps, State.secSettled_frame]
  refine ⟨?_, fun n hn => (hsec n).trans (if_neg hn), hclean, hclean, rfl, List.mem_append_right _ (by simp), rfl⟩
  exact (congrArg SecCtl.st ((hsec sec).trans (if_pos rfl)))

/-- Settles O38: both rows end in `goDark`, under their own conditions. -/
theorem closingSectorGoesDark : Obligations.ClosingSectorGoesDark := by
  unfold Obligations.ClosingSectorGoesDark
  intro s sec ps hinv hps haccepted hmarks
  refine ⟨fun c hc hclosing hstream htime => ?_, fun hst => ⟨?_, ?_⟩, fun hearly => ?_⟩
  · have hexec : exec c s = .next (goDark sec s) := by
      obtain rfl | rfl : c = .sectorCloseDrained sec ∨ c = .darkenTimeout sec := by simpa using hc
      · simp [exec, execSectorCloseDrained, hclosing, haccepted, hmarks, hstream rfl]
      · simp [exec, execDarkenTimeout, hclosing, haccepted, hmarks, htime rfl]
    exact ⟨_, hexec, goDark_spec hinv hps⟩
  · simp [exec, execSectorCloseDrained, hst]
  · simp [exec, execDarkenTimeout, hst]
  · have hnot : ¬ (s.secCtl sec).closeAt + 4096 ≤ s.clk.cyc := by omega
    simp [exec, execDarkenTimeout, hnot]

/-! ### A sector's zero-fill ends (R57, R59, R60, R64) -/

/-- `t` is `s` but for what asking Osura for flushes and for the reads of a closing mark can change. -/
def State.AsksOsura (s t : State) : Prop :=
  t = { s with
    osura := { s.osura with q := t.osura.q, cb := t.osura.cb, secs := t.osura.secs }, log := t.log }

theorem State.AsksOsura.refl (s : State) : s.AsksOsura s := rfl

theorem State.AsksOsura.trans {s t u : State} (h : s.AsksOsura t) (g : t.AsksOsura u) : s.AsksOsura u := by
  unfold State.AsksOsura at *
  rw [g, h]

theorem State.askOsura_asksOsura (s : State) (agent : Agent) (who : Owner) (a len : Nat)
    (wr : Option (List Host.Cell)) : s.AsksOsura (s.askOsura agent who a len wr) := rfl

theorem State.flushEntry_asksOsura (s : State) (pc : Nat) (e : CbEntry) : s.AsksOsura (s.flushEntry pc e) := rfl

theorem askLines_asksOsura (agent : Agent) (g : Nat) (l : List Nat) (s : State) :
    s.AsksOsura (l.foldl (fun s i => s.askOsura agent (.log g i) (g * 0x10000 + i * 1024) 1024 none) s) :=
  List.foldlRecOn _ _ (.refl s) (fun t ht _ _ => ht.trans (t.askOsura_asksOsura ..))

theorem State.readGranule_asksOsura (s : State) (agent : Agent) (g : Nat) : s.AsksOsura (s.readGranule agent g) := by
  obtain ⟨u, hu⟩ : ∃ u : State, u = { s with log := { s.log with reading := sset 0 s.log.reading g 64 } } := ⟨_, rfl⟩
  have hlog : s.AsksOsura u := by rw [hu]; rfl
  unfold State.readGranule
  rw [← hu]
  generalize upTo 64 = l
  dsimp only
  split
  · exact (hlog.trans (askLines_asksOsura _ g l u)).trans rfl
  · exact hlog.trans (askLines_asksOsura _ g l u)

theorem State.forceCow_asksOsura (s : State) (g : Nat) : s.AsksOsura (s.forceCow g) := by
  unfold State.forceCow
  split
  · exact .refl s
  · split
    · rfl
    · exact s.readGranule_asksOsura _ _

theorem startClosing_asksOsura (sec : Nat) (s : State) : s.AsksOsura (startClosing sec s) := by
  unfold startClosing
  refine State.AsksOsura.trans (t := List.foldl State.forceCow _ _) ?_ rfl
  refine State.AsksOsura.trans ?_ (List.foldlRecOn _ _ (.refl _) (fun t ht g _ => ht.trans (t.forceCow_asksOsura g)))
  refine List.foldlRecOn _ _ (.refl s) (fun t ht pc _ => ht.trans ?_)
  exact List.foldlRecOn _ _ (.refl t) (fun u hu e _ => hu.trans (u.flushEntry_asksOsura pc e))

/-- The controller of a sector that becomes Lit at maintenance tick `now`. -/
def SecCtl.filled (now : Nat) (c : SecCtl) : SecCtl :=
  { c with
    st := .lit, closeAfter := false, scrubLine := 0, scrubWait := false, scrubOver := false, scrubTick := now, ce := 0 }

/-- A sector's zero-fill on physical sector `ps`: its bytes are 0, its granules dirty, and it is Lit. -/
def State.filled (s : State) (ps sec : Nat) : State :=
  ((fromTo (sec * 128) 128).foldl State.markDirty ((s.zeroSector ps).unlight sec)).modSec sec (SecCtl.filled s.clk.ticks)

/-- A test that BIST_CMD asked for ends with the zero-fill of its sector. -/
def State.bistOver (s : State) (sec : Nat) : State :=
  if s.bist.busy && s.bist.sec = sec then { s with bist := { s.bist with busy := false } } else s

theorem fillDone_eq (ps sec : Nat) (s : State) :
    fillDone ps sec s = lightNext (if (s.secCtl sec).closeAfter
      then startClosing sec (((s.filled ps sec).bistOver sec).secSettled 1 sec false)
      else ((s.filled ps sec).bistOver sec).secSettled 1 sec false) := by
  have hclk : ((fromTo (sec * 128) 128).foldl State.markDirty ((s.zeroSector ps).unlight sec)).clk = s.clk := by
    rw [markDirty_foldl]
    rfl
  unfold fillDone State.bistOver State.filled SecCtl.filled
  dsimp only
  rw [hclk]

theorem State.bistOver_frame (s : State) (sec : Nat) :
    s.bistOver sec = { s with bist := { s.bist with busy := (s.bistOver sec).bist.busy } } := by
  unfold State.bistOver
  split <;> rfl

theorem lightNext_nil {s : State} (h : s.pwr.lightQ = []) : lightNext s = s := by
  unfold lightNext
  rw [h]
  rfl

/-- What a zero-fill changes, the granules of the sector being those of `sec * 128` on. -/
theorem State.filled_eq (s : State) (ps sec : Nat) : s.filled ps sec = { s with
    osura := { s.osura with
      data := seraseRange s.osura.data (ps * 2 ^ 23) ((ps + 1) * 2 ^ 23)
      check := seraseRange s.osura.check (ps * 2 ^ 20) ((ps + 1) * 2 ^ 20)
      secs := (s.modSec sec (SecCtl.filled s.clk.ticks)).osura.secs }
    log := { s.log with
      dirtyA := (fromTo (sec * 128) 128).foldl (fun m g => sset false m g true) s.log.dirtyA
      dirtyB := (fromTo (sec * 128) 128).foldl (fun m g => sset false m g true) s.log.dirtyB }
    pwr := { s.pwr with lightOn := s.pwr.lightOn.filter (fun x => x.1 != sec) } } := by
  unfold State.filled
  generalize fromTo (sec * 128) 128 = l
  rw [markDirty_foldl]
  rfl

/-- The tail of a zero-fill reports it. -/
theorem State.filled_reported (s : State) (ps sec : Nat) : ∃ evq runs cdone busy,
    ((s.filled ps sec).bistOver sec).secSettled 1 sec false = { s.filled ps sec with
      evq := evq, kp := { s.kp with ctlRun := runs, cdone := cdone }, bist := { s.bist with busy := busy } } := by
  have hkp : (s.filled ps sec).kp = s.kp := by rw [State.filled_eq]
  have hbist : (s.filled ps sec).bist = s.bist := by rw [State.filled_eq]
  rw [← hkp, ← hbist]
  generalize s.filled ps sec = u
  rw [State.secSettled_frame, State.bistOver_frame]
  exact ⟨_, _, _, _, rfl⟩

theorem fillDone_spec {s : State} {sec ps : Nat} (hinv : s.Inv) (hlater : (s.secCtl sec).closeAfter = false)
    (hqueue : s.pwr.lightQ = []) :
    ((fillDone ps sec s).secCtl sec).st = .lit ∧ ((fillDone ps sec s).secCtl sec).scrubLine = 0 ∧
      (∀ n, n ≠ sec → (fillDone ps sec s).secCtl n = s.secCtl n) ∧
      (∀ p, sget 0#8 (fillDone ps sec s).osura.data p = if p / 2 ^ 23 = ps then 0#8 else sget 0#8 s.osura.data p) ∧
      (∀ g, g / 128 = sec →
        sget false (fillDone ps sec s).log.dirtyA g = true ∧ sget false (fillDone ps sec s).log.dirtyB g = true) ∧
      (fillDone ps sec s).pwr.lightOn = s.pwr.lightOn.filter (fun x => x.1 != sec) ∧
      fillDone ps sec s = { s with
        osura := { s.osura with
          data := (fillDone ps sec s).osura.data, check := (fillDone ps sec s).osura.check
          secs := (fillDone ps sec s).osura.secs }
        log := { s.log with dirtyA := (fillDone ps sec s).log.dirtyA, dirtyB := (fillDone ps sec s).log.dirtyB }
        pwr := { s.pwr with lightOn := (fillDone ps sec s).pwr.lightOn }
        bist := { s.bist with busy := (fillDone ps sec s).bist.busy }
        kp := { s.kp with ctlRun := (fillDone ps sec s).kp.ctlRun, cdone := (fillDone ps sec s).kp.cdone }
        evq := (fillDone ps sec s).evq } := by
  have hsec (n : Nat) := s.secCtl_modSec sec n (SecCtl.filled s.clk.ticks) hinv.secs
  have hmark (g : Nat) (hg : g / 128 = sec) (m : Sparse Bool) :
      sget false ((fromTo (sec * 128) 128).foldl (fun m g => sset false m g true) m) g = true := by
    rw [sget_mark_foldl, if_pos (mem_fromTo.2 (by omega))]
  obtain ⟨evq, runs, cdone, busy, hreported⟩ := s.filled_reported ps sec
  have hdone := fillDone_eq ps sec s
  rw [hlater, if_neg Bool.false_ne_true, hreported, lightNext_nil (by rw [State.filled_eq]; exact hqueue),
    State.filled_eq] at hdone
  generalize fromTo (sec * 128) 128 = l at hmark hdone
  rw [hdone]
  refine ⟨?_, ?_, fun n hn => (hsec n).trans (if_neg hn), fun p => ?_, fun g hg => ⟨hmark g hg _, hmark g hg _⟩, rfl, rfl⟩
  · exact congrArg SecCtl.st ((hsec sec).trans (if_pos rfl))
  · exact congrArg SecCtl.scrubLine ((hsec sec).trans (if_pos rfl))
  · refine (sget_seraseRange _ _ _ hinv.data).trans ?_
    by_cases hp : p / 2 ^ 23 = ps
    · rw [if_pos hp, if_pos (by omega)]
    · rw [if_neg hp, if_neg (by omega)]

/-- The end of a zero-fill leaves the map and the fault registers as they were. -/
theorem fillDone_map_flt (ps sec : Nat) (s : State) :
    (fillDone ps sec s).map = s.map ∧ (fillDone ps sec s).flt = s.flt := by
  obtain ⟨evq, runs, cdone, busy, hreported⟩ := s.filled_reported ps sec
  have hfilled : (s.filled ps sec).map = s.map ∧ (s.filled ps sec).flt = s.flt := by
    rw [State.filled_eq]
    exact ⟨rfl, rfl⟩
  rw [fillDone_eq, hreported]
  generalize s.filled ps sec = u at hfilled
  rw [lightNext, lightGo_sectorWork]
  split
  · rw [startClosing_asksOsura]
    exact hfilled
  · exact hfilled

/-- Reports of retired sectors leave the map and the swap registers as they were. -/
theorem reportSectors_map_swap (rs : List (ErrRec × Nat)) (s : State) :
    (reportSectors rs s).map = s.map ∧ (reportSectors rs s).flt.secSwap = s.flt.secSwap ∧
      (reportSectors rs s).flt.swap = s.flt.swap ∧ (reportSectors rs s).flt.seqbusy = s.flt.seqbusy := by
  refine List.foldlRecOn (motive := fun t : State => t.map = s.map ∧ t.flt.secSwap = s.flt.secSwap ∧
    t.flt.swap = s.flt.swap ∧ t.flt.seqbusy = s.flt.seqbusy) _ _ ⟨rfl, rfl, rfl, rfl⟩ (fun t ht r _ => ?_)
  obtain ⟨u, hu⟩ : ∃ u, u = reportFault r.1 r.2 t.spareSectors t := ⟨_, rfl⟩
  have hreports := reportFault_reports r.1 r.2 t.spareSectors t
  unfold State.Reports at hreports
  rw [← hu] at hreports
  show (reportFault r.1 r.2 t.spareSectors t).map = _ ∧ (reportFault r.1 r.2 t.spareSectors t).flt.secSwap = _ ∧
    (reportFault r.1 r.2 t.spareSectors t).flt.swap = _ ∧ (reportFault r.1 r.2 t.spareSectors t).flt.seqbusy = _
  rw [← hu, hreports]
  exact ht

theorem secSwapDone_spec {w : SecSwap} {s : State} (hlen : s.map.sec.length = 64) (hsec : w.sec < 64) :
    (secSwapDone w s).psecOf w.sec = some w.spare ∧ (secSwapDone w s).flt.secSwap = none ∧
      (secSwapDone w s).flt.swap = false ∧ (secSwapDone w s).flt.seqbusy = false ∧
      ∀ n, n ≠ w.sec → (secSwapDone w s).psecOf n = s.psecOf n := by
  unfold secSwapDone State.psecOf
  obtain ⟨hmap, hswap, hon, hbusy⟩ := reportSectors_map_swap w.reports { s with
    map := { s.map with sec := s.map.sec.set w.sec (some w.spare), psec := s.map.psec.set w.spare .mapped }
    flt := { s.flt with secSwap := none, swap := false, seqbusy := false } }
  rw [hmap, hswap, hon, hbusy]
  refine ⟨?_, rfl, rfl, rfl, fun n hn => ?_⟩
  · simp [List.getD_eq_getElem?_getD, hlen, hsec]
  · simp [List.getD_eq_getElem?_getD, List.getElem?_set_ne (Ne.symm hn)]

/-- The home of a sector that no spare replaces. -/
theorem State.lightHome_eq_psecOf {s : State} {sec : Nat} (h : ∀ w, s.flt.secSwap = some w → w.sec ≠ sec) :
    s.lightHome sec = s.psecOf sec := by
  unfold State.lightHome
  cases hw : s.flt.secSwap with
  | none => rfl
  | some w => exact if_neg (h w hw)

theorem exec_sectorFillDone {s : State} {sec : Fin 64} {ps : Nat} (hps : s.psecOf sec = some ps)
    (hswap : ∀ w, s.flt.secSwap = some w → w.sec ≠ sec.val) :
    exec (.sectorFillDone sec) s =
      .next (if s.pwr.lightOn.contains (sec.val, false) && !s.powerBusy (secDom ps) && sget false s.pwr.on (secDom ps)
        then fillDone ps sec s else s) := by
  show execSectorFillDone sec s = _
  unfold execSectorFillDone
  rw [State.lightHome_eq_psecOf hswap, hps]
  cases hw : s.flt.secSwap with
  | none => exact (apply_ite Host.Outcome.next _ _ _).symm
  | some w =>
    have hne : (w.sec != sec.val) = true := bne_iff_ne.2 (hswap w hw)
    simp only [hne, if_true]
    exact (apply_ite Host.Outcome.next _ _ _).symm

theorem exec_sectorFillDone_spare {s : State} {sec : Fin 64} {w : SecSwap} (hw : s.flt.secSwap = some w)
    (hsec : w.sec = sec.val) (hon : (sec.val, false) ∈ s.pwr.lightOn) (hbusy : s.powerBusy (secDom w.spare) = false)
    (hpower : sget false s.pwr.on (secDom w.spare) = true) (hev : s.evKept = true) :
    exec (.sectorFillDone sec) s = .next (secSwapDone w (fillDone w.spare sec s)) := by
  show execSectorFillDone sec s = _
  simp [execSectorFillDone, State.lightHome, hw, hsec, hon, hbusy, hpower, hev]

/-- Settles O37: a sector's own zero-fill, the same without power, and that of a spare. -/
theorem fillClearsSector : Obligations.FillClearsSector := by
  unfold Obligations.FillClearsSector
  intro s sec ps hinv
  refine ⟨fun hps hswap hon hbusy hpower hlater hqueue => ?_, fun hps hswap hnot => ?_,
    fun w hw hsec hon hbusy hpower hev hlen => ?_⟩
  · have hgo : (s.pwr.lightOn.contains (sec.val, false) && !s.powerBusy (secDom ps) &&
        sget false s.pwr.on (secDom ps)) = true := by
      simp [hon, hbusy, hpower]
    rw [exec_sectorFillDone hps hswap, if_pos hgo]
    exact ⟨_, rfl, fillDone_spec hinv hlater hqueue⟩
  · have hstay : (s.pwr.lightOn.contains (sec.val, false) && !s.powerBusy (secDom ps) &&
        sget false s.pwr.on (secDom ps)) = false := by
      obtain h | h | h := hnot <;> simp [h]
    rw [exec_sectorFillDone hps hswap, hstay]
    rfl
  · obtain ⟨hmap, -⟩ := fillDone_map_flt w.spare sec s
    have hspec := secSwapDone_spec (w := w) (s := fillDone w.spare sec s) (by rw [hmap]; exact hlen)
      (by rw [hsec]; exact sec.isLt)
    rw [hsec] at hspec
    obtain ⟨hhome, hnone, hoff, hidle, hrest⟩ := hspec
    refine ⟨_, exec_sectorFillDone_spare hw hsec hon hbusy hpower hev, hhome, hnone, hoff, hidle, fun n hn => ?_⟩
    rw [hrest n hn, State.psecOf, State.psecOf, hmap]

end Sys2Proof.Machine

namespace Sys2Proof.Machine

/-! ### Bytes and ECC words (R11, R54) -/

theorem toBytes_length (n : Nat) : ∀ x, (toBytes n x).length = n := by
  induction n with
  | zero => intro x; rfl
  | succ n ih => intro x; rw [toBytes, List.length_cons, ih]

theorem ofBytes_toBytes (n : Nat) : ∀ x, ofBytes (toBytes n x) = x % 2 ^ (8 * n) := by
  induction n with
  | zero => intro x; simp [toBytes, ofBytes, Nat.mod_one]
  | succ n ih =>
    intro x
    have hpow : 2 ^ (8 * (n + 1)) = 256 * 2 ^ (8 * n) := by
      rw [Nat.mul_add, Nat.pow_add, Nat.mul_comm]
    rw [toBytes, ofBytes, ih, hpow, Nat.mod_mul, BitVec.toNat_ofNat]

theorem ofBytes_lt (bs : List Byte) : ofBytes bs < 2 ^ (8 * bs.length) := by
  induction bs with
  | nil => simp [ofBytes]
  | cons b bs ih =>
    have hb := b.isLt
    have hpow : 2 ^ (8 * (bs.length + 1)) = 256 * 2 ^ (8 * bs.length) := by
      rw [Nat.mul_add, Nat.pow_add, Nat.mul_comm]
    rw [ofBytes, List.length_cons, hpow]
    omega

theorem cellsAt_nil (a : Nat) : cellsAt a [] = [] := rfl

theorem cellsAt_cons (a : Nat) (b : Byte) (bs : List Byte) : cellsAt a (b :: bs) = (a, b) :: cellsAt (a + 1) bs := by
  rw [cellsAt, cellsAt, List.zipIdx_cons, List.zipIdx_succ, List.map_cons, List.map_map]
  congr 1
  refine List.map_congr_left (fun x _ => ?_)
  simp only [Function.comp_apply, Prod.mk.injEq, and_true]
  omega

/-- A run of bytes written from an address reads back, and no other byte changes. -/
theorem sget_ssetAll_cellsAt (bs : List Byte) (p : Nat) : ∀ (a : Nat) {m : List Host.Cell}, swf 0#8 m = true →
    sget 0#8 (ssetAll 0#8 m (cellsAt a bs)) p =
      if a ≤ p ∧ p < a + bs.length then bs.getD (p - a) 0#8 else sget 0#8 m p := by
  induction bs with
  | nil => intro a m _; rw [cellsAt_nil, if_neg (by simp)]; rfl
  | cons b bs ih =>
    intro a m hm
    have hrest := ih (a + 1) (swf_sset (d := 0#8) a b hm)
    rw [cellsAt_cons, ssetAll, List.foldl_cons]
    rw [ssetAll] at hrest
    rw [hrest, sget_sset a p b hm]
    by_cases hp : p = a
    · subst hp
      simp
    · by_cases hin : a + 1 ≤ p ∧ p < a + 1 + bs.length
      · obtain ⟨hlo, hhi⟩ := hin
        have hidx : p - a = p - (a + 1) + 1 := by omega
        rw [if_pos ⟨hlo, hhi⟩, if_pos ⟨by omega, by rw [List.length_cons]; omega⟩, hidx, List.getD_cons_succ]
      · have hout : ¬ (a ≤ p ∧ p < a + (b :: bs).length) := by
          rw [List.length_cons]
          omega
        rw [if_neg hin, if_neg hp, if_neg hout]

theorem map_fromTo_getD (a : Nat) (bs : List Byte) (f : Nat → Byte)
    (h : ∀ p, a ≤ p → p < a + bs.length → f p = bs.getD (p - a) 0#8) : (fromTo a bs.length).map f = bs := by
  refine List.ext_getElem (by simp [fromTo]) (fun i hi hi' => ?_)
  have hlen : i < bs.length := hi'
  simp only [fromTo, List.map_map, List.getElem_map, List.getElem_range, Function.comp_apply]
  rw [h (a + i) (by omega) (by omega), Nat.add_sub_cancel_left, List.getD_eq_getElem _ _ hlen]

theorem eccColumns_lt {c : Nat} (h : c ∈ eccColumns) : c < 2 ^ 8 := by
  obtain h | h := List.mem_append.1 h
  · exact List.mem_range.1 (List.mem_filter.1 h).1
  · exact List.mem_range.1 (List.mem_filter.1 (List.mem_of_mem_take h)).1

theorem eccFold_lt {cs : List Nat} (h : ∀ c ∈ cs, c < 2 ^ 8) : ∀ x, eccFold cs x 0 < 2 ^ 8 := by
  induction cs with
  | nil => intro x; exact Nat.two_pow_pos 8
  | cons c cs ih =>
    intro x
    rw [eccFold_cons]
    refine Nat.xor_lt_two_pow ?_ (ih (fun y hy => h y (List.mem_cons_of_mem _ hy)) _)
    split
    · exact h c List.mem_cons_self
    · exact Nat.two_pow_pos 8

theorem eccCheck_lt (x : Nat) : eccCheck x < 2 ^ 8 := by
  rw [eccCheck_eq_eccFold]
  exact eccFold_lt (fun _ => eccColumns_lt) x

/-- What a stored ECC word changes of Osura's bytes. -/
theorem State.putWord_data (s : State) (w x p : Nat) (h : swf 0#8 s.osura.data = true) :
    sget 0#8 (s.putWord w x).osura.data p =
      if w * 8 ≤ p ∧ p < w * 8 + 8 then (toBytes 8 x).getD (p - w * 8) 0#8 else sget 0#8 s.osura.data p := by
  have hrun := sget_ssetAll_cellsAt (toBytes 8 x) p (w * 8) h
  rw [toBytes_length] at hrun
  exact hrun

theorem State.putWord_check (s : State) (w x p : Nat) (h : swf 0#8 s.osura.check = true) :
    sget 0#8 (s.putWord w x).osura.check p =
      if p = w then BitVec.ofNat 8 (eccCheck x) else sget 0#8 s.osura.check p :=
  sget_sset w p _ h

theorem State.rawWord_putWord (s : State) (w : Nat) {x : Nat} (hx : x < 2 ^ 64) (h : swf 0#8 s.osura.data = true) :
    (s.putWord w x).rawWord w = x := by
  have hbytes := map_fromTo_getD (w * 8) (toBytes 8 x) (sget 0#8 (s.putWord w x).osura.data) (fun p hlo hhi => by
    rw [toBytes_length] at hhi
    rw [s.putWord_data w x p h, if_pos ⟨hlo, hhi⟩])
  rw [toBytes_length] at hbytes
  rw [State.rawWord, hbytes, ofBytes_toBytes]
  exact Nat.mod_eq_of_lt hx

/-- A stored ECC word reads clean (R54). -/
theorem State.eccWord_putWord (s : State) (w : Nat) {x : Nat} (hx : x < 2 ^ 64) (hdata : swf 0#8 s.osura.data = true)
    (hcheck : swf 0#8 s.osura.check = true) : (s.putWord w x).eccWord w = .clean x := by
  rw [State.eccWord, s.rawWord_putWord w hx hdata, s.putWord_check w x w hcheck, if_pos rfl, BitVec.toNat_ofNat,
    Nat.mod_eq_of_lt (eccCheck_lt x), eccDecode_clean]

/-! ### A whole ECC word is written (R49, R54, R398) -/

theorem secOf_eq (a : Nat) : secOf a = a / 2 ^ 23 % 2 ^ 6 := bitsOf_eq ..

theorem granuleOf_eq (a : Nat) : granuleOf a = a / 2 ^ 16 % 2 ^ 13 := bitsOf_eq ..

theorem cellsAt_word (a v : Nat) : ∃ b0 b1 b2 b3 b4 b5 b6 b7, toBytes 8 v = [b0, b1, b2, b3, b4, b5, b6, b7] ∧
    cellsAt a (toBytes 8 v) = [(a, b0), (a + 1, b1), (a + 2, b2), (a + 3, b3), (a + 4, b4), (a + 5, b5), (a + 6, b6),
      (a + 7, b7)] :=
  ⟨_, _, _, _, _, _, _, _, rfl, rfl⟩

theorem State.writeOsura_word (s : State) {a ps v : Nat} (ha : a % 8 = 0) (hv : v < 2 ^ 64)
    (hps : s.psecOf (secOf a) = some ps) :
    s.writeOsura (cellsAt a (toBytes 8 v)) = (s.putWord (physAddr ps a / 8) v).markDirty (granuleOf a) := by
  have hdiv : ∀ i < 8, (a + i) / 8 = a / 8 := fun i hi => by omega
  have hmod : ∀ i < 8, (a + i) % 8 = i := fun i hi => by omega
  have hgran : ∀ i < 8, granuleOf (a + i) = granuleOf a := fun i hi => by
    rw [granuleOf_eq, granuleOf_eq]
    omega
  have hphys : a / 8 * 8 = a := by omega
  have hvalue : ofBytes (toBytes 8 v) = v := by
    rw [ofBytes_toBytes]
    exact Nat.mod_eq_of_lt hv
  obtain ⟨c0, c1, c2, c3, c4, c5, c6, c7, hold, -⟩ := cellsAt_word a (s.eccWord (physAddr ps a / 8)).data
  obtain ⟨b0, b1, b2, b3, b4, b5, b6, b7, hbytes, hcells⟩ := cellsAt_word a v
  rw [hbytes] at hvalue
  rw [hcells]
  unfold State.writeOsura
  simp only [hps]
  have hws : dedup (List.map (fun c : Host.Cell => c.1 / 8) [(a, b0), (a + 1, b1), (a + 2, b2), (a + 3, b3), (a + 4, b4),
      (a + 5, b5), (a + 6, b6), (a + 7, b7)]) [] = [a / 8] := by
    simp [dedup, hdiv]
  have hgs : dedup (List.map (fun c : Host.Cell => granuleOf c.1) [(a, b0), (a + 1, b1), (a + 2, b2), (a + 3, b3),
      (a + 4, b4), (a + 5, b5), (a + 6, b6), (a + 7, b7)]) [] = [granuleOf a] := by
    simp [dedup, hgran]
  rw [hws, hgs]
  simp [hdiv, hmod, ha, hphys, hold, hvalue, upTo, List.range_succ]
end Sys2Proof.Machine

namespace Sys2Proof.Machine

/-! ### One access alone in its window (R40, R41) -/

/-- What a window owes for an access alone in it. -/
def WinAcc.owed (x : WinAcc) : BankAcc := ⟨x.period, accBank x, x.word, x.kind.isStore, [x]⟩

theorem bumpBy_modStr (off n : Nat) (s : State) (f : Stream → Stream) :
    bumpBy off n (s.modStr f) = { s.modStr f with cnt := (bumpBy off n s).cnt } := by
  unfold bumpBy State.modStr State.ctlCycle
  dsimp only
  split <;> rfl

section
variable {s : State} {x : WinAcc} (hdue : s.str.due = []) (hwin : s.str.window = [x]) (hpast : x.period < s.period)
include hdue hwin hpast

/-- The window of an access alone in it closes without excess: no stall is owed. -/
theorem closeWindows_alone : closeWindows s = { s with
    str := { s.str with window := [], due := [x.owed] }, cnt := (bumpBy 0x0200 0 s).cnt } := by
  have hallow : s.allowance = (s.allowance - 1) + 1 := by
    unfold State.allowance
    omega
  have hkept : mergeReads [x] [] = [x.owed] := by simp [mergeReads, WinAcc.owed]
  have hperiods : (dedup (s.str.window.map (·.period)) []).filter (· < s.period) = [x.period] := by
    simp [hwin, dedup, hpast]
  rw [closeWindows, hperiods, List.foldl_cons, List.foldl_nil, closeWindow, hwin]
  simp only [beq_self_eq_true, List.filter_cons_of_pos, List.filter_nil, hkept, List.reverse_singleton]
  rw [hallow]
  simp [dedup]
  rw [bumpBy_modStr]
  simp [State.modStr, hwin, hdue]

/-- The state in which the bank of an access alone in its window serves it. -/
def State.servingAlone (s : State) (x : WinAcc) : State :=
  { s with
    str := { s.str with window := [], due := [], servedAt := s.clk.cyc + 1, servedBanks := [accBank x] }
    cnt := (bumpBy 0x0200 0 s).cnt }

theorem exec_streamWindowService_alone (hopen : s.BanksOpen) :
    exec .streamWindowService s = .next (serveBank (s.servingAlone x) x.owed) := by
  obtain ⟨hready, hclk, howner, hfresh⟩ := hopen
  show execStreamWindowService s = _
  rw [execStreamWindowService, closeWindows_alone hdue hwin hpast]
  simp [hready, hclk, howner, serveBanks, State.streamBanks, hfresh, oldestOf, State.servingAlone, State.modStr]
  rfl

end

/-! ### A store that is served (R48, R54, R398) -/

/-- A stream store writes Osura; the shadow that fetch sees keeps the old bytes (R107). -/
theorem State.streamWrite_eq (s : State) (cells : List Host.Cell) : ∃ shadow,
    s.streamWrite cells = { s with str := { s.str with shadow := shadow } }.writeOsura cells :=
  ⟨_, rfl⟩

theorem physAddr_div (ps a : Nat) (ha : a % 8 = 0) : physAddr ps a / 8 * 8 = physAddr ps a := by
  unfold physAddr
  omega

/-- The one ECC word of an SST: what its store leaves of Osura. -/
theorem State.writeOsura_word_spec (s : State) {a ps v : Nat} (ha : a % 8 = 0) (hv : v < 2 ^ 64)
    (hps : s.psecOf (secOf a) = some ps) (hdata : swf 0#8 s.osura.data = true)
    (hcheck : swf 0#8 s.osura.check = true) :
    ∃ t, s.writeOsura (cellsAt a (toBytes 8 v)) = t ∧
      t.rawWord (physAddr ps a / 8) = v ∧ t.eccWord (physAddr ps a / 8) = .clean v ∧
      (∀ p, ¬ (physAddr ps a ≤ p ∧ p < physAddr ps a + 8) → sget 0#8 t.osura.data p = sget 0#8 s.osura.data p) ∧
      (∀ w, w ≠ physAddr ps a / 8 → sget 0#8 t.osura.check w = sget 0#8 s.osura.check w) ∧
      sget false t.log.dirtyA (granuleOf a) = true ∧ sget false t.log.dirtyB (granuleOf a) = true ∧
      t = { s with
        osura := { s.osura with data := t.osura.data, check := t.osura.check }
        log := { s.log with dirtyA := t.log.dirtyA, dirtyB := t.log.dirtyB } } := by
  have hmarked (m : Sparse Bool) : sget false (sset false m (granuleOf a) true) (granuleOf a) = true :=
    (sget_sput (granuleOf a) (granuleOf a)).trans (if_pos rfl)
  have haddr := physAddr_div ps a ha
  rw [s.writeOsura_word ha hv hps]
  refine ⟨_, rfl, s.rawWord_putWord _ hv hdata, s.eccWord_putWord _ hv hdata hcheck, fun p hp => ?_, fun n hn => ?_,
    hmarked _, hmarked _, rfl⟩
  · exact (s.putWord_data _ v p hdata).trans (if_neg (by rw [haddr]; exact hp))
  · exact (s.putWord_check _ v n hcheck).trans (if_neg hn)

/-- Settles O27: the bank serves the SST alone in its window, which stores one whole ECC word. -/
theorem storeServed : Obligations.StoreServed := by
  unfold Obligations.StoreServed
  intro s x a ps v hinv hopen hdue hwin hpast hkind ha hlt hv hserves hword hps
  obtain ⟨u, hu⟩ : ∃ u, u = s.servingAlone x := ⟨_, rfl⟩
  have hsector : u.servesStream x.owed.word = true := by
    rw [hu, WinAcc.owed, hword]
    exact hserves
  have hstore : x.owed.store = true := by simp [WinAcc.owed, hkind, WinKind.isStore]
  have hserve : serveBank u x.owed = u.streamWrite (cellsAt a (toBytes 8 v)) := by
    rw [serveBank, hsector, hstore]
    show u.streamWrite x.kind.cells = _
    rw [hkind, WinKind.cells]
  obtain ⟨shadow, hshadow⟩ := u.streamWrite_eq (cellsAt a (toBytes 8 v))
  obtain ⟨w, hw⟩ : ∃ w : State, w = { u with str := { u.str with shadow := shadow } } := ⟨_, rfl⟩
  have hosura : w.osura = s.osura := by
    rw [hw, hu]
    rfl
  have hwps : w.psecOf (secOf a) = some ps := by
    rw [hw, hu]
    exact hps
  obtain ⟨t, ht, hraw, hclean, hother, hchecks, hdirtyA, hdirtyB, hframe⟩ :=
    w.writeOsura_word_spec ha hv hwps (by rw [hosura]; exact hinv.data) (by rw [hosura]; exact hinv.check)
  rw [hosura] at hother hchecks
  refine ⟨t, ?_, hraw, hclean, hother, hchecks, hdirtyA, hdirtyB, ?_⟩
  · rw [exec_streamWindowService_alone hdue hwin hpast hopen, ← hu, hserve, hshadow, ← hw, ht]
  · rw [hw, hu] at hframe
    rw [hframe]
    simp [State.servingAlone, hdue]

end Sys2Proof.Machine

namespace Sys2Proof.Machine

/-! ### What the window holds while banks serve (R40) -/

/-- `t` has the window of `s`. -/
def State.SameWindow (s t : State) : Prop := t.str.window = s.str.window

theorem State.SameWindow.refl (s : State) : s.SameWindow s := rfl

theorem State.SameWindow.trans {s t u : State} (h : s.SameWindow t) (g : t.SameWindow u) : s.SameWindow u :=
  Eq.trans g h

theorem State.SameWindow.foldl {α : Type} {f : State → α → State} (hf : ∀ (s : State) (a : α), s.SameWindow (f s a)) (l : List α)
    (s : State) : s.SameWindow (l.foldl f s) :=
  List.foldlRecOn _ _ (.refl s) (fun t ht a _ => ht.trans (hf t a))

theorem State.SameWindow.of_str {s t : State} (h : t.str = s.str) : s.SameWindow t := congrArg Stream.window h

theorem State.ReadsOnly.sameWindow {s t : State} (h : s.ReadsOnly t) : s.SameWindow t := by
  rw [h]
  rfl

theorem State.askOsura_sameWindow (s : State) (agent : Agent) (who : Owner) (a len : Nat)
    (wr : Option (List Host.Cell)) : s.SameWindow (s.askOsura agent who a len wr) := rfl

theorem State.modLane_sameWindow (s : State) (pc : Nat) (f : Lanes → Lanes) : s.SameWindow (s.modLane pc f) := rfl

theorem State.putCells_sameWindow (s : State) (cl : Nat) (cells : List (Nat × Nat)) :
    s.SameWindow (s.putCells cl cells) := by
  unfold State.putCells
  split
  · exact s.modLane_sameWindow _ _
  · exact .refl s

theorem State.putMask_sameWindow (s : State) (cl m v : Nat) : s.SameWindow (s.putMask cl m v) := by
  unfold State.putMask
  split
  · exact s.modLane_sameWindow _ _
  · exact .refl s

theorem State.putAny_sameWindow (s : State) (cl : Nat) (cells : List (Nat × Nat)) : s.SameWindow (s.putAny cl cells) :=
  (s.putCells_sameWindow _ _).trans (State.SameWindow.foldl (fun t _ => t.putMask_sameWindow _ _ _) _ _)

theorem State.raiseIn_sameWindow (s : State) (cl : Nat) (fl : FlagSet) : s.SameWindow (s.raiseIn cl fl) := by
  unfold State.raiseIn
  split
  · split
    · exact .refl s
    · exact s.modLane_sameWindow _ _
  · exact .refl s

theorem State.touchTile_sameWindow (s : State) (cl tile : Nat) : s.SameWindow (s.touchTile cl tile) := by
  unfold State.touchTile
  split
  · split
    · exact .refl s
    · exact s.modLane_sameWindow _ _
  · exact .refl s

theorem writeRow_sameWindow (m : MovInst) (q : MovPlan) (r : Nat) (s : State) : s.SameWindow (writeRow m q r s) := by
  refine State.SameWindow.foldl (fun t cl => ?_) _ s
  dsimp only
  split
  · exact t.putMask_sameWindow _ _ _
  · exact ((t.putCells_sameWindow _ _).trans (State.raiseIn_sameWindow _ _ _)).trans (State.touchTile_sameWindow _ _ _)
  · exact ((t.putCells_sameWindow _ _).trans (State.raiseIn_sameWindow _ _ _)).trans (State.touchTile_sameWindow _ _ _)
  · exact .refl t

theorem applyWb_sameWindow (s : State) : s.SameWindow (applyWb s) := by
  refine State.SameWindow.foldl (fun t w => ?_) _ s
  dsimp only
  split
  · exact .refl t
  · exact State.SameWindow.trans rfl (State.SameWindow.foldl (fun u x => u.putAny_sameWindow _ _) _ _)

theorem endMov_sameWindow (m : MovInst) (s : State) : s.SameWindow (endMov m s) := by
  refine State.SameWindow.trans ?_ (applyWb_sameWindow _)
  split
  · rw [State.complete_frame]
    rfl
  · rfl

theorem fldoSend_sameWindow (m : MovInst) (q : MovPlan) (s : State) : s.SameWindow (fldoSend m q s) := by
  unfold fldoSend
  dsimp only
  split
  · exact .refl s
  · split
    · exact .refl s
    · refine State.SameWindow.trans (t := s.setMov _ _) rfl (State.SameWindow.foldl (fun t x => ?_) _ _)
      exact State.SameWindow.foldl (fun u y => u.askOsura_sameWindow _ _ _ _ _) _ t

theorem movRowsGo_sameWindow (fuel id : Nat) : ∀ s : State, s.SameWindow (movRowsGo fuel id s) := by
  induction fuel with
  | zero => exact .refl
  | succ fuel ih =>
    intro s
    unfold movRowsGo
    cases s.movOf id with
    | none => exact .refl s
    | some m =>
      dsimp only
      cases planMov s.prof m.f with
      | none => exact .refl s
      | some q =>
        dsimp only
        split
        · exact .refl s
        · split
          · exact endMov_sameWindow m s
          · split
            · split
              · exact State.SameWindow.trans rfl (ih _)
              · exact fldoSend_sameWindow m q s
            · split
              · exact (writeRow_sameWindow m q m.rowsDone s).trans (State.SameWindow.trans rfl (ih _))
              · exact .refl s

theorem landScals_sameWindow (s : State) : s.SameWindow (landScals s) := by
  unfold landScals
  exact State.SameWindow.trans rfl (State.SameWindow.foldl (f := fun (t : State) (e : Nat × Nat × Option Nat) =>
    t.setScal e.2.1 (e.2.2.getD 0)) (fun t e => rfl) _ _)

theorem takeRead_sameWindow (bs : List Byte) (s : State) (x : WinAcc) : s.SameWindow (takeRead bs s x) := by
  unfold takeRead
  dsimp only
  split
  · exact State.SameWindow.trans rfl (movRowsGo_sameWindow _ _ _)
  · exact State.SameWindow.trans rfl (landScals_sameWindow _)
  · split
    · rfl
    · exact .refl s
  · split
    · rfl
    · exact .refl s
  all_goals exact .refl s

theorem State.askStop_sameWindow (s : State) (cause : Nat) (slot : Option Nat) (buoy : Nat) :
    s.SameWindow (s.askStop cause slot buoy) := by
  unfold State.askStop
  split
  · exact .refl s
  · rfl

theorem cutAccess_sameWindow (s : State) (x : WinAcc) : s.SameWindow (cutAccess s x) := by
  have hlate : ∀ k u chip a, s.SameWindow (s.late k u chip a) := fun k u chip a => by
    rw [State.late, State.pushOrDrop_frame]
    rfl
  unfold cutAccess
  split
  · exact hlate ..
  · exact hlate ..
  · split
    · refine State.SameWindow.trans ?_ (applyWb_sameWindow _)
      exact State.SameWindow.trans rfl (State.askStop_sameWindow _ _ _ _)
    · exact .refl s
  · exact State.SameWindow.trans rfl (State.askStop_sameWindow _ _ _ _)
  all_goals exact .refl s

theorem State.putWord_sameWindow (s : State) (w x : Nat) : s.SameWindow (s.putWord w x) := rfl

theorem State.writeOsura_sameWindow (s : State) (cells : List Host.Cell) : s.SameWindow (s.writeOsura cells) := by
  unfold State.writeOsura
  split
  · exact .refl s
  · split
    · exact .refl s
    · refine State.SameWindow.trans (State.SameWindow.foldl (fun t w => ?_) _ s)
        (State.SameWindow.foldl (f := State.markDirty) (fun t g => rfl) _ _)
      dsimp only
      refine State.SameWindow.trans ?_ (State.putWord_sameWindow _ _ _)
      split
      · exact .refl t
      · exact (t.noteEcc_readsOnly _ _ _).sameWindow

theorem serveBank_sameWindow (s : State) (x : BankAcc) : s.SameWindow (serveBank s x) := by
  unfold serveBank
  split
  · exact State.SameWindow.foldl cutAccess_sameWindow _ s
  · split
    · refine State.SameWindow.foldl (fun t y => ?_) _ s
      obtain ⟨shadow, hshadow⟩ := t.streamWrite_eq y.kind.cells
      rw [hshadow]
      exact State.SameWindow.trans rfl (State.writeOsura_sameWindow _ _)
    · exact (s.readOsura_readsOnly _ _ _).sameWindow.trans (State.SameWindow.foldl (takeRead_sameWindow _) _ _)

theorem serveBanks_sameWindow (may : Nat → Bool) (s : State) : s.SameWindow (serveBanks may s) := by
  unfold serveBanks
  dsimp only
  split
  · exact .refl s
  · exact State.SameWindow.trans rfl (State.SameWindow.foldl serveBank_sameWindow _ _)

/-! ### Past windows close (R40, R44) -/

theorem mem_dedup (l : List Nat) (n : Nat) : ∀ acc, n ∈ dedup l acc ↔ n ∈ acc ∨ n ∈ l := by
  induction l with
  | nil => intro acc; simp [dedup]
  | cons x l ih =>
    intro acc
    rw [dedup, ih]
    by_cases hx : acc.contains x = true
    · rw [if_pos hx]
      have hmem : x ∈ acc := by simpa using hx
      constructor
      · rintro (h | h)
        · exact .inl h
        · exact .inr (List.mem_cons_of_mem _ h)
      · rintro (h | h)
        · exact .inl h
        · obtain rfl | h := List.mem_cons.1 h
          · exact .inl hmem
          · exact .inr h
    · rw [if_neg hx, List.mem_cons, List.mem_cons]
      tauto

theorem closeWindow_window (p : Nat) (s : State) :
    (closeWindow p s).str.window = s.str.window.filter (fun x => x.period != p) := by
  have hcount : ∀ (k : Nat) (p : Nat) (s : State), s.SameWindow (bumpCl k p 1 s) := fun k p s => by
    unfold bumpCl
    split <;> rfl
  unfold closeWindow
  dsimp only
  refine Eq.trans (State.SameWindow.foldl (fun t x => ?_) _ _) ?_
  · split
    · exact hcount _ _ t
    · exact .refl t
  · rw [bumpBy_modStr]
    rfl

/-- A closed window leaves its accesses to the banks. -/
theorem closeWindow_foldl_window (l : List Nat) : ∀ s : State,
    (l.foldl (fun s p => closeWindow p s) s).str.window = s.str.window.filter (fun x => !l.contains x.period) := by
  induction l with
  | nil => intro s; exact (List.filter_eq_self.2 (fun _ _ => rfl)).symm
  | cons p l ih =>
    intro s
    rw [List.foldl_cons, ih, closeWindow_window, List.filter_filter]
    refine List.filter_congr (fun x _ => ?_)
    rw [List.contains_cons, Bool.not_or, Bool.and_comm]
    rfl

theorem closeWindows_window (s : State) :
    (closeWindows s).str.window = s.str.window.filter (fun x => s.period ≤ x.period) := by
  rw [closeWindows, closeWindow_foldl_window]
  refine List.filter_congr (fun x hx => ?_)
  have hmem : x.period ∈ dedup (s.str.window.map (·.period)) [] :=
    (mem_dedup _ _ _).2 (.inr (List.mem_map_of_mem hx))
  have hiff : x.period ∈ (dedup (s.str.window.map (·.period)) []).filter (· < s.period) ↔ x.period < s.period := by
    simp [hmem]
  rw [Bool.eq_iff_iff, Bool.not_eq_true', ← Bool.not_eq_true, List.contains_iff_mem, hiff, decide_eq_true_eq, Nat.not_lt]

/-- With no window past, none closes. -/
theorem closeWindows_self {s : State} (h : ∀ x ∈ s.str.window, s.period ≤ x.period) : closeWindows s = s := by
  have hnone : (dedup (s.str.window.map (·.period)) []).filter (· < s.period) = [] := by
    rw [List.filter_eq_nil_iff]
    intro p hp
    obtain hp | hp := (mem_dedup _ _ _).1 hp
    · cases hp
    · obtain ⟨x, hx, rfl⟩ := List.mem_map.1 hp
      simpa using h x hx
  rw [closeWindows, hnone]
  rfl

/-! ### A read that is served (R40, R55, R97, R101) -/

/-- What the four ECC words of a bank word read as, when all of them are clean. -/
theorem State.readOsura_clean {s : State} {ps b : Nat} (hb : b % 32 = 0) (hps : s.psecOf (secOf b) = some ps)
    {w : Nat → Nat} (hclean : ∀ i < 4, s.eccWord (physAddr ps b / 8 + i) = .clean (w i)) (scrub : Bool) :
    s.readOsura scrub b 32 = (toBytes 8 (w 0) ++ toBytes 8 (w 1) ++ toBytes 8 (w 2) ++ toBytes 8 (w 3), s) := by
  have hwords : (b + 32 + 7) / 8 - b / 8 = 4 := by omega
  have hplace : ∀ i < 4, physAddr ps ((b / 8 + i) * 8) / 8 = physAddr ps b / 8 + i := by
    intro i hi
    unfold physAddr
    omega
  have hoff : b % 8 = 0 := by omega
  unfold State.readOsura
  rw [hps]
  simp only [hwords, fromTo, List.range_succ, List.range_zero, List.nil_append, List.map_cons,
    List.map_nil, List.cons_append, hplace 0 (by omega), hplace 1 (by omega), hplace 2 (by omega), hplace 3 (by omega),
    hclean 0 (by omega), hclean 1 (by omega), hclean 2 (by omega), hclean 3 (by omega), hoff]
  simp [State.noteEcc, EccRead.data, toBytes_length, List.take_of_length_le]

theorem eccDecode_eq_clean {x c y : Nat} (h : eccDecode x c = .clean y) : y = x := by
  rw [eccDecode] at h
  split at h
  · injection h with h
    exact h.symm
  · split at h
    · cases h
    · split at h <;> cases h

theorem State.rawWord_lt (s : State) (w : Nat) : s.rawWord w < 2 ^ 64 := by
  have hlt := ofBytes_lt ((fromTo (w * 8) 8).map (sget 0#8 s.osura.data))
  rwa [List.length_map, fromTo, List.length_map, List.length_range] at hlt

/-- The ECC word at a place of a bank word. -/
theorem ofBytes_wordAt (w : Nat → Nat) {k : Nat} (hk : k < 4) :
    ofBytes (((toBytes 8 (w 0) ++ toBytes 8 (w 1) ++ toBytes 8 (w 2) ++ toBytes 8 (w 3)).drop (8 * k)).take 8) =
      w k % 2 ^ 64 := by
  have hlen (n : Nat) := toBytes_length 8 (w n)
  have hword (n : Nat) : ofBytes (toBytes 8 (w n)) = w n % 2 ^ 64 := ofBytes_toBytes 8 (w n)
  obtain rfl | rfl | rfl | rfl : k = 0 ∨ k = 1 ∨ k = 2 ∨ k = 3 := by omega
  all_goals simp [List.drop_append, hlen, hword, List.drop_eq_nil_of_le, List.take_of_length_le]

/-- A scalar result that has come waits for its write cycle (R98). -/
theorem landScals_alone {s : State} {d r v : Nat} (h : s.str.scalQ = [(d, r, some v)]) :
    landScals s = { s with str := { s.str with
      scal := if d < s.str.icyc then sset 0#64 s.str.scal r (BitVec.ofNat 64 v) else s.str.scal
      scalQ := if d < s.str.icyc then [] else [(d, r, some v)] } } := by
  by_cases hd : d < s.str.icyc <;> simp [landScals, h, hd, State.modStr, State.setScal]

section
variable {s : State} {x : WinAcc} {r a d ps v : Nat} (hkind : x.kind = .sld r a d) (hword : x.word = a / 32)
  (ha : a % 8 = 0) (hq : s.str.scalQ = [(d, r, none)]) (hserves : s.servesStream (a / 32) = true)
  (hps : s.psecOf (secOf a) = some ps)
  (hall : ∀ i < 4, ∃ w, s.eccWord (physAddr ps (a / 32 * 32) / 8 + i) = .clean w)
  (hv : s.eccWord (physAddr ps a / 8) = .clean v)
include hkind hword ha hq hserves hps hall hv

/-- An SLD whose bank word is clean takes its eight bytes, and the scalar waits for its write cycle. -/
theorem serveBank_sld : serveBank s x.owed = { s with str := { s.str with
    scal := if d < s.str.icyc then sset 0#64 s.str.scal r (BitVec.ofNat 64 v) else s.str.scal
    scalQ := if d < s.str.icyc then [] else [(d, r, some v)] } } := by
  have hsec : secOf (a / 32 * 32) = secOf a := by
    rw [secOf_eq, secOf_eq]
    omega
  have hclean : ∀ i < 4, s.eccWord (physAddr ps (a / 32 * 32) / 8 + i) =
      .clean (s.rawWord (physAddr ps (a / 32 * 32) / 8 + i)) := fun i hi => by
    obtain ⟨w, hw⟩ := hall i hi
    rw [hw, eccDecode_eq_clean hw]
  have hread := State.readOsura_clean (by omega) (hsec ▸ hps) hclean false
  have hplace : physAddr ps (a / 32 * 32) / 8 + a % 32 / 8 = physAddr ps a / 8 := by
    unfold physAddr
    omega
  have hoff : a % 32 = 8 * (a % 32 / 8) := by omega
  have hvalue := ofBytes_wordAt (fun i => s.rawWord (physAddr ps (a / 32 * 32) / 8 + i)) (k := a % 32 / 8) (by omega)
  rw [← hoff, hplace, Nat.mod_eq_of_lt (s.rawWord_lt _), ← eccDecode_eq_clean hv] at hvalue
  have htake : serveBank s x.owed = takeRead (s.readOsura false (a / 32 * 32) 32).1
      (s.readOsura false (a / 32 * 32) 32).2 x := by
    rw [serveBank, WinAcc.owed]
    simp [hword, hserves, hkind, WinKind.isStore]
  rw [htake, hread]
  unfold takeRead
  simp only [hkind, hvalue]
  rw [landScals_alone (v := v) (d := d) (r := r) (by simp [State.modStr, hq])]
  rfl

end

/-- Settles O26: the idle cases, the windows that close, and the reads of an SLD and of a fetch. -/
theorem windowServed : Obligations.WindowServed := by
  unfold Obligations.WindowServed
  intro s
  refine ⟨fun hnot => ?_, fun hdue hwin => ?_, fun hopen => ?_, ?_, ?_⟩
  · show execStreamWindowService s = _
    obtain h | h | h := hnot <;> simp [execStreamWindowService, h]
  · show execStreamWindowService s = _
    rw [execStreamWindowService, closeWindows_self hwin]
    simp [serveBanks, hdue, oldestOf]
  · obtain ⟨hready, hclk, howner, -⟩ := hopen
    refine ⟨serveBanks (fun _ => true) (closeWindows s), ?_, ?_⟩
    · simp [exec, execStreamWindowService, hready, hclk, howner]
    · rw [serveBanks_sameWindow, closeWindows_window]
  · intro x r a d ps v hopen hdue hwin hpast hkind hword ha hlt hq hserves hps hall hv
    refine ⟨_, exec_streamWindowService_alone hdue hwin hpast hopen, ?_⟩
    rw [serveBank_sld (s := s.servingAlone x) hkind hword ha hq hserves hps hall hv]
    refine ⟨rfl, rfl, ?_⟩
    simp [State.servingAlone, hdue]
  · intro x hopen hdue hwin hpast hkind hserves
    refine ⟨_, exec_streamWindowService_alone hdue hwin hpast hopen, ?_⟩
    obtain ⟨u, hu⟩ : ∃ u, u = s.servingAlone x := ⟨_, rfl⟩
    have hbytes : (u.readOsura false (x.word * 32) 32).1 = (s.readOsura false (x.word * 32) 32).1 :=
      State.SameStore.readOsura_fst (by rw [hu]; exact ⟨rfl, rfl, rfl⟩) _ _ _
    have hreads := u.readOsura_readsOnly false (x.word * 32) 32
    have hserve : serveBank u x.owed = takeRead (u.readOsura false (x.word * 32) 32).1
        (u.readOsura false (x.word * 32) 32).2 x := by
      rw [serveBank, WinAcc.owed]
      simp [hkind, WinKind.isStore, show u.servesStream x.word = true by rw [hu]; exact hserves]
    rw [← hu, hserve, hbytes]
    generalize (u.readOsura false (x.word * 32) 32).2 = t at hreads
    have hstr : t.str = u.str := by rw [hreads]
    have hfetch : takeRead (s.readOsura false (x.word * 32) 32).1 t x = t.modStr (fun y => { y with
        fetched := y.fetched ++ cellsAt (x.word * 32)
          (s.fetchView (x.word * 32) (s.readOsura false (x.word * 32) 32).1) }) := by
      have hgen : t.str.fetchGen = s.str.fetchGen := by rw [hstr, hu]; rfl
      have hview : ∀ b bs, t.fetchView b bs = s.fetchView b bs := by
        intro b bs
        rw [State.fetchView, hstr, hu]
        rfl
      unfold takeRead
      simp only [hkind, hgen, if_pos, hview]
    rw [hfetch]
    refine ⟨?_, ?_⟩
    · show t.str.fetched ++ _ = _
      rw [hstr, hu]
      rfl
    · unfold State.ReadsOnly at hreads ⊢
      rw [hreads, hu]
      simp [State.servingAlone, State.modStr, hdue]

end Sys2Proof.Machine

namespace Sys2Proof.Machine

/-! ### PROD_COUNT (R74, R75, R79, R87) -/

/-- The state of an armed buoy after a producer completion. -/
theorem Buoy.completed_eq {b : Buoy} (h : b.st ≠ .free) : b.completed = { b with
    p := b.p - 1
    st := if b.st = .filling ∧ b.p ≤ 1 then (if b.consume ≠ 0 ∧ b.c = 0 then .draining else .ready)
      else if b.st = .ready ∧ b.consume ≠ 0 ∧ b.c = 0 then .draining else b.st } := by
  obtain ⟨base, nlines, expect, consume, reload, p, c, st⟩ := b
  cases st with
  | free => exact absurd rfl h
  | filling =>
    by_cases hp : p ≤ 1
    · have hzero : p - 1 = 0 := by omega
      simp [Buoy.completed, Buoy.derive, hp, hzero]
    · have hpos : p - 1 ≠ 0 := by omega
      simp [Buoy.completed, Buoy.derive, hp, hpos]
  | ready =>
    by_cases hover : consume ≠ 0 ∧ c = 0
    · simp [Buoy.completed, Buoy.derive, hover]
    · simp only [Buoy.completed, Buoy.derive, reduceCtorEq, if_false, false_and, true_and, if_neg hover]
      exact if_neg (by simpa using hover)
  | draining => simp [Buoy.completed, Buoy.derive]

/-- A count on an armed buoy that no command has acted on in this cycle. -/
theorem State.countAt_armed {s : State} {n : Nat} (kind source : Nat) {f : Buoy → Buoy} (hcmd : s.commanded n = false)
    (harmed : (s.buoy n).st ≠ .free) (hswf : swf Buoy.idle s.buoys.b = true) :
    (s.countAt n kind source f).buoy n = f (s.buoy n) ∧
      (∀ m, m ≠ n → (s.countAt n kind source f).buoy m = s.buoy m) ∧
      s.countAt n kind source f = { s with buoys := { s.buoys with
        b := (s.countAt n kind source f).buoys.b, before := (s.countAt n kind source f).buoys.before
        changedAt := (s.countAt n kind source f).buoys.changedAt } } := by
  have hput (m : Nat) := s.buoy_setBuoy n m (f (s.buoy n)) hswf
  unfold State.countAt
  simp only [hcmd, Bool.false_eq_true, if_false, if_neg harmed]
  split
  · rename_i hsame
    exact ⟨hsame.symm, fun _ _ => rfl, rfl⟩
  · exact ⟨(hput n).trans (if_pos rfl), fun m hm => (hput m).trans (if_neg hm), rfl⟩

theorem State.countAt_free {s : State} {n : Nat} (kind source : Nat) {f : Buoy → Buoy} (hcmd : s.commanded n = false)
    (hfree : (s.buoy n).st = .free) (herr : s.buoys.errValid = false) :
    s.countAt n kind source f = { s with buoys := { s.buoys with
      errBuoy := n, errKind := kind, errSource := source, errUncov := false, errValid := true } } := by
  simp [State.countAt, hcmd, hfree, State.buoyMisuse, herr]

/-- A PROD whose earlier stores have been served counts; of the stream, its note and the buoy's notes of R386 change. -/
theorem exec_prodCount {s : State} {n : Fin 256} {p : Nat × Nat}
    (hfind : s.str.prods.find? (fun q => q.1 == n.val) = some p) (hdone : s.storesDone p.2 = true) :
    ∃ cmds, exec (.prodCount n) s = .next { (s.modStr (fun t => { t with prods := t.prods.erase p })).countAt n 2 1
      Buoy.completed with str := { s.str with prods := s.str.prods.erase p, cmds := cmds } } := by
  obtain ⟨u, hu⟩ : ∃ u, u = (s.modStr (fun t => { t with prods := t.prods.erase p })).countAt n 2 1 Buoy.completed :=
    ⟨_, rfl⟩
  have hstr : u.str = { s.str with prods := s.str.prods.erase p } := by
    rw [hu, State.countAt_frame]
    rfl
  have hexec : ∃ v, exec (.prodCount n) s = .next v ∧ (v = u ∨ v = u.alsoWithout n Buoy.completed) := by
    show ∃ v, execProdCount n s = .next v ∧ _
    unfold execProdCount
    simp only [hfind, hdone, if_true, State.complete, ← hu]
    refine ⟨_, rfl, ?_⟩
    split
    · exact .inl rfl
    · exact .inr rfl
  obtain ⟨v, hv, rfl | rfl⟩ := hexec
  · exact ⟨s.str.cmds, by rw [hv, ← hu, ← hstr]⟩
  · exact ⟨_, by rw [hv, State.alsoWithout_frame, hstr, ← hu]⟩

/-- Settles O28: PROD_COUNT on an armed and on a Free buoy, and the end of a fence. -/
theorem prodAndFence : Obligations.ProdAndFence := by
  unfold Obligations.ProdAndFence
  refine ⟨fun s n p hinv hfind => ⟨fun hwait => ?_, fun hdone hcmd harmed => ?_, fun hdone hcmd hfree herr => ?_⟩,
    fun s n hnone => ?_, fun s => ⟨fun hfence hrun hdone => ?_, fun hnot => ?_⟩⟩
  · show execProdCount n s = _
    simp [execProdCount, hfind, hwait]
  · obtain ⟨cmds, hexec⟩ := exec_prodCount hfind hdone
    obtain ⟨hbuoy, hother, hframe⟩ := State.countAt_armed (s := s.modStr (fun t => { t with prods := t.prods.erase p }))
      (n := n) 2 1 (f := Buoy.completed) hcmd harmed hinv.buoys
    refine ⟨_, hexec, rfl, hbuoy.trans (Buoy.completed_eq harmed), hother, ?_⟩
    rw [hframe]
    rfl
  · obtain ⟨cmds, hexec⟩ := exec_prodCount hfind hdone
    refine ⟨_, hexec, ?_⟩
    rw [State.countAt_free (s := s.modStr (fun t => { t with prods := t.prods.erase p })) 2 1 hcmd hfree herr]
    rfl
  · show execProdCount n s = _
    simp [execProdCount, hnone]
  · show execFenceComplete s = _
    simp [execFenceComplete, hfence, hrun, hdone, fenceStores, State.modStr]
  · show execFenceComplete s = _
    refine if_neg ?_
    simpa [and_assoc] using hnot

/-! ### A coalescing-buffer entry flushes (R48) -/

/-- The flush of an entry that leaves its buffer. -/
def State.flushReq (s : State) (pc : Nat) (e : CbEntry) : AsyncReq :=
  ⟨.flush, .flush pc e.cl e.word e.age, e.word * 32, 32, some e.bytes,
    if e.bytes.length % 32 == 0 && e.bytes.length == 32 && e.word * 32 % 32 == 0 then 1 else 2, s.clk.cyc, false, 0, false,
    0, false⟩

theorem State.flushEntry_eq (s : State) (pc : Nat) (e : CbEntry) :
    s.flushEntry pc e = { s with osura := { s.osura with
      cb := smod [] s.osura.cb pc (·.erase e), q := s.osura.q ++ [s.flushReq pc e] } } := rfl

section
variable {s : State} {pc : Fin 34} {e : CbEntry} {es : List CbEntry} (hinv : s.Inv) (hword : e.word < 2 ^ 24)
  (hcb : sget [] s.osura.cb pc.val = e :: es) (hkeep : ∀ x ∈ e :: es, x.must = false)
  (hother : ∀ x ∈ es, x.word ≠ e.word)
include hword hcb hother

/-- An entry that is older than 64 cycles is the one that the row names, and no other. -/
theorem exec_cbEntryTimeout : exec (.cbEntryTimeout pc (BitVec.ofNat 24 e.word)) s = .next (if e.at_ + 64 ≤ s.clk.cyc
    then flushMusts pc (s.setCb pc (·.map (fun x => if x.word == e.word then { x with must := true } else x))) else s) := by
  have hnat : (BitVec.ofNat 24 e.word).toNat = e.word := by
    rw [BitVec.toNat_ofNat]
    exact Nat.mod_eq_of_lt hword
  show execCbEntryTimeout _ _ s = _
  unfold execCbEntryTimeout
  rw [hcb, hnat]
  by_cases hold : e.at_ + 64 ≤ s.clk.cyc
  · rw [List.find?_cons_of_pos (by simp [hold]), if_pos hold]
  · have hnone : es.find? (fun x => x.word == e.word && decide (x.at_ + 64 ≤ s.clk.cyc)) = none := by
      rw [List.find?_eq_none]
      intro x hx
      simp [hother x hx]
    rw [List.find?_cons_of_neg (by simp [hold]), hnone, if_neg hold]

omit hword in
include hinv hkeep in

/-- The marked entry alone leaves the buffer. -/
theorem flushMusts_marked (hspace : s.flushSpace pc = true) : ∃ u : State,
    sget [] u.osura.cb pc.val = { e with must := true } :: es ∧ swf [] u.osura.cb = true ∧
      u = { s with osura := { s.osura with cb := u.osura.cb } } ∧
      flushMusts pc (s.setCb pc (·.map (fun x => if x.word == e.word then { x with must := true } else x))) =
        u.flushEntry pc { e with must := true } := by
  obtain ⟨u, hu⟩ : ∃ u, u = s.setCb pc (·.map (fun x => if x.word == e.word then { x with must := true } else x)) :=
    ⟨_, rfl⟩
  have hrest : es.map (fun x => if x.word == e.word then { x with must := true } else x) = es := by
    refine (List.map_congr_left (fun x hx => ?_)).trans (List.map_id es)
    exact if_neg (by simpa using hother x hx)
  have hget : sget [] u.osura.cb pc.val = { e with must := true } :: es := by
    rw [hu]
    refine (sget_sset pc.val pc.val _ hinv.cb).trans ?_
    rw [if_pos rfl, hcb]
    dsimp only
    rw [List.map_cons, hrest, if_pos (beq_self_eq_true _)]
  have hnone : es.filter (·.must) = [] := by
    rw [List.filter_eq_nil_iff]
    intro x hx
    simp [hkeep x (List.mem_cons_of_mem _ hx)]
  refine ⟨u, hget, ?_, ?_, ?_⟩
  · rw [hu]
    exact swf_smod _ _ hinv.cb
  · rw [hu]
    rfl
  · have hroom : u.flushSpace pc = true := by
      rw [hu]
      exact hspace
    rw [← hu, flushMusts, hget, List.filter_cons_of_pos rfl, hnone]
    exact if_pos hroom

end

/-- Settles O30: the entry that is 64 cycles old is marked and flushes, a younger one stays. -/
theorem entryFlushes : Obligations.EntryFlushes := by
  unfold Obligations.EntryFlushes
  intro s pc e es hinv hword hcb hkeep hother hspace
  refine ⟨fun hold => ?_, fun hyoung => ?_⟩
  · obtain ⟨u, hget, hswf, hframe, hflush⟩ := flushMusts_marked hinv hcb hkeep hother hspace
    rw [exec_cbEntryTimeout hword hcb hother, if_pos hold, hflush, State.flushEntry_eq]
    refine ⟨_, rfl, ?_, ⟨u.flushReq pc { e with must := true }, ?_, rfl, rfl, rfl, rfl⟩, ?_⟩
    · refine (sget_sset pc.val pc.val _ hswf).trans ?_
      rw [if_pos rfl, hget]
      exact List.erase_cons_head _ _
    · rw [hframe]
    · rw [hframe]
  · rw [exec_cbEntryTimeout hword hcb hother, if_neg (by omega)]

end Sys2Proof.Machine

namespace Sys2Proof.Machine

/-! ### BUNDLE_FETCH (R40, R101) -/

/-- BUNDLE_FETCH asks once in a core cycle. -/
theorem exec_bundleFetch_done {s : State} (h : s.str.fetchAt = s.clk.cyc + 1) : exec .bundleFetch s = .next s := by
  show execBundleFetch s = _
  simp [execBundleFetch, h]

section
variable {s : State} (hrun : s.wrun = true) (hstop : s.streamStopped = false) (hend : s.str.ended = false)
  (hready : s.rst.ready = true) (hclk : s.clk.stopped = false) (hwait : s.str.stopWait = none)
  (hpc : s.str.pc % 4 = 0) (hbuf : s.str.loopBuf = LoopBuf.empty) (hcoming : s.fetchComing s.str.pc = true)
include hrun hstop hend hready hclk hwait hpc hbuf hcoming

/-- Without a loop buffer, and with the pc among what is fetched or next, a fetch goes on where it was. -/
theorem exec_bundleFetch (hnew : s.str.fetchAt ≠ s.clk.cyc + 1) : exec .bundleFetch s = .next (
    if s.fetchLen s.str.fetchPc (s.str.pc + 1024) = 0 then s.modStr (fun t => { t with fetchAt := s.clk.cyc + 1 })
    else s.modStr (fun t => { t with
      fetchPc := s.str.fetchPc + s.fetchLen s.str.fetchPc (s.str.pc + 1024), fetchAt := s.clk.cyc + 1
      window := s.str.window ++ fetchAccs s (.fetch s.str.fetchGen) s.str.fetchPc
        (s.fetchLen s.str.fetchPc (s.str.pc + 1024)) })) := by
  have hrefetch : refetch s = s := by rw [refetch, if_pos hcoming]
  obtain ⟨u, hu⟩ : ∃ u, u = s.modStr (fun t => { t with fetchAt := s.clk.cyc + 1 }) := ⟨_, rfl⟩
  have hlen : ∀ a l, u.fetchLen a l = s.fetchLen a l := fun a l => by rw [hu]; rfl
  show execBundleFetch s = _
  unfold execBundleFetch
  rw [if_neg (by simp [hrun, hstop, hend, hready, hclk, hwait, hpc, hnew]), hrefetch, ← hu]
  have hustr : u.str.pc = s.str.pc ∧ u.str.fetchPc = s.str.fetchPc ∧ u.str.loopBuf = LoopBuf.empty := by
    rw [hu]
    exact ⟨rfl, rfl, hbuf⟩
  obtain ⟨hupc, hufetch, hubuf⟩ := hustr
  by_cases hzero : s.fetchLen s.str.fetchPc (s.str.pc + 1024) = 0
  · simp [hlen, hupc, hufetch, hubuf, hzero, LoopBuf.empty]
  · simp [hlen, hupc, hufetch, hubuf, hzero, LoopBuf.empty]
    rw [hu]
    rfl

end

/-- A run that does not leave its sector is open where that sector is. -/
theorem State.runOpen_of_secOpen {s : State} {a n : Nat} (h : s.secOpen (a / 2 ^ 23) = true)
    (hin : a % 2 ^ 23 + n ≤ 2 ^ 23) : s.runOpen a n = true := by
  rw [State.runOpen, List.all_eq_true]
  intro k hk
  obtain ⟨hlo, hhi⟩ := mem_fromTo.1 hk
  have hsame : k = a / 2 ^ 23 := by omega
  rw [hsame, h]

/-- What one fetch reads: at most 128 bytes, not past its limit, all of open sectors. -/
theorem State.fetchLen_spec (s : State) (a limit : Nat) (h : s.fetchLen a limit ≠ 0) :
    s.fetchLen a limit ≤ 128 ∧ a + s.fetchLen a limit ≤ limit ∧ s.runOpen a (s.fetchLen a limit) = true := by
  obtain ⟨n, hn⟩ : ∃ n, n = min 128 (min limit (2 ^ 29) - a) := ⟨_, rfl⟩
  unfold State.fetchLen at h ⊢
  rw [← hn] at h ⊢
  dsimp only at h ⊢
  split at h
  · exact absurd rfl h
  · rename_i hat
    rw [if_neg hat]
    simp only [Bool.or_eq_true, decide_eq_true_eq, Bool.not_eq_true', not_or, Nat.not_le, Bool.not_eq_false] at hat
    obtain ⟨hlt, hopen⟩ := hat
    have hsec : secOf a = a / 2 ^ 23 := by
      rw [secOf_eq]
      omega
    rw [hsec] at hopen
    split at h
    · rename_i hrun
      rw [if_pos hrun]
      exact ⟨by omega, by omega, hrun⟩
    · rename_i hrun
      have hcross : ¬ a % 2 ^ 23 + n ≤ 2 ^ 23 := fun hin => hrun (State.runOpen_of_secOpen hopen hin)
      rw [if_neg hrun]
      exact ⟨by omega, by omega, State.runOpen_of_secOpen hopen (by omega)⟩

/-- Settles O25, by the length of what can be asked for. -/
theorem fetchReadsAhead : Obligations.FetchReadsAhead := by
  unfold Obligations.FetchReadsAhead
  intro s hrun hstop hend hready hclk hwait hpc hbuf hcoming
  refine ⟨fun hnew hlen => ?_, fun hnew hlen => ?_, exec_bundleFetch_done⟩
  · obtain ⟨hmost, hlimit, hopen⟩ := s.fetchLen_spec _ _ hlen
    refine ⟨_, s.fetchLen s.str.fetchPc (s.str.pc + 1024), fetchAccs s (.fetch s.str.fetchGen) s.str.fetchPc
      (s.fetchLen s.str.fetchPc (s.str.pc + 1024)), ?_, Nat.pos_of_ne_zero hlen, hmost, hlimit, hopen, fun x hx => ?_,
      fun a => ?_, rfl⟩
    · rw [exec_bundleFetch hrun hstop hend hready hclk hwait hpc hbuf hcoming hnew, if_neg hlen]
      rfl
    · obtain ⟨w, -, rfl⟩ := List.mem_map.1 hx
      exact ⟨rfl, rfl, rfl⟩
    · simp only [fetchAccs, List.mem_map, rowWords, mem_fromTo]
      constructor
      · rintro ⟨_, ⟨w, hw, rfl⟩, rfl⟩
        dsimp only
        omega
      · intro ha
        exact ⟨_, ⟨a, by omega, rfl⟩, rfl⟩
  · rw [exec_bundleFetch hrun hstop hend hready hclk hwait hpc hbuf hcoming hnew, if_pos hlen]
    rfl

end Sys2Proof.Machine

namespace Sys2Proof.Machine

/-! ### The arbiter with one request (R45 to R47) -/

theorem grantRank_nil (g : Agent) {a : Arb} (h : a.pool.filter (·.agent == g) = []) : grantRank g a = a := by
  rw [grantRank, h]
  rfl

theorem Arb.headOf_nil {a : Arb} (h : a.pool = []) (g : Agent) : a.headOf g = none := by
  rw [Arb.headOf, h]
  rfl

theorem grantWeighted_nil (weights : List Nat) (fuel : Nat) {a : Arb} (h : a.pool = []) :
    grantWeighted weights fuel a = a := by
  cases fuel with
  | zero => rfl
  | succ fuel => simp [grantWeighted, Arb.headOf_nil h]

/-- With nothing asked for, the arbiter grants nothing. -/
theorem arbitrate_nil (weights : List Nat) {a : Arb} (h : a.pool = []) : arbitrate weights a = a := by
  have hrank : ∀ g, grantRank g a = a := fun g => grantRank_nil g (by rw [h]; rfl)
  simp [arbitrate, hrank, grantWeighted_nil weights 33 h]

/-- The place of an agent among the weighted ones. -/
theorem weighted_getD_eq {g : Agent} (h : g ∈ weighted) :
    ∃ k < 6, ∀ i < 6, (weighted.getD i .log == g) = (i == k) := by
  simp only [weighted, List.mem_cons, List.not_mem_nil, or_false] at h
  obtain rfl | rfl | rfl | rfl | rfl | rfl := h
  · exact ⟨0, by decide, by decide⟩
  · exact ⟨1, by decide, by decide⟩
  · exact ⟨2, by decide, by decide⟩
  · exact ⟨3, by decide, by decide⟩
  · exact ⟨4, by decide, by decide⟩
  · exact ⟨5, by decide, by decide⟩

/-- One agent alone is chosen, whatever its credit. -/
theorem chooseAgent_alone (weights credits : List Nat) (k : Nat) : chooseAgent weights credits [k] = some k := by
  simp [chooseAgent]

section
variable {weights : List Nat} {a : Arb} {r : AsyncReq} (hpool : a.pool = [r]) (hagent : r.agent ∈ weighted)
  (hfits : a.fits r = true)
include hpool hagent hfits

/-- A weighted request that fits and is alone is granted in the first round. -/
theorem grantWeighted_alone (fuel : Nat) : ∃ credits ws,
    grantWeighted weights (fuel + 1) a = { a.take r with credits := credits, weights := ws } := by
  obtain ⟨k, hk, hplace⟩ := weighted_getD_eq hagent
  have hhead : ∀ b : Arb, b.pool = [r] → ∀ i < 6, b.headOf (weighted.getD i .log) = if i == k then some r else none := by
    intro b hb i hi
    rw [Arb.headOf, hb, ← hplace i hi, Bool.beq_comm, List.find?_cons]
    cases r.agent == weighted.getD i .log <;> rfl
  have hasking : (upTo 6).filter (fun i => (a.headOf (weighted.getD i .log)).isSome) = [k] := by
    rw [List.filter_congr (q := fun i => i == k) (fun i hi => ?_)]
    · exact (by decide : ∀ k < 6, (upTo 6).filter (fun i => i == k) = [k]) k hk
    · rw [hhead a hpool i (List.mem_range.1 hi)]
      cases i == k <;> rfl
  have hheadk : ∀ c w, Arb.headOf { a with credits := c, weights := w } (weighted.getD k .log) = some r := by
    intro c w
    exact (hhead { a with credits := c, weights := w } hpool k hk).trans (if_pos (beq_self_eq_true k))
  have hload : ∃ c w, (if ([k].all fun i => a.credits.getD i 0 == 0) = true then
      { a with credits := weights, weights := weights } else a) = { a with credits := c, weights := w } := by
    split
    · exact ⟨_, _, rfl⟩
    · exact ⟨a.credits, a.weights, rfl⟩
  obtain ⟨c, w, hload⟩ := hload
  have hnil : (a.take r).pool = [] := by simp [Arb.take, hpool]
  have hk' : a.headOf (weighted.getD k .log) = some r := hheadk a.credits a.weights
  rw [grantWeighted, hasking]
  simp only [List.filter_cons, hk', hfits, if_true, List.filter_nil, List.isEmpty_cons, Bool.false_eq_true, if_false]
  rw [hload, chooseAgent_alone]
  simp only [hheadk]
  exact ⟨_, _, grantWeighted_nil weights fuel (by exact hnil)⟩

theorem arbitrate_alone : (arbitrate weights a).sel = a.sel ++ [r] := by
  have hrank : ∀ g ∉ weighted, ∀ b : Arb, b.pool = [r] → grantRank g b = b := by
    intro g hg b hb
    refine grantRank_nil g ?_
    rw [hb, List.filter_cons_of_neg (by rintro h; exact hg (by rwa [← beq_iff_eq.1 h]))]
    rfl
  have hfirst : [Agent.beacon, .cow, .writeBack, .scrubOver].foldl (fun a g => grantRank g a) a = a := by
    simp only [List.foldl_cons, List.foldl_nil]
    rw [hrank .beacon (by decide) a hpool, hrank .cow (by decide) a hpool, hrank .writeBack (by decide) a hpool,
      hrank .scrubOver (by decide) a hpool]
  obtain ⟨credits, ws, hweighted⟩ := grantWeighted_alone (weights := weights) hpool hagent hfits 32
  have hnil : (a.take r).pool = [] := by simp [Arb.take, hpool]
  rw [arbitrate, hfirst, hweighted, grantRank_nil .scrub (by exact (congrArg (List.filter _) hnil).trans rfl)]
  rfl

end

/-! ### OSURA_ASYNC_SERVE with one request in the sector's queue -/

/-- With no coalescing entry and no partial store on its way, no flush follows. -/
theorem flushPump_self {s : State} (hcb : s.osura.cb = []) (hcarry : s.str.carry = []) : flushPump s = s := by
  have horder : s.cbOrder = [] := by simp [State.cbOrder, hcb, sget]
  rw [flushPump, horder]
  simp [hcarry, carryPump, State.modStr]
  rw [← hcarry]

theorem arrivalsPump_self {s : State} (h : ∀ r ∈ s.ring.ports, r.held = []) : arrivalsPump s = s := by
  have hheld : ∀ n, (s.rport n).held = [] := by
    intro n
    rw [State.rport, List.getD_eq_getElem?_getD]
    cases hport : s.ring.ports[n]? with
    | none => rfl
    | some r => exact h r (List.mem_of_getElem? hport)
  unfold arrivalsPump
  split
  · rfl
  · refine List.foldlRecOn (motive := fun t => t = s) _ _ rfl (fun t ht n _ => ?_)
    rw [ht]
    simp [hheld]

/-- An async-owned cycle of a sector in whose queue one request stands, with no window of the stream to close. -/
structure State.AloneIn (s : State) (sec : Fin 64) (r : AsyncReq) : Prop where
  ready : s.rst.ready = true
  running : s.clk.stopped = false
  owned : asyncOwns s.osura.share s.clk.cyc = true
  due : (s.secCtl sec).served ≤ s.clk.cyc
  queue : s.osura.q = [r]
  sector : secOf r.addr = sec
  window : s.str.window = []

/-- The state in which the arbiter serves what it has granted. -/
def State.granting (s : State) (sec : Nat) (a : Arb) : State :=
  s.modSec sec (fun c => { c with
    credits := a.credits, weights := a.weights, served := s.clk.cyc + 1, granted := a.sel.flatMap AsyncReq.banks })

theorem AsyncReq.fits_all (r : AsyncReq) (credits weights : List Nat) (pool sel : List AsyncReq) :
    (Arb.mk (upTo 32) credits weights pool sel).fits r = true := by
  rw [Arb.fits, List.all_eq_true]
  intro b hb
  obtain ⟨w, -, rfl⟩ := List.mem_map.1 hb
  exact List.contains_iff_mem.2 (List.mem_range.2 (Nat.mod_lt _ (by decide)))

/-- With no stream access in its way a sector's arbiter has all its banks. -/
theorem State.asyncBanks_free {s : State} (hbanks : s.streamBanks = []) (hstall : s.str.bankStall = 0) (sec : Nat) :
    s.asyncBanks sec = upTo 32 := by
  simp [State.asyncBanks, hbanks, hstall]

section
variable {s : State} {sec : Fin 64} {r : AsyncReq} (halone : s.AloneIn sec r) (hcow : s.cowBlocked r = false)
  (hbuoy : s.buoyBlocked r = false)
include halone hcow hbuoy

/-- A request alone in the queue of an open sector is granted. -/
theorem exec_osuraAsyncServe_alone (hopen : s.secOpen sec = true) (hagent : r.agent ∈ weighted)
    (hbanks : s.streamBanks = []) (hstall : s.str.bankStall = 0) (hstalled : r.stalled = false) :
    ∃ a : Arb, exec (.osuraAsyncServe sec) s = .next (arrivalsPump (serveReq (s.granting sec a) r)) := by
  obtain ⟨hready, hrunning, howned, hdue, hq, hsec, hwindow⟩ := halone
  have hlit : ((s.secCtl sec).st == .closing) = false := by
    rw [State.secOpen, Bool.and_eq_true, beq_iff_eq] at hopen
    rw [hopen.1]
    rfl
  have hbeacon : (r.agent != .beacon) = true := by
    rw [bne_iff_ne]
    rintro h
    exact absurd hagent (by rw [h]; decide)
  have hself : closeWindows s = s := closeWindows_self (by simp [hwindow])
  have hgrantable : s.grantable sec r = true := by
    simp [State.grantable, hsec, hopen, hbuoy, hcow, hbeacon, hstalled]
  refine ⟨arbitrate s.osura.weights ⟨s.asyncBanks sec, (s.secCtl sec).credits, (s.secCtl sec).weights, [r], []⟩, ?_⟩
  have hsel : (arbitrate s.osura.weights
      ⟨s.asyncBanks sec, (s.secCtl sec).credits, (s.secCtl sec).weights, [r], []⟩).sel = [r] :=
    arbitrate_alone rfl hagent (by rw [State.asyncBanks_free hbanks hstall]; exact r.fits_all _ _ _ _)
  show execOsuraAsyncServe sec s = _
  simp only [execOsuraAsyncServe, hself, hq, hsec, hready, hrunning, howned, hopen, hcow, hlit, hgrantable, hsel,
    Nat.not_lt.2 hdue, decide_false, Bool.not_true, Bool.or_false, Bool.false_eq_true, if_false, beq_self_eq_true,
    Bool.and_false, Bool.false_and, List.filter_cons_of_pos, List.filter_nil, List.filter_cons, List.foldl_nil,
    List.foldl_cons]
  rw [State.granting, hsel]

/-- A request alone in the queue of a sector that is not open is refused. -/
theorem exec_osuraAsyncServe_refused (hclosed : s.secOpen sec = false) (haccepted : r.accepted = false) {u : State}
    (hu : ownerRefused r false (s.takeReq r) = u) (hq : u.osura.q = []) (hpend : u.log.pend = []) :
    ∃ a : Arb, exec (.osuraAsyncServe sec) s = .next (arrivalsPump (u.granting sec a)) := by
  obtain ⟨hready, hrunning, howned, hdue, hqueue, hsec, hwindow⟩ := halone
  have hself : closeWindows s = s := closeWindows_self (by simp [hwindow])
  have hreads : u.markReads sec = [] := by simp [State.markReads, hpend]
  refine ⟨⟨u.asyncBanks sec, (u.secCtl sec).credits, (u.secCtl sec).weights, [], []⟩, ?_⟩
  show execOsuraAsyncServe sec s = _
  simp only [execOsuraAsyncServe, hself, hqueue, hsec, hready, hrunning, howned, hclosed, haccepted, hcow, hbuoy,
    Nat.not_lt.2 hdue, decide_false, Bool.not_true, Bool.not_false, Bool.or_false, Bool.false_eq_true, if_false,
    beq_self_eq_true, Bool.and_true, List.filter_cons_of_pos, List.filter_nil, List.foldl_nil, List.foldl_cons,
    hu, hq, hreads, ite_self]
  rw [arbitrate_nil _ rfl]
  rfl

end

/-- A flush waits on no buoy (R77, R78). -/
theorem State.buoyBlocked_flush (s : State) {r : AsyncReq} (hagent : r.agent = .flush) (hwr : r.wr.isSome = true) :
    s.buoyBlocked r = false := by
  simp [State.buoyBlocked, hagent, hwr]

/-- Without a pending granule no write waits on a closing mark (R405). -/
theorem State.cowBlocked_nil {s : State} (hpend : s.log.pend = []) (r : AsyncReq) : s.cowBlocked r = false := by
  simp [State.cowBlocked, State.cowPending, hpend, sget]

/-- Settles O33: the flush is granted twice; the second grant writes its ECC word. -/
theorem asyncServes : Obligations.AsyncServes := by
  unfold Obligations.AsyncServes
  intro s sec r pc cl w age a ps v hinv hready hrunning howned hdue hq hsec hopen hagent hwho _ hwr ha _ hseca hv hps
    hpend hcb hcarry hwindow hstall hbanks hstalled hheld
  obtain ⟨x, hexec⟩ := exec_osuraAsyncServe_alone ⟨hready, hrunning, howned, hdue, hq, hsec, hwindow⟩
    (State.cowBlocked_nil hpend r) (s.buoyBlocked_flush hagent (by rw [hwr]; rfl)) hopen (by rw [hagent]; decide)
    hbanks hstall hstalled
  obtain ⟨g, hg⟩ : ∃ g, g = s.granting sec x := ⟨_, rfl⟩
  have hgframe : g = { s with osura := { s.osura with secs := g.osura.secs } } := by
    rw [hg]
    rfl
  rw [← hg] at hexec
  constructor
  · intro hpasses
    have hserve : serveReq g r = { g with osura := { g.osura with q := [{ r with passes := 1 }] } } := by
      rw [serveReq, if_pos hpasses, hgframe, hq]
      simp
    rw [hserve, arrivalsPump_self (by rw [hgframe]; exact hheld)] at hexec
    refine ⟨_, hexec, rfl, ?_⟩
    rw [hgframe]
  · intro hpasses
    obtain ⟨shadow, hshadow⟩ := (g.takeReq r).streamWrite_eq (cellsAt a (toBytes 8 v))
    obtain ⟨u, hu⟩ : ∃ u : State, u = { g.takeReq r with str := { (g.takeReq r).str with shadow := shadow } } := ⟨_, rfl⟩
    have huframe : u = { s with
        str := { s.str with shadow := shadow }, osura := { s.osura with q := [], secs := u.osura.secs } } := by
      rw [hu, hgframe]
      simp [State.takeReq, hq]
    have hups : u.psecOf (secOf a) = some ps := by
      rw [huframe, hseca]
      exact hps
    obtain ⟨t, ht, -, hclean, hother, -, -, -, hframe⟩ :=
      u.writeOsura_word_spec ha hv hups (by rw [huframe]; exact hinv.data) (by rw [huframe]; exact hinv.check)
    have hserve : serveReq g r = flushPump t := by
      rw [serveReq, if_neg (by omega), hwr]
      simp only [hagent, beq_self_eq_true, if_true, hshadow, ← hu, ht, ownerServed, hwho]
    have htframe : t = { s with
        str := { s.str with shadow := t.str.shadow }
        osura := { s.osura with q := [], data := t.osura.data, check := t.osura.check, secs := t.osura.secs }
        log := { s.log with dirtyA := t.log.dirtyA, dirtyB := t.log.dirtyB } } := by
      rw [hframe, huframe]
    rw [hserve, flushPump_self (by rw [htframe]; exact hcb) (by rw [htframe]; exact hcarry),
      arrivalsPump_self (by rw [htframe]; exact hheld)] at hexec
    refine ⟨t, hexec, by rw [htframe], hclean, fun p hp => ?_, htframe⟩
    rw [hother p hp, huframe]

/-- A LATE record that has room is queued (R62, R384). -/
theorem State.late_evRoom {s : State} (hroom : s.evRoom = true) (kind unit chip a : Nat) :
    s.late kind unit chip a = { s with
      evq := s.evq ++ [s.record 0x09 (kind + unit * 16 + chip * 65536) (a / 1024 * 1024) 0 0] } := by
  rw [State.late, State.pushOrDrop, if_pos hroom]
  rfl

/-- Settles O34: the refused flush leaves its queue, and its record finds room. -/
theorem darkSectorRefusesFlush : Obligations.DarkSectorRefusesFlush := by
  unfold Obligations.DarkSectorRefusesFlush
  intro s sec r pc cl w age hready hrunning howned hdue hq hsec hclosed haccepted hagent hwho hwr hpend hcb hcarry
    hwindow hheld hroom
  obtain ⟨u, hu⟩ : ∃ u : State, u = { s with
    osura := { s.osura with q := [] }
    evq := s.evq ++ [⟨0x09, 0, 0, s.clk.ticks % 2 ^ 32, s.seqNow, 1 + cl * 16, r.addr / 1024 * 1024, 0, 0⟩] } :=
    ⟨_, rfl⟩
  have htake : s.takeReq r = { s with osura := { s.osura with q := [] } } := by
    rw [State.takeReq, hq, List.erase_cons_head]
  have hroom' : (s.takeReq r).evRoom = true := hroom
  have hlate : (s.takeReq r).late 1 cl 0 r.addr = u := by
    rw [State.late_evRoom hroom', htake, hu]
    rfl
  have hrefused : ownerRefused r false (s.takeReq r) = u := by
    simp only [ownerRefused, hwho, hlate]
    exact flushPump_self (by rw [hu]; exact hcb) (by rw [hu]; exact hcarry)
  obtain ⟨x, hexec⟩ := exec_osuraAsyncServe_refused ⟨hready, hrunning, howned, hdue, hq, hsec, hwindow⟩
    (State.cowBlocked_nil hpend r) (s.buoyBlocked_flush hagent hwr) hclosed haccepted hrefused (by rw [hu])
    (by rw [hu]; exact hpend)
  rw [arrivalsPump_self (by rw [hu]; exact hheld)] at hexec
  refine ⟨_, hexec, ?_⟩
  rw [hu]
  exact ⟨rfl, rfl, rfl, rfl, rfl⟩

end Sys2Proof.Machine

namespace Sys2Proof.Machine

/-! ### A write by address (R443, R488) -/

/-- Where a register stands outside the windows, the write has its effect and is answered. -/
theorem exec_registerWrite {s : State} {addr : BitVec 20} {a : Nat} (haddr : 4 * addr.toNat = a) (v : Word)
    (halias : aliasOf a = none) (hreg : (s.regValue a).isSome = true) :
    exec (.registerWrite addr v) s = .next (s.hostWrite (regEffect a v.toNat)) := by
  show execRegisterWrite addr v s = _
  rw [execRegisterWrite, haddr, regWrite, halias, State.hostWrite, answerWrite]
  cases hready : s.rst.ready <;> simp [hreg]

theorem exec_registerWrite_unassigned {s : State} {addr : BitVec 20} (v : Word) (hready : s.rst.ready = true)
    (halias : aliasOf (4 * addr.toNat) = none) (hreg : s.regValue (4 * addr.toNat) = none) :
    exec (.registerWrite addr v) s = .next { s with out := s.out ++ [.regWrote true] } := by
  show execRegisterWrite addr v s = _
  rw [execRegisterWrite, regWrite, halias, hreg, hready]
  rfl

/-- Byte offsets of read-only registers: identity, heads and tails, clocks and power, maps, sector and buoy states,
captures, and what the units report of themselves. -/
def readOnlyOffsets : List Nat :=
  [0x0000, 0x0004, 0x0008, 0x0020, 0x0024, 0x100C, 0x102C, 0x1030, 0x104C, 0x1070, 0x3004, 0x3010, 0x3024,
    0x4000, 0x4020, 0x4040, 0x4080, 0x5010, 0x5028, 0x502C, 0x5030, 0x5040, 0x6000, 0x6004, 0x6008, 0x6044, 0x8000,
    0x8010, 0x8028, 0x9014, 0x9018]

theorem regEffect_readOnly {a : Nat} (h : a ∈ readOnlyOffsets) (v : Nat) (s : State) : regEffect a v s = s := by
  revert a
  simp only [readOnlyOffsets, List.forall_mem_cons, List.not_mem_nil, false_imp_iff, implies_true, and_true]
  and_intros <;> rfl

theorem regValue_readOnly {a : Nat} (h : a ∈ readOnlyOffsets) (s : State) : (s.regValue a).isSome = true := by
  revert a
  simp only [readOnlyOffsets, List.forall_mem_cons, List.not_mem_nil, false_imp_iff, implies_true, and_true]
  and_intros <;> rfl

/-- The registers of the group masks (R496). -/
theorem regValue_group {s : State} (hlen : s.map.grp.length = 8) (n : Fin 8) :
    (s.regValue (0x40A0 + 4 * n.val)).isSome = true := by
  obtain ⟨g0, g1, g2, g3, g4, g5, g6, g7, hgrp⟩ : ∃ g0 g1 g2 g3 g4 g5 g6 g7, s.map.grp = [g0, g1, g2, g3, g4, g5, g6, g7] := by
    match hgrp : s.map.grp, hlen with
    | [g0, g1, g2, g3, g4, g5, g6, g7], _ => exact ⟨g0, g1, g2, g3, g4, g5, g6, g7, rfl⟩
  have hregs : s.regValue (0x40A0 + 4 * n.val) = (mapRegs s).lookup (0x40A0 + 4 * n.val) := by fin_cases n <;> rfl
  rw [hregs]
  simp only [mapRegs, hgrp]
  fin_cases n <;> rfl

/-- The word addresses of the read-only registers, outside the windows. -/
theorem wordAddr_readOnly : ∀ a ∈ readOnlyOffsets, 4 * (BitVec.ofNat 20 (a / 4)).toNat = a ∧ aliasOf a = none := by
  decide

theorem wordAddr_group : ∀ n : Fin 8, 4 * (BitVec.ofNat 20 (0x1028 + n.val)).toNat = 0x40A0 + 4 * n.val ∧
    aliasOf (0x40A0 + 4 * n.val) = none := by
  decide

theorem regEffect_group (n : Fin 8) (v : Word) (s : State) : regEffect (0x40A0 + 4 * n.val) v.toNat s =
    { s with map := { s.map with grp := s.map.grp.set n v } } := by
  have hv : BitVec.ofNat 32 v.toNat = v := by simp
  have heffect : regEffect (0x40A0 + 4 * n.val) v.toNat s =
      { s with map := { s.map with grp := s.map.grp.set n (BitVec.ofNat 32 v.toNat) } } := by
    fin_cases n <;> rfl
  rw [heffect, hv]

/-- The doorbells' registers (R388). -/
theorem wordAddr_doorbell : ∀ n : Fin 3, 4 * (BitVec.ofNat 20 (0x800 + n.val)).toNat = 0x2000 + 4 * n.val ∧
    aliasOf (0x2000 + 4 * n.val) = none := by
  decide

theorem regValue_doorbell (n : Fin 3) (s : State) : (s.regValue (0x2000 + 4 * n.val)).isSome = true := by
  fin_cases n <;> rfl

theorem regEffect_doorbell (n : Fin 3) (v : Nat) (s : State) : regEffect (0x2000 + 4 * n.val) v s = doorbell n v s := by
  fin_cases n <;> rfl

/-- The host rings' configuration registers (R388). -/
theorem wordAddr_ringConfig : ∀ n : Fin 4, 4 * (BitVec.ofNat 20 (0x402 + 8 * n.val)).toNat = 0x1008 + 32 * n.val ∧
    aliasOf (0x1008 + 32 * n.val) = none := by
  decide

theorem regValue_ringConfig (n : Fin 4) (s : State) : (s.regValue (0x1008 + 32 * n.val)).isSome = true := by
  fin_cases n <;> rfl

theorem regEffect_ringConfig (n : Fin 4) (v : Nat) (s : State) :
    regEffect (0x1008 + 32 * n.val) v s = ringConfig n v s := by
  fin_cases n <;> rfl

/-- Settles O21: at every address named the register exists, and what the row does is the effect of its write. -/
theorem registerWrites : Obligations.RegisterWrites := by
  unfold Obligations.RegisterWrites
  intro s v hready
  have hwrite {f : State → State} : s.hostWrite f = { f s with out := (f s).out ++ [.regWrote false] } := by
    rw [State.hostWrite, hready]
    rfl
  refine ⟨fun a hreg halias => exec_registerWrite_unassigned v hready halias hreg, fun a ha => ?_, fun hv => ?_, ?_, ?_, ?_, ?_,
    fun n hlen => ?_, fun n => ?_, fun n => ?_, ?_, ?_, ?_, ?_, ?_, ?_, ?_, ?_, ?_⟩
  · obtain ⟨haddr, halias⟩ := wordAddr_readOnly a ha
    rw [exec_registerWrite haddr v halias (regValue_readOnly ha s), hwrite, regEffect_readOnly ha]
  · rw [exec_registerWrite (a := 0x5000) rfl v rfl rfl, hwrite]
    have heffect : regEffect 0x5000 v.toNat s = { s with osura := { s.osura with sharePend := some (v.toNat % 4) } } :=
      if_neg hv
    rw [heffect]
  · rw [exec_registerWrite (a := 0x5008) rfl v rfl rfl, hwrite]
    have heffect : regEffect 0x5008 v.toNat s = { s with osura := { s.osura with
        scrubPace := bitsOf v.toNat 0 12, ceRetire := bitsOf v.toNat 16 8 } } := rfl
    rw [heffect, bitsOf_eq, bitsOf_eq, Nat.pow_zero, Nat.div_one]
  · rw [exec_registerWrite (a := 0x5020) rfl v rfl rfl, hwrite]
    rfl
  · rw [exec_registerWrite (a := 0x6040) rfl v rfl rfl, hwrite, show regEffect 0x6040 v.toNat s = trapCtl v.toNat s from rfl]
    simp only [trapCtl, bitOf_toNat, bitsOf_eq, Nat.pow_zero, Nat.div_one]
    rfl
  · rw [exec_registerWrite (a := 0x7000) rfl v rfl rfl, hwrite]
    rfl
  · obtain ⟨haddr, halias⟩ := wordAddr_group n
    rw [exec_registerWrite haddr v halias (regValue_group hlen n), hwrite, regEffect_group]
  · obtain ⟨haddr, halias⟩ := wordAddr_doorbell n
    rw [exec_registerWrite haddr v halias (regValue_doorbell n s), funext (regEffect_doorbell n v.toNat)]
    rfl
  · obtain ⟨haddr, halias⟩ := wordAddr_ringConfig n
    rw [exec_registerWrite haddr v halias (regValue_ringConfig n s), funext (regEffect_ringConfig n v.toNat)]
    rfl
  · exact exec_registerWrite (a := 0x106C) rfl v rfl rfl
  · exact exec_registerWrite (a := 0x0018) rfl v rfl rfl
  · exact exec_registerWrite (a := 0x0010) rfl 1#32 rfl rfl
  · exact exec_registerWrite (a := 0x0010) rfl 2#32 rfl rfl
  · exact exec_registerWrite (a := 0x5024) rfl v rfl rfl
  · exact exec_registerWrite (a := 0x6060) rfl v rfl rfl
  · exact exec_registerWrite (a := 0x9020) rfl v rfl rfl
  · exact exec_registerWrite (a := 0x302C) rfl v rfl rfl
  · exact exec_registerWrite (a := 0xA000) rfl v rfl rfl

end Sys2Proof.Machine

namespace Sys2Proof.Machine

/-! ### LIGHT while ONs of lightings that were given up are outstanding (R433, R478) -/

/-- LIGHT of sector 63. -/
def lightLast : Desc := ⟨5, [1, 0, 0, 2 ^ 31, 0, 0, 0, 0, 0, 0, 0, 0, 0, 0, 0, 0].flatMap (toBytes 4)⟩

/-- A ready block with LIGHT of the Dark sector 63 next on the Control ring, no sector lighting, and four ONs of physical
sectors outstanding whose lighting has been given up: they count as sectors between their ON and their zero-fill. -/
def lightingsGivenUp : State := { State.reset with
  rst := { Rst.reset with ready := true, phase := 3, bistDone := true }
  kp := { Keeper.reset with ctlTaken := [lightLast] }
  pwr := { State.reset.pwr with reqs := [(34, 1), (35, 1), (36, 1), (37, 1)] } }

theorem lightingsGivenUp_ctlNext : lightingsGivenUp.CtlNext lightLast [] 1 := by
  exact ⟨rfl, by decide, by decide, by decide⟩

/-- LIGHT waits for one of the four places. -/
theorem lightingsGivenUp_waits : lightingsGivenUp.lightCount = 4 ∧ ∃ t, exec .light lightingsGivenUp = .next t ∧
    (t.secCtl 63).st = .dark :=
  ⟨by decide, _, rfl, by decide⟩

/-- Refutes O49: fewer than four sectors are lighting, but with the outstanding ONs of lightings that have been given
up (R478) the four places of R433 are taken, and LIGHT leaves its sector Dark for now. -/
theorem not_controlSectors : ¬ Obligations.ControlSectors := by
  unfold Obligations.ControlSectors
  intro h
  obtain ⟨hlight, -, -, -⟩ := h lightingsGivenUp lightLast [] 63 66 State.reset_inv (by decide) (by decide) (by decide)
  obtain ⟨t, ht, hlighting, -⟩ := hlight lightingsGivenUp_ctlNext (by decide) (by decide) (by decide) (by decide)
  obtain ⟨-, u, hu, hdark⟩ := lightingsGivenUp_waits
  injection ht.symm.trans hu with htu
  rw [htu] at hlighting
  exact absurd (hlighting.symm.trans hdark) (by decide)

end Sys2Proof.Machine

namespace Sys2Proof.Machine

/-! ### One Lantern of the state -/

theorem State.lan_modLn_self {s : State} {n : Nat} (hn : n < s.ln.length) (f : Lantern → Lantern) :
    (s.modLn n f).lan n = f (s.lan n) :=
  (s.lan_modLn n n f).trans (if_pos ⟨rfl, hn⟩)

theorem State.lan_modLn_ne (s : State) {n m : Nat} (h : m ≠ n) (f : Lantern → Lantern) : (s.modLn n f).lan m = s.lan m :=
  (s.lan_modLn n m f).trans (if_neg fun e => h e.1)

theorem State.length_modLn (s : State) (n : Nat) (f : Lantern → Lantern) : (s.modLn n f).ln.length = s.ln.length :=
  modifyAt_length ..

theorem State.modLn_modLn (s : State) (n : Nat) (f g : Lantern → Lantern) :
    (s.modLn n f).modLn n g = s.modLn n (fun l => g (f l)) := by
  unfold State.modLn modifyAt
  dsimp only
  rw [List.modify_modify_eq]
  rfl

/-- Of a change at a Lantern only what it makes of that Lantern matters. -/
theorem State.modLn_congr {s : State} {n : Nat} {f g : Lantern → Lantern} (h : f (s.lan n) = g (s.lan n)) :
    s.modLn n f = s.modLn n g := by
  have hln : modifyAt s.ln n f = modifyAt s.ln n g := by
    unfold modifyAt
    refine List.ext_getElem? fun i => ?_
    rw [List.getElem?_modify, List.getElem?_modify]
    split
    next hi =>
      rw [← hi]
      cases hl : s.ln[n]? with
      | none => rfl
      | some l =>
        have hlan : s.lan n = l := by rw [State.lan, List.getD_eq_getElem?_getD, hl]; rfl
        rw [← hlan]
        exact congrArg some h
    next => rfl
  rw [State.modLn, State.modLn, hln]

theorem State.modLn_self {s : State} {n : Nat} {f : Lantern → Lantern} (h : f (s.lan n) = s.lan n) : s.modLn n f = s := by
  have hid : s.modLn n (fun l => l) = s := by
    rw [State.modLn, modifyAt, show (fun l : Lantern => l) = id from rfl, List.modify_id]
  exact (State.modLn_congr (g := fun l => l) h).trans hid

/-- A Lantern that does not exist reads as a fresh one. -/
theorem State.lan_eq (s : State) (n : Nat) : s.lan n ∈ s.ln ∨ s.lan n = .fresh := by
  rw [State.lan, List.getD_eq_getElem?_getD]
  cases hl : s.ln[n]? with
  | none => exact .inr rfl
  | some l => exact .inl (List.mem_of_getElem? hl)

/-! ### A Lantern with nothing to do -/

theorem Lantern.fresh_atRest : Lantern.fresh.AtRest := by decide

theorem State.lan_atRest {s : State} (h : ∀ l ∈ s.ln, l.AtRest) (n : Nat) : (s.lan n).AtRest := by
  obtain hmem | hfresh := s.lan_eq n
  · exact h _ hmem
  · rw [hfresh]
    exact Lantern.fresh_atRest

/-- An epilogue that has no job and can take none stays as it is. -/
theorem lnPump_idle {s : State} {n : Nat} (hepi : (s.lan n).epi = none) (hwait : (s.lan n).relayWait = false)
    (hosmx : (s.lan n).osmxReady = none) (hbeat : (s.lan n).writes ≠ [] ∨ (s.lan n).buf = []) : lnPump n s = s := by
  have htake : takeBeat n s = none := by
    unfold takeBeat
    dsimp only
    split
    next hwrites hbuf => simp [hwrites, hbuf] at hbeat
    next => rfl
  have hgo : lnPumpGo 4096 n s = s := by
    rw [lnPumpGo]
    simp [hepi, osmxStart, hosmx, htake]
  have hstalled : s.relayStalled n = false := by
    rw [State.relayStalled]
    simp only [hepi]
  rw [lnPump, hgo, hwait, hstalled]
  rfl

theorem lnPump_atRest {s : State} {n : Nat} (h : (s.lan n).AtRest) : lnPump n s = s := by
  obtain ⟨hbuf, hepi, hwait, hosmx⟩ := h
  exact lnPump_idle hepi hwait hosmx (.inr hbuf)

theorem lnPumpAll_atRest {s : State} (h : ∀ n, (s.lan n).AtRest) : lnPumpAll s = s :=
  List.foldlRecOn (motive := fun t => t = s) _ _ rfl (fun t ht n _ => by rw [ht]; exact lnPump_atRest (h n))

/-! ### Reads of a Lantern (R45, R297) -/

/-- The runs of lines that ranges of Osura fall into, as address and length. -/
def lineRuns (ranges : List (Nat × Nat)) : List (Nat × Nat) :=
  ranges.flatMap (fun r => (splitRun 1024 (r.2 / 1024 + 2) r.1 r.2 0).map (fun y => (y.1, y.2.1)))

/-- From `s` to `t` Lantern `n` has asked for the runs, and `f` notes the requests. -/
def State.LnAsked (s : State) (n : Nat) (runs : List (Nat × Nat)) (f : LnFetch) (t : State) : Prop :=
  ∃ (rs : List AsyncReq) (k : Nat), f.data = [] ∧ f.out.map (·.2) = rs.map (·.addr) ∧
    (∀ r ∈ rs, r.agent = .lantern ∧ r.wr = none ∧ r.checked = false) ∧ rs.map (fun r => (r.addr, r.len)) = runs ∧
    t = { s.modLn n (fun l => { l with nreq := k }) with osura := { s.osura with q := s.osura.q ++ rs } }

theorem State.LnAsked.nil (s : State) (n : Nat) : s.LnAsked n [] .blank s := by
  refine ⟨[], (s.lan n).nreq, rfl, rfl, by simp, rfl, ?_⟩
  rw [State.modLn_self rfl, List.append_nil]

/-- One more run is asked for. -/
theorem State.LnAsked.snoc {s t : State} {n : Nat} {runs : List (Nat × Nat)} {f : LnFetch} (h : s.LnAsked n runs f t)
    (req k a len : Nat) : s.LnAsked n (runs ++ [(a, len)]) { f with out := f.out ++ [(req, a)] }
      ((t.modLn n (fun l => { l with nreq := k })).askOsura .lantern (.lantern n req) a len none) := by
  obtain ⟨rs, k', hdata, hout, hreads, hruns, rfl⟩ := h
  refine ⟨rs ++ [⟨.lantern, .lantern n req, a, len, none, 1, s.clk.cyc, false, 0, false, 0, false⟩], k, hdata, ?_, ?_, ?_, ?_⟩
  · simp [hout]
  · intro r hr
    obtain hr | hr := List.mem_append.1 hr
    · exact hreads r hr
    · rw [List.mem_singleton.1 hr]
      exact ⟨rfl, rfl, rfl⟩
  · simp [hruns]
  · have hmod := s.modLn_modLn n (fun l => { l with nreq := k' }) (fun l => { l with nreq := k })
    rw [← List.append_assoc]
    exact congrArg (fun u : State => { s with
      ln := u.ln
      osura := { s.osura with q := s.osura.q ++ rs ++
        [(⟨.lantern, .lantern n req, a, len, none, 1, s.clk.cyc, false, 0, false, 0, false⟩ : AsyncReq)] } }) hmod

theorem State.lnAsk_asked (s : State) (n : Nat) (ranges : List (Nat × Nat)) :
    s.LnAsked n (lineRuns ranges) (s.lnAsk n false ranges).1 (s.lnAsk n false ranges).2 := by
  have hruns : lineRuns ranges =
      (ranges.flatMap (fun r => splitRun 1024 (r.2 / 1024 + 2) r.1 r.2 0)).map (fun y => (y.1, y.2.1)) := by
    rw [lineRuns, List.map_flatMap]
  rw [hruns, State.lnAsk]
  generalize ranges.flatMap (fun r => splitRun 1024 (r.2 / 1024 + 2) r.1 r.2 0) = runs
  induction runs using List.reverseRecOn with
  | nil => exact .nil s n
  | append_singleton runs y ih =>
    rw [List.foldl_concat, List.map_append]
    exact ih.snoc _ _ _ _

theorem State.lnAsk_nil (s : State) (n : Nat) (checked : Bool) : s.lnAsk n checked [] = (.blank, s) := rfl

theorem splitRun_ne_nil {unit fuel a len off : Nat} (hlen : len ≠ 0) : splitRun unit (fuel + 1) a len off ≠ [] := by
  rw [splitRun, if_neg hlen]
  exact List.cons_ne_nil _ _

/-- Ranges that are not empty ask for something. -/
theorem lineRuns_ne_nil {ranges : List (Nat × Nat)} (hne : ranges ≠ []) (hlen : ∀ r ∈ ranges, r.2 ≠ 0) :
    lineRuns ranges ≠ [] := by
  obtain ⟨r, rest, rfl⟩ := List.exists_cons_of_ne_nil hne
  have hhead := splitRun_ne_nil (unit := 1024) (fuel := r.2 / 1024 + 1) (a := r.1) (off := 0) (hlen r (List.mem_cons_self ..))
  simp [lineRuns, hhead]

theorem State.LnAsked.out_ne_nil {s t : State} {n : Nat} {runs : List (Nat × Nat)} {f : LnFetch}
    (h : s.LnAsked n runs f t) (hruns : runs ≠ []) : f.out ≠ [] := by
  obtain ⟨rs, -, -, hout, -, hrs, -⟩ := h
  rintro hnil
  rw [hnil] at hout
  have hrsnil : rs = [] := List.map_eq_nil_iff.1 hout.symm
  exact hruns (by rw [← hrs, hrsnil]; rfl)

end Sys2Proof.Machine

namespace Sys2Proof.Machine

/-! ### Operand requests (R268) -/

/-- What an operand beat of a product is computed from, with the reads of a fetch. -/
def Lantern.proCtx (l : Lantern) (p : LnProd) (path : Nat) (f : LnFetch) : ProCtx :=
  ⟨p.chain, p.blk, path, f.num, fun r c =>
    l.relayElem ((p.chain.relaySrc path).getD 0) (if path = 0 then p.relA else p.relB) r c⟩

/-- A Lantern whose flags have been raised in control cycle `now` (R197, R198). -/
def Lantern.raised (now : Nat) (fl : FlagSet) (l : Lantern) : Lantern :=
  if fl = flagNone then l
  else { l with flags := raise l.flags fl, raisedAt := now, raisedNow := raisedIn l.raisedAt now l.raisedNow fl }

theorem State.raiseLn_eq (s : State) (n : Nat) (fl : FlagSet) :
    s.raiseLn n fl = s.modLn n (Lantern.raised (s.clk.ckr / 8) fl) := by
  by_cases hfl : fl = flagNone
  · rw [State.raiseLn, if_pos hfl]
    exact (State.modLn_self (f := Lantern.raised _ fl) (if_pos hfl)).symm
  · rw [State.raiseLn, if_neg hfl]
    exact State.modLn_congr (if_neg hfl).symm

section
variable {s : State} {n h : Nat} {rest : List Nat} {p : LnProd} (hreqs : (s.lan n).reqs = h :: rest)
  (hprod : (s.lan n).prod (bitsOf h 25 7) = some p) (hstuck : (s.lan n).stuck = false)
include hreqs hprod hstuck

/-- The first request asks for the indices of its path. -/
theorem lnAnswerGo_index (fuel : Nat) (hpro : (s.lan n).pro = none)
    (hhere : (s.lan n).relayHere p (bitsOf h 24 1) (bitsOf h 0 12) (bitsOf h 12 12) = true) {f : LnFetch} {t : State}
    (hask : s.lnAsk n false (((s.lan n).proCtx p (bitsOf h 24 1) .blank).indexReads (bitsOf h 0 12)) = (f, t)) :
    lnAnswerGo (fuel + 1) n s = lnAnswerGo fuel n (t.modLn n (fun l => { l with pro := some (false, f) })) := by
  rw [Lantern.proCtx] at hask
  rw [lnAnswerGo]
  simp [hreqs, hprod, hstuck, hpro, hhere, hask]

/-- With the indices here, it asks for what its beat reads. -/
theorem lnAnswerGo_rows (fuel : Nat) {f g : LnFetch} {t : State} (hpro : (s.lan n).pro = some (false, f))
    (hout : f.out = []) (hask : s.lnAsk n false
      (((s.lan n).proCtx p (bitsOf h 24 1) f).beatReads (bitsOf h 0 12) (bitsOf h 12 12)) = (g, t)) :
    lnAnswerGo (fuel + 1) n s =
      lnAnswerGo fuel n (t.modLn n (fun l => { l with pro := some (true, { g with data := f.data }) })) := by
  rw [Lantern.proCtx] at hask
  rw [lnAnswerGo]
  simp [hreqs, hprod, hstuck, hpro, hout, hask]

/-- It waits while reads are outstanding. -/
theorem lnAnswerGo_waits (fuel : Nat) {rows : Bool} {f : LnFetch} (hpro : (s.lan n).pro = some (rows, f))
    (hout : f.out ≠ []) : lnAnswerGo (fuel + 1) n s = s := by
  rw [lnAnswerGo]
  simp [hreqs, hprod, hstuck, hpro, hout]

/-- With its reads here, the beat goes out, here of a path that no port relays. -/
theorem lnAnswerGo_beat (fuel : Nat) {f : LnFetch} (hpro : (s.lan n).pro = some (true, f)) (hout : f.out = [])
    (hsrc : p.chain.relaySrc (bitsOf h 24 1) = none) {bytes : List Byte} {fl : FlagSet}
    (hbeat : operandBeat ((s.lan n).proCtx p (bitsOf h 24 1) f) (bitsOf h 0 12) (bitsOf h 12 12) = (bytes, fl)) :
    lnAnswerGo (fuel + 1) n s = lnAnswerGo fuel n (lnSources n p.cid
      { s.modLn n (fun l => { l.raised (s.clk.ckr / 8) fl with reqs := rest, pro := none }) with
        out := s.out ++ [.operand n h bytes] }) := by
  have hdrop : ∀ l : Lantern, l.dropAsked p (bitsOf h 24 1) (bitsOf h 0 12) = l := by
    intro l
    simp [Lantern.dropAsked, hsrc]
  have hraise := s.raiseLn_eq n fl
  have hmod := s.modLn_modLn n (Lantern.raised (s.clk.ckr / 8) fl) (fun l => { l with reqs := rest, pro := none })
  rw [Lantern.proCtx] at hbeat
  rw [lnAnswerGo]
  simp [hreqs, hprod, hstuck, hpro, hout, hbeat, hdrop, hraise, hmod]

end

theorem lnAnswerGo_nil {s : State} {n : Nat} (hreqs : (s.lan n).reqs = []) (fuel : Nat) : lnAnswerGo fuel n s = s := by
  cases fuel with
  | zero => rfl
  | succ fuel =>
    rw [lnAnswerGo]
    simp [hreqs]

/-! An OPERAND_REQUEST inside its product. -/

section
variable {s : State} {n : Fin 4} {h : Word} {p : LnProd} {path i k : Nat} (hn : n.val < s.ln.length)
  (hready : s.rst.ready = true) (hstuck : (s.lan n).stuck = false) (hpath : bitsOf h.toNat 24 1 = path)
  (hi : bitsOf h.toNat 0 12 = i) (hk : bitsOf h.toNat 12 12 = k)

include hready hstuck hpath hi hk in
/-- A request inside its product, of a path that no port relays, enters the queue of requests. -/
theorem exec_operandRequest (hprod : (s.lan n).prod (bitsOf h.toNat 25 7) = some p)
    (hroom : (s.lan n).reqs.length < 32) (hsrc : p.chain.relaySrc path = none)
    (hrow : i < ceilDiv (if path = 0 then p.blk.m else p.blk.n) 32) (hchunk : k < p.chunksOf path) :
    exec (.operandRequest n h) s =
      .next (lnAnswer n (s.modLn n (fun l => { l with reqs := l.reqs ++ [h.toNat], quiet := 0 }))) := by
  simp only [Lantern.stuck, Bool.or_eq_false_iff] at hstuck
  obtain ⟨⟨⟨⟨⟨-, -⟩, habort⟩, hack⟩, hfenced⟩, hpresent⟩ := hstuck
  show execOperandRequest n h s = _
  simp [execOperandRequest, hpath, hi, hk, hready, habort, hack, hfenced, hpresent, hprod, hsrc, Nat.not_le.2 hroom,
    Nat.not_le.2 hrow, Nat.not_le.2 hchunk]

include hn hready hstuck hpath hi hk in
/-- Of a path without GATHER, with no earlier request waiting, the reads of its beat are asked for. -/
theorem exec_operandRequest_asks (hprod : (s.lan n).prod (bitsOf h.toNat 25 7) = some p)
    (hreqs : (s.lan n).reqs = []) (hpro : (s.lan n).pro = none) (hsrc : p.chain.relaySrc path = none)
    (hrow : i < ceilDiv (if path = 0 then p.blk.m else p.blk.n) 32) (hchunk : k < p.chunksOf path)
    {x : ProCtx} (hx : (s.lan n).proCtx p path .blank = x) (hindex : x.indexReads i = []) (hbeat : x.beatReads i k ≠ [])
    (hlen : ∀ r ∈ x.beatReads i k, r.2 ≠ 0) :
    ∃ (f : LnFetch) (rs : List AsyncReq) (m : Nat), f.data = [] ∧ f.out.map (·.2) = rs.map (·.addr) ∧
      (∀ r ∈ rs, r.agent = .lantern ∧ r.wr = none ∧ r.checked = false) ∧
      rs.map (fun r => (r.addr, r.len)) = lineRuns (x.beatReads i k) ∧
      exec (.operandRequest n h) s = .next { s.modLn n (fun l => { l with
        reqs := [h.toNat], pro := some (true, f), nreq := m, quiet := 0 }) with
          osura := { s.osura with q := s.osura.q ++ rs } } := by
  rw [exec_operandRequest hready hstuck hpath hi hk hprod (by rw [hreqs]; decide) hsrc hrow hchunk, lnAnswer,
    State.modLn_congr (g := fun l => { l with reqs := [h.toNat], quiet := 0 }) (by rw [hreqs]; rfl)]
  obtain ⟨u, hu⟩ : ∃ u, u = s.modLn n (fun l => { l with reqs := [h.toNat], quiet := 0 }) := ⟨_, rfl⟩
  obtain ⟨v, hv⟩ : ∃ v, v = s.modLn n (fun l => { l with reqs := [h.toNat], pro := some (false, .blank), quiet := 0 }) :=
    ⟨_, rfl⟩
  have hulan : u.lan n = { s.lan n with reqs := [h.toNat], quiet := 0 } := by
    rw [hu, State.lan_modLn_self hn]
  have hvlan : v.lan n = { s.lan n with reqs := [h.toNat], pro := some (false, .blank), quiet := 0 } := by
    rw [hv, State.lan_modLn_self hn]
  have huv : u.modLn n (fun l => { l with pro := some (false, .blank) }) = v := by
    rw [hu, hv, State.modLn_modLn]
  have huctx : (u.lan n).proCtx p path .blank = x := by rw [← hx, hulan]; rfl
  have hvctx : (v.lan n).proCtx p path .blank = x := by rw [← hx, hvlan]; rfl
  have hhere : (u.lan n).relayHere p path i k = true := by rw [Lantern.relayHere, hsrc]
  obtain ⟨⟨g, w⟩, hgw⟩ : ∃ gw, gw = v.lnAsk n false (x.beatReads i k) := ⟨_, rfl⟩
  have hasked := v.lnAsk_asked n (x.beatReads i k)
  rw [← hgw] at hasked
  have hgout : g.out ≠ [] := hasked.out_ne_nil (lineRuns_ne_nil hbeat hlen)
  obtain ⟨rs, m, hdata, hout, hreads, hruns, hw⟩ := hasked
  obtain ⟨z, hz⟩ : ∃ z : State, z = { s.modLn n (fun l => { l with
    reqs := [h.toNat], pro := some (true, g), nreq := m, quiet := 0 }) with
      osura := { s.osura with q := s.osura.q ++ rs } } := ⟨_, rfl⟩
  have hwz : w.modLn n (fun l => { l with pro := some (true, g) }) = z := by
    have hmod : ((s.modLn n (fun l => { l with reqs := [h.toNat], pro := some (false, .blank), quiet := 0 })).modLn n
        (fun l => { l with nreq := m })).modLn n (fun l => { l with pro := some (true, g) }) =
          s.modLn n (fun l => { l with reqs := [h.toNat], pro := some (true, g), nreq := m, quiet := 0 }) := by
      rw [State.modLn_modLn, State.modLn_modLn]
    rw [hz, ← hmod, show w = _ from hw, hv]
    rfl
  have hzlan : z.lan n = { s.lan n with reqs := [h.toNat], pro := some (true, g), nreq := m, quiet := 0 } := by
    rw [hz]
    exact State.lan_modLn_self hn _
  refine ⟨g, rs, m, hdata, hout, hreads, hruns, ?_⟩
  rw [← hu, lnAnswerGo_index (by rw [hulan]) (by rw [hulan]; exact hprod) (by rw [hulan]; exact hstuck) 98
      (by rw [hulan]; exact hpro) (by rw [hpath, hi, hk]; exact hhere)
      (by rw [hpath, hi, huctx, hindex, State.lnAsk_nil]), huv,
    lnAnswerGo_rows (by rw [hvlan]) (by rw [hvlan]; exact hprod) (by rw [hvlan]; exact hstuck) 97 (by rw [hvlan]) rfl
      (by rw [hpath, hi, hk, hvctx, hgw])]
  have hblank : { g with data := LnFetch.blank.data } = g := by rw [LnFetch.blank, ← hdata]
  rw [hblank, hwz, lnAnswerGo_waits (by rw [hzlan]) (by rw [hzlan]; exact hprod) (by rw [hzlan]; exact hstuck) 96
    (by rw [hzlan]) hgout, hz]

end

/-! The read of an operand beat that is served. -/

/-- Of a product whose sources are over already, nothing more is released (R279). -/
theorem lnSources_released {s : State} {n cid : Nat} (h : ∀ p, (s.lan n).prod cid = some p → p.released = true) :
    lnSources n cid s = s := by
  unfold lnSources
  split
  next p hp => simp [h p hp]
  next => rfl

theorem Lantern.prod_cid {l : Lantern} {cid : Nat} {p : LnProd} (h : l.prod cid = some p) : p.cid = cid := by
  rw [Lantern.prod] at h
  simpa using List.find?_some h

/-- With no LOAD at its tables, none takes effect (R275). -/
theorem loadDone_self {s : State} {n : Nat} (h : (s.lan n).tab = none) : loadDone n s = s := by
  unfold loadDone
  dsimp only
  split
  next htab => simp [h] at htab
  next => rfl

theorem Lantern.raised_prods (l : Lantern) (now : Nat) (fl : FlagSet) : (l.raised now fl).prods = l.prods := by
  unfold Lantern.raised
  split <;> rfl

/-- Flags and requests have no part in an epilogue's rest. -/
theorem Lantern.AtRest.raised {l : Lantern} (h : l.AtRest) (now : Nat) (fl : FlagSet) :
    Lantern.AtRest { l.raised now fl with reqs := [], pro := none } := by
  unfold Lantern.raised
  split <;> exact h

/-- What a served read changes of its Lantern, where only the prologue has asked. -/
def Lantern.operandRead (l : Lantern) (f : LnFetch) : Lantern := { l with pro := some (true, f) }

/-- A Lantern one of whose accesses has been served. -/
def Lantern.served (req : Nat) (bs : List Byte) (l : Lantern) : Lantern :=
  { l with
    writes := l.writes.filter (fun w => w.1 != req)
    epi := l.epi.map (fun j => { j with fetch := j.fetch.map (·.take req bs) })
    pro := l.pro.map (fun x => (x.1, x.2.take req bs))
    tab := l.tab.map (·.take req bs)
    prods := l.prods.map (fun p => { p with parkReqs := p.parkReqs.filter (fun r => r.1 != req) }) }

theorem lnServed_eq (n req : Nat) (bs : List Byte) (s : State) :
    lnServed n req bs s = lnPumpAll (lnAnswer n (loadDone n (s.modLn n (Lantern.served req bs)))) := rfl

theorem Lantern.served_eq {l : Lantern} {req a : Nat} {f : LnFetch} {bs : List Byte} (hwrites : l.writes = [])
    (hepi : l.epi = none) (hpro : l.pro = some (true, f)) (htab : l.tab = none) (hpark : ∀ q ∈ l.prods, q.parkReqs = [])
    (hout : f.out = [(req, a)]) : l.served req bs = l.operandRead ⟨[], f.data ++ [(a, bs)]⟩ := by
  have hprods : l.prods.map (fun p => { p with parkReqs := p.parkReqs.filter (fun r => r.1 != req) }) = l.prods := by
    refine (List.map_congr_left fun q hq => ?_).trans (List.map_id _)
    show { q with parkReqs := _ } = q
    rw [hpark q hq, List.filter_nil, ← hpark q hq]
  rw [Lantern.served, hprods, hepi, htab, hpro, hwrites]
  simp [Lantern.operandRead, LnFetch.take, hout, hepi, htab, hwrites]

section
variable {s : State} {n : Fin 4} {p : LnProd} {h path i k req a : Nat} {f : LnFetch} {bs : List Byte}
  (hn : n.val < s.ln.length) (hstuck : (s.lan n).stuck = false) (hrest : ∀ l ∈ s.ln, l.AtRest)
  (hpath : bitsOf h 24 1 = path) (hi : bitsOf h 0 12 = i) (hk : bitsOf h 12 12 = k)
  (hprod : (s.lan n).prod (bitsOf h 25 7) = some p) (hreqs : (s.lan n).reqs = [h])
  (hpro : (s.lan n).pro = some (true, f)) (hout : f.out = [(req, a)]) (hsrc : p.chain.relaySrc path = none)
  (hreleased : p.released = true)
include hn hstuck hrest hpath hi hk hprod hreqs hpro hout hsrc hreleased

/-- With the last read of an operand beat here, the beat goes out, and the Lantern rests. -/
theorem lnServed_operand (htab : (s.lan n).tab = none) (hwrites : (s.lan n).writes = [])
    (hpark : ∀ q ∈ (s.lan n).prods, q.parkReqs = []) {bytes : List Byte} {fl : FlagSet}
    (hbeat : operandBeat ((s.lan n).proCtx p path ⟨[], f.data ++ [(a, bs)]⟩) i k = (bytes, fl)) :
    lnServed n req bs s = { s.modLn n (fun l => { l.raised (s.clk.ckr / 8) fl with reqs := [], pro := none }) with
      out := s.out ++ [.operand n h bytes] } := by
  obtain ⟨g, hg⟩ : ∃ g : LnFetch, g = ⟨[], f.data ++ [(a, bs)]⟩ := ⟨_, rfl⟩
  have hepi : (s.lan n).epi = none := (State.lan_atRest hrest n).2.1
  obtain ⟨u, hu⟩ : ∃ u, u = s.modLn n (·.operandRead g) := ⟨_, rfl⟩
  have hulan : u.lan n = (s.lan n).operandRead g := by rw [hu, State.lan_modLn_self hn]
  obtain ⟨v, hv⟩ : ∃ v : State, v = { s.modLn n (fun l => { l.raised (s.clk.ckr / 8) fl with reqs := [], pro := none }) with
    out := s.out ++ [.operand n h bytes] } := ⟨_, rfl⟩
  have hvlan : v.lan n = { (s.lan n).raised (s.clk.ckr / 8) fl with reqs := [], pro := none } := by
    rw [hv]
    exact State.lan_modLn_self hn _
  have hvprod : (v.lan n).prod p.cid = some p := by
    rw [hvlan, Lantern.prod, Lantern.raised_prods, Lantern.prod_cid hprod]
    exact hprod
  have hload : loadDone n u = u := loadDone_self (by rw [hulan]; exact htab)
  have hanswer : lnAnswer n u = v := by
    have hsent : { u.modLn n (fun l => { l.raised (u.clk.ckr / 8) fl with reqs := [], pro := none }) with
        out := u.out ++ [.operand n h bytes] } = v := by
      have hmod : u.modLn n (fun l => { l.raised (s.clk.ckr / 8) fl with reqs := [], pro := none }) =
          s.modLn n (fun l => { l.raised (s.clk.ckr / 8) fl with reqs := [], pro := none }) := by
        rw [hu, State.modLn_modLn]
        refine State.modLn_congr ?_
        unfold Lantern.raised Lantern.operandRead
        split <;> rfl
      rw [hv, ← hmod, hu]
      rfl
    rw [lnAnswer, lnAnswerGo_beat (bytes := bytes) (fl := fl) (by rw [hulan]; exact hreqs) (by rw [hulan]; exact hprod)
        (by rw [hulan]; exact hstuck) 98 (by rw [hulan]; rfl) (by rw [hg]) (by rw [hpath]; exact hsrc)
        (by rw [hulan, hpath, hi, hk, hg]; exact hbeat), hsent,
      lnSources_released fun q hq => by rw [Option.some.inj (hq.symm.trans hvprod)]; exact hreleased,
      lnAnswerGo_nil (by rw [hvlan])]
  have hpump : lnPumpAll v = v := by
    refine lnPumpAll_atRest fun m => ?_
    by_cases hm : m = n
    · rw [hm, hvlan]
      exact (State.lan_atRest hrest n).raised _ _
    · have hother : v.lan m = s.lan m := by
        rw [hv]
        exact s.lan_modLn_ne hm _
      rw [hother]
      exact State.lan_atRest hrest m
  have hserved : s.modLn n (Lantern.served req bs) = u := by
    rw [hu]
    exact State.modLn_congr (by rw [Lantern.served_eq hwrites hepi hpro htab hpark hout, hg])
  rw [lnServed_eq, hserved, hload, hanswer, hpump, hv]

end

end Sys2Proof.Machine

namespace Sys2Proof.Machine

/-! ### Products of a Lantern -/

/-- Changes the products with a CID. -/
def Lantern.modProd (cid : Nat) (f : LnProd → LnProd) (l : Lantern) : Lantern :=
  { l with prods := l.prods.map (fun p => if p.cid = cid then f p else p) }

theorem State.modProd_eq (s : State) (n cid : Nat) (f : LnProd → LnProd) :
    s.modProd n cid f = s.modLn n (Lantern.modProd cid f) := rfl

theorem Lantern.prod_modProd {l : Lantern} {cid : Nat} {f : LnProd → LnProd} (hf : ∀ p, (f p).cid = p.cid) {p : LnProd}
    (h : l.prod cid = some p) : (l.modProd cid f).prod cid = some (f p) := by
  have hpred : ((fun q : LnProd => q.cid == cid) ∘ fun q => if q.cid = cid then f q else q) = fun q => q.cid == cid := by
    funext q
    by_cases hq : q.cid = cid <;> simp [hq, hf]
  rw [Lantern.prod] at h ⊢
  rw [Lantern.modProd, List.find?_map, hpred, h, Option.map_some, if_pos (Lantern.prod_cid h)]

/-- Which row tiles OSMX may work on does not depend on what has come of a product or been released. -/
theorem Lantern.osmxReady_modProd {l : Lantern} {cid : Nat} {f : LnProd → LnProd} (hosmx : ∀ p, (f p).osmx = p.osmx)
    (howns : ∀ p, (f p).owns = p.owns) (hblk : ∀ p, (f p).blk = p.blk) (h : l.osmxReady = none) :
    (l.modProd cid f).osmxReady = none := by
  rw [Lantern.osmxReady, List.findSome?_eq_none_iff] at h ⊢
  intro q hq
  obtain ⟨p, hp, rfl⟩ := List.mem_map.1 hq
  have hp := h p hp
  rw [List.findSome?_eq_none_iff] at hp ⊢
  by_cases hcid : p.cid = cid
  · simpa [hcid, hosmx, howns, hblk] using hp
  · simpa [hcid] using hp

/-! ### Releases of a product's source buoys (R76, R279) -/

theorem blockReleases_frame (b : LnBlock) (s : State) : blockReleases b s = { s with
    cnt := (blockReleases b s).cnt, buoys := (blockReleases b s).buoys
    str := { s.str with cmds := (blockReleases b s).str.cmds } } := by
  unfold blockReleases
  cases b.arel <;> cases b.brel <;> simp only [if_true, Bool.false_eq_true, if_false]
  · rw [State.release_frame]
  · rw [State.release_frame]
  · rw [State.release_frame, State.release_frame]

theorem blockReleases_none {b : LnBlock} (ha : b.arel = false) (hb : b.brel = false) (s : State) :
    blockReleases b s = s := by
  simp [blockReleases, ha, hb]

/-- A release on a Ready buoy with more than one consumer to come lowers C (R76, R80). -/
theorem State.release_ready {s : State} {n : Nat} (hcommanded : s.commanded n = false) (hst : (s.buoy n).st = .ready)
    (hconsume : (s.buoy n).consume ≠ 0) (hc : 1 < (s.buoy n).c) (hwf : swf Buoy.idle s.buoys.b = true) (source m : Nat) :
    (s.release n source).buoy m = if m = n then { s.buoy m with c := (s.buoy m).c - 1 } else s.buoy m := by
  have hreleased : (s.buoy n).released = { s.buoy n with c := (s.buoy n).c - 1 } := by
    have hleft : (s.buoy n).c - 1 ≠ 0 := by omega
    simp [Buoy.released, hst, hconsume, Nat.ne_of_gt (Nat.lt_of_succ_lt hc), Buoy.derive, hleft]
  have hchanged : (s.buoy n).released ≠ s.buoy n := by
    rw [hreleased]
    intro h
    have := congrArg Buoy.c h
    dsimp only at this
    omega
  have hcount : s.countAt n 0x1 source Buoy.released = s.setBuoy n (s.buoy n).released := by
    simp [State.countAt, hcommanded, hst, hchanged]
  have hbuoys : (s.release n source).buoys = (s.setBuoy n (s.buoy n).released).buoys := by
    rw [State.release, State.alsoWithout_frame, hcount]
  have hbuoy : (s.release n source).buoy m = (s.setBuoy n (s.buoy n).released).buoy m := by
    rw [State.buoy, State.buoy, hbuoys]
  rw [hbuoy, s.buoy_setBuoy n m _ hwf, hreleased]
  split
  next h => rw [h]
  next => rfl

/-- A product's buoys are released once all its beats have come and no request of it waits (R279). -/
theorem lnSources_of_prod {s : State} {n cid : Nat} {p : LnProd} (h : (s.lan n).prod cid = some p) :
    lnSources n cid s = if !p.released && (s.lan n).sourcesOver p then
      blockReleases p.blk (s.modProd n cid (fun p => { p with released := true })) else s := by
  rw [lnSources, h]

/-! ### RESULT_BEAT (R270 to R272) -/

/-- A Lantern that takes a result beat of product `cid` in row tile `i`: a credit is spent. -/
def Lantern.takesBeat (cid i j : Nat) (beat : Nat × List Nat) (l : Lantern) : Lantern :=
  { l with
    engCredits := l.engCredits - 1, buf := l.buf ++ [beat], quiet := 0
    prods := l.prods.map (fun p => if p.cid = cid then { p with next := sset 0 p.next i (j + 1) } else p) }

section
variable {s : State} {n : Fin 4} {h : Word} {vs : List Word} {p : LnProd} {i j : Nat}

theorem exec_resultBeat (hlen : vs.length = 1024) (hready : s.rst.ready = true) (hstuck : (s.lan n).stuck = false)
    (hcredit : 0 < (s.lan n).engCredits) (hi : bitsOf h.toNat 0 12 = i) (hj : bitsOf h.toNat 12 12 = j)
    (hprod : (s.lan n).prod (bitsOf h.toNat 25 7) = some p) (hosmx : p.chain.count 0x19 ≠ 1) (hrow : i < p.blk.rowTiles)
    (hnext : j = sget 0 p.next i) (hcol : j < p.blk.colTiles) (hlast : bitOf h.toNat 24 = (j + 1 == p.blk.colTiles)) :
    exec (.resultBeat n (some h) h vs) s = .next (lnPump n (lnSources n p.cid
      (s.modLn n (Lantern.takesBeat p.cid i j (h.toNat, vs.map BitVec.toNat))))) := by
  simp only [Lantern.stuck, Bool.or_eq_false_iff] at hstuck
  obtain ⟨⟨⟨⟨⟨-, -⟩, habort⟩, hack⟩, hfenced⟩, hpresent⟩ := hstuck
  have hmod := s.modLn_modLn n
    (fun l => { l with engCredits := l.engCredits - 1, buf := l.buf ++ [(h.toNat, vs.map BitVec.toNat)], quiet := 0 })
    (Lantern.modProd p.cid (fun q => { q with next := sset 0 q.next i (j + 1) }))
  show execResultBeat n (some h) h vs s = _
  simp [execResultBeat, hlen, habort, hack, hfenced, hpresent, hready, hi, hj, Nat.ne_of_gt hcredit, hprod, hrow, hnext.symm,
    hcol, hlast, hosmx, State.modProd_eq, hmod]
  rfl

end

end Sys2Proof.Machine

namespace Sys2Proof.Machine

/-! ### What a result beat leaves (R270 to R272, R279) -/

section
variable {s : State} {n : Nat} {p : LnProd} {i j : Nat} {beat : Nat × List Nat} (hn : n < s.ln.length)
  (hprod : (s.lan n).prod p.cid = some p) (hwrites : (s.lan n).writes ≠ []) (hepi : (s.lan n).epi = none)
  (hwait : (s.lan n).relayWait = false) (hosmx : (s.lan n).osmxReady = none)
include hn hprod hwrites hepi hwait hosmx

/-- The state after a result beat that the epilogue does not take yet: the beat is in the buffer, and where it is the
product's last one and no request waits, the source buoys have been released. -/
theorem resultBeat_spec : ∃ (t : State) (q : LnProd),
    lnPump n (lnSources n p.cid (s.modLn n (Lantern.takesBeat p.cid i j beat))) = t ∧
    (t.lan n).engCredits = (s.lan n).engCredits - 1 ∧ (t.lan n).buf = (s.lan n).buf ++ [beat] ∧
    (t.lan n).prod p.cid = some q ∧ q = { p with next := sset 0 p.next i (j + 1), released := q.released } ∧
    (∀ m, m ≠ n → t.lan m = s.lan m) ∧
    t = { s with ln := t.ln, buoys := t.buoys, cnt := t.cnt, str := { s.str with cmds := t.str.cmds } } ∧
    ((t.buoys = s.buoys ∧ t.cnt = s.cnt ∧ (p.released = true ∨
        (q.next.map (·.2)).foldl (· + ·) 0 ≠ p.blk.rowTiles * p.blk.colTiles ∨ (s.lan n).reqs ≠ [])) ∨
      (p.released = false ∧ (q.next.map (·.2)).foldl (· + ·) 0 = p.blk.rowTiles * p.blk.colTiles ∧
        ∃ v : State, v = { s with ln := v.ln } ∧ t.buoys = (blockReleases p.blk v).buoys ∧
          t.cnt = (blockReleases p.blk v).cnt)) := by
  obtain ⟨u, hu⟩ : ∃ u, u = s.modLn n (Lantern.takesBeat p.cid i j beat) := ⟨_, rfl⟩
  have hulan : u.lan n = (s.lan n).takesBeat p.cid i j beat := by rw [hu, State.lan_modLn_self hn]
  have hother : ∀ m, m ≠ n → u.lan m = s.lan m := fun m hm => by rw [hu, State.lan_modLn_ne _ hm]
  have huframe : u = { s with ln := u.ln } := by rw [hu]; rfl
  have huprod : (u.lan n).prod p.cid = some { p with next := sset 0 p.next i (j + 1) } := by
    rw [hulan]
    exact Lantern.prod_modProd (l := s.lan n) (f := fun p => { p with next := sset 0 p.next i (j + 1) }) (fun _ => rfl) hprod
  have huosmx : (u.lan n).osmxReady = none := by
    rw [hulan]
    exact Lantern.osmxReady_modProd (l := s.lan n) (f := fun p => { p with next := sset 0 p.next i (j + 1) })
      (fun _ => rfl) (fun _ => rfl) (fun _ => rfl) hosmx
  rw [← hu, lnSources_of_prod huprod]
  dsimp only
  split
  next hover =>
    obtain ⟨hreleased, hsum⟩ : p.released = false ∧
        ((sset 0 p.next i (j + 1)).map (·.2)).foldl (· + ·) 0 = p.blk.rowTiles * p.blk.colTiles := by
      simp only [Bool.and_eq_true, Bool.not_eq_true', Lantern.sourcesOver, beq_iff_eq] at hover
      exact ⟨hover.1, hover.2.1⟩
    obtain ⟨v, hv⟩ : ∃ v, v = u.modProd n p.cid (fun p => { p with released := true }) := ⟨_, rfl⟩
    obtain ⟨w, hw⟩ : ∃ w, w = blockReleases p.blk v := ⟨_, rfl⟩
    have hvlan : v.lan n = (u.lan n).modProd p.cid (fun p => { p with released := true }) := by
      rw [hv]
      exact State.lan_modLn_self (by rw [hu, State.length_modLn]; exact hn) _
    have hvframe : v = { s with ln := v.ln } := by
      rw [hv, huframe]
      rfl
    have hwframe : w = { v with cnt := w.cnt, buoys := w.buoys, str := { v.str with cmds := w.str.cmds } } := by
      rw [hw]
      exact blockReleases_frame _ _
    have hwlan : ∀ m, w.lan m = v.lan m := fun m => by rw [hwframe]; rfl
    have hwprod := Lantern.prod_modProd (f := fun p => { p with released := true }) (fun _ => rfl) huprod
    have hwosmx : (w.lan n).osmxReady = none := by
      rw [hwlan, hvlan]
      exact Lantern.osmxReady_modProd (fun _ => rfl) (fun _ => rfl) (fun _ => rfl) huosmx
    rw [← hv, ← hw, lnPump_idle (by rw [hwlan, hvlan, hulan]; exact hepi) (by rw [hwlan, hvlan, hulan]; exact hwait) hwosmx
      (.inl (by rw [hwlan, hvlan, hulan]; exact hwrites))]
    refine ⟨w, { p with next := sset 0 p.next i (j + 1), released := true }, rfl, ?_, ?_, ?_, rfl,
      fun m hm => ?_, ?_, .inr ⟨hreleased, hsum, v, hvframe, ?_, ?_⟩⟩
    · rw [hwlan, hvlan, hulan]; rfl
    · rw [hwlan, hvlan, hulan]; rfl
    · rw [hwlan, hvlan]; exact hwprod
    · rw [hwlan, hv, State.modProd_eq, State.lan_modLn_ne _ hm, hother m hm]
    · rw [hwframe, hvframe]
    · rw [hw]
    · rw [hw]
  next hover =>
    rw [lnPump_idle (by rw [hulan]; exact hepi) (by rw [hulan]; exact hwait) huosmx (.inl (by rw [hulan]; exact hwrites))]
    refine ⟨u, _, rfl, ?_, ?_, huprod, rfl, hother, ?_, .inl ⟨?_, ?_, ?_⟩⟩
    · rw [hulan]; rfl
    · rw [hulan]; rfl
    · rw [huframe]
    · rw [huframe]
    · rw [huframe]
    · by_contra hnot
      simp only [not_or, Bool.not_eq_true, ne_eq, not_not] at hnot
      obtain ⟨hreleased, hsum, hreqs⟩ := hnot
      have hureqs : (u.lan n).reqs = [] := by rw [hulan]; exact hreqs
      exact hover (by simp [hreleased, Lantern.sourcesOver, hsum, hureqs])

end

/-! ### Violations of a fusion port (R272, R450) -/

/-- A violation is noted as the Lantern's cause and detected as a fault of the port. -/
theorem lnViolation_spec {s : State} {n : Nat} (hn : n < s.ln.length) (reason : Nat) : ∃ u : State,
    u.lan n = { s.lan n with cause := 4 } ∧ (∀ m, m ≠ n → u.lan m = s.lan m) ∧ u = { s with ln := u.ln } ∧
    u.Detected (lnViolation n reason s) 0x07 reason n 0xFF 0 := by
  refine ⟨s.modLn n (fun l => { l with cause := 4 }), State.lan_modLn_self hn _, fun m hm => s.lan_modLn_ne hm _, rfl, ?_⟩
  exact State.detect_detected _ _ _ _ _ _

/-- A request outside every product is a violation. -/
theorem exec_operandRequest_outside {s : State} {n : Fin 4} {h : Word} (hready : s.rst.ready = true)
    (hstuck : (s.lan n).stuck = false) (hprod : (s.lan n).prod (bitsOf h.toNat 25 7) = none)
    (hroom : (s.lan n).reqs.length < 32) : exec (.operandRequest n h) s = .next (lnViolation n 4 s) := by
  simp only [Lantern.stuck, Bool.or_eq_false_iff] at hstuck
  obtain ⟨⟨⟨⟨⟨-, -⟩, habort⟩, hack⟩, hfenced⟩, hpresent⟩ := hstuck
  show execOperandRequest n h s = _
  simp [execOperandRequest, hready, habort, hack, hfenced, hpresent, hprod, Nat.not_le.2 hroom]

/-- A result beat with unlike headers or half 1 alone, or without a credit, is a violation. -/
theorem exec_resultBeat_violates {s : State} {n : Fin 4} {h0 : Option Word} {h1 : Word} {vs : List Word}
    (hready : s.rst.ready = true) (hstuck : (s.lan n).stuck = false) (hlen : h0.isSome = true → vs.length = 1024)
    (hbad : h0 ≠ some h1 ∨ (s.lan n).engCredits = 0) :
    exec (.resultBeat n h0 h1 vs) s = .next (lnViolation n 4 s) := by
  simp only [Lantern.stuck, Bool.or_eq_false_iff] at hstuck
  obtain ⟨⟨⟨⟨⟨-, -⟩, habort⟩, hack⟩, hfenced⟩, hpresent⟩ := hstuck
  have hwf : (h0.isSome && vs.length != 1024) = false := by
    cases h0 with
    | none => rfl
    | some h => simp [hlen rfl]
  have hviolates : (h0 != some h1 || (s.lan n).engCredits = 0) = true := by simpa using hbad
  show execResultBeat n h0 h1 vs s = _
  simp only [execResultBeat, hwf, hready, habort, hack, hfenced, hpresent, hviolates, Bool.not_true, Bool.or_false,
    Bool.false_eq_true, if_false, if_true]

end Sys2Proof.Machine

namespace Sys2Proof.Machine

/-! ### Tail passes (R293) -/

theorem Fmt.width_pos (f : Fmt) : 0 < f.width := by
  cases f <;> decide

/-- A beat in the park area is not empty. -/
theorem LnProd.parkPlace_pos (p : LnProd) (w : BeatWork) : (p.parkPlace w).2.1 ≠ 0 := by
  have hwidth := (p.chain.carried (p.chain.epi.findIdx (·.code == 0x1C))).width_pos
  show 1024 * (p.chain.carried (p.chain.epi.findIdx (·.code == 0x1C))).width / 8 ≠ 0
  omega

section
variable {s : State} {n : Nat} {p : LnProd} {j : EpiJob} {w : BeatWork} {rest : List BeatWork}
  (hprod : (s.lan n).prod j.cid = some p) (hwork : j.work = w :: rest) (hparked : w.parked = true)
include hprod hwork hparked

/-- A parked beat is asked for once the Lantern's writes are over. -/
theorem epiStep_asks (hfetch : j.fetch = none) (hwrites : (s.lan n).writes = []) {f : LnFetch} {t : State}
    (hask : s.lnAsk n false [((p.parkPlace w).1, (p.parkPlace w).2.1)] = (f, t)) :
    epiStep n j s = some (t.modLn n (fun l => { l with epi := some { j with fetch := some f } })) := by
  rw [epiStep]
  simp [hprod, hwork, hparked, hfetch, hwrites, hask]

/-- A parked beat waits for its reads. -/
theorem epiStep_waits {f : LnFetch} (hfetch : j.fetch = some f) (hout : f.out ≠ []) : epiStep n j s = none := by
  rw [epiStep]
  simp [hprod, hwork, hparked, hfetch, hout]

/-- Nor does it wait for a relay buffer. -/
theorem State.relayStalled_parked (hepi : (s.lan n).epi = some j) : s.relayStalled n = false := by
  rw [State.relayStalled]
  simp [hepi, hprod, hwork, hparked]

end

/-- An epilogue that takes one step and then waits. -/
theorem lnPump_step {s t : State} {n : Nat} {j j' : EpiJob} (hstuck : (s.lan n).stuck = false)
    (hepi : (s.lan n).epi = some j) (hstep : epiStep n j s = some t) (hepi' : (t.lan n).epi = some j')
    (hwaits : epiStep n j' t = none) (hrelay : (t.lan n).relayWait = t.relayStalled n) : lnPump n s = t := by
  have hgo : lnPumpGo 4096 n s = t := by
    rw [lnPumpGo]
    simp only [hstuck, hepi, hstep, Bool.false_eq_true, if_false]
    rw [lnPumpGo]
    simp [hepi', hwaits]
  rw [lnPump, hgo, hrelay]
  simp

section
variable {s : State} {n : Fin 4} {p : LnProd} {w : BeatWork} {i : Nat} {rest : List (Nat × Nat)}
  (hn : n.val < s.ln.length) (hstuck : (s.lan n).stuck = false) (hprods : (s.lan n).prods = [p])
  (hlast : (s.lan n).lastOrder = (p.cid, i) :: rest)
  (hw : w = ⟨p.chain.epi.findIdx (·.code == 0x1C) + 1, i, 0, [], none, true⟩)
include hn hstuck hprods hlast hw

/-- The tail pass of a row tile reads its first beat back from the park area. -/
theorem exec_tailPassStart (hpark : ∀ r ∈ p.parkReqs, r.2 ≠ i) (hpend : ∀ b ∈ p.pend, b.1 ≠ i)
    (hepi : (s.lan n).epi = none) (hwrites : (s.lan n).writes = []) (hwait : (s.lan n).relayWait = false)
    (hcols : 0 < p.blk.colTiles) :
    ∃ (f : LnFetch) (rs : List AsyncReq) (m : Nat), f.data = [] ∧ f.out.map (·.2) = rs.map (·.addr) ∧
      (∀ r ∈ rs, r.agent = .lantern ∧ r.wr = none ∧ r.checked = false) ∧
      rs.map (fun r => (r.addr, r.len)) = lineRuns [((p.parkPlace w).1, (p.parkPlace w).2.1)] ∧
      exec (.tailPassStart n) s = .next { s.modLn n (fun l => { l with
        lastOrder := rest, nreq := m
        epi := some ⟨p.cid, some i, (upTo p.blk.colTiles).map (fun j => { w with colt := j }), some f⟩ }) with
          osura := { s.osura with q := s.osura.q ++ rs } } := by
  obtain ⟨j, hj⟩ : ∃ j : EpiJob, j = ⟨p.cid, some i, (upTo p.blk.colTiles).map (fun j => { w with colt := j }), none⟩ :=
    ⟨_, rfl⟩
  obtain ⟨v, hv⟩ : ∃ v, v = s.modLn n (fun l => { l with lastOrder := rest, epi := some j }) := ⟨_, rfl⟩
  have hvlan : v.lan n = { s.lan n with lastOrder := rest, epi := some j } := by rw [hv, State.lan_modLn_self hn]
  have hnext : (s.lan n).tailNext = some (p, i, rest) := by
    have hfound : (s.lan n).prod p.cid = some p := by simp [Lantern.prod, hprods]
    have hfree : (p.parkReqs.all (fun r => r.2 != i) && p.pend.all (fun b => b.1 != i)) = true := by
      rw [Bool.and_eq_true, List.all_eq_true, List.all_eq_true]
      exact ⟨fun r hr => bne_iff_ne.2 (hpark r hr), fun b hb => bne_iff_ne.2 (hpend b hb)⟩
    rw [Lantern.tailNext, hlast]
    simp only [hfound, hfree, if_true]
  have hexec : exec (.tailPassStart n) s = .next (lnPump n v) := by
    show execTailPassStart n s = _
    simp only [execTailPassStart, hnext, hstuck, hepi, Option.isSome_none, Bool.or_self, Bool.false_eq_true, if_false]
    rw [hv, hj, hw]
  obtain ⟨ws, hwork⟩ : ∃ ws, j.work = w :: ws := by
    obtain ⟨k, hk⟩ := Nat.exists_eq_succ_of_ne_zero (Nat.ne_of_gt hcols)
    rw [hj, hk]
    exact ⟨_, by simp only [upTo, List.range_succ_eq_map, List.map_cons]; rw [hw]⟩
  obtain ⟨⟨f, t⟩, hft⟩ : ∃ ft, ft = v.lnAsk n false [((p.parkPlace w).1, (p.parkPlace w).2.1)] := ⟨_, rfl⟩
  have hasked := v.lnAsk_asked n [((p.parkPlace w).1, (p.parkPlace w).2.1)]
  rw [← hft] at hasked
  have hout : f.out ≠ [] := hasked.out_ne_nil (lineRuns_ne_nil (by simp) (by simp [p.parkPlace_pos w]))
  obtain ⟨rs, m, hdata, houts, hreads, hruns, ht⟩ := hasked
  obtain ⟨z, hz⟩ : ∃ z : State, z = { s.modLn n (fun l => { l with
    lastOrder := rest, nreq := m, epi := some { j with fetch := some f } }) with
      osura := { s.osura with q := s.osura.q ++ rs } } := ⟨_, rfl⟩
  have hzlan : z.lan n = { s.lan n with lastOrder := rest, nreq := m, epi := some { j with fetch := some f } } := by
    rw [hz]
    exact State.lan_modLn_self hn _
  have htz : t.modLn n (fun l => { l with epi := some { j with fetch := some f } }) = z := by
    have hmod : ((s.modLn n (fun l => { l with lastOrder := rest, epi := some j })).modLn n
        (fun l => { l with nreq := m })).modLn n (fun l => { l with epi := some { j with fetch := some f } }) =
          s.modLn n (fun l => { l with lastOrder := rest, nreq := m, epi := some { j with fetch := some f } }) := by
      rw [State.modLn_modLn, State.modLn_modLn]
    rw [hz, ← hmod, show t = _ from ht, hv]
    rfl
  have hprod : ∀ l : Lantern, l.prods = [p] → l.prod j.cid = some p := by
    intro l hl
    rw [Lantern.prod, hl, hj]
    simp
  have hparked : w.parked = true := by rw [hw]
  refine ⟨f, rs, m, hdata, houts, hreads, hruns, ?_⟩
  rw [hexec, lnPump_step (j := j) (j' := { j with fetch := some f }) (by rw [hvlan]; exact hstuck) (by rw [hvlan])
    ((epiStep_asks (hprod _ (by rw [hvlan]; exact hprods)) hwork hparked (by rw [hj]) (by rw [hvlan]; exact hwrites)
      hft.symm).trans (congrArg some htz)) (by rw [hzlan])
    (epiStep_waits (hprod _ (by rw [hzlan]; exact hprods)) hwork hparked rfl hout) ?_, hz, hj]
  rw [State.relayStalled_parked (j := { j with fetch := some f }) (hprod _ (by rw [hzlan]; exact hprods)) hwork hparked
    (by rw [hzlan]), hzlan]
  exact hwait

end

theorem exec_tailPassStart_none {s : State} {n : Fin 4} (h : (s.lan n).lastOrder = []) :
    exec (.tailPassStart n) s = .next s := by
  have hnext : (s.lan n).tailNext = none := by rw [Lantern.tailNext, h]
  show execTailPassStart n s = _
  simp [execTailPassStart, hnext]

/-! ### The relay watchdog (R295, R298) -/

/-- A Lantern that E_STALL has suspended. -/
def Lantern.stalledAt (prog : Bool) (l : Lantern) : Lantern :=
  { l with waited := 0, relayed := 0, quiet := 0, cause := 2, suspended := true, named := l.named || prog }

section
variable {s : State} {n : Fin 4} {lim : Nat} (hlimit : s.stallLimit = some lim)
include hlimit

theorem exec_relayStallTimeout_idle (h : (s.lan n).relayed ≤ lim) : exec (.relayStallTimeout n) s = .next s := by
  show execRelayStallTimeout n s = _
  rw [execRelayStallTimeout, hlimit]
  dsimp only
  split
  next => simp [Nat.not_lt.2 h]
  next => rfl

theorem exec_relayStallTimeout {j : EpiJob} {p : LnProd} (hstuck : (s.lan n).stuck = false)
    (hstalled : s.relayStalled n = true) (hlim : lim < (s.lan n).relayed) (hepi : (s.lan n).epi = some j)
    (hprod : (s.lan n).prod j.cid = some p) : exec (.relayStallTimeout n) s = .next (lnStallProd n p 0 s) := by
  show execRelayStallTimeout n s = _
  simp [execRelayStallTimeout, hlimit, hepi, hprod, hstalled, hstuck, hlim]

end

/-- A stall suspends the Lantern; an access of its own that waits on a buoy is tried again on the resume. -/
theorem lnStallProd_eq (n : Nat) (p : LnProd) (buoy : Nat) (s : State) : ∃ u : State,
    u = { s.modLn n (Lantern.stalledAt p.ctl.isNone) with osura := { s.osura with q := u.osura.q } } ∧
      lnStallProd n p buoy s = if p.ctl.isSome then u.chainEv n p.slot false 2 p.blk.evtdata
        else u.askStop 0x05 (some 8) buoy :=
  ⟨_, rfl, rfl⟩

theorem State.lnStallProd_lan (s : State) (n : Nat) (p : LnProd) (buoy m : Nat) :
    (lnStallProd n p buoy s).lan m = (s.modLn n (Lantern.stalledAt p.ctl.isNone)).lan m := by
  obtain ⟨u, hu, hstall⟩ := lnStallProd_eq n p buoy s
  have hulan : u.lan m = (s.modLn n (Lantern.stalledAt p.ctl.isNone)).lan m := by rw [hu]; rfl
  rw [hstall, ← hulan]
  split
  · rw [State.chainEv, State.pushOrDrop_frame]
    rfl
  · unfold State.askStop
    split <;> rfl

/-- A CHAIN record that has room is queued (R381, R384). -/
theorem State.chainEv_evRoom {s : State} (hroom : s.evRoom = true) (n slot : Nat) (failed : Bool) (cause evtdata : Nat) :
    s.chainEv n slot failed cause evtdata = { s with
      evq := s.evq ++ [s.record 0x06 (n + 4 * slot + 256 * bit failed + 512 * cause) evtdata 0 0] } := by
  rw [State.chainEv, State.pushOrDrop, if_pos hroom]
  rfl

/-- What a stop that is asked for makes of the one that waits: an error comes before a pause. -/
def StopAt.stallOf (old : Option StopAt) : Option StopAt :=
  match old with
  | some a => if a.cause = 2 then some ⟨5, some 8, 0, 0, 0, 0⟩ else some a
  | none => some ⟨5, some 8, 0, 0, 0, 0⟩

theorem State.askStop_stall (s : State) : s.askStop 0x05 (some 8) 0 = { s with str := { s.str with
    stopWait := if s.wrun = true ∧ s.streamStopped = false then StopAt.stallOf s.str.stopWait else s.str.stopWait } } := by
  rw [State.askStop]
  by_cases h : s.wrun = true ∧ s.streamStopped = false
  · rw [if_pos h, if_neg (by simp [h.1, h.2])]
    rfl
  · rw [if_neg h, if_pos (by simpa [or_iff_not_imp_left] using h)]

/-- A read of a Lantern alone in the queue of an open sector is served: its bytes reach the Lantern (R45, R297). -/
theorem exec_osuraAsyncServe_lantern {s : State} {r : AsyncReq} {n req : Nat} (hready : s.rst.ready = true)
    (hrunning : s.clk.stopped = false) (howned : asyncOwns s.osura.share s.clk.cyc = true) (hsec : secOf r.addr < 64)
    (hserved : (s.secCtl (secOf r.addr)).served ≤ s.clk.cyc) (hq : s.osura.q = [r]) (hwho : r.who = .lantern n req)
    (hagent : r.agent = .lantern) (hwr : r.wr = none) (hchecked : r.checked = false) (hpasses : r.passes = 1)
    (hstalled : r.stalled = false) (hopen : s.secOpen (secOf r.addr) = true) (hwindow : s.str.window = [])
    (hstall : s.str.bankStall = 0) (hbanks : s.streamBanks = []) :
    ∃ u : State, exec (.osuraAsyncServe (Fin.ofNat 64 (secOf r.addr))) s =
      .next (arrivalsPump (lnServed n req (s.readOsura false r.addr r.len).1 u)) ∧
        State.ReadsOnly { s with osura := { s.osura with q := [] } } u := by
  have hval : (Fin.ofNat 64 (secOf r.addr)).val = secOf r.addr := Nat.mod_eq_of_lt hsec
  obtain ⟨x, hexec⟩ := exec_osuraAsyncServe_alone (s := s) (sec := Fin.ofNat 64 (secOf r.addr)) (r := r)
    ⟨hready, hrunning, howned, by rw [hval]; exact hserved, hq, hval.symm, hwindow⟩ (by simp [State.cowBlocked, hwr])
    (by simp [State.buoyBlocked, hwr, hchecked]) (by rw [hval]; exact hopen) (by rw [hagent]; decide) hbanks hstall hstalled
  obtain ⟨g, hg⟩ : ∃ g, g = (s.granting (Fin.ofNat 64 (secOf r.addr)).val x).takeReq r := ⟨_, rfl⟩
  have hserve : serveReq (s.granting (Fin.ofNat 64 (secOf r.addr)).val x) r =
      lnServed n req (g.readOsura false r.addr r.len).1 (g.readOsura false r.addr r.len).2 := by
    have hscrub : (r.agent == .scrub || r.agent == .scrubOver) = false := by rw [hagent]; decide
    have hback : (r.agent == .writeBack) = false := by rw [hagent]; decide
    rw [serveReq, if_neg (by omega), ← hg]
    simp only [hwr, hscrub, hback, ownerServed, hwho, Bool.false_eq_true, if_false]
  have hframe : g = { s with osura := { s.osura with q := [], secs := g.osura.secs } } := by
    rw [hg]
    simp [State.takeReq, State.granting, State.modSec, hq]
  have hbytes : (g.readOsura false r.addr r.len).1 = (s.readOsura false r.addr r.len).1 :=
    State.SameStore.readOsura_fst (by rw [hframe]; exact ⟨rfl, rfl, rfl⟩) false _ _
  refine ⟨(g.readOsura false r.addr r.len).2, by rw [hexec, hserve, hbytes], ?_⟩
  have hreads := g.readOsura_readsOnly false r.addr r.len
  generalize (g.readOsura false r.addr r.len).2 = u at hreads
  rw [hframe] at hreads
  rw [hreads]
  rfl

/-- Settles O54: each row's effect on its Lantern, with the epilogue at rest or waiting, and the frame it leaves. -/
theorem lanternData : Obligations.LanternData := by
  unfold Obligations.LanternData
  intro s n hn hready hstuck
  have hbits (x : Nat) : x / 2 ^ 24 % 2 = bitsOf x 24 1 ∧ x % 2 ^ 12 = bitsOf x 0 12 ∧
      x / 2 ^ 12 % 2 ^ 12 = bitsOf x 12 12 ∧ x / 2 ^ 25 % 2 ^ 7 = bitsOf x 25 7 := by
    simp [bitsOf_eq]
  refine ⟨?_, ?_, ?_, ?_, ?_, ?_, ?_, ?_, ?_⟩
  · intro p h path i k x hpath hi hk hprod hx hreqs hpro hsrc hindex hbeat hlen hrow hchunk
    obtain ⟨bpath, bi, bk, bcid⟩ := hbits h.toNat
    have hctx : (s.lan n).proCtx p path .blank = x := by rw [hx, Lantern.proCtx, hsrc]; rfl
    obtain ⟨f, rs, m, hdata, hout, hreads, hruns, hexec⟩ := exec_operandRequest_asks hn hready hstuck
      (bpath.symm.trans hpath.symm) (bi.symm.trans hi.symm) (bk.symm.trans hk.symm) (by rw [← bcid]; exact hprod) hreqs hpro
      hsrc hrow hchunk hctx hindex hbeat hlen
    obtain ⟨t, ht⟩ : ∃ t : State, t = { s.modLn n (fun l => { l with
      reqs := [h.toNat], pro := some (true, f), nreq := m, quiet := 0 }) with
        osura := { s.osura with q := s.osura.q ++ rs } } := ⟨_, rfl⟩
    have hlan : t.lan n = { s.lan n with reqs := [h.toNat], pro := some (true, f), nreq := m, quiet := 0 } := by
      rw [ht]
      exact State.lan_modLn_self hn _
    refine ⟨t, f, rs, by rw [hexec, ht], by rw [hlan], hdata, hout, by rw [ht], hreads, hruns, fun m hm => ?_, by rw [ht]; rfl⟩
    rw [ht]
    exact s.lan_modLn_ne hm _
  · intro p h path i k req r f bs hpath hi hk hprod hpark hreqs hpro hout hsrc htab hreleased hrest hwrites hstalled hbanks hq
      hwho hagent hwr hchecked hpasses hbs hrunning howned hsec hserved hopen hwindow hstall hheld
    obtain ⟨bpath, bi, bk, bcid⟩ := hbits h
    obtain ⟨u, hexec, hreads⟩ := exec_osuraAsyncServe_lantern hready hrunning howned hsec hserved hq hwho hagent
      hwr hchecked hpasses hstalled hopen hwindow hstall hbanks
    have hln : u.ln = s.ln := by
      rw [show u = _ from hreads]
    have hulan : ∀ m, u.lan m = s.lan m := fun m => by rw [State.lan, hln]; rfl
    have hctx : (u.lan n).proCtx p path ⟨[], f.data ++ [(r.addr, bs)]⟩ = ⟨p.chain, p.blk, path,
        LnFetch.num ⟨[], f.data ++ [(r.addr, bs)]⟩,
        fun r c => (s.lan n).relayElem 0 (if path = 0 then p.relA else p.relB) r c⟩ := by
      rw [hulan, Lantern.proCtx, hsrc]
      rfl
    have hserve := lnServed_operand (bs := bs) (by rw [hln]; exact hn) (by rw [hulan]; exact hstuck)
      (by rw [hln]; exact hrest) (bpath.symm.trans hpath.symm) (bi.symm.trans hi.symm) (bk.symm.trans hk.symm)
      (by rw [hulan, ← bcid]; exact hprod) (by rw [hulan]; exact hreqs) (by rw [hulan]; exact hpro) hout hsrc hreleased
      (by rw [hulan]; exact htab) (by rw [hulan]; exact hwrites) (by rw [hulan]; exact hpark) (Prod.eta _).symm
    rw [← hbs, hserve, hctx, arrivalsPump_self (by rw [show u = _ from hreads]; exact hheld)] at hexec
    have hout : u.out = s.out := by rw [show u = _ from hreads]
    have hlan (f : Lantern → Lantern) : (u.modLn n f).lan n = f (s.lan n) :=
      (State.lan_modLn_self (by rw [hln]; exact hn) f).trans (by rw [hulan])
    refine ⟨_, hexec, by rw [hout], ?_, ?_, fun m hm => (u.lan_modLn_ne hm _).trans (hulan m), ?_⟩
    · exact congrArg Lantern.reqs (hlan _)
    · exact congrArg Lantern.pro (hlan _)
    · rw [show u = _ from hreads]
      exact ⟨rfl, rfl, rfl, rfl⟩
  · intro h hprod hroom
    rw [(hbits h.toNat).2.2.2] at hprod
    obtain ⟨u, hlan, hother, hframe, hdetected⟩ := lnViolation_spec hn 4
    exact ⟨_, u, exec_operandRequest_outside hready hstuck hprod hroom, hlan, hother, hframe, hdetected⟩
  · intro p h vs i j hlen hcredit hi hj hprod hwrites hepi hwait hosmx hcount hrow hnext hcol hlast
    obtain ⟨-, bi, bj, bcid⟩ := hbits h.toNat
    rw [bcid] at hprod
    have hcid : (s.lan n).prod p.cid = some p := by rw [Lantern.prod_cid hprod]; exact hprod
    have hexec := exec_resultBeat hlen hready hstuck hcredit (bi.symm.trans hi.symm) (bj.symm.trans hj.symm) hprod hcount
      hrow hnext hcol (by rw [bitOf_toNat]; exact hlast)
    obtain ⟨t, q, ht, hcredits, hbuf, hq, hqeq, hother, hframe, hbuoys⟩ :=
      resultBeat_spec (i := i) (j := j) (beat := (h.toNat, vs.map BitVec.toNat)) hn hcid hwrites hepi hwait hosmx
    refine ⟨t, q, hexec.trans (congrArg _ ht), hcredits, hbuf, hq, hqeq, ?_, ?_, hother, hframe⟩
    · intro hnone
      obtain ⟨hsame, hcnt, -⟩ | ⟨hreleased, hsum, v, hv, htbuoys, htcnt⟩ := hbuoys
      · exact ⟨hsame, hcnt⟩
      · obtain h | ⟨harel, hbrel⟩ | h := hnone
        · exact absurd (h.symm.trans hreleased) (by decide)
        · rw [blockReleases_none harel hbrel] at htbuoys htcnt
          rw [htbuoys, htcnt, hv]
          exact ⟨rfl, rfl⟩
        · exact absurd hsum h
    · intro hreleased harel hbrel hinv hcommanded hsum hreqs hst hconsume hc m
      obtain ⟨-, -, h⟩ | ⟨-, -, v, hv, htbuoys, -⟩ := hbuoys
      · simp [hreleased, hsum, hreqs] at h
      · have hone : blockReleases p.blk v = v.release p.blk.abuoy 2 := by simp [blockReleases, harel, hbrel]
        have hbuoy : t.buoy m = (v.release p.blk.abuoy 2).buoy m := by rw [State.buoy, State.buoy, htbuoys, hone]
        have hvbuoy : ∀ k, v.buoy k = s.buoy k := fun k => by rw [hv]; rfl
        rw [hbuoy, State.release_ready (by rw [hv]; exact hcommanded) (by rw [hvbuoy]; exact hst)
          (by rw [hvbuoy]; exact hconsume) (by rw [hvbuoy]; exact hc) (by rw [hv]; exact hinv.buoys), hvbuoy]
  · intro h0 h1 vs hlen hbad
    obtain ⟨u, hlan, hother, hframe, hdetected⟩ := lnViolation_spec hn 4
    exact ⟨_, u, exec_resultBeat_violates hready hstuck hlen hbad, hlan, hother, hframe, hdetected⟩
  · intro p w i rest hprods hlast hpark hpend hepi hwrites hwait hcols hw
    obtain ⟨f, rs, m, hdata, hout, hreads, hruns, hexec⟩ := exec_tailPassStart hn hstuck hprods hlast hw hpark hpend hepi
      hwrites hwait hcols
    obtain ⟨t, ht⟩ : ∃ t : State, t = { s.modLn n (fun l => { l with
      lastOrder := rest, nreq := m
      epi := some ⟨p.cid, some i, (upTo p.blk.colTiles).map (fun j => { w with colt := j }), some f⟩ }) with
        osura := { s.osura with q := s.osura.q ++ rs } } := ⟨_, rfl⟩
    have hlan : t.lan n = { s.lan n with
        lastOrder := rest, nreq := m
        epi := some ⟨p.cid, some i, (upTo p.blk.colTiles).map (fun j => { w with colt := j }), some f⟩ } := by
      rw [ht]
      exact State.lan_modLn_self hn _
    refine ⟨t, f, rs, by rw [hexec, ht], by rw [hlan], hdata, hout, by rw [ht],
      fun r hr => ⟨(hreads r hr).1, (hreads r hr).2.1⟩, by rw [hruns, lineRuns, List.flatMap_singleton], fun m hm => ?_,
      by rw [ht]; rfl⟩
    rw [ht]
    exact s.lan_modLn_ne hm _
  · exact exec_tailPassStart_none
  · intro lim j p hlimit hstalled hlim hepi hprod
    have hexec := exec_relayStallTimeout hlimit hstuck hstalled hlim hepi hprod
    have hlan := s.lnStallProd_lan n p 0
    refine ⟨_, hexec, ?_, fun m hm => (hlan m).trans (s.lan_modLn_ne hm _), ?_, ?_⟩
    · rw [hlan, State.lan_modLn_self hn]
      rfl
    · intro hctl
      obtain ⟨u, hu, hstall⟩ := lnStallProd_eq n p 0 s
      rw [hctl, Option.isSome_none, if_neg (by decide), State.askStop_stall] at hstall
      have hstop : u.wrun = s.wrun ∧ u.streamStopped = s.streamStopped ∧ u.str = s.str := by rw [hu]; exact ⟨rfl, rfl, rfl⟩
      obtain ⟨hwrun, hstopped, hstr⟩ := hstop
      rw [hstall, hwrun, hstopped, hstr, StopAt.stallOf.eq_def, hu]
      split <;> rfl
    · intro hctl hroom
      obtain ⟨u, hu, hstall⟩ := lnStallProd_eq n p 0 s
      have huroom : u.evRoom = true := by rw [hu]; exact hroom
      rw [Option.isSome_iff_ne_none.2 hctl, if_pos rfl, State.chainEv_evRoom huroom] at hstall
      rw [hstall, hu]
      rfl
  · exact fun lim => exec_relayStallTimeout_idle

end Sys2Proof.Machine

namespace Sys2Proof.Machine

/-! ### What a core cycle that passes can change (R83, R340, R402, R507) -/

theorem bumpWide_frame (o n : Nat) (s : State) : bumpWide o n s = { s with cnt := (bumpWide o n s).cnt } := by
  unfold bumpWide
  split <;> rfl

/-- `t` is `s` but for counters and for the sectors' controllers. -/
def State.Counts (s t : State) : Prop :=
  t = { s with cnt := t.cnt, osura := { s.osura with secs := t.osura.secs } }

theorem State.Counts.refl (s : State) : s.Counts s := rfl

theorem State.Counts.trans {s t u : State} (h : s.Counts t) (g : t.Counts u) : s.Counts u := by
  unfold State.Counts at *
  rw [g, h]

theorem State.Counts.ite {s t u : State} {c : Bool} (ht : s.Counts t) (hu : s.Counts u) :
    s.Counts (if c then t else u) := by
  split
  · exact ht
  · exact hu

theorem bump_counts (o : Nat) (s : State) : s.Counts (bump o s) := by
  unfold State.Counts
  rw [bump_frame]

theorem State.holdCloses_counts (s : State) : s.Counts s.holdCloses :=
  .ite (.refl s) (List.foldlRecOn _ _ (.refl s) (fun t ht _ _ => ht.trans (.ite rfl (.refl t))))

theorem State.countCycle_counts (s : State) : s.Counts s.countCycle := by
  have hwide : s.Counts (bumpWide 0x0108 1 s) := by
    unfold State.Counts
    rw [bumpWide_frame]
  unfold State.countCycle
  extract_lets u v
  have hu : s.Counts u := hwide.ite (.refl s)
  have hv : s.Counts v := by
    refine hu.trans ?_
    show u.Counts (if u.clk.divNow = 0 then u else bump 0x0224 u)
    split
    · exact .refl u
    · exact bump_counts _ u
  clear_value v
  refine State.Counts.ite hv (List.foldlRecOn _ _ hv (fun t ht n _ => ht.trans ?_))
  dsimp only
  refine .ite (.trans ?_ (bump_counts _ _)) ?_ <;> exact .ite (bump_counts _ t) (.refl t)

/-- `t` is `s` but for what a core cycle counts, ages and lets go. -/
def State.Passes (s t : State) : Prop :=
  t = { s with
    cnt := t.cnt, mem := { s.mem with bucket := t.mem.bucket, held := t.mem.held }
    ring := { s.ring with ports := t.ring.ports, epochRun := t.ring.epochRun }
    flt := { s.flt with lastFog := t.flt.lastFog }, osura := { s.osura with q := t.osura.q, secs := t.osura.secs }
    td := { s.td with ch := t.td.ch }, ln := t.ln }

theorem State.Passes.trans {s t u : State} (h : s.Passes t) (g : t.Passes u) : s.Passes u := by
  unfold State.Passes at *
  rw [g, h]

theorem State.Counts.passes {s t : State} (h : s.Counts t) : s.Passes t := by
  unfold State.Passes
  rw [h]

theorem State.countWaits_passes (s : State) : s.Passes s.countWaits := by
  unfold State.Passes State.countWaits
  dsimp only
  rw [bumpBy_frame]

theorem State.countTicks_passes (s : State) (dt df : Nat) : s.Passes (s.countTicks dt df) := rfl

/-- One core cycle. -/
theorem State.advance_passes (s : State) : ∃ u, s.Passes u ∧ s.advance = { u with clk := s.clk.advance } := by
  refine ⟨_, ?_, rfl⟩
  have hticks := s.countTicks_passes (s.clk.advance.ticks - s.clk.ticks) (s.clk.advance.fab - s.clk.fab)
  split
  · exact hticks
  · exact ((hticks.trans (State.countWaits_passes _)).trans (State.holdCloses_counts _).passes).trans
      (State.countCycle_counts _).passes

theorem State.advance_frame (s : State) : s.advance = { s with
    clk := s.clk.advance, cnt := s.advance.cnt
    mem := { s.mem with bucket := s.advance.mem.bucket, held := s.advance.mem.held }
    ring := { s.ring with ports := s.advance.ring.ports, epochRun := s.advance.ring.epochRun }
    flt := { s.flt with lastFog := s.advance.flt.lastFog }
    osura := { s.osura with q := s.advance.osura.q, secs := s.advance.osura.secs }
    td := { s.td with ch := s.advance.td.ch }, ln := s.advance.ln } := by
  obtain ⟨u, hu, hadvance⟩ := s.advance_passes
  rw [hadvance, show u = _ from hu]

/-! ### Channels over a core cycle (R354) -/

theorem sget_map {α : Type} {d : α} (g : α → α) (hd : g d = d) (m : Sparse α) (k : Nat) :
    sget d (m.map (fun x => (x.1, g x.2))) k = g (sget d m k) := by
  induction m with
  | nil => exact hd.symm
  | cons x m ih =>
    obtain ⟨a, v⟩ := x
    simp only [List.map_cons, sget, ih, apply_ite g, hd]

/-- A channel over a core cycle: the count of a SEND that waits goes on (R354). -/
def Chan.counted (still : Bool) (x : Chan) : Chan :=
  let asks := if x.status = 0 then x.phase == 3 && x.reads.isEmpty else x.reads.all (fun r => r.data.isSome)
  if x.st == .busy && x.x.kind == 5 && asks && still then { x with waited := x.waited + 1 } else x

theorem Chan.counted_eq (still : Bool) (x : Chan) : x.counted still = { x with waited := (x.counted still).waited } := by
  unfold Chan.counted
  dsimp only
  generalize (x.st == .busy && x.x.kind == 5 && _ && still) = c
  cases c <;> rfl

theorem State.countWaits_ch (s : State) :
    s.countWaits.td.ch = s.td.ch.map (fun x => (x.1, x.2.counted (!s.str.frozen && !s.ring.hold))) := by
  unfold State.countWaits
  dsimp only
  rw [bumpBy_frame]
  dsimp only
  refine List.map_congr_left fun x _ => ?_
  unfold Chan.counted
  dsimp only
  rw [Bool.and_assoc _ (!s.str.frozen) (!s.ring.hold)]
  exact (apply_ite (Prod.mk x.1) _ _ _).symm

/-- A channel changes in a core cycle by its count alone. -/
theorem State.advance_chan (s : State) (k : Nat) :
    s.advance.chan k = { s.chan k with waited := (s.advance.chan k).waited } := by
  have hidle (b : Bool) : Chan.idle.counted b = Chan.idle := by cases b <;> rfl
  obtain ⟨ticked, hticked⟩ : ∃ u, u = s.countTicks (s.clk.advance.ticks - s.clk.ticks) (s.clk.advance.fab - s.clk.fab) :=
    ⟨_, rfl⟩
  have htd : ticked.td = s.td := by rw [hticked]; rfl
  have hadvance : s.advance.td.ch = s.td.ch ∨ ∃ b, s.advance.td.ch = s.td.ch.map (fun x => (x.1, x.2.counted b)) := by
    rw [State.advance, ← hticked]
    dsimp only
    split
    · exact .inl (by rw [htd])
    · have hwaits := ticked.countWaits_ch
      have hholds := ticked.countWaits.holdCloses_counts
      have hcounts := ticked.countWaits.holdCloses.countCycle_counts
      have hch : ticked.countWaits.holdCloses.countCycle.td = ticked.countWaits.td := by
        rw [show _ = _ from hcounts, show _ = _ from hholds]
      rw [htd] at hwaits
      exact .inr ⟨_, (congrArg Tender.ch hch).trans hwaits⟩
  obtain h | ⟨b, h⟩ := hadvance
  · have hchan : s.advance.chan k = s.chan k := by rw [State.chan, h]; rfl
    rw [hchan]
  · have hchan : s.advance.chan k = (s.chan k).counted b := by
      rw [State.chan, h]
      exact sget_map (Chan.counted b) (hidle b) s.td.ch k
    rw [hchan]
    exact Chan.counted_eq b _

end Sys2Proof.Machine

namespace Sys2Proof.Machine

/-! ### A Control descriptor that runs (R378, R379) -/

/-- A descriptor of number `num` is still running. -/
def State.CtlRuns (s : State) (num : Nat) : Prop := ∃ r ∈ s.kp.ctlRun, r.num = num ∧ r.done = false

theorem ctlReport_runs {s : State} {num : Nat} (h : s.CtlRuns num) (r : CtlRun) : (ctlReport s r).CtlRuns num := by
  obtain ⟨x, hx, hnum, hdone⟩ := h
  unfold ctlReport
  split
  · have hkept : ∃ y ∈ s.kp.ctlRun.map (fun (x : CtlRun) => if x.num = r.num then { x with cevt := false, err := none } else x),
        y.num = num ∧ y.done = false := by
      refine ⟨_, List.mem_map_of_mem hx, ?_⟩
      split <;> exact ⟨hnum, hdone⟩
    dsimp only
    split <;> exact hkept
  · exact ⟨x, hx, hnum, hdone⟩

theorem mem_drop_takeWhile {α : Type} {p : α → Bool} {x : α} (hp : p x = false) :
    ∀ {l : List α}, x ∈ l → x ∈ l.drop (l.takeWhile p).length
  | y :: l, hx => by
    by_cases hy : p y = true
    · have hne : x ≠ y := by
        rintro rfl
        exact absurd (hp.symm.trans hy) (by decide)
      rw [List.takeWhile_cons_of_pos hy]
      exact mem_drop_takeWhile hp ((List.mem_cons.1 hx).resolve_left hne)
    · rw [List.takeWhile_cons_of_neg hy]
      exact hx

/-- What runs on is not reported. -/
theorem ctlPump_runs {s : State} {num : Nat} (h : s.CtlRuns num) : (ctlPump s).CtlRuns num := by
  have hreports : (s.kp.ctlRun.foldl ctlReport s).CtlRuns num :=
    List.foldlRecOn (motive := fun t => State.CtlRuns t num) _ _ h (fun t ht r _ => ctlReport_runs ht r)
  obtain ⟨r, hr, hnum, hdone⟩ := hreports
  exact ⟨r, mem_drop_takeWhile (by simp [CtlRun.told, hdone]) hr, hnum, hdone⟩

/-- An action that runs on leaves its descriptor among those that run. -/
theorem State.CtlNext.startCtl_runs {s t : State} {d : Desc} {rest : List Desc} {op : Nat} {secs : List Nat}
    (h : s.CtlNext d rest op) {act : Desc → Nat → State → CtlOut}
    (ha : act d s.kp.ctlNum (enterCtl d [] 0 d.cevt false s) = .running secs t)
    (hruns : t.kp.ctlRun = (enterCtl d [] 0 d.cevt false s).kp.ctlRun) :
    ∃ runs, startCtl op act s = .next (ctlPump (t.withRuns runs)) ∧ (ctlPump (t.withRuns runs)).CtlRuns s.kp.ctlNum := by
  obtain ⟨htaken, hstart, hfields, hop⟩ := h
  refine ⟨t.kp.ctlRun.map (fun r => if r.num = s.kp.ctlNum then { r with secs := secs } else r), ?_, ctlPump_runs ?_⟩
  · simp only [startCtl, htaken, hstart, hfields, hop, ha, Bool.not_true, Bool.false_eq_true, if_false, bne_self_eq_false]
    rfl
  · rw [hruns]
    refine ⟨_, List.mem_map_of_mem (List.mem_append_right _ (List.mem_singleton_self _)), ?_⟩
    split <;> exact ⟨rfl, rfl⟩

/-! ### PAUSE, RESUME and ABORT (R375, R378, R426) -/

theorem State.CtlNext.exec_pause {s : State} {d : Desc} {rest : List Desc} (h : s.CtlNext d rest 0x0A)
    (hordered : s.ordered 6 0 = false) (hrun : s.wrun = true) (hstop : s.streamStopped = false)
    (hended : s.str.ended = false) : ∃ t, exec .pause s = .next t ∧ t.CtlRuns s.kp.ctlNum ∧ s.CtlBooks t rest ∧
      t = { s with str := { s.str with pauseReq := true }, kp := t.kp, evq := t.evq } := by
  have hact : actPause d s.kp.ctlNum (enterCtl d [] 0 d.cevt false s) = .running []
      ((enterCtl d [] 0 d.cevt false s).modStr (fun t => { t with pauseReq := true })) := by
    obtain ⟨u, hu⟩ : ∃ u, u = enterCtl d [] 0 d.cevt false s := ⟨_, rfl⟩
    have hrun' : u.wrun = true := by rw [hu]; exact hrun
    have hstop' : u.streamStopped = false := by rw [hu]; exact hstop
    have hended' : u.str.ended = false := by rw [hu]; exact hended
    have hordered' : u.ordered 6 0 = false := by rw [hu]; exact hordered
    rw [← hu]
    simp [actPause, askPause, hrun', hstop', hended', hordered']
  obtain ⟨runs, ht, hruns⟩ := h.startCtl_runs hact rfl
  have hbooks := h.ctlBooks_enterCtl.of_eq
    (u := (enterCtl d [] 0 d.cevt false s).modStr (fun t => { t with pauseReq := true })) rfl rfl
  refine ⟨_, ht, hruns, (hbooks.withRuns runs).ctlPump, ?_⟩
  rw [ctlPump_frame]
  rfl

/-- A resume with no MOV to go on with clears the stop. -/
theorem resumeStream_eq {s : State} (hmovs : s.str.movs = []) : resumeStream s = s.modStr (fun t => { t with
    stop := .blank, movRow := [(0, false), (0, false)], farFault := .blank, frozen := false, buoyWait := 0
    resuming := false }) := by
  simp [resumeStream, hmovs, State.oweSpare]

/-- What a resume makes of a Lantern. -/
def Lantern.resumed (l : Lantern) : Lantern :=
  { l with
    suspended := false, cause := if l.suspended then 0 else l.cause, waited := if l.suspended then 0 else l.waited
    relayed := if l.suspended then 0 else l.relayed, quiet := if l.suspended then 0 else l.quiet }

/-- Lanterns with no request and nothing at hand have nothing to do on a resume. -/
theorem lnResume_eq {s : State} (hrest : ∀ l ∈ s.ln, l.reqs = [] ∧ l.AtRest) : ∃ q,
    lnResume s = { s with osura := { s.osura with q := q }, ln := s.ln.map Lantern.resumed } := by
  obtain ⟨u, hu⟩ : ∃ u : State, u = { s with
    osura := { s.osura with q := s.osura.q.map (fun r => match r.who with
      | .lantern n _ => if (s.lan n).suspended then { r with waited := 0, stalled := false } else r
      | _ => r) }
    ln := s.ln.map Lantern.resumed } := ⟨_, rfl⟩
  have hurest : ∀ l ∈ u.ln, l.reqs = [] ∧ l.AtRest := by
    intro l hl
    rw [hu] at hl
    obtain ⟨l, hmem, rfl⟩ := List.mem_map.1 hl
    exact hrest l hmem
  have hureqs : ∀ n, (u.lan n).reqs = [] := by
    intro n
    obtain hmem | hfresh := u.lan_eq n
    · exact (hurest _ hmem).1
    · rw [hfresh]
      rfl
  have hanswers : (upTo 4).foldl (fun s n => lnAnswer n s) u = u :=
    List.foldlRecOn (motive := fun t => t = u) _ _ rfl (fun t ht n _ => by rw [ht]; exact lnAnswerGo_nil (hureqs n) _)
  have hpumps : lnPumpAll u = u := lnPumpAll_atRest (State.lan_atRest fun l hl => (hurest l hl).2)
  have hresume : lnResume s = lnPumpAll ((upTo 4).foldl (fun s n => lnAnswer n s) u) := by
    rw [hu]
    rfl
  exact ⟨u.osura.q, by rw [hresume, hanswers, hpumps, hu]⟩

theorem State.CtlNext.exec_resume {s : State} {d : Desc} {rest : List Desc} (h : s.CtlNext d rest 0x0B)
    (hordered : s.ordered 5 0 = false) (hrun : s.wrun = true) (hstop : s.str.stop.resumable = true)
    (hmovs : s.str.movs = []) (hrest : ∀ l ∈ s.ln, l.reqs = [] ∧ l.AtRest) :
    ∃ t, exec .resume s = .next t ∧ t.str.stop = .blank ∧ t.str.pc = s.str.pc ∧ s.CtlBooks t rest ∧ t = { s with
      str := { s.str with
        stop := .blank, movRow := t.str.movRow, farFault := .blank, frozen := false, buoyWait := 0
        resuming := false, prods := t.str.prods }
      ln := t.ln, osura := { s.osura with q := t.osura.q }, kp := t.kp, evq := t.evq } := by
  obtain ⟨e, he⟩ : ∃ e, e = enterCtl d [] 0 d.cevt false s := ⟨_, rfl⟩
  obtain ⟨q, hq⟩ := lnResume_eq (s := e.modStr (fun t => { t with
    stop := .blank, movRow := [(0, false), (0, false)], farFault := .blank, frozen := false, buoyWait := 0
    resuming := false })) (by rw [he]; exact hrest)
  have hact : actResume d s.kp.ctlNum e = .done 0 (lnResume (e.modStr (fun t => { t with
      stop := .blank, movRow := [(0, false), (0, false)], farFault := .blank, frozen := false, buoyWait := 0
      resuming := false }))) := by
    have hrun' : e.wrun = true := by rw [he]; exact hrun
    have hstop' : e.str.stop.resumable = true := by rw [he]; exact hstop
    have hordered' : e.ordered 5 0 = false := by rw [he]; exact hordered
    have hmovs' : e.str.movs = [] := by rw [he]; exact hmovs
    simp [actResume, askResume, hrun', hstop', hordered', resumeStream_eq hmovs']
  obtain ⟨v, hv⟩ : ∃ v, v = lnResume (e.modStr (fun t => { t with
    stop := .blank, movRow := [(0, false), (0, false)], farFault := .blank, frozen := false, buoyWait := 0
    resuming := false })) := ⟨_, rfl⟩
  rw [← hv, he] at hact
  rw [hq, he] at hv
  obtain ⟨runs, ht⟩ := h.startCtl_done hact
  have hbooks : s.CtlBooks v rest := by
    rw [hv]
    exact h.ctlBooks_enterCtl.of_eq rfl rfl
  refine ⟨_, ht, ?_, ?_, (hbooks.withRuns runs).ctlPump, ?_⟩
  · rw [ctlPump_frame, hv]
    rfl
  · rw [ctlPump_frame, hv]
    rfl
  · rw [ctlPump_frame, hv]
    rfl

theorem State.CtlNext.exec_abort {s : State} {d : Desc} {rest : List Desc} (h : s.CtlNext d rest 0x0C)
    (hrun : s.wrun = true) (hended : s.str.ended = false) (haborting : s.aborting = false) :
    ∃ t, exec .abort s = .next t ∧ t.str.launch = s.str.launch ∧ t.str.pc = s.str.pc ∧
      (s.str.stop.resumable = false → t.str.stop = s.str.stop) ∧
      t.str.stopWait = some (.plain 0x0C) ∧ t.str.movs = [] ∧ t.str.scalQ = [] ∧ t.str.scal = s.str.scal ∧
      t.str.window = s.str.window.filter (fun x => x.kind.isStore) ∧ t.str.due = s.str.due.filter (·.store) ∧
      t.CtlRuns s.kp.ctlNum ∧ s.CtlBooks t rest ∧
      t.lanes = s.lanes ∧ t.osura.data = s.osura.data ∧ t.buoys = s.buoys ∧ t.ln = s.ln ∧ t.td = s.td ∧
      t.ring = s.ring := by
  obtain ⟨e, he⟩ : ∃ e, e = enterCtl d [] 0 d.cevt false s := ⟨_, rfl⟩
  have hact : actAbort d s.kp.ctlNum e = .running [] (startAbort e) := by
    have hrun' : e.wrun = true := by rw [he]; exact hrun
    have haborting' : e.aborting = false := by rw [he]; exact haborting
    simp [actAbort, hrun', haborting']
  rw [he] at hact
  obtain ⟨runs, ht, hruns⟩ := h.startCtl_runs hact rfl
  rw [← he] at ht hruns
  have hstr : e.str = s.str := by rw [he]; rfl
  have hbooks : s.CtlBooks (startAbort e) rest := by
    rw [he]
    exact h.ctlBooks_enterCtl.of_eq rfl rfl
  have habort : startAbort e = { dropFar e with str := { s.str with
      stop := if s.str.stop.resumable then .blank else s.str.stop
      stopWait := some (.plain 0x0C), ended := false, fence := false, frozen := false, pauseReq := false
      resuming := false, movs := [], wb := [], scalQ := [], flagQ := [], spareDue := [], spareStall := 0, trapWait := 0
      window := s.str.window.filter (fun x => x.kind.isStore), due := s.str.due.filter (·.store), farHits := [] } } := by
    unfold startAbort State.modStr
    rw [show (dropFar e).str = s.str from hstr, hstr, hended]
    rfl
  refine ⟨_, ht, ?_, ?_, ?_, ?_, ?_, ?_, ?_, ?_, ?_, hruns, (hbooks.withRuns runs).ctlPump, ?_⟩ <;>
    rw [ctlPump_frame, habort]
  case refine_3 =>
    intro hstop
    show (if s.str.stop.resumable then _ else s.str.stop) = s.str.stop
    rw [hstop]
    rfl
  case refine_10 =>
    rw [he]
    exact ⟨rfl, rfl, rfl, rfl, rfl, rfl⟩
  all_goals rfl

/-- Without a launch PAUSE, RESUME and ABORT complete without effect (R375, R378). -/
theorem State.CtlNext.startCtl_noEffect {s : State} {d : Desc} {rest : List Desc} {op status : Nat} (h : s.CtlNext d rest op)
    {act : Desc → Nat → State → CtlOut}
    (ha : act d s.kp.ctlNum (enterCtl d [] 0 d.cevt false s) = .done status (enterCtl d [] 0 d.cevt false s)) :
    ∃ t, startCtl op act s = .next t ∧ s.CtlBooks t rest ∧ t = { s with kp := t.kp, evq := t.evq } := by
  obtain ⟨runs, ht⟩ := h.startCtl_done ha
  refine ⟨_, ht, (h.ctlBooks_enterCtl.withRuns runs).ctlPump, ?_⟩
  rw [ctlPump_frame]
  rfl

/-! ### ECLIPSE (R428) -/

theorem State.CtlNext.exec_eclipse {s : State} {d : Desc} {rest : List Desc} (h : s.CtlNext d rest 0x0E)
    (hbarred : s.eclipseBarred = false) : ∃ t, exec .eclipse s = .next t ∧
      t.rst.eclipse = some s.kp.ctlNum ∧ s.CtlBooks t rest ∧ t = { s with
        rst := { s.rst with eclipse := t.rst.eclipse, eclipseAt := (d.slot, d.user) }, kp := t.kp, evq := t.evq } := by
  have hact : actEclipse d s.kp.ctlNum (enterCtl d [] 0 d.cevt false s) = .running [] { enterCtl d [] 0 d.cevt false s with
      rst := { s.rst with eclipse := some s.kp.ctlNum, eclipseAt := (d.slot, d.user) } } := if_neg (by
    rw [show (enterCtl d [] 0 d.cevt false s).eclipseBarred = s.eclipseBarred from rfl, hbarred]
    decide)
  obtain ⟨runs, ht⟩ := h.startCtl_running hact
  have hbooks := h.ctlBooks_enterCtl.of_eq (u := { enterCtl d [] 0 d.cevt false s with
    rst := { s.rst with eclipse := some s.kp.ctlNum, eclipseAt := (d.slot, d.user) } }) rfl rfl
  refine ⟨_, ht, ?_, (hbooks.withRuns runs).ctlPump, ?_⟩ <;> rw [ctlPump_frame] <;> rfl

theorem State.CtlNext.exec_eclipse_refused {s : State} {d : Desc} {rest : List Desc} (h : s.CtlNext d rest 0x0E)
    (hbarred : s.eclipseBarred = true) : ∃ t, exec .eclipse s = .next t ∧
      (∃ e ∈ t.evq, e.typ = 0x02 ∧ e.ring = 3 ∧ e.index = d.slot ∧ e.p0 = 8 + 256 * 0x0E) ∧ s.CtlBooks t rest ∧
      t = { s with kp := t.kp, evq := t.evq } := by
  have hact : actEclipse d s.kp.ctlNum (enterCtl d [] 0 d.cevt false s) = .refused 8 (enterCtl d [] 0 d.cevt false s) :=
    if_pos hbarred
  obtain ⟨runs, ht⟩ := h.startCtl_refused hact
  refine ⟨_, ht, ⟨_, (ctlPump_evq _).subset (List.mem_append_right _ (List.mem_singleton_self _)), rfl, rfl, rfl, rfl⟩,
    ((h.ctlBooks_enterCtl.withRuns runs).descErr ..).ctlPump, ?_⟩
  rw [ctlPump_frame]
  rfl

end Sys2Proof.Machine

namespace Sys2Proof.Machine

/-! ### A core cycle of the stream with no access on its way -/

theorem serveWindows_idle {s : State} (hwindow : s.str.window = []) (hdue : s.str.due = []) : serveWindows s = s := by
  simp [serveWindows, hwindow, hdue]

theorem stallLate_idle {s : State} (hdue : s.str.due = []) : stallLate s = s := by
  simp [stallLate, hdue]

theorem farPick_nil {s : State} (h : s.str.farHits = []) : s.farPick = none := by
  simp [State.farPick, h]

/-- With nothing on its way to Osura, one core cycle of the stream is its own. -/
theorem exec_bundleIssue {s : State} (hrun : s.wrun = true) (hstop : s.streamStopped = false) (hready : s.rst.ready = true)
    (hclk : s.clk.stopped = false) (hpstate : s.rst.pstate = 0) (herrs : s.errs = []) (hwindow : s.str.window = [])
    (hdue : s.str.due = []) : exec .bundleIssue s = .next (streamCycle s) := by
  show execBundleIssue s = _
  rw [execBundleIssue, serveWindows_idle hwindow hdue, stallLate_idle hdue]
  simp [hrun, hstop, hready, hclk, hpstate, herrs]

/-! ### The end of an abort (R426) -/

theorem cbOrder_nil {s : State} (hcb : s.osura.cb = []) : s.cbOrder = [] := by simp [State.cbOrder, hcb, sget]

theorem State.flushBefore_self {s : State} (hcb : s.osura.cb = []) (hcarry : s.str.carry = []) (age : Nat) :
    s.flushBefore age = s := by
  rw [State.flushBefore, cbOrder_nil hcb]
  exact flushPump_self hcb hcarry

theorem streamCycle_aborting {s : State} (haborting : s.aborting = true) (hbank : s.str.bankStall = 0)
    (hspare : s.str.spareStall = 0) (hspares : s.str.spareDue = []) (hfar : s.str.farHits = []) (hcb : s.osura.cb = [])
    (hcarry : s.str.carry = []) : streamCycle s = abortCycle s := by
  obtain ⟨a, hwait, hcause⟩ : ∃ a, s.str.stopWait = some a ∧ a.cause = 0x0C := by
    rw [State.aborting, Option.any_eq_true] at haborting
    obtain ⟨a, ha, hcause⟩ := haborting
    exact ⟨a, ha, by simpa using hcause⟩
  have hholds : s.flushHolds = false := by simp [State.flushHolds, State.flushStuck, hcb, hcarry]
  have hpre : preCycle s = some (abortCycle s) := by
    simp [preCycle, hspares, hbank, hspare, hholds, hwait, farPick_nil hfar, waitedStop, hcause]
  rw [streamCycle, hpre]

/-- With nothing in flight, the cycle of an abort ends the launch. -/
theorem abortCycle_ends {s : State} (hwindow : s.str.window = []) (hdue : s.str.due = []) (hcb : s.osura.cb = [])
    (hcarry : s.str.carry = []) (hq : s.osura.q = []) (hroom : s.evRoom = true) :
    abortCycle s = (endAbort s).advance := by
  have hdone : s.fenceDone = true := by simp [State.fenceDone, State.unserved, hwindow, hdue, hcb, hcarry, hq]
  rw [abortCycle, State.flushBefore_self hcb hcarry]
  simp [hdone, hroom]

/-- A Lantern without work or a stop is not touched. -/
theorem lnDrop_idle {s : State} {n : Nat} (hprods : (s.lan n).prods = []) (hq : (s.lan n).q = [])
    (hback : (s.lan n).sentBack = []) (hhalted : (s.lan n).halted = false) (hsuspended : (s.lan n).suspended = false) :
    lnDrop n false s = s := by
  simp [lnDrop, hprods, hq, hback, hhalted, hsuspended]

theorem State.settlePauses_evq (s : State) : s.evq <+: s.settlePauses.evq := by
  unfold State.settlePauses
  exact ctlPump_evq { s with kp := { s.kp with ctlRun := s.kp.ctlRun.map _ } }

/-- The channels that stream abort leaves alone: those of the Transfer ring. -/
theorem dropChannels_ringed {s : State} (hring : ∀ x ∈ s.td.ch, x.2.ring.isSome = true) (hq : s.osura.q = []) :
    ∃ mem, dropChannels (fun c => c.ring.isNone) s = { s with mem := mem, td := { s.td with sentBack := [] } } := by
  have hch : s.td.ch.filter (fun x => !x.2.ring.isNone) = s.td.ch :=
    List.filter_eq_self.2 fun x hx => by simpa using hring x hx
  refine ⟨(dropChannels (fun c => c.ring.isNone) s).mem, ?_⟩
  unfold dropChannels
  dsimp only
  rw [hch, hq, List.filterMap_nil, ← hq]

/-- The launch is over: its WORK_DONE record has STATUS ABORT (R374, R426). -/
theorem endAbort_spec {s : State} (hstop : s.streamStopped = false) (hq : s.osura.q = [])
    (hring : ∀ x ∈ s.td.ch, x.2.ring.isSome = true)
    (hln : ∀ l ∈ s.ln, l.prods = [] ∧ l.q = [] ∧ l.sentBack = [] ∧ l.halted = false ∧ l.suspended = false) :
    ∃ (v : State) (e : EvRec), endAbort s = v ∧ e.typ = 0x01 ∧ e.p0 = 0x0C ∧ e.p2 = s.str.pc ∧ s.evq ++ [e] <+: v.evq ∧
      v.str.launch = none ∧ v.str.stop = .blank ∧ v.str.scal = s.str.scal ∧
      v = { s with
        mem := v.mem, td := { s.td with sentBack := [] }, ln := v.ln, evq := v.evq, str := v.str, trap := v.trap
        kp := v.kp } := by
  obtain ⟨mem, hchannels⟩ := dropChannels_ringed hring hq
  obtain ⟨d, hd⟩ : ∃ d : State, d = { s with mem := mem, td := { s.td with sentBack := [] } } := ⟨_, rfl⟩
  have hlan : ∀ n, (d.lan n).prods = [] ∧ (d.lan n).q = [] ∧ (d.lan n).sentBack = [] ∧ (d.lan n).halted = false ∧
      (d.lan n).suspended = false := by
    intro n
    obtain hmem | hfresh := d.lan_eq n
    · exact hln _ (by rwa [show d.ln = s.ln by rw [hd]] at hmem)
    · rw [hfresh]
      exact ⟨rfl, rfl, rfl, rfl, rfl⟩
  have hdrop : (upTo 4).foldl (fun s n => lnDrop n false s) d = d := by
    refine List.foldlRecOn (motive := fun t => t = d) _ _ rfl (fun t ht n _ => ?_)
    obtain ⟨hprods, hq, hback, hhalted, hsuspended⟩ := hlan n
    rw [ht]
    exact lnDrop_idle hprods hq hback hhalted hsuspended
  obtain ⟨e, he⟩ : ∃ e, e = s.launchRecord 0x01 0x0C ((s.str.launch.map (·.user)).getD 0) s.str.pc 0 := ⟨_, rfl⟩
  obtain ⟨c, hc⟩ : ∃ c, c = clearStream ((dropRelays d).push e) := ⟨_, rfl⟩
  have hend : endAbort s = c.settlePauses := by
    have hstop' : (dropRelays d).streamStopped = false := by rw [hd]; exact hstop
    have hrecord : (dropRelays d).launchRecord 0x01 0x0C (((dropRelays d).str.launch.map (·.user)).getD 0)
        (dropRelays d).str.pc 0 = e := by
      rw [he, hd]
      rfl
    rw [endAbort, hchannels, ← hd, hdrop, hstop', hrecord, hc]
    rfl
  have hcevq : c.evq = s.evq ++ [e] := by
    rw [hc, hd]
    rfl
  have hcstr : c.str.launch = none ∧ c.str.stop = .blank ∧ c.str.scal = s.str.scal := by
    rw [hc, hd]
    exact ⟨rfl, rfl, rfl⟩
  have hcframe : c = { s with
      mem := c.mem, td := { s.td with sentBack := [] }, ln := c.ln, evq := c.evq, str := c.str, trap := c.trap
      kp := c.kp } := by
    rw [hc, hd]
    rfl
  have hprefix := c.settlePauses_evq
  have hsettled := c.settlePauses_frame
  rw [← hend] at hprefix hsettled
  obtain ⟨v, hv⟩ : ∃ v, endAbort s = v := ⟨_, rfl⟩
  rw [hv] at hprefix hsettled
  have hvstr : v.str = c.str := by rw [hsettled]
  refine ⟨v, e, hv, by rw [he]; rfl, by rw [he]; rfl, by rw [he]; rfl, by rw [← hcevq]; exact hprefix, ?_, ?_, ?_, ?_⟩
  · rw [hvstr]; exact hcstr.1
  · rw [hvstr]; exact hcstr.2.1
  · rw [hvstr]; exact hcstr.2.2
  · rw [hsettled, hcframe]

/-- Settles O50: each descriptor's action on the stream, its books, and the cycle in which an abort is over. -/
theorem controlStream : Obligations.ControlStream := by
  unfold Obligations.ControlStream
  intro s d rest hinv
  refine ⟨?_, ?_, ?_, ?_, ?_, ?_, ?_⟩
  · exact fun hordered h hrun hstop hended => h.exec_pause hordered hrun hstop hended
  · exact fun hordered h hrun hstop hmovs hrest => h.exec_resume hordered hrun hstop hmovs hrest
  · exact fun h hrun _ hended haborting => h.exec_abort hrun hended haborting
  · intro haborting hrun hstop hready hclk hpstate herrs hwindow hdue hbank hspare hspares hfar hcb hcarry hq hroom hring
      hback hln
    obtain ⟨v, e, hv, htyp, hp0, hp2, hevq, hlaunch, hblank, hscal, hframe⟩ := endAbort_spec hstop hq hring hln
    have hcycle : exec .bundleIssue s = .next v.advance := by
      rw [exec_bundleIssue hrun hstop hready hclk hpstate herrs hwindow hdue,
        streamCycle_aborting haborting hbank hspare hspares hfar hcb hcarry,
        abortCycle_ends hwindow hdue hcb hcarry hq hroom, hv]
    have hchan : ∀ k, v.chan k = s.chan k := fun k => by rw [hframe]; rfl
    have hcounted := v.advance_chan
    have hadvance := v.advance_frame
    generalize v.advance = t at hcycle hcounted hadvance
    have hstr : t.str = v.str := by rw [hadvance]
    refine ⟨t, hcycle, ?_, ?_, ?_, ⟨e, ?_, htyp, hp0, hp2⟩, ?_, ?_, ?_, fun k => ?_⟩
    · rw [hstr]; exact hlaunch
    · rw [hstr]; exact hblank
    · rw [hstr]; exact hscal
    · rw [hadvance]; exact hevq
    · rw [hadvance, hframe]
    · rw [hadvance, hframe]
    · rw [hadvance, hframe]
    · rw [← hchan]
      exact hcounted k
  · intro c hc h hrun
    have hrun' : (enterCtl d [] 0 d.cevt false s).wrun = false := hrun
    simp only [List.mem_cons, List.not_mem_nil, or_false] at hc
    obtain rfl | rfl | rfl := hc
    · exact h.startCtl_noEffect (status := 1) (by simp [actPause, hrun'])
    · exact h.startCtl_noEffect (status := 1) (by simp [actResume, hrun'])
    · exact h.startCtl_noEffect (status := 1) (by simp [actAbort, hrun'])
  · exact fun h hbarred => h.exec_eclipse hbarred
  · exact fun h hbarred => h.exec_eclipse_refused hbarred

end Sys2Proof.Machine

namespace Sys2Proof.Machine

/-! ### The reuse latches are emptied (R141) -/

theorem mem_of_sget_ne {α : Type} {d : α} {m : Sparse α} {k : Nat} (h : sget d m k ≠ d) : (k, sget d m k) ∈ m := by
  induction m with
  | nil => exact absurd rfl h
  | cons x m ih =>
    obtain ⟨j, v⟩ := x
    simp only [sget] at h ⊢
    split at h
    · subst j
      simp
    · split at h
      · exact absurd rfl h
      · rename_i hne hlt
        rw [if_neg hne, if_neg hlt]
        exact List.mem_cons_of_mem _ (ih h)

/-- A physical cluster with its reuse latches empty. -/
def Lanes.emptied (l : Lanes) : Lanes := { l with latches := [] }

/-- Empties the latches of the listed clusters that hold any. -/
def State.emptyLatchesOf (l : Sparse Lanes) (s : State) : State :=
  l.foldl (fun s x => if x.2.latches.isEmpty then s else s.modLane x.1 Lanes.emptied) s

theorem State.emptyLatches_eq (s : State) : s.emptyLatches = s.emptyLatchesOf s.lanes := rfl

theorem State.emptyLatchesOf_frame (l : Sparse Lanes) (s : State) :
    s.emptyLatchesOf l = { s with lanes := (s.emptyLatchesOf l).lanes } := by
  refine List.foldlRecOn (motive := fun t : State => t = { s with lanes := t.lanes }) _ _ rfl (fun t ht x _ => ?_)
  split
  · exact ht
  · rw [ht]
    rfl

theorem State.lane_emptyLatchesOf (l : Sparse Lanes) (p : Nat) : ∀ {s : State}, swf Lanes.fresh s.lanes = true →
    (s.emptyLatchesOf l).lane p =
      if l.any (fun x => x.1 == p && !x.2.latches.isEmpty) then (s.lane p).emptied else s.lane p := by
  induction l with
  | nil => exact fun _ => rfl
  | cons x l ih =>
    intro s hs
    rw [List.any_cons]
    by_cases hx : x.2.latches.isEmpty = true
    · have hstep : s.emptyLatchesOf (x :: l) = s.emptyLatchesOf l := by
        rw [State.emptyLatchesOf, List.foldl_cons, if_pos hx, ← State.emptyLatchesOf]
      rw [hstep, ih hs, hx, Bool.not_true, Bool.and_false, Bool.false_or]
    · have hstep : s.emptyLatchesOf (x :: l) = (s.modLane x.1 Lanes.emptied).emptyLatchesOf l := by
        rw [State.emptyLatchesOf, List.foldl_cons, if_neg hx, ← State.emptyLatchesOf]
      rw [hstep, ih (swf_smod _ _ hs), State.lane_modLane _ _ _ _ hs, Bool.eq_false_iff.2 hx, Bool.not_false,
        Bool.and_true]
      by_cases hp : x.1 = p
      · subst p
        simp [Lanes.emptied]
      · rw [beq_false_of_ne hp, Bool.false_or]
        rw [if_neg (Ne.symm hp)]

theorem State.lane_emptyLatches {s : State} (hs : swf Lanes.fresh s.lanes = true) (p : Nat) :
    s.emptyLatches.lane p = { s.lane p with latches := [] } := by
  rw [State.emptyLatches_eq, State.lane_emptyLatchesOf _ _ hs]
  split
  · rfl
  · rename_i hnone
    have hempty : (s.lane p).latches = [] := by
      by_contra hne
      have hmem : (p, s.lane p) ∈ s.lanes := mem_of_sget_ne fun h => hne (by rw [State.lane, h]; rfl)
      exact hnone (List.any_eq_true.2 ⟨_, hmem, by simpa using hne⟩)
    rw [← hempty]

/-! ### A stop is recorded (R115, R116) -/

/-- Nothing is on its way: no result waits to be written. -/
theorem settleResults_self {s : State} (hscal : s.str.scalQ = []) (hflag : s.str.flagQ = []) : settleResults s = s := by
  calc settleResults s = s.modStr (fun t => { t with scalQ := s.str.scalQ, flagQ := s.str.flagQ }) := by
        simp [settleResults, hscal, hflag]
    _ = s := rfl

/-- What a stop reports of a pending branch. -/
def State.branchPending (s : State) : Nat × Nat :=
  match s.str.branch with
  | some (t, d) => if t < 2 ^ 32 then (t, d) else (0, 0)
  | none => (0, 0)

/-- A terminal stop with its registers and its WORK_DONE record, before those who wait for the stream hear of it. -/
def State.stopRecorded (s : State) (a : StopAt) (slot free : Nat) (lanes : Sparse Lanes) : State :=
  { s with
    lanes := lanes, free := free, trap := { s.trap with hit := false }
    str := { s.str with
      stop := ⟨s.str.pc, a.cause, slot, a.rclass, a.reg, a.rule, s.branchPending.2, false, s.branchPending.1⟩
      board := [], unitFree := [], trapWait := 0, buoyWait := 0, looked := false, pauseReq := false, resuming := false
      stopWait := none, frozen := false, farHits := [], farFault := .blank }
    evq := s.evq ++ [s.launchRecord 0x01 a.cause ((s.str.launch.map (·.user)).getD 0) s.str.pc 0] }

/-- The causes of the stops before a bundle that fails a check (R114). -/
abbrev checkCauses : List Nat := [0x06, 0x07, 0x08, 0x09, 0x0A, 0x0B]

/-- The same as `recordStop` makes it: the reuse latches are emptied, then the registers written (R141). -/
def State.stopMade (s : State) (a : StopAt) (slot free : Nat) : State :=
  let t := ({ s with free := free }.emptyLatches).modStr (fun t => { t with
    stop := ⟨t.pc, a.cause, slot, a.rclass, a.reg, a.rule, s.branchPending.2, false, s.branchPending.1⟩
    board := [], unitFree := [], trapWait := 0, buoyWait := 0, looked := false, pauseReq := false, resuming := false
    stopWait := none, frozen := false, farHits := [], farFault := .blank })
  let t := { t with trap := { t.trap with hit := false } }
  t.push (t.launchRecord 0x01 a.cause ((t.str.launch.map (·.user)).getD 0) t.str.pc 0)

theorem State.stopMade_eq {s : State} (hlanes : swf Lanes.fresh s.lanes = true) (a : StopAt) (slot free : Nat) :
    ∃ lanes, (∀ p, sget Lanes.fresh lanes p = { s.lane p with latches := [] }) ∧
      s.stopMade a slot free = s.stopRecorded a slot free lanes := by
  have hframe := State.emptyLatchesOf_frame s.lanes { s with free := free }
  have hempty := State.lane_emptyLatches (s := { s with free := free }) hlanes
  rw [State.emptyLatches_eq] at hempty
  rw [State.stopMade, State.emptyLatches_eq]
  generalize State.emptyLatchesOf _ { s with free := free } = v at hframe hempty
  refine ⟨v.lanes, hempty, ?_⟩
  rw [hframe]
  rfl

theorem recordStop_terminal {a : StopAt} {s : State} (hcause : a.cause ∈ checkCauses) (hscal : s.str.scalQ = [])
    (hflag : s.str.flagQ = []) (hlanes : swf Lanes.fresh s.lanes = true) : ∃ slot free lanes,
    (∀ n, a.slot = some n → slot = n) ∧ (∀ p, sget Lanes.fresh lanes p = { s.lane p with latches := [] }) ∧
    recordStop a s = refuseEclipse (s.stopRecorded a slot free lanes).settlePauses := by
  have hne : a.cause ≠ 2 ∧ a.cause ≠ 3 ∧ a.cause ≠ 4 ∧ a.cause ≠ 5 := by
    simp only [List.mem_cons, List.not_mem_nil, or_false] at hcause
    omega
  obtain ⟨h2, h3, h4, h5⟩ := hne
  have hresumable : s.resumableCause a.cause = false := by simp [State.resumableCause, h2, h3, h4, h5]
  have hfrozen : (a.cause == 2) = false := by simpa using h2
  have hrecord : ∃ slot free, (∀ n, a.slot = some n → slot = n) ∧
      recordStop a s = refuseEclipse (s.stopMade a slot free).settlePauses := by
    obtain hslot | ⟨n, hslot⟩ := Option.eq_none_or_eq_some a.slot
    · refine ⟨openSlot s.free, s.free + 1, by simp [hslot], ?_⟩
      simp only [recordStop, settleResults_self hscal hflag, hresumable, hslot, h3, hfrozen, if_false, Bool.false_eq_true]
      rfl
    · refine ⟨n, s.free, by simp [hslot], ?_⟩
      simp only [recordStop, settleResults_self hscal hflag, hresumable, hslot, h3, hfrozen, if_false, Bool.false_eq_true]
      rfl
  obtain ⟨slot, free, hslot, hrecord⟩ := hrecord
  obtain ⟨lanes, hempty, hmade⟩ := State.stopMade_eq hlanes a slot free
  exact ⟨slot, free, lanes, hslot, hempty, by rw [hrecord, hmade]⟩

theorem refuseEclipse_evq (s : State) : s.evq <+: (refuseEclipse s).evq := by
  unfold refuseEclipse
  split
  · exact List.prefix_refl _
  · extract_lets run runs runs'
    exact ctlPump_evq { s with
      rst := { s.rst with eclipse := none, pstate := 0, wakeHeld := none }, kp := { s.kp with ctlRun := runs' } }

theorem refuseEclipse_pstate {s : State} (h : s.rst.pstate = 0) : (refuseEclipse s).rst.pstate = 0 := by
  unfold refuseEclipse
  split
  · exact h
  · dsimp only
    rw [ctlPump_frame]

/-- What a recorded stop tells those who wait for the stream changes the books of descriptors, the event queue and a
waiting ECLIPSE alone. -/
theorem refuseEclipse_settlePauses {s : State} (h : s.rst.pstate = 0) : refuseEclipse s.settlePauses = { s with
    evq := (refuseEclipse s.settlePauses).evq
    rst := { s.rst with eclipse := none, wakeHeld := (refuseEclipse s.settlePauses).rst.wakeHeld }
    kp := { s.kp with
      ctlRun := (refuseEclipse s.settlePauses).kp.ctlRun, cdone := (refuseEclipse s.settlePauses).kp.cdone } } := by
  have hpstate : s.settlePauses.rst.pstate = 0 := by rw [s.settlePauses_frame]; exact h
  have hfinal := refuseEclipse_frame s.settlePauses
  rw [refuseEclipse_pstate hpstate] at hfinal
  generalize refuseEclipse s.settlePauses = t at hfinal
  rw [hfinal, s.settlePauses_frame, ← h]

/-- The cycle in which a terminal stop is recorded. -/
theorem stopRecorded_stoppedBy {s : State} (hpstate : s.rst.pstate = 0) (a : StopAt) {slot free : Nat}
    {lanes : Sparse Lanes} (hslot : ∀ n, a.slot = some n → slot = n)
    (hlanes : ∀ p, sget Lanes.fresh lanes p = { s.lane p with latches := [] }) :
    s.StoppedBy (refuseEclipse (s.stopRecorded a slot free lanes).settlePauses).advance a := by
  obtain ⟨r, hr⟩ : ∃ r, r = s.stopRecorded a slot free lanes := ⟨_, rfl⟩
  have htold := refuseEclipse_settlePauses (s := r) (by rw [hr]; exact hpstate)
  have hevq : r.evq <+: (refuseEclipse r.settlePauses).evq := r.settlePauses_evq.trans (refuseEclipse_evq _)
  rw [← hr]
  generalize refuseEclipse r.settlePauses = v at htold hevq
  have hcycle := v.advance_frame
  generalize v.advance = t at hcycle
  have hframe : t = { s with
      lanes := lanes, clk := s.clk.advance, str := r.str, cnt := t.cnt, ln := t.ln, evq := v.evq, free := free
      kp := { s.kp with ctlRun := t.kp.ctlRun, cdone := t.kp.cdone }
      rst := { s.rst with eclipse := none, wakeHeld := t.rst.wakeHeld }, trap := { s.trap with hit := false }
      mem := { s.mem with bucket := t.mem.bucket, held := t.mem.held }, td := { s.td with ch := t.td.ch }
      flt := { s.flt with lastFog := t.flt.lastFog }
      ring := { s.ring with ports := t.ring.ports, epochRun := t.ring.epochRun }
      osura := { s.osura with q := t.osura.q, secs := t.osura.secs } } := by
    rw [hcycle, htold, hr]
    rfl
  obtain ⟨l, hl⟩ := hevq
  have hstr : t.str = (s.stopRecorded a slot free lanes).str := by rw [hframe, hr]
  have hevq : t.evq = s.evq ++ s.launchRecord 0x01 a.cause ((s.str.launch.map (·.user)).getD 0) s.str.pc 0 :: l := by
    rw [hframe]
    dsimp only
    rw [← hl, hr]
    exact List.append_assoc ..
  have hlane : ∀ p, t.lane p = { s.lane p with latches := [] } := by
    intro p
    rw [← hlanes p, State.lane, hframe]
  have hclk : t.clk = s.clk.advance := by rw [hframe]
  have heclipse : t.rst.eclipse = none := by rw [hframe]
  have hrest : t = { s with
      lanes := t.lanes, clk := t.clk, str := t.str, cnt := t.cnt, trc := t.trc, ln := t.ln, evq := t.evq, free := t.free
      kp := { s.kp with ctlRun := t.kp.ctlRun, cdone := t.kp.cdone }
      rst := { s.rst with eclipse := none, wakeHeld := t.rst.wakeHeld }, trap := { s.trap with hit := false }
      mem := { s.mem with bucket := t.mem.bucket, held := t.mem.held }, td := { s.td with ch := t.td.ch }
      flt := { s.flt with lastFog := t.flt.lastFog }
      ring := { s.ring with ports := t.ring.ports, epochRun := t.ring.epochRun }
      osura := { s.osura with q := t.osura.q, secs := t.osura.secs } } := by
    rw [hframe]
  have hbranch : t.str.stop.brtgt = s.branchPending.1 ∧ t.str.stop.brpend = s.branchPending.2 := by
    rw [hstr]
    exact ⟨rfl, rfl⟩
  refine ⟨?_, ?_, ?_, ?_, ?_, ?_, ?_, ?_, ?_,
    ⟨s.launchRecord 0x01 a.cause ((s.str.launch.map (·.user)).getD 0) s.str.pc 0, l, hevq, rfl, rfl, rfl, rfl, ?_⟩,
    hlane, ?_, ?_, ?_, ?_, ?_, ?_, heclipse, hclk, hrest⟩
  case refine_3 =>
    rw [hstr]
    exact hslot
  case refine_8 =>
    intro tgt d hpending htgt
    rw [hbranch.1, hbranch.2, State.branchPending, hpending]
    dsimp only
    rw [if_pos htgt]
    exact ⟨rfl, rfl⟩
  case refine_9 =>
    intro hnone
    rw [hbranch.2, State.branchPending, hnone]
  case refine_10 =>
    intro w hw
    simp [State.launchRecord, State.record, hw]
  all_goals
    rw [hstr]
    rfl

/-! ### The cycle of a check that fails (R113) -/

/-- With nothing on its way and room for the event, a failed check is recorded in its own cycle. -/
theorem stopCycle_stoppedBy {s : State} (hinv : s.Inv) (hclear : s.StreamClear) (hscal : s.str.scalQ = [])
    (hflag : s.str.flagQ = []) (hroom : s.evRoom = true) {a : StopAt} (hcause : a.cause ∈ checkCauses) :
    s.StoppedBy (stopCycle a s) a := by
  obtain ⟨_, _, _, _, _, hpstate, _, hwindow, hdue, hmovs, _⟩ := hclear
  obtain ⟨_, _, _, _, _, hlanes, _⟩ := hinv
  have hne3 : a.cause ≠ 3 := by
    intro h
    rw [h] at hcause
    exact absurd hcause (by decide)
  obtain ⟨u, hu⟩ : ∃ u, u = s.modStr (fun t => { t with stopWait := some a }) := ⟨_, rfl⟩
  have hcycle : stopCycle a s = (recordStop a u).advance := by
    have hroom' : u.evRoom = true := by rw [hu]; exact hroom
    have hwindows : u.windowsOpen = false := by rw [hu]; simp [State.windowsOpen, State.modStr, hwindow, hdue]
    have hmovs' : u.str.movs = [] := by rw [hu]; exact hmovs
    simp only [stopCycle, if_neg hne3, ← hu, hmovs', List.any_nil, Bool.and_false, hwindows, hroom', Bool.not_true,
      Bool.or_false, Bool.false_eq_true, if_false]
  obtain ⟨slot, free, lanes, hslot, hempty, hrecord⟩ := recordStop_terminal (s := u) hcause (by rw [hu]; exact hscal)
    (by rw [hu]; exact hflag) (by rw [hu]; exact hlanes)
  rw [hcycle, hrecord, show u.stopRecorded a slot free lanes = s.stopRecorded a slot free lanes by rw [hu]; rfl]
  exact stopRecorded_stoppedBy hpstate a hslot fun p => by rw [hempty p, hu]; rfl

/-- Nothing comes before the bundle at the pc. -/
theorem preCycle_clear {s : State} (h : s.StreamClear) : preCycle s = none := by
  obtain ⟨_, _, hended, _, _, _, _, _, _, hmovs, _, hbank, hspares, hspare, hstuck, hwait, hfar, hresuming, htrap,
    htrapWait, hfence, hback⟩ := h
  simp [preCycle, hspares, hbank, hspare, State.flushHolds, hstuck, hwait, farPick_nil hfar, hback, State.resumeAhead,
    hresuming, htrapWait, htrap, hended, hfence, State.farLate, hmovs]

/-- A fetched bundle is checked, and waits, stops or issues. -/
theorem exec_bundleIssue_bundle {s : State} (h : s.StreamClear) (hbranch : s.str.branch = none → s.str.earliest ≤ s.clk.cyc)
    (halign : s.str.pc % 4 = 0) (hpc : s.str.pc < 2 ^ 29) {b : Bundle} {len : Nat} (hhere : s.bundleHere = some (b, len)) :
    exec .bundleIssue s = .next (bundleCycle b len s) := by
  have hpre := preCycle_clear h
  obtain ⟨hrun, hstop, hended, hready, hclk, hpstate, herrs, hwindow, hdue, _, _, _, _, _, _, _, _, hresuming, _⟩ := h
  have hself : s.modStr (fun t => { t with resuming := false }) = s := by
    calc s.modStr (fun t => { t with resuming := false }) = s.modStr (fun t => { t with resuming := s.str.resuming }) := by
          rw [hresuming]
      _ = s := rfl
  have hearliest : (s.str.branch.isNone && decide (s.clk.cyc < s.str.earliest)) = false := by
    cases hb : s.str.branch with
    | none => simpa using hbranch hb
    | some x => rfl
  have halign' : (s.str.pc % 4 != 0 || decide (2 ^ 29 ≤ s.str.pc)) = false := by
    rw [halign, decide_eq_false (Nat.not_le.2 hpc)]
    rfl
  rw [exec_bundleIssue hrun hstop hready hclk hpstate herrs hwindow hdue]
  simp only [streamCycle, hpre, hself, hended, hearliest, halign', hhere, Bool.false_eq_true, if_false]

end Sys2Proof.Machine

namespace Sys2Proof.Machine

/-! ### Which check fails first (R114) -/

/-- Among the checks of decoded slots: E_BOUNDS, E_SHAPE, E_HAZARD and E_CHAIN, in that order, is the first that fails. -/
def State.FailsCheck (s : State) (b : Bundle) (run : List (Nat × SlotOp)) (a : StopAt) : Prop :=
  (∃ x, run.find? (fun x => boundsBad s x.2) = some x ∧ a.cause = 0x07 ∧ a.slot = some x.1) ∨
  run.find? (fun x => boundsBad s x.2) = none ∧
    ((∃ x, run.find? (fun x => shapeBad s x.2) = some x ∧ a.cause = 0x08 ∧ a.slot = some x.1) ∨
    run.find? (fun x => shapeBad s x.2) = none ∧
      ((∃ h : Hazard, hazardIn s b (run.map (fun x => slotUse s x.1 x.2)) = some h ∧ a.cause = 0x09) ∨
      hazardIn s b (run.map (fun x => slotUse s x.1 x.2)) = none ∧
        ∃ x, run.find? (fun x => chainBad s x.2) = some x ∧ a.cause = 0x0B ∧ a.slot = some x.1))

theorem Hazard.stop_cause (h : Hazard) : h.stop.cause = 0x09 := by
  unfold Hazard.stop
  split <;> rfl

/-- A bundle fails on its encoding, or its decoded slots fail a later check. -/
theorem checkBundle_error {s : State} {b : Bundle} {len : Nat} {a : StopAt} (h : checkBundle s b len = .error a) :
    a.cause = 0x06 ∨ ∃ all, decodeAll s.prof b = .ok all ∧ s.FailsCheck b (all.filter (fun x => !b.suppressed s x.1)) a := by
  unfold checkBundle at h
  extract_lets at_ end_ placeBad at h
  split at h
  · obtain rfl := Except.error.inj h
    exact .inl rfl
  next all hall =>
    extract_lets run first enc uses at h
    split at h
    · obtain rfl := Except.error.inj h
      exact .inl rfl
    split at h
    · obtain rfl := Except.error.inj h
      exact .inl rfl
    have hsome {c : Nat} {bad : SlotOp → Bool} {e : StopAt} (he : first c bad = some e) :
        ∃ x, run.find? (fun x => bad x.2) = some x ∧ e.cause = c ∧ e.slot = some x.1 := by
      obtain ⟨x, hx, rfl⟩ := Option.map_eq_some_iff.1 he
      exact ⟨x, hx, rfl, rfl⟩
    have hnone {c : Nat} {bad : SlotOp → Bool} (he : first c bad = none) : run.find? (fun x => bad x.2) = none :=
      Option.map_eq_none_iff.1 he
    split at h
    next e henc =>
      obtain rfl := Except.error.inj h
      obtain ⟨x, _, rfl⟩ := Option.map_eq_some_iff.1 henc
      exact .inl rfl
    next e _ hbounds =>
      obtain rfl := Except.error.inj h
      exact .inr ⟨all, hall, .inl (hsome hbounds)⟩
    next e _ hbounds hshape =>
      obtain rfl := Except.error.inj h
      exact .inr ⟨all, hall, .inr ⟨hnone hbounds, .inl (hsome hshape)⟩⟩
    next e _ hbounds hshape hhazard =>
      obtain rfl := Except.error.inj h
      exact .inr ⟨all, hall, .inr ⟨hnone hbounds, .inr ⟨hnone hshape, .inl ⟨e, hhazard, e.stop_cause⟩⟩⟩⟩
    next e _ hbounds hshape hhazard hchain =>
      obtain rfl := Except.error.inj h
      exact .inr ⟨all, hall, .inr ⟨hnone hbounds, .inr ⟨hnone hshape, .inr ⟨hhazard, hsome hchain⟩⟩⟩⟩
    next => cases h

theorem checkBundle_error_cause {s : State} {b : Bundle} {len : Nat} {a : StopAt} (h : checkBundle s b len = .error a) :
    a.cause ∈ [0x06, 0x07, 0x08, 0x09, 0x0B] := by
  obtain h | ⟨all, _, ⟨x, _, h, _⟩ | ⟨_, ⟨x, _, h, _⟩ | ⟨_, ⟨g, _, h⟩ | ⟨_, x, _, h, _⟩⟩⟩⟩ := checkBundle_error h <;>
    (rw [h]; decide)

theorem checkBundle_of_decodeAll_error {s : State} {b : Bundle} {len : Nat} {n : Option Nat}
    (h : decodeAll s.prof b = .error n) : ∃ a, checkBundle s b len = .error a ∧ a.cause = 0x06 := by
  unfold checkBundle
  simp only [h]
  exact ⟨_, rfl, rfl⟩

/-- What the cause says of the checks before it, and of the slot. -/
theorem State.FailsCheck.spec {s : State} {b : Bundle} {run : List (Nat × SlotOp)} {a : StopAt} (h : s.FailsCheck b run a) :
    (a.cause = 0x07 → a.slot = (run.find? (fun x => boundsBad s x.2)).map (·.1)) ∧
    (a.cause ∈ [0x08, 0x09, 0x0B] → ∀ x ∈ run, boundsBad s x.2 = false) ∧
    (a.cause = 0x08 → a.slot = (run.find? (fun x => shapeBad s x.2)).map (·.1)) ∧
    (a.cause ∈ [0x09, 0x0B] → ∀ x ∈ run, shapeBad s x.2 = false) ∧
    (a.cause = 0x0B → a.slot = (run.find? (fun x => chainBad s x.2)).map (·.1) ∧
      hazardIn s b (run.map (fun x => slotUse s x.1 x.2)) = none) := by
  obtain ⟨x, hx, hcause, hslot⟩ | ⟨hbounds, ⟨x, hx, hcause, hslot⟩ | ⟨hshape, ⟨g, _, hcause⟩ |
    ⟨hhazard, x, hx, hcause, hslot⟩⟩⟩ := h <;> rw [hcause]
  · rw [hx]
    simp [hslot]
  · rw [hx]
    simpa [hslot] using hbounds
  · simpa using And.intro hbounds hshape
  · rw [hx]
    simpa [hslot, hhazard] using And.intro hbounds hshape

/-! ### A bundle that passes its checks and waits for nothing (R61, R72) -/

/-- The checks of the issue cycle come last: E_BOUNDS on an ARM, else E_DARK. -/
theorem bundleCycle_unblocked {s : State} {b : Bundle} {len : Nat} {ops : List (Nat × SlotOp)}
    (hcheck : checkBundle s b len = .ok ops)
    (hfree : ∀ y ∈ ops, buoysBlocking s y.2 = [] ∧ cowBlocking s y.2 = [] ∧ unitBlocking s y.2 = false) :
    (∀ x, ops.find? (fun y => armBad s y.2) = some x → bundleCycle b len s = stopCycle ⟨0x07, some x.1, 0, 0, 0, 0⟩ s) ∧
    (∀ x, ops.find? (fun y => armBad s y.2) = none → ops.find? (fun y => darkBad s y.2) = some x →
      bundleCycle b len s = stopCycle ⟨0x0A, some x.1, 0, 0, 0, 0⟩ s) := by
  have hbuoys : ops.any (fun x => !(buoysBlocking s x.2).isEmpty) = false :=
    List.any_eq_false.2 fun x hx => by rw [(hfree x hx).1]; decide
  have hunits : ops.any (fun x => unitBlocking s x.2) = false :=
    List.any_eq_false.2 fun x hx => by rw [(hfree x hx).2.2]; decide
  have hcows : ops.flatMap (fun x => cowBlocking s x.2) = [] :=
    List.flatMap_eq_nil_iff.2 fun x hx => (hfree x hx).2.1
  constructor
  · intro x harm
    simp [bundleCycle, hcheck, hbuoys, hunits, hcows, harm]
  · intro x harm hdark
    simp [bundleCycle, hcheck, hbuoys, hunits, hcows, harm, hdark]

/-- Settles O24: the check that fails is the cause of the stop that the stream's own cycle records. -/
theorem failedChecksStop : Obligations.FailedChecksStop := by
  unfold Obligations.FailedChecksStop
  intro s b len hinv hclear hbranch halign hpc hhere hscal hflag hroom
  have hissue := exec_bundleIssue_bundle hclear hbranch halign hpc hhere
  have hstops {a : StopAt} (hcause : a.cause ∈ checkCauses) (hcycle : bundleCycle b len s = stopCycle a s) :
      ∃ t, exec .bundleIssue s = .next t ∧ s.StoppedBy t a :=
    ⟨_, by rw [hissue, hcycle], stopCycle_stoppedBy hinv hclear hscal hflag hroom hcause⟩
  refine ⟨fun a hcheck => ?_, fun n hdecode => checkBundle_of_decodeAll_error hdecode, ?_, fun ops x hcheck hfree => ?_⟩
  · have hcause := checkBundle_error_cause hcheck
    have hsub : [0x06, 0x07, 0x08, 0x09, 0x0B] ⊆ checkCauses := by decide
    exact ⟨hcause, hstops (hsub hcause) (by simp only [bundleCycle, hcheck])⟩
  · rintro all run a hall rfl hcheck
    obtain h6 | ⟨all', hall', hfails⟩ := checkBundle_error hcheck
    · rw [h6]
      exact ⟨fun h => absurd h (by decide), fun h => absurd h (by decide), fun h => absurd h (by decide),
        fun h => absurd h (by decide), fun h => absurd h (by decide)⟩
    · obtain rfl := Except.ok.inj (hall.symm.trans hall')
      exact hfails.spec
  · obtain ⟨harm, hdark⟩ := bundleCycle_unblocked hcheck hfree
    exact ⟨fun h => hstops (a := ⟨0x07, some x.1, 0, 0, 0, 0⟩) (by simp) (harm x h),
      fun h h' => hstops (a := ⟨0x0A, some x.1, 0, 0, 0, 0⟩) (by simp) (hdark x h h')⟩

end Sys2Proof.Machine

namespace Sys2Proof.Machine

/-! ### Registers that capture or clear (R86, R365, R443, R506) -/

/-- A register write after READY takes effect and is answered. -/
theorem State.hostWrite_ready {s : State} (h : s.rst.ready = true) (f : State → State) :
    s.hostWrite f = { f s with out := (f s).out ++ [.regWrote false] } := by
  simp [State.hostWrite, h]

/-- CNT_CTL changes the counters alone. -/
theorem cntCtl_frame (v : Nat) (s : State) : cntCtl v s = { s with cnt := (cntCtl v s).cnt } := by
  unfold cntCtl
  dsimp only
  split <;> rfl

theorem cntCtl_freeze (v : Nat) (s : State) : (cntCtl v s).cnt.freeze = bitOf v 0 := by
  unfold cntCtl
  dsimp only
  split <;> rfl

theorem cntCtl_cleared {v : Nat} (h : bitOf v 1 = true) (s : State) :
    (cntCtl v s).cnt.eng = [] ∧ (cntCtl v s).cnt.cl = [] := by
  simp [cntCtl, h]

theorem cntCtl_kept {v : Nat} (h : bitOf v 1 = false) (s : State) :
    (cntCtl v s).cnt.eng = s.cnt.eng ∧ (cntCtl v s).cnt.cl = s.cnt.cl := by
  simp [cntCtl, h]

/-- Settles O7: each of the three registers as its write leaves it. -/
theorem selectsAndCounterClear : Obligations.SelectsAndCounterClear := by
  unfold Obligations.SelectsAndCounterClear
  intro s v hready
  refine ⟨⟨_, congrArg Host.Outcome.next (State.hostWrite_ready hready (captureBuoy v.toNat)), ?_⟩,
    ⟨_, congrArg Host.Outcome.next (State.hostWrite_ready hready (captureMoor v.toNat)), ?_⟩,
    ⟨_, congrArg Host.Outcome.next (State.hostWrite_ready hready (cntCtl v.toNat)), ?_⟩⟩
  · have hsel : bitsOf v.toNat 0 8 = v.toNat % 256 := by simp [bitsOf_eq]
    simp [captureBuoy, hsel]
  · have hsel : bitsOf v.toNat 0 6 = v.toNat % 64 := by simp [bitsOf_eq]
    simp [captureMoor, hsel]
  · refine ⟨(cntCtl_freeze _ s).trans (bitOf_toNat v 0), fun hclear => ?_, fun hkeep => ?_, ?_⟩
    · obtain ⟨heng, hcl⟩ := cntCtl_cleared ((bitOf_toNat v 1).trans hclear) s
      dsimp only
      rw [heng, hcl]
      exact fun _ => ⟨rfl, rfl⟩
    · exact cntCtl_kept ((bitOf_toNat v 1).trans hkeep) s
    · dsimp only
      rw [cntCtl_frame]

/-! ### Buoys: one rule for each operation -/

/-- A buoy that is put reads so, and the others as before. -/
theorem State.buoy_putBuoy (s : State) (cmd : Bool) (n m : Nat) (b : Buoy) (h : swf Buoy.idle s.buoys.b = true) :
    (s.putBuoy cmd n b).buoy m = if m = n then b else s.buoy m :=
  sget_sset n m b h

/-- With no credits owed for a buoy, none are returned (R81). -/
theorem State.returnOwed_none {s : State} {n : Nat} (h : ∀ o ∈ s.ring.owed, o.1 ≠ n) : s.returnOwed n = s := by
  have hmine : s.ring.owed.filter (fun o => o.1 == n) = [] := by simpa [List.filter_eq_nil_iff] using h
  have hrest : s.ring.owed.filter (not ∘ fun o => o.1 == n) = s.ring.owed := by
    simpa [List.filter_eq_self] using h
  rw [State.returnOwed, List.partition_eq_filter_filter, hmine, hrest]
  rfl

/-- A Draining buoy with no read left is armed again or set Free (R80, R81). -/
theorem exec_buoyDrainEnd {s : State} {n : Fin 256} (howed : ∀ o ∈ s.ring.owed, o.1 ≠ n.val)
    (hst : (s.buoy n).st = .draining) (hreads : s.readsInFlight (s.buoy n) = false) :
    exec (.buoyDrainEnd n) s = .next (s.setBuoy n (if (s.buoy n).reload then (s.buoy n).loaded else .idle)) := by
  show execBuoyDrainEnd n s = _
  simp only [execBuoyDrainEnd, hst, hreads, bne_self_eq_false, Bool.or_false, Bool.false_eq_true, if_false]
  rw [State.returnOwed_none]
  exact howed

theorem exec_buoyDrainEnd_idle {s : State} {n : Fin 256}
    (h : (s.buoy n).st ≠ .draining ∨ s.readsInFlight (s.buoy n) = true) : exec (.buoyDrainEnd n) s = .next s :=
  if_pos (by simpa using h)

/-- Settles O40: the end of a drain puts one buoy. -/
theorem drainEnds : Obligations.DrainEnds := by
  unfold Obligations.DrainEnds
  intro s n hinv howed
  refine ⟨fun hst hreads => ⟨_, exec_buoyDrainEnd howed hst hreads, ?_, fun m hm => ?_, rfl⟩, exec_buoyDrainEnd_idle⟩
  · exact (s.buoy_setBuoy n n _ hinv.buoys).trans (if_pos rfl)
  · exact (s.buoy_setBuoy n m _ hinv.buoys).trans (if_neg hm)

/-- A release changes nothing of a buoy without a consumer count (R73, R76). -/
theorem Buoy.released_unbounded {b : Buoy} (h : b.consume = 0) : b.released = b := by
  simp [Buoy.released, h]

/-- A count that would leave the buoy as it is leaves every buoy so. -/
theorem State.countAt_unchanged {s : State} {n : Nat} {f : Buoy → Buoy} (h : f (s.buoy n) = s.buoy n) (kind source : Nat) :
    (s.countAt n kind source f).buoys.b = s.buoys.b := by
  have hmisuse : (s.buoyMisuse n kind source false).buoys.b = s.buoys.b := by rw [State.buoyMisuse_frame]
  unfold State.countAt
  dsimp only
  split
  · split
    · exact hmisuse
    · rfl
  · split
    · exact hmisuse
    · rfl

theorem State.release_unbounded {s : State} {n : Nat} (h : (s.buoy n).consume = 0) (source m : Nat) :
    (s.release n source).buoy m = s.buoy m := by
  have hkept : (s.release n source).buoys.b = s.buoys.b := by
    rw [State.release, State.alsoWithout_frame]
    exact State.countAt_unchanged (Buoy.released_unbounded h) 0x1 source
  rw [State.buoy, hkept, State.buoy]

end Sys2Proof.Machine

namespace Sys2Proof.Machine

/-! ### Words of a descriptor (R12) -/

theorem Desc.w_lt (d : Desc) (i : Nat) : d.w i < 2 ^ 32 := by
  have hlt := ofBytes_lt ((d.bytes.drop (4 * i)).take 4)
  have hlen : ((d.bytes.drop (4 * i)).take 4).length ≤ 4 := List.length_take_le ..
  exact hlt.trans_le (Nat.pow_le_pow_right (by decide) (by omega))

/-! ### Orders of the Control ring at a buoy (R386) -/

/-- The orders of higher masters that have been noted are `orders`. -/
def State.withOrders (s : State) (orders : List (Nat × Nat × Nat)) : State := { s with kp := { s.kp with orders := orders } }

theorem State.order_eq (s : State) (kind unit : Nat) : ∃ orders, s.order kind unit = s.withOrders orders := ⟨_, rfl⟩

/-- An order at a buoy that the stream has given no command in this control cycle drops nothing. -/
theorem State.overrule_none {s : State} {n : Nat} (h : ∀ c ∈ s.str.cmds, c.1 = s.clk.ckr / 8 → c.2.1 ≠ n) :
    s.overrule n = s := by
  have hmine : s.str.cmds.filter (fun c => c.1 == s.clk.ckr / 8 && c.2.1 == n) = [] := by
    simpa [List.filter_eq_nil_iff] using h
  rw [State.overrule, hmine]

theorem State.noteConflict_frame (s : State) (kind unit : Nat) :
    s.noteConflict kind unit = { s with
      cnt := (bump 0x024C s).cnt
      kp := { s.kp with
        conflictKind := (s.noteConflict kind unit).kp.conflictKind
        conflictUnit := (s.noteConflict kind unit).kp.conflictUnit
        conflictValid := (s.noteConflict kind unit).kp.conflictValid } } := by
  unfold State.noteConflict
  rw [bump_frame]
  dsimp only
  split <;> rfl

/-- The one command that the stream has given the buoy in this control cycle is counted and taken back. -/
theorem State.overrule_one {s : State} {n k : Nat} {b : Buoy} (h : s.str.cmds = [(s.clk.ckr / 8, n, b, k)]) :
    ∃ prods, s.overrule n =
      ((s.noteConflict 1 n).modStr (fun t => { t with cmds := [], prods := prods })).setBuoy n b := by
  have hmine : s.str.cmds.filter (fun c => c.1 == s.clk.ckr / 8 && c.2.1 == n) = [(s.clk.ckr / 8, n, b, k)] := by
    simp [h]
  have hleft : (s.noteConflict 1 n).str.cmds.filter (fun c => c.2.1 != n) = [] := by
    rw [State.noteConflict_frame, h]
    simp
  rw [State.overrule, hmine]
  simp only [List.foldl_cons, List.foldl_nil, State.modStr, hleft]
  exact ⟨_, rfl⟩

/-- A buoy freed with no credits owed for it is Free (R74, R81). -/
theorem State.freeNow_eq {s : State} {n : Nat} (howed : ∀ o ∈ s.ring.owed, o.1 ≠ n) : s.freeNow n = s.freeBuoy n := by
  rw [State.freeNow, State.returnOwed_none (s := s.freeBuoy n) howed]
  exact ite_self _

/-! ### ARM and FREE (R72 to R74) -/

/-- An action that only notes its orders and puts one buoy: what its descriptor leaves. -/
theorem State.CtlNext.startCtl_putsBuoy {s : State} {d : Desc} {rest : List Desc} {op n : Nat} {b : Buoy}
    (h : s.CtlNext d rest op) (hwf : swf Buoy.idle s.buoys.b = true) {act : Desc → Nat → State → CtlOut}
    {orders : List (Nat × Nat × Nat)}
    (ha : act d s.kp.ctlNum (enterCtl d [] 0 d.cevt false s) =
      .done 0 (((enterCtl d [] 0 d.cevt false s).withOrders orders).putBuoy true n b)) :
    ∃ t, startCtl op act s = .next t ∧ (∀ m, t.buoy m = if m = n then b else s.buoy m) ∧ s.CtlBooks t rest ∧
      t = { s with
        buoys := { s.buoys with b := t.buoys.b, before := t.buoys.before, changedAt := t.buoys.changedAt }
        kp := t.kp, evq := t.evq } := by
  obtain ⟨runs, ht⟩ := h.startCtl_done ha
  have hbooks := h.ctlBooks_enterCtl.of_eq
    (u := ((enterCtl d [] 0 d.cevt false s).withOrders orders).putBuoy true n b) rfl rfl
  refine ⟨_, ht, fun m => ?_, (hbooks.withRuns runs).ctlPump, ?_⟩
  · rw [ctlPump_frame]
    exact State.buoy_putBuoy ((enterCtl d [] 0 d.cevt false s).withOrders orders) true n m b hwf
  · rw [ctlPump_frame]
    rfl

/-- The buoy that an ARM of the Control ring asks for, as it is loaded (R73, R377). -/
def Desc.armed (d : Desc) : Buoy :=
  Buoy.loaded ⟨d.w 3, d.w 4 % 2 ^ 17, d.w 5 % 2 ^ 16, d.w 5 / 2 ^ 16, (d.w 4).testBit 17, 0, 0, .free⟩

/-- An ARM of a Free buoy that keeps the rules of R72. -/
theorem actArm_of_ok {d : Desc} {s : State} (hst : (s.buoy (d.w 2 % 256)).st = .free)
    (hok : s.armOk (d.w 2 % 256) (d.w 3) (d.w 4 % 2 ^ 17) = true) (hlines : d.w 4 % 2 ^ 17 ≠ 0)
    (hcmds : ∀ c ∈ s.str.cmds, c.1 = s.clk.ckr / 8 → c.2.1 ≠ d.w 2 % 256) (num : Nat) :
    ∃ orders, actArm d num s = .done 0 ((s.withOrders orders).putBuoy true (d.w 2 % 256) d.armed) := by
  obtain ⟨orders, horder⟩ := s.order_eq 1 (d.w 2 % 256)
  have hordered : s.orderBuoy (d.w 2 % 256) = s.withOrders orders := by
    rw [State.orderBuoy, horder]
    exact State.overrule_none (s := s.withOrders orders) hcmds
  have hconsume : d.w 5 / 2 ^ 16 % 2 ^ 16 = d.w 5 / 2 ^ 16 := Nat.mod_eq_of_lt (by have := d.w_lt 5; omega)
  have hst' : ((s.withOrders orders).buoy (d.w 2 % 256)).st = .free := hst
  have hok' : (s.withOrders orders).armOk (d.w 2 % 256) (d.w 3) (d.w 4 % 2 ^ 17) = true := hok
  refine ⟨orders, ?_⟩
  simp only [actArm, bitsOf_eq, bitOf_eq_testBit, Nat.pow_zero, Nat.div_one, show (2 : Nat) ^ 8 = 256 from rfl, hordered,
    hok', hst', hconsume, State.armBuoy, if_neg hlines, Bool.not_true, Bool.false_eq_true, bne_self_eq_false, if_false,
    Desc.armed]

/-- Settles O47: arming puts the loaded buoy, and without a consumer count it stays Ready. -/
theorem armingLoads : Obligations.ArmingLoads := by
  unfold Obligations.ArmingLoads
  refine ⟨fun s d rest hinv h hst hok hlines hcmds => ?_, fun s n hst hconsume => ⟨fun src m => ?_, ?_⟩⟩
  · obtain ⟨orders, hact⟩ := actArm_of_ok (s := enterCtl d [] 0 d.cevt false s) hst hok hlines hcmds s.kp.ctlNum
    exact h.startCtl_putsBuoy hinv.buoys hact
  · exact State.release_unbounded hconsume src m
  · exact exec_buoyDrainEnd_idle (.inl (by rw [hst]; decide))

/-- A FREE notes its orders, takes back what the stream has commanded, and frees its buoy (R74, R386). -/
theorem actFree_eq (d : Desc) (num : Nat) (s : State) :
    ∃ orders, actFree d num s = .done 0 (((s.withOrders orders).overrule (d.w 2 % 256)).freeNow (d.w 2 % 256)) := by
  have hn : bitsOf (d.w 2) 0 8 = d.w 2 % 256 := by simp [bitsOf_eq]
  unfold actFree
  dsimp only
  rw [hn]
  split <;> exact ⟨_, rfl⟩

theorem State.CtlNext.exec_free {s : State} {d : Desc} {rest : List Desc} (h : s.CtlNext d rest 5)
    (hwf : swf Buoy.idle s.buoys.b = true) (howed : ∀ o ∈ s.ring.owed, o.1 ≠ d.w 2 % 256)
    (hcmds : ∀ c ∈ s.str.cmds, c.1 = s.clk.ckr / 8 → c.2.1 ≠ d.w 2 % 256) : ∃ t, exec .free s = .next t ∧
      (∀ m, t.buoy m = if m = d.w 2 % 256 then Buoy.idle else s.buoy m) ∧ s.CtlBooks t rest ∧
      t = { s with
        buoys := { s.buoys with b := t.buoys.b, before := t.buoys.before, changedAt := t.buoys.changedAt }
        kp := t.kp, evq := t.evq } := by
  obtain ⟨orders, hact⟩ := actFree_eq d s.kp.ctlNum (enterCtl d [] 0 d.cevt false s)
  rw [State.overrule_none (s := (enterCtl d [] 0 d.cevt false s).withOrders orders) hcmds,
    State.freeNow_eq (s := (enterCtl d [] 0 d.cevt false s).withOrders orders) howed] at hact
  exact h.startCtl_putsBuoy hwf hact

/-- A FREE meets the one command that the stream has given its buoy in this control cycle (R386). -/
theorem State.CtlNext.exec_free_overrules {s : State} {d : Desc} {rest : List Desc} (h : s.CtlNext d rest 5)
    (hwf : swf Buoy.idle s.buoys.b = true) (howed : ∀ o ∈ s.ring.owed, o.1 ≠ d.w 2 % 256) {b : Buoy} {k : Nat}
    (hcmds : s.str.cmds = [(s.clk.ckr / 8, d.w 2 % 256, b, k)]) : ∃ t, exec .free s = .next t ∧
      t.buoy (d.w 2 % 256) = Buoy.idle ∧ t.cnt = (bump 0x024C s).cnt ∧ t.str.cmds = [] ∧ s.flt = t.flt := by
  obtain ⟨orders, hact⟩ := actFree_eq d s.kp.ctlNum (enterCtl d [] 0 d.cevt false s)
  obtain ⟨e, he⟩ : ∃ e, e = (enterCtl d [] 0 d.cevt false s).withOrders orders := ⟨_, rfl⟩
  obtain ⟨prods, hover⟩ := State.overrule_one (s := e) (n := d.w 2 % 256) (b := b) (k := k) (by rw [he]; exact hcmds)
  have hnote := e.noteConflict_frame 1 (d.w 2 % 256)
  generalize e.noteConflict 1 (d.w 2 % 256) = c at hover hnote
  obtain ⟨u, hu⟩ : ∃ u, u = (c.modStr (fun t => { t with cmds := [], prods := prods })).setBuoy (d.w 2 % 256) b := ⟨_, rfl⟩
  rw [← he, hover, ← hu, State.freeNow_eq (s := u) (by rw [hu, hnote, he]; exact howed)] at hact
  obtain ⟨runs, ht⟩ := h.startCtl_done hact
  have hcnt : (bump 0x024C e).cnt = (bump 0x024C s).cnt := bump_cnt _ _ _ (by rw [he]; rfl) (by rw [he]; rfl)
  have hbuoys : swf Buoy.idle u.buoys.b = true := by
    rw [hu]
    exact swf_sset _ _ (by rw [hnote, he]; exact hwf)
  refine ⟨_, ht, ?_, ?_, ?_, ?_⟩ <;> rw [ctlPump_frame]
  · exact (u.buoy_putBuoy true _ _ _ hbuoys).trans (if_pos rfl)
  · rw [← hcnt]
    show u.cnt = _
    rw [hu]
    show c.cnt = _
    rw [hnote]
  · show u.str.cmds = []
    rw [hu]
    rfl
  · show s.flt = u.flt
    rw [hu, hnote, he]
    rfl

/-! ### Descriptors that complete at once (R379, R381) -/

/-- An action that is done leaves its descriptor completed among those that run. -/
theorem State.CtlNext.startCtl_completes {s t : State} {d : Desc} {rest : List Desc} {op status : Nat}
    (h : s.CtlNext d rest op) (hnone : s.kp.ctlRun = []) {act : Desc → Nat → State → CtlOut}
    (ha : act d s.kp.ctlNum (enterCtl d [] 0 d.cevt false s) = .done status t)
    (hruns : t.kp.ctlRun = (enterCtl d [] 0 d.cevt false s).kp.ctlRun) :
    startCtl op act s =
      .next (ctlPump (t.withRuns [⟨s.kp.ctlNum, d.slot, op, d.cevt, d.user, [], status, 0, true, none⟩])) := by
  obtain ⟨htaken, hstart, hfields, hop⟩ := h
  have hrun : t.kp.ctlRun = [⟨s.kp.ctlNum, d.slot, op, d.cevt, d.user, [], 0, 0, false, none⟩] := by
    rw [hruns, enterCtl, hnone, hop]
    rfl
  simp only [startCtl, htaken, hstart, hfields, hop, ha, Bool.not_true, Bool.false_eq_true, if_false, bne_self_eq_false,
    hrun, List.map_cons, List.map_nil, if_true, State.withRuns]

/-- The record of a completed descriptor that asks for one (R381). -/
def State.ctlDone (s : State) (r : CtlRun) : List EvRec :=
  if r.cevt then [s.descRecord 3 r.slot 0x03 (r.op + 256 * r.status) r.user r.p2] else []

/-- A report queues the record, and leaves nothing of the descriptor to be told. -/
theorem ctlReport_completed {s : State} {r : CtlRun} (hruns : s.kp.ctlRun = [r]) (hdone : r.done = true)
    (herr : r.err = none) (hroom : r.cevt = true → s.evRoom = true) :
    ctlReport s r = { s with
      kp := { s.kp with ctlRun := [{ r with cevt := false }] }, evq := s.evq ++ s.ctlDone r } := by
  cases hcevt : r.cevt with
  | true =>
    have htold : r.told = false := by simp [CtlRun.told, hcevt]
    have hrecord : s.ctlDone r = [s.descRecord 3 r.slot 0x03 (r.op + 256 * r.status) r.user r.p2] := if_pos hcevt
    simp only [ctlReport, hdone, htold, hroom hcevt, Bool.not_false, Bool.and_self, if_true, hruns, List.map_cons,
      List.map_nil, herr, hrecord]
    rfl
  | false =>
    have htold : r.told = true := by simp [CtlRun.told, hdone, hcevt, herr]
    have hself : { r with cevt := false } = r := by rw [← hcevt]
    have hrecord : s.ctlDone r = [] := if_neg (by simp [hcevt])
    rw [hself, ← hruns, hrecord, List.append_nil, ctlReport, htold]
    simp

/-- The one completed descriptor is counted, and reported if it asks for that. -/
theorem ctlPump_completed {s : State} {r : CtlRun} (hruns : s.kp.ctlRun = [r]) (hdone : r.done = true)
    (herr : r.err = none) (hroom : r.cevt = true → s.evRoom = true) :
    ctlPump s = { s with
      kp := { s.kp with ctlRun := [], cdone := (s.kp.cdone + 1) % 2 ^ 32 }, evq := s.evq ++ s.ctlDone r } := by
  have htold : CtlRun.told { r with cevt := false } = true := by simp [CtlRun.told, hdone, herr]
  simp only [ctlPump, hruns, List.foldl_cons, List.foldl_nil, ctlReport_completed hruns hdone herr hroom,
    List.takeWhile_cons, htold, if_true, List.takeWhile_nil, List.length_singleton, List.drop_one, List.tail_cons]

theorem State.CtlNext.exec_note {s : State} {d : Desc} {rest : List Desc} (h : s.CtlNext d rest 0x10)
    (hnone : s.kp.ctlRun = []) (hroom : d.cevt = true → s.evRoom = true) : exec .note s = .next { s with
      kp := { s.kp with ctlTaken := rest, ctlNum := s.kp.ctlNum + 1, cdone := (s.kp.cdone + 1) % 2 ^ 32 }
      evq := s.evq ++ (if d.cevt then
        [⟨0x03, 3, d.slot, s.clk.ticks % 2 ^ 32, s.seqNow, 0x10, d.user, 0, 0⟩] else []) } := by
  have htaken : s.kp.ctlTaken.drop 1 = rest := by rw [h.1]; rfl
  refine (h.startCtl_completes (act := fun _ _ s => .done 0 s) hnone rfl rfl).trans ?_
  rw [ctlPump_completed (s := State.withRuns _ _) rfl rfl rfl hroom]
  simp only [State.withRuns, enterCtl, htaken, hnone]
  rfl

/-! ### Channels of Tender -/

theorem State.Inv.channels {s : State} (h : s.Inv) : swf Chan.idle s.td.ch = true := by
  obtain ⟨_, _, _, _, _, _, _, _, hch, _⟩ := h
  exact hch

/-! ### TDCMD (R322, R385) -/

/-- With no TND issued to a channel in this control cycle, an order finds none there to send back (R386). -/
theorem State.tndBack_self {s : State} {c : Nat} (h : s.sentNow 3 c = 0) : s.tndBack c = s := by
  simp [State.tndBack, State.meetSent_self h, h]

/-- A TDCMD that no TD_CMD of its control cycle follows acts on the channel as it is (R385). -/
theorem tdControl_eq {s : State} {c : Nat} (hsent : s.sentNow 3 c = 0)
    (hwas : ∀ w, s.td.cmdWas = some w → w.1 ≠ s.ctlCycle ∨ w.2.1 ≠ c) (op : Nat) :
    ∃ status, tdControl op c s = (status, tdCommand op c (s.order 3 c)) := by
  have hwas' : ∀ w, (s.order 3 c).td.cmdWas = some w → w.1 ≠ (s.order 3 c).ctlCycle ∨ w.2.1 ≠ c := hwas
  rw [tdControl, State.tndBack_self hsent]
  generalize s.order 3 c = t at hwas'
  dsimp only
  cases hcmd : t.td.cmdWas with
  | none => exact ⟨_, rfl⟩
  | some w =>
    obtain ⟨k, c', op', ch⟩ := w
    have hlate : (k = t.ctlCycle && c' = c) = false := by
      obtain hne | hne := hwas' _ hcmd <;> simp [hne]
    simp only [hlate, Bool.false_and, Bool.false_eq_true, if_false]
    exact ⟨_, rfl⟩

/-- A TDCMD that is RESUME or ABORT carries its order to the channel that it names. -/
theorem actTdcmd_eq {d : Desc} {s : State} {c op : Nat} (hc : c = d.w 2 % 2 * 64 + d.w 2 / 2 % 64)
    (hop : d.w 2 / 2 ^ 8 % 4 = op) (hone : op = 1 ∨ op = 2) (hsent : s.sentNow 3 c = 0)
    (hwas : ∀ w, s.td.cmdWas = some w → w.1 ≠ s.ctlCycle ∨ w.2.1 ≠ c) (num : Nat) :
    ∃ status orders, actTdcmd d num s = .done status (tdCommand op c (s.withOrders orders)) := by
  obtain ⟨status, hcontrol⟩ := tdControl_eq hsent hwas op
  obtain ⟨orders, horder⟩ := s.order_eq 3 c
  have hchan : bitsOf (d.w 2) 0 1 * 64 + bitsOf (d.w 2) 1 6 = c := by simp [bitsOf_eq, hc]
  have hop' : bitsOf (d.w 2) 8 2 = op := by rw [bitsOf_eq]; exact hop
  have hacts : (op = 0 || op = 3) = false := by obtain rfl | rfl := hone <;> rfl
  refine ⟨status, orders, ?_⟩
  rw [actTdcmd, hchan, hop', hcontrol, horder]
  simp only [hacts, Bool.false_eq_true, if_false]

section
variable {s : State} {d : Desc} {rest : List Desc} {c : Nat} (h : s.CtlNext d rest 0x0D)
  (hc : c = d.w 2 % 2 * 64 + d.w 2 / 2 % 64) (hsent : s.sentNow 3 c = 0)
  (hwas : ∀ w, s.td.cmdWas = some w → w.1 ≠ s.ctlCycle ∨ w.2.1 ≠ c)
include h hc hsent hwas

theorem State.CtlNext.exec_tdcmd_counted (hop : d.w 2 / 2 ^ 8 % 4 = 1 ∨ d.w 2 / 2 ^ 8 % 4 = 2)
    (hst : (s.chan c).st ≠ .paused) : ∃ t, exec .tdcmd s = .next t ∧
      t.cnt = (bump 0x025C s).cnt ∧ s.CtlBooks t rest ∧ t = { s with cnt := t.cnt, kp := t.kp, evq := t.evq } := by
  obtain ⟨status, orders, hact⟩ := actTdcmd_eq (s := enterCtl d [] 0 d.cevt false s) hc rfl hop hsent hwas s.kp.ctlNum
  obtain ⟨e, he⟩ : ∃ e, e = (enterCtl d [] 0 d.cevt false s).withOrders orders := ⟨_, rfl⟩
  have hst' : (e.chan c).st ≠ .paused := by rw [he]; exact hst
  have hcommand : tdCommand (d.w 2 / 2 ^ 8 % 4) c e = bump 0x025C e := if_pos (by simpa using hst')
  have hcnt : (bump 0x025C e).cnt = (bump 0x025C s).cnt := bump_cnt _ _ _ (by rw [he]; rfl) (by rw [he]; rfl)
  rw [← he, hcommand, bump_frame, hcnt] at hact
  obtain ⟨runs, ht⟩ := h.startCtl_done hact
  have hbooks := (h.ctlBooks_enterCtl.of_eq (u := { e with cnt := (bump 0x025C s).cnt }) (by rw [he]; rfl)
    (by rw [he]; rfl)).withRuns runs |>.ctlPump
  refine ⟨_, ht, ?_, hbooks, ?_⟩ <;> rw [ctlPump_frame]
  · rfl
  · rw [he]
    rfl

theorem State.CtlNext.exec_tdcmd_aborts (hwf : swf Chan.idle s.td.ch = true) (hop : d.w 2 / 2 ^ 8 % 4 = 2)
    (hst : (s.chan c).st = .paused) : ∃ t, exec .tdcmd s = .next t ∧
      (t.chan c).st = .finished ∧ (t.chan c).status = 4 ∧ s.CtlBooks t rest ∧
      t = { s with td := { s.td with ch := t.td.ch }, kp := t.kp, evq := t.evq } := by
  obtain ⟨status, orders, hact⟩ := actTdcmd_eq (s := enterCtl d [] 0 d.cevt false s) hc hop (.inr rfl) hsent hwas s.kp.ctlNum
  obtain ⟨e, he⟩ : ∃ e, e = (enterCtl d [] 0 d.cevt false s).withOrders orders := ⟨_, rfl⟩
  have hst' : (e.chan c).st = .paused := by rw [he]; exact hst
  have hcommand : tdCommand 2 c e = tdFinish c 4 e := by simp [tdCommand, hst', tdAbort]
  have hwf' : swf Chan.idle e.td.ch = true := by rw [he]; exact hwf
  obtain ⟨u, hu⟩ : ∃ u, u = tdFinish c 4 e := ⟨_, rfl⟩
  have hframe : u = { e with td := { e.td with ch := u.td.ch } } := by rw [hu]; rfl
  have hchan : u.chan c = { e.chan c with st := .finished, status := 4, reads := [], writes := [], ext := [] } := by
    rw [hu]
    exact (e.chan_setChan c c _ hwf').trans (if_pos rfl)
  rw [← he, hcommand, ← hu] at hact
  obtain ⟨runs, ht⟩ := h.startCtl_done hact
  have hbooks := (h.ctlBooks_enterCtl.of_eq (u := u) (by rw [hframe, he]; rfl) (by rw [hframe, he]; rfl)).withRuns runs
    |>.ctlPump
  refine ⟨_, ht, ?_, ?_, hbooks, ?_⟩ <;> rw [ctlPump_frame]
  · exact congrArg Chan.st hchan
  · exact congrArg Chan.status hchan
  · rw [State.withRuns, hframe, he]
    rfl

end

/-- Settles O48: FREE, NOTE and TDCMD, one lemma for each outcome. -/
theorem controlCompletes : Obligations.ControlCompletes := by
  unfold Obligations.ControlCompletes
  intro s d rest hinv
  exact ⟨fun h howed hcmds => h.exec_free hinv.buoys howed hcmds,
    fun k b h howed hcmds => h.exec_free_overrules hinv.buoys howed hcmds,
    fun h hnone hroom => h.exec_note hnone hroom,
    fun c h hc hsent hwas => ⟨fun hop hst => h.exec_tdcmd_counted hc hsent hwas hop hst,
      fun hop hst => h.exec_tdcmd_aborts hc hsent hwas hinv.channels hop hst⟩⟩

end Sys2Proof.Machine

namespace Sys2Proof.Machine

/-! ### Requests of the memory ports (R138, R319, R320) -/

/-- A far-load read goes to its port under the lowest free tag. -/
theorem grantFar_read {s : State} {p tag : Nat} {r : MemReq}
    (hfind : s.mem.farQ.find? (fun r => portOf r.iova == p) = some r) (hwr : r.wr = none)
    (htag : s.mem.freeTag p false = some tag) : grantFar p s = some { s with
      mem := { s.mem with
        farQ := s.mem.farQ.erase r, rd := s.mem.rd ++ [⟨p, tag, r.who, r.iova, r.len, none, s.clk.fab⟩] }
      out := s.out ++ [.memRead p tag r.iova r.len] } := by
  have hsame : MemPorts.freeTag { s.mem with farQ := s.mem.farQ.erase r } p false = some tag := htag
  dsimp only at hsame
  simp only [grantFar, hfind, grantMem, hwr, Option.isSome_none, hsame]

theorem exec_memRequestIssue {s : State} {p : Fin 24} (hready : s.rst.ready = true) (hstopped : s.clk.stopped = false)
    (hfenced : sget false s.mem.fenced p = false) {t : State} (hfar : grantFar p s = some t) :
    exec (.memRequestIssue p) s = .next t := by
  show execMemRequestIssue p s = _
  simp [execMemRequestIssue, hready, hstopped, hfenced, hfar]

/-- A channel that no transfer has started is no candidate for a port (R308). -/
theorem nextChannel_none {s : State} (h : s.td.ch = []) (half port : Nat) : nextChannel s half port = none := by
  have hidle (c : Nat) : (s.chan c).st = .idle := by rw [State.chan, h]; rfl
  rw [nextChannel, List.find?_eq_none]
  intro c _
  simp [hidle c]

theorem exec_memRequestIssue_none {s : State} (hfar : s.mem.farQ = []) (hlog : s.mem.logQ = []) (htd : s.td.ch = [])
    (p : Fin 24) : exec (.memRequestIssue p) s = .next s := by
  have hnofar : grantFar p s = none := by simp [grantFar, hfar]
  have hnolog : grantLog p s = none := by simp [grantLog, hlog]
  have hnohalf (half : Nat) : grantHalf half p s = none := by simp [grantHalf, nextChannel_none htd]
  show execMemRequestIssue p s = _
  simp [execMemRequestIssue, hnofar, hnolog, hnohalf]

/-! ### A channel that still waits (R311, R321) -/

/-- A channel at work that no fault or end holds. -/
def Chan.AtWork (x : Chan) (phase : Nat) : Prop := x.st = .busy ∧ x.status = 0 ∧ x.fault = none ∧ x.phase = phase

/-- A row whose reads have not all come stays in hand. -/
theorem tdAdvance_reading {s : State} {c : Nat} (hwork : (s.chan c).AtWork 1) (hwaits : ∃ r ∈ (s.chan c).reads, r.data = none) :
    tdAdvance c s = s := by
  obtain ⟨hst, hstatus, hfault, hphase⟩ := hwork
  obtain ⟨r, hr, hnone⟩ := hwaits
  have hreads : (s.chan c).reads.all (fun r => r.data.isSome) = false :=
    List.all_eq_false.2 ⟨r, hr, by simp [hnone]⟩
  simp [tdAdvance, hst, hstatus, hfault, hphase, hreads]

/-- A row whose writes have not all been served stays in hand. -/
theorem tdAdvance_writing {s : State} {c : Nat} (hwork : (s.chan c).AtWork 2) (hwaits : (s.chan c).writes ≠ []) :
    tdAdvance c s = s := by
  obtain ⟨hst, hstatus, hfault, hphase⟩ := hwork
  simp [tdAdvance, hst, hstatus, hfault, hphase, hwaits]

/-- A channel whose read `req` has been served with `bs`. -/
def Chan.served (x : Chan) (req : Nat) (bs : List Byte) : Chan :=
  { x with waited := 0, reads := x.reads.map (fun r => if r.req = req then { r with data := some bs } else r) }

/-- A served read whose row waits for another is noted, and no more. -/
theorem tdReadDone_reading {s : State} {c req : Nat} (hwf : swf Chan.idle s.td.ch = true) (hwork : (s.chan c).AtWork 1)
    (hstreams : (s.chan c).streams = false) (hwaits : ∃ r ∈ (s.chan c).reads, r.req ≠ req ∧ r.data = none)
    (bs : List Byte) : tdReadDone c req bs s = s.setChan c ((s.chan c).served req bs) := by
  obtain ⟨t, ht⟩ : ∃ t, t = s.setChan c ((s.chan c).served req bs) := ⟨_, rfl⟩
  have hchan : t.chan c = (s.chan c).served req bs := by
    rw [ht]
    exact (s.chan_setChan c c _ hwf).trans (if_pos rfl)
  have hnoline : tdCopyLine c req bs t = t := by
    refine if_pos ?_
    rw [hchan, show ((s.chan c).served req bs).streams = (s.chan c).streams from rfl, hstreams]
    rfl
  have hsame : tdAdvance c t = t := by
    obtain ⟨r, hr, hreq, hnone⟩ := hwaits
    refine tdAdvance_reading (by rw [hchan]; exact hwork) ?_
    rw [hchan]
    exact ⟨_, List.mem_map_of_mem hr, by rw [if_neg hreq]; exact hnone⟩
  rw [tdReadDone, if_pos hwork.1]
  show tdAdvance c (tdCopyLine c req bs (s.setChan c ((s.chan c).served req bs))) = _
  rw [← ht, hnoline, hsame]

/-- A channel whose write `req` has been served. -/
def Chan.wrote (x : Chan) (req : Nat) : Chan := { x with waited := 0, writes := x.writes.filter (fun w => w.1 != req) }

/-- A served write whose row waits for another is noted, and no more. -/
theorem tdWriteDone_writing {s : State} {c req : Nat} (hwf : swf Chan.idle s.td.ch = true) (hwork : (s.chan c).AtWork 2)
    (hwaits : ∃ w ∈ (s.chan c).writes, w.1 ≠ req) : tdWriteDone c req s = s.setChan c ((s.chan c).wrote req) := by
  obtain ⟨w, hw, hreq⟩ := hwaits
  have hchan : (s.setChan c ((s.chan c).wrote req)).chan c = (s.chan c).wrote req :=
    (s.chan_setChan c c _ hwf).trans (if_pos rfl)
  have hleft : ((s.chan c).wrote req).writes ≠ [] :=
    List.ne_nil_of_mem (List.mem_filter.2 ⟨hw, by simpa using hreq⟩)
  rw [tdWriteDone, if_pos hwork.1]
  show tdAdvance c (s.setChan c ((s.chan c).wrote req)) = _
  exact tdAdvance_writing (by rw [hchan]; exact hwork) (by rw [hchan]; exact hleft)

/-! ### Responses of the memory ports (R78, R321, R448) -/

/-- What a successful response to a Tender read does first: the tag is free, or its channel keeps it (R78). -/
theorem State.holdTag_frame (s : State) (x : MemTag) (c req : Nat) :
    s.holdTag x c req = { s with mem := { s.mem with held := (s.holdTag x c req).mem.held } } := by
  unfold State.holdTag
  split
  · dsimp only
    split <;> rfl
  · rfl

/-- The tag stays with a channel at work whose data a buoy keeps from its lines (R78). -/
theorem State.holdTag_held {s : State} {x : MemTag} {c req : Nat} {r : TdRead} (hst : (s.chan c).st = .busy)
    (hfind : (s.chan c).reads.find? (fun r => r.req == req) = some r) : (s.holdTag x c req).mem.held =
      if s.linesHeld ((s.chan c).dstLines r) then s.mem.held ++ [⟨x.port, x.tag, c, (s.chan c).dstLines r⟩]
      else s.mem.held := by
  have hkeeps : s.keepsTag ⟨x.port, x.tag, c, (s.chan c).dstLines r⟩ = s.linesHeld ((s.chan c).dstLines r) := by
    show ((s.chan c).st == .busy && _) = _
    rw [hst]
    rfl
  rw [State.holdTag, hfind]
  dsimp only
  rw [hkeeps]
  split <;> rfl

section
variable {s : State} {p : Fin 24} (hpor : s.rst.por = false)
include hpor

theorem exec_memReadResponse_tender {tag : BitVec 11} {bs : List Byte} (hlen : bs.length = 256) {x : MemTag}
    (hrd : s.mem.rd = [x]) (hport : x.port = p.val) (htag : x.tag = tag.toNat) {c req : Nat}
    (hwho : x.who = .tender c req) : exec (.memReadResponse p tag 0#2 bs) s =
      .next (tdReadDone c req ((bs.drop (x.iova % 256)).take x.len)
        (State.holdTag { s with mem := { s.mem with rd := [] } } x c req)) := by
  show execMemReadResponse p tag 0#2 bs s = _
  simp [execMemReadResponse, hlen, hpor, hrd, hport, htag, readAnswer, hwho]

theorem exec_memWriteAck_tender {tag : BitVec 9} {x : MemTag} (hwr : s.mem.wr = [x]) (hport : x.port = p.val)
    (htag : x.tag = tag.toNat) {c req : Nat} (hwho : x.who = .tender c req) : exec (.memWriteAck p tag 0#2) s =
      .next (tdWriteDone c req { s with mem := { s.mem with wr := [] } }) := by
  show execMemWriteAck p tag 0#2 s = _
  simp [execMemWriteAck, hpor, hwr, hport, htag, writeAnswer, hwho]

variable (hready : s.rst.ready = true) (hfenced : sget false s.mem.fenced p = false)
include hready hfenced

/-- A read tag that is not outstanding is a fault of the port. -/
theorem exec_memReadResponse_stray {bs : List Byte} (hlen : bs.length = 256) (hrd : s.mem.rd = []) (tag : BitVec 11)
    (st : BitVec 2) : exec (.memReadResponse p tag st bs) s = .next (s.memFault p 4) := by
  show execMemReadResponse p tag st bs s = _
  simp [execMemReadResponse, hlen, hpor, hrd, hready, hfenced]

theorem exec_memWriteAck_stray (hwr : s.mem.wr = []) (tag : BitVec 9) (st : BitVec 2) :
    exec (.memWriteAck p tag st) s = .next (s.memFault p 4) := by
  show execMemWriteAck p tag st s = _
  simp [execMemWriteAck, hpor, hwr, hready, hfenced]

end

section
variable {s : State} {p : Fin 24} {x : MemTag} {tag : BitVec 11} (hrd : s.mem.rd = [x])
include hrd

/-- A read unanswered for 2^20 fabric cycles is a fault of its port, and its tag waits on for the response. -/
theorem exec_memTimeout_read (hport : x.port = p.val) (htag : x.tag = tag.toNat) (hwho : x.who ≠ .expired)
    (hfenced : sget false s.mem.fenced p = false) (hlate : x.at_ + 2 ^ 20 ≤ s.clk.fab) :
    exec (.memTimeout p false tag) s =
      .next (State.memFault { s with mem := { s.mem with rd := [{ x with who := .expired }] } } p 5) := by
  show execMemTimeout p false tag s = _
  simp [execMemTimeout, hrd, hport, htag, hwho, hfenced, hlate, -Nat.reducePow]

theorem exec_memTimeout_early (hearly : s.clk.fab < x.at_ + 2 ^ 20) : exec (.memTimeout p false tag) s = .next s := by
  have hlate : ¬ x.at_ + 2 ^ 20 ≤ s.clk.fab := Nat.not_le.2 hearly
  show execMemTimeout p false tag s = _
  simp [execMemTimeout, hrd, hlate, -Nat.reducePow]

end

section
variable {s : State} {p : Fin 24} {x : MemTag} {c req : Nat} (hwf : swf Chan.idle s.td.ch = true)
  (hpor : s.rst.por = false)
include hwf hpor

/-- A response to one of several reads of a row at hand: its bytes reach the read. -/
theorem exec_memReadResponse_reading {tag : BitVec 11} {bs : List Byte} (hlen : bs.length = 256) (hrd : s.mem.rd = [x])
    (hport : x.port = p.val) (htag : x.tag = tag.toNat) (hwho : x.who = .tender c req) (hwork : (s.chan c).AtWork 1)
    (hstreams : (s.chan c).streams = false) (hwaits : ∃ r ∈ (s.chan c).reads, r.req ≠ req ∧ r.data = none) :
    ∃ t, exec (.memReadResponse p tag 0#2 bs) s = .next t ∧
      (∀ r, (s.chan c).reads.find? (fun r => r.req == req) = some r →
        t.mem.held = if s.linesHeld ((s.chan c).dstLines r) then
          s.mem.held ++ [⟨p, tag.toNat, c, (s.chan c).dstLines r⟩] else s.mem.held) ∧
      (t.chan c).reads = (s.chan c).reads.map (fun r =>
        if r.req = req then { r with data := some ((bs.drop (x.iova % 256)).take x.len) } else r) ∧
      (∀ k, k ≠ c → t.chan k = s.chan k) ∧
      t = { s with mem := { s.mem with rd := [], held := t.mem.held }, td := { s.td with ch := t.td.ch } } := by
  have hexec := exec_memReadResponse_tender hpor hlen hrd hport htag hwho
  have hframe := State.holdTag_frame { s with mem := { s.mem with rd := [] } } x c req
  have hheld (r : TdRead) (hfind : (s.chan c).reads.find? (fun r => r.req == req) = some r) :=
    State.holdTag_held (s := { s with mem := { s.mem with rd := [] } }) (x := x) (r := r) hwork.1 hfind
  generalize State.holdTag { s with mem := { s.mem with rd := [] } } x c req = u at hexec hframe hheld
  have hchan : u.chan = s.chan := by rw [hframe]; rfl
  have hch : u.td.ch = s.td.ch := by rw [hframe]
  rw [tdReadDone_reading (by rw [hch]; exact hwf) (by rw [hchan]; exact hwork) (by rw [hchan]; exact hstreams)
    (by rw [hchan]; exact hwaits)] at hexec
  have hput (k : Nat) := u.chan_setChan c k ((u.chan c).served req ((bs.drop (x.iova % 256)).take x.len))
    (by rw [hch]; exact hwf)
  refine ⟨_, hexec, fun r hr => ?_, ?_, fun k hk => ?_, ?_⟩
  · rw [← hport, ← htag]
    exact hheld r hr
  · rw [hput, if_pos rfl, hchan]
    rfl
  · rw [hput, if_neg hk, hchan]
  · rw [State.setChan, hframe]

/-- The end of one of several writes of the rows at hand. -/
theorem exec_memWriteAck_writing {tag : BitVec 9} (hwr : s.mem.wr = [x]) (hport : x.port = p.val)
    (htag : x.tag = tag.toNat) (hwho : x.who = .tender c req) (hwork : (s.chan c).AtWork 2)
    (hwaits : ∃ w ∈ (s.chan c).writes, w.1 ≠ req) : ∃ t, exec (.memWriteAck p tag 0#2) s = .next t ∧
      (t.chan c).writes = (s.chan c).writes.filter (fun w => w.1 != req) ∧ (∀ k, k ≠ c → t.chan k = s.chan k) ∧
      t = { s with mem := { s.mem with wr := [] }, td := { s.td with ch := t.td.ch } } := by
  have hexec := exec_memWriteAck_tender hpor hwr hport htag hwho
  rw [tdWriteDone_writing (s := { s with mem := { s.mem with wr := [] } }) hwf hwork hwaits] at hexec
  have hput (k : Nat) := s.chan_setChan c k ((s.chan c).wrote req) hwf
  refine ⟨_, hexec, ?_, fun k hk => (hput k).trans (if_neg hk), rfl⟩
  exact congrArg Chan.writes ((hput c).trans (if_pos rfl))

end

/-- Settles O52: requests, the two kinds of responses, stray tags and the time-out, one lemma each. -/
theorem memoryPorts : Obligations.MemoryPorts := by
  unfold Obligations.MemoryPorts
  intro s p hinv hready hpor hfenced
  refine ⟨fun r tag hstopped hfind hwr htag => ?_, fun hfar hlog htd => exec_memRequestIssue_none hfar hlog htd p,
    fun x tag bs c req hlen hrd hport htag hwho hst hstatus hfault hphase hstreams hwaits => ?_,
    fun x tag c req hwr hport htag hwho hst hstatus hfault hphase hwaits => ?_,
    fun tag st bs hlen hrd => ⟨_, exec_memReadResponse_stray hpor hready hfenced hlen hrd tag st, s.detect_detected ..⟩,
    fun tag st hwr => ⟨_, exec_memWriteAck_stray hpor hready hfenced hwr tag st, s.detect_detected ..⟩,
    fun x tag hrd hport htag hwho => ⟨fun hlate => ?_, fun hearly => exec_memTimeout_early hrd hearly⟩⟩
  · exact ⟨_, exec_memRequestIssue hready hstopped hfenced (grantFar_read hfind hwr htag), rfl, rfl, rfl, rfl⟩
  · exact exec_memReadResponse_reading hinv.channels hpor hlen hrd hport htag hwho ⟨hst, hstatus, hfault, hphase⟩ hstreams
      hwaits
  · exact exec_memWriteAck_writing hinv.channels hpor hwr hport htag hwho ⟨hst, hstatus, hfault, hphase⟩ hwaits
  · exact ⟨_, exec_memTimeout_read hrd hport htag hwho hfenced hlate, State.detect_detected ..⟩

end Sys2Proof.Machine

namespace Sys2Proof.Machine

/-! ### The watchdog's limit (R84) -/

theorem exec_buoyWatchdog_off {s : State} (h : s.stallLimit = none ∨ s.str.frozen = true) (w : Waiter) :
    exec (.buoyWatchdog w) s = .next s := by
  show execBuoyWatchdog w s = _
  rw [execBuoyWatchdog]
  obtain hlimit | hfrozen := h
  · rw [hlimit]
  · cases s.stallLimit with
    | none => rfl
    | some limit => exact if_pos hfrozen

/-! ### A stop that is asked for (R83, R115) -/

theorem State.askStop_frame (s : State) (cause : Nat) (slot : Option Nat) (buoy : Nat) :
    s.askStop cause slot buoy = { s with str := { s.str with stopWait := (s.askStop cause slot buoy).str.stopWait } } := by
  unfold State.askStop
  split <;> rfl

/-- A running stream that no stop waits for is to stop. -/
theorem State.askStop_running {s : State} (hrun : s.wrun = true) (hstop : s.streamStopped = false)
    (hnone : s.str.stopWait = none) (cause : Nat) (slot : Option Nat) (buoy : Nat) :
    s.askStop cause slot buoy = { s with str := { s.str with stopWait := some ⟨cause, slot, 0, 0, 0, buoy⟩ } } := by
  rw [State.askStop, if_neg (by simp [hrun, hstop]), State.modStr]
  simp only [hnone]

theorem State.askStop_idle {s : State} (hrun : s.wrun = false) (cause : Nat) (slot : Option Nat) (buoy : Nat) :
    s.askStop cause slot buoy = s :=
  if_pos (by simp [hrun])

/-- The least of some numbers up to a bound. -/
theorem foldl_min_spec {l : List Nat} {bound : Nat} (hne : l ≠ []) (hbound : ∀ x ∈ l, x ≤ bound) :
    l.foldl (fun m n => min m n) bound ∈ l ∧ ∀ x ∈ l, l.foldl (fun m n => min m n) bound ≤ x := by
  obtain ⟨k, hk⟩ : ∃ k, l.min? = some k := Option.isSome_iff_exists.1 (by rw [List.isSome_min?_iff]; exact hne)
  obtain ⟨hmem, hleast⟩ := List.min?_eq_some_iff.1 hk
  have hfold : l.foldl (fun m n => min m n) bound = k := by
    show l.foldl min bound = k
    rw [List.foldl_min, hk]
    exact Nat.min_eq_right (hbound k hmem)
  rw [hfold]
  exact ⟨hmem, hleast⟩

theorem State.pushOrDrop_evRoom {s : State} (h : s.evRoom = true) (e : EvRec) : s.pushOrDrop e = s.push e :=
  if_pos h

section
variable {s : State} {limit : Nat} (hlimit : s.stallLimit = some limit) (hfrozen : s.str.frozen = false)
include hlimit hfrozen

theorem exec_buoyWatchdog_stream (hrun : s.wrun = true) (hstop : s.streamStopped = false)
    (hlate : limit < s.str.buoyWait) : exec (.buoyWatchdog .stream) s =
      .next (s.askStop 5 none (s.bundleBlockers.foldl (fun m n => min m n) 255)) := by
  show execBuoyWatchdog .stream s = _
  simp [execBuoyWatchdog, hlimit, hfrozen, hrun, hstop, hlate]

theorem exec_buoyWatchdog_stream_early (hearly : s.str.buoyWait ≤ limit) : exec (.buoyWatchdog .stream) s = .next s := by
  show execBuoyWatchdog .stream s = _
  simp [execBuoyWatchdog, hlimit, hfrozen, Nat.not_lt.2 hearly]

/-! ### Moorings (R83, R381) -/

/-- A mooring's write that waits too long is reported, and its count starts afresh. -/
theorem exec_buoyWatchdog_mooring {m : Fin 64} {id : Nat} {r : AsyncReq} (hq : s.osura.q = [r]) (hwho : r.who = .mooring m id)
    (hblocked : s.buoyBlocked r = true) (hlate : limit < r.waited) (hroom : s.evRoom = true) :
    exec (.buoyWatchdog (.mooring m)) s = .next { s with
      osura := { s.osura with q := [{ r with waited := 0 }] }
      evq := s.evq ++ [s.record 0x0A (m + 256 * s.blockerOf r + 65536 * s.arrivalSrc id) 0 0 0] } := by
  obtain ⟨agent, who, addr, len, wr, passes, since, accepted, waited, checked, held, stalled⟩ := r
  obtain rfl : who = .mooring m id := hwho
  show execBuoyWatchdog (.mooring m) s = _
  simp only [execBuoyWatchdog, hlimit, hfrozen, hq, List.find?_cons, hblocked, hlate, beq_self_eq_true, decide_true,
    Bool.and_self, Bool.false_eq_true, if_false, List.map_cons, List.map_nil, if_true]
  refine congrArg Host.Outcome.next (State.pushOrDrop_evRoom ?_ _)
  exact hroom

end

/-! ### Transfers (R83, R323) -/

/-- Dropping several requests drops what is of any of them. -/
theorem Chan.foldl_drop (l : List Nat) : ∀ x : Chan, l.foldl Chan.drop x = { x with
    reads := x.reads.filter (fun r => !l.contains r.req), writes := x.writes.filter (fun w => !l.contains w.1) } := by
  induction l with
  | nil => intro x; simp
  | cons req l ih =>
    intro x
    have hkeep (k : Nat) : (!l.contains k && k != req) = !(req :: l).contains k := by
      rw [List.contains_cons, Bool.not_or, Bool.and_comm, bne]
    rw [List.foldl_cons, ih, Chan.drop]
    simp only [List.filter_filter, hkeep]

/-- A channel that is not Idle reads as it was set, whatever stands in the others. -/
theorem State.chan_setChan_self {x : Chan} (h : x.st ≠ .idle) (s : State) (c : Nat) : (s.setChan c x).chan c = x := by
  have hne : x ≠ Chan.idle := fun e => h (congrArg Chan.st e)
  rw [State.chan, State.setChan, sset, if_neg hne, sget_sput, if_pos rfl]

/-- A transfer whose status is settled ends once nothing of it is in flight (R323). -/
theorem tdAdvance_over {s : State} {c : Nat} (hst : (s.chan c).st = .busy) (hstatus : (s.chan c).status ≠ 0)
    (hquiet : (s.chan c).quiet = true) (hchunks : (s.chan c).chunks = []) :
    tdAdvance c s = tdFinish c (s.chan c).status s := by
  simp [tdAdvance, hst, hstatus, hquiet, hchunks]

/-- Giving up what no tag has taken and the one request in flight leaves nothing of a channel in flight (R83). -/
theorem Chan.unissue_drop {x : Chan} {req : Nat} (hreads : x.reads = []) (hwrites : ∀ w ∈ x.writes, w.1 = req) :
    x.unissue.drop req = { x with reads := [], writes := [], ext := [] } := by
  have hgone : x.unissue.writes.filter (fun w => w.1 != req) = [] := by
    rw [List.filter_eq_nil_iff, Chan.unissue, Chan.foldl_drop]
    intro w hw
    simpa using hwrites w (List.mem_filter.1 hw).1
  rw [Chan.drop, hgone, Chan.unissue, Chan.foldl_drop]
  simp only [hreads, List.filter_nil]

section
variable {s : State} {limit : Nat} (hlimit : s.stallLimit = some limit) (hfrozen : s.str.frozen = false)
include hlimit hfrozen

/-- A transfer with one request in flight, which waits too long, gives it up and moves on with status STALL. -/
theorem exec_buoyWatchdog_tender {c : Fin 128} {req : Nat} {r : AsyncReq} (hq : s.osura.q = [r])
    (hwho : r.who = .tender c req) (hblocked : s.buoyBlocked r = true) (hlate : limit < r.waited)
    (hstatus : (s.chan c).status = 0) : exec (.buoyWatchdog (.tender c)) s =
      .next (tdAdvance c (State.setChan { s with osura := { s.osura with q := [] } } c
        { (s.chan c).unissue.drop req with status := 3 })) := by
  obtain ⟨agent, who, addr, len, wr, passes, since, accepted, waited, checked, held, stalled⟩ := r
  obtain rfl : who = .tender c req := hwho
  have hstatus' : ((s.chan c).unissue.drop req).status = 0 := by
    rw [Chan.unissue, Chan.foldl_drop]
    exact hstatus
  show execBuoyWatchdog (.tender c) s = _
  simp [execBuoyWatchdog, hlimit, hfrozen, hq, hblocked, hlate, hstatus']

/-- That ends the transfer. -/
theorem exec_buoyWatchdog_tender_ends {c : Fin 128} {req : Nat} {r : AsyncReq} (hq : s.osura.q = [r])
    (hwho : r.who = .tender c req) (hblocked : s.buoyBlocked r = true) (hlate : limit < r.waited)
    (hst : (s.chan c).st = .busy) (hstatus : (s.chan c).status = 0) (hreads : (s.chan c).reads = [])
    (hwrites : ∀ w ∈ (s.chan c).writes, w.1 = req) (hchunks : (s.chan c).chunks = []) :
    ∃ t, exec (.buoyWatchdog (.tender c)) s = .next t ∧ (t.chan c).st = .finished ∧ (t.chan c).status = 3 ∧
      t = { s with td := { s.td with ch := t.td.ch }, osura := { s.osura with q := [] } } := by
  have hexec := exec_buoyWatchdog_tender hlimit hfrozen hq hwho hblocked hlate hstatus
  obtain ⟨x, hx⟩ : ∃ x : Chan, x = { (s.chan c).unissue.drop req with status := 3 } := ⟨_, rfl⟩
  obtain ⟨e, he⟩ : ∃ e, e = State.setChan { s with osura := { s.osura with q := [] } } c x := ⟨_, rfl⟩
  have hxst : x.st = .busy := by rw [hx, Chan.unissue_drop hreads hwrites]; exact hst
  have hxchunks : x.chunks = [] := by rw [hx, Chan.unissue_drop hreads hwrites]; exact hchunks
  have hxquiet : x.quiet = true := by rw [hx, Chan.unissue_drop hreads hwrites]; rfl
  have hxstatus : x.status = 3 := by rw [hx]
  have hchan : e.chan c = x := by
    rw [he]
    exact State.chan_setChan_self (by rw [hxst]; decide) _ _
  rw [← hx, ← he, tdAdvance_over (by rw [hchan, hxst]) (by rw [hchan, hxstatus]; decide) (by rw [hchan, hxquiet])
    (by rw [hchan, hxchunks]), hchan, hxstatus] at hexec
  have hdone : (tdFinish c 3 e).chan c =
      { e.chan c with st := .finished, status := 3, reads := [], writes := [], ext := [] } :=
    State.chan_setChan_self (show ChSt.finished ≠ .idle by decide) e c
  refine ⟨_, hexec, by rw [hdone], by rw [hdone], ?_⟩
  rw [tdFinish, State.setChan, he]
  rfl

end

/-! ### Lanterns (R83, R298, R470) -/

/-- The access of a product that waits too long (R83). -/
theorem State.lnWaiter_access {s : State} {n limit req : Nat} {r : AsyncReq} {p : LnProd}
    (hsuspended : (s.lan n).suspended = false) (hhalted : (s.lan n).halted = false) (hq : s.osura.q = [r])
    (hwho : r.who = .lantern n req) (hblocked : s.buoyBlocked r = true) (hlate : limit < r.waited)
    (hprod : (s.lan n).productOf req = some p) :
    s.lnWaiter n limit = some (p.ctl, p.slot, p.blk.evtdata, s.blockerOf r) := by
  simp [State.lnWaiter, hsuspended, hhalted, hq, hwho, hblocked, hlate, hprod]

section
variable {s : State} {n limit : Nat} (hsuspended : (s.lan n).suspended = false) (hhalted : (s.lan n).halted = false)
  (hq : s.osura.q = [])
include hsuspended hhalted hq

/-- The announce of the next product that waits too long (R83, R281). -/
theorem State.lnWaiter_announce {c : LnCmd} {rest : List LnCmd} (hwait : (s.lan n).annWait = true)
    (hlate : limit < (s.lan n).waited) (hcmds : (s.lan n).q = c :: rest) : s.lnWaiter n limit = some (c.ctl, c.slot,
      (c.start.map (·.evtdata)).getD 0, (s.annBlockers (s.lan n)).foldl (fun m x => min m x) 255) := by
  simp [State.lnWaiter, hsuspended, hhalted, hq, hwait, hlate, hcmds]

/-- A port that has fallen silent in an announced product (R470). -/
theorem State.lnWaiter_silent {p : LnProd} {ps : List LnProd} (hwait : (s.lan n).annWait = false)
    (hlate : limit < (s.lan n).quiet) (hprods : (s.lan n).prods = p :: ps) :
    s.lnWaiter n limit = some (p.ctl, p.slot, p.blk.evtdata, 0) := by
  simp [State.lnWaiter, hsuspended, hhalted, hq, hwait, hlate, hprods]

end

theorem exec_buoyWatchdog_lantern {s : State} {limit : Nat} (hlimit : s.stallLimit = some limit)
    (hfrozen : s.str.frozen = false) {n : Fin 4} {ctl : Option Nat} {slot ev buoy : Nat}
    (hwaiter : s.lnWaiter n limit = some (ctl, slot, ev, buoy)) :
    exec (.buoyWatchdog (.lantern n)) s = .next (lnStall n ctl slot ev buoy s) := by
  show execBuoyWatchdog (.lantern n) s = _
  simp [execBuoyWatchdog, hlimit, hfrozen, hwaiter]

/-- A stall suspends the Lantern, and is told to the stream or, for a chain of the Control ring, by an event (R298). -/
theorem lnStall_eq (n : Nat) (ctl : Option Nat) (slot ev buoy : Nat) (s : State) : ∃ u : State,
    u = { s.modLn n (Lantern.stalledAt ctl.isNone) with osura := { s.osura with q := u.osura.q } } ∧
      lnStall n ctl slot ev buoy s = if ctl.isSome then u.chainEv n slot false 2 ev else u.askStop 0x05 (some 8) buoy :=
  ⟨_, rfl, rfl⟩

/-- What E_STALL of a Lantern leaves, whoever started its product. -/
theorem lnStall_spec {s : State} {n : Fin 4} (hn : n.val < s.ln.length) (ctl : Option Nat) (slot ev buoy : Nat) {t : State}
    (ht : t = lnStall n ctl slot ev buoy s) :
    (t.lan n).suspended = true ∧ (t.lan n).cause = 2 ∧ (∀ m, m ≠ n.val → t.lan m = s.lan m) ∧
      (ctl = none → s.wrun = true → s.streamStopped = false → s.str.stopWait = none →
        t.str.stopWait = some ⟨5, some 8, 0, 0, 0, buoy⟩) ∧
      (ctl ≠ none ∨ s.wrun = false → t.str = s.str) ∧ (ctl = none → t.evq = s.evq) ∧
      (ctl ≠ none → s.evRoom = true → t.evq = s.evq ++
        [⟨0x06, 0, 0, s.clk.ticks % 2 ^ 32, s.seqNow, n + 4 * slot + 1024, ev, 0, 0⟩]) ∧
      (s.evRoom = true → t = { s with
        ln := t.ln, osura := { s.osura with q := t.osura.q }, evq := t.evq
        str := { s.str with stopWait := t.str.stopWait } }) := by
  obtain ⟨u, hu, hstall⟩ := lnStall_eq n ctl slot ev buoy s
  have hask := u.askStop_frame 0x05 (some 8) buoy
  have hpush := u.pushOrDrop_frame (u.record 0x06 (n + 4 * slot + 256 * bit false + 512 * 2) ev 0 0)
  have hlan : t.lan = (s.modLn n (Lantern.stalledAt ctl.isNone)).lan := by
    have hln : t.ln = u.ln := by
      rw [ht, hstall]
      split
      · rw [State.chainEv, hpush]
      · rw [hask]
    unfold State.lan
    rw [hln, hu]
  rw [hlan, State.lan_modLn_self hn]
  refine ⟨rfl, rfl, fun m hm => State.lan_modLn_ne s hm _, ?_⟩
  cases ctl with
  | none =>
    have hstall : t = u.askStop 0x05 (some 8) buoy := ht.trans hstall
    refine ⟨fun _ hrun hstop hnone => ?_, fun h => ?_, fun _ => ?_, fun h => absurd rfl h, fun _ => ?_⟩
    · rw [hstall, State.askStop_running (by rw [hu]; exact hrun) (by rw [hu]; exact hstop) (by rw [hu]; exact hnone)]
    · have hrun : s.wrun = false := h.resolve_left fun h => h rfl
      rw [hstall, State.askStop_idle (by rw [hu]; exact hrun), hu]
      rfl
    · rw [hstall, hask, hu]
      rfl
    · rw [hstall, hask, hu]
      rfl
  | some num =>
    have hstall : t = u.chainEv n slot false 2 ev := ht.trans hstall
    have hqueued (hroom : s.evRoom = true) : t = { u with
        evq := u.evq ++ [u.record 0x06 (n + 4 * slot + 256 * bit false + 512 * 2) ev 0 0] } := by
      rw [hstall, State.chainEv_evRoom (by rw [hu]; exact hroom)]
    refine ⟨fun h => absurd h (Option.some_ne_none num), fun _ => ?_, fun h => absurd h (Option.some_ne_none num),
      fun _ hroom => ?_, fun hroom => ?_⟩
    · rw [hstall, State.chainEv, hpush, hu]
      rfl
    · rw [hqueued hroom, hu]
      rfl
    · rw [hqueued hroom, hu]
      rfl

/-! ### The stop that E_STALL asked for is recorded (R115, R116) -/

/-- `t` is `s` but for scalar registers and the clusters' lanes. -/
def State.WritesResults (s t : State) : Prop := t = { s with lanes := t.lanes, str := { s.str with scal := t.str.scal } }

theorem State.WritesResults.trans {s t u : State} (h : s.WritesResults t) (g : t.WritesResults u) : s.WritesResults u := by
  unfold State.WritesResults at *
  rw [g, h]

theorem State.setScal_writesResults (s : State) (n v : Nat) : s.WritesResults (s.setScal n v) := rfl

theorem State.raiseIn_writesResults (s : State) (cl : Nat) (fl : FlagSet) : s.WritesResults (s.raiseIn cl fl) := by
  unfold State.raiseIn
  split
  · split <;> rfl
  · rfl

/-- Results on their way are written into the scalar registers and the clusters' flags, and none is left (R116). -/
theorem settleResults_frame (s : State) : ∃ t : State, s.WritesResults t ∧
    settleResults s = t.modStr (fun r => { r with scalQ := [], flagQ := [] }) := by
  refine ⟨_, ?_, rfl⟩
  refine List.foldlRecOn _ _ (List.foldlRecOn _ _ rfl fun t ht e _ => ht.trans ?_) fun t ht e _ =>
    State.WritesResults.trans ht (t.raiseIn_writesResults _ _)
  cases e.2.2 with
  | none => exact rfl
  | some v => exact t.setScal_writesResults _ _

/-- A stop of a stalled stream is recorded before the present bundle, and is resumable (R115). -/
theorem recordStop_stall {a : StopAt} {s : State} (hcause : a.cause = 5) (hmovs : s.str.movs = []) : ∃ t : State,
    recordStop a s = refuseEclipse t.settlePauses ∧ t.str.stop.cause = 5 ∧ t.str.stop.resumable = true ∧
      t.str.stop.pc = s.str.pc ∧ t.str.launch = s.str.launch ∧ t.str.stopWait = none := by
  obtain ⟨u, hu, hsettle⟩ := settleResults_frame s
  obtain ⟨v, hv⟩ : ∃ v, v = settleResults s := ⟨_, rfl⟩
  have hresumable : s.resumableCause a.cause = true := by rw [hcause]; rfl
  have hne : a.cause ≠ 3 := by rw [hcause]; decide
  have hmovs' : v.str.movs = [] := by rw [hv, hsettle, hu]; exact hmovs
  have hpc : v.str.pc = s.str.pc := by rw [hv, hsettle, hu]; rfl
  have hlaunch : v.str.launch = s.str.launch := by rw [hv, hsettle, hu]; rfl
  have hkept {w : State} (hw : w.str = v.str) :
      w.emptyLatches.str.pc = s.str.pc ∧ w.emptyLatches.str.launch = s.str.launch := by
    have hlatches : w.emptyLatches.str = w.str := by rw [State.emptyLatches_eq, State.emptyLatchesOf_frame]
    rw [hlatches, hw]
    exact ⟨hpc, hlaunch⟩
  -- a stop that names no slot draws a free value (log entry 14), which is all that the two cases differ in
  obtain hslot | ⟨n, hslot⟩ := Option.eq_none_or_eq_some a.slot
  · obtain ⟨hpc', hlaunch'⟩ := hkept (w := v.fresh) rfl
    simp only [recordStop, ← hv, if_neg hne, hresumable, hmovs', List.foldl_nil, hslot, if_true]
    exact ⟨_, rfl, hcause, rfl, hpc', hlaunch', rfl⟩
  · obtain ⟨hpc', hlaunch'⟩ := hkept (w := v) rfl
    simp only [recordStop, ← hv, if_neg hne, hresumable, hmovs', List.foldl_nil, hslot, if_true]
    exact ⟨_, rfl, hcause, rfl, hpc', hlaunch', rfl⟩

/-- A stop that waits is recorded in the stream's next cycle when nothing else holds the stream. -/
theorem streamCycle_stall {s : State} {a : StopAt} (hcause : a.cause = 5) (hwait : s.str.stopWait = some a)
    (hclear : State.StreamClear { s with str := { s.str with stopWait := none } }) (hroom : s.evRoom = true) :
    streamCycle s = (recordStop a s).advance := by
  obtain ⟨_, _, _, _, _, _, _, hwindow, hdue, hmovs, _, hbank, hspares, hspare, hstuck, _, hfar, _⟩ := hclear
  have hspares' : s.str.spareDue = [] := hspares
  have hbank' : s.str.bankStall = 0 := hbank
  have hspare' : s.str.spareStall = 0 := hspare
  have hholds : s.flushHolds = false := by
    rw [State.flushHolds, show s.flushStuck = false from hstuck]
    rfl
  have hpre : preCycle s = some (stopCycle a s) := by
    simp [preCycle, hspares', hbank', hspare', hholds, hwait, farPick_nil (s := s) hfar, waitedStop, hcause]
  have hself : s.modStr (fun t => { t with stopWait := some a }) = s := by
    rw [State.modStr, ← hwait]
  have hresumable : s.resumableCause 5 = true := rfl
  have hwindows : s.windowsOpen = false := by
    rw [State.windowsOpen, show s.str.window = [] from hwindow, show s.str.due = [] from hdue]
    rfl
  rw [streamCycle, hpre]
  simp [stopCycle, hcause, hself, hwindows, hroom, hresumable]

/-- The stream's next cycle records the stop of a stall, resumably (R83, R115). -/
theorem exec_bundleIssue_stall {s : State} {a : StopAt} (hcause : a.cause = 5) (hwait : s.str.stopWait = some a)
    (hclear : State.StreamClear { s with str := { s.str with stopWait := none } }) (hroom : s.evRoom = true) :
    ∃ t, exec .bundleIssue s = .next t ∧ t.str.stop.cause = 5 ∧ t.str.stop.resumable = true ∧
      t.str.stop.pc = s.str.pc ∧ t.str.launch = s.str.launch ∧ t.str.stopWait = none := by
  have hcycle := streamCycle_stall hcause hwait hclear hroom
  obtain ⟨hrun, hstop, _, hready, hclk, hpstate, herrs, hwindow, hdue, hmovs, _⟩ := hclear
  obtain ⟨u, hrecord, hrecorded⟩ := recordStop_stall (s := s) hcause hmovs
  have hstr : (refuseEclipse u.settlePauses).advance.str = u.str := by
    rw [State.advance_frame, refuseEclipse_frame, State.settlePauses_frame]
  refine ⟨_, (exec_bundleIssue (s := s) hrun hstop hready hclk hpstate herrs hwindow hdue).trans
    (congrArg Host.Outcome.next (hcycle.trans (congrArg State.advance hrecord))), ?_⟩
  rw [hstr]
  exact hrecorded

/-- Settles O41: each waiter's own effect, and the stop that the stream then records. -/
theorem watchdogStalls : Obligations.WatchdogStalls := by
  unfold Obligations.WatchdogStalls
  refine fun s => ⟨exec_buoyWatchdog_off, fun limit hlimit hfrozen => ⟨fun hrun hstop hlate hnone => ?_,
    exec_buoyWatchdog_stream_early hlimit hfrozen, fun m id r hq hwho hblocked hlate hroom => ?_,
    fun c req r hq hwho hblocked hlate hst hstatus hreads hwrites hchunks => ?_,
    fun n ctl slot ev buoy hn hsuspended hhalted hwaits => ?_⟩,
    fun a hcause hwait hclear hroom => exec_bundleIssue_stall hcause hwait hclear hroom⟩
  · refine ⟨_, foldl_min_spec, ?_⟩
    rw [exec_buoyWatchdog_stream hlimit hfrozen hrun hstop hlate, State.askStop_running hrun hstop hnone]
  · refine ⟨_, _, exec_buoyWatchdog_mooring hlimit hfrozen hq hwho hblocked hlate hroom, rfl, rfl, ?_, rfl⟩
    show (m.val + 256 * s.blockerOf r + 65536 * s.arrivalSrc id) % 256 = m.val
    omega
  · exact exec_buoyWatchdog_tender_ends hlimit hfrozen hq hwho hblocked hlate hst hstatus hreads hwrites hchunks
  · have hwaiter : s.lnWaiter n limit = some (ctl, slot, ev, buoy) := by
      obtain ⟨hq, hann, hlate, c, rest, hcmds, rfl, rfl, rfl, rfl⟩ |
        ⟨hq, hann, hlate, p, ps, hprods, rfl, rfl, rfl, rfl⟩ |
        ⟨r, req, p, hq, hwho, hblocked, hlate, hprod, rfl, rfl, rfl, rfl⟩ := hwaits
      · exact State.lnWaiter_announce hsuspended hhalted hq hann hlate hcmds
      · exact State.lnWaiter_silent hsuspended hhalted hq hann hlate hprods
      · exact State.lnWaiter_access hsuspended hhalted hq hwho hblocked hlate hprod
    exact ⟨_, exec_buoyWatchdog_lantern hlimit hfrozen hwaiter, lnStall_spec hn ctl slot ev buoy rfl⟩

end Sys2Proof.Machine

namespace Sys2Proof.Machine

/-! ### END_COMPLETE (R100, R374) -/

theorem State.fenceDone_clear {s : State} (hwindow : s.str.window = []) (hdue : s.str.due = []) (hcb : s.osura.cb = [])
    (hcarry : s.str.carry = []) (hq : ∀ r ∈ s.osura.q, ∀ pc cl w age, r.who ≠ .flush pc cl w age) : s.fenceDone = true := by
  simp only [State.fenceDone, State.unserved, hwindow, hdue, hcb, hcarry]
  refine List.all_eq_true.2 fun r hr => ?_
  split
  next pc cl w age hwho => exact absurd hwho (hq r hr pc cl w age)
  next => rfl

/-- Settles O29: with nothing of the program still to come, WORK_DONE is queued and the launch is over. -/
theorem endCompletes : Obligations.EndCompletes := by
  unfold Obligations.EndCompletes
  intro s l hlaunch hended hstop hroom hwindow hdue hcb hcarry hmovs hscal hflag hprods hfar hwait htrap htrapWait hbank
    hspare hquiet hq
  have hover : s.programOver = true := by
    simp [State.programOver, State.resultsAhead, State.windowsOpen, State.fenceDone_clear hwindow hdue hcb hcarry hq, hwait,
      hfar, htrapWait, htrap, hbank, hspare, hmovs, hscal, hflag, hwindow, hdue, hprods, hquiet]
  have hrun : s.wrun = true := by simp [State.wrun, hlaunch]
  refine ⟨((endLaunch (s.push (s.launchRecord 0x01 1 l.user 0 0))).modStr (fun t => { t with
    stop := { StopRec.blank with pc := s.str.pc, cause := 1 } })), ?_, ?_, rfl, rfl, rfl, rfl, rfl, rfl, rfl⟩
  · show execEndComplete s = _
    simp only [execEndComplete, hrun, hended, hstop, hroom, hover, hlaunch]
    rfl
  · show s.evq ++ [s.launchRecord 0x01 1 l.user 0 0] = _
    simp only [State.launchRecord, State.record, State.seqNow, hlaunch]
    rfl
end Sys2Proof.Machine

namespace Sys2Proof.Machine

/-! ### The checks of a bundle do not look at a pause (R114, R115) -/

/-- The stream with a pause asked for, or not. -/
def State.withPause (s : State) (p : Bool) : State := s.modStr (fun t => { t with pauseReq := p })

theorem State.withPause_sameStore (s : State) (p : Bool) : s.SameStore (s.withPause p) := ⟨rfl, rfl, rfl⟩

theorem State.headerAt_withPause (s : State) (p : Bool) (a : Nat) : (s.withPause p).headerAt a = s.headerAt a := by
  unfold State.headerAt
  rw [(s.withPause_sameStore p).readRun_fst]
  rfl

theorem State.readStream_withPause (s : State) (p : Bool) (a len : Nat) :
    (s.withPause p).readStream a len = s.readStream a len := by
  unfold State.readStream
  rw [(s.withPause_sameStore p).readRun_fst]
  rfl

theorem State.blockBytes_withPause (s : State) (p : Bool) (a len : Nat) :
    (s.withPause p).blockBytes none a len = s.blockBytes none a len :=
  s.readStream_withPause p a len

theorem fusBlockLen_withPause (s : State) (p : Bool) (op a : Nat) : fusBlockLen (s.withPause p) op a = fusBlockLen s op a := by
  unfold fusBlockLen
  rw [State.readStream_withPause]

theorem fusLoad_withPause (s : State) (p : Bool) (n slot a : Nat) :
    fusLoad (s.withPause p) n slot a none = fusLoad s n slot a none := by
  unfold fusLoad
  simp only [State.blockBytes_withPause]
  rfl

theorem fusStart_withPause (s : State) (p : Bool) (n slot a : Nat) (prof : Option Profile) :
    fusStart (s.withPause p) n slot a none prof = fusStart s n slot a none prof := by
  unfold fusStart
  simp only [State.blockBytes_withPause]
  rfl

theorem tndXfer_withPause (s : State) (p : Bool) (f : TndSlot) : tndXfer (s.withPause p) f = tndXfer s f := by
  unfold tndXfer
  simp only [State.readStream_withPause]
  rfl

theorem tndCheck_withPause (s : State) (p : Bool) (f : TndSlot) : tndCheck (s.withPause p) f = tndCheck s f := by
  unfold tndCheck
  rw [tndXfer_withPause]
  rfl

theorem ctlPlaceBad_withPause (s : State) (p : Bool) (len : Nat) (off : Bool) (f : CtlSlot) :
    ctlPlaceBad (s.withPause p) len off f = ctlPlaceBad s len off f := by
  unfold ctlPlaceBad
  simp only [State.headerAt_withPause]
  rfl

theorem boundsBad_withPause (s : State) (p : Bool) : boundsBad (s.withPause p) = boundsBad s := by
  funext o
  cases o with
  | fus f =>
    simp only [boundsBad, fusBlockLen_withPause, fusLoad_withPause, fusStart_withPause]
    rfl
  | tnd f =>
    simp only [boundsBad, tndCheck_withPause]
    rfl
  | _ => rfl

theorem chainBad_withPause (s : State) (p : Bool) : chainBad (s.withPause p) = chainBad s := by
  funext o
  cases o with
  | fus f =>
    simp only [chainBad, fusBlockLen_withPause, fusLoad_withPause, fusStart_withPause]
    rfl
  | _ => rfl

theorem checkBundle_withPause (s : State) (p : Bool) (b : Bundle) (len : Nat) :
    checkBundle (s.withPause p) b len = checkBundle s b len := by
  unfold checkBundle
  simp only [ctlPlaceBad_withPause, tndCheck_withPause, boundsBad_withPause, chainBad_withPause]
  rfl


/-! ### A pause stops the stream before its next bundle (R115, R375, R428) -/

theorem exec_keeperPause {s : State} (hready : s.rst.ready = true) :
    exec .keeperPause s = .next { (askPause s).order 5 0 with out := (askPause s).out ++ [.regWrote false] } :=
  congrArg Host.Outcome.next (State.hostWrite_ready hready cmdPause)

theorem exec_keeperResume {s : State} (hready : s.rst.ready = true) :
    exec .keeperResume s = .next { cmdResume s with out := (cmdResume s).out ++ [.regWrote false] } :=
  congrArg Host.Outcome.next (State.hostWrite_ready hready cmdResume)

/-- A bundle that no error falls on stops the stream when a pause has been asked for, whether it waits or not. -/
theorem bundleCycle_paused {s : State} {b : Bundle} {len : Nat} {ops : List (Nat × SlotOp)}
    (hcheck : checkBundle s b len = .ok ops) (hpause : s.str.pauseReq = true)
    (hopen : ∀ x ∈ ops, armBad s x.2 = false ∧ darkBad s x.2 = false) :
    bundleCycle b len s = stopCycle (.plain 2) s := by
  have harm : ops.find? (fun x => armBad s x.2) = none := List.find?_eq_none.2 fun x hx => by simp [(hopen x hx).1]
  have hdark : ops.find? (fun x => darkBad s x.2) = none := List.find?_eq_none.2 fun x hx => by simp [(hopen x hx).2]
  simp only [bundleCycle, hcheck, harm, hdark, hpause, if_true, ite_self]

/-- With no MOV under way, a pause is recorded as a resumable stop before the present bundle, and queues its event. -/
theorem recordStop_pause {a : StopAt} {s : State} (hcause : a.cause = 2) (hslot : a.slot = none) (hmovs : s.str.movs = []) :
    ∃ t : State, recordStop a s = refuseEclipse t.settlePauses ∧ t.str.stop.cause = 2 ∧ t.str.stop.pc = s.str.pc ∧
      t.str.stop.resumable = true ∧ t.str.pauseReq = false ∧ t.str.launch = s.str.launch ∧
      ∃ r ∈ t.evq, r.typ = 7 ∧ r.p0 = 2 ∧ r.p2 = s.str.pc := by
  obtain ⟨u, hu, hsettle⟩ := settleResults_frame s
  obtain ⟨v, hv⟩ : ∃ v, v = settleResults s := ⟨_, rfl⟩
  have hresumable : s.resumableCause a.cause = true := by rw [hcause]; rfl
  have hne : a.cause ≠ 3 := by rw [hcause]; decide
  have hmovs' : v.str.movs = [] := by rw [hv, hsettle, hu]; exact hmovs
  have hlatches : v.fresh.emptyLatches.str = v.str := by rw [State.emptyLatches_eq, State.emptyLatchesOf_frame]; rfl
  have hpc : v.fresh.emptyLatches.str.pc = s.str.pc := by rw [hlatches, hv, hsettle, hu]; rfl
  have hlaunch : v.fresh.emptyLatches.str.launch = s.str.launch := by rw [hlatches, hv, hsettle, hu]; rfl
  simp only [recordStop, ← hv, if_neg hne, hresumable, hmovs', List.foldl_nil, hslot, if_true]
  exact ⟨_, rfl, hcause, hpc, rfl, rfl, hlaunch, _, List.mem_append_right _ (List.mem_singleton_self _), rfl, hcause, hpc⟩

theorem refuseEclipse_eclipse (s : State) : (refuseEclipse s).rst.eclipse = none := by
  unfold refuseEclipse
  split
  next h => exact h
  next =>
    dsimp only
    rw [ctlPump_frame]

/-- The cycle in which a pause is recorded. -/
theorem stopCycle_pause {s : State} (hclear : s.StreamClear) (hroom : s.evRoom = true) {t : State}
    (ht : t = stopCycle (.plain 2) s) : t.str.stop.cause = 2 ∧ t.str.stop.pc = s.str.pc ∧ t.str.stop.resumable = true ∧
      t.str.pauseReq = false ∧ t.rst.eclipse = none ∧ t.wrun = true ∧
      (∃ r ∈ t.evq, r.typ = 7 ∧ r.p0 = 2 ∧ r.p2 = s.str.pc) := by
  obtain ⟨hrun, _, _, _, _, _, _, hwindow, hdue, hmovs, _⟩ := hclear
  obtain ⟨u, hu⟩ : ∃ u, u = s.modStr (fun t => { t with stopWait := some (.plain 2) }) := ⟨_, rfl⟩
  obtain ⟨v, hrecord, hcause, hpc, hresumable, hpause, hlaunch, r, hr, hevent⟩ := recordStop_pause (a := .plain 2) (s := u)
    rfl rfl (by rw [hu]; exact hmovs)
  have hcycle : t = (refuseEclipse v.settlePauses).advance := by
    have hroom' : u.evRoom = true := by rw [hu]; exact hroom
    have hwindows : u.windowsOpen = false := by rw [hu]; simp [State.windowsOpen, State.modStr, hwindow, hdue]
    have hresumable' : u.resumableCause (StopAt.plain 2).cause = true := rfl
    have hne3 : (StopAt.plain 2).cause ≠ 3 := by decide
    rw [ht, ← hrecord]
    simp only [stopCycle, if_neg hne3, ← hu, hresumable', hwindows, hroom', Bool.not_true, Bool.false_and, Bool.or_false,
      Bool.false_eq_true, if_false]
  have hstr : t.str = v.str := by rw [hcycle, State.advance_frame, refuseEclipse_frame, State.settlePauses_frame]
  have hevq : t.evq = (refuseEclipse v.settlePauses).evq := by rw [hcycle, State.advance_frame]
  have heclipse : t.rst.eclipse = none := by
    rw [hcycle, State.advance_frame]
    exact refuseEclipse_eclipse _
  have hwrun : t.wrun = true := by
    rw [State.wrun, hstr, hlaunch, hu]
    exact hrun
  rw [hstr, hevq]
  rw [hu] at hpc hevent
  exact ⟨hcause, hpc, hresumable, hpause, heclipse, hwrun, r,
    (v.settlePauses_evq.trans (refuseEclipse_evq _)).subset hr, hevent⟩

/-- Settles O31: PAUSE, the bundle that it stops the stream before, and RESUME, each with the case where it is ignored. -/
theorem pauseAndResume : Obligations.PauseAndResume := by
  unfold Obligations.PauseAndResume
  intro s hready
  refine ⟨fun hrun hstop hended => ?_, fun b len ops hissue hpause hroom hopen => ?_, fun hidle => ?_,
    fun hrun hresumable hmovs hrest => ?_, fun hidle => ?_⟩
  · refine ⟨_, exec_keeperPause hready, ?_⟩
    have hask : askPause s = s.modStr (fun t => { t with pauseReq := true }) := if_pos (by simp [hrun, hstop, hended])
    rw [hask]
    rfl
  · obtain ⟨hclear, _, _, hearliest, halign, hpc, hhere, hcheck⟩ := hissue
    have hclear' : s.StreamClear := hclear
    have hcheck' : checkBundle s b len = .ok ops := (checkBundle_withPause s false b len).symm.trans hcheck
    have hcycle := exec_bundleIssue_bundle hclear' (fun _ => hearliest) halign hpc hhere
    rw [bundleCycle_paused hcheck' hpause hopen] at hcycle
    exact ⟨_, hcycle, stopCycle_pause hclear' hroom rfl⟩
  · refine ⟨_, exec_keeperPause hready, ?_⟩
    have hask : askPause s = s := if_neg (by simpa [and_assoc] using hidle)
    rw [hask]
    rfl
  · obtain ⟨o, ho⟩ : ∃ o, o = s.order 6 0 := ⟨_, rfl⟩
    have hmovs' : o.str.movs = [] := by rw [ho]; exact hmovs
    obtain ⟨q, hq⟩ := lnResume_eq (s := resumeStream o) (by rw [resumeStream_eq hmovs', ho]; exact hrest)
    have hcmd : cmdResume s = lnResume (resumeStream o) := by
      have hrun' : o.wrun = true := by rw [ho]; exact hrun
      have hresumable' : o.str.stop.resumable = true := by rw [ho]; exact hresumable
      simp [cmdResume, hrun, hresumable, ← ho, askResume, hrun', hresumable']
    refine ⟨_, exec_keeperResume hready, ?_⟩
    rw [hcmd, hq, resumeStream_eq hmovs', ho]
    exact ⟨rfl, rfl, rfl⟩
  · have hcmd : cmdResume s = s := by
      have hno : (s.wrun && s.str.stop.resumable) = false := by
        rw [Bool.eq_false_iff]
        simpa using hidle
      simp [cmdResume, askResume, hno]
    rw [exec_keeperResume hready, hcmd]

end Sys2Proof.Machine

namespace Sys2Proof.Machine

/-! ### What an issuing bundle keeps its books with (R107 to R112, R505 to R510) -/

/-- `t` is `s` but for the books of an issue: counters, the trace, the hazard board, what waits have counted, and where
fetch and issue stand. -/
def State.Books (s t : State) : Prop :=
  t = { s with
    cnt := t.cnt, trc := t.trc, osura := { s.osura with q := t.osura.q }
    str := { s.str with
      pc := t.str.pc, icyc := t.str.icyc, fetchPc := t.str.fetchPc, fetched := t.str.fetched, fetchGen := t.str.fetchGen
      board := t.str.board, unitFree := t.str.unitFree, movNext := t.str.movNext, buoyWait := t.str.buoyWait
      looked := t.str.looked, trapWait := t.str.trapWait } }

/-- `t` is `s` but for the books of an issue and the results of a vector or scalar operation, written or on their way. -/
def State.Issuing (s t : State) : Prop :=
  t = { s with
    lanes := t.lanes, cnt := t.cnt, trc := t.trc, osura := { s.osura with q := t.osura.q }
    str := { s.str with
      pc := t.str.pc, icyc := t.str.icyc, fetchPc := t.str.fetchPc, fetched := t.str.fetched, fetchGen := t.str.fetchGen
      board := t.str.board, unitFree := t.str.unitFree, movNext := t.str.movNext, buoyWait := t.str.buoyWait
      looked := t.str.looked, trapWait := t.str.trapWait
      scal := t.str.scal, scalQ := t.str.scalQ, flagQ := t.str.flagQ, tags := t.str.tags } }

theorem State.Books.refl (s : State) : s.Books s := rfl

theorem State.Books.trans {s t u : State} (h : s.Books t) (g : t.Books u) : s.Books u := by
  unfold State.Books at *
  rw [g, h]

theorem State.Issuing.trans {s t u : State} (h : s.Issuing t) (g : t.Issuing u) : s.Issuing u := by
  unfold State.Issuing at *
  rw [g, h]

theorem State.Books.issuing {s t : State} (h : s.Books t) : s.Issuing t := by
  unfold State.Issuing
  rw [h]

/-- Books that are kept while issue stays where it is. -/
def State.BooksHere (s t : State) : Prop := s.Books t ∧ t.str.pc = s.str.pc ∧ t.str.icyc = s.str.icyc

theorem State.BooksHere.refl (s : State) : s.BooksHere s := ⟨rfl, rfl, rfl⟩

theorem State.BooksHere.trans {s t u : State} (h : s.BooksHere t) (g : t.BooksHere u) : s.BooksHere u := by
  obtain ⟨hbooks, hpc, hicyc⟩ := h
  obtain ⟨gbooks, gpc, gicyc⟩ := g
  exact ⟨hbooks.trans gbooks, gpc.trans hpc, gicyc.trans hicyc⟩

theorem bump_booksHere (o : Nat) (s : State) : s.BooksHere (bump o s) := by
  rw [bump_frame]
  exact ⟨rfl, rfl, rfl⟩

theorem bumpWide_booksHere (o n : Nat) (s : State) : s.BooksHere (bumpWide o n s) := by
  rw [bumpWide_frame]
  exact ⟨rfl, rfl, rfl⟩

theorem bumpCl_frame (kind pc n : Nat) (s : State) : bumpCl kind pc n s = { s with cnt := (bumpCl kind pc n s).cnt } := by
  unfold bumpCl
  split <;> rfl

theorem bumpCl_booksHere (kind pc n : Nat) (s : State) : s.BooksHere (bumpCl kind pc n s) := by
  rw [bumpCl_frame]
  exact ⟨rfl, rfl, rfl⟩

theorem traceLine_booksHere (s : State) : s.BooksHere (traceLine s) := by
  unfold traceLine
  split
  · exact ⟨rfl, rfl, rfl⟩
  · exact .refl s

theorem traceIssue_booksHere (s : State) : s.BooksHere (traceIssue s) := by
  unfold traceIssue
  extract_lets t jump u
  split
  · exact .refl s
  · split
    · exact bump_booksHere _ s
    · have hu : s.BooksHere u := ⟨rfl, rfl, rfl⟩
      exact hu.trans (traceLine_booksHere u)

theorem countIssue_booksHere (s : State) : s.BooksHere (countIssue s) := by
  have hwide := bumpWide_booksHere 0x0110 1 s
  unfold countIssue
  dsimp only
  split
  · refine List.foldlRecOn _ _ hwide fun t ht cl _ => ht.trans ?_
    split
    · exact bumpCl_booksHere _ _ _ t
    · exact .refl t
  · exact hwide

theorem dropFetched_booksHere (s : State) : s.BooksHere (dropFetched s) := by
  unfold dropFetched refetch
  split
  · exact .refl s
  · split <;> exact ⟨rfl, rfl, rfl⟩

/-! ### Results on their way land (R98, R111, R197) -/

/-- A scalar result is written in the issue cycle after its write cycle has begun, once it is known (R98). -/
def scalDue (icyc : Nat) (e : Nat × Nat × Option Nat) : Bool := e.1 < icyc && e.2.2.isSome

theorem landScals_eq (s : State) : landScals s = s.modStr (fun t => { t with
    scal := (t.scalQ.filter (scalDue t.icyc)).foldl (fun m e => sset 0#64 m e.2.1 (BitVec.ofNat 64 (e.2.2.getD 0))) t.scal
    scalQ := t.scalQ.filter (fun e => !scalDue t.icyc e) }) := by
  have hwrites (l : List (Nat × Nat × Option Nat)) : ∀ s : State, l.foldl (fun s e => s.setScal e.2.1 (e.2.2.getD 0)) s =
      s.modStr (fun t => { t with
        scal := l.foldl (fun m e => sset 0#64 m e.2.1 (BitVec.ofNat 64 (e.2.2.getD 0))) t.scal }) := by
    induction l with
    | nil => exact fun s => rfl
    | cons e l ih => exact fun s => ih _
  exact hwrites _ _

/-- `t` is `s` but for the clusters' lanes. -/
def State.LanesOnly (s t : State) : Prop := t = { s with lanes := t.lanes }

theorem State.LanesOnly.refl (s : State) : s.LanesOnly s := rfl

theorem State.LanesOnly.trans {s t u : State} (h : s.LanesOnly t) (g : t.LanesOnly u) : s.LanesOnly u := by
  unfold State.LanesOnly at *
  rw [g, h]

theorem State.modLane_lanesOnly (s : State) (pc : Nat) (f : Lanes → Lanes) : s.LanesOnly (s.modLane pc f) := rfl

theorem State.raiseIn_lanesOnly (s : State) (cl : Nat) (fl : FlagSet) : s.LanesOnly (s.raiseIn cl fl) := by
  unfold State.raiseIn
  split
  · split
    · exact .refl s
    · exact s.modLane_lanesOnly _ _
  · exact .refl s

/-- Flags whose write cycle has come. -/
def State.flagsDue (s : State) : List (Nat × FlagSet) := s.str.flagQ.filter (fun e => e.1 / 64 < s.str.icyc)

/-- The flags on their way without those whose write cycle has come. -/
def State.flagsTaken (s : State) : State :=
  s.modStr (fun t => { t with flagQ := t.flagQ.filter (fun e => !(e.1 / 64 < t.icyc)) })

theorem landFlags_eq (s : State) : landFlags s = s.flagsDue.foldl (fun s e => s.raiseIn (e.1 % 64) e.2) s.flagsTaken := rfl

theorem landFlags_lanesOnly (s : State) : s.flagsTaken.LanesOnly (landFlags s) := by
  rw [landFlags_eq]
  exact List.foldlRecOn _ _ (.refl _) fun t ht e _ => ht.trans (t.raiseIn_lanesOnly _ _)

/-! ### The end of an issue cycle (R98, R101, R108) -/

/-- No MOV is under way, no store waits at a coalescing buffer, and no fence, branch, loop or END bends the stream's
course. -/
def State.Straight (s : State) : Prop :=
  s.str.movs = [] ∧ s.flushStuck = false ∧ s.str.fence = false ∧ s.str.ended = false ∧ s.str.branch = none ∧
    s.loopsOver s.str.pc = []

theorem State.Issuing.straight {s t : State} (h : s.Issuing t) (hpc : t.str.pc = s.str.pc) (hs : s.Straight) : t.Straight := by
  have hloops : t.loopsOver = s.loopsOver := by rw [h]; rfl
  have hstuck : t.flushStuck = s.flushStuck := by rw [h]; rfl
  unfold State.Straight at *
  rw [hloops, hstuck, hpc, h]
  exact hs

theorem flushMusts_unstuck {s : State} (hstuck : s.flushStuck = false) (pc : Nat) : flushMusts pc s = s := by
  have hnone : (sget [] s.osura.cb pc).filter (·.must) = [] := by
    refine List.filter_eq_nil_iff.2 fun e he => ?_
    have hmem : (pc, sget [] s.osura.cb pc) ∈ s.osura.cb := mem_of_sget_ne fun h => by simp [h] at he
    simp only [State.flushStuck, Bool.or_eq_false_iff, List.any_eq_false] at hstuck
    exact fun hmust => hstuck.2 _ hmem (List.any_eq_true.2 ⟨e, he, hmust⟩)
  rw [flushMusts, hnone]
  rfl

theorem flushPump_unstuck {s : State} (hstuck : s.flushStuck = false) : flushPump s = s := by
  have hmusts : s.cbOrder.foldl (fun s pc => flushMusts pc s) s = s :=
    List.foldlRecOn (motive := fun t => t = s) _ _ rfl fun t ht pc _ => by rw [ht]; exact flushMusts_unstuck hstuck pc
  have hcarry : s.str.carry = [] := by
    simp only [State.flushStuck, Bool.or_eq_false_iff] at hstuck
    simpa using hstuck.1
  rw [flushPump, hmusts, hcarry, carryPump, State.modStr, ← hcarry]

/-- With no MOV under way nothing enters a window. -/
theorem movEnter_self {s : State} (hmovs : s.str.movs = []) (hstuck : s.flushStuck = false) : movEnter [] s = s := by
  obtain ⟨u, hu⟩ : ∃ u, u = s.modStr (fun t => { t with window := t.window ++ [], movs := [] }) := ⟨_, rfl⟩
  have hself : u = s := by rw [hu, State.modStr, List.append_nil, ← hmovs]
  have hclusters (l : List Nat) : l.foldl (fun s _ => s) s = s := List.foldlRecOn (motive := fun t => t = s) _ _ rfl fun t ht _ _ => ht
  have henter : movEnter [] s = flushPump u := by
    rw [hu]
    simp [movEnter, hmovs, hclusters, State.modStr]
  rw [henter, hself, flushPump_unstuck hstuck]

theorem advancePc_straight {s : State} (h : s.Straight) (end_ : Nat) :
    advancePc end_ s = s.modStr (fun t => { t with pc := end_ }) := by
  obtain ⟨_, _, _, _, hbranch, hloops⟩ := h
  simp [advancePc, hloops, hbranch, State.modStr]

theorem nextIssue_straight {s : State} (hmovs : s.str.movs = []) :
    nextIssue s = landFlags (landScals (s.modStr (fun t => { t with icyc := t.icyc + 1 }))) := by
  simp [nextIssue, land, State.modStr, hmovs]

/-! ### A bundle of one slot issues (R98, R107 to R112) -/

/-- The bundle at the pc issues before its operations take effect: the trace has it, and its reads and writes are on the
hazard board. -/
def State.entered (s : State) (n : Nat) (o : SlotOp) : State :=
  ((traceIssue s).modStr (fun st => { st with
    movNext := s.str.movNext + 10
    board := st.board.filter (fun e => if e.isWrite then s.str.icyc < e.ready else s.str.icyc ≤ e.last)
    buoyWait := 0, looked := false })).modStr (boardAdd s.str.icyc (slotUse s n o))

theorem State.entered_booksHere (s : State) (n : Nat) (o : SlotOp) : s.BooksHere (s.entered n o) := by
  have hboard (t : State) (f : Stream → Stream) (hf : ∀ r : Stream, f r = { r with
      board := (f r).board, unitFree := (f r).unitFree, movNext := (f r).movNext, buoyWait := (f r).buoyWait
      looked := (f r).looked }) : t.BooksHere (t.modStr f) := by
    unfold State.BooksHere State.Books State.modStr
    dsimp only
    rw [hf]
    exact ⟨rfl, rfl, rfl⟩
  exact ((traceIssue_booksHere s).trans (hboard _ _ fun _ => rfl)).trans (hboard _ _ fun _ => rfl)

/-- After the operations of a bundle that ends at `end_` the cycle is counted and issue moves on. -/
def State.issued (s : State) (end_ wait : Nat) : State :=
  let s := countIssue (s.modStr (fun st => { st with trapWait := wait }))
  dropFetched (nextIssue (advancePc end_ { s with trc := { s.trc with lastPc := some end_ } }))

/-- Issue moves on, and what was due in the next issue cycle lands. -/
theorem State.issued_eq {s : State} (h : s.Straight) (end_ wait : Nat) : ∃ u, s.Books u ∧ u.str.pc = end_ ∧
    u.str.icyc = s.str.icyc + 1 ∧ s.issued end_ wait = dropFetched (landFlags (landScals u)) := by
  obtain ⟨v, hv⟩ : ∃ v, v = s.modStr (fun st => { st with trapWait := wait }) := ⟨_, rfl⟩
  have hbooks : s.BooksHere v := by rw [hv]; exact ⟨rfl, rfl, rfl⟩
  obtain ⟨w, hw⟩ : ∃ w, w = { countIssue v with trc := { (countIssue v).trc with lastPc := some end_ } } := ⟨_, rfl⟩
  have hcounted : v.BooksHere w := by
    rw [hw]
    exact (countIssue_booksHere v).trans ⟨rfl, rfl, rfl⟩
  obtain ⟨gbooks, gpc, gicyc⟩ := hbooks.trans hcounted
  have hw' := gbooks.issuing.straight gpc h
  refine ⟨(w.modStr (fun t => { t with pc := end_ })).modStr (fun t => { t with icyc := t.icyc + 1 }),
    gbooks.trans rfl, rfl, congrArg (· + 1) gicyc, ?_⟩
  have hmovs : (w.modStr (fun t => { t with pc := end_ })).str.movs = [] := hw'.1
  rw [State.issued, ← hv, ← hw, advancePc_straight hw', nextIssue_straight hmovs]

end Sys2Proof.Machine

namespace Sys2Proof.Machine

/-- What a CTL operation or a vector operation does as it issues, alone in its bundle. -/
def State.operated (s : State) (n : Nat) (o : SlotOp) : State :=
  let results := (slotResult s n o).toList
  let put := fun t r => putResult s.str.movNext r t
  let t := match o with
    | .ctl f => ctlEffect s f (s.entered n o)
    | .vec q => if n = 1 || n = 2 then latchAll (n - 1) q (slotTiming s n o).1 (s.entered n o) else s.entered n o
    | _ => s.entered n o
  takeTraps results ((results.filter (5 ≤ ·.slot)).foldl put ((results.filter (·.slot < 5)).foldl put t))

theorem issueBundle_alone {s : State} {n len : Nat} {o : SlotOp} (ho : (∃ f, o = .ctl f ∧ f.op ≤ 0x0D) ∨ ∃ q, o = .vec q)
    (hstraight : (s.operated n o).Straight) : ∃ wait,
    issueBundle [(n, o)] len s = (s.operated n o).issued (s.str.pc + len) wait := by
  unfold issueBundle
  extract_lets end_ base t uses results s1 s2 s3 s4 s5 s6 s7 s8 s9 checked wait v w counted _ left next
  have hresults : results = (slotResult s n o).toList := by cases h : slotResult s n o <;> simp [results, h]
  clear_value results
  have h9 : s9 = s.operated n o := by
    unfold State.operated
    rw [← hresults]
    obtain ⟨f, rfl, _⟩ | ⟨q, rfl⟩ := ho <;> rfl
  have hsst : ((ctlOf [(n, o)]).map (sstAcc s)).getD [] = [] := by
    obtain ⟨f, rfl, hop⟩ | ⟨q, rfl⟩ := ho
    · exact if_neg (by omega)
    · rfl
  have hnext : next = advancePc end_ left := by
    obtain ⟨f, rfl, hop⟩ | ⟨q, rfl⟩ := ho
    · exact (if_neg (by omega)).trans (if_neg (by omega))
    · rfl
  generalize s.operated n o = m at h9 hstraight ⊢
  have hv : v = m.modStr (fun st => { st with trapWait := wait }) := by
    simp only [v, hsst, h9]
    exact movEnter_self hstraight.1 hstraight.2.1
  clear_value v
  have hbooks : m.BooksHere v := by rw [hv]; exact ⟨rfl, rfl, rfl⟩
  have hcounted := hbooks.trans (countIssue_booksHere v)
  have hw : w = v := if_neg (by simp [(hbooks.1.issuing.straight hbooks.2.1 hstraight).2.2.1])
  have hended : (countIssue w).str.ended = false := by
    rw [hw]
    exact (hcounted.1.issuing.straight hcounted.2.1 hstraight).2.2.2.1
  refine ⟨wait, ?_⟩
  rw [hnext]
  refine (if_neg (by simp [left, counted, hended])).trans ?_
  rw [State.issued, ← hv, ← hw]

/-- A bundle that passes its checks, waits for nothing and meets no pause issues. -/
theorem bundleCycle_issues {s : State} {b : Bundle} {len : Nat} {ops : List (Nat × SlotOp)}
    (hcheck : checkBundle s b len = .ok ops) (hpause : s.str.pauseReq = false)
    (hfree : ∀ y ∈ ops, buoysBlocking s y.2 = [] ∧ cowBlocking s y.2 = [] ∧ unitBlocking s y.2 = false)
    (hopen : ∀ y ∈ ops, armBad s y.2 = false ∧ darkBad s y.2 = false) :
    bundleCycle b len s = (issueBundle ops len s).advance := by
  have hbuoys : ops.any (fun x => !(buoysBlocking s x.2).isEmpty) = false :=
    List.any_eq_false.2 fun x hx => by simp [(hfree x hx).1]
  have hunits : ops.any (fun x => unitBlocking s x.2) = false :=
    List.any_eq_false.2 fun x hx => by simp [(hfree x hx).2.2]
  have hcows : ops.flatMap (fun x => cowBlocking s x.2) = [] :=
    List.flatMap_eq_nil_iff.2 fun x hx => (hfree x hx).2.1
  have harm : ops.find? (fun x => armBad s x.2) = none := List.find?_eq_none.2 fun x hx => by simp [(hopen x hx).1]
  have hdark : ops.find? (fun x => darkBad s x.2) = none := List.find?_eq_none.2 fun x hx => by simp [(hopen x hx).2]
  simp [bundleCycle, hcheck, hbuoys, hunits, hcows, harm, hdark, hpause]

theorem State.IssueReady.straight {s : State} {b : Bundle} {len : Nat} {ops : List (Nat × SlotOp)}
    (h : s.IssueReady b len ops) (hloops : s.loopsOver s.str.pc = []) : s.Straight := by
  obtain ⟨⟨_, _, hended, _, _, _, _, _, _, hmovs, _, _, _, _, hstuck, _, _, _, _, _, hfence, _⟩, _, hbranch, _⟩ := h
  exact ⟨hmovs, hstuck, hfence, hended, hbranch, hloops⟩

/-- From `s` to `t` a bundle of `len` bytes has issued and a core cycle has passed: the pc stands behind the bundle, and
but for the operations' results, the books of the issue and what a core cycle counts, nothing has changed. -/
def State.BundlePasses (s t : State) (len : Nat) : Prop :=
  t.str.pc = s.str.pc + len ∧ t.str.icyc = s.str.icyc + 1 ∧ t.clk = s.clk.advance ∧ t.str.launch = s.str.launch ∧
    t.str.stop = s.str.stop ∧
    t = { s with
      lanes := t.lanes, clk := t.clk, str := t.str, cnt := t.cnt, trc := t.trc, ln := t.ln
      mem := { s.mem with bucket := t.mem.bucket, held := t.mem.held }, td := { s.td with ch := t.td.ch }
      flt := { s.flt with lastFog := t.flt.lastFog }
      ring := { s.ring with ports := t.ring.ports, epochRun := t.ring.epochRun }
      osura := { s.osura with q := t.osura.q, secs := t.osura.secs } }

theorem State.Issuing.bundlePasses {s t : State} (h : s.Issuing t) {len : Nat} (hpc : t.str.pc = s.str.pc + len)
    (hicyc : t.str.icyc = s.str.icyc + 1) : s.BundlePasses t.advance len := by
  have hcycle := t.advance_frame
  have hstr : t.advance.str = t.str := by rw [hcycle]
  have hclk : t.advance.clk = s.clk.advance := by rw [hcycle, h]
  unfold State.BundlePasses
  refine ⟨by rw [hstr, hpc], by rw [hstr, hicyc], hclk, by rw [hstr, h], by rw [hstr, h], ?_⟩
  generalize t.advance = v at hcycle
  rw [hcycle, h]

theorem buoysBlocking_ctl {f : CtlSlot} (h : f.op ≤ 0x0D) (s : State) : buoysBlocking s (.ctl f) = [] := by
  unfold buoysBlocking
  dsimp only
  split
  case h_4 => rfl
  all_goals omega

/-- An operation that computes scalars or a tile waits for nothing, and no check of the issue cycle is for it. -/
theorem unblocked_of_computes {o : SlotOp} (ho : (∃ f, o = .ctl f ∧ f.op ≤ 0x0D) ∨ ∃ q, o = .vec q) (s : State) :
    (buoysBlocking s o = [] ∧ cowBlocking s o = [] ∧ unitBlocking s o = false) ∧ armBad s o = false ∧ darkBad s o = false := by
  obtain ⟨f, rfl, hop⟩ | ⟨q, rfl⟩ := ho
  · have h10 : f.op ≠ 0x10 := by omega
    have h11 : f.op ≠ 0x11 := by omega
    have h40 : f.op ≠ 0x40 := by omega
    have h51 : f.op ≠ 0x51 := by omega
    exact ⟨⟨buoysBlocking_ctl hop s, by simp [cowBlocking, h11], by simp [unitBlocking, h51]⟩, by simp [armBad, h40],
      by simp [darkBad, h10, h11]⟩
  · exact ⟨⟨rfl, ite_self _, rfl⟩, rfl, rfl⟩

theorem landScals_issuing (s : State) : s.Issuing (landScals s) := by
  rw [landScals_eq]
  rfl

theorem landFlags_issuing (s : State) : s.Issuing (landFlags s) := by
  unfold State.Issuing
  rw [landFlags_lanesOnly]
  rfl

/-- What an operation alone in its bundle leaves, with what was due in the next issue cycle landed. -/
theorem exec_bundleIssue_alone {s : State} {b : Bundle} {len n : Nat} {o : SlotOp} (h : s.IssueReady b len [(n, o)])
    (ho : (∃ f, o = .ctl f ∧ f.op ≤ 0x0D) ∨ ∃ q, o = .vec q) (hloops : s.loopsOver s.str.pc = [])
    (hissuing : s.Issuing (s.operated n o)) (hpc : (s.operated n o).str.pc = s.str.pc)
    (hicyc : (s.operated n o).str.icyc = s.str.icyc) : ∃ u t, (s.operated n o).Books u ∧ u.str.icyc = s.str.icyc + 1 ∧
      exec .bundleIssue s = .next t ∧ t.lanes = (landFlags (landScals u)).lanes ∧ t.str.scal = (landScals u).str.scal ∧
      t.str.scalQ = (landScals u).str.scalQ ∧ t.str.flagQ = (landScals u).flagsTaken.str.flagQ ∧
      t.str.tags = u.str.tags ∧ s.BundlePasses t len := by
  have hstraight := h.straight hloops
  obtain ⟨hfree, hopen⟩ := unblocked_of_computes ho s
  obtain ⟨hclear, hpause, _, hearliest, halign, hbound, hhere, hcheck⟩ := h
  have hcycle := exec_bundleIssue_bundle hclear (fun _ => hearliest) halign hbound hhere
  obtain ⟨wait, hissue⟩ := issueBundle_alone (len := len) ho (hissuing.straight hpc hstraight)
  obtain ⟨u, hu, hupc, huicyc, hissued⟩ := State.issued_eq (hissuing.straight hpc hstraight) (s.str.pc + len) wait
  rw [bundleCycle_issues hcheck hpause (by simpa using hfree) (by simpa using hopen), hissue, hissued] at hcycle
  refine ⟨u, _, hu, huicyc.trans (congrArg (· + 1) hicyc), hcycle, ?_⟩
  have hland := landFlags_lanesOnly (landScals u)
  have hlanded : u.Issuing (landFlags (landScals u)) := (landScals_issuing u).trans (landFlags_issuing _)
  have hwhere : (landFlags (landScals u)).str.pc = u.str.pc ∧ (landFlags (landScals u)).str.icyc = u.str.icyc := by
    rw [hland, landScals_eq]
    exact ⟨rfl, rfl⟩
  generalize landFlags (landScals u) = v at hland hlanded hwhere
  obtain ⟨hdropped, hvpc, hvicyc⟩ := dropFetched_booksHere v
  have hpasses := ((hissuing.trans hu.issuing).trans (hlanded.trans hdropped.issuing)).bundlePasses (len := len)
    (by rw [hvpc, hwhere.1, hupc]) (by rw [hvicyc, hwhere.2, huicyc, hicyc])
  generalize dropFetched v = w at hdropped hpasses
  have hstr : w.advance.str = w.str := by rw [w.advance_frame]
  have hlanes : w.advance.lanes = w.lanes := by rw [w.advance_frame]
  refine ⟨by rw [hlanes, hdropped], ?_, ?_, ?_, ?_, hpasses⟩ <;> rw [hstr, hdropped, hland]
  case refine_4 => rw [landScals_eq]; rfl
  all_goals rfl
end Sys2Proof.Machine

namespace Sys2Proof.Machine

/-! ### A CTL operation that computes a scalar (R97, R98, R111) -/

/-- The result of LI, and of ADD to SLTU. -/
def State.ctlResult (s : State) (f : CtlSlot) : Nat :=
  if f.op = 1 then f.imm else ctlArith f.op (s.scal f.sa) (if f.immsel then f.imm else s.scal f.sb)

/-- MUL's result is written two issue cycles later, the others at once. -/
theorem ctlEffect_computes {f : CtlSlot} (hlo : 1 ≤ f.op) (hhi : f.op ≤ 0x0D) (s t : State) : ctlEffect s f t =
    if f.op = 4 then t.modStr (fun r => { r with scalQ := r.scalQ ++ [(s.str.icyc + 2, f.sd, some (s.ctlResult f))] })
    else t.setScal f.sd (s.ctlResult f) := by
  obtain ⟨op, x, sd, sa, immsel, sb, imm⟩ := f
  interval_cases op <;> simp [ctlEffect, State.ctlResult]

theorem State.operated_ctl {f : CtlSlot} (hlo : 1 ≤ f.op) (hhi : f.op ≤ 0x0D) (s : State) (n : Nat) :
    s.operated n (.ctl f) = { s.entered n (.ctl f) with str := { (s.entered n (.ctl f)).str with
      scal := if f.op = 4 then s.str.scal else sset 0#64 s.str.scal f.sd (BitVec.ofNat 64 (s.ctlResult f))
      scalQ := s.str.scalQ ++ if f.op = 4 then [(s.str.icyc + 2, f.sd, some (s.ctlResult f))] else [] } } := by
  have hoperated : s.operated n (.ctl f) = ctlEffect s f (s.entered n (.ctl f)) := rfl
  have hbooks := (s.entered_booksHere n (.ctl f)).1
  have hscal : (s.entered n (.ctl f)).str.scal = s.str.scal := by rw [hbooks]
  have hscalQ : (s.entered n (.ctl f)).str.scalQ = s.str.scalQ := by rw [hbooks]
  rw [hoperated, ctlEffect_computes hlo hhi, ← hscal, ← hscalQ]
  split
  · rfl
  · rw [List.append_nil]
    rfl

/-- Raising flags in a cluster that is backed. -/
theorem State.raiseIn_lane {s : State} {cl p : Nat} (hp : s.pcOf cl = some p) (hs : swf Lanes.fresh s.lanes = true)
    (fl : FlagSet) : ((s.raiseIn cl fl).lane p).flags = (s.lane p).flags ||| fl ∧
      ((s.raiseIn cl fl).lane p).tiles = (s.lane p).tiles ∧ ((s.raiseIn cl fl).lane p).masks = (s.lane p).masks ∧
      ∀ q, q ≠ p → (s.raiseIn cl fl).lane q = s.lane q := by
  unfold State.raiseIn
  rw [hp]
  dsimp only
  split
  next hnone =>
    rw [hnone]
    exact ⟨(BitVec.or_zero).symm, rfl, rfl, fun _ _ => rfl⟩
  next =>
    rw [State.lane_modLane _ _ _ _ hs, if_pos rfl]
    exact ⟨rfl, rfl, rfl, fun q hq => by rw [State.lane_modLane _ _ _ _ hs, if_neg hq]⟩

/-- With nothing due before it, a result of the present issue cycle waits or stands as it is; a result that an earlier bundle
has left is written after it. -/
theorem landScals_one {s : State} {own : List (Nat × Nat × Option Nat)} (hown : ∀ e ∈ own, s.str.icyc < e.1) :
    (s.str.scalQ = own → (landScals s).str.scal = s.str.scal ∧ (landScals s).str.scalQ = own) ∧
    (∀ c r w, s.str.scalQ = (c, r, some w) :: own → c < s.str.icyc →
      (landScals s).str.scal = sset 0#64 s.str.scal r (BitVec.ofNat 64 w)) := by
  have hlate : ∀ e ∈ own, scalDue s.str.icyc e = false := fun e he => by simp [scalDue, Nat.le_of_lt (hown e he)]
  have hnone : own.filter (scalDue s.str.icyc) = [] := List.filter_eq_nil_iff.2 fun e he => by simp [hlate e he]
  have hall : own.filter (fun e => !scalDue s.str.icyc e) = own := List.filter_eq_self.2 fun e he => by simp [hlate e he]
  rw [landScals_eq]
  constructor
  · intro h
    simp [State.modStr, h, hnone, hall]
  · intro c r w h hc
    have hdue : scalDue s.str.icyc (c, r, some w) = true := by simp [scalDue, hc]
    simp [State.modStr, h, hdue, hnone]

/-- Flags of one write cycle land in their cluster. -/
theorem landFlags_one {s : State} {c cl : Nat} {fl : FlagSet} (h : s.str.flagQ = [(c * 64 + cl, fl)]) (hcl : cl < 64)
    (hc : c < s.str.icyc) : s.flagsTaken.str.flagQ = [] ∧ landFlags s = s.flagsTaken.raiseIn cl fl := by
  have hdue : (c * 64 + cl) / 64 < s.str.icyc := by omega
  have hcluster : (c * 64 + cl) % 64 = cl := by omega
  constructor
  · simp [State.flagsTaken, State.modStr, h, hdue]
  · simp [landFlags_eq, State.flagsDue, h, hdue, hcluster]

theorem landFlags_none {s : State} (h : ∀ e ∈ s.str.flagQ, s.str.icyc ≤ e.1 / 64) :
    s.flagsTaken.str.flagQ = s.str.flagQ ∧ (landFlags s).lanes = s.lanes := by
  constructor
  · exact List.filter_eq_self.2 fun e he => by simp [h e he]
  · have hnone : s.flagsDue = [] := List.filter_eq_nil_iff.2 fun e he => by simp [h e he]
    rw [landFlags_eq, hnone]
    rfl

/-- Settles O22: the operation's own result, then what an earlier bundle has left to land. -/
theorem scalarBundleIssues : Obligations.ScalarBundleIssues := by
  unfold Obligations.ScalarBundleIssues
  intro s b len n f hinv hready hlo hhi hloops
  obtain ⟨hbooks, hepc, heicyc⟩ := s.entered_booksHere n (.ctl f)
  have hop := State.operated_ctl hlo hhi s n
  obtain ⟨u, t, hu, huicyc, hexec, hlanes, hscal, hscalQ, hflagQ, htags, hpc, hicyc, hclk, hlaunch, hstop, hframe⟩ :=
    exec_bundleIssue_alone hready (.inl ⟨f, rfl, hhi⟩) hloops
      (by unfold State.Issuing; rw [hop, hbooks]) (by rw [hop]; exact hepc) (by rw [hop]; exact heicyc)
  have huscal : u.str.scal = if f.op = 4 then s.str.scal else sset 0#64 s.str.scal f.sd (BitVec.ofNat 64 (s.ctlResult f)) := by
    rw [hu, hop]
  have huscalQ : u.str.scalQ =
      s.str.scalQ ++ if f.op = 4 then [(s.str.icyc + 2, f.sd, some (s.ctlResult f))] else [] := by
    rw [hu, hop]
  have hown : ∀ e ∈ if f.op = 4 then [(s.str.icyc + 2, f.sd, some (s.ctlResult f))] else [], u.str.icyc < e.1 := by
    intro e he
    split at he
    · rw [List.mem_singleton.1 he, huicyc]
      exact Nat.lt_succ_self _
    · cases he
  obtain ⟨hnone, hone⟩ := landScals_one hown
  obtain ⟨v, hv⟩ : ∃ v, v = landScals u := ⟨_, rfl⟩
  have hvicyc : v.str.icyc = s.str.icyc + 1 := by rw [hv, landScals_eq]; exact huicyc
  have hvflagQ : v.str.flagQ = s.str.flagQ := by rw [hv, landScals_eq, hu, hop, hbooks]; rfl
  have hvlanes : v.lanes = s.lanes := by rw [hv, landScals_eq, hu, hop, hbooks]; rfl
  have hvmap : v.map = s.map := by rw [hv, landScals_eq, hu, hop, hbooks]; rfl
  rw [← hv] at hlanes hflagQ
  refine ⟨t, _, _, rfl, rfl, hexec, fun hq => ?_, fun c r w hq hc => ?_, fun hq => ?_, fun c cl p fl hq hcl hc hp => ?_, hpc,
    hicyc, hclk, hlaunch, hstop, ?_, hframe⟩
  · obtain ⟨hscal', hscalQ'⟩ := hnone (by rw [huscalQ, hq]; rfl)
    exact ⟨hscal.trans (hscal'.trans huscal), hscalQ.trans hscalQ'⟩
  · rw [hscal, hone c r w (by rw [huscalQ, hq]; rfl) (by omega), huscal]
    rfl
  · obtain ⟨hflags, hlanes'⟩ := landFlags_none (s := v) (by rw [hvflagQ, hq]; exact fun e he => absurd he (by simp))
    exact ⟨hlanes.trans (hlanes'.trans hvlanes), by rw [hflagQ, hflags, hvflagQ, hq]⟩
  · obtain ⟨hflags, hland⟩ := landFlags_one (s := v) (by rw [hvflagQ, hq]) hcl (by omega)
    have hlane : ∀ q, t.lane q = (v.flagsTaken.raiseIn cl fl).lane q := fun q => by rw [State.lane, hlanes, hland]; rfl
    have hbefore : ∀ q, v.flagsTaken.lane q = s.lane q := fun q => congrArg (sget Lanes.fresh · q) hvlanes
    obtain ⟨_, _, _, _, _, hcanon, _⟩ := hinv
    have hraised := State.raiseIn_lane (s := v.flagsTaken) (cl := cl) (p := p)
      (by rw [State.pcOf, show v.flagsTaken.map = s.map from hvmap]; exact hp)
      (by rw [show v.flagsTaken.lanes = s.lanes from hvlanes]; exact hcanon) fl
    simp only [hbefore, ← hlane] at hraised
    exact ⟨hflagQ.trans hflags, hraised⟩
  · rw [htags, hu, hop, hbooks]

end Sys2Proof.Machine

namespace Sys2Proof.Machine

/-! ### Lists over the clusters of a launch -/

/-- One entry alone of a list brings anything. -/
theorem flatMap_single {α β : Type} {l : List α} {a : α} {f : α → List β} (hnodup : l.Nodup) (ha : a ∈ l)
    (h : ∀ b ∈ l, b ≠ a → f b = []) : l.flatMap f = f a := by
  obtain ⟨l₁, l₂, rfl⟩ := List.append_of_mem ha
  have hne : ∀ b, b ∈ l₁ ∨ b ∈ l₂ → b ≠ a := by
    rintro b hb rfl
    rw [List.nodup_middle, List.nodup_cons, List.mem_append] at hnodup
    exact hnodup.1 hb
  have hleft : l₁.flatMap f = [] := List.flatMap_eq_nil_iff.2 fun b hb => h b (by simp [hb]) (hne b (.inl hb))
  have hright : l₂.flatMap f = [] := List.flatMap_eq_nil_iff.2 fun b hb => h b (by simp [hb]) (hne b (.inr hb))
  simp [hleft, hright]

theorem zipIdx_map_upTo {α : Type} (n : Nat) (f : Nat → α) : ((upTo n).map f).zipIdx = (upTo n).map (fun i => (f i, i)) :=
  List.ext_getElem (by simp) (by simp)

/-! ### Flags on their way (R197) -/

theorem serase_subset {α : Type} (m : Sparse α) (a : Nat) : serase m a ⊆ m := by
  induction m with
  | nil => exact List.Subset.refl _
  | cons x m ih =>
    unfold serase
    split
    · exact List.subset_cons_self _ _
    · split
      · exact List.Subset.refl _
      · exact List.cons_subset_cons _ ih

theorem sput_subset {α : Type} (m : Sparse α) (a : Nat) (x : α) : sput m a x ⊆ (a, x) :: m := by
  induction m with
  | nil => exact List.Subset.refl _
  | cons y m ih =>
    unfold sput
    split
    · exact List.cons_subset_cons _ (List.subset_cons_self _ _)
    · split
      · exact List.Subset.refl _
      · exact List.cons_subset.2 ⟨by simp, List.Subset.trans ih (List.cons_subset_cons _ (List.subset_cons_self _ _))⟩

/-- A write brings its own key and no other. -/
theorem forall_key_sset {α : Type} [DecidableEq α] {d : α} {P : Nat → Prop} {a : Nat} (ha : P a) (x : α) {m : Sparse α}
    (h : ∀ e ∈ m, P e.1) : ∀ e ∈ sset d m a x, P e.1 := by
  intro e he
  unfold sset at he
  split at he
  · exact h e (serase_subset m a he)
  · obtain rfl | hmem := List.mem_cons.1 (sput_subset m a x he)
    · exact ha
    · exact h e hmem

/-- One element's flags join those of its write cycle and cluster. -/
def laterFlag (m : Sparse FlagSet) (e : Nat × FlagSet) : Sparse FlagSet :=
  if e.2 = flagNone then m else smod flagNone m e.1 (· ||| e.2)

theorem swf_laterFlag {m : Sparse FlagSet} (h : swf flagNone m = true) (e : Nat × FlagSet) :
    swf flagNone (laterFlag m e) = true := by
  unfold laterFlag
  split
  · exact h
  · exact swf_smod _ _ h

theorem sget_laterFlag {m : Sparse FlagSet} (h : swf flagNone m = true) (e : Nat × FlagSet) (k : Nat) :
    sget flagNone (laterFlag m e) k = if e.1 = k then sget flagNone m k ||| e.2 else sget flagNone m k := by
  unfold laterFlag
  split
  next hnone =>
    rw [hnone, show sget flagNone m k ||| flagNone = sget flagNone m k from BitVec.or_zero, ite_self]
  next =>
    rw [smod, sget_sset _ _ _ h]
    by_cases hk : e.1 = k
    · rw [if_pos hk, if_pos hk.symm, hk]
    · rw [if_neg hk, if_neg (Ne.symm hk)]

/-- What is to be raised in a cluster in a cycle is all that its elements raise there. -/
theorem sget_laterFlags (l : List (Nat × FlagSet)) (k : Nat) : ∀ {m : Sparse FlagSet}, swf flagNone m = true →
    sget flagNone (l.foldl laterFlag m) k = ((l.filter (·.1 == k)).map (·.2)).foldl (· ||| ·) (sget flagNone m k) := by
  induction l with
  | nil => exact fun _ => rfl
  | cons e l ih =>
    intro m hm
    rw [List.foldl_cons, ih (swf_laterFlag hm e), sget_laterFlag hm, List.filter_cons]
    by_cases hk : e.1 = k <;> simp [hk]

theorem forall_key_laterFlags {P : Nat → Prop} {l : List (Nat × FlagSet)} (hl : ∀ e ∈ l, P e.1) :
    ∀ e ∈ l.foldl laterFlag [], P e.1 := by
  refine List.foldlRecOn (motive := fun m : Sparse FlagSet => ∀ e ∈ m, P e.1) _ _ (by simp) fun m hm e he => ?_
  unfold laterFlag
  split
  · exact hm
  · exact forall_key_sset (hl e he) _ hm

/-! ### Results go into the clusters' tiles (R111, R125, R141) -/

/-- A cluster takes containers into its tiles; its reuse latches follow. -/
def Lanes.Takes (a b : Lanes) (cells : List (Nat × Nat)) : Prop :=
  b = { a with tiles := ssetAll 0#32 a.tiles (cells.map (fun x => (x.1, BitVec.ofNat 32 x.2))), latches := b.latches }

theorem Lanes.Takes.refl (a : Lanes) : a.Takes a [] := rfl

theorem Lanes.Takes.trans {a b c : Lanes} {x y : List (Nat × Nat)} (h : a.Takes b x) (g : b.Takes c y) :
    a.Takes c (x ++ y) := by
  unfold Lanes.Takes at *
  rw [List.map_append, ssetAll, List.foldl_append, ← ssetAll, ← ssetAll, g, h]

/-- From `s` to `t` each physical cluster `p` takes `cells p`; a cluster that backs none of the launch is left alone. -/
def State.WritesTiles (s t : State) (cells : Nat → List (Nat × Nat)) : Prop :=
  t = { s with lanes := t.lanes, cnt := t.cnt } ∧ swf Lanes.fresh t.lanes = true ∧
    (∀ p, (s.lane p).Takes (t.lane p) (cells p)) ∧ ∀ p, (∀ cl < s.lc, s.pcOf cl ≠ some p) → t.lane p = s.lane p

theorem State.WritesTiles.refl {s : State} (hs : swf Lanes.fresh s.lanes = true) : s.WritesTiles s (fun _ => []) :=
  ⟨rfl, hs, fun _ => .refl _, fun _ _ => rfl⟩

theorem State.WritesTiles.map_lc {s t : State} {cells : Nat → List (Nat × Nat)} (h : s.WritesTiles t cells) :
    t.pcOf = s.pcOf ∧ t.lc = s.lc := by
  rw [h.1]
  exact ⟨rfl, rfl⟩

theorem State.WritesTiles.trans {s t u : State} {x y : Nat → List (Nat × Nat)} (h : s.WritesTiles t x)
    (g : t.WritesTiles u y) : s.WritesTiles u (fun p => x p ++ y p) := by
  obtain ⟨hmap, hlc⟩ := h.map_lc
  obtain ⟨hframe, _, htakes, hother⟩ := h
  obtain ⟨gframe, gwf, gtakes, gother⟩ := g
  rw [hmap, hlc] at gother
  exact ⟨by rw [gframe, hframe], gwf, fun p => (htakes p).trans (gtakes p),
    fun p hp => (gother p hp).trans (hother p hp)⟩

section
variable {s : State} {cl p : Nat} (hs : swf Lanes.fresh s.lanes = true) (hcl : cl < s.lc) (hp : s.pcOf cl = some p)
include hs hcl hp

theorem State.modLane_writesTiles {f : Lanes → Lanes} {cells : List (Nat × Nat)}
    (hf : (s.lane p).Takes (f (s.lane p)) cells) : s.WritesTiles (s.modLane p f) (fun q => if q = p then cells else []) := by
  refine ⟨rfl, swf_smod _ _ hs, fun q => ?_, fun q hq => ?_⟩ <;> rw [State.lane_modLane _ _ _ _ hs]
  · dsimp only
    split
    next h => rw [h]; exact hf
    next => exact .refl _
  · exact if_neg (by rintro rfl; exact hq cl hcl hp)

/-- A change of the latches alone. -/
theorem State.modLane_relatches (f : Lanes → Sparse Nat) :
    s.WritesTiles (s.modLane p (fun l => { l with latches := f l })) (fun _ => []) := by
  have h := State.modLane_writesTiles hs hcl hp (f := fun l => { l with latches := f l }) (cells := []) rfl
  simpa only [ite_self] using h

end

theorem bumpCl_writesTiles {s t : State} {cells : Nat → List (Nat × Nat)} (h : s.WritesTiles t cells) (kind pc n : Nat) :
    s.WritesTiles (bumpCl kind pc n t) cells := by
  unfold State.WritesTiles at *
  rw [bumpCl_frame]
  obtain ⟨hframe, hrest⟩ := h
  exact ⟨by rw [hframe], hrest⟩

theorem State.touchTile_writesTiles {s : State} {cl : Nat} (hs : swf Lanes.fresh s.lanes = true) (hcl : cl < s.lc) (tile : Nat) :
    s.WritesTiles (s.touchTile cl tile) (fun _ => []) := by
  unfold State.touchTile
  split
  next pc hpc =>
    split
    · exact .refl hs
    · exact State.modLane_relatches hs hcl hpc _
  next => exact .refl hs

theorem latchAll_writesTiles {s : State} (hs : swf Lanes.fresh s.lanes = true) (unit : Nat) (q : VPlan) (k : Nat) :
    s.WritesTiles (latchAll unit q k s) (fun _ => []) := by
  unfold latchAll
  dsimp only
  refine List.foldlRecOn (motive := fun t => s.WritesTiles t fun _ => []) _ _ (.refl hs) fun t ht cl hcl => ht.trans ?_
  obtain ⟨_, hlc⟩ := ht.map_lc
  have hcl' : cl < t.lc := by rw [hlc]; exact List.mem_range.1 hcl
  split
  next pc hpc =>
    have hlatched := State.modLane_relatches ht.2.1 hcl' hpc
    split
    · exact hlatched _
    · exact bumpCl_writesTiles (hlatched _) _ _ _
  next => exact .refl ht.2.1

/-- What a result writes into the cluster `p` for the logical cluster `cl`. -/
def State.cellsIn (s : State) (cells : Nat → List (Nat × Nat)) (cl p : Nat) : List (Nat × Nat) :=
  if s.pcOf cl = some p then cells cl else []

theorem State.putAny_writesTiles {s : State} {cl : Nat} (hs : swf Lanes.fresh s.lanes = true) (hcl : cl < s.lc)
    {cells : Nat → List (Nat × Nat)} (hcells : ∀ x ∈ cells cl, x.1 < 2 ^ 20) :
    s.WritesTiles (s.putAny cl (cells cl)) (s.cellsIn cells cl) := by
  have hall : (cells cl).filter (·.1 < 2 ^ 20) = cells cl := List.filter_eq_self.2 fun x hx => by simpa using hcells x hx
  have hnone : (cells cl).filter (2 ^ 20 ≤ ·.1) = [] := List.filter_eq_nil_iff.2 fun x hx => by simpa using hcells x hx
  have hput : s.putAny cl (cells cl) = s.putCells cl (cells cl) := by rw [State.putAny, hall, hnone]; rfl
  rw [hput]
  unfold State.putCells State.cellsIn
  split
  next p hp =>
    have h := State.modLane_writesTiles hs hcl hp (cells := cells cl) (f := fun l => { l with
      tiles := ssetAll 0#32 l.tiles ((cells cl).map (fun c => (c.1, BitVec.ofNat 32 c.2))) }) rfl
    simpa only [hp, Option.some.injEq, eq_comm] using h
  next hp => simpa only [hp, reduceCtorEq, if_false] using State.WritesTiles.refl hs

/-- A result goes into the clusters one after the other, in the order of their logical numbers. -/
theorem putClusters_writesTiles {cells : Nat → List (Nat × Nat)} (tiles : List Nat) (l : List Nat) : ∀ {s : State},
    swf Lanes.fresh s.lanes = true → (∀ cl ∈ l, cl < s.lc ∧ ∀ x ∈ cells cl, x.1 < 2 ^ 20) →
    s.WritesTiles (l.foldl (fun s cl => tiles.foldl (fun s t => s.touchTile cl t) (s.putAny cl (cells cl))) s)
      (fun p => l.flatMap (s.cellsIn cells · p)) := by
  induction l with
  | nil => exact fun hs _ => .refl hs
  | cons cl l ih =>
    intro s hs hl
    obtain ⟨hcl, hcells⟩ := hl cl (by simp)
    have hput := State.putAny_writesTiles hs hcl hcells
    have htouched : s.WritesTiles (tiles.foldl (fun s t => s.touchTile cl t) (s.putAny cl (cells cl)))
        (s.cellsIn cells cl) := by
      refine List.foldlRecOn (motive := fun t => s.WritesTiles t (s.cellsIn cells cl)) _ _ hput fun t ht tile _ => ?_
      have h := ht.trans (State.touchTile_writesTiles ht.2.1 (by rw [ht.map_lc.2]; exact hcl) tile)
      simpa only [List.append_nil] using h
    obtain ⟨hmap, hlc⟩ := htouched.map_lc
    have hrest := htouched.trans (ih htouched.2.1 (by rw [hlc]; exact fun c hc => hl c (by simp [hc])))
    simpa only [State.cellsIn, hmap, List.flatMap_cons, List.foldl_cons] using hrest

/-! ### A vector operation with a tile for destination (R98, R111, R125, R197) -/

/-- The flags that a vector operation's elements raise, by write cycle and cluster. -/
def State.elementFlags (s : State) (n : Nat) (q : VPlan) : List (Nat × FlagSet) :=
  (upTo s.lc).flatMap fun cl => (q.run s.vctx cl).1.fls.map fun e =>
    ((s.str.icyc + q.lat - 1 + q.writeCycle s.prof s.tagOf (n == 1 || n == 2) e.1 e.2.1) * 64 + cl, e.2.2)

/-- The result of a vector operation that writes the tile `td`. -/
def State.tileResult (s : State) (n : Nat) (q : VPlan) (td : Nat) (tag : Tag) : SlotResult :=
  ⟨n, q.f.op, tag.fmt, [td], [(td, tag)], (upTo s.lc).map (fun cl => (q.run s.vctx cl).1), s.elementFlags n q⟩

theorem slotResult_tile {q : VPlan} {td rows cols : Nat} {g : Fmt} (hdest : q.dest = .tile td rows cols g) (s : State)
    (n : Nat) : slotResult s n (.vec q) = some (s.tileResult n q td ⟨rows, cols, g⟩) := by
  have hrun (cl : Nat) : (q.run s.vctx cl).2 = none := by rw [VPlan.run, hdest]
  simp [slotResult, slotTiming, hdest, hrun, zipIdx_map_upTo, List.flatMap_map, State.tileResult, State.elementFlags]

theorem putResult_tile {t : State} (hmovs : t.str.movs = []) (base n td : Nat) (s : State) (q : VPlan) (tag : Tag) :
    putResult base (s.tileResult n q td tag) t =
      (upTo s.lc).foldl (fun t cl => ([td].filter (· < 16)).foldl (fun t x => t.touchTile cl x)
        (t.putAny cl (q.run s.vctx cl).1.cells)) ((t.setTags [(td, tag)]).raiseLater (s.elementFlags n q)) := by
  have hfree : ((t.setTags [(td, tag)]).raiseLater (s.elementFlags n q)).heldBack (base + n) [td] = false := by
    unfold State.heldBack
    rw [show ((t.setTags [(td, tag)]).raiseLater (s.elementFlags n q)).str.movs = [] from hmovs]
    rfl
  simp [putResult, State.tileResult, hfree, zipIdx_map_upTo, List.foldl_map]

/-- No trap is taken while the NaN trap is off (R199). -/
theorem takeTraps_off {s : State} (h : s.trapNow.1 = 0) (results : List SlotResult) : takeTraps results s = s := by
  simp [takeTraps, h]

/-- What a vector operation meets as its result is written: its operands have passed the reuse latches. -/
def State.latched (s : State) (n : Nat) (q : VPlan) : State :=
  if n = 1 || n = 2 then latchAll (n - 1) q (slotTiming s n (.vec q)).1 (s.entered n (.vec q)) else s.entered n (.vec q)

theorem State.latched_writesTiles {s : State} {n : Nat} {q : VPlan}
    (hs : swf Lanes.fresh (s.entered n (.vec q)).lanes = true) :
    (s.entered n (.vec q)).WritesTiles (s.latched n q) (fun _ => []) := by
  unfold State.latched
  split
  · exact latchAll_writesTiles hs _ _ _
  · exact .refl hs

theorem State.operated_vec {s : State} {n : Nat} {q : VPlan} {r : SlotResult} (hr : slotResult s n (.vec q) = some r) :
    s.operated n (.vec q) = takeTraps [r] (putResult s.str.movNext r (s.latched n q)) := by
  unfold State.operated
  rw [hr]
  by_cases hslot : r.slot < 5
  · simp [hslot, Nat.not_le.2 hslot, State.latched]
  · simp [hslot, Nat.not_lt.1 hslot, State.latched]

/-- What a vector operation that writes the tile `td` does to the state: each cluster takes its containers, the tag is set
and the flags wait. -/
theorem State.operated_tile {s : State} {n td rows cols : Nat} {q : VPlan} {g : Fmt} (hdest : q.dest = .tile td rows cols g)
    (hs : swf Lanes.fresh s.lanes = true) (hmovs : s.str.movs = []) (htrap : s.trapNow.1 = 0)
    (hcells : ∀ cl < s.lc, ∀ x ∈ (q.run s.vctx cl).1.cells, x.1 < 2 ^ 20) :
    ∃ e m, s.BooksHere e ∧ s.operated n (.vec q) = m ∧
      m = { e with lanes := m.lanes, cnt := m.cnt, str := { e.str with
        tags := s.str.tags.set td (some ⟨rows, cols, g⟩), flagQ := (s.elementFlags n q).foldl laterFlag s.str.flagQ } } ∧
      (∀ p, (s.lane p).Takes (m.lane p) ((upTo s.lc).flatMap (s.cellsIn (fun cl => (q.run s.vctx cl).1.cells) · p))) ∧
      ∀ p, (∀ cl < s.lc, s.pcOf cl ≠ some p) → m.lane p = s.lane p := by
  have he := s.entered_booksHere n (.vec q)
  have hlatched := State.latched_writesTiles (s := s) (n := n) (q := q) (by rw [he.1]; exact hs)
  have hoperated := State.operated_vec (slotResult_tile hdest s n)
  generalize s.entered n (.vec q) = e at he hlatched
  generalize s.latched n q = l at hlatched hoperated
  obtain ⟨hframe, hwf, htakes, hother⟩ := hlatched
  rw [putResult_tile (by rw [hframe, he.1]; exact hmovs)] at hoperated
  obtain ⟨v, hv⟩ : ∃ v, v = (l.setTags [(td, ⟨rows, cols, g⟩)]).raiseLater (s.elementFlags n q) := ⟨_, rfl⟩
  have hvframe : v = { l with str := { l.str with
      tags := l.str.tags.set td (some ⟨rows, cols, g⟩), flagQ := (s.elementFlags n q).foldl laterFlag l.str.flagQ } } := hv
  have hvlc : v.lc = s.lc := by rw [hvframe, hframe, he.1]; rfl
  have hvmap : v.pcOf = s.pcOf := by rw [hvframe, hframe, he.1]; rfl
  have hvlane (p : Nat) : v.lane p = l.lane p := by rw [hvframe]; rfl
  have helane (p : Nat) : e.lane p = s.lane p := by rw [he.1]; rfl
  have hput := putClusters_writesTiles ([td].filter (· < 16)) (upTo s.lc) (s := v)
    (cells := fun cl => (q.run s.vctx cl).1.cells) (by rw [hvframe]; exact hwf)
    fun cl hcl => ⟨hvlc ▸ List.mem_range.1 hcl, hcells cl (List.mem_range.1 hcl)⟩
  rw [← hv] at hoperated
  generalize hm : List.foldl _ v (upTo s.lc) = m at hput hoperated
  obtain ⟨gframe, _, gtakes, gother⟩ := hput
  rw [takeTraps_off (by rw [gframe, hvframe, hframe, he.1]; exact htrap)] at hoperated
  refine ⟨e, m, he, hoperated, ?_, fun p => ?_, fun p hp => ?_⟩
  · rw [gframe, hvframe, hframe, he.1]
  · have h := (htakes p).trans (hvlane p ▸ gtakes p)
    rw [helane p] at h
    simpa only [State.cellsIn, hvmap, List.nil_append] using h
  · rw [gother p (by rw [hvlc, hvmap]; exact hp), hvlane, hother p (by rw [he.1]; exact hp), helane]

/-- The flags of the logical cluster `cl` in the write cycle `c` are those of its elements written in it. -/
theorem State.elementFlags_at {s : State} {n c cl : Nat} {q : VPlan} (hlc : s.lc ≤ 32) (hcl : cl < s.lc) :
    ((s.elementFlags n q).filter (·.1 == c * 64 + cl)).map (·.2) =
      ((q.run s.vctx cl).1.fls.filter (fun e =>
        s.str.icyc + q.lat - 1 + q.writeCycle s.prof s.tagOf (n == 1 || n == 2) e.1 e.2.1 == c)).map (·.2.2) := by
  have hkey (k cl' : Nat) (h : cl' < s.lc) : (k * 64 + cl' == c * 64 + cl) = (k == c && cl' == cl) := by
    rw [Bool.eq_iff_iff]
    simp only [beq_iff_eq, Bool.and_eq_true]
    omega
  unfold State.elementFlags
  rw [List.filter_flatMap, flatMap_single List.nodup_range (List.mem_range.2 hcl)]
  · simp [List.filter_map, Function.comp_def, hkey _ _ hcl]
  · intro cl' hmem hne
    simp [List.filter_map, Function.comp_def, hkey _ _ (List.mem_range.1 hmem), hne]

/-- No flag of a vector operation is raised in the issue cycle after it: it takes at least two. -/
theorem State.elementFlags_later {s : State} {q : VPlan} (hlat : 2 ≤ q.lat) (n : Nat) :
    ∀ e ∈ (s.elementFlags n q).foldl laterFlag [], s.str.icyc + 1 ≤ e.1 / 64 := by
  refine forall_key_laterFlags (P := fun k => s.str.icyc + 1 ≤ k / 64) fun e he => ?_
  obtain ⟨cl, _, he⟩ := List.mem_flatMap.1 he
  obtain ⟨x, _, rfl⟩ := List.mem_map.1 he
  dsimp only
  omega

/-- Settles O23: each cluster takes its own containers, as no two are backed by one, and the flags wait past this issue
cycle. -/
theorem vectorBundleIssues : Obligations.VectorBundleIssues := by
  unfold Obligations.VectorBundleIssues
  intro s b len n td rows cols q g hinv hready hdest _ htrap hscalQ hflagQ hloops hlat hlc hcells hinj
  obtain ⟨_, _, _, _, _, hcanon, _⟩ := hinv
  obtain ⟨⟨_, _, _, _, _, _, _, _, _, hmovs, _⟩, _⟩ := id hready
  obtain ⟨e, m, ⟨hbooks, hepc, heicyc⟩, hoperated, hframe, htakes, hother⟩ :=
    State.operated_tile (n := n) hdest hcanon hmovs htrap hcells
  obtain ⟨u, t, hu, huicyc, hexec, hlanes, hscal, _, htflagQ, htags, hpasses⟩ :=
    exec_bundleIssue_alone hready (.inr ⟨q, rfl⟩) hloops
      (by unfold State.Issuing; rw [hoperated, hframe, hbooks])
      (by rw [hoperated, hframe]; exact hepc) (by rw [hoperated, hframe]; exact heicyc)
  rw [hoperated] at hu
  have huscalQ : u.str.scalQ = [] := by rw [hu, hframe, hbooks]; exact hscalQ
  have huflagQ : u.str.flagQ = (s.elementFlags n q).foldl laterFlag [] := by rw [hu, hframe, hflagQ]
  obtain ⟨hkept, _⟩ := (landScals_one (s := u) (own := []) (by simp)).1 huscalQ
  obtain ⟨v, hv⟩ : ∃ v, v = landScals u := ⟨_, rfl⟩
  have hvicyc : v.str.icyc = u.str.icyc := by rw [hv, landScals_eq]; rfl
  have hvflagQ : v.str.flagQ = u.str.flagQ := by rw [hv, landScals_eq]; rfl
  have hvlanes : v.lanes = m.lanes := by rw [hv, landScals_eq, hu]; rfl
  rw [← hv] at hlanes htflagQ
  obtain ⟨hwaiting, hunraised⟩ := landFlags_none (s := v) (by
    rw [hvflagQ, huflagQ, hvicyc, huicyc]
    exact State.elementFlags_later hlat n)
  have hlane (p : Nat) : t.lane p = m.lane p := congrArg (sget Lanes.fresh · p) (hlanes.trans (hunraised.trans hvlanes))
  refine ⟨t, hexec, fun cl hcl p hp => ?_, fun p hp => (hlane p).trans (hother p hp), fun c cl hcl => ?_, ?_, ?_, hpasses⟩
  · have hown : (upTo s.lc).flatMap (s.cellsIn (fun cl => (q.run s.vctx cl).1.cells) · p) = (q.run s.vctx cl).1.cells := by
      rw [flatMap_single List.nodup_range (List.mem_range.2 hcl)]
      · exact if_pos hp
      · refine fun cl' hcl' hne => if_neg fun hp' => ?_
        obtain hnone | heq := hinj cl' (List.mem_range.1 hcl') cl hcl (hp'.trans hp.symm)
        · rw [hp'] at hnone
          cases hnone
        · exact hne heq
    have h := htakes p
    rw [hown] at h
    rw [hlane]
    exact h
  · rw [htflagQ, hwaiting, hvflagQ, huflagQ, sget_laterFlags _ _ rfl, State.elementFlags_at hlc hcl]
    rfl
  · rw [htags, hu, hframe]
  · rw [hscal, hkept, hu, hframe, hbooks]

end Sys2Proof.Machine

namespace Sys2Proof.Machine

/-! ### The clusters' lanes at a launch (R128, R141) -/

/-- A physical cluster's lanes as a launch finds them: every mask bit 1, every reuse latch empty. -/
def Lanes.relaunched (l : Lanes) : Lanes := { l with masks := [], latches := [] }

@[simp] theorem Lanes.relaunched_relaunched (l : Lanes) : l.relaunched.relaunched = l.relaunched := rfl

theorem launchLanes_eq (s : State) :
    launchLanes s = (s.lanes.map (·.1)).foldl (fun s p => s.modLane p Lanes.relaunched) s := rfl

theorem launchLanes_lanesOnly (s : State) : s.LanesOnly (launchLanes s) := by
  rw [launchLanes_eq]
  exact List.foldlRecOn _ _ (.refl _) fun t ht p _ => ht.trans (t.modLane_lanesOnly p _)

/-- A change that may be made twice over reaches the listed clusters alone. -/
theorem State.lane_foldl_modLane {f : Lanes → Lanes} (hf : ∀ l, f (f l) = f l) (ps : List Nat) (q : Nat) :
    ∀ {s : State}, swf Lanes.fresh s.lanes = true →
      (ps.foldl (fun s p => s.modLane p f) s).lane q = if q ∈ ps then f (s.lane q) else s.lane q := by
  induction ps with
  | nil => exact fun _ => rfl
  | cons p ps ih =>
    intro s hs
    rw [List.foldl_cons, ih (swf_smod _ _ hs), State.lane_modLane _ _ _ _ hs]
    by_cases hq : q = p
    · subst q
      simp [hf]
    · simp [hq]

/-- A cluster that the store of lanes does not list is fresh, and a launch leaves it so. -/
theorem lane_launchLanes {s : State} (hs : swf Lanes.fresh s.lanes = true) (p : Nat) :
    (launchLanes s).lane p = (s.lane p).relaunched := by
  rw [launchLanes_eq, State.lane_foldl_modLane Lanes.relaunched_relaunched _ _ hs]
  split
  · rfl
  · rename_i hunlisted
    have hfresh : s.lane p = Lanes.fresh :=
      sget_eq_default fun x hx hp => hunlisted (List.mem_map.2 ⟨x, hx, hp⟩)
    rw [hfresh]
    rfl

/-! ### LAUNCH (R26, R39, R142, R371, R373) -/

theorem applyShare_eq (s : State) : applyShare s = { s with
    osura := { s.osura with share := s.osura.sharePend.getD s.osura.share, sharePend := none } } := by
  unfold applyShare
  split
  · next v hv => simp [hv]
  · next hnone => rw [hnone, Option.getD_none, ← hnone]

theorem applyFar_eq (s : State) :
    applyFar s = s.modStr (fun t => { t with far := t.farPend.getD t.far, farPend := none }) := by
  unfold applyFar
  split
  · next c hc => simp [State.modStr, hc]
  · next hnone => rw [State.modStr, hnone, Option.getD_none, ← hnone]

/-- Steps 1 and 2 of R373: the settings that wait are in force, and the cluster map is made for the launch's clusters. -/
def State.readied (s : State) (lc : Nat) : State :=
  { applyFar (applyShare s) with
    map := rebuildMap (applyFar (applyShare s)).ctlCycle lc (applyFar (applyShare s)).map }

theorem State.readied_eq (s : State) (lc : Nat) : s.readied lc = { s with
    map := rebuildMap s.ctlCycle lc s.map
    osura := { s.osura with share := s.osura.sharePend.getD s.osura.share, sharePend := none }
    str := { s.str with far := s.str.farPend.getD s.str.far, farPend := none } } := by
  rw [State.readied, applyFar_eq, applyShare_eq]
  rfl

/-- The scalar registers as a launch leaves them: only LDS loads any. -/
def WorkDesc.scalarsOver (d : WorkDesc) (m : Sparse DWord) : Sparse DWord :=
  if d.lds then d.scal.zipIdx.foldl (fun m x => sset 0#64 m x.2 (BitVec.ofNat 64 x.1)) m else m

theorem loadScalars_eq (d : WorkDesc) (s : State) :
    (if d.lds then d.scal.zipIdx.foldl (fun s x => s.setScal x.2 x.1) s else s) =
      s.modStr (fun t => { t with scal := d.scalarsOver t.scal }) := by
  have hwrites (l : List (Nat × Nat)) : ∀ s : State, l.foldl (fun s x => s.setScal x.2 x.1) s =
      s.modStr (fun t => { t with scal := l.foldl (fun m x => sset 0#64 m x.2 (BitVec.ofNat 64 x.1)) t.scal }) := by
    induction l with
    | nil => exact fun s => rfl
    | cons x l ih => exact fun s => ih _
  unfold WorkDesc.scalarsOver
  split
  · exact hwrites _ _
  · rfl

/-- What the stream is at the start of a launch (R225, R373): nothing of the launch before it is left, and fetch starts
at the PC. -/
theorem launch_str (slot : Nat) (d : WorkDesc) (p : Profile) (s : State) :
    (launch slot d p s).str.launch = some ⟨d.seq, p, d.lc, d.user, slot⟩ ∧ (launch slot d p s).str.pc = d.pc ∧
      (launch slot d p s).str.stop = .blank ∧ (launch slot d p s).str.tags = List.replicate 16 none ∧
      (launch slot d p s).str.scal = d.scalarsOver s.str.scal := by
  simp only [launch, loadScalars_eq, applyFar_eq, applyShare_eq]
  rw [launchLanes_lanesOnly]
  exact ⟨rfl, rfl, rfl, rfl, rfl⟩

theorem launch_lanes (slot : Nat) (d : WorkDesc) (p : Profile) (s : State) :
    (launch slot d p s).lanes = (launchLanes (s.readied d.lc)).lanes := by
  simp only [launch, loadScalars_eq, fetchFrom, endLaunch, State.modStr, State.readied]

theorem lane_launch {s : State} (hs : swf Lanes.fresh s.lanes = true) (slot : Nat) (d : WorkDesc) (p : Profile) (pc : Nat) :
    (launch slot d p s).lane pc = (s.lane pc).relaunched := by
  have hready : (s.readied d.lc).lanes = s.lanes := by rw [State.readied_eq]
  calc (launch slot d p s).lane pc
    _ = (launchLanes (s.readied d.lc)).lane pc := congrArg (sget Lanes.fresh · pc) (launch_lanes slot d p s)
    _ = ((s.readied d.lc).lane pc).relaunched := lane_launchLanes (by rw [hready]; exact hs) pc
    _ = (s.lane pc).relaunched := congrArg (fun m => (sget Lanes.fresh m pc).relaunched) hready

/-- A launch rebuilds the map, applies the settings that wait, and reaches the lanes, the stream, the trace and the
Keeper's next descriptor; the rest of the block goes on as it was. -/
theorem launch_frame (slot : Nat) (d : WorkDesc) (p : Profile) (s : State) :
    launch slot d p s = { s with
      lanes := (launch slot d p s).lanes, map := rebuildMap s.ctlCycle d.lc s.map
      osura := { s.osura with share := s.osura.sharePend.getD s.osura.share, sharePend := none }
      str := (launch slot d p s).str, trap := { s.trap with found := none, hit := false }, trc := s.trc.atLaunch
      kp := { s.kp with nextseq := (d.seq + 1) % 2 ^ 64, workTaken := s.kp.workTaken.drop 1 } } := by
  simp only [launch, loadScalars_eq, applyFar_eq, applyShare_eq]
  rw [launchLanes_lanesOnly]
  rfl

/-- The first descriptor taken starts or waits. -/
theorem exec_launch {s : State} {x : Desc} {rest : List Desc} {p : Profile} (htaken : s.kp.workTaken = x :: rest)
    (hp : Profile.ofCode (WorkDesc.parse x.bytes).profile = some p) :
    exec .launch s = if s.mayLaunch (WorkDesc.parse x.bytes) then
      .next (launch x.slot (WorkDesc.parse x.bytes) p s) else .next s := by
  change execLaunch s = _
  simp only [execLaunch, htaken, hp]

/-- Settles O45, by what a launch leaves in the stream, in each cluster's lanes, and in the rest of the block. -/
theorem launchStarts : Obligations.LaunchStarts := by
  unfold Obligations.LaunchStarts
  intro s x rest p hinv htaken hp
  rw [exec_launch htaken hp]
  obtain ⟨_, _, _, _, _, hlanes, _⟩ := hinv
  generalize WorkDesc.parse x.bytes = d
  refine ⟨fun hbarred => by rw [hbarred]; rfl, fun hmay => ⟨launch x.slot d p s, if_pos hmay, ?_⟩⟩
  obtain ⟨hlaunch, hpc, hstop, htags, hscal⟩ := launch_str x.slot d p s
  have hlane := lane_launch hlanes x.slot d p
  have hframe := launch_frame x.slot d p s
  rw [htaken, List.drop_one, List.tail_cons] at hframe
  refine ⟨hlaunch, hpc, hstop, fun i hi => ?_, fun pc m => ?_, fun pc => ?_, fun hlds => ?_, ?_, ?_, ?_, ?_⟩
  · rw [State.tagOf, htags, List.getD_replicate _ hi]
  · rw [hlane]
    rfl
  · rw [hlane]
    exact ⟨rfl, rfl⟩
  · rw [hscal, WorkDesc.scalarsOver, hlds]
    rfl
  · rw [hframe]
    rfl
  · rw [hframe]
  · rw [hframe]
  · rw [hframe]
    rfl

end Sys2Proof.Machine

namespace Sys2Proof.Machine

/-! ### ABS and NEG (R174) -/

/-- The codes that ABS and NEG leave unchanged: 0x00 and 0x80 in F8a and F8b. -/
abbrev Fmt.KeepsSign (fmt : Fmt) (a : Nat) : Prop := (fmt = .f8a ∨ fmt = .f8b) ∧ (a = 0x00 ∨ a = 0x80)

section

variable {fmt : Fmt} {a : Nat}

theorem signOp_eq_self (h : fmt.KeepsSign a) (neg : Bool) : signOp fmt neg a = a := by
  obtain ⟨hfmt, ha⟩ := h
  have hmod : a % 128 = 0 := by omega
  simp [signOp, hfmt, hmod]

/-- Every other code has its sign bit flipped by NEG, and cleared by ABS. -/
theorem signOp_of_not_keepsSign (hlt : a < 2 ^ fmt.width) (hne : ¬ fmt.KeepsSign a) (neg : Bool) :
    signOp fmt neg a = if neg then a ^^^ fmt.signBit else a % fmt.signBit := by
  refine if_neg fun h => ?_
  simp only [Bool.and_eq_true, Bool.or_eq_true, decide_eq_true_eq] at h
  obtain ⟨hfmt, hmod⟩ := h
  have hbyte : a < 256 := by
    obtain rfl | rfl := hfmt <;> exact hlt
  exact hne ⟨hfmt, by omega⟩

theorem testBit_signOp_top (hlt : a < 2 ^ fmt.width) (hne : ¬ fmt.KeepsSign a) (neg : Bool) :
    (signOp fmt neg a).testBit (fmt.width - 1) = (neg && !a.testBit (fmt.width - 1)) := by
  rw [signOp_of_not_keepsSign hlt hne, Fmt.signBit]
  cases neg with
  | false => simp [Nat.testBit_mod_two_pow]
  | true => simp [Nat.testBit_xor, Nat.testBit_two_pow_self]

theorem testBit_signOp_of_ne {i : Nat} (hlt : a < 2 ^ fmt.width) (hi : i ≠ fmt.width - 1) (neg : Bool) :
    (signOp fmt neg a).testBit i = a.testBit i := by
  by_cases hself : fmt.KeepsSign a
  · rw [signOp_eq_self hself]
  rw [signOp_of_not_keepsSign hlt hself, Fmt.signBit]
  cases neg with
  | true => simp [Nat.testBit_xor, Nat.testBit_two_pow_of_ne hi.symm]
  | false =>
    obtain hlow | hhigh := Nat.lt_or_gt_of_ne hi
    · simp [Nat.testBit_mod_two_pow, hlow]
    · have hbeyond : a < 2 ^ i := hlt.trans_le (Nat.pow_le_pow_right Nat.two_pos (by omega))
      simp [Nat.testBit_mod_two_pow, Nat.testBit_lt_two_pow hbeyond]

end

/-- ABS and NEG give the sign operation's code and no flag. -/
theorem VPlan.elem_sign {q : VPlan} {neg : Bool} {src : TileSrc} (hkind : q.kind = .sign neg) (hsrc : q.a = some src)
    (c : VCtx) (cl r j : Nat) :
    q.elem c cl r j = ⟨signOp q.fmt neg (c.src cl src r j).code, flagNone, (c.src cl src r j).isNan⟩ := by
  simp only [VPlan.elem, hkind, hsrc]

/-- Settles O42, by the sign operation's bits: F8's two codes apart, the top one flips or clears, the others stay. -/
theorem signBitOperations : Obligations.SignBitOperations := by
  unfold Obligations.SignBitOperations
  intro q c cl r j src neg hkind hsrc hlt
  rw [VPlan.elem_sign hkind hsrc]
  refine ⟨rfl, fun hfmt ha => signOp_eq_self ⟨hfmt, ha⟩ neg, fun hne => testBit_signOp_top hlt hne neg,
    fun i hi => testBit_signOp_of_ne hlt hi neg, fun hfmt hneg hcode => ?_⟩
  rw [hfmt, hneg, hcode]
  rfl

end Sys2Proof.Machine

namespace Sys2Proof.Machine

/-! ### Writes that clear sticky flags (R198, R205) -/

/-- A write that clears flags, made twice in one control cycle, clears what it clears once: `kept` is raised in that
cycle. -/
theorem clearFlags_kept_idem (f kept : FlagSet) (v : Nat) :
    clearFlags (clearFlags f v ||| kept) v ||| kept = clearFlags f v ||| kept := by
  ext i hi
  simp only [clearFlags, BitVec.getElem_or, BitVec.getElem_and, BitVec.getElem_not]
  cases f[i] <;> cases kept[i] <;> simp

@[simp] theorem Lanes.clearFlags_clearFlags (now v : Nat) (l : Lanes) :
    (l.clearFlags now v).clearFlags now v = l.clearFlags now v := by
  simp only [Lanes.clearFlags, clearFlags_kept_idem]

/-- The listed physical clusters as a write to their flags leaves them. -/
def State.clearLanes (s : State) (v : Nat) (pcs : List Nat) : State :=
  pcs.foldl (fun s pc => s.modLane pc (·.clearFlags (s.clk.ckr / 8) v)) s

theorem State.clearLanes_eq (v : Nat) (pcs : List Nat) : ∀ s : State,
    s.clearLanes v pcs = pcs.foldl (fun t pc => t.modLane pc (·.clearFlags (s.clk.ckr / 8) v)) s := by
  induction pcs with
  | nil => exact fun _ => rfl
  | cons pc pcs ih => exact fun s => ih _

theorem State.clearLanes_lanesOnly (s : State) (v : Nat) (pcs : List Nat) : s.LanesOnly (s.clearLanes v pcs) :=
  List.foldlRecOn _ _ (.refl _) fun t ht pc _ => ht.trans (t.modLane_lanesOnly pc _)

theorem State.flags_clearLanes {s : State} (hs : swf Lanes.fresh s.lanes = true) (v : Nat) (pcs : List Nat) (pc : Nat) :
    ((s.clearLanes v pcs).lane pc).flags = if pc ∈ pcs then
      clearFlags (s.lane pc).flags v ||| keptFlags (s.lane pc).raisedAt (s.clk.ckr / 8) (s.lane pc).raisedNow
    else (s.lane pc).flags := by
  rw [State.clearLanes_eq, State.lane_foldl_modLane (Lanes.clearFlags_clearFlags _ v) _ _ hs]
  split <;> rfl

@[simp] theorem clearFlags_flagNone (v : Nat) : clearFlags flagNone v = flagNone := BitVec.zero_and

@[simp] theorem keptFlags_flagNone (at_ now : Nat) : keptFlags at_ now flagNone = flagNone := ite_self _

/-- A Lantern as a write to its flags in control cycle `now` leaves it. -/
def Lantern.clearFlags (l : Lantern) (now v : Nat) : Lantern :=
  { l with flags := Machine.clearFlags l.flags v ||| keptFlags l.raisedAt now l.raisedNow }

@[simp] theorem Lantern.clearFlags_clearFlags (now v : Nat) (l : Lantern) :
    (l.clearFlags now v).clearFlags now v = l.clearFlags now v := by
  simp only [Lantern.clearFlags, clearFlags_kept_idem]

@[simp] theorem Lantern.clearFlags_fresh (now v : Nat) : Lantern.fresh.clearFlags now v = .fresh := by
  simp [Lantern.clearFlags, Lantern.fresh]

/-- A number without a Lantern reads as a fresh one, in which no flag is set. -/
theorem State.lan_clearLn (s : State) (n m v : Nat) :
    (s.clearLn n v).lan m = if m = n then (s.lan m).clearFlags (s.clk.ckr / 8) v else s.lan m := by
  have h : (s.clearLn n v).lan m =
      if m = n ∧ m < s.ln.length then (s.lan m).clearFlags (s.clk.ckr / 8) v else s.lan m := s.lan_modLn n m _
  obtain hlt | hge := Nat.lt_or_ge m s.ln.length
  · simp [h, hlt]
  · have hfresh : s.lan m = .fresh := List.getD_eq_default _ _ hge
    simp [h, hfresh]

/-- The listed Lanterns as a write to their flags leaves them. -/
def State.clearLns (s : State) (v : Nat) (ns : List Nat) : State := ns.foldl (fun s n => s.clearLn n v) s

theorem State.clearLns_frame (s : State) (v : Nat) (ns : List Nat) :
    s.clearLns v ns = { s with ln := (s.clearLns v ns).ln } :=
  List.foldlRecOn (motive := fun t : State => t = { s with ln := t.ln }) _ _ rfl fun t ht n _ => by
    rw [ht]
    rfl

theorem State.lan_clearLns (v : Nat) (ns : List Nat) (m : Nat) : ∀ s : State,
    (s.clearLns v ns).lan m = if m ∈ ns then (s.lan m).clearFlags (s.clk.ckr / 8) v else s.lan m := by
  induction ns with
  | nil => exact fun _ => rfl
  | cons n ns ih =>
    intro s
    have hcons : s.clearLns v (n :: ns) = (s.clearLn n v).clearLns v ns := rfl
    rw [hcons, ih, State.lan_clearLn, State.clearLn_clk]
    by_cases hm : m = n <;> simp [hm]

/-! ### CL_FLAGS through a window, and ENG_FLAGS (R198, R493, R494) -/

/-- A write to CL_FLAGS through a window with members reaches the members' physical clusters. -/
theorem windowWrite_clFlags {s : State} {w : Nat} (hon : s.unitsOff = false) (hmem : s.members w ≠ []) (v : Nat) :
    windowWrite w 4 v s = (false, s.clearLanes v ((s.members w).map (·.2))) := by
  have hoff : 4 ∈ windowOffsets := by decide
  simp [windowWrite, hoff, hmem, clusterWrite, hon, State.clearLanes, List.foldl_map]

/-- A read of CL_FLAGS through a window gives the OR of the members' flags. -/
theorem windowRead_clFlags (w : Nat) (s : State) :
    windowRead w 4 s = (((s.members w).map (fun m => flagWord (s.flagsOfPc m.2))).foldl (· ||| ·) 0, false, s) := by
  have hoff : 4 ∈ windowOffsets := by decide
  simp [windowRead, hoff, State.windowReg]

/-- A write to ENG_FLAGS reaches the four Lanterns, then the working clusters. -/
theorem engFlagsClear_eq {s : State} (hon : s.unitsOff = false) (v : Nat) :
    engFlagsClear v s = (s.clearLns v (upTo 4)).clearLanes v s.map.working := by
  have hmap : (s.clearLns v (upTo 4)).map = s.map := by rw [State.clearLns_frame]
  rw [← hmap]
  simp [engFlagsClear, hon, State.clearLns, State.clearLanes]

/-- Settles O9: each write's clusters, and the Lanterns of ENG_FLAGS, lose the written flags; the frame is that of the
folds over them. -/
theorem flagWritesReachMembers : Obligations.FlagWritesReachMembers := by
  unfold Obligations.FlagWritesReachMembers
  intro s w v hinv hready hon
  obtain ⟨_, _, _, _, _, hlanes, _⟩ := hinv
  refine ⟨fun hmem => ?_, fun _ => ?_, ?_⟩
  · have hexec : exec (.bcastWrite w 1#12 v) s = .next (answerWrite (windowWrite w 4 v.toNat s)) := by
      change execBcastWrite w 1#12 v s = _
      rw [execBcastWrite, hready]
      rfl
    rw [hexec, windowWrite_clFlags hon hmem]
    refine ⟨_, rfl, fun pc => ?_, ?_⟩
    · exact (State.flags_clearLanes hlanes v.toNat _ pc).trans (if_congr (by simp) rfl rfl)
    · rw [answerWrite, s.clearLanes_lanesOnly v.toNat ((s.members w).map (·.2))]
  · have hexec : exec (.bcastRead w 1#12) s = .next (answerRead (windowRead w 4 s)) := by
      change execBcastRead w 1#12 s = _
      rw [execBcastRead, hready]
      rfl
    rw [hexec, windowRead_clFlags]
    exact ⟨_, rfl, rfl⟩
  · refine ⟨_, congrArg Host.Outcome.next (State.hostWrite_ready hready (engFlagsClear v.toNat)), ?_⟩
    rw [engFlagsClear_eq hon]
    obtain ⟨ln, hln⟩ : ∃ ln, s.clearLns v.toNat (upTo 4) = { s with ln := ln } := ⟨_, s.clearLns_frame _ _⟩
    have hlan (n : Fin 4) := State.lan_clearLns v.toNat (upTo 4) n s
    rw [hln] at hlan ⊢
    have hframe := State.clearLanes_lanesOnly { s with ln := ln } v.toNat s.map.working
    refine ⟨fun pc => ?_, fun n => ?_, ?_⟩
    · exact (State.flags_clearLanes (s := { s with ln := ln }) hlanes v.toNat _ pc).trans (if_congr (by simp) rfl rfl)
    · rw [hframe]
      exact congrArg Lantern.flags ((hlan n).trans (if_pos (List.mem_range.2 n.isLt)))
    · rw [hframe]

end Sys2Proof.Machine

namespace Sys2Proof.Machine

/-! ### LOAD_TAKE_EFFECT (R275) -/

/-- A range that is not empty is asked for. -/
theorem lineRuns_ne_nil_of_mem {ranges : List (Nat × Nat)} {r : Nat × Nat} (hr : r ∈ ranges) (hlen : r.2 ≠ 0) :
    lineRuns ranges ≠ [] := by
  have hruns := splitRun_ne_nil (unit := 1024) (fuel := r.2 / 1024 + 1) (a := r.1) (off := 0) hlen
  intro hnil
  rw [lineRuns, List.flatMap_eq_nil_iff] at hnil
  exact hruns (List.map_eq_nil_iff.1 (hnil r hr))

/-- A LOAD waits for the reads of its tables. -/
theorem loadDone_waits {s : State} {n : Nat} {f : LnFetch} (htab : (s.lan n).tab = some f) (hout : f.out ≠ []) :
    loadDone n s = s := by
  cases hq : (s.lan n).q with
  | nil => simp [loadDone, hq]
  | cons c rest => cases hload : c.load <;> simp [loadDone, hq, htab, hload, hout]

/-- A stream's LOAD whose tables are here fills its slot. -/
theorem loadDone_fills {s : State} {n : Nat} {c : LnCmd} {rest : List LnCmd} {ch : LnChain} {f : LnFetch}
    (hq : (s.lan n).q = c :: rest) (hload : c.load = some ch) (htab : (s.lan n).tab = some f) (hout : f.out = [])
    (hctl : c.ctl = none) : loadDone n s = s.modLn n (fun l => { l with
      q := rest, tab := none
      slots := sset none l.slots c.slot (some { ch with tabs := ch.tables.map (fun t => (t.1, f.bytes t.2.1 t.2.2)) }) }) := by
  simp [loadDone, hq, htab, hload, hout, hctl]

section
variable {s : State} {n : Fin 4} {c : LnCmd} {rest : List LnCmd} {ch : LnChain} (hn : n.val < s.ln.length)
  (hready : s.rst.ready = true) (hstuck : (s.lan n).stuck = false) (hq : (s.lan n).q = c :: rest) (hload : c.load = some ch)

/-- No LOAD takes effect while a product is unfinished. -/
theorem exec_loadTakeEffect_busy (hprods : (s.lan n).prods ≠ []) : exec (.loadTakeEffect n) s = .next s := by
  show execLoadTakeEffect n s = _
  cases hload : (s.lan n).q.head?.bind (·.load) <;> simp [execLoadTakeEffect, hload, hprods]

include hready hstuck hq hload

theorem exec_loadTakeEffect (hprods : (s.lan n).prods = []) (htab : (s.lan n).tab = none) {f : LnFetch} {t : State}
    (hask : s.lnAsk n false (ch.tables.map (·.2)) = (f, t)) :
    exec (.loadTakeEffect n) s = .next (loadDone n (t.modLn n (fun l => { l with tab := some f }))) := by
  show execLoadTakeEffect n s = _
  simp [execLoadTakeEffect, hq, hload, hstuck, hprods, htab, hready, hask]

include hn

/-- The tables of a LOAD at the head of the queue are asked for. -/
theorem exec_loadTakeEffect_asks (hprods : (s.lan n).prods = []) (htab : (s.lan n).tab = none)
    (hlen : ∃ x ∈ ch.tables, x.2.2 ≠ 0) : ∃ (f : LnFetch) (rs : List AsyncReq) (k : Nat), f.out ≠ [] ∧ f.data = [] ∧
      (∀ r ∈ rs, r.agent = .lantern ∧ r.wr = none ∧ r.checked = false) ∧
      rs.map (fun r => (r.addr, r.len)) = lineRuns (ch.tables.map (·.2)) ∧
      exec (.loadTakeEffect n) s = .next { s.modLn n (fun l => { l with tab := some f, nreq := k }) with
        osura := { s.osura with q := s.osura.q ++ rs } } := by
  obtain ⟨x, hx, hlen⟩ := hlen
  obtain ⟨⟨f, t⟩, hft⟩ : ∃ ft, ft = s.lnAsk n false (ch.tables.map (·.2)) := ⟨_, rfl⟩
  have hasked := s.lnAsk_asked n (ch.tables.map (·.2))
  rw [← hft] at hasked
  have hout : f.out ≠ [] := hasked.out_ne_nil (lineRuns_ne_nil_of_mem (List.mem_map_of_mem hx) hlen)
  obtain ⟨rs, k, hdata, -, hreads, hruns, ht⟩ := hasked
  have hmod : t.modLn n (fun l => { l with tab := some f }) =
      { s.modLn n (fun l => { l with tab := some f, nreq := k }) with osura := { s.osura with q := s.osura.q ++ rs } } := by
    rw [show t = _ from ht, ← s.modLn_modLn n (fun l => { l with nreq := k }) (fun l => { l with tab := some f })]
    rfl
  have htab' : ((t.modLn n (fun l => { l with tab := some f })).lan n).tab = some f := by
    rw [hmod]
    exact congrArg Lantern.tab (State.lan_modLn_self hn _)
  refine ⟨f, rs, k, hout, hdata, hreads, hruns, ?_⟩
  rw [exec_loadTakeEffect hready hstuck hq hload hprods htab hft.symm, loadDone_waits htab' hout, hmod]

/-- A stream's LOAD without tables fills its slot at once. -/
theorem exec_loadTakeEffect_fills (hprods : (s.lan n).prods = []) (htab : (s.lan n).tab = none) (htables : ch.tables = [])
    (hctl : c.ctl = none) : exec (.loadTakeEffect n) s = .next (s.modLn n (fun l => { l with
      q := rest, tab := none, slots := sset none l.slots c.slot (some { ch with tabs := [] }) })) := by
  have hask : s.lnAsk n false (ch.tables.map (·.2)) = (.blank, s) := by rw [htables, List.map_nil, State.lnAsk_nil]
  have hlan := State.lan_modLn_self hn (fun l => { l with tab := some LnFetch.blank })
  rw [exec_loadTakeEffect hready hstuck hq hload hprods htab hask,
    loadDone_fills (by rw [hlan]; exact hq) hload (by rw [hlan]) rfl hctl, State.modLn_modLn, htables]
  rfl

end

end Sys2Proof.Machine

namespace Sys2Proof.Machine

/-! ### Row state moves between products (R279, R290) -/

/-- What names an announced product: its slot, its CID, its chain and its block. -/
def LnProd.name (p : LnProd) : Nat × Nat × LnChain × LnBlock := (p.slot, p.cid, p.chain, p.blk)

/-- `m` has the commands and the announced products of `l`. -/
def Lantern.SameProducts (l m : Lantern) : Prop :=
  m.q = l.q ∧ m.par = l.par ∧ m.prods.map LnProd.name = l.prods.map LnProd.name

/-- From `s` to `t` Lantern `n` has changed, but for its commands and which products are announced. -/
def State.RowsMoved (s : State) (n : Nat) (t : State) : Prop :=
  ∃ f : Lantern → Lantern, (∀ l : Lantern, l.SameProducts (f l)) ∧ t = s.modLn n f

namespace State.RowsMoved

theorem refl (s : State) (n : Nat) : s.RowsMoved n s :=
  ⟨fun l => l, fun _ => ⟨rfl, rfl, rfl⟩, (State.modLn_self rfl).symm⟩

theorem trans {s t u : State} {n : Nat} (h : s.RowsMoved n t) (h' : t.RowsMoved n u) : s.RowsMoved n u := by
  obtain ⟨f, hf, rfl⟩ := h
  obtain ⟨g, hg, rfl⟩ := h'
  refine ⟨fun l => g (f l), fun l => ?_, s.modLn_modLn n f g⟩
  obtain ⟨hq, hpar, hprods⟩ := hf l
  obtain ⟨hq', hpar', hprods'⟩ := hg (f l)
  exact ⟨hq'.trans hq, hpar'.trans hpar, hprods'.trans hprods⟩

/-- So it is after the steps of a fold, if after each of them. -/
theorem foldl {α : Type} {g : State → α → State} {n : Nat} (hg : ∀ (s : State) x, s.RowsMoved n (g s x)) (xs : List α)
    (s : State) : s.RowsMoved n (xs.foldl g s) :=
  List.foldlRecOn xs g (refl s n) fun t ht x _ => ht.trans (hg t x)

theorem modLn (s : State) (n : Nat) {f : Lantern → Lantern}
    (hf : ∀ l : Lantern, l.SameProducts (f l) := by exact fun _ => ⟨rfl, rfl, rfl⟩) : s.RowsMoved n (s.modLn n f) :=
  ⟨f, hf, rfl⟩

theorem modProd (s : State) (n cid : Nat) {f : LnProd → LnProd} (hf : ∀ p, (f p).name = p.name := by exact fun _ => rfl) :
    s.RowsMoved n (s.modProd n cid f) := by
  refine ⟨Lantern.modProd cid f, fun l => ⟨rfl, rfl, ?_⟩, s.modProd_eq n cid f⟩
  rw [Lantern.modProd, List.map_map]
  refine List.map_congr_left fun p _ => ?_
  show (if p.cid = cid then f p else p).name = p.name
  split
  · exact hf p
  · rfl

theorem raiseLn (s : State) (n : Nat) (fl : FlagSet) : s.RowsMoved n (s.raiseLn n fl) := by
  refine ⟨_, fun l => ?_, s.raiseLn_eq n fl⟩
  unfold Lantern.raised
  split <;> exact ⟨rfl, rfl, rfl⟩

end State.RowsMoved

theorem rstatBeat_rowsMoved (n : Nat) (p : LnProd) (rowt colt : Nat) (vals : List Nat) (s : State) :
    s.RowsMoved n (rstatBeat n p rowt colt vals s) := by
  refine .foldl (fun s t => ?_) _ s
  dsimp only
  split
  · exact ((State.RowsMoved.modLn s n).trans (.raiseLn _ n _)).trans (.modProd _ n _)
  · exact (State.RowsMoved.modLn s n).trans (.raiseLn _ n _)

theorem takeRows_rowsMoved (n cid i : Nat) (s : State) : s.RowsMoved n (takeRows n cid i s) := by
  unfold takeRows
  split
  next => exact .refl s n
  next p _ =>
    dsimp only
    split
    · exact (State.RowsMoved.modLn s n).trans (.modProd _ n cid)
    · exact .modProd s n cid

theorem takePend_rowsMoved (n cid i : Nat) (s : State) : s.RowsMoved n (takePend n cid i s) := by
  unfold takePend
  split
  next => exact .refl s n
  next p _ =>
    have hbeats (mine : List (Nat × Nat × List Nat)) (t : State) :
        t.RowsMoved n (mine.foldl (fun s b => rstatBeat n p b.1 b.2.1 b.2.2 s) t) :=
      .foldl (fun s b => rstatBeat_rowsMoved n p b.1 b.2.1 b.2.2 s) mine t
    dsimp only
    split
    · exact .refl s n
    · split
      · exact ((State.RowsMoved.modProd s n cid).trans (hbeats _ _)).trans (.modProd _ n cid)
      · exact (State.RowsMoved.modProd s n cid).trans (hbeats _ _)

/-- Rows that come free change neither the commands nor which products are announced. -/
theorem rowsFreed_rowsMoved (n : Nat) (s : State) : s.RowsMoved n (rowsFreed n s) := by
  refine .foldl (fun s p => .foldl (fun s i => ?_) _ s) _ s
  exact (takeRows_rowsMoved n p.cid i s).trans (takePend_rowsMoved n p.cid i _)

/-! ### PRODUCT_ANNOUNCE (R269, R281) -/

section
variable {s : State} {n : Fin 4} {c : LnCmd} {rest : List LnCmd} {b : LnBlock} {ch : LnChain}
  (hready : s.rst.ready = true) (hstuck : (s.lan n).stuck = false) (hq : (s.lan n).q = c :: rest)
  (hstart : c.start = some b) (hslot : sget none (s.lan n).slots c.slot = some ch) (hroom : (s.lan n).prods.length < 2)
  (hempty : b.empty = false)
include hready hstuck hq hstart hslot hroom hempty

/-- A START whose operands' buoys are not clear waits. -/
theorem exec_productAnnounce_waits
    (hbuoys : (pathRuns ch b 0 ++ pathRuns ch b 1).all (fun r => (s.runsNotReady r).isEmpty) = false) :
    exec (.productAnnounce n) s = .next (s.modLn n (fun l => { l with annWait := true })) := by
  show execProductAnnounce n s = _
  simp only [execProductAnnounce, hq, hstart, hslot, hstuck, hready, hempty, hbuoys, Nat.not_le.2 hroom, decide_false,
    Bool.not_true, Bool.or_self, Bool.false_eq_true, if_false]

section
variable (hrelay : (s.lan n).relay = [])
  (hbuoys : (pathRuns ch b 0 ++ pathRuns ch b 1).all (fun r => (s.runsNotReady r).isEmpty) = true)
include hrelay hbuoys

/-- A START whose operands' buoys are clear is announced; then rows that no earlier product holds come free. -/
theorem exec_productAnnounce_rowsFreed :
    ∃ (f : Lantern → Lantern) (p : LnProd), p.name = (c.slot, c.slot + 64 * bit (s.lan n).par, ch, b) ∧
      (f (s.lan n)).q = rest ∧ (f (s.lan n)).par = !(s.lan n).par ∧ (f (s.lan n)).prods = (s.lan n).prods ++ [p] ∧
      exec (.productAnnounce n) s = .next (rowsFreed n { s.modLn n f with
        out := s.out ++ [.announce n (announceWords (c.slot + 64 * bit (s.lan n).par) ch b)] }) := by
  have hexec : exec (.productAnnounce n) s = execProductAnnounce n s := rfl
  rw [hexec]
  simp only [execProductAnnounce, hq, hstart, hslot, hstuck, hready, hempty, hbuoys, hrelay, Nat.not_le.2 hroom, decide_false,
    Bool.not_true, Bool.or_self, Bool.false_eq_true, if_false, if_true, List.any_nil, State.modLn_modLn]
  exact ⟨_, _, rfl, rfl, rfl, rfl, rfl⟩

/-- The announced START leaves the queue, the parity turns, and its product stands behind those announced before. -/
theorem exec_productAnnounce_clear :
    ∃ f : Lantern → Lantern, (f (s.lan n)).q = rest ∧ (f (s.lan n)).par = !(s.lan n).par ∧
      (f (s.lan n)).prods.map LnProd.name =
        (s.lan n).prods.map LnProd.name ++ [(c.slot, c.slot + 64 * bit (s.lan n).par, ch, b)] ∧
      exec (.productAnnounce n) s = .next { s.modLn n f with
        out := s.out ++ [.announce n (announceWords (c.slot + 64 * bit (s.lan n).par) ch b)] } := by
  obtain ⟨f, p, hname, hq', hpar, hprods, hexec⟩ :=
    exec_productAnnounce_rowsFreed hready hstuck hq hstart hslot hroom hempty hrelay hbuoys
  obtain ⟨g, hg, hrows⟩ := rowsFreed_rowsMoved n { s.modLn n f with
    out := s.out ++ [.announce n (announceWords (c.slot + 64 * bit (s.lan n).par) ch b)] }
  obtain ⟨hgq, hgpar, hgprods⟩ := hg (f (s.lan n))
  refine ⟨fun l => g (f l), hgq.trans hq', hgpar.trans hpar, ?_, ?_⟩
  · rw [hgprods, hprods, List.map_append, List.map_singleton, hname]
  · rw [hexec, hrows, ← s.modLn_modLn n f g]
    rfl

end

end

end Sys2Proof.Machine

namespace Sys2Proof.Machine

/-! ### PRODUCT_COMPLETE (R282) -/

/-- A chain that stores without counting completes on no buoy. -/
theorem lnCounts_none {c : LnChain} (hepi : ∀ st ∈ c.epi, st.code = 0x1D ∧ bitOf st.p16 8 = false) (s : State) :
    lnCounts c s = s := by
  refine List.foldlRecOn (motive := fun t => t = s) _ _ rfl fun t ht st hst => ?_
  obtain ⟨hcode, hcount⟩ := hepi st hst
  rw [ht]
  simp [hcode, hcount]

/-- What the completion of a product leaves of its Lantern's relayed beats and factors: those that do not feed it. -/
def Lantern.completes (p : LnProd) (l : Lantern) : Lantern :=
  { l with
    prods := l.prods.filter (fun q => q.cid != p.cid)
    relay := l.relay.filter (fun b => (p.feeds b.src b.seq).isNone)
    facs := l.facs.filter (fun b => (p.feeds b.src b.seq).isNone) }

theorem exec_productComplete {s : State} {n : Fin 4} {p : LnProd} (hprods : (s.lan n).prods = [p]) (hworked : p.worked = true)
    (hwrites : (s.lan n).writes = []) : exec (.productComplete n) s =
      .next (lnPumpAll (lnReport n p.slot p.ctl p.blk (lnCounts p.chain (s.modLn n (Lantern.completes p))))) := by
  have hfirst : (s.lan n).prods.find? (fun p => p.worked && (s.lan n).writes.all (fun w => w.2 != p.cid)) = some p := by
    simp [hprods, hworked, hwrites]
  show execProductComplete n s = _
  simp only [execProductComplete, hfirst]
  rfl

theorem exec_productComplete_none {s : State} {n : Fin 4} (hprods : (s.lan n).prods = []) :
    exec (.productComplete n) s = .next s := by
  show execProductComplete n s = _
  simp [execProductComplete, hprods]

/-- An epilogue at rest stays so when its Lantern's only product completes. -/
theorem Lantern.AtRest.completes {l : Lantern} {p : LnProd} (h : l.AtRest) (hprods : l.prods = [p]) :
    (l.completes p).prods = [] ∧ (l.completes p).AtRest := by
  obtain ⟨hbuf, hepi, hwait, -⟩ := h
  have hnone : (l.completes p).prods = [] := by simp [Lantern.completes, hprods]
  refine ⟨hnone, hbuf, hepi, hwait, ?_⟩
  rw [Lantern.osmxReady, hnone]
  rfl

/-- The stream's product without buoys to count completes with its event, and the Lanterns rest. -/
theorem exec_productComplete_event {s : State} {n : Fin 4} {p : LnProd} (hn : n.val < s.ln.length)
    (hprods : (s.lan n).prods = [p]) (hworked : p.worked = true) (hwrites : (s.lan n).writes = [])
    (hrest : ∀ l ∈ s.ln, l.AtRest) (hepi : ∀ st ∈ p.chain.epi, st.code = 0x1D ∧ bitOf st.p16 8 = false) (hctl : p.ctl = none)
    (hevt : p.blk.evt = true) (hroom : s.evRoom = true) : exec (.productComplete n) s =
      .next { s.modLn n (Lantern.completes p) with
        evq := s.evq ++ [s.record 0x06 (n + 4 * p.slot) p.blk.evtdata 0 0] } := by
  obtain ⟨v, hv⟩ : ∃ v : State, v = { s.modLn n (Lantern.completes p) with
    evq := s.evq ++ [s.record 0x06 (n + 4 * p.slot) p.blk.evtdata 0 0] } := ⟨_, rfl⟩
  have hreport : lnReport n p.slot p.ctl p.blk (s.modLn n (Lantern.completes p)) = v := by
    have huroom : (s.modLn n (Lantern.completes p)).evRoom = true := hroom
    simp only [lnReport, hevt, hctl, if_true, State.chainEv_evRoom huroom, hv]
    rfl
  have hvrest (m : Nat) : (v.lan m).AtRest := by
    have hvlan : v.lan m = (s.modLn n (Lantern.completes p)).lan m := by rw [hv]; rfl
    rw [hvlan]
    by_cases hm : m = n
    · rw [hm, State.lan_modLn_self hn]
      exact ((State.lan_atRest hrest n).completes hprods).2
    · rw [s.lan_modLn_ne hm]
      exact State.lan_atRest hrest m
  rw [exec_productComplete hprods hworked hwrites, lnCounts_none hepi, hreport, lnPumpAll_atRest hvrest, hv]

/-- Settles O53: a LOAD's asks are those of its tables' line runs; rows that come free at an
announce move no product; a completion leaves every epilogue at rest. -/
theorem lanternCommands : Obligations.LanternCommands := by
  unfold Obligations.LanternCommands
  intro s n c rest hn hready hstuck
  refine ⟨?_, ?_, fun _ => exec_loadTakeEffect_busy, ?_, ?_, ?_, exec_productComplete_none⟩
  · intro ch hq hload hlen hprods htab
    obtain ⟨f, rs, k, hout, hdata, hreads, hruns, hexec⟩ :=
      exec_loadTakeEffect_asks hn hready hstuck hq hload hprods htab hlen
    obtain ⟨t, ht⟩ : ∃ t : State, t = { s.modLn n (fun l => { l with tab := some f, nreq := k }) with
      osura := { s.osura with q := s.osura.q ++ rs } } := ⟨_, rfl⟩
    have hlan : t.lan n = { s.lan n with tab := some f, nreq := k } := by
      rw [ht]
      exact State.lan_modLn_self hn _
    refine ⟨t, f, rs, by rw [hexec, ht], by rw [hlan], hout, hdata, by rw [ht],
      fun r hr => ⟨(hreads r hr).1, (hreads r hr).2.1⟩, by rw [hruns, lineRuns, List.flatMap_map], fun m hm => ?_,
      by rw [ht]; rfl⟩
    rw [ht]
    exact s.lan_modLn_ne hm _
  · intro ch hq hload htables hprods hctl htab
    refine ⟨_, exec_loadTakeEffect_fills hn hready hstuck hq hload hprods htab htables hctl, ?_,
      fun m hm => s.lan_modLn_ne hm _, rfl⟩
    rw [State.lan_modLn_self hn, ← htab]
  · intro b ch hq hstart hslot hroom hempty hrelay hbuoys
    obtain ⟨f, hfq, hfpar, hfprods, hexec⟩ :=
      exec_productAnnounce_clear hready hstuck hq hstart hslot hroom hempty hrelay hbuoys
    have hlan := State.lan_modLn_self hn f
    exact ⟨_, hexec, rfl, (congrArg (fun l : Lantern => l.prods.map LnProd.name) hlan).trans hfprods,
      (congrArg Lantern.q hlan).trans hfq, (congrArg Lantern.par hlan).trans hfpar, fun m hm => s.lan_modLn_ne hm _, rfl⟩
  · intro b ch hq hstart hslot hroom hempty hbuoys
    exact ⟨_, exec_productAnnounce_waits hready hstuck hq hstart hslot hroom hempty hbuoys, State.lan_modLn_self hn _,
      fun m hm => s.lan_modLn_ne hm _, rfl⟩
  · intro p hprods hworked hwrites _ hrest hepi hctl hevt hroom
    refine ⟨_, exec_productComplete_event hn hprods hworked hwrites hrest hepi hctl hevt hroom, ?_, rfl,
      fun m hm => s.lan_modLn_ne hm _, rfl⟩
    exact (congrArg Lantern.prods (State.lan_modLn_self hn _)).trans ((State.lan_atRest hrest n).completes hprods).1

end Sys2Proof.Machine

namespace Sys2Proof.Machine

/-! ### Entries of a sparse store that are put again or filtered out -/

theorem sput_sput {α : Type} (m : Sparse α) (a : Nat) (x y : α) : sput (sput m a x) a y = sput m a y := by
  induction m with
  | nil => simp [sput]
  | cons e m ih =>
    obtain ⟨k, v⟩ := e
    by_cases hk : k = a
    · simp [sput, hk]
    · by_cases hlt : a < k
      · simp [sput, hk, hlt]
      · simp [sput, hk, hlt, ih]

/-- A filter that drops the entry of a key leaves nothing of the key. -/
theorem sget_filter_dropped {α : Type} {d : α} {m : Sparse α} (p : Nat × α → Bool) {a : Nat} (hp : p (a, sget d m a) = false) :
    ∀ {b : Nat}, swfFrom d b m → sget d (m.filter p) a = d := by
  induction m with
  | nil => intro b _; rfl
  | cons e m ih =>
    obtain ⟨k, v⟩ := e
    intro b h
    obtain ⟨-, -, hm⟩ := swfFrom_cons.1 h
    by_cases hka : k = a
    · subst hka
      rw [sget, if_pos rfl] at hp
      rw [List.filter_cons_of_neg (by simp [hp])]
      exact sget_of_lt (swfFrom_filter p hm) (Nat.lt_succ_self k)
    · have hrest : sget d ((k, v) :: m) a = sget d m a := by
        rw [sget, if_neg hka]
        split
        · exact (sget_of_lt hm (by omega)).symm
        · rfl
      rw [hrest] at hp
      rw [List.filter_cons]
      split
      · rw [sget, if_neg hka, ih hp hm, ite_self]
      · exact ih hp hm

/-- Of two values that a channel is set to, neither Idle, the later one stays. -/
theorem State.setChan_setChan {x y : Chan} (hx : x.st ≠ .idle) (hy : y.st ≠ .idle) (s : State) (c : Nat) :
    (s.setChan c x).setChan c y = s.setChan c y := by
  have hxne : x ≠ Chan.idle := fun e => hx (congrArg Chan.st e)
  have hyne : y ≠ Chan.idle := fun e => hy (congrArg Chan.st e)
  simp only [State.setChan, sset, if_neg hxne, if_neg hyne, sput_sput]

/-! ### Reads of a channel (R311, R318) -/

/-- From `s` to `t` channel `c` has asked Osura for the lines `runs`: address and length of each. -/
def State.TdAsked (s : State) (c : Nat) (runs : List (Nat × Nat)) (t : State) : Prop :=
  ∃ (rs : List AsyncReq), t.chan c = { s.chan c with reads := (t.chan c).reads, nreq := (t.chan c).nreq } ∧
    (∀ k, k ≠ c → t.chan k = s.chan k) ∧ swf Chan.idle t.td.ch = true ∧
    (∀ r ∈ rs, r.agent = .tender ∧ r.wr = none) ∧ rs.map (fun r => (r.addr, r.len)) = runs ∧
    t = { s with td := { s.td with ch := t.td.ch }, osura := { s.osura with q := s.osura.q ++ rs } }

theorem State.TdAsked.nil {s : State} (hwf : swf Chan.idle s.td.ch = true) (c : Nat) : s.TdAsked c [] s :=
  ⟨[], rfl, fun _ _ => rfl, hwf, by simp, rfl, by rw [List.append_nil]⟩

/-- One more line is asked for. -/
theorem State.TdAsked.snoc {s t : State} {c : Nat} {runs : List (Nat × Nat)} (h : s.TdAsked c runs t)
    (reads : List TdRead) (n req a len : Nat) : s.TdAsked c (runs ++ [(a, len)])
      ((t.setChan c { t.chan c with nreq := n, reads := reads }).askOsura .tender (.tender c req) a len none) := by
  obtain ⟨rs, hself, hother, hwf, hreads, hruns, ht⟩ := h
  obtain ⟨u, hu⟩ : ∃ u, u = t.setChan c { t.chan c with nreq := n, reads := reads } := ⟨_, rfl⟩
  have hchan (k : Nat) : u.chan k = if k = c then { t.chan c with nreq := n, reads := reads } else t.chan k := by
    rw [hu]
    exact t.chan_setChan c k _ hwf
  have hframe : u = { t with td := { t.td with ch := u.td.ch } } := by rw [hu]; rfl
  rw [← hu]
  refine ⟨rs ++ [⟨.tender, .tender c req, a, len, none, 1, s.clk.cyc, false, 0, false, 0, false⟩], ?_, fun k hk => ?_, ?_, ?_,
    by simp [hruns], ?_⟩
  · show u.chan c = { s.chan c with reads := (u.chan c).reads, nreq := (u.chan c).nreq }
    rw [hchan, if_pos rfl, hself]
  · show u.chan k = _
    rw [hchan, if_neg hk, hother k hk]
  · show swf Chan.idle u.td.ch = true
    rw [hu]
    exact swf_sset c _ hwf
  · simpa [or_imp, forall_and] using hreads
  · rw [hframe, ht, State.askOsura]
    simp only [List.append_assoc]

/-- A read of a run in Osura asks for its lines. -/
theorem tdRead_asked {s : State} (hwf : swf Chan.idle s.td.ch = true) (c kind a len pos : Nat) :
    s.TdAsked c ((splitRun 1024 (len / 256 + 2) a len 0).map (fun y => (y.1, y.2.1))) (tdRead c kind false a len pos s) := by
  simp only [tdRead, Bool.false_eq_true, if_false]
  generalize splitRun 1024 (len / 256 + 2) a len 0 = segs
  induction segs using List.reverseRecOn with
  | nil => exact .nil hwf c
  | append_singleton segs y ih =>
    rw [List.foldl_concat, List.map_append]
    exact ih.snoc _ _ _ _ _

/-! ### A transfer starts (R307, R311, R317) -/

/-- A channel has started one more transfer (R334). -/
def State.countStart (s : State) (c : Nat) : State :=
  { s with td := { s.td with count := smod 0 s.td.count c (· + 1) } }

/-- A channel as a transfer sets it that starts on it (R307). -/
def Chan.starts (x : Xfer) (ring : Option Nat) (p : Profile) : Chan :=
  { Chan.idle with st := .busy, x := x, ring := ring, prof := p }

/-- A transfer of length 0 is over at once (R317). -/
theorem tdStart_empty {x : Xfer} (hempty : x.empty = true) (c : Nat) (ring : Option Nat) (p : Profile) (s : State) :
    tdStart c x ring p s = (s.countStart c).setChan c { Chan.starts x ring p with st := .finished } := by
  have hset := State.setChan_setChan (x := Chan.starts x ring p) (y := { Chan.starts x ring p with st := .finished })
    (show ChSt.busy ≠ .idle by decide) (show ChSt.finished ≠ .idle by decide) (s.countStart c) c
  rw [← hset, tdStart, if_pos hempty]
  rfl

theorem Xfer.rows_pos {x : Xfer} (hempty : x.empty = false) : 0 < x.rows := by
  simp only [Xfer.empty, Bool.or_eq_false_iff, beq_eq_false_iff_ne] at hempty
  obtain ⟨⟨-, hn1⟩, hn2⟩ := hempty
  exact Nat.mul_pos (Nat.pos_of_ne_zero hn1) (Nat.pos_of_ne_zero hn2)

theorem Xfer.len_pos {x : Xfer} (hempty : x.empty = false) : 0 < x.len := by
  simp only [Xfer.empty, Bool.or_eq_false_iff, beq_eq_false_iff_ne] at hempty
  obtain ⟨⟨hlen, -⟩, -⟩ := hempty
  exact Nat.pos_of_ne_zero hlen

theorem Xfer.srcJoined_pos {x : Xfer} (hempty : x.empty = false) : 0 < x.srcJoined := by
  have hrows : 0 < x.n1 * x.n2 := x.rows_pos hempty
  have hn1 : 0 < x.n1 := Nat.pos_of_mul_pos_right hrows
  unfold Xfer.srcJoined rowsJoined
  split
  · split
    · exact hrows
    · exact hn1
  · exact Nat.one_pos

/-- A row by itself is one piece. -/
theorem runPieces_one (start : Nat → Nat) {len : Nat} (hlen : 0 < len) :
    runPieces start len 1 0 len = [(start 0, len, 0)] := by
  have hone : ceilDiv len len = 1 := by
    rw [ceilDiv, Nat.div_eq_of_lt_le] <;> omega
  simp [runPieces, hone, fromTo]

/-- An in-memory MOVE without scales asks for its first row. -/
theorem tdStart_move {x : Xfer} (hempty : x.empty = false) (hkind : x.kind = 1) (hsrc : x.ssp = false) (hdst : x.dsp = false)
    (hfour : x.conv ≠ 4) (hsix : x.conv ≠ 6) (c : Nat) (ring : Option Nat) (p : Profile) (s : State) :
    tdStart c x ring p s = tdRead c 0 false (x.srcRow [] 0) x.len 0
      ((s.countStart c).setChan c { Chan.starts x ring p with phase := 1 }) := by
  have hbusy : ChSt.busy ≠ .idle := by decide
  have hset (y z : Chan) (hy : y.st = .busy) (hz : z.st = .busy) : ((s.countStart c).setChan c y).setChan c z =
      (s.countStart c).setChan c z := State.setChan_setChan (by rw [hy]; decide) (by rw [hz]; decide) _ c
  have hchan : ((s.countStart c).setChan c (Chan.starts x ring p)).chan c = Chan.starts x ring p :=
    State.chan_setChan_self hbusy _ c
  have hbatch : x.batch = 1 := by simp [Xfer.batch, hkind, hsrc, hdst]
  have hjoined : min 1 x.srcJoined = 1 := Nat.min_eq_left (x.srcJoined_pos hempty)
  have hrows : ¬ x.rows ≤ 0 := Nat.not_le.2 (x.rows_pos hempty)
  have hstart : tdStart c x ring p s = tdStartRow c ((s.countStart c).setChan c (Chan.starts x ring p)) := by
    simp only [tdStart, hempty, hkind, Bool.false_eq_true, if_false]
    rfl
  rw [hstart, tdStartRow, hchan]
  simp only [Chan.starts] at hset ⊢
  simp [Chan.idle, hkind, hrows, hjoined, hbatch, runPieces_one _ (x.len_pos hempty), hfour, hsix, hsrc, hset]

/-! ### Completion records (R323, R376, R444) -/

theorem recPump_none {s : State} (h : s.kp.recQ = []) : recPump s = s := by simp only [recPump, h]

theorem recPump_one {s : State} {slot word : Nat} {ev : Option EvRec} (h : s.kp.recQ = [(slot, word, ev)]) {tag : Nat}
    (htag : s.sysTag = some tag) : recPump s = State.sysWrite { s with kp := { s.kp with recQ := [] } } tag
      (.xrec slot word ev) (s.kp.xfer.base + slot * 64 + 56) (toBytes 4 word) := by
  simp only [recPump, h, htag]

/-- With no record before it and a SYS tag free, a slot's record is written at once. -/
theorem queueRecord_now {s : State} (hq : s.kp.recQ = []) {tag : Nat} (htag : s.sysTag = some tag) (slot word : Nat)
    (ev : Option EvRec) : queueRecord slot word ev s =
      s.sysWrite tag (.xrec slot word ev) (s.kp.xfer.base + slot * 64 + 56) (toBytes 4 word) := by
  have hback : { s with kp := { s.kp with recQ := [] } } = s := by rw [← hq]
  rw [queueRecord, hq, List.nil_append]
  exact (recPump_one (s := { s with kp := { s.kp with recQ := [(slot, word, ev)] } }) rfl htag).trans (congrArg
    (fun u : State => u.sysWrite tag (.xrec slot word ev) (s.kp.xfer.base + slot * 64 + 56) (toBytes 4 word)) hback)

/-- RETIRE moves on over slots whose records have been written, and nothing else changes. -/
theorem retireGo_eq (fuel : Nat) : ∀ s : State, ∃ xdone xretire xretired, retireGo fuel s = { s with
    kp := { s.kp with xdone := xdone, xretire := xretire, xretired := xretired } } := by
  induction fuel with
  | zero => exact fun s => ⟨_, _, _, rfl⟩
  | succ fuel ih =>
    intro s
    rw [retireGo]
    split
    · exact ih _
    · exact ⟨_, _, _, rfl⟩

/-- The channels without those that are Recording `slot`. -/
def State.recordsOver (s : State) (slot : Nat) : Sparse Chan :=
  s.td.ch.filter (fun x => !(x.2.st == .recording && x.2.ring == some slot))

/-- A written record queues its event, and its channel is free (R323, R376). -/
theorem recWritten_eq {s : State} (hroom : s.evRoom = true) (slot : Nat) (ev : Option EvRec) :
    ∃ xdone xretire xretired, recWritten slot ev s = { s with
      td := { s.td with ch := s.recordsOver slot }, evq := s.evq ++ ev.toList
      kp := { s.kp with xdone := xdone, xretire := xretire, xretired := xretired } } := by
  cases ev with
  | none =>
    rw [Option.toList_none, List.append_nil]
    exact retireGo_eq _ _
  | some e =>
    rw [recWritten]
    simp only [State.pushOrDrop_evRoom hroom]
    exact retireGo_eq _ _

/-- No record writes are made again that no ERING_HEAD write has asked for (R384). -/
theorem evRetry_none {s : State} (h : s.kp.evAgain = false) (fuel : Nat) : evRetry fuel s = s := by
  cases fuel with
  | zero => rfl
  | succ fuel => simp only [evRetry, h]

/-- A successful answer to the one SYS request, a slot's record (R444, R445). -/
theorem exec_sysResponse_record {s : State} {q : SysReq} {tag : BitVec 5} {slot word : Nat} {ev : Option EvRec} {bs : List Byte}
    (hpor : s.rst.por = false) (hlen : bs.length = 64) (hsys : s.kp.sys = [q]) (htag : q.tag = tag.toNat)
    (hwhat : q.what = .xrec slot word ev) (hq : s.kp.recQ = []) (hagain : s.kp.evAgain = false) (hroom : s.evRoom = true) :
    ∃ xdone xretire xretired, exec (.sysResponse tag 0#2 bs) s = .next { s with
      td := { s.td with ch := s.recordsOver slot }, evq := s.evq ++ ev.toList
      kp := { s.kp with sys := [], xdone := xdone, xretire := xretire, xretired := xretired } } := by
  obtain ⟨u, hu⟩ : ∃ u : State, u = { s with kp := { s.kp with sys := [] } } := ⟨_, rfl⟩
  have hexec : exec (.sysResponse tag 0#2 bs) s =
      .next (evRetry (u.kp.evBad.length + 2) (recPump (recWritten slot ev u))) := by
    show execSysResponse tag 0#2 bs s = _
    simp only [execSysResponse, hlen, hpor, hsys, htag, sysAnswer, hwhat, hu, List.find?_cons, List.erase_cons_head,
      beq_self_eq_true, bne_self_eq_false, Bool.false_eq_true, if_false]
    rfl
  obtain ⟨xdone, xretire, xretired, hwritten⟩ := recWritten_eq (s := u) (by rw [hu]; exact hroom) slot ev
  refine ⟨xdone, xretire, xretired, ?_⟩
  rw [hexec, recPump_none (by rw [hwritten, hu]; exact hq), evRetry_none (by rw [hwritten, hu]; exact hagain), hwritten, hu]
  rfl

/-! ### TRANSFER_COMPLETE (R323) -/

/-- A producer completion of an armed buoy that no command has acted on in this cycle (R75). -/
theorem State.complete_armed {s : State} {n : Nat} (hwf : swf Buoy.idle s.buoys.b = true) (harmed : (s.buoy n).st ≠ .free)
    (hcmd : s.commanded n = false) (source : Nat) :
    (∀ m, ((s.complete n source).buoy m).p = if m = n then (s.buoy m).p - 1 else (s.buoy m).p) ∧
      s.complete n source = { s with
        str := { s.str with cmds := (s.complete n source).str.cmds }
        buoys := { s.buoys with
          b := (s.complete n source).buoys.b, before := (s.complete n source).buoys.before
          changedAt := (s.complete n source).buoys.changedAt } } := by
  obtain ⟨hself, hother, hframe⟩ := State.countAt_armed 0x2 source (f := Buoy.completed) hcmd harmed hwf
  obtain ⟨u, hu⟩ : ∃ u, u = s.countAt n 0x2 source Buoy.completed := ⟨_, rfl⟩
  have hcomplete : s.complete n source = { u with str := { u.str with cmds := (s.complete n source).str.cmds } } := by
    rw [State.complete, State.alsoWithout_frame, ← hu]
  have hbuoys : (s.complete n source).buoys = u.buoys := by rw [hcomplete]
  rw [← hu] at hself hother hframe
  refine ⟨fun m => ?_, ?_⟩
  · rw [State.buoy, hbuoys]
    show (u.buoy m).p = _
    split
    · subst m
      rw [hself, Buoy.completed_eq harmed]
    · rename_i hm
      rw [hother m hm]
  · rw [hbuoys, hcomplete, hframe]

/-- The producer completion of a transfer, where its descriptor asks for one (R323). -/
def State.completeIf (s : State) (x : Xfer) : State := if x.ben then s.complete x.buoy 3 else s

theorem State.completeIf_armed {s : State} {x : Xfer} (hwf : swf Buoy.idle s.buoys.b = true)
    (hben : x.ben = true → (s.buoy x.buoy).st ≠ .free ∧ s.commanded x.buoy = false) :
    (∀ m, ((s.completeIf x).buoy m).p = if x.ben = true ∧ m = x.buoy then (s.buoy m).p - 1 else (s.buoy m).p) ∧
      s.completeIf x = { s with
        str := { s.str with cmds := (s.completeIf x).str.cmds }
        buoys := { s.buoys with
          b := (s.completeIf x).buoys.b, before := (s.completeIf x).buoys.before
          changedAt := (s.completeIf x).buoys.changedAt } } := by
  unfold State.completeIf
  cases hb : x.ben with
  | false => simp
  | true =>
    obtain ⟨harmed, hcmd⟩ := hben hb
    simpa using State.complete_armed hwf harmed hcmd 3

/-- The end of a TND's transfer: its completion, its event if it asks for one, and an Idle channel (R323). -/
theorem exec_transferComplete_tnd {s : State} {c : Fin 128} (hst : (s.chan c).st = .finished) (hstatus : (s.chan c).status ≤ 1)
    (hring : (s.chan c).ring = none) (hroom : (s.completeIf (s.chan c).x).evRoom = true) :
    exec (.transferComplete c) s = .next (State.setChan { s.completeIf (s.chan c).x with
      evq := (s.completeIf (s.chan c).x).evq ++ (if (s.chan c).x.evt then
        [(s.completeIf (s.chan c).x).xferEv c (s.chan c).status (s.chan c).x.evtdata none] else []) } c Chan.idle) := by
  have hcount : (if (s.chan c).x.ben && (s.chan c).status ≤ 1 then s.complete (s.chan c).x.buoy 3 else s) =
      s.completeIf (s.chan c).x := by
    simp [State.completeIf, hstatus]
  show execTransferComplete c s = _
  simp only [execTransferComplete, hst, hring, hcount, bne_self_eq_false, Bool.false_eq_true, if_false]
  generalize s.completeIf (s.chan c).x = u at hroom
  cases (s.chan c).x.evt with
  | false => simp
  | true =>
    simp only [if_true, State.pushOrDrop_evRoom hroom]
    rfl

/-- The end of a slot's transfer with no buoy: its record is queued, and the channel waits for it (R323, R376). -/
theorem exec_transferComplete_slot {s : State} {c : Fin 128} {slot : Nat} (hst : (s.chan c).st = .finished)
    (hring : (s.chan c).ring = some slot) (hben : (s.chan c).x.ben = false) :
    ∃ ev, exec (.transferComplete c) s =
      .next (queueRecord slot ((s.chan c).status + 2 ^ 31) ev (s.setChan c { s.chan c with st := .recording })) := by
  refine ⟨if (s.chan c).x.evt then some (s.xferEv c (s.chan c).status (s.chan c).x.evtdata (some slot)) else none, ?_⟩
  show execTransferComplete c s = _
  simp only [execTransferComplete, hst, hring, hben, bne_self_eq_false, Bool.false_and, Bool.false_eq_true, if_false]

/-! ### TRANSFER_START (R307, R316, R376) -/

/-- The reason of a refusal in DESC_ERR, 0 where there is none (R316, R381). -/
def XferCheck.reason : XferCheck → Nat
  | .ok => 0
  | .rsvd => 1
  | .bounds => 2
  | .profile => 3

theorem Xfer.check_none (x : Xfer) : (x.check none).reason = if x.fieldsOk = false then 1 else 3 := by
  cases hf : x.fieldsOk <;> simp [Xfer.check, hf, XferCheck.reason]

theorem Xfer.check_some (x : Xfer) (p : Profile) : (x.check (some p)).reason =
    if x.fieldsOk = false then 1
    else if x.conv ≠ 0 ∧ ¬ (p.accepts (convFmts x.conv).1 = true ∧ p.accepts (convFmts x.conv).2 = true) then 3
    else if x.addrOk = false then 2 else 0 := by
  have hconv : (x.conv != 0 && !(p.accepts (convFmts x.conv).1 && p.accepts (convFmts x.conv).2)) = true ↔
      x.conv ≠ 0 ∧ ¬ (p.accepts (convFmts x.conv).1 = true ∧ p.accepts (convFmts x.conv).2 = true) := by
    rw [Bool.and_eq_true, bne_iff_ne, Bool.not_eq_true', ← Bool.not_eq_true, Bool.and_eq_true]
  unfold Xfer.check
  cases x.fieldsOk with
  | false => rfl
  | true =>
    simp only [Bool.not_true, Bool.true_eq_false, Bool.false_eq_true, if_false, hconv]
    split
    · rfl
    · cases x.addrOk <;> rfl

/-- A refused descriptor is reported, and its record written at once where none waits and a SYS tag is free (R376). -/
theorem refuseTransfer_now {s : State} (hq : s.kp.recQ = []) {tag : Nat} (htag : s.sysTag = some tag) (slot reason : Nat)
    (x : Xfer) : refuseTransfer slot reason x s =
      (s.descErr 1 slot reason x.kind x.evtdata).sysWrite tag (.xrec slot (2 ^ 31 + 2 ^ 30) none)
        (s.kp.xfer.base + slot * 64 + 56) (toBytes 4 (2 ^ 31 + 2 ^ 30)) :=
  queueRecord_now (s := s.descErr 1 slot reason x.kind x.evtdata) hq htag slot _ none

/-- The Transfer-ring descriptors that have been taken and not started are `rest`. -/
def State.withXferTaken (s : State) (rest : List Desc) : State := { s with kp := { s.kp with xferTaken := rest } }

/-- A channel that is at no SEND sends nothing. -/
theorem sendPump_none {s : State} {c : Nat} (h : (s.chan c).st ≠ .busy ∨ (s.chan c).x.kind ≠ 5) : sendPump c s = s := by
  have hnot : ((s.chan c).st == .busy && (s.chan c).x.kind == 5) = false := by
    obtain h | h := h <;> simp [h]
  simp [sendPump, hnot]

section
variable {s : State} {d : Desc} {rest : List Desc} (htaken : s.kp.xferTaken = d :: rest) (hmay : s.mayStart = true)
  (hhold : s.ring.hold = false) (hstopped : s.flt.stopped = false) (hunit : s.flt.unitdown = false)
include htaken hmay hhold hstopped hunit

theorem exec_transferStart_refuses {x : Xfer} (hx : x = Xfer.ofBytes d.bytes) {reason : Nat}
    (hreason : reason = (x.check (Profile.ofCode x.profile)).reason) (hne : reason ≠ 0) :
    exec .transferStart s = .next (refuseTransfer d.slot reason x (s.withXferTaken rest)) := by
  subst hreason
  show execTransferStart s = _
  simp only [execTransferStart, htaken, hmay, hhold, hstopped, hunit, ← hx, Bool.not_true, Bool.or_self, Bool.false_eq_true,
    if_false]
  cases hcheck : x.check (Profile.ofCode x.profile) with
  | ok => exact absurd (by rw [hcheck]; rfl) hne
  | rsvd => rfl
  | bounds => rfl
  | profile => rfl

theorem exec_transferStart_starts {x : Xfer} {c : Nat} {p : Profile} (hx : x = Xfer.ofBytes d.bytes)
    (hc : c = x.half * 64 + x.ch) (hsent : s.sentNow 3 c = 0) (hp : Profile.ofCode x.profile = some p)
    (hcheck : x.check (some p) = .ok) (hidle : (s.chan c).st = .idle) : exec .transferStart s =
      .next ((sendPump c (tdStart c x (some d.slot) p (s.withXferTaken rest))).order 3 c) := by
  have hback : (s.withXferTaken rest).tndBack c = s.withXferTaken rest := State.tndBack_self hsent
  have hidle' : ((s.withXferTaken rest).chan c).st = .idle := hidle
  unfold State.withXferTaken at hback hidle'
  show execTransferStart s = _
  simp [execTransferStart, htaken, hmay, hhold, hstopped, hunit, ← hx, hp, hcheck, ← hc, hback, hidle', State.withXferTaken]

/-- A refused descriptor leaves the ring with its report and its record (R376). -/
theorem exec_transferStart_refuses_now {x : Xfer} (hx : x = Xfer.ofBytes d.bytes) {reason tag : Nat} (hq : s.kp.recQ = [])
    (htag : s.sysTag = some tag) (hreason : reason = (x.check (Profile.ofCode x.profile)).reason) (hne : reason ≠ 0) :
    ∃ t, exec .transferStart s = .next t ∧
      t.evq = s.evq ++ [⟨0x02, 2, d.slot, s.clk.ticks % 2 ^ 32, s.seqNow, reason + 256 * x.kind, x.evtdata, 0, 0⟩] ∧
      t.out = s.out ++ [.sysWrite tag (s.kp.xfer.base + d.slot * 64 + 56) (toBytes 4 (2 ^ 31 + 2 ^ 30))] ∧
      t = { s with kp := { s.kp with xferTaken := rest, sys := t.kp.sys }, evq := t.evq, out := t.out } := by
  have hrefuse := refuseTransfer_now (s := s.withXferTaken rest) hq htag d.slot reason x
  refine ⟨_, exec_transferStart_refuses htaken hmay hhold hstopped hunit hx hreason hne, ?_⟩
  rw [hrefuse]
  exact ⟨rfl, rfl, rfl⟩

section
variable {x : Xfer} {c : Nat} {p : Profile} (hwf : swf Chan.idle s.td.ch = true) (hx : x = Xfer.ofBytes d.bytes)
  (hc : c = x.half * 64 + x.ch) (hsent : s.sentNow 3 c = 0) (hp : Profile.ofCode x.profile = some p)
  (hcheck : x.check (some p) = .ok) (hidle : (s.chan c).st = .idle)
include hwf hx hc hsent hp hcheck hidle

/-- A transfer of length 0 has finished when it starts (R317). -/
theorem exec_transferStart_empty (hempty : x.empty = true) : ∃ t, exec .transferStart s = .next t ∧
    (∀ k, t.chan k = if k = c then { Chan.idle with st := .finished, x := x, ring := some d.slot, prof := p }
      else s.chan k) ∧
    t = { s with
      td := { s.td with ch := t.td.ch, count := t.td.count }
      kp := { s.kp with xferTaken := rest, orders := t.kp.orders } } := by
  have hexec := exec_transferStart_starts htaken hmay hhold hstopped hunit hx hc hsent hp hcheck hidle
  rw [tdStart_empty hempty] at hexec
  have hchan (k : Nat) := ((s.withXferTaken rest).countStart c).chan_setChan c k
    { Chan.starts x (some d.slot) p with st := .finished } hwf
  have hover : ((((s.withXferTaken rest).countStart c).setChan c
      { Chan.starts x (some d.slot) p with st := .finished }).chan c).st ≠ .busy := by
    rw [hchan, if_pos rfl]
    exact show ChSt.finished ≠ .busy by decide
  rw [sendPump_none (.inl hover)] at hexec
  exact ⟨_, hexec, hchan, rfl⟩

/-- An in-memory MOVE without scales is Busy, and has asked for the lines of its first row (R311, R318). -/
theorem exec_transferStart_move (hempty : x.empty = false) (hkind : x.kind = 1) (hsrc : x.ssp = false)
    (hdst : x.dsp = false) (hfour : x.conv ≠ 4) (hsix : x.conv ≠ 6) : ∃ t rs, exec .transferStart s = .next t ∧
      (t.chan c).st = .busy ∧ (t.chan c).x = x ∧ (t.chan c).ring = some d.slot ∧ (t.chan c).prof = p ∧
      (t.chan c).row = 0 ∧ (t.chan c).phase = 1 ∧ (∀ k, k ≠ c → t.chan k = s.chan k) ∧
      t.osura.q = s.osura.q ++ rs ∧ (∀ r ∈ rs, r.agent = .tender ∧ r.wr = none) ∧
      rs.map (fun r => (r.addr, r.len)) =
        (splitRun 1024 (x.len / 256 + 2) (x.srcRow [] 0) x.len 0).map (fun y => (y.1, y.2.1)) ∧
      t = { s with
        td := { s.td with ch := t.td.ch, count := t.td.count }, osura := { s.osura with q := t.osura.q }
        kp := { s.kp with xferTaken := rest, orders := t.kp.orders } } := by
  have hexec := exec_transferStart_starts htaken hmay hhold hstopped hunit hx hc hsent hp hcheck hidle
  obtain ⟨u, hu⟩ : ∃ u, u = ((s.withXferTaken rest).countStart c).setChan c
    { Chan.starts x (some d.slot) p with phase := 1 } := ⟨_, rfl⟩
  rw [tdStart_move hempty hkind hsrc hdst hfour hsix, ← hu] at hexec
  have huchan (k : Nat) : u.chan k =
      if k = c then { Chan.starts x (some d.slot) p with phase := 1 } else s.chan k := by
    rw [hu]
    exact ((s.withXferTaken rest).countStart c).chan_setChan c k _ hwf
  have huwf : swf Chan.idle u.td.ch = true := by
    rw [hu]
    exact swf_sset c { Chan.starts x (some d.slot) p with phase := 1 } hwf
  obtain ⟨rs, hself, hother, -, hreads, hruns, ht⟩ := tdRead_asked huwf c 0 (x.srcRow [] 0) x.len 0
  generalize tdRead c 0 false (x.srcRow [] 0) x.len 0 u = t at hexec hself hother ht
  rw [huchan, if_pos rfl] at hself
  have hkind' : (t.chan c).x.kind ≠ 5 := by
    rw [hself]
    show x.kind ≠ 5
    rw [hkind]
    decide
  rw [sendPump_none (.inr hkind')] at hexec
  have hq : t.osura.q = s.osura.q ++ rs := by rw [ht, hu]; rfl
  refine ⟨_, rs, hexec, congrArg Chan.st hself, congrArg Chan.x hself, congrArg Chan.ring hself, congrArg Chan.prof hself,
    congrArg Chan.row hself, congrArg Chan.phase hself, fun k hk => ?_, hq, hreads, hruns, ?_⟩
  · rw [show (t.order 3 c).chan k = t.chan k from rfl, hother k hk, huchan, if_neg hk]
  · rw [State.order_osura, hq, ht, hu]
    rfl

end

end

end Sys2Proof.Machine

namespace Sys2Proof.Machine

/-! ### The end of a transfer as it is seen (R323, R376, R445) -/

/-- The end of a TND's transfer: the completion counts, and the event is queued (R323). -/
theorem exec_transferComplete_counts {s : State} {c : Fin 128} (hinv : s.Inv) (hst : (s.chan c).st = .finished)
    (hstatus : (s.chan c).status ≤ 1) (hring : (s.chan c).ring = none) (hroom : s.evRoom = true)
    (hben : (s.chan c).x.ben = true → (s.buoy (s.chan c).x.buoy).st ≠ .free ∧ s.commanded (s.chan c).x.buoy = false) :
    ∃ t, exec (.transferComplete c) s = .next t ∧
      (∀ k, t.chan k = if k = c.val then Chan.idle else s.chan k) ∧
      (∀ n, (t.buoy n).p = if (s.chan c).x.ben = true ∧ n = (s.chan c).x.buoy then (s.buoy n).p - 1 else (s.buoy n).p) ∧
      t.evq = s.evq ++ (if (s.chan c).x.evt then [⟨0x05, 0, 0, s.clk.ticks % 2 ^ 32, s.seqNow,
        c / 64 + c % 64 * 2 + (s.chan c).status * 256, (s.chan c).x.evtdata, 0, 0⟩] else []) ∧
      t = { s with
        td := { s.td with ch := t.td.ch }, str := { s.str with cmds := t.str.cmds }
        buoys := { s.buoys with b := t.buoys.b, before := t.buoys.before, changedAt := t.buoys.changedAt }
        evq := t.evq } := by
  obtain ⟨hp, hframe⟩ := State.completeIf_armed hinv.buoys hben
  have hexec := exec_transferComplete_tnd hst hstatus hring (by rw [hframe]; exact hroom)
  generalize s.completeIf (s.chan c).x = u at hp hframe hexec
  refine ⟨_, hexec, fun k => ?_, hp, ?_, ?_⟩
  · rw [hframe]
    exact s.chan_setChan c k Chan.idle hinv.channels
  · rw [hframe]
    rfl
  · rw [hframe]
    rfl

/-- The end of a slot's transfer: its record is written, and the channel waits for the answer (R323, R376). -/
theorem exec_transferComplete_records {s : State} {c : Fin 128} {slot tag : Nat} (hinv : s.Inv)
    (hst : (s.chan c).st = .finished) (hring : (s.chan c).ring = some slot) (hben : (s.chan c).x.ben = false)
    (hq : s.kp.recQ = []) (htag : s.sysTag = some tag) : ∃ t, exec (.transferComplete c) s = .next t ∧
      (∀ k, t.chan k = if k = c.val then { s.chan c with st := .recording } else s.chan k) ∧
      t.out = s.out ++ [.sysWrite tag (s.kp.xfer.base + slot * 64 + 56) (toBytes 4 ((s.chan c).status + 2 ^ 31))] ∧
      t = { s with td := { s.td with ch := t.td.ch }, kp := { s.kp with sys := t.kp.sys }, out := t.out } := by
  obtain ⟨ev, hexec⟩ := exec_transferComplete_slot hst hring hben
  rw [queueRecord_now (s := s.setChan c { s.chan c with st := .recording }) hq htag] at hexec
  exact ⟨_, hexec, fun k => s.chan_setChan c k _ hinv.channels, rfl, rfl⟩

/-- A Recording channel is Idle once its slot's record has been written (R323). -/
theorem State.sget_recordsOver {s : State} {c slot : Nat} (hwf : swf Chan.idle s.td.ch = true)
    (hst : (s.chan c).st = .recording) (hring : (s.chan c).ring = some slot) :
    sget Chan.idle (s.recordsOver slot) c = Chan.idle := by
  refine sget_filter_dropped _ ?_ (swf_iff.1 hwf)
  show (!((s.chan c).st == .recording && (s.chan c).ring == some slot)) = false
  simp [hst, hring]

/-- Settles O46: refusals, empty transfers and the first row of a MOVE, and the two steps in which a transfer ends. -/
theorem transfersRun : Obligations.TransfersRun := by
  unfold Obligations.TransfersRun
  refine ⟨fun s d rest hinv htaken hmay hhold hstopped hunit x c hx hc hsent => ⟨fun reason tag hq htag hreason hne => ?_,
    fun p hp hcheck hidle => ⟨exec_transferStart_empty htaken hmay hhold hstopped hunit hinv.channels hx hc hsent hp hcheck hidle,
      exec_transferStart_move htaken hmay hhold hstopped hunit hinv.channels hx hc hsent hp hcheck hidle⟩⟩,
    fun s c => exec_transferComplete_counts,
    fun s c slot tag hinv hst hring hben hq htag => exec_transferComplete_records hinv hst hring hben hq htag,
    fun s c q tag slot word ev bs hinv hpor hlen hsys htag hwhat hq hagain hst hring hroom => ?_⟩
  · refine exec_transferStart_refuses_now htaken hmay hhold hstopped hunit hx hq htag (hreason.trans ?_) hne
    cases Profile.ofCode x.profile with
    | none => exact x.check_none.symm
    | some p => exact (x.check_some p).symm
  · obtain ⟨xdone, xretire, xretired, hexec⟩ := exec_sysResponse_record hpor hlen hsys htag hwhat hq hagain hroom
    exact ⟨_, hexec, congrArg Chan.st (State.sget_recordsOver hinv.channels hst hring), rfl, rfl⟩

end Sys2Proof.Machine

namespace Sys2Proof.Machine

/-! ### Mirroring a granule that is still pending for a mark (R62, R404, R405) -/

/-- Granule 0's pending bit has outlived its close, its sector 0 is Closing, a read of its first line waits, and mirroring
comes to it. -/
def pendingWithoutClose : State := { State.reset with
  rst := { Rst.reset with ready := true }
  log := { State.reset.log with en := true, areaOpen := true, dirtyA := [(0, true)], pend := [(0, true)] }
  osura := { State.reset.osura with
    secs := [(0, { SecCtl.fresh with st := .closing })]
    q := [⟨.log, .log 0 0, 0, 1024, none, 1, 0, false, 0, false, 0, false⟩] } }

theorem pendingWithoutClose_inv : pendingWithoutClose.Inv := by
  refine ⟨⟨rfl, rfl⟩, ⟨rfl, by decide, nofun⟩, ⟨by decide, nofun⟩, by decide, nofun, ?_⟩
  exact ⟨rfl, rfl, rfl, rfl, rfl, rfl, rfl⟩

/-- The granule's reads count as accepted, those that waited before too (R62). -/
theorem pendingWithoutClose_mirrors : ∃ t, exec .logMirrorGranule pendingWithoutClose = .next t ∧
    t.osura.q.head?.map AsyncReq.accepted = some true :=
  ⟨_, rfl, by decide⟩

/-- Refutes O59: where a granule of a Closing sector is pending with no close under way, which `State.Inv` allows,
mirroring it does more than add its 64 reads to the queue: a read of the granule that waits there becomes accepted. -/
theorem not_marksAndCloses : ¬ Obligations.MarksAndCloses := by
  unfold Obligations.MarksAndCloses
  intro h
  obtain ⟨-, -, -, -, -, -, -, -, -, -, hmirror, -⟩ := h pendingWithoutClose pendingWithoutClose_inv rfl
  obtain ⟨hgranule, -⟩ := hmirror rfl rfl rfl rfl rfl rfl rfl rfl rfl
  obtain ⟨t, qs, ht, hq, -⟩ := hgranule 0 true rfl (by decide) rfl
  obtain ⟨u, hu, haccepted⟩ := pendingWithoutClose_mirrors
  injection ht.symm.trans hu with htu
  rw [← htu, hq] at haccepted
  exact absurd haccepted (by simp [pendingWithoutClose])

end Sys2Proof.Machine

namespace Sys2Proof.Machine

/-! ### What the ring's messages and the ends of marks change (R355 to R357) -/

/-- `t` is `s` but for the ring, the counters, the Keeper's books and the events. -/
def State.MarkWork (s t : State) : Prop := t = { s with ring := t.ring, cnt := t.cnt, kp := t.kp, evq := t.evq }

theorem State.MarkWork.refl (s : State) : s.MarkWork s := rfl

theorem State.MarkWork.trans {s t u : State} (h : s.MarkWork t) (g : t.MarkWork u) : s.MarkWork u := by
  unfold State.MarkWork at *
  rw [g, h]

theorem State.Sends.markWork {s t : State} (h : s.Sends t) : s.MarkWork t := by
  unfold State.MarkWork
  rw [h]

theorem State.toNext_sends (s : State) (kind : Nat) (pay : List Byte) : s.Sends (s.toNext kind pay) :=
  s.originate_sends _

theorem State.setMark_markWork (s : State) (f : Mark → Mark) : s.MarkWork (s.setMark f) := rfl

theorem State.markEv_markWork (s : State) (what k seq : Nat) : s.MarkWork (s.markEv what k seq) := rfl

theorem State.settle_markWork (s : State) (num : Nat) (failed : Bool) : s.MarkWork (s.settle num failed) := by
  unfold State.MarkWork
  rw [State.settle_frame]

theorem State.markWaitersDone_markWork (s : State) (failed : Bool) : s.MarkWork (s.markWaitersDone failed) :=
  (List.foldlRecOn (motive := fun t => s.MarkWork t) s.ring.mark.waiters _ (.refl s)
    (fun t ht num _ => ht.trans (t.settle_markWork num failed))).trans (State.setMark_markWork _ _)

/-- With no close of this chip to follow, recording a closed mark changes the mark's own books alone (R356, R406). -/
theorem recordClosed_eq {s : State} (hsealed : s.log.sealedIn = none) (k seq : Nat) : recordClosed k seq s =
    ((({ s with ring := { s.ring with markLast := k, markLastS := seq } }).setMark
      (fun m => { m with restraint := none, sealHeld := none })).markEv 1 k seq).markWaitersDone false := by
  simp only [recordClosed, logClosed, hsealed]

theorem recordClosed_markWork {s : State} (hsealed : s.log.sealedIn = none) (k seq : Nat) :
    s.MarkWork (recordClosed k seq s) := by
  have hlast : s.MarkWork { s with ring := { s.ring with markLast := k, markLastS := seq } } := rfl
  rw [recordClosed_eq hsealed]
  exact ((hlast.trans (State.setMark_markWork _ _)).trans (State.markEv_markWork ..)).trans
    (State.markWaitersDone_markWork _ _)

theorem leadClosed_markWork {s : State} (hsealed : s.log.sealedIn = none) : s.MarkWork (leadClosed s) := by
  unfold leadClosed
  dsimp only
  exact ((s.setMark_markWork _).trans (recordClosed_markWork (s := s.setMark _) hsealed _ _)).trans
    (State.toNext_sends ..).markWork

theorem closeDone_markWork {s : State} (hsealed : s.log.sealedIn = none) (k seq : Nat) :
    s.MarkWork (closeDone k seq s) := by
  unfold closeDone
  cases s.ring.mark.sealHeld with
  | none => exact .refl s
  | some held =>
    dsimp only
    split
    · split
      · exact .refl s
      · exact leadClosed_markWork hsealed
    · exact (s.setMark_markWork _).trans (State.toNext_sends ..).markWork

/-! ### LOG_CFG (R403, R415) -/

/-- The rate and the epoch are those that LOG_CFG is written with. -/
def State.paced (s : State) (v : Word) : State :=
  { s with log := { s.log with rate := v.toNat / 2 % 128, epoch := v.toNat / 65536 } }

theorem logCfg_eq (v : Word) (s : State) : logCfg v.toNat s =
    if v.getLsbD 0 && !s.log.en then logEnable (s.paced v)
    else if !v.getLsbD 0 && s.log.en then logStop (s.paced v)
    else s.paced v := by
  have hepoch : v.toNat / 2 ^ 16 % 2 ^ 16 = v.toNat / 65536 := by omega
  unfold logCfg State.paced
  rw [bitsOf_eq, bitsOf_eq, bitOf_toNat, hepoch]
  rfl

/-- LOG_ENABLE and LOG_DISABLE are writes of LOG_CFG. -/
theorem exec_logCfg {s : State} (hready : s.rst.ready = true) (v : Word) {i : Instr}
    (hi : i ∈ [Instr.logEnable v, Instr.logDisable v]) :
    exec i s = .next { logCfg v.toNat s with out := (logCfg v.toNat s).out ++ [.regWrote false] } := by
  have hwrite : s.hostWrite (logCfg v.toNat) =
      { logCfg v.toNat s with out := (logCfg v.toNat s).out ++ [.regWrote false] } := by
    simp [State.hostWrite, hready]
  rw [← hwrite]
  simp only [List.mem_cons, List.not_mem_nil, or_false] at hi
  obtain rfl | rfl := hi <;> rfl

/-- Marking every granule of the sectors that `lit` names, in turn, marks those and no others. -/
theorem sget_mark_sectors (lit : Nat → Bool) (g : Nat) (l : List Nat) : ∀ m : Sparse Bool,
    sget false (l.foldl (fun d k =>
      if lit k then (fromTo (k * 128) 128).foldl (fun d g => sset false d g true) d else d) m) g =
      if g / 128 ∈ l ∧ lit (g / 128) = true then true else sget false m g := by
  induction l with
  | nil => intro m; simp
  | cons k l ih =>
    intro m
    have hsector : sget false (if lit k then (fromTo (k * 128) 128).foldl (fun d g => sset false d g true) m else m) g =
        if g / 128 = k ∧ lit k = true then true else sget false m g := by
      have hin : g ∈ fromTo (k * 128) 128 ↔ g / 128 = k := by
        rw [mem_fromTo]
        omega
      cases hk : lit k with
      | false => simp
      | true => simp only [if_true, sget_mark_foldl, hin, and_true]
    rw [List.foldl_cons, ih, hsector]
    by_cases hg : g / 128 = k
    · subst hg
      cases lit (g / 128) <;> simp
    · simp [hg]

/-- The bitmap after enabling: the granules of the Lit sectors (R403). -/
theorem sget_logEnable_dirty (s : State) {g : Nat} (hg : g < 8192) :
    sget false (logEnable s).log.dirtyA g = ((s.secCtl (g / 128)).st == .lit) := by
  have hmem : g / 128 ∈ upTo 64 := by
    rw [upTo, List.mem_range]
    omega
  refine (sget_mark_sectors (fun k => (s.secCtl k).st == .lit) g (upTo 64) []).trans ?_
  cases (s.secCtl (g / 128)).st == .lit <;> simp [hmem, sget]

/-- With no close under way, there is none to complete. -/
theorem closePump_none {s : State} (hclose : s.log.close = none) : closePump s = s := by
  simp [closePump, hclose]

/-- With the Logbook off, a close goes when nothing of it is to come, and stays else (R403). -/
theorem closePump_off {s : State} {c : LogClose} (hen : s.log.en = false) (hmark : s.log.haveMark = false)
    (hsealed : s.log.sealedIn = none) (hclose : s.log.close = some c) (hroom : s.evRoom = true) :
    (closePump s).log = { s.log with close := if s.closeOver c then none else some c } ∧
      closePump s = { s with
        log := (closePump s).log, ring := (closePump s).ring, cnt := (closePump s).cnt, kp := (closePump s).kp
        evq := (closePump s).evq } := by
  cases hover : s.closeOver c with
  | false =>
    have hself : closePump s = s := by simp [closePump, hclose, hover]
    rw [hself]
    exact ⟨by rw [← hclose]; rfl, rfl⟩
  | true =>
    have hdone : closePump s = closeDone c.k c.seq { s with log := { s.log with close := none } } := by
      simp only [closePump, hclose, hover, hroom, hen, Bool.and_self, if_true, Bool.false_eq_true, if_false]
      rw [← hmark, ← hsealed]
    have hwork := closeDone_markWork (s := { s with log := { s.log with close := none } }) hsealed c.k c.seq
    rw [hdone, hwork]
    exact ⟨rfl, rfl⟩

/-- Settles O17: enabling, disabling with and without a close under way, and a write that leaves EN as it is. -/
theorem logbookSwitches : Obligations.LogbookSwitches := by
  unfold Obligations.LogbookSwitches
  intro s v hready
  refine ⟨fun hbit hen => ?_, fun hbit hen hclose => ?_, fun c hclose hbit hen hroom => ?_, fun hbit i hi => ?_⟩
  · have hcfg : logCfg v.toNat s = logEnable (s.paced v) := by rw [logCfg_eq, hbit, hen]; rfl
    rw [exec_logCfg hready v (i := .logEnable v) (by simp), hcfg]
    exact ⟨_, rfl, rfl, rfl, rfl, rfl, rfl,
      fun g hg => ⟨sget_logEnable_dirty (s.paced v) hg, sget_logEnable_dirty (s.paced v) hg⟩, rfl⟩
  · have hcfg : logCfg v.toNat s = logQuiet (logDisable (s.paced v)) := by
      rw [logCfg_eq, hbit, hen]
      exact closePump_none hclose
    rw [exec_logCfg hready v (i := .logDisable v) (by simp), hcfg]
    exact ⟨_, rfl, rfl, rfl, rfl, rfl, rfl, rfl, rfl, rfl⟩
  · have hcfg : logCfg v.toNat s = closePump (logQuiet (logDisable (s.paced v))) := by rw [logCfg_eq, hbit, hen]; rfl
    obtain ⟨hlog, hframe⟩ := closePump_off (s := logQuiet (logDisable (s.paced v))) rfl rfl rfl hclose hroom
    have hover : (logQuiet (logDisable (s.paced v))).closeOver c = (c.phase == 4 || s.belowDone c.seq) := rfl
    rw [hover] at hlog
    rw [exec_logCfg hready v (i := .logDisable v) (by simp), hcfg]
    generalize closePump (logQuiet (logDisable (s.paced v))) = t at hlog hframe
    refine ⟨_, rfl, by rw [hlog]; rfl, by rw [hlog]; rfl, by rw [hlog]; rfl, fun hdone => ?_, fun hdone hphase => ?_, ?_⟩
    · have hnone : t.log.close = none := by simp [hlog, hdone]
      exact ⟨hnone, by simp [State.logClosing, hnone]⟩
    · simp [hlog, hdone, hphase]
    · rw [hframe]
      rfl
  · rw [exec_logCfg hready v hi, logCfg_eq, hbit]
    cases s.log.en <;> rfl

end Sys2Proof.Machine

namespace Sys2Proof.Machine

/-! ### Arrival buffers and ports (R339, R458) -/

theorem modifyAt_modifyAt {α : Type} (l : List α) (i : Nat) (f g : α → α) :
    modifyAt (modifyAt l i f) i g = modifyAt l i (fun x => g (f x)) := by
  unfold modifyAt
  exact List.modify_modify_eq ..

theorem modifyAt_self {α : Type} (l : List α) (i : Nat) {f : α → α} (h : ∀ x, f x = x) : modifyAt l i f = l := by
  have hid : f = id := funext h
  unfold modifyAt
  rw [hid, List.modify_id]

theorem State.setPort_setPort (s : State) (n : Nat) (f g : RPort → RPort) :
    (s.setPort n f).setPort n g = s.setPort n (fun r => g (f r)) := by
  unfold State.setPort
  rw [modifyAt_modifyAt]

theorem State.setPort_self (s : State) (n : Nat) {f : RPort → RPort} (h : ∀ r, f r = r) : s.setPort n f = s := by
  unfold State.setPort
  rw [modifyAt_self _ _ h]

/-- Of a port's update only its value at that port counts. -/
theorem State.setPort_congr {s : State} {n : Nat} {f g : RPort → RPort} (h : f (s.rport n) = g (s.rport n)) :
    s.setPort n f = s.setPort n g := by
  have hports : modifyAt s.ring.ports n f = modifyAt s.ring.ports n g := by
    refine List.ext_getElem? (fun i => ?_)
    rw [modifyAt, modifyAt, List.getElem?_modify, List.getElem?_modify]
    by_cases hi : n = i
    · subst hi
      cases hport : s.ring.ports[n]? with
      | none => rfl
      | some r =>
        have hr : s.rport n = r := by rw [State.rport, List.getD_eq_getElem?_getD, hport]; rfl
        rw [hr] at h
        simp [h]
    · simp [hi]
  unfold State.setPort
  rw [hports]

theorem State.rport_setPort_same {s : State} {n : Nat} (hn : n < s.ring.ports.length) (f : RPort → RPort) :
    (s.setPort n f).rport n = f (s.rport n) := by
  rw [State.rport_setPort, if_pos ⟨rfl, hn⟩]

theorem State.rport_setPort_other (s : State) {n m : Nat} (h : m ≠ n) (f : RPort → RPort) :
    (s.setPort n f).rport m = s.rport m := by
  rw [State.rport_setPort, if_neg (fun e => h e.1)]

theorem State.portLive_started {s : State} {n : Nat} (h : s.portLive n = true) : (s.rport n).started = true := by
  simp only [State.portLive, Bool.and_eq_true] at h
  obtain ⟨⟨⟨⟨-, hstarted⟩, -⟩, -⟩, -⟩ := h
  exact hstarted

/-- What leaves as a packet's space is freed: its link credits, while the port takes part (R458). -/
theorem State.freeSpace_port {s : State} {p : Pkt} {n : Nat} (hport : p.port = some n)
    (hstarted : (s.rport n).started = true) : s.freeSpace p =
      { s.setPort n (fun r => { r with used := modifyAt r.used p.space (· - p.cost) }) with
        out := s.out ++ creditReturns n p.space p.cost } := by
  have hstarted' : ((s.setPort n (fun r => { r with used := modifyAt r.used p.space (· - p.cost) })).rport n).started = true := by
    rw [State.rport_setPort]
    split <;> exact hstarted
  simp only [State.freeSpace, hport, hstarted', if_true]
  rfl

/-- Space that a packet takes and frees again leaves its credits alone behind (R339, R458). -/
theorem State.freeSpace_takeSpace {s : State} {p : Pkt} {n : Nat} (hport : p.port = some n)
    (hstarted : (s.rport n).started = true) :
    (s.takeSpace p).freeSpace p = { s with out := s.out ++ creditReturns n p.space p.cost } := by
  have htake : s.takeSpace p = s.setPort n (fun r => { r with used := modifyAt r.used p.space (· + p.cost) }) := by
    simp only [State.takeSpace, hport]
  have hstarted' : ((s.takeSpace p).rport n).started = true := by
    rw [htake, State.rport_setPort]
    split <;> exact hstarted
  rw [State.freeSpace_port hport hstarted', htake, State.setPort_setPort, State.setPort_self]
  · rfl
  · intro r
    rw [modifyAt_modifyAt, modifyAt_self _ _ (fun u => Nat.add_sub_cancel u p.cost)]

/-- The record of dropped packets names `p` (R366). -/
def State.noted (s : State) (reason : Nat) (p : Pkt) : State :=
  { s with ring := { s.ring with
    errReason := reason, errPort := p.port.getD 0, errLocal := p.port.isNone, errSrc := p.src, errValid := true } }

theorem State.ringDrop_noted {s : State} (h : s.ring.errValid = false) (reason : Nat) (p : Pkt) :
    s.ringDrop reason p = s.noted reason p := by
  simp [State.ringDrop, h, State.noted]

/-- A packet dropped as it arrives leaves the record and its credits (R366, R458). -/
theorem State.drop_takeSpace {s : State} {p : Pkt} {n : Nat} (hport : p.port = some n)
    (hstarted : (s.rport n).started = true) (herr : s.ring.errValid = false) (reason : Nat) :
    ((s.takeSpace p).ringDrop reason p).freeSpace p =
      { s.noted reason p with out := s.out ++ creditReturns n p.space p.cost } := by
  have hdrop : (s.takeSpace p).ringDrop reason p = (s.noted reason p).takeSpace p := by
    simp only [State.takeSpace, hport]
    rw [State.ringDrop_noted (s := s.setPort n _) herr]
    rfl
  rw [hdrop]
  exact State.freeSpace_takeSpace hport hstarted

/-! ### PACKET_FORWARD (R332, R333, R339) -/

/-- A packet with a route goes to its port, with HOPS one higher (R332, R333). -/
theorem forward_routed {s : State} {p : Pkt} {m : Nat} (hhops : p.hops ≠ 255) (hroute : s.ring.route p.dst = some m) :
    forward p s = s.setPort m (fun r => { r with fwd := r.fwd ++ [{ p with hops := p.hops + 1 }] }) := by
  simp [forward, hhops, hroute]

theorem forward_spent {s : State} {p : Pkt} (hhops : p.hops = 255) : forward p s = (s.ringDrop 2 p).freeSpace p :=
  if_pos hhops

theorem forward_unrouted {s : State} {p : Pkt} (hhops : p.hops ≠ 255) (hroute : s.ring.route p.dst = none) :
    forward p s = (s.ringDrop 1 p).freeSpace p := by
  simp [forward, hhops, hroute]

section
variable {s : State} {n : Fin 8} {hdr : List Word} {pl : List Byte} {p : Pkt} (hhdr : hdr.length = 8)
  (hpl : pl.length < 512) (hp : p = Pkt.ofHdr hdr pl (some n.val)) (hlive : s.portLive n = true)
  (hok : p.headerOk = true) (hfits : (s.rport n).used.getD p.cls 0 + p.cost ≤ bufferUnits p.cls)
  (hdst : p.dst ≠ s.ring.chipId)
include hhdr hpl hp hlive hok hfits hdst

/-- A good packet for another chip comes to stand in its arrival buffer, and is forwarded or waits there. -/
theorem exec_packetForward : exec (.packetForward n hdr pl) s = .next (takeOrHold forward p s) := by
  show execPacketForward n hdr pl s = _
  simp only [execPacketForward, hhdr, hpl, ← hp, hlive, hok, hdst, not_lt.2 hfits]
  simp

/-- One that may not be taken yet waits, and keeps its space. -/
theorem exec_packetForward_held (hblocked : s.arrivalBlocked (some n.val) p.cls = true ∨ s.behindHeld p = true) :
    exec (.packetForward n hdr pl) s = .next (s.setPort n (fun r => { r with
      used := modifyAt r.used p.cls (· + p.cost), held := r.held ++ [{ p with came := some s.clk.cyc }] })) := by
  have hport : p.port = some n.val := by rw [hp]; rfl
  have hspace : p.space = p.cls := by rw [hp]; rfl
  have htake : s.takeSpace p = s.setPort n (fun r => { r with used := modifyAt r.used p.cls (· + p.cost) }) := by
    simp only [State.takeSpace, hport, hspace]
  have hcannot : (s.canTake p && !s.behindHeld p) = false := by
    obtain h | h := hblocked <;> simp [State.canTake, hport, h]
  rw [exec_packetForward hhdr hpl hp hlive hok hfits hdst]
  simp only [takeOrHold, State.canTake_takeSpace, State.behindHeld_takeSpace, hcannot, Bool.false_eq_true, if_false, hport,
    State.takeSpace_clk]
  rw [htake, State.setPort_setPort]

/-- One whose turn it is goes on. -/
theorem exec_packetForward_taken (hblocked : s.arrivalBlocked (some n.val) p.cls = false)
    (hbehind : s.behindHeld p = false) : exec (.packetForward n hdr pl) s =
      .next (forward p (s.setPort n (fun r => { r with used := modifyAt r.used p.cls (· + p.cost) }))) := by
  have hport : p.port = some n.val := by rw [hp]; rfl
  have hspace : p.space = p.cls := by rw [hp]; rfl
  have hcan : s.canTake p = true := by simp [State.canTake, hport, hblocked, State.pktRoom, hdst]
  rw [exec_packetForward hhdr hpl hp hlive hok hfits hdst]
  simp only [takeOrHold, State.canTake_takeSpace, State.behindHeld_takeSpace, hcan, hbehind, Bool.not_false, Bool.and_self,
    if_true]
  simp only [State.takeSpace, hport, hspace]

/-- It goes to its route's port, and keeps its space. -/
theorem exec_packetForward_routed (hports : s.ring.ports.length = 8)
    (hblocked : s.arrivalBlocked (some n.val) p.cls = false) (hbehind : s.behindHeld p = false) (hhops : p.hops ≠ 255)
    {m : Nat} (hroute : s.ring.route p.dst = some m) : ∃ t, exec (.packetForward n hdr pl) s = .next t ∧
      (t.rport m).fwd = (s.rport m).fwd ++ [{ p with hops := p.hops + 1 }] ∧
      (t.rport n).used = (s.rport n).used.modify p.cls (· + p.cost) ∧
      (∀ k, k ≠ n.val → k ≠ m → t.rport k = s.rport k) ∧ t = { s with ring := { s.ring with ports := t.ring.ports } } := by
  have hm := Ring.route_lt hroute
  have hlen : ∀ f, (s.setPort n f).ring.ports.length = 8 := fun f => (modifyAt_length ..).trans hports
  rw [exec_packetForward_taken hhdr hpl hp hlive hok hfits hdst hblocked hbehind,
    forward_routed (s := s.setPort n _) hhops hroute]
  refine ⟨_, rfl, ?_, ?_, fun k hkn hkm => ?_, rfl⟩
  · rw [State.rport_setPort_same (by rw [hlen]; exact hm), State.rport_setPort]
    split <;> rfl
  · rw [State.rport_setPort, State.rport_setPort_same (by omega)]
    split <;> rfl
  · rw [State.rport_setPort_other _ hkm, State.rport_setPort_other _ hkn]

/-- One that can go no further is dropped, and its credits go back. -/
theorem exec_packetForward_dropped (herr : s.ring.errValid = false)
    (hblocked : s.arrivalBlocked (some n.val) p.cls = false) (hbehind : s.behindHeld p = false) {reason : Nat}
    (hforward : ∀ t : State, t.ring.route = s.ring.route → forward p t = (t.ringDrop reason p).freeSpace p) :
    exec (.packetForward n hdr pl) s =
      .next { s.noted reason p with out := s.out ++ creditReturns n p.cls p.cost } := by
  have hport : p.port = some n.val := by rw [hp]; rfl
  have hspace : p.space = p.cls := by rw [hp]; rfl
  have htake : s.takeSpace p = s.setPort n (fun r => { r with used := modifyAt r.used p.cls (· + p.cost) }) := by
    simp only [State.takeSpace, hport, hspace]
  have hdrop := State.drop_takeSpace hport (State.portLive_started hlive) herr reason
  rw [hspace] at hdrop
  rw [exec_packetForward_taken hhdr hpl hp hlive hok hfits hdst hblocked hbehind, hforward (s.setPort n _) rfl, ← htake, hdrop]

end

/-! ### PACKET_SEND (R340, R458) -/

theorem RPort.headOf_loc {r : RPort} {p : Pkt} (hloc : r.loc = [p]) (hfwd : r.fwd = []) : r.headOf p.cls = some (false, p) := by
  simp [RPort.headOf, hloc, hfwd]

theorem RPort.headOf_fwd {r : RPort} {p : Pkt} (hloc : r.loc = []) (hfwd : r.fwd = [p]) : r.headOf p.cls = some (true, p) := by
  simp [RPort.headOf, hloc, hfwd]

theorem RPort.headOf_none {r : RPort} (hloc : r.loc = []) (hfwd : r.fwd = []) (c : Nat) : r.headOf c = none := by
  simp [RPort.headOf, hloc, hfwd]

/-- Only tokens are demoted (R340). -/
theorem demoteHeads_self {s : State} {n : Nat} {isFwd : Bool} {p : Pkt} (hhead : (s.rport n).headOf 0 = some (isFwd, p))
    (hkind : p.kind ≠ 0) (fuel : Nat) : demoteHeads fuel n s = s := by
  cases fuel <;> simp [demoteHeads, hhead, hkind]

/-- Class 0 leaves first (R340). -/
theorem State.sendClass_zero {s : State} {n : Nat} {isFwd : Bool} {p : Pkt}
    (hhead : (s.rport n).headOf 0 = some (isFwd, p)) (hcost : p.cost ≤ (s.rport n).out.getD 0 0) :
    s.sendClass n = some (0, (s.rport n).wcr) := by
  unfold State.sendClass
  dsimp only
  exact if_pos (by simpa [hhead] using hcost)

/-- A port of which a packet of class 0 has left: link credits and bytes of the bucket are spent (R340, R458). -/
def RPort.sent (r : RPort) (isFwd : Bool) (p : Pkt) : RPort :=
  { r.without isFwd p with
    out := modifyAt r.out 0 (· - p.cost), lastFwd := r.lastFwd.set 0 isFwd
    bucket := r.bucket - 17 * ((32 + p.len : Nat) : Int) }

section
variable {s : State} {n : Fin 8} (hlive : s.portLive n = true)
include hlive

theorem exec_packetSend_zero {isFwd : Bool} {p : Pkt}
    (hhead : (s.rport n).headOf 0 = some (isFwd, p)) (hkind : p.kind ≠ 0) (hctl : p.ctl = none)
    (hcost : p.cost ≤ (s.rport n).out.getD 0 0) : exec (.packetSend n) s =
      .next (State.freeSpace { s.setPort n (fun r => r.sent isFwd p) with out := s.out ++ [.ringPkt n p] } p) := by
  have hport : s.setPort n (fun r => { r.without isFwd p with
      out := modifyAt r.out 0 (fun u => u - p.cost), lastFwd := r.lastFwd.set 0 isFwd, wcr := (s.rport n).wcr
      bucket := r.bucket - 17 * ((32 + p.len : Nat) : Int) }) = s.setPort n (fun r => r.sent isFwd p) :=
    State.setPort_congr (by cases isFwd <;> rfl)
  show execPacketSend n s = _
  simp only [execPacketSend, hlive, demoteHeads_self hhead hkind, State.sendClass_zero hhead hcost, hhead, hctl, if_true,
    hport]
  rfl

/-- A packet of this chip leaves (R340). -/
theorem exec_packetSend_local (hn : n.val < s.ring.ports.length) {p : Pkt} (hloc : (s.rport n).loc = [p])
    (hfwd : (s.rport n).fwd = []) (hcls : p.cls = 0) (hport : p.port = none) (hkind : p.kind ≠ 0) (hctl : p.ctl = none)
    (hcost : p.cost ≤ (s.rport n).out.getD 0 0) : ∃ t, exec (.packetSend n) s = .next t ∧
      t.out = s.out ++ [.ringPkt n p] ∧ (t.rport n).loc = [] ∧ (t.rport n).fwd = [] ∧
      (t.rport n).out = (s.rport n).out.modify 0 (· - p.cost) ∧
      (t.rport n).bucket = (s.rport n).bucket - 17 * ((32 + p.len : Nat) : Int) ∧
      (∀ k, k ≠ n.val → t.rport k = s.rport k) ∧
      t = { s with ring := { s.ring with ports := t.ring.ports }, out := t.out } := by
  have hsent : (({ s.setPort n (fun r => r.sent false p) with out := s.out ++ [.ringPkt n p] } : State)).rport n =
      (s.rport n).sent false p := State.rport_setPort_same hn _
  rw [exec_packetSend_zero hlive (hcls ▸ RPort.headOf_loc hloc hfwd) hkind hctl hcost, State.freeSpace_none hport]
  refine ⟨_, rfl, rfl, ?_, ?_, ?_, ?_, fun k hk => s.rport_setPort_other hk _, rfl⟩ <;> rw [hsent]
  · simp [RPort.sent, RPort.without, hloc]
  · exact hfwd
  · rfl
  · rfl

/-- A forwarded packet leaves, and its space and credits go back to the port where it came in (R339, R458). -/
theorem exec_packetSend_forwarded (hports : s.ring.ports.length = 8) {p : Pkt} {m : Fin 8} (hloc : (s.rport n).loc = [])
    (hfwd : (s.rport n).fwd = [p]) (hcls : p.cls = 0) (hport : p.port = some m.val)
    (hstarted : (s.rport m).started = true) (hkind : p.kind ≠ 0) (hctl : p.ctl = none)
    (hcost : p.cost ≤ (s.rport n).out.getD 0 0) : ∃ t, exec (.packetSend n) s = .next t ∧
      t.out = s.out ++ .ringPkt n p :: creditReturns m p.space p.cost ∧ (t.rport n).fwd = [] ∧
      (t.rport n).out = (s.rport n).out.modify 0 (· - p.cost) ∧
      (t.rport m).used = (s.rport m).used.modify p.space (· - p.cost) ∧
      t = { s with ring := { s.ring with ports := t.ring.ports }, out := t.out } := by
  obtain ⟨u, hu⟩ : ∃ u : State, u = { s.setPort n (fun r => r.sent true p) with out := s.out ++ [.ringPkt n p] } := ⟨_, rfl⟩
  have huport : ∀ k, u.rport k = if k = n.val ∧ k < s.ring.ports.length then (s.rport k).sent true p else s.rport k := by
    intro k
    rw [hu]
    exact s.rport_setPort n k _
  have hulen : u.ring.ports.length = 8 := by
    rw [hu]
    exact (modifyAt_length ..).trans hports
  have hsent : u.rport n = (s.rport n).sent true p := by rw [huport, if_pos ⟨rfl, by omega⟩]
  have hstarted' : (u.rport m).started = true := by
    rw [huport]
    split <;> exact hstarted
  rw [exec_packetSend_zero hlive (hcls ▸ RPort.headOf_fwd hloc hfwd) hkind hctl hcost, ← hu,
    State.freeSpace_port hport hstarted']
  refine ⟨_, rfl, ?_, ?_, ?_, ?_, ?_⟩
  · rw [hu]
    simp
  · show ((u.setPort m _).rport n).fwd = []
    rw [State.rport_setPort, hsent]
    split <;> simp [RPort.sent, RPort.without, hfwd]
  · show ((u.setPort m _).rport n).out = _
    rw [State.rport_setPort, hsent]
    split <;> rfl
  · show ((u.setPort m _).rport m).used = _
    rw [State.rport_setPort_same (by omega), huport]
    split <;> rfl
  · rw [hu]
    rfl

end

/-- A port with nothing to send sends nothing. -/
theorem exec_packetSend_empty {s : State} {n : Fin 8} (hloc : (s.rport n).loc = []) (hfwd : (s.rport n).fwd = []) :
    exec (.packetSend n) s = .next s := by
  have hnone : s.sendClass n = none := by
    simp [State.sendClass, RPort.headOf_none hloc hfwd]
  show execPacketSend n s = _
  simp [execPacketSend, hloc, hfwd, demoteHeads, hnone]

/-! ### The SEND watchdog (R354) -/

theorem exec_sendWatchdog {s : State} {c : Fin 128} {lim : Nat} (hlim : s.stallLimit = some lim)
    (hst : (s.chan c).st = .busy) (hkind : (s.chan c).x.kind = 5) :
    exec (.sendWatchdog c) s = .next (if lim < (s.chan c).waited then tdFinish c 3 s else s) := by
  show execSendWatchdog c s = _
  simp only [execSendWatchdog, hlim, hst, hkind, beq_self_eq_true, Bool.true_and, decide_eq_true_eq]
  split <;> rfl

/-- Settles O58: a forwarded packet by its turn, its hops and its route, a sent one by its queue, and the SEND watchdog. -/
theorem ringSends : Obligations.RingSends := by
  unfold Obligations.RingSends
  intro s n hinv hports
  have hn : n.val < s.ring.ports.length := by omega
  refine ⟨fun hdr pl p hhdr hpl hp hlive hok hfits hdst => ⟨fun hblocked => ?_, fun hblocked hbehind =>
      ⟨fun hhops m => exec_packetForward_routed hhdr hpl hp hlive hok hfits hdst hports hblocked hbehind hhops,
        fun herr => ?_⟩⟩,
    fun p hlive hkind hcls hctl _ hcost =>
      ⟨fun hloc hfwd hport => exec_packetSend_local hlive hn hloc hfwd hcls hport hkind hctl hcost,
        fun m hloc hfwd hport hstarted =>
          exec_packetSend_forwarded hlive hports hloc hfwd hcls hport hstarted hkind hctl hcost⟩,
    exec_packetSend_empty, fun c lim hlim hst hkind => ?_⟩
  · exact ⟨_, exec_packetForward_held hhdr hpl hp hlive hok hfits hdst hblocked, State.rport_setPort_same hn _,
      fun k hk => s.rport_setPort_other hk _, rfl⟩
  · have hport : p.port = some n.val := by rw [hp]; rfl
    have hnoted : ∀ reason, s.noted reason p = { s with ring := { s.ring with
        errReason := reason, errPort := n, errLocal := false, errSrc := p.src, errValid := true } } := by
      intro reason
      rw [State.noted, hport]
      rfl
    have hdropped := @exec_packetForward_dropped s n hdr pl p hhdr hpl hp hlive hok hfits hdst herr hblocked hbehind
    refine ⟨fun hhops => ?_, fun hhops hroute => ?_⟩
    · rw [hdropped (reason := 2) (fun t _ => forward_spent hhops), hnoted]
    · rw [hdropped (reason := 1) (fun t ht => forward_unrouted hhops (by rw [ht]; exact hroute)), hnoted]
  · rw [exec_sendWatchdog hlim hst hkind]
    refine ⟨fun hover => ?_, fun hover => by rw [if_neg (not_lt.2 hover)]⟩
    rw [if_pos hover]
    exact ⟨_, rfl, fun k => s.chan_setChan c k _ hinv.channels, rfl⟩

end Sys2Proof.Machine

namespace Sys2Proof.Machine

/-! ### Packets that this chip takes (R332, R339) -/

/-- The ring with other packets on the loopback path and other ports. -/
def State.withTraffic (s : State) (q : List Pkt) (ports : List RPort) : State :=
  { s with ring := { s.ring with loopQ := q, ports := ports } }

theorem State.took_eq (s : State) (port : Fin 9) (p : Pkt) : ∃ q ports, s.took port p = s.withTraffic q ports := by
  unfold State.took State.takeSpace
  split
  · exact ⟨_, _, rfl⟩
  · split
    · exact ⟨_, _, rfl⟩
    · exact ⟨_, _, rfl⟩

/-- A message that comes does what its kind asks for, and its space is freed (R339). -/
theorem State.Comes.does {s u t : State} {port : Fin 9} {hdr : List Word} {pl : List Byte} {p : Pkt}
    (h : s.Comes port hdr pl p) (hu : s.took port p = u) {kinds : List Nat} (hmem : p.kind ∈ kinds) (hzero : 0 ∉ kinds)
    {act : Pkt → State → State} (hact : act p u = t) :
    Machine.arrive port hdr pl kinds act s = .next (t.freeSpace p) := by
  have hkind : p.kind ≠ 0 := fun h0 => hzero (h0 ▸ hmem)
  rw [h.arrive kinds act (List.contains_iff_mem.2 hmem), if_neg hkind, hu, hact]

theorem State.Comes.does_kind {s u t : State} {port : Fin 9} {hdr : List Word} {pl : List Byte} {p : Pkt}
    (h : s.Comes port hdr pl p) (hu : s.took port p = u) {k : Nat} (hkind : p.kind = k) (hk : k ≠ 0)
    {act : Pkt → State → State} (hact : act p u = t) :
    Machine.arrive port hdr pl [k] act s = .next (t.freeSpace p) :=
  h.does hu (List.mem_singleton.2 hkind) (by simpa using Ne.symm hk) hact

/-- DATA that comes is acted on, and its action frees its space (R339). -/
theorem State.Comes.takes_data {s : State} {port : Fin 9} {hdr : List Word} {pl : List Byte} {p : Pkt}
    (h : s.Comes port hdr pl p) (hkind : p.kind = 0) :
    exec (.data port hdr pl) s = .next (takeData p (s.took port p)) :=
  (h.arrive [0] takeData (by rw [hkind]; rfl)).trans (by rw [if_pos hkind])

/-! ### Messages that this chip sends (R332) -/

/-- What a message changes, but for the mark's own books. -/
theorem State.Sends.ringBooks {s v t : State} (h : v.Sends t)
    (hv : v.ring = { s.ring with mark := v.ring.mark, epochRun := v.ring.epochRun }) : s.RingBooks t := by
  unfold State.RingBooks
  rw [h]
  dsimp only
  rw [hv]

theorem State.Sends.frame {s t : State} (h : s.Sends t) : t = { s with ring := t.ring, cnt := t.cnt } := by
  rw [h]

/-- `v` is on the ring what `s` is, but for a mark's, a hold's and a RELEASE's books. -/
def State.SameTraffic (s v : State) : Prop :=
  v.ring = { s.ring with
    mark := v.ring.mark, epochRun := v.ring.epochRun, markLast := v.ring.markLast, markLastS := v.ring.markLastS
    hold := v.ring.hold, holdPay := v.ring.holdPay, circ := v.ring.circ, relWait := v.ring.relWait }

theorem State.SameTraffic.sentTo {s v : State} (h : s.SameTraffic v) (kind : Nat) (pay : List Byte) :
    s.SentTo (v.toNext kind pay) s.ring.nextId kind pay := by
  unfold State.SameTraffic at h
  have hnext : v.ring.nextId = s.ring.nextId := by rw [h]
  have hroute : s.ring.route = v.ring.route := by rw [h]; rfl
  rw [← hnext]
  exact (v.toNext_sentTo kind pay).of_eq (by rw [h]) (by rw [h]) (by rw [h]) (by rw [h]) hroute rfl rfl

/-- A message leaves the mark's books alone. -/
theorem State.Sends.mark {s t : State} (h : s.Sends t) : t.ring.mark = s.ring.mark := by
  rw [h]

/-! ### DATA (R347, R348) -/

theorem State.dataCheck_eq {s : State} {p : Pkt} {m : Moor} {gen : Nat} (hm : s.mooringMet p.moor = (m, gen)) :
    s.dataCheck p = if m.isOpen = false then 1
      else if ¬ (m.lo ≤ p.src ∧ p.src ≤ m.hi) then 2
      else if m.size < p.offset + p.len then 3
      else if p.pcrc ≠ crc32c p.payload then 5 else 0 := by
  simp only [State.dataCheck, hm, Bool.not_eq_true', ← Bool.decide_and, decide_eq_false_iff_not, bne_iff_ne]

/-- A packet that a check refuses, and that no credit covers, is answered by a NAK (R348). -/
theorem takeData_refused {s : State} {p : Pkt} (hcls : p.cls = 0) (hbad : s.dataCheck p ≠ 0) :
    takeData p s = (s.sendNak p (s.dataCheck p) false).freeSpace p := by
  have hcredited : p.credited = false := by simp [Pkt.credited, hcls]
  simp [takeData, hcredited, hbad, State.refuseData]

theorem State.noteChunk_frame (s : State) (p : Pkt) :
    s.noteChunk p = { s with ring := { s.ring with chunks := (s.noteChunk p).ring.chunks } } := by
  unfold State.noteChunk
  split
  · rfl
  · split <;> rfl

theorem State.noteChunk_uncredited {s : State} {p : Pkt} (hcls : p.cls = 0) : s.noteChunk p = s := by
  simp [State.noteChunk, Pkt.credited, hcls]

/-- The write that an accepted packet asks Osura for (R347). -/
def State.mooringWrite (s : State) (p : Pkt) (m : Moor) : AsyncReq :=
  let a := m.base + p.offset
  ⟨if p.cls = 0 then .beacon else if p.cls = 1 then .ring1 else .ring2, .mooring p.moor s.ring.nextArr, a, p.len,
    some (cellsAt a p.payload), if a % 32 == 0 && p.len % 32 == 0 then 1 else 2, s.clk.cyc, false, 0, false, 0, false⟩

/-- A packet that passes the checks joins the arrivals, and its write the requests to Osura (R347). -/
theorem takeData_accepted {s : State} {p : Pkt} {m : Moor} {gen : Nat} (hm : s.mooringMet p.moor = (m, gen))
    (hcheck : s.dataCheck p = 0) (hopen : s.secOpen (secOf (m.base + p.offset)) = true)
    (hfirst : p.cls = 0 ∨ s.chunkOf p = none) : takeData p s = { s with
      ring := { s.ring with
        nextArr := s.ring.nextArr + 1, chunks := (s.noteChunk p).ring.chunks
        arrivals := s.ring.arrivals ++ [⟨s.ring.nextArr, p.moor, p, 1, p.came.getD s.clk.cyc, m, gen⟩] }
      osura := { s.osura with q := s.osura.q ++ [s.mooringWrite p m] } } := by
  have hwhole : (p.credited && ((s.chunkOf p).map (·.refused)).getD false) = false := by
    obtain h | h := hfirst <;> simp [Pkt.credited, h]
  simp only [takeData, hwhole, hcheck, hm, hopen, bne_self_eq_false, Bool.or_self, Bool.false_eq_true, if_false,
    Bool.not_true, Bool.and_false]
  rw [State.noteChunk_frame]
  rfl

/-! ### CREDIT (R350) -/

/-- With no channel at work no SEND waits. -/
theorem sendAll_idle {s : State} (h : s.td.ch = []) : sendAll s = s := by
  simp [sendAll, h]

/-- A table entry after a CREDIT of `p`. -/
def Pkt.creditEntry (p : Pkt) (e : Nat × Nat × Nat) : Nat × Nat × Nat :=
  if e.1 == p.src && e.2.1 == p.moor then
    (e.1, e.2.1, if (p.payload.getD 2 0#8).toNat % 2 == 1 then ofBytes (p.payload.take 2)
      else min 65535 (e.2.2 + ofBytes (p.payload.take 2)))
  else e

section
variable {s : State} {p : Pkt} (hch : s.td.ch = [])
include hch

theorem credit_known (h : s.ring.ctab.any (fun e => e.1 == p.src && e.2.1 == p.moor) = true) :
    sendAll (s.takeCredit p) = { s with ring := { s.ring with ctab := s.ring.ctab.map p.creditEntry } } := by
  simp only [State.takeCredit, h, if_true]
  exact sendAll_idle hch

theorem credit_new (h : s.ring.ctab.any (fun e => e.1 == p.src && e.2.1 == p.moor) = false)
    (hroom : s.ring.ctab.length < 256) : sendAll (s.takeCredit p) = { s with ring := { s.ring with
      ctab := s.ring.ctab ++ [(p.src, p.moor, ofBytes (p.payload.take 2))] } } := by
  simp only [State.takeCredit, h, hroom, Bool.false_eq_true, if_false, if_true]
  exact sendAll_idle hch

end

/-- What a destination's mooring is credited with is what its first entry says; an update that keeps the keys changes
that entry. -/
theorem Ring.creditFor_map {r : Ring} {f : Nat × Nat × Nat → Nat × Nat × Nat} (hkey : ∀ e, (f e).1 = e.1 ∧ (f e).2.1 = e.2.1)
    (d m : Nat) : Ring.creditFor { r with ctab := r.ctab.map f } d m =
      match r.ctab.find? (fun e => e.1 == d && e.2.1 == m) with
      | some e => (f e).2.2
      | none => 0 := by
  have hsame : (fun e => e.1 == d && e.2.1 == m) ∘ f = fun e : Nat × Nat × Nat => e.1 == d && e.2.1 == m := by
    funext e
    obtain ⟨h1, h2⟩ := hkey e
    simp [h1, h2]
  simp only [Ring.creditFor, List.find?_map, hsame]
  cases r.ctab.find? (fun e => e.1 == d && e.2.1 == m) <;> rfl

theorem Pkt.creditEntry_key (p : Pkt) (e : Nat × Nat × Nat) : (p.creditEntry e).1 = e.1 ∧ (p.creditEntry e).2.1 = e.2.1 := by
  unfold Pkt.creditEntry
  split <;> exact ⟨rfl, rfl⟩

/-- A CREDIT loads or raises the credit that it names (R350). -/
theorem Ring.creditFor_creditEntry {r : Ring} {p : Pkt}
    (h : r.ctab.any (fun e => e.1 == p.src && e.2.1 == p.moor) = true) :
    Ring.creditFor { r with ctab := r.ctab.map p.creditEntry } p.src p.moor =
      if (p.payload.getD 2 0#8).toNat % 2 = 1 then ofBytes (p.payload.take 2)
      else min 65535 (r.creditFor p.src p.moor + ofBytes (p.payload.take 2)) := by
  obtain ⟨e, he⟩ : ∃ e, r.ctab.find? (fun e => e.1 == p.src && e.2.1 == p.moor) = some e :=
    Option.isSome_iff_exists.1 (by rw [List.find?_isSome]; simpa using h)
  have hkey := List.find?_some he
  rw [Ring.creditFor_map p.creditEntry_key, he, Ring.creditFor, he]
  simp [Pkt.creditEntry, hkey]

/-- It leaves every other credit as it was. -/
theorem Ring.creditFor_creditEntry_other {r : Ring} {p : Pkt} {d m : Nat} (h : (d, m) ≠ (p.src, p.moor)) :
    Ring.creditFor { r with ctab := r.ctab.map p.creditEntry } d m = r.creditFor d m := by
  rw [Ring.creditFor_map p.creditEntry_key, Ring.creditFor]
  cases he : r.ctab.find? (fun e => e.1 == d && e.2.1 == m) with
  | none => rfl
  | some e =>
    have hkey := List.find?_some he
    simp only [Bool.and_eq_true, beq_iff_eq] at hkey
    obtain ⟨rfl, rfl⟩ := hkey
    have hne : (e.1 == p.src && e.2.1 == p.moor) = false := by
      simpa [Prod.ext_iff] using h
    simp [Pkt.creditEntry, hne]

/-! ### ACK and NAK (R348, R353) -/

theorem State.sendOf_some {s : State} {xtag c : Nat} (h : s.sendOf xtag = some c) :
    (s.chan c).st = .busy ∧ (s.chan c).x.kind = 5 := by
  simp only [State.sendOf, Option.ite_none_right_eq_some, Bool.and_eq_true, beq_iff_eq, Option.some.injEq] at h
  obtain ⟨⟨⟨hst, hkind⟩, -⟩, rfl⟩ := h
  exact ⟨hst, hkind⟩

/-- A SEND that reads its next packet's bytes goes on with those alone. -/
theorem send_reading {x : Chan} (hst : x.st = .busy) (hkind : x.x.kind = 5) (hreads : x.reads ≠ []) (hstatus : x.status = 0)
    (hfault : x.fault = none) (c : Nat) (s : State) : tdAdvance c (sendPump c (s.setChan c x)) = s.setChan c x := by
  have hx : (s.setChan c x).chan c = x := State.chan_setChan_self (by rw [hst]; decide) s c
  have hpump : sendPump c (s.setChan c x) = s.setChan c x := by
    simp [sendPump, hx, hreads]
  rw [hpump]
  simp [tdAdvance, hx, hst, hkind, hstatus, hfault]

section
variable {s : State} {p : Pkt} {c : Nat} (hsend : s.sendOf p.xtag = some c) (hreads : (s.chan c).reads ≠ [])
  (hstatus : (s.chan c).status = 0) (hfault : (s.chan c).fault = none)
include hsend hreads hstatus hfault

theorem takeAck_send : takeAck p s = s.setChan c { s.chan c with
    waited := 0, chunks := (s.chan c).chunks.filter (fun x => x.2 != p.seq) } := by
  obtain ⟨hst, hkind⟩ := State.sendOf_some hsend
  simp only [takeAck, hsend]
  exact send_reading (x := { s.chan c with waited := 0, chunks := _ }) hst hkind hreads hstatus hfault c s

theorem takeNak_send (hcret : (p.payload.getD 1 0#8).toNat % 2 = 0) (hxtag : p.xtag ≠ 0) :
    takeNak p s = s.setChan c { s.chan c with
      nak := true, waited := 0
      phase := if (s.chan c).chunks.any (fun x => x.1 ≤ p.seq && p.seq ≤ x.2) then (s.chan c).phase else 4
      chunks := (s.chan c).chunks.filter (fun x => !(x.1 ≤ p.seq && p.seq ≤ x.2)) } := by
  obtain ⟨hst, hkind⟩ := State.sendOf_some hsend
  simp only [takeNak, hcret, hsend, Nat.reduceBEq, beq_eq_false_iff_ne.2 hxtag, Bool.false_and, Bool.false_eq_true,
    if_false]
  exact send_reading (x := { s.chan c with nak := true, waited := 0, phase := _, chunks := _ }) hst hkind hreads hstatus
    hfault c s

end

theorem takeAck_unknown {s : State} {p : Pkt} (hsend : s.sendOf p.xtag = none) : takeAck p s = s.ringDrop 6 p := by
  simp [takeAck, hsend]

/-- A NAK for no SEND, and no token's, is dropped with reason XTAG (R348, R366). -/
theorem takeNak_unknown {s : State} {p : Pkt} (hsend : s.sendOf p.xtag = none)
    (htoken : p.xtag ≠ 0 ∨ (p.payload.getD 1 0#8).toNat % 2 = 1) : takeNak p s = s.ringDrop 6 p := by
  have hnot : (p.xtag == 0 && !((p.payload.getD 1 0#8).toNat % 2 == 1)) = false := by
    obtain h | h := htoken
    · rw [beq_eq_false_iff_ne.2 h, Bool.false_and]
    · rw [h, beq_self_eq_true, Bool.not_true, Bool.and_false]
  simp only [takeNak, hnot, Bool.false_eq_true, if_false, hsend]

/-- A token's NAK is reported (R348, R381). -/
theorem takeNak_token {s : State} {p : Pkt} (hxtag : p.xtag = 0) (hcret : (p.payload.getD 1 0#8).toNat % 2 = 0)
    (hroom : s.evRoom = true) :
    takeNak p s = s.push (s.record 0x0F ((p.payload.getD 0 0#8).toNat + p.src * 65536) 0 0 0) := by
  have htoken : (p.xtag == 0 && !((p.payload.getD 1 0#8).toNat % 2 == 1)) = true := by
    rw [hxtag, hcret]
    rfl
  simp only [takeNak, htoken, if_true]
  exact State.pushOrDrop_evRoom hroom _

/-! ### Starting a mark (R355, R356) -/

/-- The lead has started its next mark, and its MARK is still to go. -/
def State.marking (s : State) : State :=
  { s with ring := { s.ring with
    epochRun := 0
    mark := { s.ring.mark with
      started := s.ring.mark.started + 1, phase := 1, k := s.ring.mark.started + 1, s := s.kp.nextseq, held := 0
      sentAt := s.clk.ticks, again := false, restraint := some (s.kp.nextseq, s.clk.ticks, false) } } }

theorem startMark_idle {s : State} (h : s.ring.mark.phase = 0) :
    startMark s = s.marking.toNext 4 (markPay (s.ring.mark.started + 1) s.kp.nextseq 0) := by
  simp only [startMark, h, bne_self_eq_false, Bool.false_eq_true, if_false]
  rfl

theorem startMark_busy {s : State} (h : s.ring.mark.phase ≠ 0) :
    startMark s = s.setMark (fun m => { m with again := true }) := by
  simp [startMark, h]

theorem State.marking_sameTraffic (s : State) : s.SameTraffic s.marking := rfl

theorem takeMreq_follower {s : State} {p : Pkt} (h : s.isLead = false) : takeMreq p s = s := by
  simp [takeMreq, h]

theorem takeMreq_lead {s : State} {p : Pkt} (h : s.isLead = true) : takeMreq p s = startMark s :=
  if_pos h

/-- Settles O56, one clause for each kind, on the state in which the packet has taken its space. -/
theorem ringDataPackets : Obligations.RingDataPackets := by
  unfold Obligations.RingDataPackets
  intro s port hdr pl p hinv _ hcomes
  obtain ⟨q, ports, hu⟩ := s.took_eq port p
  let u := s.withTraffic q ports
  have hdata := fun hkind => hu ▸ hcomes.takes_data hkind
  rw [hu]
  refine ⟨fun m gen hkind hm hopen hlo hhi hsize hcrc hsec hfirst => ?_, fun m gen reason hkind hcls hm hne hreason => ?_,
    fun hkind hch hany => ?_, fun hkind hch hany hroom => ?_, fun c hsend hreads hstatus hfault => ?_,
    fun hsend herr t ht => ?_, fun hkind hxtag hcret hroom => ?_, fun hkind herr => ?_, fun hkind hlead => ?_,
    fun hkind hlead hphase => ?_, fun hkind hlead hphase => ?_⟩
  · have hcheck : u.dataCheck p = 0 := by
      rw [State.dataCheck_eq (s := u) hm]
      simp [hopen, hlo, hhi, hsize, hcrc]
    rw [hdata hkind, takeData_accepted (s := u) hm hcheck hsec hfirst]
    refine ⟨_, _, rfl, rfl, rfl, rfl, rfl, rfl, rfl, fun hcls => ?_, rfl⟩
    rw [State.noteChunk_uncredited hcls]
    rfl
  · have hcheck : u.dataCheck p = reason := by
      rw [State.dataCheck_eq (s := u) hm, hreason]
    rw [hdata hkind, takeData_refused hcls (hcheck ▸ hne), hcheck]
    exact ⟨_, rfl, State.originate_sentTo .., (State.originate_sends ..).ringBooks rfl, (State.originate_sends ..).frame⟩
  · exact ⟨_, hcomes.does_kind hu hkind (by decide) (credit_known (s := u) hch hany),
      Ring.creditFor_creditEntry (r := s.ring) hany, fun d m h => Ring.creditFor_creditEntry_other (r := s.ring) h, rfl⟩
  · exact ⟨_, hcomes.does_kind hu hkind (by decide) (credit_new (s := u) hch hany hroom), rfl, rfl⟩
  · have hchan := fun x k => u.chan_setChan c k x hinv.channels
    exact ⟨fun hkind => ⟨_, hcomes.does_kind hu hkind (by decide) (takeAck_send (s := u) hsend hreads hstatus hfault), hchan _, rfl⟩,
      fun hkind hxtag hcret =>
        ⟨_, hcomes.does_kind hu hkind (by decide) (takeNak_send (s := u) hsend hreads hstatus hfault hcret hxtag), hchan _, rfl⟩⟩
  · have hdrop : u.ringDrop 6 p = t :=
      (State.ringDrop_noted (s := u) herr 6 p).trans ht.symm
    exact ⟨fun hkind => hcomes.does_kind hu hkind (by decide) ((takeAck_unknown (s := u) hsend).trans hdrop),
      fun hkind htoken => hcomes.does_kind hu hkind (by decide) ((takeNak_unknown (s := u) hsend htoken).trans hdrop)⟩
  · exact hcomes.does_kind hu hkind (by decide) (takeNak_token (s := u) hxtag hcret hroom)
  · exact hcomes.does hu hkind (by decide) (State.ringDrop_noted (s := u) herr 4 p)
  · exact hcomes.does_kind hu hkind (by decide) (takeMreq_follower (s := u) hlead)
  · exact hcomes.does_kind hu hkind (by decide) ((takeMreq_lead (s := u) hlead).trans (startMark_busy (s := u) hphase))
  · refine ⟨_, hcomes.does_kind hu hkind (by decide) ((takeMreq_lead (s := u) hlead).trans (startMark_idle (s := u) hphase)), ?_⟩
    have hsends := u.marking.toNext_sends 4 (markPay (s.ring.mark.started + 1) s.kp.nextseq 0)
    exact ⟨congrArg Mark.phase hsends.mark, congrArg Mark.started hsends.mark, congrArg Mark.k hsends.mark,
      congrArg Mark.s hsends.mark, (State.marking_sameTraffic _).sentTo .., hsends.ringBooks rfl, hsends.frame⟩

end Sys2Proof.Machine

namespace Sys2Proof.Machine

/-! ### Messages and the ring's books -/

theorem State.Sends.evq {s t : State} (h : s.Sends t) : t.evq = s.evq := by
  rw [h]

theorem State.Sends.books {s t : State} (h : s.Sends t) : t.ring.markLast = s.ring.markLast ∧
    t.ring.markLastS = s.ring.markLastS ∧ t.ring.hold = s.ring.hold ∧ t.ring.holdPay = s.ring.holdPay ∧
    t.ring.circ = s.ring.circ ∧ t.ring.relWait = s.ring.relWait := by
  rw [h]
  exact ⟨rfl, rfl, rfl, rfl, rfl, rfl⟩

theorem State.Sends.nextId {s t : State} (h : s.Sends t) : t.ring.nextId = s.ring.nextId := by
  rw [h]

/-- A message after a change of the ring's books changes those, the traffic and the counts alone. -/
theorem State.Sends.frame_ring {s v t : State} (h : v.Sends t) (hv : v = { s with ring := v.ring }) :
    t = { s with ring := t.ring, cnt := t.cnt } := by
  have hframe := h.frame
  rw [hv] at hframe
  exact hframe

theorem State.Sends.frame_evq {s v t : State} (h : v.Sends t) (hv : v = { s with ring := v.ring, evq := v.evq }) :
    t = { s with ring := t.ring, evq := t.evq, cnt := t.cnt } := by
  have hframe := h.frame
  rw [h.evq]
  rw [hv] at hframe
  exact hframe

/-! ### The ends of marks (R356, R357, R406) -/

theorem State.markWaitersDone_nil {s : State} (h : s.ring.mark.waiters = []) (failed : Bool) :
    s.markWaitersDone failed = s := by
  simp only [State.markWaitersDone, h, List.foldl_nil, State.setMark]
  rw [← h]

/-- The record of a mark's event (R381). -/
def State.markRecord (s : State) (what k seq : Nat) : EvRec := ⟨0x0E, 0, 0, s.clk.ticks % 2 ^ 32, seq, what, k, 0, 0⟩

/-- Mark `k` is the last closed one here, and its event is queued (R356). -/
def State.closedMark (s : State) (k seq : Nat) : State :=
  { s with
    ring := { s.ring with
      markLast := k, markLastS := seq, mark := { s.ring.mark with restraint := none, sealHeld := none } }
    evq := s.evq ++ [s.markRecord 1 k seq] }

theorem recordClosed_open {s : State} (hsealed : s.log.sealedIn = none) (hwaiters : s.ring.mark.waiters = []) (k seq : Nat) :
    recordClosed k seq s = s.closedMark k seq := by
  rw [recordClosed_eq hsealed, State.markWaitersDone_nil]
  · rfl
  · exact hwaiters

/-- SEAL is back at the lead, whose own close is complete, and CLOSED is still to be recorded (R356). -/
def State.markSealed (s : State) : State :=
  s.setMark (fun m => { m with phase := 3, sentAt := s.clk.ticks, sealHeld := none })

theorem leadClosed_open {s : State} (hsealed : s.log.sealedIn = none) (hwaiters : s.ring.mark.waiters = []) :
    leadClosed s = (s.markSealed.closedMark s.ring.mark.k s.ring.mark.s).toNext 6
      (markPay s.ring.mark.k s.ring.mark.s s.ring.mark.held) := by
  rw [← recordClosed_open (s := s.markSealed) hsealed hwaiters]
  rfl

/-- MABORT drops the close with what it has read and asked for (R406). -/
theorem logAborted_spec (s : State) : ∃ log logQ q,
    logAborted s = { s with log := log, mem := { s.mem with logQ := logQ }, osura := { s.osura with q := q } } ∧
      log.close = none ∧ log.pend = [] ∧ log.sealedIn = none := by
  have hset : ∀ (x : Bool) (d : Sparse Bool), (s.log.setDirty x d).close = s.log.close := by
    intro x d
    cases x <;> rfl
  unfold logAborted
  dsimp only
  split
  · exact ⟨_, _, _, rfl, rfl, rfl, rfl⟩
  · exact ⟨_, _, _, rfl, rfl, rfl, rfl⟩

theorem markEnded_over {s : State} (hagain : s.ring.mark.again = false) :
    markEnded s = s.setMark (fun m => { m with phase := 0 }) := by
  simp [markEnded, State.setMark, hagain]

/-- The lead's close is dropped, with its event; the MABORT is still to go (R357). -/
def State.markDropped (s : State) : State :=
  ((logAborted s).setMark (fun m => { m with restraint := none, sealHeld := none, abortDue := false })).markEv 2
    s.ring.mark.k s.ring.mark.s

theorem State.markDropped_spec (s : State) : ∃ log logQ q,
    s.markDropped = { s with
      ring := { s.ring with mark := { s.ring.mark with restraint := none, sealHeld := none, abortDue := false } }
      evq := s.evq ++ [s.markRecord 2 s.ring.mark.k s.ring.mark.s]
      log := log, mem := { s.mem with logQ := logQ }, osura := { s.osura with q := q } } ∧
      log.close = none ∧ log.pend = [] ∧ log.sealedIn = none := by
  obtain ⟨log, logQ, q, habort, hdropped⟩ := logAborted_spec s
  refine ⟨log, logQ, q, ?_, hdropped⟩
  unfold State.markDropped
  rw [habort]
  rfl

theorem leadAborts_over {s : State} (hwaiters : s.ring.mark.waiters = []) (hagain : s.ring.mark.again = false) :
    leadAborts s = (s.markDropped.toNext 7 (markPay s.ring.mark.k s.ring.mark.s 0)).setMark (fun m => { m with phase := 0 }) := by
  obtain ⟨log, logQ, q, habort, -⟩ := s.markDropped_spec
  have hwaiters' : s.markDropped.ring.mark.waiters = [] := by rw [habort]; exact hwaiters
  have hagain' : (s.markDropped.toNext 7 (markPay s.ring.mark.k s.ring.mark.s 0)).ring.mark.again = false := by
    rw [(s.markDropped.toNext_sends ..).mark, habort]
    exact hagain
  refine Eq.trans ?_ (markEnded_over hagain')
  rw [← State.markWaitersDone_nil hwaiters' true]
  rfl

theorem State.setMark_setMark (s : State) (f g : Mark → Mark) : (s.setMark f).setMark g = s.setMark (fun m => g (f m)) := rfl

theorem State.setMark_withLog (s : State) (l : Log) (f : Mark → Mark) :
    State.setMark { s with log := l } f = { s.setMark f with log := l } := rfl

/-- A close starts when the Logbook is on or work below its number runs (R356, R403). -/
theorem startClose_starts {s : State} {k seq : Nat} (h : (s.log.en || !s.belowDone seq) = true) :
    startClose k seq s = { s.setMark (fun m => { m with restraint := none }) with
      log := { s.log with close := some ⟨k, seq, 0, s.log.openB, [], 0⟩ } } :=
  if_pos h

/-- Else there is nothing to close. -/
theorem startClose_none {s : State} {k seq : Nat} (h : (s.log.en || !s.belowDone seq) = false) :
    startClose k seq s = s.setMark (fun m => { m with restraint := none }) :=
  if_neg (fun hstart => Bool.false_ne_true (h.symm.trans hstart))

/-- A SEAL that was held goes on with its holding time (R356). -/
theorem closeDone_follower {s : State} {held since : Nat} (hlead : s.isLead = false)
    (hheld : s.ring.mark.sealHeld = some (held, since)) (k seq : Nat) : closeDone k seq s =
      (s.setMark (fun m => { m with sealHeld := none })).toNext 5 (markPay k seq (held + (s.clk.ticks - since))) := by
  simp only [closeDone, hheld, hlead, Bool.false_eq_true, if_false]

/-- A SEAL of `p` has come, and is held. -/
def State.sealKept (s : State) (p : Pkt) : State := s.setMark (fun m => { m with
  k := payK p, s := payS p, restraint := none, sealHeld := some (payHeld p, s.clk.ticks) })

/-! ### HOLD and RELEASE (R358, R359) -/

/-- The record of a HOLD or RELEASE (R381). -/
def State.holdRecord (s : State) (typ : Nat) (pay : List Byte) : EvRec :=
  ⟨typ, 0, 0, s.clk.ticks % 2 ^ 32, s.seqNow, ofBytes (pay.take 4), ofBytes ((pay.drop 4).take 4),
    ofBytes ((pay.drop 8).take 4), ofBytes ((pay.drop 12).take 4)⟩

/-- The hold of a HOLD packet is in force, and its event queued. -/
def State.holding (s : State) (p : Pkt) : State :=
  { s with ring := { s.ring with hold := true, holdPay := p.payload }, evq := s.evq ++ [s.holdRecord 0x0C p.payload] }

/-- The hold is lifted, and the event of the RELEASE queued. -/
def State.released (s : State) (p : Pkt) : State :=
  { s with
    ring := { s.ring with hold := false, circ := s.ring.circ.erase (9, p.payload) }, flt := { s.flt with stopped := false }
    evq := s.evq ++ [s.holdRecord 0x0D p.payload] }

/-- A HOLD that a chip has sent circulates from the lead. -/
def State.circulating (s : State) (p : Pkt) : State :=
  { s.holding p with ring := { (s.holding p).ring with circ := s.ring.circ ++ [(8, p.payload)] } }

/-- With no SEND that waits, RELEASE lifts the hold, and is done or goes on (R359). -/
theorem takeRelease_eq {s : State} {p : Pkt} (hch : s.td.ch = []) : takeRelease p s =
    if s.isLead then
      let t := s.ring.relWait.foldl (fun t n => t.settle n false) (s.released p)
      { t with ring := { t.ring with relWait := [] } }
    else (s.released p).toNext 9 p.payload := by
  have hsend : sendAll (s.released p) = s.released p := sendAll_idle hch
  unfold takeRelease
  show (if s.isLead = true then
    let t := (sendAll (s.released p)).ring.relWait.foldl (fun t n => t.settle n false) (sendAll (s.released p))
    { t with ring := { t.ring with relWait := [] } } else (sendAll (s.released p)).toNext 9 p.payload) = _
  rw [hsend]
  rfl

/-- A HOLD leaves alone what is no mark of the lead, or one whose SEAL has come round. -/
theorem holdAborts_self {s : State}
    (h : s.isLead = false ∨ (s.ring.mark.phase ≠ 1 ∧ s.ring.mark.phase ≠ 2)) : holdAborts s = s := by
  have hnot : (s.isLead && (decide (s.ring.mark.phase = 1) || decide (s.ring.mark.phase = 2))) = false := by
    obtain hlead | ⟨h1, h2⟩ := h
    · rw [hlead, Bool.false_and]
    · simp [h1, h2]
  simp [holdAborts, hnot]

/-- It ends a mark of the lead that runs, when there is room for the record (R358). -/
theorem holdAborts_lead {s : State} (hlead : s.isLead = true) (hphase : s.ring.mark.phase = 1 ∨ s.ring.mark.phase = 2)
    (hroom : s.evRoom = true) : holdAborts s = leadAborts s := by
  have hruns : (s.isLead && (decide (s.ring.mark.phase = 1) || decide (s.ring.mark.phase = 2))) = true := by
    obtain h | h := hphase <;> simp [hlead, h]
  simp [holdAborts, hruns, hroom]

/-- The last running descriptor, which asks for no event, is done and counted (R379). -/
theorem State.settle_last {s : State} {r : CtlRun} (hruns : s.kp.ctlRun = [r]) (herr : r.err = none)
    (hcevt : r.cevt = false) :
    s.settle r.num false = { s with kp := { s.kp with ctlRun := [], cdone := (s.kp.cdone + 1) % 2 ^ 32 } } := by
  have hpump := ctlPump_completed (s := s.withRuns [{ r with done := true, p2 := if r.op = 8 then s.ring.mark.k else 0 }])
    rfl rfl herr (fun h => absurd (hcevt.symm.trans h) Bool.false_ne_true)
  have hnone : ∀ t : State, t.ctlDone { r with done := true, p2 := if r.op = 8 then s.ring.mark.k else 0 } = [] :=
    fun t => if_neg (by rw [hcevt]; decide)
  rw [hnone, List.append_nil] at hpump
  simp only [State.settle, hruns, List.map_cons, List.map_nil, if_true]
  exact hpump

/-! ### The circulations away from the lead (R356, R357, R359) -/

section
variable {s : State} (hlead : s.isLead = false) (p : Pkt)
include hlead

/-- MARK raises S and goes on with it. -/
theorem takeMark_follower : takeMark p s = (s.setMark (fun m => { m with
      k := payK p, s := max (payS p) s.kp.nextseq
      restraint := some (max (payS p) s.kp.nextseq, s.clk.ticks, false) })).toNext 4
    (markPay (payK p) (max (payS p) s.kp.nextseq) (payHeld p)) := by
  simp only [takeMark, hlead, Bool.false_eq_true, if_false]

/-- SEAL waits for this chip's close. -/
theorem takeSeal_closes (hwork : s.log.en = true ∨ s.belowDone (payS p) = false) : takeSeal p s =
    { s.sealKept p with log := { s.log with close := some ⟨payK p, payS p, 0, s.log.openB, [], 0⟩ } } := by
  have hstart : (s.log.en || !s.belowDone (payS p)) = true := by
    obtain h | h := hwork <;> simp [h]
  have hclose := startClose_starts (s := s.setMark (fun m => { m with k := payK p, s := payS p })) (k := payK p) hstart
  simp only [takeSeal, hlead, Bool.false_eq_true, if_false, hclose, Option.isNone_some, State.setMark_withLog,
    State.setMark_setMark]
  rfl

/-- With the Logbook off and the work below S complete, SEAL goes on at once (R403). -/
theorem takeSeal_passes (hen : s.log.en = false) (hdone : s.belowDone (payS p) = true) (hclose : s.log.close = none) :
    takeSeal p s = ((s.sealKept p).setMark (fun m => { m with sealHeld := none })).toNext 5
      (markPay (payK p) (payS p) (payHeld p)) := by
  have hstart : (s.log.en || !s.belowDone (payS p)) = false := by rw [hen, hdone]; rfl
  have hnone := startClose_none (s := s.setMark (fun m => { m with k := payK p, s := payS p })) (k := payK p) hstart
  have hpass : takeSeal p s = closeDone (payK p) (payS p) (s.sealKept p) := by
    have hclose' : ∀ f, (s.setMark f).log.close = none := fun _ => hclose
    simp only [takeSeal, hlead, Bool.false_eq_true, if_false, hnone, State.setMark_setMark, hclose', Option.isNone_none,
      if_true]
    rfl
  rw [hpass, closeDone_follower (s := s.sealKept p) hlead rfl]
  show State.toNext _ 5 (markPay _ _ (payHeld p + (s.clk.ticks - s.clk.ticks))) = _
  rw [Nat.sub_self, Nat.add_zero]

theorem takeClosed_follower (hsealed : s.log.sealedIn = none) (hwaiters : s.ring.mark.waiters = []) :
    takeClosed p s = (s.closedMark (payK p) (payS p)).toNext 6 p.payload := by
  simp only [takeClosed, hlead, Bool.false_eq_true, if_false, recordClosed_open hsealed hwaiters]

/-- MABORT of a mark that is closed here only goes on (R406). -/
theorem takeMabort_closed (hlast : s.ring.markLast = payK p) : takeMabort p s = s.toNext 7 p.payload := by
  simp only [takeMabort, hlead, hlast, Bool.false_eq_true, if_false, if_true]

theorem takeMabort_follower (hlast : s.ring.markLast ≠ payK p) (hwaiters : s.ring.mark.waiters = []) :
    takeMabort p s = ((logAborted s).setMark (fun m => { m with restraint := none, sealHeld := none })).toNext 7 p.payload := by
  obtain ⟨log, logQ, q, habort, -⟩ := logAborted_spec s
  simp only [takeMabort, hlead, hlast, Bool.false_eq_true, if_false]
  rw [State.markWaitersDone_nil]
  rw [habort]
  exact hwaiters

theorem takeHold_follower : takeHold p s = (s.holding p).toNext 8 p.payload := by
  have haborts : holdAborts (s.holding p) = s.holding p := holdAborts_self (.inl hlead)
  have hheld : takeHold p s = (holdAborts (s.holding p)).toNext 8 p.payload := by
    simp only [takeHold, hlead, Bool.false_and, Bool.false_eq_true, if_false]
    exact congrArg (fun t => State.toNext (holdAborts t) 8 p.payload)
      (if_neg (fun h => Bool.false_ne_true (hlead.symm.trans h)))
  rw [hheld, haborts]

theorem takeRelease_follower (hch : s.td.ch = []) : takeRelease p s = (s.released p).toNext 9 p.payload := by
  rw [takeRelease_eq hch, hlead]
  rfl

end

/-! ### The circulations at the lead (R356 to R359) -/

section
variable {s : State} (hlead : s.isLead = true) (p : Pkt)
include hlead

/-- MARK has come round, and SEAL starts. -/
theorem takeMark_returned (hphase : s.ring.mark.phase = 1) (hk : s.ring.mark.k = payK p) (hlate : s.circLate = false) :
    takeMark p s = (startClose (payK p) (payS p) (s.setMark (fun m => { m with
      phase := 2, s := payS p, held := 0, sentAt := s.clk.ticks }))).toNext 5 (markPay (payK p) (payS p) 0) := by
  simp only [takeMark, hlead, hphase, hk, hlate, decide_true, Bool.not_false, Bool.and_self, if_true]

/-- What comes round too late is left to MARK_TIMEOUT. -/
theorem takeMark_late (hlate : s.circLate = true) : takeMark p s = s := by
  simp [takeMark, hlead, hlate]

theorem takeClosed_late (hlate : s.circLate = true) : takeClosed p s = s := by
  simp [takeClosed, hlead, hlate]

/-- CLOSED has come round: the mark is over. -/
theorem takeClosed_returned (hphase : s.ring.mark.phase = 3) (hk : s.ring.mark.k = payK p) (hlate : s.circLate = false)
    (hagain : s.ring.mark.again = false) : takeClosed p s = s.setMark (fun m => { m with phase := 0 }) := by
  simp only [takeClosed, hlead, hphase, hk, hlate, decide_true, Bool.not_false, Bool.and_self, if_true]
  exact markEnded_over hagain

theorem takeMabort_lead : takeMabort p s = s := by
  simp [takeMabort, hlead]

/-- SEAL is back. -/
theorem takeSeal_returned (hphase : s.ring.mark.phase = 2) (hk : s.ring.mark.k = payK p) : takeSeal p s =
    (let t := s.setMark (fun m => { m with held := payHeld p, sealHeld := some (payHeld p, s.clk.ticks) })
    if s.log.close.isNone && !t.circLate then leadClosed t else t) := by
  simp only [takeSeal, hlead, hphase, hk, decide_true, Bool.and_self, if_true]
  rfl

/-- A HOLD that the lead sent has come round, and stops. -/
theorem takeHold_returned (hcirc : (8, p.payload) ∈ s.ring.circ) : takeHold p s =
    { s with ring := { s.ring with circ := s.ring.circ.erase (8, p.payload) } } :=
  if_pos (by rw [hlead, List.contains_iff_mem.2 hcirc]; rfl)

theorem takeHold_circulates (hcirc : (8, p.payload) ∉ s.ring.circ) :
    takeHold p s = (holdAborts (s.circulating p)).toNext 8 p.payload := by
  have hnew : (s.isLead && s.ring.circ.contains (8, p.payload)) = false := by simp [hcirc]
  unfold takeHold
  rw [if_neg (by rw [hnew]; decide)]
  exact congrArg (fun t => State.toNext (holdAborts t) 8 p.payload) (if_pos hlead)

theorem takeRelease_lead (hch : s.td.ch = []) : takeRelease p s =
    (let t := s.ring.relWait.foldl (fun t n => t.settle n false) (s.released p)
    { t with ring := { t.ring with relWait := [] } }) := by
  rw [takeRelease_eq hch, hlead]
  rfl

end

/-! ### The Control descriptors MARK and RELEASE (R355, R359) -/

theorem State.SentTo.of_ring_eq {s t u : State} {dst kind : Nat} {pay : List Byte} (h : s.SentTo t dst kind pay)
    (hring : u.ring = t.ring) : s.SentTo u dst kind pay :=
  h.of_eq rfl rfl rfl rfl rfl (by rw [hring]) (by rw [hring])

theorem State.RingBooks.of_ring_eq {s t u : State} (h : s.RingBooks t) (hring : u.ring = t.ring) : s.RingBooks u := by
  unfold State.RingBooks at *
  rw [hring]
  exact h

/-- A descriptor that runs on after its action has changed ring books and sent a message. -/
theorem State.CtlNext.startCtl_sends {s v t : State} {d : Desc} {rest : List Desc} {op : Nat} (h : s.CtlNext d rest op)
    {act : Desc → Nat → State → CtlOut} (hact : act d s.kp.ctlNum (enterCtl d [] 0 d.cevt false s) = .running [] t)
    (hv : v = { enterCtl d [] 0 d.cevt false s with ring := v.ring }) (hsends : v.Sends t) :
    ∃ u, startCtl op act s = .next u ∧ u.ring = t.ring ∧ u.CtlRuns s.kp.ctlNum ∧ s.CtlBooks u rest ∧
      u = { s with ring := u.ring, cnt := u.cnt, kp := u.kp, evq := u.evq } := by
  have hframe : t = { enterCtl d [] 0 d.cevt false s with ring := t.ring, cnt := t.cnt } := by
    rw [hsends.frame, hv]
  have hkp : t.kp = (enterCtl d [] 0 d.cevt false s).kp := by rw [hframe]
  have hevq : t.evq = (enterCtl d [] 0 d.cevt false s).evq := by rw [hframe]
  obtain ⟨runs, hexec, hruns⟩ := h.startCtl_runs hact (by rw [hkp])
  refine ⟨_, hexec, by rw [ctlPump_frame]; rfl, hruns,
    ((h.ctlBooks_enterCtl.of_eq hevq (by rw [hkp])).withRuns runs).ctlPump, ?_⟩
  rw [ctlPump_frame, State.withRuns, hframe]
  rfl

/-- MARK's descriptor waits for its mark. -/
def State.markAsked (s : State) (num : Nat) : State := s.setMark (fun m => { m with waiters := m.waiters ++ [num] })

/-- RELEASE's descriptor waits for RELEASE to come back. -/
def State.releaseAsked (s : State) (num : Nat) : State :=
  { s with ring := { s.ring with relWait := s.ring.relWait ++ [num] } }

section
variable {s : State} (d : Desc) (num : Nat)

theorem actMark_lead (hlead : s.isLead = true) (hphase : s.ring.mark.phase = 0) : actMark d num s =
    .running [] ((s.markAsked num).marking.toNext 4 (markPay (s.ring.mark.started + 1) s.kp.nextseq 0)) :=
  congrArg (CtlOut.running []) ((if_pos hlead).trans (startMark_idle (s := s.markAsked num) hphase))

theorem actMark_follower (hlead : s.isLead = false) : actMark d num s =
    .running [] ((s.markAsked num).originate ((s.markAsked num).newPkt s.ring.leadId 0 10 0 0 0 [])) :=
  congrArg (CtlOut.running []) (if_neg (fun h => Bool.false_ne_true (hlead.symm.trans h)))

theorem actRelease_lead (hlead : s.isLead = true) (hpay : s.ring.holdPay.length = 16) :
    actRelease d num s = .running [] ((s.releaseAsked num).toNext 9 s.ring.holdPay) := by
  simp only [actRelease, hlead, hpay, Bool.not_true, Bool.false_eq_true, if_false, if_true]
  rfl

theorem actRelease_follower (hlead : s.isLead = false) : actRelease d num s = .refused 9 s := by
  simp [actRelease, hlead]

end

section
variable {s : State} {d : Desc} {rest : List Desc}

/-- MARK at the lead starts a mark. -/
theorem State.CtlNext.exec_mark_lead (h : s.CtlNext d rest 8) (hlead : s.isLead = true) (hphase : s.ring.mark.phase = 0) :
    ∃ t, exec .mark s = .next t ∧
      t.ring.mark.phase = 1 ∧ t.ring.mark.started = s.ring.mark.started + 1 ∧
      t.ring.mark.waiters = s.ring.mark.waiters ++ [s.kp.ctlNum] ∧
      s.SentTo t s.ring.nextId 4 (markPay (s.ring.mark.started + 1) s.kp.nextseq 0) ∧
      t.CtlRuns s.kp.ctlNum ∧ s.CtlBooks t rest ∧ s.RingBooks t ∧
      t = { s with ring := t.ring, cnt := t.cnt, kp := t.kp, evq := t.evq } := by
  have hact := actMark_lead (s := enterCtl d [] 0 d.cevt false s) d s.kp.ctlNum hlead hphase
  have hsends := ((enterCtl d [] 0 d.cevt false s).markAsked s.kp.ctlNum).marking.toNext_sends 4
    (markPay (s.ring.mark.started + 1) s.kp.nextseq 0)
  have htraffic : s.SameTraffic ((enterCtl d [] 0 d.cevt false s).markAsked s.kp.ctlNum).marking := rfl
  obtain ⟨t, hexec, hring, hruns, hbooks, hframe⟩ := h.startCtl_sends hact rfl hsends
  have hmark := (congrArg Ring.mark hring).trans hsends.mark
  exact ⟨t, hexec, congrArg Mark.phase hmark, congrArg Mark.started hmark, congrArg Mark.waiters hmark,
    (htraffic.sentTo ..).of_ring_eq hring, hruns, hbooks, (hsends.ringBooks rfl).of_ring_eq hring, hframe⟩

/-- Elsewhere it asks the lead for one. -/
theorem State.CtlNext.exec_mark_follower (h : s.CtlNext d rest 8) (hlead : s.isLead = false) :
    ∃ t, exec .mark s = .next t ∧
      t.ring.mark = { s.ring.mark with waiters := s.ring.mark.waiters ++ [s.kp.ctlNum] } ∧
      s.SentTo t s.ring.leadId 10 [] ∧ t.CtlRuns s.kp.ctlNum ∧ s.CtlBooks t rest ∧ s.RingBooks t ∧
      t = { s with ring := t.ring, cnt := t.cnt, kp := t.kp, evq := t.evq } := by
  have hact := actMark_follower (s := enterCtl d [] 0 d.cevt false s) d s.kp.ctlNum hlead
  have hsent := ((enterCtl d [] 0 d.cevt false s).markAsked s.kp.ctlNum).originate_sentTo s.ring.leadId 10 0 0 0 []
  have hsends := ((enterCtl d [] 0 d.cevt false s).markAsked s.kp.ctlNum).originate_sends
    (((enterCtl d [] 0 d.cevt false s).markAsked s.kp.ctlNum).newPkt s.ring.leadId 0 10 0 0 0 [])
  obtain ⟨t, hexec, hring, hruns, hbooks, hframe⟩ := h.startCtl_sends hact rfl hsends
  exact ⟨t, hexec, (congrArg Ring.mark hring).trans hsends.mark,
    State.SentTo.of_ring_eq (hsent.of_eq rfl rfl rfl rfl rfl rfl rfl) hring, hruns, hbooks,
    (hsends.ringBooks rfl).of_ring_eq hring, hframe⟩

/-- RELEASE circulates from the lead, which lifts its own hold when it is back. -/
theorem State.CtlNext.exec_release_lead (h : s.CtlNext d rest 9) (hlead : s.isLead = true)
    (hpay : s.ring.holdPay.length = 16) : ∃ t, exec .release s = .next t ∧
      s.SentTo t s.ring.nextId 9 s.ring.holdPay ∧ t.ring.relWait = s.ring.relWait ++ [s.kp.ctlNum] ∧
      t.ring.hold = s.ring.hold ∧ t.CtlRuns s.kp.ctlNum ∧ s.CtlBooks t rest ∧
      t = { s with ring := t.ring, cnt := t.cnt, kp := t.kp, evq := t.evq } := by
  have hact := actRelease_lead (s := enterCtl d [] 0 d.cevt false s) d s.kp.ctlNum hlead hpay
  have hsends := ((enterCtl d [] 0 d.cevt false s).releaseAsked s.kp.ctlNum).toNext_sends 9 s.ring.holdPay
  have htraffic : s.SameTraffic ((enterCtl d [] 0 d.cevt false s).releaseAsked s.kp.ctlNum) := rfl
  obtain ⟨-, -, hhold, -, -, hwait⟩ := hsends.books
  obtain ⟨t, hexec, hring, hruns, hbooks, hframe⟩ := h.startCtl_sends hact rfl hsends
  exact ⟨t, hexec, (htraffic.sentTo ..).of_ring_eq hring, (congrArg Ring.relWait hring).trans hwait,
    (congrArg Ring.hold hring).trans hhold, hruns, hbooks, hframe⟩

/-- Elsewhere it is refused with reason NOTLEAD. -/
theorem State.CtlNext.exec_release_follower (h : s.CtlNext d rest 9) (hlead : s.isLead = false) :
    ∃ t, exec .release s = .next t ∧
      (∃ e ∈ t.evq, e.typ = 0x02 ∧ e.ring = 3 ∧ e.index = d.slot ∧ e.p0 = 9 + 256 * 9) ∧ s.CtlBooks t rest ∧
      t = { s with kp := t.kp, evq := t.evq } := by
  obtain ⟨runs, ht⟩ := h.startCtl_refused
    (actRelease_follower (s := enterCtl d [] 0 d.cevt false s) d s.kp.ctlNum hlead)
  refine ⟨_, ht, ⟨_, (ctlPump_evq _).subset (List.mem_append_right _ (List.mem_singleton_self _)), rfl, rfl, rfl, rfl⟩,
    ((h.ctlBooks_enterCtl.withRuns runs).descErr ..).ctlPump, ?_⟩
  rw [ctlPump_frame]
  simp only [State.descErr, State.push, State.withRuns, enterCtl]

end

/-! ### What a circulation leaves away from the lead (R356, R357, R359, R406) -/

/-- A MARK of `p` has raised S here. -/
def State.markRaised (s : State) (p : Pkt) : State := s.setMark (fun m => { m with
  k := payK p, s := max (payS p) s.kp.nextseq
  restraint := some (max (payS p) s.kp.nextseq, s.clk.ticks, false) })

section
variable {s : State} (p : Pkt)

theorem mark_goes_on (hlead : s.isLead = false) : ∃ t, takeMark p s = t ∧
    t.ring.mark = { s.ring.mark with
      k := payK p, s := max (payS p) s.kp.nextseq
      restraint := some (max (payS p) s.kp.nextseq, s.clk.ticks, false) } ∧
    s.SentTo t s.ring.nextId 4 (markPay (payK p) (max (payS p) s.kp.nextseq) (payHeld p)) ∧
    s.RingBooks t ∧ t = { s with ring := t.ring, cnt := t.cnt } := by
  have hsends := (s.markRaised p).toNext_sends 4 (markPay (payK p) (max (payS p) s.kp.nextseq) (payHeld p))
  have htraffic : s.SameTraffic (s.markRaised p) := rfl
  exact ⟨_, takeMark_follower hlead p, hsends.mark, htraffic.sentTo .., hsends.ringBooks rfl, hsends.frame_ring rfl⟩

theorem seal_goes_on (hlead : s.isLead = false) (hen : s.log.en = false) (hdone : s.belowDone (payS p) = true)
    (hclose : s.log.close = none) : ∃ t, takeSeal p s = t ∧
    t.ring.mark = { s.ring.mark with k := payK p, s := payS p, restraint := none, sealHeld := none } ∧
    s.SentTo t s.ring.nextId 5 (markPay (payK p) (payS p) (payHeld p)) ∧
    s.RingBooks t ∧ t = { s with ring := t.ring, cnt := t.cnt } := by
  have hsends := ((s.sealKept p).setMark (fun m => { m with sealHeld := none })).toNext_sends 5
    (markPay (payK p) (payS p) (payHeld p))
  have htraffic : s.SameTraffic ((s.sealKept p).setMark (fun m => { m with sealHeld := none })) := rfl
  exact ⟨_, takeSeal_passes hlead p hen hdone hclose, hsends.mark, htraffic.sentTo .., hsends.ringBooks rfl,
    hsends.frame_ring rfl⟩

theorem closed_goes_on (hlead : s.isLead = false) (hsealed : s.log.sealedIn = none) (hwaiters : s.ring.mark.waiters = []) :
    ∃ t, takeClosed p s = t ∧ t.ring.markLast = payK p ∧ t.ring.markLastS = payS p ∧
      t.ring.mark = { s.ring.mark with restraint := none, sealHeld := none } ∧
      t.evq = s.evq ++ [s.markRecord 1 (payK p) (payS p)] ∧ s.SentTo t s.ring.nextId 6 p.payload ∧
      t = { s with ring := t.ring, evq := t.evq, cnt := t.cnt } := by
  have hsends := (s.closedMark (payK p) (payS p)).toNext_sends 6 p.payload
  have htraffic : s.SameTraffic (s.closedMark (payK p) (payS p)) := rfl
  obtain ⟨hlast, hlastS, -⟩ := hsends.books
  exact ⟨_, takeClosed_follower hlead p hsealed hwaiters, hlast, hlastS, hsends.mark, hsends.evq, htraffic.sentTo ..,
    hsends.frame_evq rfl⟩

theorem hold_goes_on (hlead : s.isLead = false) : ∃ t, takeHold p s = t ∧
    t.ring.hold = true ∧ t.ring.holdPay = p.payload ∧ t.evq = s.evq ++ [s.holdRecord 0x0C p.payload] ∧
    s.SentTo t s.ring.nextId 8 p.payload ∧ t = { s with ring := t.ring, evq := t.evq, cnt := t.cnt } := by
  have hsends := (s.holding p).toNext_sends 8 p.payload
  have htraffic : s.SameTraffic (s.holding p) := rfl
  obtain ⟨-, -, hhold, hpay, -⟩ := hsends.books
  exact ⟨_, takeHold_follower hlead p, hhold, hpay, hsends.evq, htraffic.sentTo .., hsends.frame_evq rfl⟩

theorem mabort_passes_on (hlead : s.isLead = false) (hlast : s.ring.markLast = payK p) : ∃ t, takeMabort p s = t ∧
    s.SentTo t s.ring.nextId 7 p.payload ∧ t.ring.mark = s.ring.mark ∧ s.RingBooks t ∧
    t = { s with ring := t.ring, cnt := t.cnt } := by
  have hsends := s.toNext_sends 7 p.payload
  exact ⟨_, takeMabort_closed hlead p hlast, s.toNext_sentTo .., hsends.mark, hsends.ringBooks rfl, hsends.frame⟩

theorem mabort_goes_on (hlead : s.isLead = false) (hlast : s.ring.markLast ≠ payK p) (hwaiters : s.ring.mark.waiters = []) :
    ∃ t, takeMabort p s = t ∧ t.log.close = none ∧ t.log.pend = [] ∧ t.log.sealedIn = none ∧
      t.ring.mark = { s.ring.mark with restraint := none, sealHeld := none } ∧
      s.SentTo t s.ring.nextId 7 p.payload ∧ s.RingBooks t ∧
      t = { s with
        ring := t.ring, cnt := t.cnt, log := t.log, mem := { s.mem with logQ := t.mem.logQ }
        osura := { s.osura with q := t.osura.q } } := by
  obtain ⟨log, logQ, q, habort, hclose, hpend, hsealed⟩ := logAborted_spec s
  have htake := takeMabort_follower hlead p hlast hwaiters
  rw [habort] at htake
  let v := State.setMark { s with log := log, mem := { s.mem with logQ := logQ }, osura := { s.osura with q := q } }
    (fun m => { m with restraint := none, sealHeld := none })
  have hsends := v.toNext_sends 7 p.payload
  have htraffic : s.SameTraffic v := rfl
  have hlog : (v.toNext 7 p.payload).log = log := by rw [hsends.frame]; rfl
  have hframe := hsends.frame
  refine ⟨_, htake, (congrArg Log.close hlog).trans hclose, (congrArg Log.pend hlog).trans hpend,
    (congrArg Log.sealedIn hlog).trans hsealed, hsends.mark, htraffic.sentTo .., hsends.ringBooks rfl, ?_⟩
  generalize v.toNext 7 p.payload = t at *
  rw [hframe]
  rfl

theorem release_goes_on (hlead : s.isLead = false) (hch : s.td.ch = []) : ∃ t, takeRelease p s = t ∧
    t.ring.hold = false ∧ t.evq = s.evq ++ [s.holdRecord 0x0D p.payload] ∧
    s.SentTo t s.ring.nextId 9 p.payload ∧
    t = { s with ring := t.ring, evq := t.evq, cnt := t.cnt, flt := { s.flt with stopped := false } } := by
  have hsends := (s.released p).toNext_sends 9 p.payload
  have htraffic : s.SameTraffic (s.released p) := rfl
  obtain ⟨-, -, hhold, -⟩ := hsends.books
  have hframe := State.Sends.frame_evq (s := { s with flt := { s.flt with stopped := false } }) hsends rfl
  exact ⟨_, takeRelease_follower hlead p hch, hhold, hsends.evq, htraffic.sentTo .., hframe⟩

end

/-! ### What a circulation leaves at the lead (R356 to R359) -/

section
variable {s : State} (p : Pkt)

/-- SEAL is back at the lead. -/
def State.sealBack (s : State) (p : Pkt) : State :=
  s.setMark (fun m => { m with held := payHeld p, sealHeld := some (payHeld p, s.clk.ticks) })

theorem sealBack_inTime (hphase : s.ring.mark.phase = 2)
    (hlim : s.clk.ticks - s.ring.mark.sentAt ≤ 53125 * max 1 s.ring.sealLimit)
    (htime : 8 * (s.clk.ticks - s.ring.mark.sentAt - payHeld p) ≤ 425 * max 1 s.ring.markTimeout) :
    (s.sealBack p).circLate = false := by
  have hlate : (s.sealBack p).circLate = (decide (53125 * max 1 s.ring.sealLimit < s.clk.ticks - s.ring.mark.sentAt) ||
      s.markOver (s.clk.ticks - s.ring.mark.sentAt - payHeld p)) := if_pos hphase
  rw [hlate, Bool.or_eq_false_iff]
  exact ⟨decide_eq_false (Nat.not_lt.2 hlim), decide_eq_false (Nat.not_lt.2 htime)⟩

/-- MARK is back at the lead, and SEAL goes round. -/
def State.sealing (s : State) (p : Pkt) : State := s.setMark (fun m => { m with
  phase := 2, s := payS p, held := 0, sentAt := s.clk.ticks })

theorem startClose_eq (k seq : Nat) (s : State) : startClose k seq s = { s.setMark (fun m => { m with restraint := none }) with
    log := if s.log.en || !s.belowDone seq then { s.log with close := some ⟨k, seq, 0, s.log.openB, [], 0⟩ } else s.log } := by
  cases h : s.log.en || !s.belowDone seq with
  | false => exact startClose_none h
  | true => exact startClose_starts h

theorem mark_returns (hlead : s.isLead = true) (hphase : s.ring.mark.phase = 1) (hk : s.ring.mark.k = payK p)
    (hlate : s.circLate = false) : ∃ t, takeMark p s = t ∧
      t.ring.mark = { s.ring.mark with phase := 2, s := payS p, held := 0, sentAt := s.clk.ticks, restraint := none } ∧
      t.log = (if s.log.en || !s.belowDone (payS p) then { s.log with
        close := some ⟨payK p, payS p, 0, s.log.openB, [], 0⟩ } else s.log) ∧
      s.SentTo t s.ring.nextId 5 (markPay (payK p) (payS p) 0) ∧ s.RingBooks t ∧
      t = { s with ring := t.ring, log := t.log, cnt := t.cnt } := by
  have htake := takeMark_returned hlead p hphase hk hlate
  rw [startClose_eq] at htake
  generalize hlog : (if s.log.en || !s.belowDone (payS p) then { s.log with
    close := some ⟨payK p, payS p, 0, s.log.openB, [], 0⟩ } else s.log) = log
  have hseal : takeMark p s = State.toNext { (s.sealing p).setMark (fun m => { m with restraint := none }) with log := log } 5
      (markPay (payK p) (payS p) 0) := by
    rw [← hlog]
    exact htake
  let v : State := { (s.sealing p).setMark (fun m => { m with restraint := none }) with log := log }
  have hsends := v.toNext_sends 5 (markPay (payK p) (payS p) 0)
  have htraffic : s.SameTraffic v := rfl
  have hframe := hsends.frame
  have hlog' : (v.toNext 5 (markPay (payK p) (payS p) 0)).log = log := by rw [hframe]
  refine ⟨_, hseal, hsends.mark, hlog', htraffic.sentTo .., hsends.ringBooks rfl, ?_⟩
  generalize v.toNext 5 _ = t at *
  rw [hlog']
  exact hframe

theorem takeSeal_held (hlead : s.isLead = true) (hphase : s.ring.mark.phase = 2) (hk : s.ring.mark.k = payK p)
    (hclose : s.log.close ≠ none) : takeSeal p s = s.sealBack p := by
  have hruns : s.log.close.isNone = false := Option.isNone_eq_false_iff.2 (Option.isSome_iff_ne_none.2 hclose)
  rw [takeSeal_returned hlead p hphase hk]
  exact if_neg (by rw [hruns, Bool.false_and]; exact Bool.false_ne_true)

theorem seal_closes_mark (hlead : s.isLead = true) (hphase : s.ring.mark.phase = 2) (hk : s.ring.mark.k = payK p)
    (hclose : s.log.close = none) (hsealed : s.log.sealedIn = none) (hwaiters : s.ring.mark.waiters = [])
    (hlate : (s.sealBack p).circLate = false) :
    ∃ t, takeSeal p s = t ∧
      t.ring.mark = { s.ring.mark with
        phase := 3, sentAt := s.clk.ticks, held := payHeld p, restraint := none, sealHeld := none } ∧
      t.ring.markLast = payK p ∧ t.ring.markLastS = s.ring.mark.s ∧
      t.evq = s.evq ++ [s.markRecord 1 (payK p) s.ring.mark.s] ∧
      s.SentTo t s.ring.nextId 6 (markPay (payK p) s.ring.mark.s (payHeld p)) ∧
      t = { s with ring := t.ring, evq := t.evq, cnt := t.cnt } := by
  have htake : takeSeal p s = leadClosed (s.sealBack p) := by
    rw [takeSeal_returned hlead p hphase hk]
    exact if_pos (by rw [hclose]; exact congrArg (fun b => true && !b) hlate)
  rw [leadClosed_open (s := s.sealBack p) hsealed hwaiters] at htake
  have hpay : markPay (s.sealBack p).ring.mark.k (s.sealBack p).ring.mark.s (s.sealBack p).ring.mark.held =
    markPay (payK p) s.ring.mark.s (payHeld p) := congrArg (fun k => markPay k _ _) hk
  have hk' : (s.sealBack p).ring.mark.k = payK p := hk
  rw [hpay, hk'] at htake
  have hsends := ((s.sealBack p).markSealed.closedMark (payK p) s.ring.mark.s).toNext_sends 6
    (markPay (payK p) s.ring.mark.s (payHeld p))
  have htraffic : s.SameTraffic ((s.sealBack p).markSealed.closedMark (payK p) s.ring.mark.s) := rfl
  obtain ⟨hlast, hlastS, -⟩ := hsends.books
  exact ⟨_, htake, hsends.mark, hlast, hlastS, hsends.evq, htraffic.sentTo .., hsends.frame_evq rfl⟩

theorem hold_circulates (hlead : s.isLead = true) (hcirc : (8, p.payload) ∉ s.ring.circ)
    (h1 : s.ring.mark.phase ≠ 1) (h2 : s.ring.mark.phase ≠ 2) : ∃ t, takeHold p s = t ∧
      t.ring.hold = true ∧ t.ring.holdPay = p.payload ∧ t.ring.circ = s.ring.circ ++ [(8, p.payload)] ∧
      t.evq = s.evq ++ [s.holdRecord 0x0C p.payload] ∧ t.ring.mark = s.ring.mark ∧
      s.SentTo t s.ring.nextId 8 p.payload ∧ t = { s with ring := t.ring, evq := t.evq, cnt := t.cnt } := by
  have htake := takeHold_circulates hlead p hcirc
  rw [holdAborts_self (s := s.circulating p) (.inr ⟨h1, h2⟩)] at htake
  have hsends := (s.circulating p).toNext_sends 8 p.payload
  have htraffic : s.SameTraffic (s.circulating p) := rfl
  obtain ⟨-, -, hhold, hpay, hcirc', -⟩ := hsends.books
  exact ⟨_, htake, hhold, hpay, hcirc', hsends.evq, hsends.mark, htraffic.sentTo .., hsends.frame_evq rfl⟩

/-- A HOLD that circulates has ended the lead's mark; MABORT and the HOLD are still to go. -/
theorem State.circulating_markDropped (s : State) (p : Pkt) : s.SameTraffic (s.circulating p).markDropped ∧
    (s.circulating p).markDropped.ring.mark = { s.ring.mark with restraint := none, sealHeld := none, abortDue := false } ∧
    (s.circulating p).markDropped.ring.hold = true ∧ (s.circulating p).markDropped.ring.holdPay = p.payload ∧
    (s.circulating p).markDropped.ring.circ = s.ring.circ ++ [(8, p.payload)] ∧
    (s.circulating p).markDropped.evq = s.evq ++ [s.holdRecord 0x0C p.payload, s.markRecord 2 s.ring.mark.k s.ring.mark.s] ∧
    (s.circulating p).markDropped.log.close = none := by
  obtain ⟨log, logQ, q, hdropped, hclose, -⟩ := (s.circulating p).markDropped_spec
  rw [hdropped]
  exact ⟨rfl, rfl, rfl, rfl, rfl, List.append_assoc .., hclose⟩

theorem hold_ends_mark (hlead : s.isLead = true) (hcirc : (8, p.payload) ∉ s.ring.circ)
    (hphase : s.ring.mark.phase = 1 ∨ s.ring.mark.phase = 2) (hwaiters : s.ring.mark.waiters = [])
    (hagain : s.ring.mark.again = false) (hroom : ∀ e, (State.push s e).evRoom = true) :
    ∃ t u v : State, takeHold p s = t ∧
      t.ring.hold = true ∧ t.ring.holdPay = p.payload ∧ t.ring.circ = s.ring.circ ++ [(8, p.payload)] ∧
      (∃ e f, t.evq = s.evq ++ [e, f] ∧ e.typ = 0x0C ∧ f.typ = 0x0E ∧ f.p0 = 2 ∧ f.p1 = s.ring.mark.k) ∧
      t.ring.mark = { s.ring.mark with phase := 0, restraint := none, sealHeld := none, abortDue := false } ∧
      t.log.close = none ∧ u.SentTo v s.ring.nextId 7 (markPay s.ring.mark.k s.ring.mark.s 0) ∧
      v.SentTo t s.ring.nextId 8 p.payload ∧ u.ring.loopQ = s.ring.loopQ ∧ u.ring.ports = s.ring.ports := by
  have hends : holdAborts (s.circulating p) =
      ((s.circulating p).markDropped.toNext 7 (markPay s.ring.mark.k s.ring.mark.s 0)).setMark (fun m => { m with phase := 0 }) :=
    (holdAborts_lead (s := s.circulating p) hlead hphase (hroom (s.holdRecord 0x0C p.payload))).trans
      (leadAborts_over (s := s.circulating p) hwaiters hagain)
  have htake := takeHold_circulates hlead p hcirc
  rw [hends] at htake
  obtain ⟨htraffic, hmark, hhold, hpay, hcirc', hevq, hclose⟩ := s.circulating_markDropped p
  generalize (s.circulating p).markDropped = u at htake htraffic hmark hhold hpay hcirc' hevq hclose
  have hnext : u.ring.nextId = s.ring.nextId := by rw [htraffic]
  have hsent := u.toNext_sentTo 7 (markPay s.ring.mark.k s.ring.mark.s 0)
  have hsends := u.toNext_sends 7 (markPay s.ring.mark.k s.ring.mark.s 0)
  generalize u.toNext 7 (markPay s.ring.mark.k s.ring.mark.s 0) = v at htake hsent hsends
  obtain ⟨-, -, hholdV, hpayV, hcircV, -⟩ := hsends.books
  have hnextV : v.ring.nextId = s.ring.nextId := hsends.nextId.trans hnext
  have hlogV : v.log = u.log := by rw [hsends.frame]
  have hsentT := State.SameTraffic.sentTo (s := v) (v := v.setMark (fun m => { m with phase := 0 })) rfl 8 p.payload
  have hsendsT := (v.setMark (fun m => { m with phase := 0 })).toNext_sends 8 p.payload
  generalize (v.setMark (fun m => { m with phase := 0 })).toNext 8 p.payload = t at htake hsentT hsendsT
  obtain ⟨-, -, hholdT, hpayT, hcircT, -⟩ := hsendsT.books
  have hlogT : t.log = v.log := by rw [hsendsT.frame]; rfl
  refine ⟨t, u, v, htake, hholdT.trans (hholdV.trans hhold), hpayT.trans (hpayV.trans hpay),
    hcircT.trans (hcircV.trans hcirc'), ⟨_, _, hsendsT.evq.trans (hsends.evq.trans hevq), rfl, rfl, rfl, rfl⟩, ?_, ?_,
    hnext ▸ hsent, hnextV ▸ hsentT, by rw [htraffic], by rw [htraffic]⟩
  · rw [hsendsT.mark]
    show ({ v.ring.mark with phase := 0 } : Mark) = _
    rw [hsends.mark, hmark]
  · rw [hlogT, hlogV, hclose]

theorem release_returns (hlead : s.isLead = true) (hch : s.td.ch = []) (hwait : s.ring.relWait = []) :
    takeRelease p s = s.released p := by
  rw [takeRelease_lead hlead p hch, hwait]
  show ({ s.released p with ring := { (s.released p).ring with relWait := [] } } : State) = s.released p
  rw [← hwait]
  rfl

theorem release_completes {r : CtlRun} (hlead : s.isLead = true) (hch : s.td.ch = []) (hwait : s.ring.relWait = [r.num])
    (hruns : s.kp.ctlRun = [r]) (herr : r.err = none) (hcevt : r.cevt = false) : ∃ t, takeRelease p s = t ∧
      t.ring.hold = false ∧ t.ring.relWait = [] ∧ t.flt.stopped = false ∧ t.kp.ctlRun = [] ∧
      t.kp.cdone = (s.kp.cdone + 1) % 2 ^ 32 ∧ t.evq = s.evq ++ [s.holdRecord 0x0D p.payload] ∧
      t.ring.ports = s.ring.ports ∧ t.ring.loopQ = s.ring.loopQ ∧
      t = { s with
        ring := t.ring, flt := t.flt, evq := t.evq
        kp := { s.kp with ctlRun := t.kp.ctlRun, cdone := t.kp.cdone } } := by
  refine ⟨_, takeRelease_lead hlead p hch, ?_⟩
  rw [hwait, List.foldl_cons, List.foldl_nil, State.settle_last (s := s.released p) hruns herr hcevt]
  exact ⟨rfl, rfl, rfl, rfl, rfl, rfl, rfl, rfl, rfl⟩

end

/-- What is known of a message's action is known of the state whose space the packet frees. -/
theorem State.Comes.does_spec {s u : State} {port : Fin 9} {hdr : List Word} {pl : List Byte} {p : Pkt}
    (h : s.Comes port hdr pl p) (hu : s.took port p = u) {k : Nat} (hkind : p.kind = k) (hk : k ≠ 0)
    {act : Pkt → State → State} {P : State → Prop} (hspec : ∃ t, act p u = t ∧ P t) :
    ∃ t : State, Machine.arrive port hdr pl [k] act s = .next (t.freeSpace p) ∧ P t :=
  let ⟨t, ht, hP⟩ := hspec
  ⟨t, h.does_kind hu hkind hk ht, hP⟩

/-- Settles O57: each circulation's own lemma, at the state as the packet has been taken. -/
theorem ringCirculations : Obligations.RingCirculations := by
  unfold Obligations.RingCirculations
  intro s _ _
  refine ⟨fun port hdr pl p hcomes hlead => ?_, fun port hdr pl p hcomes hlead => ?_, fun d rest =>
    ⟨State.CtlNext.exec_mark_lead, State.CtlNext.exec_mark_follower, State.CtlNext.exec_release_lead,
      State.CtlNext.exec_release_follower⟩⟩
  · obtain ⟨q, ports, hu⟩ := s.took_eq port p
    rw [hu]
    let u := s.withTraffic q ports
    have hlead' : u.isLead = false := hlead
    refine ⟨fun hkind => ?mark, fun hkind hwork => ?sealCloses, fun hkind hen hdone hclose => ?sealPasses,
      fun hkind hsealed hwaiters => ?closed, fun hkind hlast => ?mabortPasses, fun hkind hlast hwaiters => ?mabort,
      fun hkind => ?hold, fun hkind hch => ?release⟩
    case mark => exact hcomes.does_spec hu hkind (by decide) (mark_goes_on p hlead')
    case sealCloses =>
      exact hcomes.does_spec hu hkind (by decide) ⟨_, takeSeal_closes hlead' p hwork, rfl, rfl, rfl⟩
    case sealPasses => exact hcomes.does_spec hu hkind (by decide) (seal_goes_on p hlead' hen hdone hclose)
    case closed => exact hcomes.does_spec hu hkind (by decide) (closed_goes_on p hlead' hsealed hwaiters)
    case mabortPasses => exact hcomes.does_spec hu hkind (by decide) (mabort_passes_on p hlead' hlast)
    case mabort => exact hcomes.does_spec hu hkind (by decide) (mabort_goes_on p hlead' hlast hwaiters)
    case hold => exact hcomes.does_spec hu hkind (by decide) (hold_goes_on p hlead')
    case release => exact hcomes.does_spec hu hkind (by decide) (release_goes_on p hlead' hch)
  · obtain ⟨q, ports, hu⟩ := s.took_eq port p
    rw [hu]
    let u := s.withTraffic q ports
    have hlead' : u.isLead = true := hlead
    refine ⟨fun hkind hphase hk hlate => ?mark, fun hkind hphase hk hclose => ?sealHeld,
      fun hkind hphase hk hclose hsealed hwaiters hlim htime => ?sealBack, fun hkind hphase hk hlate hagain => ?closed,
      ⟨fun hkind hlate => ?markLate, fun hkind hlate => ?closedLate⟩, fun hkind => ?mabort,
      fun hkind hcirc h1 h2 => ?hold, fun hkind hcirc hphase hwaiters hagain hroom => ?holdEnds,
      fun hkind hcirc => ?holdBack, fun hkind hch hwait => ?release,
      fun r hkind hch hwait hruns _ _ herr hcevt => ?releaseDone⟩
    case mark => exact hcomes.does_spec hu hkind (by decide) (mark_returns p hlead' hphase hk hlate)
    case sealHeld => exact hcomes.does_kind hu hkind (by decide) (takeSeal_held p hlead' hphase hk hclose)
    case sealBack =>
      exact hcomes.does_spec hu hkind (by decide) (seal_closes_mark p hlead' hphase hk hclose hsealed hwaiters
        (sealBack_inTime p hphase hlim htime))
    case closed => exact hcomes.does_kind hu hkind (by decide) (takeClosed_returned hlead' p hphase hk hlate hagain)
    case markLate => exact hcomes.does_kind hu hkind (by decide) (takeMark_late hlead' p hlate)
    case closedLate => exact hcomes.does_kind hu hkind (by decide) (takeClosed_late hlead' p hlate)
    case mabort => exact hcomes.does_kind hu hkind (by decide) (takeMabort_lead hlead' p)
    case hold => exact hcomes.does_spec hu hkind (by decide) (hold_circulates p hlead' hcirc h1 h2)
    case holdEnds =>
      obtain ⟨t, u, v, ht, hspec⟩ := hold_ends_mark p hlead' hcirc hphase hwaiters hagain hroom
      exact ⟨t, u, v, hcomes.does_kind hu hkind (by decide) ht, hspec⟩
    case holdBack => exact hcomes.does_kind hu hkind (by decide) (takeHold_returned hlead' p hcirc)
    case release => exact hcomes.does_kind hu hkind (by decide) (release_returns p hlead' hch hwait)
    case releaseDone =>
      exact hcomes.does_spec hu hkind (by decide) (release_completes p hlead' hch hwait hruns herr hcevt)

end Sys2Proof.Machine

namespace Sys2Proof.Machine

/-! ### The host rings (R367, R388) -/

/-- A ring reads as it was written, and the other rings as they were. -/
theorem State.ring_setRing (s : State) {n m : Nat} (hn : n < 4) (hm : m < 4) (r : HRing) :
    (s.setRing n r).kp.ring m = if m = n then r else s.kp.ring m := by
  interval_cases n <;> interval_cases m <;> rfl

/-- Setting a ring changes the four rings alone. -/
theorem State.setRing_frame (s : State) (n : Nat) (r : HRing) : s.setRing n r = { s with
    kp := { s.kp with
      work := (s.setRing n r).kp.work, xfer := (s.setRing n r).kp.xfer, ctl := (s.setRing n r).kp.ctl
      event := (s.setRing n r).kp.event } } := by
  unfold State.setRing
  split_ifs <;> rfl

/-- An ignored set-up write, or a doorbell out of range, is answered and counted. -/
theorem State.hostWrite_bump {s : State} (h : s.rst.ready = true) {f : State → State} {o : Nat} (hf : f s = bump o s) :
    s.hostWrite f = { bump o s with out := s.out ++ [.regWrote false] } := by
  rw [State.hostWrite_ready h, hf, bump_frame]

/-! ### Doorbells (R369, R370, R430, R445) -/

/-- The completion records that a fault held back go before those that wait, and the first of them is written (R445). -/
def State.recordsAgain (s : State) : State :=
  recPump { s with kp := { s.kp with recWait := [], recQ := s.kp.recWait ++ s.kp.recQ } }

theorem State.recordsAgain_frame (s : State) : s.recordsAgain = { s with
    kp := { s.kp with recWait := [], recQ := s.recordsAgain.kp.recQ, sys := s.recordsAgain.kp.sys }
    out := s.recordsAgain.out } := by
  unfold State.recordsAgain
  rw [recPump_frame]

/-- In Eclipse and on the way into it a wake event is noted, and else changes nothing (R430). -/
theorem wakeEvent_eq (sb : Bool) (s : State) : wakeEvent sb s = { s with
    rst := { s.rst with
      wakeHeld := if s.rst.pstate = 1 ∨ s.rst.pstate = 2 then some (sb || s.rst.wakeHeld.getD false)
        else s.rst.wakeHeld } } := by
  unfold wakeEvent
  by_cases h : s.rst.pstate = 1 ∨ s.rst.pstate = 2 <;> simp [h]

/-- A ring as a doorbell leaves it: TAIL is set, and its fetch stop is cleared. -/
def State.rung (s : State) (n v : Nat) : State :=
  let t := s.setRing n { s.kp.ring n with tail := v % 2 ^ 16 }
  { t with kp := { t.kp with fstop := t.kp.fstop.set n false } }

theorem State.ring_rung (s : State) (n : Fin 3) (m : Fin 4) (v : Nat) : (s.rung n v).kp.ring m =
    if m.val = n.val then { s.kp.ring n with tail := v % 2 ^ 16 } else s.kp.ring m :=
  s.ring_setRing (Nat.lt_succ_of_lt n.isLt) m.isLt _

/-- A doorbell's ring is not the Event ring. -/
theorem State.rung_frame (s : State) (n : Fin 3) (v : Nat) : s.rung n v = { s with
    kp := { s.kp with
      work := (s.rung n v).kp.work, xfer := (s.rung n v).kp.xfer, ctl := (s.rung n v).kp.ctl
      fstop := s.kp.fstop.set n false } } := by
  fin_cases n <;> rfl

theorem doorbell_ignored {s : State} {n v : Nat} (h : ¬ ((s.kp.ring n).en = true ∧ v % 2 ^ 16 < (s.kp.ring n).size)) :
    doorbell n v s = bump 0x0254 s := by
  have hout : (!(s.kp.ring n).en || (s.kp.ring n).size ≤ v % 2 ^ 16) = true := by
    simpa [Decidable.imp_iff_not_or, -Nat.reducePow] using h
  exact if_pos hout

theorem doorbell_rings {s : State} {n v : Nat} (h : (s.kp.ring n).en = true ∧ v % 2 ^ 16 < (s.kp.ring n).size) :
    doorbell n v s = wakeEvent false (if n = 1 then (s.rung n v).recordsAgain else s.rung n v) := by
  have hin : ¬ (!(s.kp.ring n).en || (s.kp.ring n).size ≤ v % 2 ^ 16) = true := by simp [h, -Nat.reducePow]
  exact if_neg hin

/-- Settles O13: out of range it is counted; in range the ring's own change, for DB_XFER the records, and the wake. -/
theorem doorbellRings : Obligations.DoorbellRings := by
  unfold Obligations.DoorbellRings
  intro s n v hready
  refine ⟨fun hin => ?_, fun hout =>
    congrArg Host.Outcome.next (State.hostWrite_bump hready (doorbell_ignored hout))⟩
  have hexec : exec (.doorbellWrite n v) s = _ :=
    congrArg Host.Outcome.next (State.hostWrite_ready hready (doorbell n v.toNat))
  rw [doorbell_rings hin] at hexec
  have hself := (s.ring_rung n n.castSucc v.toNat).trans (if_pos rfl)
  have hother (m : Fin 4) (hm : m.val ≠ n.val) := (s.ring_rung n m v.toNat).trans (if_neg hm)
  obtain ⟨work, xfer, ctl, hu⟩ : ∃ work xfer ctl, s.rung n v.toNat = { s with
      kp := { s.kp with work := work, xfer := xfer, ctl := ctl, fstop := s.kp.fstop.set n false } } :=
    ⟨_, _, _, s.rung_frame n v.toNat⟩
  rw [hu] at hexec hself hother
  by_cases hn : n.val = 1
  · rw [if_pos hn, State.recordsAgain_frame, wakeEvent_eq] at hexec
    exact ⟨_, hexec, hself, hother, rfl, rfl, fun h => absurd hn h, fun _ => rfl, rfl⟩
  · rw [if_neg hn, wakeEvent_eq] at hexec
    exact ⟨_, hexec, hself, hother, rfl, rfl, fun _ => ⟨rfl, rfl, rfl, rfl, rfl, rfl, rfl⟩,
      fun h => absurd h hn, rfl⟩

/-! ### Ring configuration (R367) -/

/-- What a write of a ring's configuration register asks for that is ignored: another size while the ring is enabled, or
a size that a ring cannot have (R367). -/
def HRing.Refuses (r : HRing) (v : Word) : Prop :=
  (r.en = true ∧ v.toNat % 32 ≠ r.log2) ∨ (v.getLsbD 8 = true ∧ ¬ (4 ≤ v.toNat % 32 ∧ v.toNat % 32 ≤ 16))

theorem HRing.refuses_iff (r : HRing) (v : Word) : r.Refuses v ↔ (r.en && bitsOf v.toNat 0 5 != r.log2 ||
    bitOf v.toNat 8 && !(4 ≤ bitsOf v.toNat 0 5 && bitsOf v.toNat 0 5 ≤ 16)) = true := by
  have hsize : bitsOf v.toNat 0 5 = v.toNat % 32 := by simp [bitsOf_eq]
  rw [hsize, bitOf_toNat, HRing.Refuses]
  simp only [Bool.or_eq_true, Bool.and_eq_true, bne_iff_ne, Bool.not_eq_true', Bool.and_eq_false_iff,
    decide_eq_false_iff_not, not_and_or]

/-- A write of a ring's configuration register enables the ring. -/
abbrev HRing.Enables (r : HRing) (v : Word) : Prop := v.getLsbD 8 = true ∧ r.en = false

/-- A ring as a write of its configuration register leaves it: it starts empty when it is enabled. -/
def HRing.configured (r : HRing) (v : Word) : HRing :=
  if r.Enables v then ⟨r.base, v.toNat % 32, true, 0, 0⟩ else ⟨r.base, v.toNat % 32, v.getLsbD 8, r.head, r.tail⟩

/-- What enabling a ring resets beside the ring itself: the Transfer ring's RETIRE, and the Event ring's records. -/
def State.ringStarts (s : State) (n : Nat) : State :=
  if n = 1 then { s with kp := { s.kp with xretire := 0, xdone := [] } } else if n = 3 then eventRestart s else s

/-- The Event ring's configuration register holds the interrupt enable too (R388). -/
def State.ringIrq (s : State) (n : Nat) (v : Word) : State :=
  { s with kp := { s.kp with irqen := if n = 3 then v.getLsbD 9 else s.kp.irqen } }

theorem ringConfig_ignored {s : State} {n : Nat} {v : Word} (h : (s.kp.ring n).Refuses v) :
    ringConfig n v.toNat s = bump 0x0258 s :=
  if_pos ((HRing.refuses_iff _ v).1 h)

theorem ringConfig_accepted {s : State} {n : Nat} {v : Word} (h : ¬ (s.kp.ring n).Refuses v) :
    ringConfig n v.toNat s =
      if (s.kp.ring n).Enables v then ((s.ringIrq n v).setRing n ((s.kp.ring n).configured v)).ringStarts n
      else (s.ringIrq n v).setRing n ((s.kp.ring n).configured v) := by
  have hsize : bitsOf v.toNat 0 5 = v.toNat % 32 := by simp [bitsOf_eq]
  have hirq : (if n = 3 then { s with kp := { s.kp with irqen := v.getLsbD 9 } } else s) = s.ringIrq n v := by
    unfold State.ringIrq
    split <;> rfl
  refine (if_neg (mt (HRing.refuses_iff _ v).2 h)).trans ?_
  dsimp only
  rw [hsize, bitOf_toNat, bitOf_toNat, hirq]
  by_cases henables : (s.kp.ring n).Enables v
  · obtain ⟨hbit, hoff⟩ := henables
    simp only [HRing.configured, HRing.Enables, hbit, hoff, and_self, Bool.not_false, if_true]
    rfl
  · have hbool : (v.getLsbD 8 && !(s.kp.ring n).en) = false := by simpa using henables
    simp only [hbool, HRing.configured, henables, Bool.false_eq_true, if_false]

/-- Settles O14: the ring and the interrupt enable are as written, and then what enabling resets, by the ring. -/
theorem ringEnableConfigures : Obligations.RingEnableConfigures := by
  unfold Obligations.RingEnableConfigures
  intro s n v hready
  refine ⟨fun h => congrArg Host.Outcome.next (State.hostWrite_bump hready (ringConfig_ignored h)), fun h => ?_⟩
  have hexec : exec (.ringEnable n v) s = _ :=
    congrArg Host.Outcome.next (State.hostWrite_ready hready (ringConfig n v.toNat))
  rw [ringConfig_accepted h] at hexec
  let r := (s.kp.ring n).configured v
  have hring (m : Fin 4) := (s.ringIrq n v).ring_setRing n.isLt m.isLt r
  have hself := (hring n).trans (if_pos rfl)
  have hother (m : Fin 4) (hm : m ≠ n) := (hring m).trans (if_neg (Fin.val_ne_of_ne hm))
  obtain ⟨work, xfer, ctl, event, hu⟩ : ∃ work xfer ctl event, (s.ringIrq n v).setRing n r = { s.ringIrq n v with
      kp := { (s.ringIrq n v).kp with work := work, xfer := xfer, ctl := ctl, event := event } } :=
    ⟨_, _, _, _, (s.ringIrq n v).setRing_frame n r⟩
  rw [hu] at hexec hself hother
  by_cases henables : (s.kp.ring n).Enables v
  · rw [if_pos henables] at hexec
    obtain hn1 | hn3 | ⟨hn1, hn3⟩ : n.val = 1 ∨ n.val = 3 ∨ n.val ≠ 1 ∧ n.val ≠ 3 := by omega
    · have hn3 : n.val ≠ 3 := by omega
      rw [State.ringStarts, if_pos hn1] at hexec
      exact ⟨_, hexec, hself, hother, rfl, fun _ => rfl, fun h3 => absurd h3.1 hn3,
        fun h1 => absurd ⟨hn1, henables⟩ h1, fun _ => ⟨rfl, rfl, rfl, rfl, rfl, rfl⟩, rfl⟩
    · have hn1 : n.val ≠ 1 := by omega
      rw [State.ringStarts, if_neg hn1, if_pos hn3] at hexec
      exact ⟨_, hexec, hself, hother, rfl, fun h1 => absurd h1.1 hn1, fun _ => rfl, fun _ => ⟨rfl, rfl⟩,
        fun h3 => absurd ⟨hn3, henables⟩ h3, rfl⟩
    · rw [State.ringStarts, if_neg hn1, if_neg hn3] at hexec
      exact ⟨_, hexec, hself, hother, rfl, fun h1 => absurd h1.1 hn1, fun h3 => absurd h3.1 hn3,
        fun _ => ⟨rfl, rfl⟩, fun _ => ⟨rfl, rfl, rfl, rfl, rfl, rfl⟩, rfl⟩
  · rw [if_neg henables] at hexec
    exact ⟨_, hexec, hself, hother, rfl, fun h1 => absurd h1.2 henables, fun h3 => absurd h3.2 henables,
      fun _ => ⟨rfl, rfl⟩, fun _ => ⟨rfl, rfl, rfl, rfl, rfl, rfl⟩, rfl⟩

end Sys2Proof.Machine

namespace Sys2Proof.Machine

/-! ### Record writes (R382, R384) -/

/-- A record's two writes change the SYS requests, the records on their way and what leaves the block. -/
theorem State.evWrite_frame {s t : State} {o : EvOut} (h : s.evWrite o = some t) : t = { s with
    kp := { s.kp with sys := t.kp.sys, evOut := t.kp.evOut }, out := t.out } := by
  unfold State.evWrite at h
  split at h
  · cases h
  · dsimp only at h
    split at h
    · cases h
    · cases h
      rfl

/-- Making record writes again changes the books of records, the SYS requests and what leaves the block. -/
theorem evRetry_frame (fuel : Nat) : ∀ s : State, evRetry fuel s = { s with
    kp := { s.kp with
      sys := (evRetry fuel s).kp.sys, evOut := (evRetry fuel s).kp.evOut, evBad := (evRetry fuel s).kp.evBad
      evAgain := (evRetry fuel s).kp.evAgain }
    out := (evRetry fuel s).out } := by
  induction fuel with
  | zero => exact fun s => rfl
  | succ fuel ih =>
    intro s
    rw [evRetry]
    split
    · split
      next hwrite =>
        rw [ih, State.evWrite_frame hwrite]
      next => rfl
    · rfl
    · rfl

/-- With no Control descriptor under way and no answer held, nothing waits for room in the event queue (R384). -/
theorem roomPump_none {s : State} (hrun : s.kp.ctlRun = []) (hheld : s.kp.descHeld = []) :
    roomPump s = { s with kp := { s.kp with cdone := s.kp.cdone % 2 ^ 32 } } := by
  rw [roomPump, hheld, List.foldl_nil, ctlPump_nil s hrun]

/-! ### ERING_HEAD and WORK_NEXTSEQ_LO (R382, R384, R389) -/

/-- The software's pointer, and whether there are record writes to make again. -/
def State.headMoved (s : State) (v : Nat) : State :=
  { s with kp := { s.kp with event := { s.kp.event with head := v % 2 ^ 16 }, evAgain := !s.kp.evBad.isEmpty } }

theorem eringHead_eq {s : State} (hrun : s.kp.ctlRun = []) (hheld : s.kp.descHeld = []) (v : Nat) :
    ∃ u, u = evRetry (s.kp.evBad.length + 1) (s.headMoved v) ∧
      eringHead v s = { u with kp := { u.kp with cdone := u.kp.cdone % 2 ^ 32 } } := by
  refine ⟨_, rfl, roomPump_none ?_ ?_⟩
  · rw [evRetry_frame]
    exact hrun
  · rw [evRetry_frame]
    exact hheld

theorem State.seqWritable_iff (s : State) : s.seqWritable = true ↔
    s.wrun = false ∧ (s.kp.work.en = false ∨ s.kp.seqstop = true) := by
  simp [State.seqWritable]

/-- Settles O15: the frame of the record writes that ERING_HEAD lets be made again, and the two cases of R389. -/
theorem headAndSequenceWrites : Obligations.HeadAndSequenceWrites := by
  unfold Obligations.HeadAndSequenceWrites
  intro s v hready
  refine ⟨fun hrun hheld => ?_, fun h => ?_, fun h => ?_⟩
  · obtain ⟨u, hu, hhead⟩ := eringHead_eq hrun hheld v.toNat
    have hexec : exec (.eringHeadWrite v) s = _ :=
      congrArg Host.Outcome.next (State.hostWrite_ready hready (eringHead v.toNat))
    rw [hhead] at hexec
    have hframe := evRetry_frame (s.kp.evBad.length + 1) (s.headMoved v.toNat)
    rw [← hu] at hframe
    refine ⟨_, hexec, ?_, fun hbad => ?_, ?_⟩
    · rw [hframe]
      rfl
    · have hagain : (s.headMoved v.toNat).kp.evAgain = false := by simp [State.headMoved, hbad]
      rw [hu, evRetry_none hagain]
      exact ⟨hbad, rfl, rfl, rfl⟩
    · rw [hframe]
      rfl
  · have hseq : nextseqLo v.toNat s = _ := if_pos (s.seqWritable_iff.2 h)
    refine congrArg Host.Outcome.next ((State.hostWrite_ready hready (nextseqLo v.toNat)).trans ?_)
    rw [hseq]
  · have hseq : nextseqLo v.toNat s = bump 0x0258 s := if_neg (mt s.seqWritable_iff.1 h)
    exact congrArg Host.Outcome.next (State.hostWrite_bump hready hseq)

/-! ### EVENT_RECORD_WRITE (R380, R382, R384) -/

/-- Tag 0 is the lowest, and tag 1 the lowest beside it. -/
theorem State.sysTag_idle {s : State} (hsys : s.kp.sys = []) (hfenced : s.kp.sysFenced = false) : s.sysTag = some 0 := by
  rw [State.sysTag, hfenced, hsys]
  rfl

theorem State.sysTag_second {s : State} {q : SysReq} (hsys : s.kp.sys = [q]) (htag : q.tag = 0)
    (hfenced : s.kp.sysFenced = false) : s.sysTag = some 1 := by
  simp [State.sysTag, hfenced, hsys, htag, upTo, List.range_succ]

/-- With no SYS request outstanding a record's two writes have tags 0 and 1, and its word 0 is written last (R382, R444). -/
theorem State.evWrite_idle {s : State} (hsys : s.kp.sys = []) (hfenced : s.kp.sysFenced = false) (o : EvOut) :
    ∃ sys evOut, s.evWrite o = some { s with
      kp := { s.kp with sys := sys, evOut := evOut }
      out := s.out ++ [.sysWrite 0 (o.addr + 4) ((o.ev.bytes o.phase).drop 4)] ++
        [.sysWrite 1 o.addr ((o.ev.bytes o.phase).take 4)] } := by
  let t := s.sysWrite 0 (.ev o.addr) (o.addr + 4) ((o.ev.bytes o.phase).drop 4)
  have htag : t.sysTag = some 1 :=
    State.sysTag_second (q := ⟨0, .ev o.addr, o.addr + 4, s.clk.ckr / 8⟩) (congrArg (· ++ [_]) hsys) rfl hfenced
  simp only [State.evWrite, State.sysTag_idle hsys hfenced, htag, t]
  exact ⟨_, _, rfl⟩

/-- The slot of the oldest record, and how its writes are booked. -/
def State.recordOut (s : State) (e : EvRec) : EvOut :=
  ⟨s.kp.event.base + s.kp.event.tail * 32, s.kp.evPhase, e, 2, false⟩

theorem exec_eventRecordWrite_empty {s : State} (h : s.evq = []) : exec .eventRecordWrite s = .next s := by
  show execEventRecordWrite s = _
  rw [execEventRecordWrite, h]

theorem exec_eventRecordWrite_held {s : State} {e : EvRec} {rest : List EvRec} (hq : s.evq = e :: rest)
    (h : s.kp.event.en = false ∨ s.eventFull = true) : exec .eventRecordWrite s = .next s := by
  have hheld : (s.kp.event.en && !s.eventFull && s.kp.evBad.isEmpty && s.rst.ready) = false := by
    obtain h | h := h <;> simp [h]
  show execEventRecordWrite s = _
  simp only [execEventRecordWrite, hq, hheld, Bool.false_eq_true, if_false]

theorem exec_eventRecordWrite {s u : State} {e : EvRec} {rest : List EvRec} (hq : s.evq = e :: rest)
    (hen : s.kp.event.en = true) (hfull : s.eventFull = false) (hbad : s.kp.evBad = []) (hready : s.rst.ready = true)
    (hwrite : s.evWrite (s.recordOut e) = some u) {tail : Nat} (htail : (s.kp.event.tail + 1) % s.kp.event.size = tail) :
    exec .eventRecordWrite s = .next (roomPump { u with
      evq := rest
      kp := { u.kp with
        event := { s.kp.event with tail := tail }, evPhase := if tail = 0 then !u.kp.evPhase else u.kp.evPhase } }) := by
  have hgoes : (s.kp.event.en && !s.eventFull && s.kp.evBad.isEmpty && s.rst.ready) = true := by
    simp [hen, hfull, hbad, hready]
  show execEventRecordWrite s = _
  rw [State.recordOut] at hwrite
  simp only [execEventRecordWrite, hq, hgoes, if_true, hwrite, htail]

/-- Settles O44: the record goes out under tags 0 and 1, and nothing waits for its place in the queue. -/
theorem eventWritten : Obligations.EventWritten := by
  unfold Obligations.EventWritten
  refine ⟨fun s => exec_eventRecordWrite_empty, fun s e rest hq => ⟨?_, exec_eventRecordWrite_held hq⟩⟩
  intro hen hfull hbad hready hsys hfenced hrun hheld
  obtain ⟨sys, evOut, hwrite⟩ := State.evWrite_idle hsys hfenced (s.recordOut e)
  have hexec := exec_eventRecordWrite hq hen hfull hbad hready hwrite rfl
  exact ⟨_, hexec.trans (congrArg Host.Outcome.next (roomPump_none hrun hheld)), rfl, rfl, rfl, List.append_assoc .., rfl⟩

end Sys2Proof.Machine

namespace Sys2Proof.Machine

/-! ### TRACE_CFG (R509, R510) -/

/-- A full line that goes to Osura changes BUSY and the asynchronous queue. -/
theorem traceLine_frame (s : State) : traceLine s = { s with
    trc := { s.trc with busy := (traceLine s).trc.busy }, osura := { s.osura with q := (traceLine s).osura.q } } := by
  unfold traceLine
  split <;> rfl

/-- The trace as a write of TRACE_CFG leaves it, before a line goes out. -/
def Trace.configured (t : Trace) (v : Word) : Trace :=
  { t with
    mode := v.toNat % 4, wrap := v.getLsbD 2, err := t.err && !v.getLsbD 4, stopped := t.stopped && !v.getLsbD 3
    ptr := if t.stopped && v.getLsbD 3 then t.actBase else t.ptr }

/-- Clearing STOPPED restarts a stopped trace; else STOPPED and the pointer stay. -/
theorem traceCfg_eq (v : Word) (s : State) : traceCfg v.toNat s =
    if v.getLsbD 3 && s.trc.stopped then traceLine { s with trc := s.trc.configured v }
    else { s with trc := s.trc.configured v } := by
  have hmode : bitsOf v.toNat 0 2 = v.toNat % 4 := by simp [bitsOf_eq]
  unfold traceCfg Trace.configured
  dsimp only
  rw [hmode, bitOf_toNat, bitOf_toNat, bitOf_toNat]
  split
  next hrestart =>
    obtain ⟨hbit, hstopped⟩ := Bool.and_eq_true_iff.1 hrestart
    simp only [hbit, hstopped, Bool.not_true, Bool.and_self, Bool.and_false, if_true]
  next hkept =>
    have hptr : (s.trc.stopped && v.getLsbD 3) = false := by rwa [Bool.and_comm, ← Bool.not_eq_true]
    have hstopped : (s.trc.stopped && !v.getLsbD 3) = s.trc.stopped := by
      cases h : s.trc.stopped with
      | false => rfl
      | true =>
        have hbit : v.getLsbD 3 = false := by rwa [h, Bool.true_and] at hptr
        rw [hbit]
        rfl
    simp only [hptr, hstopped, Bool.false_eq_true, if_false]

theorem traceCfg_frame (v : Word) (s : State) : ∃ busy q, traceCfg v.toNat s = { s with
    trc := { s.trc.configured v with busy := busy }, osura := { s.osura with q := q } } := by
  rw [traceCfg_eq]
  split
  · rw [traceLine_frame]
    exact ⟨_, _, rfl⟩
  · exact ⟨_, _, rfl⟩

/-! ### FLT_UNFENCE (R385, R421, R454) -/

/-- A port is no longer fenced. -/
def State.unfenced (s : State) (kind n : Nat) : State :=
  { s with flt := { s.flt with fenced := s.flt.fenced.filter (· != (kind, n)) } }

theorem State.unfenced_spec (s : State) (kind n : Nat) : (kind, n) ∉ (s.unfenced kind n).flt.fenced := by
  simp [State.unfenced]

/-- A Lantern's port as its abort handshake starts, if it is connected. -/
def Lantern.abortRaised (l : Lantern) (now : Nat) : Lantern :=
  if l.present then { l with abort := true, abortAt := if l.abort then l.abortAt else now } else l

theorem lnRaiseAbort_eq (n : Nat) (s : State) : lnRaiseAbort n s = s.modLn n (·.abortRaised s.clk.cyc) := by
  unfold lnRaiseAbort
  split
  next hpresent => exact State.modLn_congr (if_pos hpresent).symm
  next habsent => exact (State.modLn_self (f := (·.abortRaised s.clk.cyc)) (if_neg habsent)).symm

/-- A Lantern as its port is released: no cause is kept, and the abort handshake starts. -/
def Lantern.released (l : Lantern) (fenced : Bool) (now : Nat) : Lantern :=
  { l with fenced := fenced, cause := 0 }.abortRaised now

theorem Lantern.released_cause (l : Lantern) (fenced : Bool) (now : Nat) : (l.released fenced now).cause = 0 := by
  unfold Lantern.released Lantern.abortRaised
  split <;> rfl

theorem Lantern.released_abort {l : Lantern} (h : l.present = true) (fenced : Bool) (now : Nat) :
    (l.released fenced now).abort = true :=
  congrArg Lantern.abort (if_pos h)

theorem unfence_lantern {s : State} {n : Nat} (hon : s.unitsOff = false) (hn : n < 4) (hmay : s.mayUnfence 7 n = true) :
    ∃ fenced, unfence 1 n s = (s.unfenced 7 n).modLn n (·.released fenced s.clk.cyc) := by
  have hdo : unfence 1 n s = lnRaiseAbort n ((s.unfenced 7 n).modLn n (fun l =>
      { l with fenced := (s.unfenced 7 n).flt.fenced.contains (3, n), cause := 0 })) := by
    simp only [unfence, hon, hmay, hn, decide_true, Bool.and_self, Bool.false_eq_true, if_false, if_true]
    rfl
  rw [hdo, lnRaiseAbort_eq, State.modLn_modLn]
  exact ⟨_, rfl⟩

/-- A ring port as it is released: its abort handshake starts. -/
def RPort.released (r : RPort) (now : Nat) : RPort := { r with fenced := false, abort := true, abortAt := now }

theorem unfence_ring {s : State} {n : Nat} (hon : s.unitsOff = false) (hmay : s.mayUnfence 8 n = true) :
    unfence 2 n s = (s.unfenced 8 n).setPort n (·.released s.clk.cyc) := by
  simp only [unfence, hon, hmay, Bool.false_eq_true, if_false, if_true]
  rfl

theorem unfence_other {s : State} {kind : Nat} (hon : s.unitsOff = false) (h1 : kind ≠ 1) (h2 : kind ≠ 2) (n : Nat) :
    unfence kind n s = s := by
  simp [unfence, hon, h1, h2]

theorem unfence_ignored {s : State} {kind n : Nat} (h : s.unitsOff = true ∨ (kind = 1 ∧ s.mayUnfence 7 n = false) ∨
    (kind = 1 ∧ 4 ≤ n) ∨ (kind = 2 ∧ s.mayUnfence 8 n = false)) : unfence kind n s = bump 0x0258 s := by
  unfold unfence
  obtain hoff | ⟨rfl, hmay⟩ | ⟨rfl, hn⟩ | ⟨rfl, hmay⟩ := h
  · rw [hoff]
    rfl
  · rw [hmay, Bool.and_false]
    exact ite_self _
  · rw [decide_eq_false (Nat.not_lt.2 hn)]
    exact ite_self _
  · rw [hmay]
    exact ite_self _

/-- FLT_UNFENCE names a unit kind and a unit. -/
theorem exec_fltUnfence {s : State} {v : Word} (hready : s.rst.ready = true) {t : State}
    (h : unfence (v.toNat / 8 % 4) (v.toNat % 8) s = t) :
    exec (.fltUnfence v) s = .next { t with out := t.out ++ [.regWrote false] } := by
  have hkind : bitsOf v.toNat 3 2 = v.toNat / 8 % 4 := bitsOf_eq ..
  have hunit : bitsOf v.toNat 0 3 = v.toNat % 8 := by simp [bitsOf_eq]
  show Host.Outcome.next (s.hostWrite (unfence (bitsOf v.toNat 3 2) (bitsOf v.toNat 0 3))) = _
  rw [hkind, hunit, State.hostWrite_ready hready, h]

/-- Settles O20: the trace's registers, then the Lantern's and the ring port that is released, and the other writes. -/
theorem traceAndUnfence : Obligations.TraceAndUnfence := by
  unfold Obligations.TraceAndUnfence
  intro s v hready
  refine ⟨?trace, fun hon hkind hmay hn hlen => ?lantern, fun hon hkind hmay hlen => ?port, fun h => ?ignored,
    fun hon hkind => ?other⟩
  case trace =>
    obtain ⟨busy, q, htrace⟩ := traceCfg_frame v s
    refine ⟨_, congrArg Host.Outcome.next (State.hostWrite_ready hready (traceCfg v.toNat)), ?_⟩
    rw [htrace]
    exact ⟨rfl, rfl, rfl, rfl, rfl, rfl⟩
  case lantern =>
    obtain ⟨fenced, hunfence⟩ := unfence_lantern hon hn hmay
    rw [← hkind] at hunfence
    let u := s.unfenced 7 (v.toNat % 8)
    have hself := u.lan_modLn_self (hlen ▸ hn : v.toNat % 8 < u.ln.length) (·.released fenced s.clk.cyc)
    refine ⟨_, exec_fltUnfence hready hunfence, s.unfenced_spec _ _, ?_, fun hpresent => ?_,
      fun n hne => u.lan_modLn_ne hne _, rfl⟩
    · exact (congrArg Lantern.cause hself).trans (Lantern.released_cause ..)
    · exact (congrArg Lantern.abort hself).trans (Lantern.released_abort hpresent ..)
  case port =>
    have hunfence := unfence_ring hon hmay
    rw [← hkind] at hunfence
    let u := s.unfenced 8 (v.toNat % 8)
    have hport (n : Nat) := u.rport_setPort (v.toNat % 8) n (·.released s.clk.cyc)
    have hin : v.toNat % 8 < u.ring.ports.length := (Nat.mod_lt _ (by decide)).trans_eq hlen.symm
    have hself := (hport (v.toNat % 8)).trans (if_pos ⟨rfl, hin⟩)
    exact ⟨_, exec_fltUnfence hready hunfence, s.unfenced_spec _ _, congrArg RPort.fenced hself,
      congrArg RPort.abort hself, fun n hne => (hport n).trans (if_neg fun h => hne h.1), rfl⟩
  case ignored =>
    rw [exec_fltUnfence hready (unfence_ignored h), bump_frame]
  case other =>
    exact exec_fltUnfence hready (unfence_other hon (by omega) (by omega) _)

end Sys2Proof.Machine

namespace Sys2Proof.Machine

/-! ### DESCRIPTOR_FETCH (R370) -/

theorem exec_descriptorFetch {s : State} {n : Fin 3} {tag : Nat} (htag : s.sysTag = some tag) (hmay : s.mayFetch n = true) :
    exec (.descriptorFetch n) s = .next (s.sysRead tag (.desc n (s.kp.ring n).head)
      ((s.kp.ring n).base + (s.kp.ring n).head * 64) 64) := by
  show execDescriptorFetch n s = _
  simp only [execDescriptorFetch, htag, hmay, if_true]

theorem exec_descriptorFetch_waits {s : State} {n : Fin 3} (h : s.sysTag = none ∨ s.mayFetch n = false) :
    exec (.descriptorFetch n) s = .next s := by
  show execDescriptorFetch n s = _
  unfold execDescriptorFetch
  split
  next tag htag =>
    obtain hnone | hmay := h
    · cases htag.symm.trans hnone
    · simp only [hmay, Bool.false_eq_true, if_false]
  next => rfl

/-! ### A descriptor that has come (R370 to R372, R384, R428, R445) -/

/-- The answer of a descriptor read is held no longer. -/
def State.letGo (s : State) (x : Nat × Nat × Nat × List Byte) : State :=
  { s with kp := { s.kp with descHeld := s.kp.descHeld.erase x } }

section
variable {s : State} {n slot : Nat} {bs : List Byte}

/-- An ECLIPSE that waits takes no Work or Transfer descriptor (R428). -/
theorem descTake_eclipse (hn : n ≠ 2) (hwaits : s.rst.eclipse ≠ none) :
    descTake (n, slot, 0, bs) s = s.letGo (n, slot, 0, bs) := by
  have hsome : s.rst.eclipse.isSome = true := Option.isSome_iff_ne_none.2 hwaits
  have hdrops : (n != 2 && (0 : Nat) = 0 && s.rst.eclipse.isSome) = true := by simp [hn, hsome]
  exact if_pos hdrops

/-- A descriptor that queues no record, or whose record has room, is taken (R370, R384). -/
theorem descTake_takes (hn : n = 2 ∨ s.rst.eclipse = none) (hroom : n ≠ 0 ∨ s.evRoom = true) :
    descTake (n, slot, 0, bs) s = takeDesc n slot bs (s.letGo (n, slot, 0, bs)) := by
  have hkept : ¬ (n != 2 && (0 : Nat) = 0 && s.rst.eclipse.isSome) = true := by
    obtain h | h := hn <;> simp [h]
  have htakes : ((0 : Nat) = 0 && !takeNeedsRoom n bs s || s.evRoom) = true := by
    obtain h | h := hroom <;> simp [takeNeedsRoom, h]
  exact (if_neg hkept).trans ((if_pos htakes).trans (if_pos rfl))

/-- A fault or an error response stops the fetch of its ring, with an event (R370, R445). -/
theorem descTake_faults {st : Nat} (hst : st ≠ 0) (hroom : s.evRoom = true) : descTake (n, slot, st, bs) s =
    { s.letGo (n, slot, st, bs) with
      kp := { (s.letGo (n, slot, st, bs)).kp with fstop := s.kp.fstop.set n true }
      evq := s.evq ++ [⟨0x02, n + 1, slot, s.clk.ticks % 2 ^ 32, s.seqNow, 0x0A, 0, 0, 0⟩] } := by
  have hkept : ¬ (n != 2 && st = 0 && s.rst.eclipse.isSome) = true := by simp [hst]
  have hacts : (st = 0 && !takeNeedsRoom n bs s || s.evRoom) = true := by simp [hroom]
  exact (if_neg hkept).trans ((if_pos hacts).trans (if_neg hst))

end

/-- The first check of R372 that a work descriptor fails, or 0. -/
theorem workCheck_eq (s : State) (d : WorkDesc) : workCheck s d =
    if d.op ≠ 1 ∨ d.rsvd = true ∨ d.lc = 0 ∨ 32 < d.lc then 1 else if d.profile = 0 then 3
    else if d.pc % 4 ≠ 0 ∨ 2 ^ 29 ≤ d.pc then 2 else if s.map.working.length < d.lc then 4 else 0 := by
  simp [workCheck, or_assoc]

/-- The DESC_ERR record of a work descriptor (R381). -/
def State.workErr (s : State) (slot : Nat) (d : WorkDesc) (reason : Nat) : EvRec :=
  ⟨0x02, 1, slot, s.clk.ticks % 2 ^ 32, d.seq, reason + 256 * d.op, d.user, 0, 0⟩

section
variable {s : State} {slot : Nat} {bs : List Byte} {d : WorkDesc} (hd : WorkDesc.parse bs = d)
include hd

theorem takeWork_outOfSeq (hseq : d.seq ≠ s.kp.nextseq) : takeWork slot bs s =
    { s with kp := { s.kp with seqstop := true }, evq := s.evq ++ [s.workErr slot d 5] } := by
  have hbad : (d.seq != s.kp.nextseq) = true := bne_iff_ne.2 hseq
  subst hd
  exact if_pos hbad

variable (hseq : d.seq = s.kp.nextseq)
include hseq

theorem takeWork_refuses {r : Nat} (hcheck : workCheck s d = r) (hr : r ≠ 0) : takeWork slot bs s =
    { advanceHead 0 { s with kp := { s.kp with nextseq := (s.kp.nextseq + 1) % 2 ^ 64 } } with
      evq := s.evq ++ [s.workErr slot d r] } := by
  subst hd hcheck
  have hgood : ¬ ((WorkDesc.parse bs).seq != s.kp.nextseq) = true := by simp [hseq]
  have hfails : (workCheck s (WorkDesc.parse bs) != 0) = true := bne_iff_ne.2 hr
  exact (if_neg hgood).trans (if_pos hfails)

theorem takeWork_takes (hcheck : workCheck s d = 0) : takeWork slot bs s =
    advanceHead 0 { s with kp := { s.kp with workTaken := s.kp.workTaken ++ [⟨slot, bs⟩] } } := by
  subst hd
  have hgood : ¬ ((WorkDesc.parse bs).seq != s.kp.nextseq) = true := by simp [hseq]
  have hpasses : ¬ (workCheck s (WorkDesc.parse bs) != 0) = true := by simp [hcheck]
  exact (if_neg hgood).trans (if_neg hpasses)

end

/-! ### SYS_RESPONSE to a descriptor read, and SYS_TIMEOUT (R444, R445) -/

/-- No SYS request is outstanding any more. -/
def State.answered (s : State) : State := { s with kp := { s.kp with sys := [] } }

/-- The answer of the one SYS request, a descriptor read, as it comes. -/
def State.answeredBy (s : State) (x : Nat × Nat × Nat × List Byte) : State :=
  { s with kp := { s.kp with sys := [], descHeld := s.kp.descHeld ++ [x] } }

theorem State.letGo_answeredBy {s : State} (h : s.kp.descHeld = []) (x : Nat × Nat × Nat × List Byte) :
    (s.answeredBy x).letGo x = s.answered := by
  simp only [State.letGo, State.answeredBy, State.answered, h, List.nil_append, List.erase_cons_head]

section
variable {s : State} {q : SysReq} {tag : BitVec 5} {n slot : Nat} {bs : List Byte} (hpor : s.rst.por = false)
  (hlen : bs.length = 64) (hsys : s.kp.sys = [q]) (htag : q.tag = tag.toNat) (hwhat : q.what = .desc n slot)
include hpor hlen hsys htag hwhat

/-- The answer to the one SYS request, a descriptor read, with nothing waiting behind it. -/
theorem exec_sysResponse_desc {st : BitVec 2} (hst : st ≠ 3#2) {u : State}
    (htake : descTake (n, slot, st.toNat, bs) (s.answeredBy (n, slot, st.toNat, bs)) = u) (hrec : u.kp.recQ = [])
    (hagain : u.kp.evAgain = false) : exec (.sysResponse tag st bs) s = .next u := by
  have hexec : exec (.sysResponse tag st bs) s = .next (evRetry (s.kp.evBad.length + 2) (recPump u)) := by
    show execSysResponse tag st bs s = _
    rw [← htake, State.answeredBy]
    simp only [execSysResponse, hlen, hpor, hsys, htag, sysAnswer, hwhat, hst, List.find?_cons, List.erase_cons_head,
      beq_self_eq_true, bne_self_eq_false, Bool.false_eq_true, if_false, decide_false, Bool.false_and]
  rw [hexec, recPump_none hrec, evRetry_none hagain]

variable (hrec : s.kp.recQ = []) (hagain : s.kp.evAgain = false) (hheld : s.kp.descHeld = [])
include hheld

/-- A descriptor that queues no record, or whose record has room, is taken. -/
theorem exec_sysResponse_takes (hn : n = 2 ∨ s.rst.eclipse = none) (hroom : n ≠ 0 ∨ s.evRoom = true) {u : State}
    (htake : takeDesc n slot bs s.answered = u) (hrec : u.kp.recQ = []) (hagain : u.kp.evAgain = false) :
    exec (.sysResponse tag 0#2 bs) s = .next u := by
  refine exec_sysResponse_desc hpor hlen hsys htag hwhat (by decide) ?_ hrec hagain
  rw [← htake, ← s.letGo_answeredBy hheld (n, slot, 0, bs)]
  exact descTake_takes (s := s.answeredBy (n, slot, 0, bs)) hn hroom

include hrec hagain

theorem exec_sysResponse_eclipse (hn : n ≠ 2) (hwaits : s.rst.eclipse ≠ none) :
    exec (.sysResponse tag 0#2 bs) s = .next s.answered := by
  refine exec_sysResponse_desc hpor hlen hsys htag hwhat (by decide) ?_ hrec hagain
  rw [← s.letGo_answeredBy hheld (n, slot, 0, bs)]
  exact descTake_eclipse (s := s.answeredBy (n, slot, 0, bs)) hn hwaits

theorem exec_sysResponse_faults {st : BitVec 2} (hst : st = 1#2 ∨ st = 2#2) (hroom : s.evRoom = true) :
    exec (.sysResponse tag st bs) s = .next { s with
      kp := { s.kp with sys := [], fstop := s.kp.fstop.set n true }
      evq := s.evq ++ [⟨0x02, n + 1, slot, s.clk.ticks % 2 ^ 32, s.seqNow, 0x0A, 0, 0, 0⟩] } := by
  have hne : st ≠ 3#2 ∧ st.toNat ≠ 0 := by obtain rfl | rfl := hst <;> decide
  refine exec_sysResponse_desc hpor hlen hsys htag hwhat hne.1 ?_ hrec hagain
  rw [descTake_faults (s := s.answeredBy (n, slot, st.toNat, bs)) hne.2 hroom, s.letGo_answeredBy hheld]
  rfl

end

section
variable {s : State} {tag : BitVec 5} {bs : List Byte} (hpor : s.rst.por = false) (hlen : bs.length = 64)
include hpor hlen

/-- An answer to a tag that is not outstanding is a fault of the port. -/
theorem exec_sysResponse_stray (hready : s.rst.ready = true) (hfenced : s.kp.sysFenced = false)
    (hstray : ∀ q ∈ s.kp.sys, q.tag ≠ tag.toNat) (st : BitVec 2) :
    exec (.sysResponse tag st bs) s = .next (s.sysFault 4) := by
  have hnone : s.kp.sys.find? (fun q => q.tag == tag.toNat) = none := by simpa using hstray
  show execSysResponse tag st bs s = _
  simp [execSysResponse, hlen, hpor, hnone, hready, hfenced]

end

section
variable {s : State} {tag : BitVec 5} {q : SysReq} (hsys : s.kp.sys = [q])
include hsys

theorem exec_sysTimeout_late (htag : q.tag = tag.toNat) (hwhat : q.what ≠ .expired) (hfenced : s.kp.sysFenced = false)
    (hlate : q.at_ + 2 ^ 18 ≤ s.clk.ckr / 8) : exec (.sysTimeout tag) s =
      .next (State.sysFault { s with kp := { s.kp with sys := [{ q with what := .expired }] } } 5) := by
  show execSysTimeout tag s = _
  simp [execSysTimeout, hsys, htag, hwhat, hfenced, hlate, -Nat.reducePow]

theorem exec_sysTimeout_early (hearly : s.clk.ckr / 8 < q.at_ + 2 ^ 18) : exec (.sysTimeout tag) s = .next s := by
  have hlate : ¬ q.at_ + 2 ^ 18 ≤ s.clk.ckr / 8 := Nat.not_le.2 hearly
  show execSysTimeout tag s = _
  simp [execSysTimeout, hsys, hlate, -Nat.reducePow]

end

/-- Settles O43: the fetch, its answer by the ring and the status, stray answers and the time-out, one lemma each. -/
theorem keeperFetches : Obligations.KeeperFetches := by
  unfold Obligations.KeeperFetches
  refine ⟨fun s n tag => exec_descriptorFetch, fun s n => exec_descriptorFetch_waits,
    fun s q tag slot n bs hpor hlen hsys htag hwhat hrec hagain hheld => ?answer,
    fun s tag bs st hpor hready hlen hfenced hstray =>
      ⟨_, exec_sysResponse_stray hpor hlen hready hfenced hstray st, State.detect_detected ..⟩,
    fun s tag q hsys htag hwhat hfenced => ⟨fun hlate =>
      ⟨_, exec_sysTimeout_late hsys htag hwhat hfenced hlate, State.detect_detected ..⟩, exec_sysTimeout_early hsys⟩⟩
  case answer =>
    refine ⟨fun hn => ?taken, fun hn hwaits => ?eclipse, fun d r hn hon hroom hd hr => ?work,
      fun st hst _ hroom => ⟨_, exec_sysResponse_faults hpor hlen hsys htag hwhat hrec hagain hheld hst hroom,
        rfl, rfl, rfl⟩⟩
    case taken =>
      have hne : n ≠ 0 := by omega
      have hexec := exec_sysResponse_takes hpor hlen hsys htag hwhat hheld (hn.imp_right And.right) (.inl hne) rfl
      obtain rfl | ⟨rfl, -⟩ := hn
      · exact ⟨_, hexec hrec hagain, rfl, rfl, rfl⟩
      · exact ⟨_, hexec hrec hagain, rfl, rfl, rfl⟩
    case eclipse =>
      have hne : n ≠ 2 := by omega
      exact exec_sysResponse_eclipse hpor hlen hsys htag hwhat hrec hagain hheld hne hwaits
    case work =>
      subst hn
      have hexec {u : State} := exec_sysResponse_takes (u := u) hpor hlen hsys htag hwhat hheld (.inr hon) (.inr hroom)
      have hcheck : workCheck s.answered d = r := (workCheck_eq _ d).trans hr.symm
      refine ⟨fun hseq => hexec (takeWork_outOfSeq hd.symm hseq) hrec hagain, fun hseq => ?_⟩
      by_cases hr0 : r = 0
      · have htake : takeDesc 0 slot bs s.answered = _ := takeWork_takes (s := s.answered) hd.symm hseq (hcheck.trans hr0)
        exact ⟨_, hexec htake hrec hagain, rfl, fun h => absurd hr0 h, fun _ => ⟨rfl, rfl, rfl⟩, rfl⟩
      · have htake : takeDesc 0 slot bs s.answered = _ := takeWork_refuses (s := s.answered) hd.symm hseq hcheck hr0
        exact ⟨_, hexec htake hrec hagain, rfl, fun _ => ⟨rfl, rfl, rfl⟩, fun h => absurd h hr0, rfl⟩

end Sys2Proof.Machine

namespace Sys2Proof.Machine

/-! ### What every step keeps (R403, R504, R512) -/

/-- A half 1 that comes without its half 0 is a violation, where the port takes part (R450). -/
theorem kept_execResultBeat_halfMissing {s0 s : State} {ln : Fin 4} {hdr1 : Word} {data : List Word} (h : Kept s0 s) :
    KeptO s0 (execResultBeat ln none hdr1 data s) := by
  have hbeat : execResultBeat ln none hdr1 data s =
      if (s.lan ln).abort || (s.lan ln).ack || (s.lan ln).fenced || !(s.lan ln).present || !s.rst.ready then .next s
      else .next (lnViolation ln 4 s) := rfl
  rw [hbeat]
  exact KeptO.ite (KeptO.next h) (KeptO.next (kept_lnViolation h))

/-- Whatever the command, its meaning keeps the queue and the invariant: one lemma per meaning. -/
theorem kept_exec {s0 s : State} (i : Instr) (h : Kept s0 s) : KeptO s0 (exec i s) :=
  match i with
  | .bundleIssue => kept_execBundleIssue h
  | .bundleFetch => kept_execBundleFetch h
  | .streamWindowService => kept_execStreamWindowService h
  | .prodCount _ => kept_execProdCount h
  | .fenceComplete => kept_execFenceComplete h
  | .endComplete => kept_execEndComplete h
  | .cbEntryTimeout _ _ => kept_execCbEntryTimeout h
  | .osuraAsyncServe _ => kept_execOsuraAsyncServe h
  | .scrubRequest _ => kept_execScrubRequest h
  | .asyncShareApply => kept_execAsyncShareApply h
  | .farSettingsApply => kept_execFarSettingsApply h
  | .sectorFillDone _ => kept_execSectorFillDone h
  | .sectorCloseDrained _ => kept_execSectorCloseDrained h
  | .darkenTimeout _ => kept_execDarkenTimeout h
  | .sectorBistDone _ _ => kept_execSectorBistDone h
  | .bistCmd _ => kept_execBistCmd h
  | .buoyDrainEnd _ => kept_execBuoyDrainEnd h
  | .buoyWatchdog _ => kept_execBuoyWatchdog h
  | .buoySel _ => kept_execBuoySel h
  | .doorbellWrite _ _ => kept_execDoorbellWrite h
  | .descriptorFetch _ => kept_execDescriptorFetch h
  | .launch => kept_execLaunch h
  | .keeperPause => kept_execKeeperPause h
  | .keeperResume => kept_execKeeperResume h
  | .transferStart => kept_execTransferStart h
  | .memRequestIssue _ => kept_execMemRequestIssue h
  | .memReadResponse _ _ _ _ => kept_execMemReadResponse h
  | .memWriteAck _ _ _ => kept_execMemWriteAck h
  | .memTimeout _ _ _ => kept_execMemTimeout h
  | .transferComplete _ => kept_execTransferComplete h
  | .tdResume _ => kept_execTdResume h
  | .tdAbort _ => kept_execTdAbort h
  | .light => kept_execLight h
  | .darken => kept_execDarken h
  | .moor => kept_execMoor h
  | .arm => kept_execArm h
  | .free => kept_execFree h
  | .load => kept_execLoad h
  | .start => kept_execStart h
  | .mark => kept_execMark h
  | .release => kept_execRelease h
  | .pause => kept_execPause h
  | .resume => kept_execResume h
  | .abort => kept_execAbort h
  | .tdcmd => kept_execTdcmd h
  | .eclipse => kept_execEclipse h
  | .token => kept_execToken h
  | .note => kept_execNote h
  | .loadTakeEffect _ => kept_execLoadTakeEffect h
  | .productAnnounce _ => kept_execProductAnnounce h
  | .operandRequest _ _ => kept_execOperandRequest h
  | .resultBeat _ (some _) _ _ => kept_execResultBeat h
  | .resultBeat _ none _ _ => kept_execResultBeat_halfMissing h
  | .tailPassStart _ => kept_execTailPassStart h
  | .relayStallTimeout _ => kept_execRelayStallTimeout h
  | .productComplete _ => kept_execProductComplete h
  | .fpAbortAck _ => kept_execFpAbortAck h
  | .fpAbortTimeout _ => kept_execFpAbortTimeout h
  | .data _ _ _ => kept_execData h
  | .credit _ _ _ => kept_execCredit h
  | .ack _ _ _ => kept_execAck h
  | .nak _ _ _ => kept_execNak h
  | .pktMark _ _ _ => kept_execPktMark h
  | .pktSeal _ _ _ => kept_execSeal h
  | .closed _ _ _ => kept_execClosed h
  | .mabort _ _ _ => kept_execMabort h
  | .pktHold _ _ _ => kept_execPktHold h
  | .pktRelease _ _ _ => kept_execPktRelease h
  | .mreq _ _ _ => kept_execMreq h
  | .packetForward _ _ _ => kept_execPacketForward h
  | .packetSend _ => kept_execPacketSend h
  | .ringCreditReturn _ _ _ => kept_execRingCreditReturn h
  | .linkDown _ => kept_execLinkDown h
  | .ringAbortAck _ => kept_execRingAbortAck h
  | .sendWatchdog _ => kept_execSendWatchdog h
  | .markTimeout => kept_execMarkTimeout h
  | .markWaitTimeout => kept_execMarkWaitTimeout h
  | .epochTimer => kept_execEpochTimer h
  | .closeCapture => kept_execCloseCapture h
  | .closeComplete => kept_execCloseComplete h
  | .logMirrorGranule => kept_execLogMirrorGranule h
  | .logEnable _ => kept_execLogEnable h
  | .logDisable _ => kept_execLogDisable h
  | .restoreDirty => kept_execRestoreDirty h
  | .restoreFull => kept_execRestoreFull h
  | .restoreComplete => kept_execRestoreComplete h
  | .faultSequencerStart _ => kept_execFaultSequencerStart h
  | .spareBistDone _ _ => kept_execSpareBistDone h
  | .fltUnfence _ => kept_execFltUnfence h
  | .foghornStart => kept_execFoghornStart h
  | .foghornEnd => kept_execFoghornEnd h
  | .throttleRelease => kept_execThrottleRelease h
  | .coreDivSwitch => kept_execCoreDivSwitch h
  | .brownOut => kept_execBrownOut h
  | .powerOnReset => kept_execPowerOnReset h
  | .porRelease => kept_execPorRelease h
  | .blockReset => kept_execBlockReset h
  | .blockResetRelease => kept_execBlockResetRelease h
  | .clusterBistDone _ => kept_execClusterBistDone h
  | .daymarkWord _ _ => kept_execDaymarkWord h
  | .sbPowerAnswer _ _ => kept_execSbPowerAnswer h
  | .sbPowerTimeout _ => kept_execSbPowerTimeout h
  | .sbWake => kept_execSbWake h
  | .eclipseEntry => kept_execEclipseEntry h
  | .eclipseWake => kept_execEclipseWake h
  | .eventRecordWrite => kept_execEventRecordWrite h
  | .eringHeadWrite _ => kept_execEringHeadWrite h
  | .sysResponse _ _ _ => kept_execSysResponse h
  | .sysTimeout _ => kept_execSysTimeout h
  | .ringEnable _ _ => kept_execRingEnable h
  | .workNextseqLo _ => kept_execWorkNextseqLo h
  | .moSel _ => kept_execMoSel h
  | .engFlagsWrite _ => kept_execEngFlagsWrite h
  | .bcastWrite _ _ _ => kept_execBcastWrite h
  | .bcastRead _ _ => kept_execBcastRead h
  | .counterRead _ => kept_execCounterRead h
  | .counterClear _ => kept_execCounterClear h
  | .traceRestart _ => kept_execTraceRestart h
  | .wsBypass => kept_execWsBypass h
  | .wsExtest => kept_execWsExtest h
  | .wsIntest => kept_execWsIntest h
  | .dmRead => kept_execDmRead h
  | .wrstnFall => kept_execWrstnFall h
  | .registerWrite _ _ => kept_execRegisterWrite h
  | .linkUpRise _ => kept_execLinkUpRise h
  | .ringAbortTimeout _ => kept_execRingAbortTimeout h
  | .brownOutRelease => kept_execBrownOutRelease h
  | .abortAckFall _ => kept_execAbortAckFall h
  | .reservedKindArrival _ _ _ => kept_execReservedKindArrival h
  | .inboundFramingViolation _ => kept_execInboundFramingViolation h
  | .validLowered _ => kept_execValidLowered h

/-- The invariant does not speak of the commands that wait. -/
theorem State.Inv.withPending {s : State} (h : s.Inv) (rest : List Instr) : { s with pending := rest }.Inv := h

/-- Settles O5: with no command waiting a core cycle passes, which keeps the invariant; a command runs on the queue's
rest, of which the invariant does not speak, and keeps it. -/
theorem everyStepKeepsInv : Obligations.EveryStepKeepsInv := by
  unfold Obligations.EveryStepKeepsInv
  intro s t hinv hstep
  cases hqueue : s.pending with
  | nil =>
    have htick : step s = .next s.tick := by simp only [step, hqueue]
    obtain rfl : s.tick = t := by simpa only [htick, Host.Outcome.next.injEq] using hstep
    exact (kept_State_tick (.refl s)).2 hinv
  | cons c rest =>
    have hexec : step s = exec c { s with pending := rest } := by simp only [step, hqueue]
    exact (kept_exec c (.refl _) t (hexec ▸ hstep)).2 (hinv.withPending rest)

end Sys2Proof.Machine

namespace Sys2Proof.Machine

/-! ### The Foghorn throttle and the core divisor (R413, R474, R476, R483) -/

section
variable {s : State}

theorem exec_foghornStart_present (h : s.flt.fognow = true) : exec .foghornStart s = .next s := by
  show execFoghornStart s = _
  simp [execFoghornStart, h]

/-- A Foghorn start asks anew for the slower of the host's divisor and the throttle's (R474, R483). -/
theorem exec_foghornStart_starts (hpor : s.rst.por = false) (hfog : s.flt.fognow = false) :
    exec .foghornStart s = .next (State.evalDiv { s with
      flt := { s.flt with foghorn := true, fognow := true, lastFog := some s.clk.ticks }
      clk := { s.clk with fogThr := s.clk.fogThr || s.clk.fogAuto } }) := by
  show execFoghornStart s = _
  simp [execFoghornStart, hpor, hfog]

theorem exec_foghornEnd_present (h : s.flt.fognow = true) : exec .foghornEnd s = .next { s with
    flt := { s.flt with fognow := false, lastFog := some s.clk.ticks } } := by
  show execFoghornEnd s = _
  simp [execFoghornEnd, h]

theorem exec_foghornEnd_absent (h : s.flt.fognow = false) : exec .foghornEnd s = .next s := by
  show execFoghornEnd s = _
  simp [execFoghornEnd, h]

/-- The throttle is released once the condition has been absent for HOLD × 64 ticks (R483). -/
theorem exec_throttleRelease_late {since : Nat} (hlast : s.flt.lastFog = some since) (hthr : s.clk.fogThr = true)
    (hfog : s.flt.fognow = false) (hlate : since + max 1 s.clk.fogHold * 64 ≤ s.clk.ticks) :
    exec .throttleRelease s = .next (State.evalDiv { s with clk := { s.clk with fogThr := false } }) := by
  show execThrottleRelease s = _
  simp only [execThrottleRelease, hlast, hthr, hfog, Option.getD_some, Bool.not_false, Bool.and_self,
    decide_eq_true hlate, if_true]

theorem exec_throttleRelease_early {since : Nat} (hlast : s.flt.lastFog = some since)
    (hearly : s.clk.ticks < since + max 1 s.clk.fogHold * 64) : exec .throttleRelease s = .next s := by
  show execThrottleRelease s = _
  simp only [execThrottleRelease, hlast, Option.getD_some, decide_eq_false (Nat.not_le.2 hearly), Bool.and_false,
    Bool.false_eq_true, if_false]

theorem exec_throttleRelease_idle (h : s.clk.fogThr = false ∨ s.flt.fognow = true) :
    exec .throttleRelease s = .next s := by
  show execThrottleRelease s = _
  obtain h | h := h <;> simp [execThrottleRelease, h]

/-- A divisor that waits takes force on an edge of both clocks, in a later control cycle than the one that asked for
it (R474). -/
theorem exec_coreDivSwitch_edge {v : Nat} (hdiv : s.clk.divTarget = some v) (hedge : s.clk.ckr % 8 = 0)
    (hasked : s.clk.askedAt ≠ some (s.clk.ckr / 8)) (hheld : s.divHeld = false) (hstopped : s.clk.stopped = false) :
    exec .coreDivSwitch s = .next { s with clk := { s.clk with divNow := v, divTarget := none } } := by
  show execCoreDivSwitch s = _
  simp [execCoreDivSwitch, Clk.pending, State.ctlCycle, hdiv, hedge, hasked, hheld, hstopped]

theorem exec_coreDivSwitch_waits (h : s.clk.ckr % 8 ≠ 0 ∨ s.clk.askedAt = some (s.clk.ckr / 8) ∨ s.divHeld = true ∨
    s.clk.stopped = true) : exec .coreDivSwitch s = .next s := by
  show execCoreDivSwitch s = _
  cases hdiv : s.clk.divTarget with
  | none => simp [execCoreDivSwitch, hdiv]
  | some v => obtain h | h | h | h := h <;> simp [execCoreDivSwitch, Clk.pending, State.ctlCycle, hdiv, h]

theorem exec_coreDivSwitch_none (h : s.clk.divTarget = none) : exec .coreDivSwitch s = .next s := by
  show execCoreDivSwitch s = _
  simp [execCoreDivSwitch, h]

end

/-- Settles O10: one lemma per command and case; a request evaluated anew is `State.evalDiv`, whose wanted divisor is
the larger of the host's and the throttle's. -/
theorem clocks : Obligations.Clocks := by
  unfold Obligations.Clocks
  intro s
  refine ⟨fun w target hpor hfog hw htarget => ?start, fun hfog => ⟨exec_foghornStart_present hfog,
    exec_foghornEnd_present hfog⟩, exec_foghornEnd_absent, fun since target hlast hthr hfog htarget =>
      ⟨fun hlate => ?release, exec_throttleRelease_early hlast⟩, exec_throttleRelease_idle, fun v hdiv =>
      ⟨exec_coreDivSwitch_edge hdiv, exec_coreDivSwitch_waits⟩, exec_coreDivSwitch_none⟩
  case start =>
    subst hw htarget
    exact exec_foghornStart_starts hpor hfog
  case release =>
    have hwanted : min 2 s.clk.coreDiv = Clk.wanted { s.clk with fogThr := false } := (Nat.max_zero _).symm
    rw [htarget, hwanted]
    exact exec_throttleRelease_late hlast hthr hfog hlate

end Sys2Proof.Machine

namespace Sys2Proof.Machine

/-! ### The start of a restore (R409) -/

/-- What keeps a restore from starting (R409): the stream, work of the sectors or of a Lantern, a swap, or a restore
that runs already. -/
def State.restoreBusy (s : State) : Bool :=
  s.wrun || !s.asyncQuiet || s.ln.any (fun l => !l.q.isEmpty) || s.flt.swap || s.log.rbusy

theorem State.restoreBusy_iff (s : State) : s.restoreBusy = true ↔ s.wrun = true ∨ s.asyncQuiet = false ∨
    s.ln.any (fun l => !l.q.isEmpty) = true ∨ s.flt.swap = true ∨ s.log.rbusy = true := by
  simp only [State.restoreBusy, Bool.or_eq_true, Bool.not_eq_true', or_assoc]

theorem restoreStart_busy {s : State} (h : s.restoreBusy = true) (full : Bool) :
    restoreStart full s = { s with log := { s.log with rerr := 1 } } :=
  if_pos h

/-- A restore of the records as yet unread runs. -/
def State.restoring (s : State) (full : Bool) : State :=
  { s with log := { s.log with
    rbusy := true, rerr := 0
    restore := some ⟨full, false, 0, List.replicate 0x2000 0#8, List.replicate 0x2000 0#8, []⟩ } }

theorem restoreStart_rest {s : State} (h : ¬ s.restoreBusy = true) (full : Bool) : restoreStart full s =
    ((s.restoring full).logRead (.restoreRec false) s.log.baseA 0x2000).logRead (.restoreRec true) s.log.baseB 0x2000 :=
  if_neg h

/-- A read for the Logbook asks the memory ports for reads of its owner alone. -/
theorem State.logRead_asks (s : State) (who : Nat → MemOwner) (a len : Nat) :
    ∃ qs, s.logRead who a len = { s with mem := { s.mem with logQ := s.mem.logQ ++ qs } } ∧
      ∀ q ∈ qs, q.wr = none ∧ ∃ off, q.who = who off := by
  refine ⟨_, rfl, fun q hq => ?_⟩
  obtain ⟨⟨a, len, off⟩, -, rfl⟩ := List.mem_map.1 hq
  exact ⟨rfl, off, rfl⟩

/-- RESTORE_DIRTY and RESTORE_FULL differ in what they restore alone. -/
theorem exec_restore {s : State} (hready : s.rst.ready = true) {i : Instr}
    (hi : i ∈ [Instr.restoreDirty, Instr.restoreFull]) : ∃ full, (full = true ↔ i = Instr.restoreFull) ∧
      exec i s = .next { restoreStart full s with out := (restoreStart full s).out ++ [.regWrote false] } := by
  have hwrite (full : Bool) := State.hostWrite_ready hready (restoreStart full)
  simp only [List.mem_cons, List.not_mem_nil, or_false] at hi
  obtain rfl | rfl := hi
  · exact ⟨false, by decide, congrArg _ (hwrite false)⟩
  · exact ⟨true, by decide, congrArg _ (hwrite true)⟩

/-- Settles O18: on a busy block RERR alone changes; on a block at rest the records' reads join the Logbook's. -/
theorem restoreStarts : Obligations.RestoreStarts := by
  unfold Obligations.RestoreStarts
  intro s hready
  rw [← State.restoreBusy_iff]
  refine ⟨fun hbusy i hi => ?_, fun hrest i hi => ?_⟩
  · obtain ⟨full, -, hexec⟩ := exec_restore hready hi
    rw [hexec, restoreStart_busy hbusy]
  · obtain ⟨full, hfull, hexec⟩ := exec_restore hready hi
    obtain ⟨qa, hqa, ha⟩ := (s.restoring full).logRead_asks (.restoreRec false) s.log.baseA 0x2000
    obtain ⟨qb, hqb, hb⟩ := State.logRead_asks
      { s.restoring full with mem := { s.mem with logQ := s.mem.logQ ++ qa } } (.restoreRec true) s.log.baseB 0x2000
    have hasks : restoreStart full s = { s.restoring full with mem := { s.mem with logQ := s.mem.logQ ++ qa ++ qb } } := by
      rw [restoreStart_rest hrest, hqa]
      exact hqb
    rw [hexec, hasks]
    refine ⟨_, rfl, rfl, rfl, ⟨_, rfl, rfl, hfull⟩, ⟨qa ++ qb, List.append_assoc .., fun q hq => ?_⟩, rfl⟩
    obtain hq | hq := List.mem_append.1 hq
    · exact ⟨(ha q hq).1, false, (ha q hq).2⟩
    · exact ⟨(hb q hq).1, true, (hb q hq).2⟩

end Sys2Proof.Machine

namespace Sys2Proof.Machine

/-! ### A step (R8) -/

theorem step_front (c : Instr) (rest : List Instr) (s : State) :
    step { s with pending := c :: rest } = exec c { s with pending := rest } := rfl

theorem step_idle {s : State} (h : s.pending = []) : step s = .next s.tick := by
  simp only [step, h]

theorem step_of_pending {s : State} {c : Instr} {rest : List Instr} (h : s.pending = c :: rest) :
    step s = exec c { s with pending := rest } := by
  simp only [step, h]

/-- Settles O1: the two cases of `step`. -/
theorem stepRunsFront : Obligations.StepRunsFront :=
  ⟨step_front, fun _ => step_idle⟩

/-- Settles O3: every meaning keeps the queue that it is given, and a core cycle keeps the empty one. -/
theorem queueShrinks : Obligations.QueueShrinks := by
  unfold Obligations.QueueShrinks
  intro s t hstep
  cases hqueue : s.pending with
  | nil =>
    obtain rfl := Host.Outcome.next.inj ((step_idle hqueue).symm.trans hstep)
    exact (kept_State_tick (.refl s)).1.trans hqueue
  | cons c rest =>
    exact (kept_exec c (.refl _) t ((step_of_pending hqueue).symm.trans hstep)).1

/-! ### SYS before READY (R424, R443) -/

theorem State.hostWrite_before_ready {s : State} (h : s.rst.ready = false) (f : State → State) :
    s.hostWrite f = { s with out := s.out ++ [.regWrote false] } := by
  simp [State.hostWrite, h]

/-- A host write before READY is answered, and that is all. -/
theorem next_hostWrite_before_ready {s : State} (h : s.rst.ready = false) (f : State → State) :
    (Host.Outcome.next (s.hostWrite f) : Host.Outcome State Fault Refusal) =
      .next { s with out := s.out ++ [.regWrote false] } :=
  congrArg _ (State.hostWrite_before_ready h f)

theorem exec_registerWrite_before_ready {s : State} (h : s.rst.ready = false) (a : BitVec 20) (v : Word) :
    exec (.registerWrite a v) s = .next { s with out := s.out ++ [.regWrote false] } := by
  show execRegisterWrite a v s = _
  simp [execRegisterWrite, regWrite, answerWrite, h]

theorem exec_bcastWrite_before_ready {s : State} (h : s.rst.ready = false) (w : Fin 9) (off : BitVec 12) (v : Word) :
    exec (.bcastWrite w off v) s = .next { s with out := s.out ++ [.regWrote false] } := by
  show execBcastWrite w off v s = _
  simp [execBcastWrite, answerWrite, h]

theorem exec_counterRead_before_ready {s : State} (h : s.rst.ready = false) (a : BitVec 20) :
    exec (.counterRead a) s = .next { s with out := s.out ++ [.regRead 0#32 false] } := by
  show execCounterRead a s = _
  simp [execCounterRead, regRead, answerRead, h]

theorem exec_bcastRead_before_ready {s : State} (h : s.rst.ready = false) (w : Fin 9) (off : BitVec 12) :
    exec (.bcastRead w off) s = .next { s with out := s.out ++ [.regRead 0#32 false] } := by
  show execBcastRead w off s = _
  simp [execBcastRead, answerRead, h]

/-- Settles O6: the rows of SYS are host writes but for three, which ask for READY themselves, and the reads do. -/
theorem beforeReadyOnlyAnswers : Obligations.BeforeReadyOnlyAnswers := by
  unfold Obligations.BeforeReadyOnlyAnswers
  intro s v a ch r3 r4 w off h
  have hhost := next_hostWrite_before_ready h
  simp only [List.forall_mem_cons]
  exact ⟨⟨hhost _, hhost _, hhost _, hhost _, hhost _, hhost _, hhost _, hhost _, hhost _, hhost _, hhost _, hhost _,
      hhost _, hhost _, hhost _, hhost _, hhost _, exec_bcastWrite_before_ready h w off v, hhost _, hhost _,
      exec_registerWrite_before_ready h a v, List.forall_mem_nil _⟩,
    exec_counterRead_before_ready h a, exec_bcastRead_before_ready h w off, List.forall_mem_nil _⟩

/-! ### BIST_CMD (R511) -/

theorem State.allIdle_eq_false_iff (s : State) : s.allIdle = false ↔
    s.wrun = true ∨ (∃ x ∈ s.td.ch, x.2.st ≠ .idle) ∨ (∃ l ∈ s.ln, l.prods ≠ [] ∨ l.q ≠ []) := by
  simp [State.allIdle, or_assoc, imp_iff_not_or]

/-- What keeps a sector test from starting (R511). -/
def State.bistBarred (s : State) (sec : Nat) : Bool := !s.allIdle || !s.secOpen sec || s.bist.busy

theorem State.bistBarred_iff (s : State) (sec : Nat) : s.bistBarred sec = true ↔
    s.wrun = true ∨ (∃ x ∈ s.td.ch, x.2.st ≠ .idle) ∨ (∃ l ∈ s.ln, l.prods ≠ [] ∨ l.q ≠ []) ∨
      s.secOpen sec = false ∨ s.bist.busy = true := by
  simp only [State.bistBarred, Bool.or_eq_true, Bool.not_eq_true', State.allIdle_eq_false_iff, or_assoc]

/-- BIST_CMD's three outcomes. -/
theorem bistCommand_eq (v : Word) (s : State) : bistCommand v.toNat s =
    if v.getLsbD 6 = false then s
    else if s.bistBarred (v.toNat % 64) = true then { s with bist := { s.bist with refused := true } }
    else State.modSec { s.order 7 (v.toNat % 64) with
      bist := ⟨true, false, false, v.toNat % 64, s.bist.pass, s.bist.sec⟩
      pwr := { s.pwr with lightOn := s.pwr.lightOn ++ [(v.toNat % 64, true)] } } (v.toNat % 64)
        (fun c => { c with st := .lighting }) := by
  have hsec : bitsOf v.toNat 0 6 = v.toNat % 64 := by simp [bitsOf_eq]
  simp only [bistCommand, hsec, bitOf_toNat, Bool.not_eq_true', State.bistBarred]
  rfl

end Sys2Proof.Machine

namespace Sys2Proof.Machine

/-- A sector that has been given another state than the one after reset is in it, in whatever form the store is. -/
theorem State.secCtl_modSec_st (s : State) (k : Nat) {st : SecState} (h : st ≠ .dark) :
    ((s.modSec k (fun c => { c with st := st })).secCtl k).st = st := by
  have hne : { sget SecCtl.fresh s.osura.secs k with st := st } ≠ SecCtl.fresh := fun e => h (congrArg SecCtl.st e)
  have hget : (s.modSec k (fun c => { c with st := st })).secCtl k =
      sget SecCtl.fresh (sput s.osura.secs k { sget SecCtl.fresh s.osura.secs k with st := st }) k :=
    congrArg (sget SecCtl.fresh · k) (if_neg hne)
  rw [hget, sget_sput, if_pos rfl]

/-- Settles O19: the three branches of BIST_CMD. -/
theorem bistStartsOrRefuses : Obligations.BistStartsOrRefuses := by
  unfold Obligations.BistStartsOrRefuses
  intro s v hready
  rw [← State.bistBarred_iff]
  have hexec : exec (.bistCmd v) s =
      .next { bistCommand v.toNat s with out := (bistCommand v.toNat s).out ++ [.regWrote false] } :=
    congrArg Host.Outcome.next (State.hostWrite_ready hready (bistCommand v.toNat))
  rw [hexec, bistCommand_eq]
  refine ⟨fun hgo => ?idle, fun hgo hbarred => ?refused, fun hgo hfree => ?starts⟩
  case idle => rw [if_pos hgo]
  case refused => rw [if_neg (by simp [hgo]), if_pos hbarred]
  case starts =>
    rw [if_neg (by simp [hgo]), if_neg hfree]
    exact ⟨_, rfl, State.secCtl_modSec_st _ _ (by decide), rfl⟩

/-! ### Reading an engine counter (R505, R506) -/

/-- The engine counters stand at word addresses from 0x200 on, below 0x2A0. -/
theorem counterOffsets_spec : ∀ off ∈ counterOffsets, off % 4 = 0 ∧ 0x200 ≤ off ∧ off < 0x2A0 := by decide

/-- Registers in a row do not reach an address after the last of them. -/
theorem lookup_regRow_after {base a : Nat} {vals : List Nat} (h : base + 4 * vals.length ≤ a) :
    (regRow base vals).lookup a = none := by
  rw [List.lookup_eq_none_iff]
  intro p hp
  obtain ⟨⟨v, i⟩, hi, rfl⟩ := List.mem_map.1 hp
  have hlt : i < vals.length := by simpa using (List.mem_zipIdx hi).2.1
  simp only [bne_iff_ne, ne_eq]
  omega

/-- A value that is listed for each key of a list is found there. -/
theorem lookup_map_self {f : Nat → Nat} {base off : Nat} {l : List Nat} (h : off ∈ l) :
    (l.map (fun o => (base + o, f o))).lookup (base + off) = some (f off) := by
  induction l with
  | nil => cases h
  | cons o l ih =>
    rw [List.map_cons, List.lookup_cons]
    by_cases ho : off = o
    · simp [ho]
    · have hkey : (base + off == base + o) = false := by simpa using ho
      simp only [hkey, ih (List.mem_of_ne_of_mem ho h)]

/-- Every engine counter reads as it stood before the events of the present control cycle. -/
theorem regValue_counter {s : State} (hwords : s.dm.words.length = 32) {off : Nat} (hoff : off ∈ counterOffsets) :
    s.regValue (0x10000 + off) = some (counterShown (sget 0 (s.cnt.engWas s.ctlCycle) off)) := by
  obtain ⟨-, hlo, hhi⟩ := counterOffsets_spec off hoff
  have hunicast : unicastOf (0x10000 + off) = none := by simp [unicastOf]; omega
  have hregion : (0x10000 + off) / 0x1000 = 16 := by omega
  have hengine : s.regValue (0x10000 + off) = (observeRegs s).lookup (0x10000 + off) := by
    simp only [State.regValue, hunicast, engineRegs, hregion]
  rw [hengine, observeRegs]
  simp only [List.lookup_append]
  rw [lookup_regRow_after (by simp [hwords]; omega), lookup_regRow_after (by simp; omega),
    lookup_regRow_after (by simp; omega), lookup_regRow_after (by simp [loHi]; omega), lookup_map_self hoff]
  rfl

/-- What a read clears of an engine counter. -/
theorem clearOnRead_counter {s : State} {off : Nat} (hoff : off ∈ counterOffsets) : clearOnRead (0x10000 + off) s =
    if s.cnt.freeze then s else { s with cnt := s.cnt.takeEng s.ctlCycle off } := by
  obtain ⟨-, hlo, hhi⟩ := counterOffsets_spec off hoff
  have hunicast : unicastOf (0x10000 + off) = none := by simp [unicastOf]; omega
  simp [clearOnRead, hunicast, hoff]

theorem exec_counterRead {s : State} (hready : s.rst.ready = true) (hwords : s.dm.words.length = 32) {off : Nat}
    (hoff : off ∈ counterOffsets) : exec (.counterRead (BitVec.ofNat 20 ((0x10000 + off) / 4))) s =
      .next (answerRead (counterShown (sget 0 (s.cnt.engWas s.ctlCycle) off), false,
        if s.cnt.freeze then s else { s with cnt := s.cnt.takeEng s.ctlCycle off })) := by
  obtain ⟨halign, hlo, hhi⟩ := counterOffsets_spec off hoff
  have haddr : 4 * (BitVec.ofNat 20 ((0x10000 + off) / 4)).toNat = 0x10000 + off := by
    rw [BitVec.toNat_ofNat]
    omega
  have halias : aliasOf (0x10000 + off) = none := by simp [aliasOf]; omega
  show execCounterRead _ s = _
  simp only [execCounterRead, haddr, regRead, hready, Bool.not_true, Bool.false_eq_true, if_false, halias,
    regValue_counter hwords hoff, clearOnRead_counter hoff]

/-- Settles O8: the counter that is read keeps what its value lacks of the events so far, unless FREEZE holds it. -/
theorem counterReadClears : Obligations.CounterReadClears := by
  unfold Obligations.CounterReadClears
  intro s off hinv hready hoff
  have hwords : s.dm.words.length = 32 := hinv.2.1.1
  have heng : swf 0 s.cnt.eng = true := hinv.2.2.2.2.2.2.1
  refine ⟨_, exec_counterRead hready hwords hoff, ?_, fun hrun n => ?_, fun hfreeze => ?_, ?_⟩
  · cases s.cnt.freeze <;> rfl
  · simp only [answerRead, hrun, Bool.false_eq_true, if_false, Counters.takeEng]
    exact sget_sset off n _ heng
  · simp only [answerRead, hfreeze, if_true]
  · cases s.cnt.freeze <;> rfl

end Sys2Proof.Machine

namespace Sys2Proof.Machine

/-! ### Abort handshakes of a fusion port (R454) -/

section
variable {s : State} {l : Fin 4}

/-- A Lantern whose abort handshake is acknowledged: its buffers are empty and its accepted requests dropped. -/
def Lantern.handshaken (l : Lantern) : Lantern :=
  { l with
    abort := false, ack := true, halted := false, suspended := false, prods := l.prods.map (fun p => p.unsent l.buf)
    buf := [], reqs := [], pro := none, engCredits := 16, waited := 0, relayed := 0, quiet := 0 }

theorem exec_fpAbortAck_aborting (h : (s.lan l).abort = true) :
    exec (.fpAbortAck l) s = .next (s.modLn l Lantern.handshaken) := by
  show execFpAbortAck l s = _
  rw [execFpAbortAck, if_pos h]
  rfl

theorem exec_fpAbortAck_unasked (habort : (s.lan l).abort = false) (hfenced : (s.lan l).fenced = false)
    (hready : s.rst.ready = true) :
    exec (.fpAbortAck l) s = .next (lnViolation l 4 (s.modLn l (fun x => { x with ack := true }))) := by
  show execFpAbortAck l s = _
  simp [execFpAbortAck, habort, hfenced, hready]

theorem exec_fpAbortTimeout_late (habort : (s.lan l).abort = true) (hlate : (s.lan l).abortAt + 65536 ≤ s.clk.cyc) :
    exec (.fpAbortTimeout l) s =
      .next (lnViolation l 5 (s.modLn l (fun x => { x with abort := false, fenced := true }))) := by
  show execFpAbortTimeout l s = _
  simp [execFpAbortTimeout, habort, hlate]

theorem exec_fpAbortTimeout_early (h : (s.lan l).abort = false ∨ s.clk.cyc < (s.lan l).abortAt + 65536) :
    exec (.fpAbortTimeout l) s = .next s :=
  if_neg (by obtain h | h := h <;> simp [h])

theorem exec_abortAckFall_fp (habort : (s.lan l).abort = false) (hl : l.val < s.ln.length) (hrest : (s.lan l).AtRest) :
    exec (.abortAckFall (.fp l)) s = .next (s.modLn l (fun x => { x with ack := false })) := by
  show execAbortAckFall (.fp l) s = _
  rw [execAbortAckFall, habort, if_neg Bool.false_ne_true, lnPump_atRest]
  rw [State.lan_modLn_self hl]
  exact hrest

/-- A violation of a Lantern that an update has just changed is one change of the Lantern and the fault. -/
theorem lnViolation_modLn {f : Lantern → Lantern} (hl : l.val < s.ln.length) (reason : Nat) : ∃ u : State,
    u.lan l = { f (s.lan l) with cause := 4 } ∧ (∀ m, m ≠ l.val → u.lan m = s.lan m) ∧ u = { s with ln := u.ln } ∧
    u.Detected (lnViolation l reason (s.modLn l f)) 0x07 reason l 0xFF 0 := by
  obtain ⟨u, hself, hother, hframe, hdetected⟩ := lnViolation_spec (s := s.modLn l f) (n := l)
    (by rwa [State.length_modLn]) reason
  refine ⟨u, by rw [hself, State.lan_modLn_self hl], fun m hm => (hother m hm).trans (s.lan_modLn_ne hm f), ?_, hdetected⟩
  exact hframe

end

/-! ### Abort handshakes of a ring port (R454, R459) -/

/-- The port's packets as an abort handshake leaves them at every port. -/
def RPort.withoutFrom (r : RPort) (n : Nat) : RPort := { r with fwd := r.fwd.filter (fun p => p.port != some n) }

/-- A ring port whose abort handshake is acknowledged: partial packets, counts and arrival buffers are empty. -/
def RPort.handshaken (r : RPort) : RPort :=
  { r with abort := false, ack := true, used := [0, 0, 0], held := [], out := [0, 0, 0], started := false }

section
variable {s : State} {n : Fin 8}

theorem exec_ringAbortAck_aborting (h : (s.rport n).abort = true) : ∃ q, exec (.ringAbortAck n) s =
    .next (State.setPort { s with
      ring := { s.ring with
        ports := s.ring.ports.map (·.withoutFrom n)
        arrivals := s.ring.arrivals.filter (fun a => a.pkt.port != some n.val) }
      osura := { s.osura with q := q } } n RPort.handshaken) := by
  show ∃ q, execRingAbortAck n s = _
  simp only [execRingAbortAck, h, Bool.not_true, Bool.false_eq_true, if_false]
  exact ⟨_, rfl⟩

theorem exec_ringAbortAck_unasked (habort : (s.rport n).abort = false) (hfenced : (s.rport n).fenced = false)
    (hready : s.rst.ready = true) :
    exec (.ringAbortAck n) s = .next ((s.setPort n (fun r => { r with ack := true })).ringFault n 4) := by
  show execRingAbortAck n s = _
  simp [execRingAbortAck, habort, hfenced, hready]

theorem exec_ringAbortTimeout_late (habort : (s.rport n).abort = true)
    (hlate : (s.rport n).abortAt + 65536 ≤ s.clk.cyc) : exec (.ringAbortTimeout n) s =
      .next ((s.setPort n (fun r => { r with abort := false, fenced := true })).ringFault n 5) := by
  show execRingAbortTimeout n s = _
  simp [execRingAbortTimeout, habort, hlate]

theorem exec_ringAbortTimeout_early (h : (s.rport n).abort = false ∨ s.clk.cyc < (s.rport n).abortAt + 65536) :
    exec (.ringAbortTimeout n) s = .next s :=
  if_neg (by obtain h | h := h <;> simp [h])

theorem State.ringFault_detected (s : State) (n reason : Nat) : s.Detected (s.ringFault n reason) 0x08 reason n 0xFF 0 :=
  s.detect_detected _ _ _ _ _

/-- An update of one port, as the statements say it. -/
theorem State.setPort_spec (hn : n.val < s.ring.ports.length) (f : RPort → RPort) :
    (s.setPort n f).rport n = f (s.rport n) ∧ (∀ m, m ≠ n.val → (s.setPort n f).rport m = s.rport m) :=
  ⟨State.rport_setPort_same hn f, fun _ hm => s.rport_setPort_other hm f⟩

/-- Each port loses the packets that it forwards for the port, one that is not there too. -/
theorem State.rport_withoutFrom (s : State) (n m : Nat) :
    (s.ring.ports.map (·.withoutFrom n)).getD m .fresh = (s.rport m).withoutFrom n := by
  have hfresh : RPort.fresh = RPort.fresh.withoutFrom n := rfl
  conv_lhs => rw [hfresh]
  exact List.getD_map _ _ (f := (RPort.withoutFrom · n))

/-! ### Links and credits (R456 to R459) -/

/-- Credits go back in transfers of 1 to 15 (R456). -/
theorem creditReturns_spec (n cls units : Nat) : ∃ ks : List Nat, creditReturns n cls units = ks.map (PortOut.ringCredit n cls) ∧
    (∀ k ∈ ks, 1 ≤ k ∧ k ≤ 15) ∧ ks.sum = units := by
  refine ⟨_, rfl, fun k hk => ?_, ?_⟩
  · obtain hk | hk := List.mem_append.1 hk
    · simp [List.eq_of_mem_replicate hk]
    · split at hk
      · cases hk
      · simp only [List.mem_singleton] at hk
        omega
  · rw [List.sum_append, List.sum_replicate, smul_eq_mul]
    split <;> simp <;> omega

/-- The credits of a port's whole arrival buffers, class by class (R339, R458). -/
theorem creditReturns_whole (n : Nat) : (upTo 3).flatMap (fun c => creditReturns n c (bufferUnits c - [0, 0, 0].getD c 0)) =
    creditReturns n 0 128 ++ creditReturns n 1 1024 ++ creditReturns n 2 1024 := by
  simp [upTo, bufferUnits, List.range_succ]

/-- A port that may start returns its empty buffers whole (R458). -/
theorem State.startPort_starts {s : State} {n : Nat} (hon : s.packetsOn = true) (hen : s.ring.porten.testBit n = true)
    (hlink : (s.rport n).linkUp = true) (hfenced : (s.rport n).fenced = false) (habort : (s.rport n).abort = false)
    (hack : (s.rport n).ack = false) (hstarted : (s.rport n).started = false) (hused : (s.rport n).used = [0, 0, 0]) :
    s.startPort n = { s.setPort n (fun r => { r with started := true }) with
      out := s.out ++ (creditReturns n 0 128 ++ creditReturns n 1 1024 ++ creditReturns n 2 1024) } := by
  rw [← creditReturns_whole, ← hused]
  simp only [State.startPort, hon, hen, hlink, hfenced, habort, hack, hstarted, Bool.not_false, Bool.and_self, if_true]
  rfl

theorem State.startPort_waits {s : State} {n : Nat} (h : ¬ (s.packetsOn = true ∧ s.ring.porten.testBit n = true)) :
    s.startPort n = s := by
  rw [State.startPort, if_neg]
  intro hmay
  simp only [Bool.and_eq_true] at hmay
  obtain ⟨⟨⟨⟨⟨⟨hon, hen⟩, -⟩, -⟩, -⟩, -⟩, -⟩ := hmay
  exact h ⟨hon, hen⟩

/-- A port that an update lets start. -/
theorem State.startPort_setPort_starts {f : RPort → RPort} (hn : n.val < s.ring.ports.length) (hon : s.packetsOn = true)
    (hen : s.ring.porten.testBit n = true) (hlink : (f (s.rport n)).linkUp = true)
    (hfenced : (f (s.rport n)).fenced = false) (habort : (f (s.rport n)).abort = false)
    (hack : (f (s.rport n)).ack = false) (hstarted : (f (s.rport n)).started = false)
    (hused : (f (s.rport n)).used = [0, 0, 0]) : ∃ t, (s.setPort n f).startPort n = t ∧
      t.rport n = { f (s.rport n) with started := true } ∧ (∀ m, m ≠ n.val → t.rport m = s.rport m) ∧
      t.out = s.out ++ (creditReturns n 0 128 ++ creditReturns n 1 1024 ++ creditReturns n 2 1024) ∧
      t = { s with ring := { s.ring with ports := t.ring.ports }, out := t.out } := by
  obtain ⟨hself, hother⟩ := State.setPort_spec hn f
  obtain ⟨hself', hother'⟩ := State.setPort_spec (s := s.setPort n f) (n := n) ((modifyAt_length ..).symm ▸ hn)
    (fun r => { r with started := true })
  exact ⟨_, State.startPort_starts hon hen ((congrArg RPort.linkUp hself).trans hlink)
    ((congrArg RPort.fenced hself).trans hfenced) ((congrArg RPort.abort hself).trans habort)
    ((congrArg RPort.ack hself).trans hack) ((congrArg RPort.started hself).trans hstarted)
    ((congrArg RPort.used hself).trans hused), hself'.trans (by rw [hself]),
    fun m hm => (hother' m hm).trans (hother m hm), rfl, rfl⟩

theorem exec_abortAckFall_ring (habort : (s.rport n).abort = false) :
    exec (.abortAckFall (.ring n)) s = .next ((s.setPort n (fun r => { r with ack := false })).startPort n) := by
  show execAbortAckFall (.ring n) s = _
  rw [execAbortAckFall, habort, if_neg Bool.false_ne_true]

theorem exec_linkUpRise :
    exec (.linkUpRise n) s = .next ((s.setPort n (fun r => { r with linkUp := true })).startPort n) := rfl

/-- A link that fails on an enabled port is a fault of the port (R459). -/
theorem exec_linkDown (hready : s.rst.ready = true) : exec (.linkDown n) s = .next
    (if (s.rport n).linkUp = true ∧ s.ring.porten.testBit n = true then
      (s.setPort n (fun r => { r with linkUp := false, started := false })).ringFault n 4
    else s.setPort n (fun r => { r with linkUp := false, started := false })) := by
  show execLinkDown n s = _
  simp only [execLinkDown, hready, State.setPort, Bool.and_true, Bool.and_eq_true]
  split <;> rfl

theorem exec_ringCreditReturn_counts {c : BitVec 2} {k : BitVec 4} (habort : (s.rport n).abort = false)
    (hfenced : (s.rport n).fenced = false) (hready : s.rst.ready = true) (hc : c ≠ 3#2)
    (hfits : (s.rport n).out.getD c.toNat 0 + k.toNat ≤ 65535) : exec (.ringCreditReturn n c k) s =
      .next (s.setPort n (fun r => { r with out := modifyAt r.out c.toNat (· + k.toNat) })) := by
  show execRingCreditReturn n c k s = _
  simp only [execRingCreditReturn, habort, hfenced, hready, hc, decide_false, Bool.false_or, Bool.not_true,
    Bool.false_eq_true, if_false, Nat.not_lt.2 hfits]

theorem exec_ringCreditReturn_violates {c : BitVec 2} {k : BitVec 4} (habort : (s.rport n).abort = false)
    (hfenced : (s.rport n).fenced = false) (hready : s.rst.ready = true)
    (hbad : c = 3#2 ∨ 65535 < (s.rport n).out.getD c.toNat 0 + k.toNat) :
    exec (.ringCreditReturn n c k) s = .next (s.ringFault n 4) := by
  show execRingCreditReturn n c k s = _
  rw [execRingCreditReturn, if_neg (by simp [habort, hfenced, hready]), if_pos (by simpa using hbad)]

/-- Counting up an entry of a list is setting it. -/
theorem modifyAt_add_eq_set {l : List Nat} {i : Nat} (k : Nat) : modifyAt l i (· + k) = l.set i (l.getD i 0 + k) := by
  rw [modifyAt, List.modify_eq_set_getElem?, List.getD_eq_getElem?_getD]
  cases h : l[i]? with
  | some x => rfl
  | none => exact (List.set_eq_of_length_le (List.getElem?_eq_none_iff.1 h)).symm

end

/-- Settles O55: one lemma per command and case, on the updates of one Lantern or one ring port. -/
theorem portsAndLinks : Obligations.PortsAndLinks := by
  unfold Obligations.PortsAndLinks
  intro s l n hl hports hready
  have hn : n.val < s.ring.ports.length := by omega
  refine ⟨fun habort => ?fpAck, fun habort hfenced => ?fpAckUnasked, fun habort hlate => ?fpLate,
    exec_fpAbortTimeout_early, fun habort hrest => ?fpFall, fun habort => ?ringAck, fun habort hfenced => ?ringAckUnasked,
    fun habort hlate => ?ringLate, exec_ringAbortTimeout_early, creditReturns_spec n,
    fun habort hstarted hfenced hon hen hlink hused => ?ringFall, fun hstarted hfenced habort hack hused => ?linkUp,
    ?linkDown, fun c k habort hfenced hout => ⟨fun hc hfits => ?credits, fun hbad => ?creditsBad⟩, fun hlive => ?live,
    fun hdead => ?dead, fun hfenced => ?sys, fun m hfenced => ?mem, fun hpresent hfenced habort => ?fp, fun hpor => ?sb⟩
  case fpAck =>
    exact ⟨_, exec_fpAbortAck_aborting habort, State.lan_modLn_self hl _, fun m hm => s.lan_modLn_ne hm _, rfl⟩
  case fpAckUnasked =>
    obtain ⟨u, hu⟩ := lnViolation_modLn (f := fun x => { x with ack := true }) hl 4
    exact ⟨_, u, exec_fpAbortAck_unasked habort hfenced hready, hu⟩
  case fpLate =>
    obtain ⟨u, hu⟩ := lnViolation_modLn (f := fun x => { x with abort := false, fenced := true }) hl 5
    exact ⟨_, u, exec_fpAbortTimeout_late habort hlate, hu⟩
  case fpFall =>
    exact ⟨_, exec_abortAckFall_fp habort hl hrest, State.lan_modLn_self hl _, fun m hm => s.lan_modLn_ne hm _, rfl⟩
  case ringAck =>
    obtain ⟨q, hexec⟩ := exec_ringAbortAck_aborting habort
    refine ⟨_, hexec, ?_, fun m hm => ?_, rfl, rfl⟩
    · rw [State.rport_setPort_same (by simpa using hn)]
      exact congrArg RPort.handshaken (s.rport_withoutFrom n n)
    · rw [State.rport_setPort_other _ hm]
      exact s.rport_withoutFrom n m
  case ringAckUnasked =>
    obtain ⟨hself, hother⟩ := State.setPort_spec hn (fun r => { r with ack := true })
    exact ⟨_, _, exec_ringAbortAck_unasked habort hfenced hready, hself, hother, rfl, State.ringFault_detected _ _ _⟩
  case ringLate =>
    obtain ⟨hself, hother⟩ := State.setPort_spec hn (fun r => { r with abort := false, fenced := true })
    exact ⟨_, _, exec_ringAbortTimeout_late habort hlate, hself, hother, rfl, State.ringFault_detected _ _ _⟩
  case ringFall =>
    obtain ⟨t, ht, hself, hother, hout, hframe⟩ := State.startPort_setPort_starts (f := fun r => { r with ack := false })
      hn hon hen hlink hfenced habort rfl hstarted hused
    exact ⟨t, (exec_abortAckFall_ring habort).trans (congrArg _ ht), hself, hother, hout, hframe⟩
  case linkUp =>
    by_cases hgo : s.packetsOn = true ∧ s.ring.porten.testBit n = true
    · obtain ⟨t, ht, hself, hother, hout, hframe⟩ := State.startPort_setPort_starts (f := fun r => { r with linkUp := true })
        hn hgo.1 hgo.2 rfl hfenced habort hack hstarted hused
      exact ⟨t, exec_linkUpRise.trans (congrArg _ ht), fun _ => ⟨hself, hout⟩, fun h => absurd hgo h, hother, hframe⟩
    · obtain ⟨hself, hother⟩ := State.setPort_spec hn (fun r => { r with linkUp := true })
      exact ⟨_, exec_linkUpRise.trans (congrArg _ (State.startPort_waits (by exact hgo))), fun h => absurd h hgo, fun _ => ⟨hself, rfl⟩, hother, rfl⟩
  case linkDown =>
    obtain ⟨hself, hother⟩ := State.setPort_spec hn (fun r => { r with linkUp := false, started := false })
    refine ⟨_, _, exec_linkDown hready, hself, hother, rfl, fun hup => ?_, fun hdown => if_neg hdown⟩
    rw [if_pos hup]
    exact State.ringFault_detected _ _ _
  case credits =>
    obtain ⟨hself, hother⟩ := State.setPort_spec hn (fun r => { r with out := modifyAt r.out c.toNat (· + k.toNat) })
    refine ⟨_, exec_ringCreditReturn_counts habort hfenced hready hc hfits, ?_, ?_, hother, rfl⟩
    · rw [hself]
      exact modifyAt_add_eq_set _
    · rw [hself]
  case creditsBad =>
    exact ⟨_, exec_ringCreditReturn_violates habort hfenced hready hbad, State.ringFault_detected _ _ _⟩
  case live =>
    simp only [List.forall_mem_cons]
    exact ⟨⟨_, if_pos hlive, State.ringFault_detected _ _ _⟩, ⟨_, if_pos hlive, State.ringFault_detected _ _ _⟩,
      List.forall_mem_nil _⟩
  case dead =>
    simp only [List.forall_mem_cons]
    exact ⟨if_neg (by simp [hdead]), if_neg (by simp [hdead]), List.forall_mem_nil _⟩
  case sys => exact ⟨_, if_pos (by simp [hready, hfenced]), State.detect_detected _ _ _ _ _ _⟩
  case mem => exact ⟨_, if_pos (by simp [hready, hfenced]), State.detect_detected _ _ _ _ _ _⟩
  case fp =>
    obtain ⟨u, hu⟩ := lnViolation_spec hl 4
    exact ⟨_, u, if_pos (by simp [hready, hpresent, hfenced, habort]), hu⟩
  case sb => exact (if_neg (by simp [hpor])).trans (by rw [sbIgnored, bump_frame])

end Sys2Proof.Machine

namespace Sys2Proof.Machine

/-! ### Every well-formed command answers -/

/-- A meaning has answered with a next state. -/
def Answers (o : Host.Outcome State Fault Refusal) : Prop := ∃ t, o = .next t

theorem Answers.next {t : State} : Answers (.next t) := ⟨t, rfl⟩

theorem Answers.ite {a b : Host.Outcome State Fault Refusal} {c : Prop} [Decidable c] (ha : Answers a) (hb : Answers b) :
    Answers (if c then a else b) := by
  split <;> assumption

/-- A packet row answers when its data have a packet's form. -/
theorem arrive_answers {hdr : List Word} {payload : List Byte} (h : packetWf hdr payload = true) (port : Nat)
    (kinds : List Nat) (act : Pkt → State → State) (s : State) : Answers (arrive port hdr payload kinds act s) := by
  have hform : ¬ (!(hdr.length == 8 && payload.length < 512)) = true := by simpa [packetWf] using h
  rw [arrive, if_neg hform]
  refine .ite ?_ (.ite .next (.ite .next (.ite .next .next)))
  split <;> exact .next

theorem arrive_refused {hdr : List Word} {payload : List Byte} (h : packetWf hdr payload = false) (port : Nat)
    (kinds : List Nat) (act : Pkt → State → State) (s : State) :
    arrive port hdr payload kinds act s = .refused .illFormed :=
  if_pos (congrArg not h)

theorem execPacketForward_answers {hdr : List Word} {payload : List Byte} (h : packetWf hdr payload = true) (port : Fin 8)
    (s : State) : Answers (execPacketForward port hdr payload s) := by
  have hform : ¬ (!(hdr.length == 8 && payload.length < 512)) = true := by simpa [packetWf] using h
  rw [execPacketForward, if_neg hform]
  exact .ite .next (.ite .next (.ite .next .next))

theorem startCtl_answers (op : Nat) (act : Desc → Nat → State → CtlOut) (s : State) : Answers (startCtl op act s) := by
  unfold startCtl
  split
  · exact .next
  · refine .ite .next (.ite .next (.ite .next ?_))
    dsimp only
    split <;> exact .next

/-! The meanings that match on what the state holds: each branch of theirs is a next state. -/

section
variable {s : State}

theorem execCloseCapture_answers : Answers (execCloseCapture s) := by
  unfold execCloseCapture
  split
  · exact .ite .next .next
  · exact .next

theorem execLogMirrorGranule_answers : Answers (execLogMirrorGranule s) := by
  refine .ite .next (.ite (.ite .next (.ite .next .next)) (.ite .next (.ite ?_ ?_)))
  · split <;> exact .next
  · dsimp only
    split
    · exact .next
    · exact .ite .next .next

theorem execRestoreComplete_answers : Answers (execRestoreComplete s) := by
  unfold execRestoreComplete
  split
  · exact .ite .next .next
  · exact .next

theorem execPacketSend_answers {port : Fin 8} : Answers (execPacketSend port s) := by
  refine .ite .next ?_
  dsimp only
  split
  · exact .next
  · split
    · exact .next
    · split <;> exact .next

theorem execSendWatchdog_answers {ch : Fin 128} : Answers (execSendWatchdog ch s) := by
  unfold execSendWatchdog
  dsimp only
  split
  · exact .ite .next .next
  · exact .next

theorem execMarkWaitTimeout_answers : Answers (execMarkWaitTimeout s) := by
  unfold execMarkWaitTimeout
  split
  · exact .ite (.ite .next .next) .next
  · exact .next

theorem execLoadTakeEffect_answers {n : Fin 4} : Answers (execLoadTakeEffect n s) := by
  unfold execLoadTakeEffect
  dsimp only
  split
  · exact .next
  · exact .ite .next .next

theorem execResultBeat_answers {n : Fin 4} {h0 : Option Word} {h1 : Word} {vs : List Word}
    (h : (h0.isNone || vs.length == 1024) = true) : Answers (execResultBeat n h0 h1 vs s) := by
  have hform : ¬ (h0.isSome && vs.length != 1024) = true := by cases h0 <;> simp_all
  rw [execResultBeat, if_neg hform]
  refine .ite .next (.ite .next ?_)
  dsimp only
  split
  · exact .next
  · exact .ite .next .next

theorem execTailPassStart_answers {n : Fin 4} : Answers (execTailPassStart n s) := by
  unfold execTailPassStart
  dsimp only
  split
  · exact .next
  · exact .ite .next .next

theorem execProductAnnounce_answers {n : Fin 4} : Answers (execProductAnnounce n s) := by
  unfold execProductAnnounce
  dsimp only
  split
  · exact .next
  · split
    · exact .ite .next (.ite .next (.ite (.ite .next .next) .next))
    · exact .next

theorem execOperandRequest_answers {n : Fin 4} {hdr : Word} : Answers (execOperandRequest n hdr s) := by
  refine .ite .next ?_
  dsimp only
  split
  · exact .next
  · exact .ite .next .next

theorem execProductComplete_answers {n : Fin 4} : Answers (execProductComplete n s) := by
  unfold execProductComplete
  dsimp only
  split <;> exact .next

theorem execRelayStallTimeout_answers {n : Fin 4} : Answers (execRelayStallTimeout n s) := by
  unfold execRelayStallTimeout
  split
  · split
    · exact .ite .next .next
    · exact .next
  · exact .next

theorem execProdCount_answers {n : Fin 256} : Answers (execProdCount n s) := by
  unfold execProdCount
  split
  · exact .ite .next .next
  · exact .next

theorem execCbEntryTimeout_answers {p : Fin 34} {w : BitVec 24} : Answers (execCbEntryTimeout p w s) := by
  unfold execCbEntryTimeout
  split <;> exact .next

theorem execBuoyWatchdog_answers {w : Waiter} : Answers (execBuoyWatchdog w s) := by
  unfold execBuoyWatchdog
  split
  · exact .next
  · refine .ite .next ?_
    split
    case h_1 => exact .ite .next .next
    case h_2 => split <;> exact .next
    case h_3 => exact .ite .next .next
    case h_4 => dsimp only; split <;> exact .next

theorem execMemReadResponse_answers {p : Fin 24} {tag : BitVec 11} {st : BitVec 2} {bs : List Byte}
    (h : (bs.length == 256) = true) : Answers (execMemReadResponse p tag st bs s) := by
  rw [execMemReadResponse, if_neg (by simpa using h)]
  refine .ite .next ?_
  split
  · exact .ite .next .next
  · exact .ite .next .next

theorem execMemWriteAck_answers {p : Fin 24} {tag : BitVec 9} {st : BitVec 2} : Answers (execMemWriteAck p tag st s) := by
  refine .ite .next ?_
  split
  · exact .ite .next .next
  · exact .ite .next .next

theorem execTransferComplete_answers {c : Fin 128} : Answers (execTransferComplete c s) := by
  refine .ite .next ?_
  split <;> exact .next

theorem execTransferStart_answers : Answers (execTransferStart s) := by
  unfold execTransferStart
  split
  · exact .next
  · refine .ite .next ?_
    dsimp only
    split
    case h_1 => exact .next
    case h_2 => exact .next
    case h_3 => exact .ite .next .next
    case h_4 => exact .next

theorem execDescriptorFetch_answers {n : Fin 3} : Answers (execDescriptorFetch n s) := by
  unfold execDescriptorFetch
  dsimp only
  split
  · exact .ite .next .next
  · exact .next

theorem execSysResponse_answers {tag : BitVec 5} {st : BitVec 2} {bs : List Byte} (h : (bs.length == 64) = true) :
    Answers (execSysResponse tag st bs s) := by
  rw [execSysResponse, if_neg (by simpa using h)]
  refine .ite .next ?_
  split
  · exact .ite .next .next
  · exact .ite .next .next

theorem execEventRecordWrite_answers : Answers (execEventRecordWrite s) := by
  unfold execEventRecordWrite
  split
  · exact .next
  · refine .ite ?_ .next
    dsimp only
    split <;> exact .next

theorem execLaunch_answers : Answers (execLaunch s) := by
  unfold execLaunch
  split
  · exact .next
  · dsimp only
    split
    · exact .next
    · exact .ite .next .next

theorem execSectorFillDone_answers {sec : Fin 64} : Answers (execSectorFillDone sec s) := by
  unfold execSectorFillDone
  split
  · refine .ite ?_ .next
    split
    · exact .ite .next (.ite .next .next)
    · exact .next
  · exact .next

theorem execSectorBistDone_answers {p : Fin 68} {pass : Bool} : Answers (execSectorBistDone p pass s) := by
  unfold execSectorBistDone
  split
  · exact .next
  · refine .ite .next ?_
    split
    · exact .ite .next .next
    · exact .next

theorem execFaultSequencerStart_answers {found : Option Detected} : Answers (execFaultSequencerStart found s) := by
  refine .ite .next ?_
  dsimp only
  split
  · exact .next
  · exact .ite .next (.ite .next (.ite .next .next))

theorem execSpareBistDone_answers {p : Fin 34} {pass : Bool} : Answers (execSpareBistDone p pass s) := by
  unfold execSpareBistDone
  split
  · exact .ite .next (.ite .next (.ite .next .next))
  · exact .next

theorem execAbortAckFall_answers {port : PortId} : Answers (execAbortAckFall port s) := by
  cases port with
  | fp n => exact .ite .next .next
  | ring n => exact .ite .next .next
  | _ => exact .next

theorem execCoreDivSwitch_answers : Answers (execCoreDivSwitch s) := by
  unfold execCoreDivSwitch
  split
  · exact .ite .next .next
  · exact .next

theorem execSbPowerAnswer_answers {d : BitVec 7} {fail : Bool} : Answers (execSbPowerAnswer d fail s) := by
  refine .ite .next (.ite .next ?_)
  split
  · exact .next
  · exact .ite .next .next

theorem execSbPowerTimeout_answers {d : BitVec 7} : Answers (execSbPowerTimeout d s) := by
  unfold execSbPowerTimeout
  split
  · exact .ite .next .next
  · exact .next

theorem execEclipseEntry_answers : Answers (execEclipseEntry s) := by
  refine .ite (.ite .next (.ite .next .next)) ?_
  split
  · exact .next
  · exact .ite (.ite .next .next) (.ite .next .next)

theorem execValidLowered_answers {port : PortId} : Answers (execValidLowered port s) := by
  cases port <;> exact .ite .next .next

end

/-- Every command whose data have the length of its port completes, in every state: one case per meaning. -/
theorem exec_answers (c : Instr) (s : State) (h : c.wf = true) : Answers (exec c s) :=
  match c, h with
  | .bundleIssue, _ => .ite .next .next
  | .bundleFetch, _ => .ite .next (.ite .next (.ite .next .next))
  | .streamWindowService, _ => .ite .next .next
  | .prodCount _, _ => execProdCount_answers
  | .fenceComplete, _ => .ite .next .next
  | .endComplete, _ => .ite .next .next
  | .cbEntryTimeout _ _, _ => execCbEntryTimeout_answers
  | .osuraAsyncServe _, _ => .ite .next .next
  | .scrubRequest _, _ => .ite .next (.ite .next .next)
  | .asyncShareApply, _ => .ite .next .next
  | .farSettingsApply, _ => .ite .next .next
  | .sectorFillDone _, _ => execSectorFillDone_answers
  | .sectorCloseDrained _, _ => .ite .next .next
  | .darkenTimeout _, _ => .ite .next .next
  | .sectorBistDone _ _, _ => execSectorBistDone_answers
  | .bistCmd _, _ => .next
  | .buoyDrainEnd _, _ => .ite .next .next
  | .buoyWatchdog _, _ => execBuoyWatchdog_answers
  | .buoySel _, _ => .next
  | .doorbellWrite _ _, _ => .next
  | .descriptorFetch _, _ => execDescriptorFetch_answers
  | .launch, _ => execLaunch_answers
  | .keeperPause, _ => .next
  | .keeperResume, _ => .next
  | .transferStart, _ => execTransferStart_answers
  | .memRequestIssue _, _ => .ite .next .next
  | .memReadResponse _ _ _ _, h => execMemReadResponse_answers h
  | .memWriteAck _ _ _, _ => execMemWriteAck_answers
  | .memTimeout _ _ _, _ => .ite .next .next
  | .transferComplete _, _ => execTransferComplete_answers
  | .tdResume _, _ => .next
  | .tdAbort _, _ => .next
  | .light, _ => startCtl_answers 1 actLight s
  | .darken, _ => startCtl_answers 2 actDarken s
  | .moor, _ => startCtl_answers 3 actMoor s
  | .arm, _ => startCtl_answers 4 actArm s
  | .free, _ => startCtl_answers 5 actFree s
  | .load, _ => startCtl_answers 6 (actLantern true) s
  | .start, _ => startCtl_answers 7 (actLantern false) s
  | .mark, _ => startCtl_answers 8 actMark s
  | .release, _ => startCtl_answers 9 actRelease s
  | .pause, _ => startCtl_answers 0x0A actPause s
  | .resume, _ => startCtl_answers 0x0B actResume s
  | .abort, _ => startCtl_answers 0x0C actAbort s
  | .tdcmd, _ => startCtl_answers 0x0D actTdcmd s
  | .eclipse, _ => startCtl_answers 0x0E actEclipse s
  | .token, _ => startCtl_answers 0x0F actToken s
  | .note, _ => startCtl_answers 0x10 (fun _ _ s => .done 0 s) s
  | .loadTakeEffect _, _ => execLoadTakeEffect_answers
  | .productAnnounce _, _ => execProductAnnounce_answers
  | .operandRequest _ _, _ => execOperandRequest_answers
  | .resultBeat _ _ _ _, h => execResultBeat_answers h
  | .tailPassStart _, _ => execTailPassStart_answers
  | .relayStallTimeout _, _ => execRelayStallTimeout_answers
  | .productComplete _, _ => execProductComplete_answers
  | .fpAbortAck _, _ => .ite .next (.ite .next .next)
  | .fpAbortTimeout _, _ => .ite .next .next
  | .data _ _ _, h => arrive_answers h _ _ _ _
  | .credit _ _ _, h => arrive_answers h _ _ _ _
  | .ack _ _ _, h => arrive_answers h _ _ _ _
  | .nak _ _ _, h => arrive_answers h _ _ _ _
  | .pktMark _ _ _, h => arrive_answers h _ _ _ _
  | .pktSeal _ _ _, h => arrive_answers h _ _ _ _
  | .closed _ _ _, h => arrive_answers h _ _ _ _
  | .mabort _ _ _, h => arrive_answers h _ _ _ _
  | .pktHold _ _ _, h => arrive_answers h _ _ _ _
  | .pktRelease _ _ _, h => arrive_answers h _ _ _ _
  | .mreq _ _ _, h => arrive_answers h _ _ _ _
  | .packetForward _ _ _, h => execPacketForward_answers h _ _
  | .packetSend _, _ => execPacketSend_answers
  | .ringCreditReturn _ _ _, _ => .ite .next (.ite .next .next)
  | .linkDown _, _ => .ite .next .next
  | .ringAbortAck _, _ => .ite (.ite .next .next) .next
  | .sendWatchdog _, _ => execSendWatchdog_answers
  | .markTimeout, _ => .ite (.ite .next .next) .next
  | .markWaitTimeout, _ => execMarkWaitTimeout_answers
  | .epochTimer, _ => .ite .next .next
  | .closeCapture, _ => execCloseCapture_answers
  | .closeComplete, _ => .next
  | .logMirrorGranule, _ => execLogMirrorGranule_answers
  | .logEnable _, _ => .next
  | .logDisable _, _ => .next
  | .restoreDirty, _ => .next
  | .restoreFull, _ => .next
  | .restoreComplete, _ => execRestoreComplete_answers
  | .faultSequencerStart _, _ => execFaultSequencerStart_answers
  | .spareBistDone _ _, _ => execSpareBistDone_answers
  | .fltUnfence _, _ => .next
  | .foghornStart, _ => .ite .next .next
  | .foghornEnd, _ => .ite .next .next
  | .throttleRelease, _ => .ite .next .next
  | .coreDivSwitch, _ => execCoreDivSwitch_answers
  | .brownOut, _ => .next
  | .powerOnReset, _ => .next
  | .porRelease, _ => .ite .next .next
  | .blockReset, _ => .next
  | .blockResetRelease, _ => .next
  | .clusterBistDone _, _ => .ite .next (.ite .next (.ite .next .next))
  | .daymarkWord _ _, _ => .ite .next (.ite .next .next)
  | .sbPowerAnswer _ _, _ => execSbPowerAnswer_answers
  | .sbPowerTimeout _, _ => execSbPowerTimeout_answers
  | .sbWake, _ => .next
  | .eclipseEntry, _ => execEclipseEntry_answers
  | .eclipseWake, _ => .ite .next (.ite .next .next)
  | .eventRecordWrite, _ => execEventRecordWrite_answers
  | .eringHeadWrite _, _ => .next
  | .sysResponse _ _ _, h => execSysResponse_answers h
  | .sysTimeout _, _ => .ite .next .next
  | .ringEnable _ _, _ => .next
  | .workNextseqLo _, _ => .next
  | .moSel _, _ => .next
  | .engFlagsWrite _, _ => .next
  | .bcastWrite _ _ _, _ => .next
  | .bcastRead _ _, _ => .next
  | .counterRead _, _ => .next
  | .counterClear _, _ => .next
  | .traceRestart _, _ => .next
  | .wsBypass, _ => .next
  | .wsExtest, _ => .next
  | .wsIntest, _ => .next
  | .dmRead, _ => .next
  | .wrstnFall, _ => .next
  | .registerWrite _ _, _ => .next
  | .linkUpRise _, _ => .next
  | .ringAbortTimeout _, _ => .ite .next .next
  | .brownOutRelease, _ => .next
  | .abortAckFall _, _ => execAbortAckFall_answers
  | .reservedKindArrival _ _ _, h => arrive_answers h _ _ _ _
  | .inboundFramingViolation _, _ => .ite .next .next
  | .validLowered _, _ => execValidLowered_answers

/-- A command whose data have not the length of its port is refused, in every state. -/
theorem exec_refused (c : Instr) (s : State) (h : c.wf = false) : exec c s = .refused .illFormed := by
  cases c with
  | memReadResponse p tag st bs => exact if_pos (congrArg not h)
  | sysResponse tag st bs => exact if_pos (congrArg not h)
  | resultBeat n h0 h1 vs =>
    refine if_pos ?_
    cases h0 with
    | none => exact nomatch h
    | some w => exact congrArg not h
  | data port hdr pl => exact arrive_refused h _ _ _ _
  | credit port hdr pl => exact arrive_refused h _ _ _ _
  | ack port hdr pl => exact arrive_refused h _ _ _ _
  | nak port hdr pl => exact arrive_refused h _ _ _ _
  | pktMark port hdr pl => exact arrive_refused h _ _ _ _
  | pktSeal port hdr pl => exact arrive_refused h _ _ _ _
  | closed port hdr pl => exact arrive_refused h _ _ _ _
  | mabort port hdr pl => exact arrive_refused h _ _ _ _
  | pktHold port hdr pl => exact arrive_refused h _ _ _ _
  | pktRelease port hdr pl => exact arrive_refused h _ _ _ _
  | mreq port hdr pl => exact arrive_refused h _ _ _ _
  | reservedKindArrival port hdr pl => exact arrive_refused h _ _ _ _
  | packetForward port hdr pl => exact if_pos (congrArg not h)
  | _ => exact nomatch h

/-- Settles O2: the meanings answer, but where their data's form is asked for. -/
theorem everyCommandAnswers : Obligations.EveryCommandAnswers :=
  fun c s => ⟨exec_answers c s, exec_refused c s⟩

end Sys2Proof.Machine

namespace Sys2Proof.Machine

/-! ### Stores that a fold fills -/

/-- A store into which a value is put for each key of a list. -/
theorem sget_foldl_sset {α : Type} [DecidableEq α] {d : α} (f : Nat → α) (l : List Nat) (k : Nat) : ∀ {m : Sparse α},
    swf d m = true → sget d (l.foldl (fun m k => sset d m k (f k)) m) k = if k ∈ l then f k else sget d m k := by
  induction l with
  | nil => exact fun _ => (if_neg List.not_mem_nil).symm
  | cons x l ih =>
    intro m hm
    rw [List.foldl_cons, ih (swf_sset x _ hm), sget_sset x k _ hm]
    by_cases hl : k ∈ l
    · simp [hl]
    · by_cases hk : k = x
      · subst hk
        simp [hl]
      · simp [hl, hk]

/-! ### Requests for power (R462, R478) -/

theorem State.powerBusy_nil {s : State} (h : s.pwr.reqs = []) (d : Nat) : s.powerBusy d = false := by
  simp [State.powerBusy, h]

theorem State.clusterAsking_nil {s : State} (h : s.pwr.reqs = []) : s.clusterAsking = false := by
  simp [State.clusterAsking, h]

theorem State.mem_powerAsk (s : State) (d op : Nat) : (d, op) ∈ (s.powerAsk d op).pwr.reqs :=
  List.mem_append_right _ (List.mem_singleton_self _)

theorem State.powerBusy_powerAsk_ne {s : State} {d e : Nat} (h : e ≠ d) (op : Nat) :
    (s.powerAsk d op).powerBusy e = s.powerBusy e := by
  simp [State.powerBusy, State.powerAsk, h.symm]

/-- An ON or RESUME leaves the domains as they are until it is answered. -/
theorem State.powerAsk_on {op : Nat} (h : op ≠ 0) (h' : op ≠ 2) (s : State) (d : Nat) :
    (s.powerAsk d op).pwr.on = s.pwr.on := by
  simp [State.powerAsk, h, h']

/-- A fold of requests only adds to what is asked for. -/
theorem foldl_reqs_prefix {α : Type} {f : State → α → State} (hf : ∀ s x, s.pwr.reqs <+: (f s x).pwr.reqs) (l : List α) :
    ∀ s : State, s.pwr.reqs <+: (l.foldl f s).pwr.reqs := by
  induction l with
  | nil => exact fun s => List.prefix_rfl
  | cons x l ih => exact fun s => (hf s x).trans (ih _)

/-- With no request outstanding, no OFF due and no swap under way, there is none to make next (R478). -/
theorem clusterPump_none {s : State} (hdue : s.pwr.offDue = []) (hswap : s.flt.swapFor = []) : clusterPump s = s := by
  unfold clusterPump
  split
  · rfl
  · rw [hdue, hswap]

theorem wakeResume_awake {s : State} (h : s.rst.pstate ≠ 3) : wakeResume s = s := by
  simp [wakeResume, h]

/-- An answer that nothing waited for. -/
theorem powerNext_none {s : State} (hdue : s.pwr.offDue = []) (hswap : s.flt.swapFor = []) (h : s.rst.pstate ≠ 3) :
    powerNext s = s := by
  rw [powerNext, clusterPump_none hdue hswap, wakeResume_awake h]

/-! ### Power-on reset (R422, R424, R466, R485) -/

theorem exec_powerOnReset (s : State) :
    exec .powerOnReset s = .next (powerReset (bit s.rst.brown) s.rst.brown s) := by
  cases h : s.rst.brown <;> simp only [exec, execPowerOnReset, h] <;> rfl

theorem exec_brownOut (s : State) : exec .brownOut s = .next (powerReset 1 true s) := rfl

/-- After a power-on reset each port is fresh but for its link. -/
theorem powerReset_rport (last : Nat) (brown : Bool) {s : State} {n : Nat} (hn : n < s.ring.ports.length) :
    (powerReset last brown s).rport n = { RPort.fresh with linkUp := (s.rport n).linkUp } := by
  simp [powerReset, State.rport, hn]

/-- What a power-on reset leaves. -/
theorem powerReset_spec (last : Nat) (brown : Bool) {s : State} (hports : s.ring.ports.length = 8) :
    (powerReset last brown s).rst =
      { Rst.reset with por := true, brown := brown, brst := s.rst.brst, lastRst := last } ∧
    (∀ n < 8, (powerReset last brown s).rport n = { RPort.fresh with linkUp := (s.rport n).linkUp }) ∧
    powerReset last brown s = { State.reset with
      rst := (powerReset last brown s).rst, ln := s.ln.map (fun l => { Lantern.fresh with present := l.present })
      ring := { Ring.reset with ports := (powerReset last brown s).ring.ports }, tw := { s.tw with tested := false }
      out := s.out, free := s.free, pending := s.pending } :=
  ⟨rfl, fun _ hn => powerReset_rport last brown (hports.symm ▸ hn), rfl⟩

theorem exec_porRelease {s : State} (hpor : s.rst.por = true) (hbrown : s.rst.brown = false) (hbrst : s.rst.brst = false) :
    exec .porRelease s = .next { s with rst := { s.rst with por := false, phase := 0 } } :=
  if_pos (by simp [hpor, hbrown, hbrst])

theorem exec_porRelease_held {s : State} (h : s.rst.brown = true ∨ s.rst.brst = true) : exec .porRelease s = .next s :=
  if_neg (by obtain h | h := h <;> simp [h])

/-! ### Block reset (R425, R432, R435) -/

theorem dropSwap_frame (s : State) : dropSwap s = { s with pwr := (dropSwap s).pwr, out := (dropSwap s).out } := by
  unfold dropSwap
  split
  · split
    · exact s.powerOff_frame _
    · rfl
  · rfl

/-- Before the registers are reset, requests for power go out, and nothing else changes. -/
theorem powerDown_frame (s : State) : ∃ p o, darkenForReset (dropSwap s) = { s with pwr := p, out := o } :=
  ⟨_, _, by rw [darkenForReset_frame, dropSwap_frame]⟩

/-- What a block reset leaves of a sector's state. -/
theorem secCtl_blockReset (s : State) {k : Nat} (hk : k < 64) : ((blockReset s).secCtl k).st =
    if (s.secCtl k).st = .lit then .lit else .dark := by
  obtain ⟨p, o, hkept⟩ := powerDown_frame s
  have hsecs : (blockReset s).osura.secs =
      (upTo 64).foldl (fun m k => sset SecCtl.fresh m k (s.secCtl k).atReset) [] := by
    simp only [blockReset, hkept]
    rfl
  rw [State.secCtl, hsecs, sget_foldl_sset _ _ _ rfl, if_pos (List.mem_range.2 hk)]
  rfl

/-- What a block reset keeps, and what it puts at its Reset value (R435). -/
theorem blockReset_spec (s : State) : (blockReset s).rst.ready = false ∧ (blockReset s).rst.brst = s.rst.brst ∧
    (blockReset s).clk.cyc = 0 ∧ (blockReset s).wrun = false ∧ (blockReset s).lanes = [] ∧
    (blockReset s).osura.data = s.osura.data ∧ (blockReset s).osura.check = s.osura.check ∧
    (blockReset s).osura.q = [] ∧ (blockReset s).osura.cb = [] ∧
    (∀ k < 64, ((blockReset s).secCtl k).st = if (s.secCtl k).st = .lit then .lit else .dark) ∧
    (∀ n, (blockReset s).buoy n = Buoy.idle) ∧ (blockReset s).td.ch = [] ∧ (blockReset s).ring.moors = [] ∧
    (blockReset s).ring.en = false ∧ (blockReset s).ring.ctab = [] ∧ (blockReset s).ring.chipId = s.ring.chipId ∧
    (blockReset s).ring.jobKey = s.ring.jobKey ∧ (blockReset s).ring.rt = s.ring.rt ∧
    (∀ n : Fin 4, (blockReset s).kp.ring n = ⟨(s.kp.ring n).base, (s.kp.ring n).log2, false, 0, 0⟩) ∧
    (blockReset s).kp.nextseq = 0 ∧ (blockReset s).evq = [] ∧ (blockReset s).errs = [] ∧
    (blockReset s).flt.fenced = [] ∧ (blockReset s).flt.fatal = false ∧ (blockReset s).flt.unitdown = false ∧
    (blockReset s).log.en = false ∧ (blockReset s).log.haveMark = false ∧ (blockReset s).log.bitmapV = false ∧
    (blockReset s).log.baseA = s.log.baseA ∧ (blockReset s).log.baseB = s.log.baseB ∧ (blockReset s).dm = s.dm ∧
    (blockReset s).tw = s.tw ∧ (blockReset s).flt.swap = false ∧ (blockReset s).flt.seqbusy = false ∧
    (blockReset s).map = s.map ∧
    (blockReset s).cnt = { eng := [], cl := [], freeze := s.cnt.freeze, was := none, cleared := none } := by
  obtain ⟨p, o, hkept⟩ := powerDown_frame s
  have hsecs := fun k hk => secCtl_blockReset s (k := k) hk
  revert hsecs
  rw [blockReset, hkept]
  intro hsecs
  refine ⟨rfl, rfl, rfl, rfl, rfl, rfl, rfl, rfl, rfl, hsecs, fun n => rfl, rfl, rfl, rfl, rfl, rfl, rfl, rfl, fun n => ?_,
    rfl, rfl, rfl, rfl, rfl, rfl, rfl, rfl, rfl, rfl, rfl, rfl, rfl, rfl, rfl, rfl, rfl⟩
  fin_cases n <;> rfl

end Sys2Proof.Machine

namespace Sys2Proof.Machine

theorem assertReset_running {s : State} (h : s.unitsOff = false) : assertReset s = blockReset s :=
  if_neg (by rw [State.resetWaits, Bool.or_comm]; exact Bool.eq_false_iff.1 h)

/-- A reset that comes in Eclipse waits for the wake (R432). -/
theorem assertReset_waits {s : State} (h : s.unitsOff = true) :
    assertReset s = { s with rst := { s.rst with resetHeld := true, ready := false } } :=
  if_pos ((Bool.or_comm _ _).trans h)

theorem exec_blockReset (s : State) : exec .blockReset s = .next (
    if s.rst.por = true then { s with rst := { s.rst with brst := true } }
    else assertReset { s with rst := { s.rst with brst := true } }) := rfl

/-- The end of a block reset asks for power alone, and only where the cluster BIST is to repeat (R425). -/
theorem exec_blockResetRelease (s : State) : ∃ t, exec .blockResetRelease s = .next t ∧
    t.rst = { s.rst with brst := false } ∧ (s.rst.phase ≠ 4 → t.pwr = s.pwr) ∧
    t = { s with rst := t.rst, pwr := t.pwr, out := t.out } := by
  have hexec : exec .blockResetRelease s = .next (
      if s.rst.phase = 4 then repower { s with rst := { s.rst with brst := false } }
      else { s with rst := { s.rst with brst := false } }) := rfl
  by_cases hphase : s.rst.phase = 4
  · rw [hexec, if_pos hphase, repower_frame]
    exact ⟨_, rfl, rfl, fun h => absurd hphase h, rfl⟩
  · rw [hexec, if_neg hphase]
    exact ⟨_, rfl, rfl, fun _ => rfl, rfl⟩

/-! ### The Daymark and cluster power (R436, R463, R504) -/

/-- What bring-up asks of one domain. -/
def bringUpDomain (s : State) (d : Nat) : State :=
  if s.powerBusy d || sget false s.pwr.on d || (d < 34 && s.map.pc.getD d .spare == .fenced) then s else s.powerAsk d 1

theorem bringUp_eq (s : State) : bringUp s =
    (upTo 34 ++ fromTo 102 6).foldl bringUpDomain { s with rst := { s.rst with phase := 1 } } := rfl

theorem bringUpDomain_prefix (s : State) (d : Nat) : s.pwr.reqs <+: (bringUpDomain s d).pwr.reqs := by
  unfold bringUpDomain
  split
  · exact List.prefix_rfl
  · exact List.prefix_append _ _

/-- Bring-up asks for every domain of its list that is off and may come on. -/
theorem mem_foldl_bringUpDomain {d : Nat} (l : List Nat) : ∀ {s : State}, d ∈ l → s.powerBusy d = false →
    sget false s.pwr.on d = false → (d < 34 → s.map.pc.getD d .spare ≠ .fenced) →
    (d, 1) ∈ (l.foldl bringUpDomain s).pwr.reqs := by
  induction l with
  | nil => exact fun h => absurd h List.not_mem_nil
  | cons x l ih =>
    intro s hd hidle hoff hmay
    rw [List.foldl_cons]
    by_cases hx : d = x
    · subst hx
      have hasks : bringUpDomain s d = s.powerAsk d 1 := if_neg (by simp [hidle, hoff]; exact hmay)
      rw [hasks]
      exact (foldl_reqs_prefix bringUpDomain_prefix l _).subset (s.mem_powerAsk d 1)
    · have hrest : (bringUpDomain s x).powerBusy d = false ∧ (bringUpDomain s x).pwr.on = s.pwr.on ∧
          (bringUpDomain s x).map = s.map := by
        unfold bringUpDomain
        split
        · exact ⟨hidle, rfl, rfl⟩
        · exact ⟨(State.powerBusy_powerAsk_ne hx 1).trans hidle, State.powerAsk_on (by decide) (by decide) s x, rfl⟩
      obtain ⟨hidle', hon', hmap'⟩ := hrest
      exact ih (List.mem_of_ne_of_mem hx hd) hidle' (by rw [hon']; exact hoff) (by rw [hmap']; exact hmay)

theorem exec_daymarkWord_ignored {s : State} (h : s.rst.por = true ∨ s.dm.locked = true) (w : Word) (last : Bool) :
    exec (.daymarkWord w last) s = .next s :=
  if_pos (by simpa using h)

section
variable {s : State} (hpor : s.rst.por = false) (hopen : s.dm.locked = false) (hroom : s.dm.nwords < 32)
include hpor hopen hroom

theorem exec_daymarkWord_more (w : Word) : exec (.daymarkWord w false) s = .next { s with dm := { s.dm with
    words := s.dm.words.set s.dm.nwords w, nwords := s.dm.nwords + 1 } } := by
  show execDaymarkWord w false s = _
  simp [execDaymarkWord, hpor, hopen, hroom, Nat.succ_le_of_lt hroom]

/-- The last word locks the record, and every domain of bring-up that may come on is asked for. -/
theorem exec_daymarkWord_last (w : Word) : ∃ t, exec (.daymarkWord w true) s = .next t ∧
    t.dm.words = s.dm.words.set s.dm.nwords w ∧ t.dm.nwords = s.dm.nwords + 1 ∧ t.dm.locked = true ∧
    t.rst = { s.rst with phase := 1 } ∧
    (∀ d, d < 34 ∨ (102 ≤ d ∧ d < 108) → s.powerBusy d = false → sget false s.pwr.on d = false →
      (d < 34 → s.map.pc.getD d .spare ≠ .fenced) → (d, 1) ∈ t.pwr.reqs) ∧
    t = { s with dm := t.dm, rst := t.rst, pwr := t.pwr, out := t.out } := by
  have hcap : min 32 (s.dm.nwords + 1) = s.dm.nwords + 1 := by omega
  have hexec : ∃ crc, exec (.daymarkWord w true) s = .next (bringUp { s with dm := { s.dm with
      words := s.dm.words.set s.dm.nwords w, nwords := s.dm.nwords + 1, locked := true, crcErr := crc } }) := by
    show ∃ crc, execDaymarkWord w true s = _
    simp only [execDaymarkWord, hpor, hopen, hroom, hcap, Bool.or_false, Bool.false_eq_true, if_false, if_true,
      Bool.not_true]
    exact ⟨_, rfl⟩
  obtain ⟨crc, hexec⟩ := hexec
  refine ⟨_, hexec, ?_, ?_, ?_, ?_, fun d hd hidle hoff hmay => ?_, ?_⟩
  case refine_5 =>
    rw [bringUp_eq]
    refine mem_foldl_bringUpDomain _ ?_ hidle hoff hmay
    obtain hd | ⟨hlo, hhi⟩ := hd
    · exact List.mem_append_left _ (List.mem_range.2 hd)
    · exact List.mem_append_right _ (mem_fromTo.2 ⟨hlo, hhi⟩)
  all_goals rw [bringUp_frame]

end

/-! ### Power answers (R441, R462) -/

theorem sbIgnored_eq (s : State) : sbIgnored s = { s with cnt := (bump 0x0270 s).cnt } := bump_frame ..

section
variable {s : State} {d : BitVec 7}

theorem State.find_powerBusy {s : State} {d : Nat} (h : s.powerBusy d = false) :
    s.pwr.reqs.find? (fun r => r.1 == d) = none := by
  simpa [State.powerBusy] using h

theorem exec_sbPowerAnswer_beyond (hpor : s.rst.por = false) (hd : 108 ≤ d.toNat) (fail : Bool) :
    exec (.sbPowerAnswer d fail) s = .next { s with cnt := (bump 0x0270 s).cnt } := by
  show execSbPowerAnswer d fail s = _
  rw [← sbIgnored_eq]
  simp [execSbPowerAnswer, hpor, hd]

theorem exec_sbPowerAnswer_unasked (hpor : s.rst.por = false) (hd : d.toNat < 108) (hidle : s.powerBusy d.toNat = false) :
    exec (.sbPowerAnswer d false) s = .next { s with cnt := (bump 0x0270 s).cnt } := by
  show execSbPowerAnswer d false s = _
  rw [← sbIgnored_eq]
  simp [execSbPowerAnswer, hpor, Nat.not_le.2 hd, State.find_powerBusy hidle]

/-- The one request that is outstanding is answered. -/
def State.powerAnswered (s : State) : State := { s with pwr := { s.pwr with reqs := [] } }

theorem exec_sbPowerAnswer {op : Nat} (hpor : s.rst.por = false) (hd : d.toNat < 108) (hreqs : s.pwr.reqs = [(d.toNat, op)])
    (fail : Bool) : exec (.sbPowerAnswer d fail) s = .next (powerNext (
      if fail then powerFail d.toNat s.powerAnswered else powerGood d.toNat op s.powerAnswered)) := by
  show execSbPowerAnswer d fail s = _
  simp [execSbPowerAnswer, hpor, Nat.not_le.2 hd, hreqs, State.powerAnswered]

/-- A request that is unanswered for 1 ms counts as answered with fail (R462). -/
theorem exec_sbPowerTimeout_late {op : Nat} (hpor : s.rst.por = false) (hd : d.toNat < 108)
    (hreqs : s.pwr.reqs = [(d.toNat, op)]) (hlate : sget 0 s.pwr.asked d.toNat + oneMs ≤ s.clk.ckr) :
    exec (.sbPowerTimeout d) s = exec (.sbPowerAnswer d true) s := by
  rw [exec_sbPowerAnswer hpor hd hreqs]
  show execSbPowerTimeout d s = _
  simp [execSbPowerTimeout, hpor, hreqs, Nat.not_lt.2 hlate, State.powerAnswered]

theorem exec_sbPowerTimeout_early {op : Nat} (hreqs : s.pwr.reqs = [(d.toNat, op)])
    (hearly : s.clk.ckr < sget 0 s.pwr.asked d.toNat + oneMs) : exec (.sbPowerTimeout d) s = .next s := by
  show execSbPowerTimeout d s = _
  simp [execSbPowerTimeout, hreqs, hearly]

theorem exec_sbPowerTimeout_unasked (hidle : s.powerBusy d.toNat = false) : exec (.sbPowerTimeout d) s = .next s := by
  show execSbPowerTimeout d s = _
  simp [execSbPowerTimeout, State.find_powerBusy hidle]

end

/-- A domain that comes on, with nothing outstanding. -/
def State.powered (s : State) (d : Nat) : State :=
  { s with pwr := { s.pwr with reqs := [], on := sset false s.pwr.on d true } }

theorem powerGood_on (s : State) (d : Nat) : powerGood d 1 s.powerAnswered =
    if (s.powered d).domUnwanted d then (s.powered d).powerOff d
    else if d < 34 then
      bistStart { s.powered d with flt := { s.flt with swapFor := s.flt.swapFor.map (fun (x : ClSwap) =>
        if x.spare = d then { x with on := true } else x) } }
    else if d < 102 then
      { s.powered d with pwr := { (s.powered d).pwr with lightOn := s.pwr.lightOn.map (fun x =>
        if s.lightHome x.1 = some (d - 34) then
          (x.1, !s.map.tested.getD (d - 34) true || (s.bist.busy && s.bist.sec == x.1)) else x) } }
    else s.powered d := rfl

theorem State.domUnwanted_powered (s : State) (d : Nat) : (s.powered d).domUnwanted d = s.domUnwanted d := rfl

end Sys2Proof.Machine

namespace Sys2Proof.Machine

section
variable {s : State} {d : BitVec 7} (hpor : s.rst.por = false) (hreqs : s.pwr.reqs = [(d.toNat, 1)])
  (hdue : s.pwr.offDue = []) (hawake : s.rst.pstate ≠ 3)
include hpor hreqs hawake

/-- A cluster that has been fenced goes off again (R64, R395). -/
theorem exec_sbPowerAnswer_fenced (hcl : d.toNat < 34) (hfenced : s.map.pc.getD d.toNat .spare = .fenced) :
    exec (.sbPowerAnswer d false) s = .next ((s.powered d.toNat).powerAsk d.toNat 0) := by
  have hunwanted : s.domUnwanted d.toNat = true := by
    rw [State.domUnwanted, if_pos hcl, hfenced]
    rfl
  have hoff : (s.powered d.toNat).powerOff d.toNat = (s.powered d.toNat).powerAsk d.toNat 0 := by
    rw [State.powerOff, State.clusterAsking_nil rfl, State.powerBusy_nil rfl]
    simp
  have hasking : ((s.powered d.toNat).powerAsk d.toNat 0).clusterAsking = true :=
    List.any_eq_true.2 ⟨_, State.mem_powerAsk .., decide_eq_true hcl⟩
  rw [exec_sbPowerAnswer hpor (by omega) hreqs, if_neg Bool.false_ne_true, powerGood_on, State.domUnwanted_powered,
    hunwanted, if_pos rfl, hoff, powerNext, clusterPump_asking hasking, wakeResume_awake (by exact hawake)]

include hdue

/-- A Lantern or a part of Tender comes on with a good answer, and has failed with a bad one. -/
theorem exec_sbPowerAnswer_unit (hlo : 102 ≤ d.toNat) (hhi : d.toNat < 108) (hswap : s.flt.swapFor = [])
    (hwanted : s.domUnwanted d.toNat = false) :
    exec (.sbPowerAnswer d false) s = .next (s.powered d.toNat) ∧
    ∃ t, exec (.sbPowerAnswer d true) s = .next t ∧
      State.Detected s.powerAnswered t (if d.toNat < 106 then 0x03 else 0x04) 8
        (if d.toNat < 106 then d.toNat - 102 else d.toNat - 106) 0xFF 0 := by
  have hcl : ¬ d.toNat < 34 := by omega
  have hsec : ¬ d.toNat < 102 := by omega
  refine ⟨?good, _, exec_sbPowerAnswer hpor hhi hreqs true, ?bad⟩
  case good =>
    rw [exec_sbPowerAnswer hpor hhi hreqs, if_neg Bool.false_ne_true, powerGood_on, State.domUnwanted_powered, hwanted,
      if_neg Bool.false_ne_true, if_neg hcl, if_neg hsec]
    exact congrArg _ (powerNext_none hdue hswap hawake)
  case bad =>
    have hnext : ∀ e, powerNext (s.powerAnswered.detect e) = s.powerAnswered.detect e := by
      intro e
      apply powerNext_none <;> unfold State.detect endRestore restoreFail <;> split <;> assumption
    rw [if_pos rfl, powerFail, if_neg hcl, if_neg hsec]
    split <;> rw [hnext] <;> exact State.detect_detected ..

/-- The last cluster to come on at bring-up starts the cluster BIST (R436). -/
theorem exec_sbPowerAnswer_cluster (hcl : d.toNat < 34) (hswap : s.flt.swapFor = [])
    (hup : s.map.pc.getD d.toNat .spare ≠ .fenced) (hphase : s.rst.phase = 1) :
    exec (.sbPowerAnswer d false) s = .next { s.powered d.toNat with rst := { s.rst with phase := 2 } } := by
  have hwanted : s.domUnwanted d.toNat = false := by
    rw [State.domUnwanted, if_pos hcl, hphase]
    simpa using hup
  have hbist : bistStart (s.powered d.toNat) = { s.powered d.toNat with rst := { s.rst with phase := 2 } } :=
    if_pos (by simp [State.powered, hphase, State.clusterPowerWait])
  have hmap : { s.powered d.toNat with flt := { s.flt with swapFor := s.flt.swapFor.map (fun (x : ClSwap) =>
      if x.spare = d.toNat then { x with on := true } else x) } } = s.powered d.toNat := by
    have hflt : { s.flt with swapFor := [] } = s.flt := by rw [← hswap]
    rw [hswap, List.map_nil, hflt]
    rfl
  rw [exec_sbPowerAnswer hpor (by omega) hreqs, if_neg Bool.false_ne_true, powerGood_on, State.domUnwanted_powered,
    hwanted, if_neg Bool.false_ne_true, if_pos hcl, hmap, hbist]
  exact congrArg _ (powerNext_none hdue hswap hawake)

/-- A sector's domain comes on. -/
theorem exec_sbPowerAnswer_sector (hlo : 34 ≤ d.toNat) (hhi : d.toNat < 102) (hswap : s.flt.swapFor = [])
    (hwanted : s.domUnwanted d.toNat = false) : ∃ t, exec (.sbPowerAnswer d false) s = .next t ∧
      t.pwr.on = sset false s.pwr.on d.toNat true ∧ t = { s with pwr := t.pwr } := by
  rw [exec_sbPowerAnswer hpor (by omega) hreqs, if_neg Bool.false_ne_true, powerGood_on, State.domUnwanted_powered,
    hwanted, if_neg Bool.false_ne_true, if_neg (by omega), if_pos hhi]
  exact ⟨_, congrArg _ (powerNext_none hdue hswap hawake), rfl, rfl⟩

end

/-! ### The end of the cluster BIST (R425, R436) -/

/-- A cluster is fenced and its domain has been asked to go off. -/
def State.FencedOff (p : Nat) (s : State) : Prop := s.map.pc[p]? = some .fenced ∧ (p, 0) ∈ s.pwr.reqs

/-- A cluster that takes an index is a spare or an idle one. -/
theorem State.pickCluster_not_fenced {s : State} {failed q : Nat} (h : s.pickCluster failed = some q) :
    s.map.pc[q]? ≠ some .fenced := by
  have hmem : q ∈ s.clusterChoices := by
    dsimp only [State.pickCluster] at h
    cases hfind : s.clusterChoices.find? (fun p => pcQuadrant p == pcQuadrant failed) with
    | some r =>
      rw [hfind] at h
      obtain rfl : r = q := by simpa using h
      exact List.mem_of_find?_eq_some hfind
    | none =>
      rw [hfind] at h
      exact List.mem_of_head? (by simpa using h)
  intro hq
  simp [State.clusterChoices, List.getD_eq_getElem?_getD, hq] at hmem

theorem bringUpFault_fencedOff (reason x : Nat) {p : Nat} {s : State} (h : s.FencedOff p) :
    (bringUpFault reason x s).FencedOff p := by
  obtain ⟨hpc, hreq⟩ := h
  unfold bringUpFault State.FencedOff
  dsimp only
  rw [faultEvent_frame]
  split
  · split
    · rename_i n _ q hpick
      have hq : q ≠ p := by
        rintro rfl
        exact State.pickCluster_not_fenced (by simpa [*] using hpick) hpc
      exact ⟨(List.getElem?_set_ne hq).trans hpc, hreq⟩
    · exact ⟨hpc, hreq⟩
  · exact ⟨hpc, hreq⟩

theorem fenceOff_fencedOff (x : Nat) {p : Nat} {s : State} (h : s.FencedOff p) : (fenceOff x s).FencedOff p := by
  obtain ⟨hpc, hreq⟩ := h
  have hpc' : (s.setPc x .fenced).map.pc[p]? = some .fenced := by
    obtain ⟨hp, -⟩ := List.getElem?_eq_some_iff.1 hpc
    by_cases hx : x = p
    · subst hx
      exact List.getElem?_set_self hp
    · exact (List.getElem?_set_ne hx).trans hpc
  unfold fenceOff
  dsimp only
  split
  · exact ⟨hpc', hreq⟩
  · exact ⟨hpc', List.mem_append_left _ hreq⟩

theorem fenceOff_self {p : Nat} {s : State} (hp : p < s.map.pc.length) (hidle : s.powerBusy p = false) :
    (fenceOff p s).FencedOff p := by
  have hasks : fenceOff p s = (s.setPc p .fenced).powerAsk p 0 := if_neg (Bool.eq_false_iff.1 hidle)
  rw [hasks]
  exact ⟨List.getElem?_set_self hp, State.mem_powerAsk ..⟩

/-- A fold keeps what each of its steps keeps. -/
theorem foldl_keeps {α : Type} {P : State → Prop} {f : State → α → State} (hf : ∀ s x, P s → P (f s x)) (l : List α) :
    ∀ {s : State}, P s → P (l.foldl f s) := by
  induction l with
  | nil => exact fun h => h
  | cons x l ih => exact fun h => ih (hf _ x h)

theorem foldl_fenceOff {p : Nat} (l : List Nat) : ∀ {s : State}, p ∈ l → p < s.map.pc.length → s.powerBusy p = false →
    (l.foldl (fun s p => fenceOff p s) s).FencedOff p := by
  induction l with
  | nil => exact fun h => absurd h List.not_mem_nil
  | cons x l ih =>
    intro s hmem hp hidle
    by_cases hx : p = x
    · subst hx
      exact foldl_keeps (fun _ y h => fenceOff_fencedOff y h) l (fenceOff_self hp hidle)
    · refine ih (List.mem_of_ne_of_mem hx hmem) ?_ ?_ <;> unfold fenceOff <;> dsimp only <;> split
      · exact hp.trans_eq List.length_set.symm
      · exact hp.trans_eq List.length_set.symm
      · exact hidle
      · exact (State.powerBusy_powerAsk_ne hx 0).trans hidle

/-- The block is READY, its clusters tested. -/
def State.tested (s : State) : State := { s with rst := { s.rst with phase := 3, bistDone := true, ready := true } }

/-- The clusters that failed the cluster BIST. -/
def State.bistFailed (s : State) (f : BitVec 34) : List Nat :=
  (upTo 34).filter (fun p => f.toNat.testBit p && s.map.pc.getD p .fenced != .fenced)

theorem State.bistFailed_zero (s : State) : s.bistFailed 0#34 = [] := by
  simp [State.bistFailed]

section
variable {s : State} (hpor : s.rst.por = false) (hbrst : s.rst.brst = false) (hheld : s.tw.held = false)
  (hpowered : s.clusterPowerWait = false)
include hpor hbrst hheld hpowered

theorem exec_clusterBistDone_bringUp (hphase : s.rst.phase = 2) (f : BitVec 34) : ∃ t,
    (s.bistFailed f).foldl (fun s p => bringUpFault 0x0A p s) ((s.bistFailed f).foldl (fun s p => fenceOff p s) s) = t ∧
    exec (.clusterBistDone f) s = .next (t.spareClusters.foldl (fun s p => s.powerAsk p 0) t).tested := by
  refine ⟨_, rfl, ?_⟩
  show execClusterBistDone f s = _
  simp only [execClusterBistDone, hpor, hbrst, hheld, hpowered, hphase, Bool.or_false, Bool.false_eq_true, if_false, if_true]
  rfl

/-- The clusters that are not used are switched off. -/
theorem exec_clusterBistDone_passed (hphase : s.rst.phase = 2) : ∃ t, exec (.clusterBistDone 0#34) s = .next t ∧
    t.rst = { s.rst with phase := 3, bistDone := true, ready := true } ∧
    (∀ p ∈ s.spareClusters, (p, 0) ∈ t.pwr.reqs) ∧ t = { s with rst := t.rst, pwr := t.pwr, out := t.out } := by
  obtain ⟨t, ht, hexec⟩ := exec_clusterBistDone_bringUp hpor hbrst hheld hpowered hphase 0#34
  rw [State.bistFailed_zero] at ht
  obtain rfl : s = t := ht
  rw [powerAsks_frame] at hexec
  exact ⟨_, hexec, rfl, fun p hp => List.mem_append_right _ (List.mem_map_of_mem hp), rfl⟩

/-- A cluster that failed is fenced and switched off. -/
theorem exec_clusterBistDone_failed (hphase : s.rst.phase = 2) (hlen : s.map.pc.length = 34) {f : BitVec 34} {p : Fin 34}
    (hf : f.getLsbD p = true) (hin : s.map.pc.getD p .fenced ≠ .fenced) (hidle : s.powerBusy p = false) : ∃ t,
    exec (.clusterBistDone f) s = .next t ∧ t.rst.ready = true ∧ t.map.pc.getD p .spare = .fenced ∧
      (p.val, 0) ∈ t.pwr.reqs := by
  obtain ⟨t, ht, hexec⟩ := exec_clusterBistDone_bringUp hpor hbrst hheld hpowered hphase f
  have hbad : p.val ∈ s.bistFailed f :=
    List.mem_filter.2 ⟨List.mem_range.2 p.isLt, by simpa using ⟨hf, by simpa using hin⟩⟩
  have hoff : t.FencedOff p := by
    rw [← ht]
    exact foldl_keeps (fun _ x h => bringUpFault_fencedOff 0x0A x h) _
      (foldl_fenceOff _ hbad (p.isLt.trans_eq hlen.symm) hidle)
  obtain ⟨hpc, hreq⟩ := hoff
  rw [powerAsks_frame] at hexec
  refine ⟨_, hexec, rfl, ?_, List.mem_append_left _ hreq⟩
  show t.map.pc.getD p .spare = .fenced
  rw [List.getD_eq_getElem?_getD, hpc]
  rfl

theorem exec_clusterBistDone_again (hphase : s.rst.phase = 4) : exec (.clusterBistDone 0#34) s = .next s.tested := by
  show execClusterBistDone 0#34 s = _
  simp [execClusterBistDone, hpor, hbrst, hheld, hpowered, hphase, State.tested]

end

theorem exec_clusterBistDone_ignored {s : State} (h2 : s.rst.phase ≠ 2) (h4 : s.rst.phase ≠ 4) (f : BitVec 34) :
    exec (.clusterBistDone f) s = .next s := by
  show execClusterBistDone f s = _
  simp [execClusterBistDone, h2, h4]

/-- Settles O11: each command of power, reset and bring-up by its own lemmas above. -/
theorem resetsAndBringUp : Obligations.ResetsAndBringUp := by
  intro s _ hports hpc
  refine ⟨fun c hc => ?powerOn, rfl, exec_porRelease, exec_porRelease_held, fun hpor hoff => ?blockReset, fun hpor => ?held,
    fun hpor hoff => ?eclipse, exec_blockResetRelease s, fun w => ⟨fun h last => exec_daymarkWord_ignored h w last,
    fun hpor hopen hroom => ⟨exec_daymarkWord_more hpor hopen hroom w, exec_daymarkWord_last hpor hopen hroom w⟩⟩,
    fun d hpor => ?answers, fun hpor hbrst hheld hpowered => ?bist, fun f h2 h4 => exec_clusterBistDone_ignored h2 h4 f⟩
  case powerOn =>
    have hspec := fun last brown => powerReset_spec last brown hports
    obtain rfl | rfl : c = .powerOnReset ∨ c = .brownOut := by simpa using hc
    · rw [exec_powerOnReset, show (Instr.powerOnReset == Instr.brownOut) = false from by decide, Bool.or_false]
      exact ⟨_, rfl, hspec ..⟩
    · rw [exec_brownOut, show (Instr.brownOut == Instr.brownOut) = true from by decide, Bool.or_true]
      exact ⟨_, rfl, hspec 1 true⟩
  case blockReset =>
    rw [exec_blockReset, if_neg (by simp [hpor]), assertReset_running (by exact hoff)]
    exact ⟨_, rfl, blockReset_spec _⟩
  case held => rw [exec_blockReset, if_pos hpor]
  case eclipse => rw [exec_blockReset, if_neg (by simp [hpor]), assertReset_waits (by exact hoff)]
  case answers =>
    refine ⟨fun hd f => exec_sbPowerAnswer_beyond hpor hd f, exec_sbPowerAnswer_unasked hpor,
      fun hlo hhi hreqs hdue hawake hswap hwanted => ?_, fun hcl hreqs _ hawake hfenced => ?_,
      fun hcl hreqs hdue hawake hswap hup hphase => ?_, fun hlo hhi hreqs hdue hawake hswap hwanted =>
        exec_sbPowerAnswer_sector hpor hreqs hdue hawake hlo hhi hswap hwanted, exec_sbPowerTimeout_unasked⟩
    · obtain ⟨hgood, hbad⟩ := exec_sbPowerAnswer_unit hpor hreqs hdue hawake hlo hhi hswap hwanted
      exact ⟨hgood, hbad, exec_sbPowerTimeout_late hpor hhi hreqs, exec_sbPowerTimeout_early hreqs⟩
    · exact exec_sbPowerAnswer_fenced hpor hreqs hawake hcl hfenced
    · exact ⟨_, exec_sbPowerAnswer_cluster hpor hreqs hdue hawake hcl hswap hup hphase, rfl, rfl, rfl, rfl⟩
  case bist =>
    exact ⟨exec_clusterBistDone_passed hpor hbrst hheld hpowered, fun f p hphase hf hin hidle =>
      exec_clusterBistDone_failed hpor hbrst hheld hpowered hphase hpc hf hin hidle,
      exec_clusterBistDone_again hpor hbrst hheld hpowered⟩

end Sys2Proof.Machine

namespace Sys2Proof.Machine

/-! ### Entry (R428, R429) -/

/-- An ECLIPSE completes once the block is quiescent, with room for its event and no error to handle. -/
theorem exec_eclipseEntry_starts {s : State} {num : Nat} (hwaits : s.rst.eclipse = some num) (hrun : s.rst.pstate = 0)
    (hon : s.rst.entered = false) (hquiet : s.quiescent = true) (hroom : s.evRoom = true) (herrs : s.errs = []) :
    exec .eclipseEntry s = .next (({ s with rst := { s.rst with pstate := 1 } }).settle num false) := by
  show execEclipseEntry s = _
  simp [execEclipseEntry, hwaits, hrun, hon, hquiet, hroom, herrs]

theorem State.quiescent_wrun {s : State} (h : s.wrun = true) : s.quiescent = false := by
  simp [State.quiescent, State.allIdle, h]

theorem exec_eclipseEntry_unquiet {s : State} {num : Nat} (hwaits : s.rst.eclipse = some num) (hrun : s.rst.pstate = 0)
    (hon : s.rst.entered = false)
    (h : s.wrun = true ∨ s.quiescent = false ∨ s.errs ≠ [] ∨ s.evRoom = false) : exec .eclipseEntry s = .next s := by
  have hnot : (s.quiescent && s.evRoom && s.errs.isEmpty) = false := by
    obtain h | h | h | h := h
    · simp [State.quiescent_wrun h]
    · simp [h]
    · simp [h]
    · simp [h]
  show execEclipseEntry s = _
  simp [execEclipseEntry, hwaits, hrun, hon, hnot]

theorem exec_eclipseEntry_unwritten {s : State} {num : Nat} (hwaits : s.rst.eclipse = some num) (hentry : s.rst.pstate = 1)
    (hon : s.rst.entered = false) (h : s.entryReady = false ∨ s.errs ≠ []) : exec .eclipseEntry s = .next s := by
  have hnot : (s.entryReady && s.errs.isEmpty) = false := by
    obtain h | h := h <;> simp [h]
  show execEclipseEntry s = _
  simp [execEclipseEntry, hwaits, hentry, hon, hnot]

theorem exec_eclipseEntry_enters {s : State} {num : Nat} (hwaits : s.rst.eclipse = some num) (hentry : s.rst.pstate = 1)
    (hon : s.rst.entered = false) (hready : s.entryReady = true) (herrs : s.errs = []) :
    exec .eclipseEntry s = .next (enterEclipse s) := by
  show execEclipseEntry s = _
  simp [execEclipseEntry, hwaits, hentry, hon, hready, herrs]

theorem exec_eclipseEntry_none {s : State} (h : s.rst.eclipse = none) (hon : s.rst.entered = false) :
    exec .eclipseEntry s = .next s := by
  show execEclipseEntry s = _
  simp [execEclipseEntry, h, hon]

theorem exec_eclipseEntry_asking {s : State} (hoff : s.rst.entered = true) (h : s.pwr.reqs ≠ []) :
    exec .eclipseEntry s = .next s := by
  show execEclipseEntry s = _
  simp [execEclipseEntry, hoff, h]

theorem exec_eclipseEntry_stops {s : State} (hoff : s.rst.entered = true) (h : s.pwr.reqs = [])
    (hreset : s.rst.resetHeld = false) : exec .eclipseEntry s = .next { s with
      clk := { s.clk with stopped := true }, rst := { s.rst with pstate := 2, entered := false } } := by
  show execEclipseEntry s = _
  simp [execEclipseEntry, hoff, h, hreset]

/-! ### A discard refuses a waiting ECLIPSE (R428, R432) -/

/-- From `s` to `t` events may have been queued, and the registers of reset and Eclipse are as they were. -/
def State.OnlyTells (s t : State) : Prop := t.rst = s.rst ∧ s.evq <+: t.evq

theorem State.OnlyTells.refl (s : State) : s.OnlyTells s := ⟨rfl, List.prefix_rfl⟩

theorem State.OnlyTells.trans {s t u : State} (h : s.OnlyTells t) (g : t.OnlyTells u) : s.OnlyTells u :=
  ⟨g.1.trans h.1, h.2.trans g.2⟩

theorem ctlPump_onlyTells (s : State) : s.OnlyTells (ctlPump s) := ⟨by rw [ctlPump_frame], ctlPump_evq s⟩

theorem State.settle_onlyTells (s : State) (num : Nat) (failed : Bool) : s.OnlyTells (s.settle num failed) :=
  ⟨by rw [State.settle_frame], s.settle_evq num failed⟩

theorem State.settlePauses_onlyTells (s : State) : s.OnlyTells s.settlePauses :=
  ctlPump_onlyTells _

theorem lnRaiseAbort_onlyTells (n : Nat) (s : State) : s.OnlyTells (lnRaiseAbort n s) := by
  unfold lnRaiseAbort
  split <;> exact .refl s

theorem lnAbandon_onlyTells (n : Nat) (all : Bool) (s : State) : s.OnlyTells (lnAbandon n all s) := by
  unfold lnAbandon
  dsimp only
  split
  · exact List.foldlRecOn (motive := fun t => s.OnlyTells t) _ _ (.refl s)
      (fun t ht c _ => ht.trans (t.settle_onlyTells c true))
  · exact .refl s

theorem lnDrop_onlyTells (n : Nat) (all : Bool) (s : State) : s.OnlyTells (lnDrop n all s) := by
  unfold lnDrop
  dsimp only
  split
  · exact (lnAbandon_onlyTells n all s).trans (lnRaiseAbort_onlyTells n _)
  · exact .refl s

theorem discardRing_onlyTells (s : State) : s.OnlyTells (discardRing s) := by
  rw [(discardRing_dropsArrivals s).1]
  exact .refl s

/-- The registers once an ECLIPSE that waited is refused. -/
def Rst.eclipseRefused (r : Rst) : Rst := { r with eclipse := none, pstate := 0, wakeHeld := none }

theorem refuseEclipse_some {s : State} {num : Nat} (h : s.rst.eclipse = some num) :
    (refuseEclipse s).rst = s.rst.eclipseRefused ∧ s.evq <+: (refuseEclipse s).evq := by
  unfold refuseEclipse
  rw [h]
  dsimp only
  refine ⟨by rw [ctlPump_frame]; rfl, List.IsPrefix.trans ?_ (ctlPump_evq _)⟩
  exact List.prefix_rfl

theorem discard_eclipse {s : State} {num : Nat} (h : s.rst.eclipse = some num) :
    (discard s).rst = s.rst.eclipseRefused ∧ s.evq <+: (discard s).evq := by
  unfold discard
  extract_lets slots a q oa b c d lns e
  have hb : s.OnlyTells b := .refl s
  clear_value b
  have hc : b.OnlyTells c := discardRing_onlyTells b
  clear_value c
  have hd : c.OnlyTells d :=
    List.foldlRecOn (motive := fun t => c.OnlyTells t) _ _ (.refl c) (fun t ht n _ => ht.trans (lnDrop_onlyTells n true t))
  clear_value d
  have he : s.OnlyTells (clearStream e) := (hb.trans hc).trans hd
  generalize clearStream e = u at he
  obtain ⟨hrst, hevq⟩ := he
  obtain ⟨hrefused, htold⟩ := refuseEclipse_some (by rw [hrst]; exact h)
  obtain ⟨hsame, htold'⟩ := (refuseEclipse u).settlePauses_onlyTells
  exact ⟨by rw [hsame, hrefused, hrst], (hevq.trans htold).trans htold'⟩

/-- The fault of a unit without a spare reports, and does no more to the registers of reset and Eclipse than its discard. -/
theorem handleFault_unit_onlyTells {e : ErrRec} (hlo : 3 ≤ e.kind) (hhi : e.kind ≤ 10) (s : State) :
    (e.clear s).OnlyTells (handleFault e s) := by
  rw [handleFault_unit hlo hhi, reportFault_reports, fenceUnit_frame]
  exact ⟨rfl, List.prefix_append _ _⟩

/-- An error found while an ECLIPSE waits refuses it. -/
theorem exec_faultSequencerStart_eclipse {s : State} {num : Nat} {e : ErrRec} {rest : List ErrRec}
    (hwaits : s.rst.eclipse = some num) (herrs : s.errs = e :: rest) (hlo : 3 ≤ e.kind) (hhi : e.kind ≤ 10)
    (huncovered : e.covered = false) (hready : s.rst.ready = true) (hon : s.unitsOff = false)
    (hidle : s.flt.seqbusy = false) (hev : s.evWaiting < 68) : ∃ t, exec (.faultSequencerStart none) s = .next t ∧
      t.rst = { s.rst with eclipse := none, pstate := 0, wakeHeld := none } ∧ s.evq <+: t.evq := by
  have hclear : ∀ u : State, e.clear u = discard u := fun u => if_neg (Bool.eq_false_iff.1 huncovered)
  obtain ⟨hrst, hevq⟩ := handleFault_unit_onlyTells hlo hhi { s with errs := rest }
  rw [hclear] at hrst hevq
  obtain ⟨hrefused, htold⟩ := discard_eclipse (s := { s with errs := rest }) hwaits
  exact ⟨_, exec_faultSequencerStart_handles herrs hready (by omega) (by omega) hon hev hidle, hrst.trans hrefused,
    htold.trans hevq⟩

end Sys2Proof.Machine

namespace Sys2Proof.Machine

/-! ### Stores read at several keys -/

/-- Dropping a key leaves what later keys read as, whatever the order of the store. -/
theorem sget_serase_lt {α : Type} {d : α} {a c : Nat} (h : a < c) : ∀ m : Sparse α, sget d (serase m a) c = sget d m c
  | [] => rfl
  | (k, v) :: m => by
    unfold serase
    split
    · have hk : k ≠ c := by omega
      have hc : ¬ c < k := by omega
      simp [sget, hk, hc]
    · split
      · rfl
      · simp [sget, sget_serase_lt h m]

/-- A store copied entry by entry reads as the image of the first; `g` maps what an unlisted key reads as. -/
theorem sget_foldl_image {α β : Type} [DecidableEq β] {d : α} {d' : β} {g : α → β} (hg : g d = d') (l : Sparse α) (p : Nat) :
    ∀ {b : Nat} {m : Sparse β}, swfFrom d b l → swf d' m = true → (∀ q, b ≤ q → sget d' m q = d') →
      sget d' (l.foldl (fun m x => sset d' m x.1 (g x.2)) m) p = if b ≤ p then g (sget d l p) else sget d' m p := by
  induction l with
  | nil =>
    intro b m _ _ hempty
    by_cases hb : b ≤ p
    · rw [if_pos hb]
      exact (hempty p hb).trans hg.symm
    · rw [if_neg hb]
      rfl
  | cons x l ih =>
    obtain ⟨k, v⟩ := x
    intro b m hl hm hempty
    obtain ⟨hbk, -, hrest⟩ := swfFrom_cons.1 hl
    have hread := fun q => sget_sset k q (g v) hm
    have hempty' : ∀ q, k + 1 ≤ q → sget d' (sset d' m k (g v)) q = d' := fun q hq => by
      rw [hread, if_neg (by omega)]
      exact hempty q (by omega)
    rw [List.foldl_cons, ih hrest (swf_sset _ _ hm) hempty', hread]
    obtain hp | rfl | hp := Nat.lt_trichotomy p k
    · have hk : k ≠ p := by omega
      rw [if_neg (by omega), if_neg (by omega)]
      by_cases hb : b ≤ p
      · rw [if_pos hb, hempty p hb]
        simp [sget, hk, hp, hg]
      · rw [if_neg hb]
    · rw [if_neg (by omega), if_pos rfl, if_pos hbk]
      simp [sget]
    · have hk : k ≠ p := by omega
      have hpk : ¬ p < k := by omega
      rw [if_pos (by omega), if_pos (by omega)]
      simp [sget, hk, hpk]

/-! ### Sectors that go to Retention (R429) -/

theorem State.modSec_canon {s : State} (h : swf SecCtl.fresh s.osura.secs = true) (k : Nat) (f : SecCtl → SecCtl) :
    swf SecCtl.fresh (s.modSec k f).osura.secs = true := swf_smod k f h

/-- A sector's controller in Retention. -/
def SecCtl.retain (c : SecCtl) : SecCtl := { c with st := .retention, scrubWait := false, scrubOver := false }

/-- Entry asks that a sector be retained. -/
def retainSector (s : State) (k : Nat) : State :=
  match s.psecOf k with
  | some p => (s.modSec k SecCtl.retain).powerAsk (secDom p) 2
  | none => s.modSec k SecCtl.retain

theorem retainSector_frame (s : State) (k : Nat) : retainSector s k = { s with
    osura := { s.osura with secs := (s.modSec k SecCtl.retain).osura.secs }
    pwr := (retainSector s k).pwr, out := (retainSector s k).out } := by
  unfold retainSector
  split <;> rfl

theorem retainSector_reqs (s : State) (k : Nat) : s.pwr.reqs <+: (retainSector s k).pwr.reqs := by
  unfold retainSector
  split
  · exact List.prefix_append _ _
  · exact List.prefix_rfl

theorem mem_retainSector {s : State} {k p : Nat} (h : s.psecOf k = some p) : (34 + p, 2) ∈ (retainSector s k).pwr.reqs := by
  rw [retainSector, h]
  exact State.mem_powerAsk ..

/-- Retaining a sector leaves the domains of Lanterns and Tender as they are. -/
theorem retainSector_on {s : State} {k d : Nat} (hp : ∀ p, s.psecOf k = some p → p < 68) (hd : 102 ≤ d) :
    sget false (retainSector s k).pwr.on d = sget false s.pwr.on d := by
  unfold retainSector
  split
  · rename_i p hk
    have hlt : secDom p < d := by
      have := hp p hk
      unfold secDom
      omega
    exact sget_serase_lt hlt _
  · rfl

theorem foldl_retainSector_frame (l : List Nat) : ∀ s : State, l.foldl retainSector s = { s with
    osura := { s.osura with secs := (l.foldl retainSector s).osura.secs }
    pwr := (l.foldl retainSector s).pwr, out := (l.foldl retainSector s).out } := by
  induction l with
  | nil => exact fun _ => rfl
  | cons k l ih =>
    intro s
    rw [List.foldl_cons, ih, retainSector_frame]

theorem secCtl_retainSector {s : State} (h : swf SecCtl.fresh s.osura.secs = true) (k n : Nat) :
    (retainSector s k).secCtl n = if n = k then (s.secCtl k).retain else s.secCtl n := by
  rw [retainSector_frame]
  exact s.secCtl_modSec k n SecCtl.retain h

theorem secCtl_foldl_retainSector (n : Nat) (l : List Nat) : ∀ {s : State}, swf SecCtl.fresh s.osura.secs = true →
    ((l.foldl retainSector s).secCtl n).st = if n ∈ l then .retention else (s.secCtl n).st := by
  induction l with
  | nil => exact fun _ => (if_neg List.not_mem_nil).symm
  | cons k l ih =>
    intro s h
    have hcanon : swf SecCtl.fresh (retainSector s k).osura.secs = true := by
      rw [retainSector_frame]
      exact State.modSec_canon h k SecCtl.retain
    rw [List.foldl_cons, ih hcanon, secCtl_retainSector h]
    by_cases hl : n ∈ l
    · simp [hl]
    · by_cases hk : n = k
      · simp [hk, SecCtl.retain]
      · simp [hl, hk]

theorem mem_foldl_retainSector {k p : Nat} (l : List Nat) : ∀ {s : State}, k ∈ l → s.psecOf k = some p →
    (34 + p, 2) ∈ (l.foldl retainSector s).pwr.reqs := by
  induction l with
  | nil => exact fun h => absurd h List.not_mem_nil
  | cons x l ih =>
    intro s hmem hp
    rw [List.foldl_cons]
    by_cases hx : k = x
    · subst hx
      exact (foldl_reqs_prefix retainSector_reqs l _).subset (mem_retainSector hp)
    · refine ih (List.mem_of_ne_of_mem hx hmem) ?_
      rw [retainSector_frame]
      exact hp

theorem foldl_retainSector_on {d : Nat} (hd : 102 ≤ d) (l : List Nat) : ∀ {s : State},
    (∀ k ∈ l, ∀ p, s.psecOf k = some p → p < 68) →
    sget false (l.foldl retainSector s).pwr.on d = sget false s.pwr.on d := by
  induction l with
  | nil => exact fun _ => rfl
  | cons k l ih =>
    intro s hsecs
    have hrest : ∀ x ∈ l, ∀ p, (retainSector s k).psecOf x = some p → p < 68 := fun x hx p => by
      rw [retainSector_frame]
      exact hsecs x (List.mem_cons_of_mem k hx) p
    rw [List.foldl_cons, ih hrest]
    exact retainSector_on (hsecs k List.mem_cons_self) hd

/-! ### What entry switches off (R429) -/

/-- The Lit sectors. -/
def State.litSectors (s : State) : List Nat := (upTo 64).filter (fun k => (s.secCtl k).st == .lit)

theorem State.mem_litSectors {s : State} {k : Nat} (hk : k < 64) : k ∈ s.litSectors ↔ (s.secCtl k).st = .lit := by
  simp [State.litSectors, hk]

/-- The flags of the clusters, as entry saves them. -/
def State.clusterFlags (s : State) : Sparse FlagSet :=
  s.lanes.foldl (fun m x => sset flagNone m x.1 x.2.flags) []

theorem State.sget_clusterFlags {s : State} (h : swf Lanes.fresh s.lanes = true) (p : Nat) :
    sget flagNone s.clusterFlags p = (s.lane p).flags :=
  (sget_foldl_image (g := Lanes.flags) rfl s.lanes p (swf_iff.1 h) rfl (fun _ _ => rfl)).trans (if_pos (Nat.zero_le p))

/-- The clusters that are on. -/
def State.clustersOn (s : State) : List Nat := (upTo 34).filter (fun p => sget false s.pwr.on p)

/-- The Lanterns and the parts of Tender that are on. -/
def State.unitsOn (s : State) : List Nat := (fromTo 102 6).filter (fun d => sget false s.pwr.on d)

/-- The registers of reset and Eclipse once entry has asked for power to go down. -/
def State.rstEntered (s : State) : Rst :=
  { s.rst with
    savedCl := s.clusterFlags, savedLn := s.ln.map (·.flags), wasOn := s.clustersOn, retained := s.litSectors
    eclipse := none, entered := true }

/-- Entry once it has asked for every sector to be retained. -/
def State.retaining (s : State) : State := s.litSectors.foldl retainSector { s with rst := s.rstEntered }

/-- What the blocks that are switched off leave behind: their flags are saved elsewhere, and their requests and counters
go. -/
def switchedOff (q : List AsyncReq) (c : Counters) (l : List Lantern) (s : State) : State :=
  { s with osura := { s.osura with q := q }, lanes := [], cnt := c, ln := l }

/-- Entry saves flags, retains the Lit sectors, and switches off what is on. -/
theorem enterEclipse_eq (s : State) : ∃ q c l, enterEclipse s =
    switchedOff q c l ((s.clustersOn ++ s.retaining.unitsOn).foldl (fun s d => s.powerAsk d 0) s.retaining) :=
  ⟨_, _, _, rfl⟩

theorem State.retaining_frame (s : State) : s.retaining = { s with
    rst := s.rstEntered, osura := { s.osura with secs := s.retaining.osura.secs }
    pwr := s.retaining.pwr, out := s.retaining.out } := foldl_retainSector_frame ..

/-- Entry asks for every retained sector and for every domain that was on. -/
theorem enterEclipse_spec {s : State} (hinv : s.Inv) (hsecs : ∀ k < 64, ∀ p, s.psecOf k = some p → p < 68) :
    (enterEclipse s).rst = s.rstEntered ∧ (enterEclipse s).clk = s.clk ∧
    (∀ k < 64, ((enterEclipse s).secCtl k).st = if (s.secCtl k).st = .lit then .retention else (s.secCtl k).st) ∧
    (∀ k < 64, (s.secCtl k).st = .lit → ∀ p, s.psecOf k = some p → (34 + p, 2) ∈ (enterEclipse s).pwr.reqs) ∧
    (∀ d, d < 34 ∨ (102 ≤ d ∧ d < 108) → sget false s.pwr.on d = true → (d, 0) ∈ (enterEclipse s).pwr.reqs) ∧
    (enterEclipse s).lanes = [] ∧ (enterEclipse s).osura.data = s.osura.data ∧ (enterEclipse s).buoys = s.buoys ∧
    (enterEclipse s).str = s.str ∧ (enterEclipse s).ring = s.ring ∧ (enterEclipse s).log = s.log ∧
    (enterEclipse s).kp = s.kp := by
  have hsec : ∀ k < 64, (s.retaining.secCtl k).st = if (s.secCtl k).st = .lit then .retention else (s.secCtl k).st := by
    intro k hk
    refine (secCtl_foldl_retainSector k s.litSectors (s := { s with rst := s.rstEntered }) hinv.secs).trans ?_
    simp only [State.mem_litSectors hk]
    rfl
  have hretain : ∀ k < 64, (s.secCtl k).st = .lit → ∀ p, s.psecOf k = some p → (34 + p, 2) ∈ s.retaining.pwr.reqs :=
    fun k hk hlit p hp => mem_foldl_retainSector _ ((State.mem_litSectors hk).2 hlit) hp
  have hon : ∀ d, 102 ≤ d → sget false s.retaining.pwr.on d = sget false s.pwr.on d := fun d hd =>
    foldl_retainSector_on hd _ (fun k hk => hsecs k (List.mem_range.1 (List.mem_filter.1 hk).1))
  have hoff : ∀ d, d < 34 ∨ (102 ≤ d ∧ d < 108) → sget false s.pwr.on d = true →
      d ∈ s.clustersOn ++ s.retaining.unitsOn := by
    rintro d (hd | ⟨hlo, hhi⟩) h
    · exact List.mem_append_left _ (List.mem_filter.2 ⟨List.mem_range.2 hd, h⟩)
    · exact List.mem_append_right _ (List.mem_filter.2 ⟨mem_fromTo.2 ⟨hlo, hhi⟩, (hon d hlo).trans h⟩)
  obtain ⟨q, c, l, heq⟩ := enterEclipse_eq s
  have hframe := s.retaining_frame
  generalize s.clustersOn ++ s.retaining.unitsOn = off at hoff heq
  generalize s.retaining = r at hsec hretain hframe heq
  rw [powerAsks_frame] at heq
  rw [heq]
  refine ⟨?_, ?_, hsec, fun k hk hlit p hp => List.mem_append_left _ (hretain k hk hlit p hp),
    fun d hd h => List.mem_append_right _ (List.mem_map_of_mem (hoff d hd h)), rfl, ?_, ?_, ?_, ?_, ?_, ?_⟩
  all_goals
    rw [hframe]
    rfl

end Sys2Proof.Machine

namespace Sys2Proof.Machine

/-! ### Wake (R430, R431, R476) -/

/-- Wake asks that a retained sector be resumed. -/
def resumeSector (s : State) (k : Nat) : State :=
  match s.psecOf k with
  | some p => s.powerAsk (secDom p) 3
  | none => s

theorem resumeSector_frame (s : State) (k : Nat) :
    resumeSector s k = { s with pwr := (resumeSector s k).pwr, out := (resumeSector s k).out } := by
  unfold resumeSector
  split <;> rfl

theorem resumeSector_reqs (s : State) (k : Nat) : s.pwr.reqs <+: (resumeSector s k).pwr.reqs := by
  unfold resumeSector
  split
  · exact List.prefix_append _ _
  · exact List.prefix_rfl

theorem mem_foldl_resumeSector {k p : Nat} (l : List Nat) : ∀ {s : State}, k ∈ l → s.psecOf k = some p →
    (34 + p, 3) ∈ (l.foldl resumeSector s).pwr.reqs := by
  induction l with
  | nil => exact fun h => absurd h List.not_mem_nil
  | cons x l ih =>
    intro s hmem hp
    rw [List.foldl_cons]
    by_cases hx : k = x
    · have hasks : resumeSector s x = s.powerAsk (secDom p) 3 := by
        rw [resumeSector, ← hx, hp]
      rw [hasks]
      exact (foldl_reqs_prefix resumeSector_reqs l _).subset (s.mem_powerAsk _ _)
    · refine ih (List.mem_of_ne_of_mem hx hmem) ?_
      rw [resumeSector_frame]
      exact hp

/-- With no ON outstanding in a wake, every retained sector is asked to resume (R431). -/
theorem wakeResume_asks {s : State} (hwake : s.rst.pstate = 3) (hfirst : s.rst.resumed = false)
    (hon : s.pwr.reqs.any (fun r => r.2 == 1) = false) :
    wakeResume s = s.rst.retained.foldl resumeSector { s with rst := { s.rst with resumed := true } } :=
  if_pos (by simp [hwake, hfirst, hon])

theorem wakeResume_waits {s : State} (h : s.pwr.reqs.any (fun r => r.2 == 1) = true) : wakeResume s = s :=
  if_neg (by simp [h])

theorem wakeResume_frame (s : State) : wakeResume s = { s with
    rst := { s.rst with resumed := (wakeResume s).rst.resumed }, pwr := (wakeResume s).pwr, out := (wakeResume s).out } ∧
    s.pwr.reqs <+: (wakeResume s).pwr.reqs := by
  have hfold := fun t => foldl_pwr resumeSector resumeSector_frame s.rst.retained t
  by_cases h : (s.rst.pstate = 3 && !s.rst.resumed && !s.pwr.reqs.any (fun r => r.2 == 1)) = true
  · have hasks : wakeResume s = s.rst.retained.foldl resumeSector { s with rst := { s.rst with resumed := true } } := if_pos h
    rw [hasks]
    refine ⟨by rw [hfold], ?_⟩
    exact foldl_reqs_prefix resumeSector_reqs _ { s with rst := { s.rst with resumed := true } }
  · have hsame : wakeResume s = s := if_neg h
    rw [hsame]
    exact ⟨rfl, List.prefix_rfl⟩

/-- The clock once it runs again, at the divisor that is requested (R476). -/
def Clk.restarted (c : Clk) : Clk := if c.stopped then { c with stopped := false, divNow := c.wanted, divTarget := none } else c

/-- What a wake powers up first: the clusters that were on, and the Lanterns and Tender. -/
def State.wakeDomains (s : State) : List Nat :=
  s.rst.wasOn ++ (fromTo 102 6).filter (fun d => !s.flt.fenced.contains (if d < 106 then (3, d - 102) else (4, d - 106)))

/-- A block that begins to wake. -/
def State.waking (s : State) : State :=
  { s with
    clk := s.clk.restarted
    rst := { s.rst with
      pstate := 3, entered := false, resumed := false, wakeSrc := s.rst.wakeHeld.getD s.rst.wakeSrc, wakeHeld := none } }

theorem startWake_eq (s : State) : startWake s = wakeResume (s.wakeDomains.foldl (fun s d => s.powerAsk d 1) s.waking) := rfl

/-- A wake asks for the domains that come first, and for the retained sectors at once only if there are none of those. -/
theorem startWake_spec {s : State} (hreqs : s.pwr.reqs = []) :
    (startWake s).rst = { s.waking.rst with resumed := (startWake s).rst.resumed } ∧
    (startWake s).clk = s.clk.restarted ∧ (∀ d ∈ s.wakeDomains, (d, 1) ∈ (startWake s).pwr.reqs) ∧
    (s.wakeDomains ≠ [] → (startWake s).rst.resumed = false ∧ ∀ r ∈ (startWake s).pwr.reqs, r.2 = 1) ∧
    startWake s = { s with
      rst := (startWake s).rst, clk := (startWake s).clk, pwr := (startWake s).pwr, out := (startWake s).out } := by
  have hasked := powerAsks_frame 1 s.wakeDomains s.waking
  have hmem : (s.wakeDomains.foldl (fun s d => s.powerAsk d 1) s.waking).pwr.reqs = s.wakeDomains.map (fun d => (d, 1)) := by
    rw [hasked, show s.waking.pwr.reqs = [] from hreqs]
    rfl
  rw [startWake_eq]
  generalize s.wakeDomains.foldl (fun s d => s.powerAsk d 1) s.waking = u at hasked hmem
  obtain ⟨hframe, hprefix⟩ := wakeResume_frame u
  refine ⟨?_, ?_, fun d hd => ?_, fun hne => ?_, ?_⟩
  · rw [hframe, hasked]
  · rw [hframe, hasked]
    rfl
  · exact hprefix.subset (by rw [hmem]; exact List.mem_map_of_mem hd)
  · obtain ⟨d, hd⟩ := List.exists_mem_of_ne_nil _ hne
    have hany : u.pwr.reqs.any (fun r => r.2 == 1) = true :=
      List.any_eq_true.2 ⟨(d, 1), by rw [hmem]; exact List.mem_map_of_mem hd, rfl⟩
    rw [wakeResume_waits hany, hmem]
    refine ⟨by rw [hasked]; rfl, fun r hr => ?_⟩
    obtain ⟨x, -, rfl⟩ := List.mem_map.1 hr
    rfl
  · rw [hframe, hasked]
    rfl

theorem exec_sbWake_noted {s : State} (h : s.rst.pstate = 1 ∨ s.rst.pstate = 2) :
    exec .sbWake s = .next { s with rst := { s.rst with wakeHeld := some true } } :=
  congrArg Host.Outcome.next (if_pos (by simpa using h))

theorem exec_sbWake_ignored {s : State} (h : s.rst.pstate = 0 ∨ s.rst.pstate = 3) : exec .sbWake s = .next s :=
  congrArg Host.Outcome.next (if_neg (by obtain h | h := h <;> simp [h]))

theorem exec_eclipseWake_starts {s : State} {sb : Bool} (hin : s.rst.pstate = 2) (hheld : s.rst.wakeHeld = some sb)
    (hreqs : s.pwr.reqs = []) : exec .eclipseWake s = .next (startWake s) :=
  if_pos (by simp [hin, hheld, hreqs])

theorem exec_eclipseWake_awake {s : State} (h : s.rst.pstate = 0 ∨ s.rst.pstate = 1) : exec .eclipseWake s = .next s := by
  show execEclipseWake s = _
  obtain h | h := h <;> simp [execEclipseWake, h]

theorem exec_eclipseWake_waits {s : State} (hwake : s.rst.pstate = 3) (hfirst : s.rst.resumed = false) :
    exec .eclipseWake s = .next s := by
  show execEclipseWake s = _
  simp [execEclipseWake, hwake, State.wakeWaits, hfirst]

theorem exec_eclipseWake_ends {s : State} (hwake : s.rst.pstate = 3) (hresumed : s.rst.resumed = true)
    (hreqs : s.pwr.reqs = []) : exec .eclipseWake s = .next (endWake s) := by
  show execEclipseWake s = _
  simp [execEclipseWake, hwake, State.wakeWaits, hresumed, hreqs]

/-- The last ON of a wake has the retained sectors resume (R431). -/
theorem exec_sbPowerAnswer_wakes {s : State} {d : BitVec 7} (hwake : s.rst.pstate = 3) (hfirst : s.rst.resumed = false)
    (hpor : s.rst.por = false) (hlo : 102 ≤ d.toNat) (hhi : d.toNat < 108) (hreqs : s.pwr.reqs = [(d.toNat, 1)])
    (hdue : s.pwr.offDue = []) (hswap : s.flt.swapFor = []) (hwanted : s.domUnwanted d.toNat = false) : ∃ t,
      exec (.sbPowerAnswer d false) s = .next t ∧ t.rst = { s.rst with resumed := true } ∧
      (∀ k ∈ s.rst.retained, ∀ p, s.psecOf k = some p → (34 + p, 3) ∈ t.pwr.reqs) ∧
      t = { s with rst := t.rst, pwr := t.pwr, out := t.out } := by
  have hnext : powerNext (s.powered d.toNat) = s.rst.retained.foldl resumeSector
      { s.powered d.toNat with rst := { s.rst with resumed := true } } := by
    rw [powerNext, clusterPump_none (by exact hdue) (by exact hswap)]
    exact wakeResume_asks hwake hfirst rfl
  rw [exec_sbPowerAnswer hpor hhi hreqs, if_neg Bool.false_ne_true, powerGood_on, State.domUnwanted_powered, hwanted,
    if_neg Bool.false_ne_true, if_neg (by omega), if_neg (by omega), hnext]
  refine ⟨_, rfl, ?_, fun k hk p hp => mem_foldl_resumeSector _ hk hp, ?_⟩
  · rw [foldl_pwr resumeSector resumeSector_frame]
  · rw [foldl_pwr resumeSector resumeSector_frame]
    rfl

/-! ### The end of a wake (R431) -/

/-- A sector is Lit with its contents. -/
def relightSector (s : State) (k : Nat) : State := s.modSec k (fun c => { c with st := .lit, scrubTick := s.clk.ticks })

theorem foldl_relightSector_frame (l : List Nat) : ∀ s : State, l.foldl relightSector s = { s with
    osura := { s.osura with secs := (l.foldl relightSector s).osura.secs } } := by
  induction l with
  | nil => exact fun _ => rfl
  | cons k l ih =>
    intro s
    rw [List.foldl_cons, ih]
    rfl

theorem secCtl_foldl_relightSector (n : Nat) (l : List Nat) : ∀ {s : State}, swf SecCtl.fresh s.osura.secs = true →
    (n ∈ l → ((l.foldl relightSector s).secCtl n).st = .lit) ∧ (n ∉ l → (l.foldl relightSector s).secCtl n = s.secCtl n) := by
  induction l with
  | nil => exact fun _ => ⟨fun h => absurd h List.not_mem_nil, fun _ => rfl⟩
  | cons k l ih =>
    intro s h
    obtain ⟨hin, hout⟩ := ih (s := relightSector s k) (State.modSec_canon h k _)
    have hread : ∀ m, (relightSector s k).secCtl m = _ := fun m => s.secCtl_modSec k m _ h
    rw [List.foldl_cons]
    refine ⟨fun hmem => ?_, fun hmem => ?_⟩
    · by_cases hl : n ∈ l
      · exact hin hl
      · have hk : n = k := (List.mem_cons.1 hmem).resolve_right hl
        rw [hout hl, hread, if_pos hk]
    · obtain ⟨hk, hl⟩ := not_or.1 (mt List.mem_cons.2 hmem)
      rw [hout hl, hread, if_neg hk]

/-- The flags of a cluster come back. -/
def restoreFlags (s : State) (x : Nat × FlagSet) : State := s.modLane x.1 (fun l => { l with flags := x.2 })

theorem foldl_restoreFlags_frame (l : Sparse FlagSet) : ∀ s : State, l.foldl restoreFlags s = { s with
    lanes := (l.foldl restoreFlags s).lanes } := by
  induction l with
  | nil => exact fun _ => rfl
  | cons x l ih =>
    intro s
    rw [List.foldl_cons, ih]
    rfl

theorem State.startPort_frame (s : State) (n : Nat) : s.startPort n = { s with
    ring := { s.ring with ports := (s.startPort n).ring.ports }, out := (s.startPort n).out } := by
  unfold State.startPort
  dsimp only
  split <;> rfl

theorem foldl_startPort_frame (l : List Nat) : ∀ s : State, l.foldl (fun s n => s.startPort n) s = { s with
    ring := { s.ring with ports := (l.foldl (fun s n => s.startPort n) s).ring.ports }
    out := (l.foldl (fun s n => s.startPort n) s).out } := by
  induction l with
  | nil => exact fun _ => rfl
  | cons n l ih =>
    intro s
    rw [List.foldl_cons, ih, State.startPort_frame]

/-- While the ring is off, no port starts. -/
theorem foldl_startPort_off (l : List Nat) : ∀ {s : State}, s.ring.en = false → l.foldl (fun s n => s.startPort n) s = s := by
  induction l with
  | nil => exact fun _ => rfl
  | cons n l ih =>
    intro s hoff
    have hsame : s.startPort n = s := State.startPort_waits (by simp [State.packetsOn, hoff])
    rw [List.foldl_cons, hsame, ih hoff]

/-- The registers of reset and Eclipse of a block that runs again. -/
def Rst.woken (r : Rst) : Rst := { r with pstate := 0, wasOn := [], retained := [], savedCl := [], savedLn := [] }

/-- The block with its sectors Lit and the flags of its clusters restored. -/
def State.relit (s : State) : State :=
  let s := s.rst.retained.foldl relightSector s
  s.rst.savedCl.foldl restoreFlags s

/-- The block as it runs again, before its ports start. -/
def State.woken (s : State) : State :=
  let s := s.relit
  { s with
    ln := s.ln.zipIdx.map (fun x => { x.1 with flags := s.rst.savedLn.getD x.2 flagNone })
    str := { s.str with stop := .blank, movRow := [(0, false), (0, false)], farFault := .blank }
    rst := s.rst.woken }

theorem State.relit_frame (s : State) : s.relit = { s with
    lanes := s.relit.lanes, osura := { s.osura with secs := (s.rst.retained.foldl relightSector s).osura.secs } } := by
  unfold State.relit
  dsimp only
  rw [foldl_restoreFlags_frame, foldl_relightSector_frame]

theorem State.woken_frame (s : State) : s.woken = { s with
    ln := s.ln.zipIdx.map (fun x => { x.1 with flags := s.rst.savedLn.getD x.2 flagNone })
    str := { s.str with stop := .blank, movRow := [(0, false), (0, false)], farFault := .blank }
    rst := s.rst.woken, lanes := s.relit.lanes
    osura := { s.osura with secs := (s.rst.retained.foldl relightSector s).osura.secs } } := by
  unfold State.woken
  dsimp only
  rw [State.relit_frame]

/-- Without a reset that waited for it, a wake ends with its ports. -/
theorem endWake_runs {s : State} (h : s.rst.resetHeld = false) :
    endWake s = (upTo 8).foldl (fun s n => s.startPort n) s.woken := by
  have hheld : s.woken.rst.resetHeld = false := by
    rw [State.woken_frame]
    exact h
  exact if_pos (congrArg Bool.not hheld)

/-- What a wake leaves. -/
theorem endWake_spec {s : State} (hinv : s.Inv) (h : s.rst.resetHeld = false) :
    (endWake s).rst = s.rst.woken ∧ (∀ k ∈ s.rst.retained, ((endWake s).secCtl k).st = .lit) ∧
    (∀ k, k ∉ s.rst.retained → (endWake s).secCtl k = s.secCtl k) ∧
    (∀ n < s.ln.length, ((endWake s).lan n).flags = s.rst.savedLn.getD n flagNone) ∧ (endWake s).str.stop = .blank ∧
    (endWake s).osura.data = s.osura.data ∧ (endWake s).buoys = s.buoys ∧
    (endWake s).ring = { s.ring with ports := (endWake s).ring.ports } ∧ (s.ring.en = false → (endWake s).ring = s.ring) ∧
    (endWake s).kp = s.kp := by
  have hsecs := fun k => secCtl_foldl_relightSector k s.rst.retained hinv.secs
  have hring : s.woken.ring = s.ring := by rw [State.woken_frame]
  rw [endWake_runs h]
  refine ⟨?_, fun k hk => ?_, fun k hk => ?_, fun n hn => ?_, ?_, ?_, ?_, ?_, fun hoff => ?_, ?_⟩
  case refine_9 => rw [foldl_startPort_off _ (by rw [hring]; exact hoff), hring]
  case refine_8 => rw [foldl_startPort_frame, hring]
  all_goals rw [foldl_startPort_frame, State.woken_frame]
  · exact (hsecs k).1 hk
  · exact (hsecs k).2 hk
  · simp [State.lan, hn]

end Sys2Proof.Machine

namespace Sys2Proof.Machine

/-! ### The test wrapper (R512, R513) -/

/-- What the wrapper relies on of a block reset. -/
theorem blockReset_wrapper (s : State) : (blockReset s).rst.ready = false ∧ (blockReset s).wrun = false ∧
    (blockReset s).kp.nextseq = 0 ∧ (blockReset s).osura.data = s.osura.data ∧ (blockReset s).dm = s.dm ∧
    (blockReset s).tw = s.tw ∧ (blockReset s).map = s.map := by
  obtain ⟨p, o, hkept⟩ := powerDown_frame s
  rw [blockReset, hkept]
  exact ⟨rfl, rfl, rfl, rfl, rfl, rfl, rfl⟩

section
variable {s : State} (hpor : s.rst.por = false) (hon : s.unitsOff = false)
include hpor hon

theorem resetNow_running : resetNow s = blockReset s := by
  rw [resetNow, if_neg (by simp [hpor]), assertReset_running hon]

/-- A test holds the block as in block reset. -/
theorem holdForTest_spec (code : Nat) : (holdForTest code s).rst.ready = false ∧
    (holdForTest code s).tw = ⟨true, code, true, true⟩ ∧ (holdForTest code s).wrun = false ∧
    (holdForTest code s).osura.data = s.osura.data ∧ (holdForTest code s).dm = s.dm ∧ (holdForTest code s).map = s.map := by
  obtain ⟨-, hwrun, -, hdata, hdm, -, hmap⟩ := blockReset_wrapper s
  rw [holdForTest, resetNow_running hpor hon]
  generalize blockReset s = t at hwrun hdata hdm hmap ⊢
  exact ⟨rfl, rfl, hwrun, hdata, hdm, hmap⟩

/-- The end of a held test is a block reset, after which the cluster BIST may need power. -/
theorem endTest_held (hheld : s.tw.held = true) : (endTest s).rst.ready = false ∧
    (endTest s).tw = { s.tw with held := false } ∧ (endTest s).wrun = false ∧ (endTest s).kp.nextseq = 0 ∧
    (endTest s).osura.data = s.osura.data ∧ (endTest s).dm = s.dm ∧ (endTest s).map = s.map := by
  obtain ⟨hready, hwrun, hseq, hdata, hdm, htw, hmap⟩ := blockReset_wrapper { s with tw := { s.tw with held := false } }
  rw [endTest, if_pos hheld, resetNow_running (by exact hpor) (by exact hon)]
  generalize blockReset { s with tw := { s.tw with held := false } } = t at hready hwrun hdata hseq hdm htw hmap ⊢
  dsimp only
  split
  · rw [repower_frame]
    exact ⟨hready, htw, hwrun, hseq, hdata, hdm, hmap⟩
  · exact ⟨hready, htw, hwrun, hseq, hdata, hdm, hmap⟩

end

theorem endTest_none {s : State} (h : s.tw.held = false) : endTest s = s := if_neg (by simp [h])

/-- WS_BYPASS and a fall of WRSTN end a test alike; only WRSTN tells them apart. -/
theorem exec_endsTest {c : Bool × Instr} (hc : c ∈ [(true, Instr.wsBypass), (false, Instr.wrstnFall)]) (s : State) :
    exec c.2 s = .next (endTest { s with tw := { s.tw with wrstn := c.1, wir := 0 } }) := by
  obtain rfl | rfl : c = (true, Instr.wsBypass) ∨ c = (false, Instr.wrstnFall) := by simpa using hc
  · rfl
  · rfl

theorem exec_holdsTest {c : Nat × Instr} (hc : c ∈ [(1, Instr.wsExtest), (2, Instr.wsIntest)]) (s : State) :
    exec c.2 s = .next (holdForTest c.1 s) := by
  obtain rfl | rfl : c = (1, Instr.wsExtest) ∨ c = (2, Instr.wsIntest) := by simpa using hc
  · rfl
  · rfl

/-! ### The Daymark's bits (R504) -/

/-- Words written out bit by bit, 32 to a word, give each bit in its place. -/
theorem getElem?_flatMap_bits (f : Word → Nat → Bool) (ws : List Word) : ∀ i : Nat,
    (ws.flatMap (fun w => (upTo 32).map (f w)))[i]? = (ws[i / 32]?).map (fun w => f w (i % 32)) := by
  induction ws with
  | nil => exact fun i => by simp
  | cons w ws ih =>
    intro i
    have hlen : ((upTo 32).map (f w)).length = 32 := by simp [upTo]
    rw [List.flatMap_cons]
    by_cases hi : i < 32
    · rw [List.getElem?_append_left (by omega), Nat.div_eq_of_lt hi, Nat.mod_eq_of_lt hi]
      simp [upTo, hi]
    · have hdiv : i / 32 = (i - 32) / 32 + 1 := by omega
      have hmod : i % 32 = (i - 32) % 32 := by omega
      rw [List.getElem?_append_right (by omega), hlen, ih, hdiv, hmod, List.getElem?_cons_succ]

section
variable {d : Daymark}

theorem Daymark.bits_length (h : d.words.length = 32) : d.bits.length = 1024 := by
  simp [Daymark.bits, upTo, h]

theorem Daymark.bits_unlocked (h : d.locked = false) : ∀ b ∈ d.bits, b = false := by
  simp [Daymark.bits, h]

/-- Bit `i` is bit `i % 32` of word `i / 32`. -/
theorem Daymark.bits_locked (h : d.locked = true) (i : Nat) :
    d.bits.getD i false = (d.words.getD (i / 32) 0#32).getLsbD (i % 32) := by
  rw [Daymark.bits, List.getD_eq_getElem?_getD, getElem?_flatMap_bits (fun w i => d.locked && w.getLsbD i),
    List.getD_eq_getElem?_getD]
  cases d.words[i / 32]? with
  | none => simp
  | some w => simp [h]

end

/-- Settles O12: entry, the discard that refuses an ECLIPSE, wake, and the wrapper, by their lemmas above. -/
theorem eclipseAndWrapper : Obligations.EclipseAndWrapper := by
  intro s hinv _
  refine ⟨exec_eclipseEntry_none, fun num hwaits hrun hon => ⟨fun hquiet hroom herrs => ?starts,
    exec_eclipseEntry_unquiet hwaits hrun hon⟩, fun num e rest hwaits herrs hkind huncovered hready hon hidle hev => ?fault,
    fun num hwaits hentry hon => exec_eclipseEntry_unwritten hwaits hentry hon,
    fun num hwaits hentry hon hready herrs hsecs => ?enters,
    fun hoff => ⟨exec_eclipseEntry_asking hoff, exec_eclipseEntry_stops hoff⟩, exec_sbWake_noted, exec_sbWake_ignored,
    fun sb hin hheld hreqs => ?wakes, fun d hwake hfirst hpor hlo hhi hreqs hdue hswap hwanted =>
      exec_sbPowerAnswer_wakes hwake hfirst hpor hlo hhi hreqs hdue hswap hwanted, exec_eclipseWake_waits,
    fun hwake hresumed hreqs hreset => ⟨_, exec_eclipseWake_ends hwake hresumed hreqs, endWake_spec hinv hreset⟩,
    exec_eclipseWake_awake, fun hpor hon c hc => ⟨_, exec_holdsTest hc s, holdForTest_spec hpor hon c.1⟩,
    fun hheld c hc => ?free, fun hheld hpor hon c hc => ⟨_, exec_endsTest hc s, ?held⟩, ?daymark⟩
  case starts =>
    refine ⟨_, exec_eclipseEntry_starts hwaits hrun hon hquiet hroom herrs, ?_, ?_, ?_⟩
    case refine_2 => exact State.settle_evq { s with rst := { s.rst with pstate := 1 } } num false
    all_goals rw [State.settle_frame]
  case fault =>
    exact exec_faultSequencerStart_eclipse hwaits herrs (by omega) (by omega) huncovered hready hon hidle hev
  case enters =>
    obtain ⟨hrst, hclk, hlit, hretain, hoff, hlanes, hdata, hbuoys, hstr, hring, hlog, hkp⟩ := enterEclipse_spec hinv hsecs
    obtain ⟨-, -, -, -, -, hcanon, -⟩ := hinv
    refine ⟨_, exec_eclipseEntry_enters hwaits hentry hon hready herrs, ?_, ?_, ?_, hclk, hlit, hretain, hoff, hlanes,
      fun p => ?_, ?_, hdata, hbuoys, hstr, hring, hlog, hkp⟩
    all_goals rw [hrst]
    · exact hentry
    · rfl
    · rfl
    · exact State.sget_clusterFlags hcanon p
    · rfl
  case wakes =>
    obtain ⟨hrst, hclk, hasked, honly, hframe⟩ := startWake_spec hreqs
    have hunit : ∀ d, 102 ≤ d → d < 108 → (if d < 106 then (3, d - 102) else (4, d - 106)) ∉ s.flt.fenced →
        (d, 1) ∈ (startWake s).pwr.reqs := fun d hlo hhi hup =>
      hasked d (List.mem_append_right _ (List.mem_filter.2 ⟨mem_fromTo.2 ⟨hlo, hhi⟩, by simpa using hup⟩))
    refine ⟨_, exec_eclipseWake_starts hin hheld hreqs, ?_, fun hstopped => ?_,
      fun d hd => hasked d (List.mem_append_left _ hd), fun d hlo hhi hup => hunit d hlo (by omega) ?_,
      fun d hlo hhi hup => hunit d (by omega) hhi ?_, fun hne => honly (List.append_ne_nil_of_left_ne_nil hne _), hframe⟩
    · rw [hrst, State.waking, hheld]
      rfl
    · rw [hclk, Clk.restarted, if_pos hstopped]
    · rw [if_pos hhi]
      exact hup
    · rw [if_neg (by omega)]
      exact hup
  case free => rw [exec_endsTest hc, endTest_none (by exact hheld)]
  case held =>
    obtain ⟨hready, htw, hwrun, hseq, hdata, hdm, hmap⟩ :=
      endTest_held (s := { s with tw := { s.tw with wrstn := c.1, wir := 0 } }) hpor hon hheld
    exact ⟨hready, htw, hwrun, hseq, hdata, hdm, hmap⟩
  case daymark =>
    obtain ⟨-, ⟨hwords, -, -⟩, -⟩ := hinv
    exact ⟨s.dm.bits, rfl, Daymark.bits_length hwords, Daymark.bits_unlocked, fun h i _ => Daymark.bits_locked h i⟩

end Sys2Proof.Machine
